-- ==== Sys2Proof/Word.lean ====
section
/-! DEFINITION. The word types: a byte, the 32-bit register and core word, a 64-bit scene-memory word. -/

namespace Sys2Proof

/-- One byte of scene memory, of a frame or of a message. -/
abbrev Byte := BitVec 8

/-- A unit register, a core register or a head-array word (R33). -/
abbrev Word := BitVec 32

/-- A sparse array: (index, entry) pairs, indexes strictly rising, no entry equal to what an unlisted index reads as. -/
abbrev SMap (α : Type) := List (Nat × α)

end Sys2Proof
end

