-- ==== Sys2Proof/Syntax.lean ====
section
/-! DEFINITION. The commands of the ILY-9624, one constructor per row of the table of operations and events. Their
operands are what the step names (a head, a core, an address, a value, a moment); the reading is logged (log 1).
A `t` is the Odometer root count at which the step happens (log 3); `h` a head, `k` a core, `e` a DMA engine,
`ms` the Rim masters whose reads meet in one Rim cycle (R40). -/

namespace Sys2Proof

/-- The masters of the Rim (R13): a DMA engine 0–7, a core (0–23 spoke, 24–31 pool) or the Vertik engine. -/
inductive Master where
  | dma (e : Nat)
  | core (k : Nat)
  | vertik
  deriving DecidableEq, Repr

/-- One Rim write: who, where (byte address), the value and the size in bytes (an aligned word is 4). -/
structure RimWrite where
  master : Master
  addr : Nat
  value : Word
  size : Nat
  deriving DecidableEq, Repr

/-- One access of a Hub requestor to one bank line: `data` none is a read of `len` bytes (R14, R43). -/
structure HubAccess where
  req : Nat
  off : Nat
  len : Nat
  data : Option (List Byte)
  deriving DecidableEq, Repr

/-- A decoded data leaf of a GOOSE frame (R84, R86): sizes are bits for a bit string, bytes otherwise. -/
inductive Leaf where
  | bool (b : Bool)
  | bitString (n v : Nat)
  | int (size : Nat) (v : Int)
  | uint (size v : Nat)
  | float (size v : Nat)
  | utc (sec frac : Nat)
  | unsupported
  deriving DecidableEq, Repr

/-- A GOOSE frame as IEC 61850-8-1 decodes it (R84, R87; log 13): `malformed` when its BER is, `vlan` its VID if tagged. -/
structure Goose where
  mac : Nat
  vlan : Option Nat
  appid : Nat
  length : Nat
  malformed : Bool
  gocbRef : List Byte
  ttl : Nat
  tSec : Nat
  tFrac : Nat
  stNum : Nat
  sqNum : Nat
  test : Bool
  confRev : Nat
  ndsCom : Bool
  entries : Nat
  security : Bool
  leaves : List Leaf
  /-- The frame's bytes, as the archive keeps them. -/
  raw : List Byte
  deriving DecidableEq, Repr

/-- A sampled-value ASDU of the 9-2LE profile as its standard decodes it (R90, R91; log 13). -/
structure SvAsdu where
  mac : Nat
  vlan : Option Nat
  appid : Nat
  malformed : Bool
  svId : List Byte
  smpCnt : Nat
  confRev : Nat
  smpSynch : Nat
  test : Bool
  security : Bool
  values : List Int
  qualities : List Nat
  /-- The frame's bytes, as the archive keeps them. -/
  raw : List Byte
  deriving DecidableEq, Repr

/-- A pixel position: head, frame, line and pixel (R9, R20). -/
structure PixelPos where
  head : Nat
  frame : Nat
  line : Nat
  pixel : Nat
  deriving DecidableEq, Repr

/-- A Vertik command as its COMMAND body states it (R288): session, seq, code, framed flag, apply_frame, the 16 path entries,
the arguments, and the message's arrival_time in ns (R269). -/
structure VtkCmd where
  session : Nat
  seq : Nat
  code : Nat
  framed : Bool
  frame : Nat
  path : List Nat
  args : List Byte
  arrival : Nat
  deriving DecidableEq, Repr

/-- The addressing modes of a core: immediate, own data memory, X, Y and SP with displacement, X + Y (R343). -/
inductive CMode where
  | imm
  | d
  | x
  | y
  | s
  | xy
  deriving DecidableEq, Repr

/-- A core register as an operand names it (R339). -/
inductive CReg where
  | a
  | x
  | y
  | sp
  | ps
  deriving DecidableEq, Repr

/-- The forms of MOV, destination first (R344). -/
inductive MovForm where
  | xa
  | ax
  | ya
  | ay
  | xsp
  | spx
  | yx
  | xy
  deriving DecidableEq, Repr

/-- Branch conditions in the order of the map, always first (R344, R345). -/
inductive Cond where
  | al
  | eq
  | ne
  | cs
  | cc
  | mi
  | pl
  | vs
  | vc
  | hi
  | ls
  | ge
  | lt
  | gt
  | le
  deriving DecidableEq, Repr

/-- A bundle of group commit (R253): its Peloton frame, the commands it carries, whether a Groupset apply is named for it, the
samples of wall sprites (sprite and its eight source words), new owners (sprite, member index), and membership changes
(member index, 0 join, 1 leave, 2 failure or withdrawal, 3 return). -/
structure PelBundle where
  frame : Nat
  cmds : List VtkCmd
  apply : Bool
  samples : List (Nat × List Nat)
  owners : List (Nat × Nat)
  members : List (Nat × Nat)
  deriving DecidableEq, Repr

/-- What a sink reports on a plug (R186, R192): DPCD 0x070, 0x071 bit 0 clear (training on exit required), PSR setup time in
ns, alternate scrambler seed reset supported. -/
structure SinkCaps where
  psrVersion : Nat
  exitTrain : Bool
  setup : Nat
  assr : Bool
  deriving DecidableEq, Repr

/-- How an AUX transaction ends (R188): ACK with the bytes read, NACK, DEFER exhausted, timeout. -/
inductive AuxReply where
  | ack (bytes : List Byte)
  | nack
  | deferred
  | timeout
  deriving DecidableEq, Repr

/-- An event of a head's sink (R186–R188, R198, R230): IRQ_HPD says whether a lane lost lock and whether PSR reports an error,
a training attempt whether it succeeded, a tearing-effect edge its root count. -/
inductive SinkEvent where
  | plug (c : SinkCaps)
  | irq (lost psrError : Bool)
  | unplug
  | training (ok : Bool)
  | aux (r : AuxReply)
  | te (edge : Nat)
  deriving DecidableEq, Repr

/-- A message of the Peloton as a member or the leader receives it (R245–R258). -/
inductive PelMsg where
  | joinAnswer (reason frame number leader : Nat) (path : List Nat)
  | claim (i : Nat) (held handed : Bool) (view : List (Nat × Nat × Nat))
  | prepare (b : PelBundle)
  | ready (m f : Nat)
  | commit (m f : Nat)
  | retarget (f : Nat)
  | returned (m r : Nat) (missed : List PelBundle) (words : List (Nat × List Nat)) (owners : List (Nat × Nat)) (resync : Bool)
  deriving DecidableEq, Repr

/-- An input carried in the journal (R230). -/
inductive JInput where
  /-- A GOOSE frame or SV ASDU received at a port at its arrival_time in ns. -/
  | goose (port : Nat) (arrival : Nat) (g : Goose)
  | sv (port : Nat) (arrival : Nat) (a : SvAsdu)
  /-- A Vertik message: port, arrival_time in ns and its bytes. -/
  | vertik (port : Nat) (arrival : Nat) (bytes : List Byte)
  /-- Field-line levels sampled at an edge. -/
  | fieldLines (edge : Nat) (levels : Nat)
  /-- TDM input samples of a tick. -/
  | tdm (tick : Nat) (samples : List Int)
  /-- An event of a head's sink. -/
  | sink (h : Nat) (e : SinkEvent)
  /-- A Saddlebag read's data; none for a read that failed. -/
  | readData (bytes : Option (List Byte))
  /-- A fault raised on chip `chip` (R417). -/
  | fault (chip source cls : Nat) (broken : Bool)
  /-- An apply request of chip frame F (R67). -/
  | apply (frame : Nat)
  /-- A Peloton message (R245). -/
  | peloton (m : PelMsg)
  /-- The twin has left lockstep by a divergence it found alone (R236). -/
  | diverged
  deriving DecidableEq, Repr

/-- A join request as the leader receives it (R22, R23, R245–R247): member index asked for, chips it brings, chips of the outermost
Peloton that lie outside this one, levels from its member index down to a layer, chip schedule, whether its guards meet R253 and its
authentication held. -/
structure JoinReq where
  index : Nat
  chips : Nat
  outside : Nat
  depth : Nat
  t0 : Nat
  tf : Nat
  guards : Bool
  auth : Bool
  deriving DecidableEq, Repr

/-- A Sync with the followed master's data (R270, R271, R276, R281): its port, the measured offset in ns, the grandmaster's
identity and inaccuracy in ns, whether this port's best master data is the better one, its currentUtcOffset when announced
valid, leap announcements, and the slew the servo applies in ppb, whose law the manual does not state (log 29). -/
structure PtpSync where
  port : Nat
  offset : Int
  gm : Nat
  inaccuracy : Nat
  better : Bool
  utc : Option Int
  leap61 : Bool
  leap59 : Bool
  slew : Int
  base : Int
  deriving DecidableEq, Repr

/-- The commands of the block: one constructor per row of the table of steps (95_what_each_step_holds.md). -/
inductive Instr where
  /-- REGISTER_WRITE (R11). -/
  | registerWrite (t : Nat) (ws : List RimWrite)
  /-- IGNORED_WRITES_READ (R37). -/
  | ignoredWritesRead (t b : Nat) (ms : List Master)
  /-- RIM_COLLISIONS_READ (R39). -/
  | rimCollisionsRead (t b : Nat) (ms : List Master)
  /-- HEAD_ARRAY_IGNORED_READ (R486). -/
  | headArrayIgnoredRead (t h : Nat) (ms : List Master)
  /-- HUB_ECC_CORR_READ (R44). -/
  | hubEccCorrRead (t : Nat) (ms : List Master)
  /-- HUB_ECC_UNCORR_READ (R45). -/
  | hubEccUncorrRead (t : Nat) (ms : List Master)
  /-- HUB_WRITE_DENIED_READ (R43). -/
  | hubWriteDeniedRead (t : Nat) (ms : List Master)
  /-- RIM_UNMAPPED_READ (R31). -/
  | rimUnmappedRead (t : Nat) (ms : List Master)
  /-- HUB_HEAD_MARGIN_READ (R55). -/
  | hubHeadMarginRead (t h : Nat) (ms : List Master)
  /-- HUB_SLOT_ACCESS (R14). -/
  | hubSlotAccess (k bank : Nat) (a : HubAccess)
  /-- SCRUB_READ (R47). -/
  | scrubRead (t bank : Nat)
  /-- ECC_WRITE_BACK (R50). -/
  | eccWriteBack (t bank : Nat)
  /-- HARD_WORD_REREAD (R48). -/
  | hardWordReread (t bank : Nat) (again : Bool)
  /-- SPARE_REPAIR_COPY (R48). -/
  | spareRepairCopy (t bank : Nat)
  /-- SPARE_TAKEOVER (R48). -/
  | spareTakeover (t bank : Nat)
  /-- FETCH_LINE_START (R52). -/
  | fetchLineStart (t h n y : Nat)
  /-- FETCH_DATA_ARRIVE (R52). -/
  | fetchDataArrive (t h n y off : Nat)
  /-- FETCH_LINE_DROP (R52). -/
  | fetchLineDrop (t h n y : Nat)
  /-- TRACE_BUILD_START (R125). -/
  | traceBuildStart (t h tr n : Nat)
  /-- LL_ERRS_READ (R119). -/
  | llErrsRead (t h l : Nat) (ms : List Master)
  /-- TT_STATUS_READ (R126). -/
  | ttStatusRead (t h tr : Nat) (ms : List Master)
  /-- SPR_LINE_STATUS_READ (R140). -/
  | sprLineStatusRead (t h : Nat) (ms : List Master)
  /-- SPR_ERRS_READ (R140). -/
  | sprErrsRead (t h : Nat) (ms : List Master)
  /-- SPR_IGNORED_READ (R147). -/
  | sprIgnoredRead (t h : Nat) (ms : List Master)
  /-- PIXEL_LOOKUP (R150). -/
  | pixelLookup (t h n y x : Nat)
  /-- PIXEL_SEND (R184): `a` and `b` are the pixels a disturbance has left in copies A and B, none where there was none (R161). -/
  | pixelSend (t h n y x : Nat) (a b : Option (Nat × Nat × Nat))
  /-- CMP_MISMATCH_READ (R161). -/
  | cmpMismatchRead (t h : Nat) (ms : List Master)
  /-- FRAME_START (R166). -/
  | frameStart (t h n : Nat) (take : Bool)
  /-- CHIP_FRAME_START (R67). -/
  | chipFrameStart (t n : Nat)
  /-- LATCH_POINT (R168). -/
  | latchPoint (t h n : Nat)
  /-- BEAM_COMMIT (R169). -/
  | beamCommit (t h : Nat)
  /-- BEAM_COMMIT_CANCEL (R171). -/
  | beamCommitCancel (t h : Nat)
  /-- COMMIT_FRAME_WRITE (R170). -/
  | commitFrameWrite (t h f : Nat)
  /-- BEAM_STATUS_READ (R170). -/
  | beamStatusRead (t h : Nat) (ms : List Master)
  /-- LINE_EVENT_FIRE (R179). -/
  | lineEventFire (t h k : Nat)
  /-- BEAM_EVENT_MISSED_READ (R180). -/
  | beamEventMissedRead (t h : Nat) (ms : List Master)
  /-- CADENCE_ENTRY_DUE (R176). -/
  | cadenceEntryDue (t h : Nat)
  /-- CADENCE_WRITE (R176). -/
  | cadenceWrite (t h : Nat)
  /-- CAD_ERRS_READ (R176). -/
  | cadErrsRead (t h : Nat) (ms : List Master)
  /-- CAD_BAD_READ (R174). -/
  | cadBadRead (t h : Nat) (ms : List Master)
  /-- HEAD_STATE_REQUEST (R190). -/
  | headStateRequest (t h : Nat) (w : Word)
  /-- PSR_SDP_SEND (R193). -/
  | psrSdpSend (t h : Nat)
  /-- HPD_PLUG (R186). -/
  | hpdPlug (t h : Nat) (c : SinkCaps)
  /-- HPD_IRQ (R186). -/
  | hpdIrq (t h : Nat) (lost psrError : Bool)
  /-- HPD_UNPLUG (R186). -/
  | hpdUnplug (t h : Nat)
  /-- TRAINING_ATTEMPT_END (R187). -/
  | trainingAttemptEnd (t h : Nat) (ok : Bool)
  /-- AUX_REQUEST (R188). -/
  | auxRequest (t h : Nat) (w : Word)
  /-- AUX_COMPLETE (R188). -/
  | auxComplete (t h : Nat) (r : AuxReply)
  /-- AUX_DEFER_RETRY (R188). -/
  | auxDeferRetry (t h : Nat)
  /-- TE_EDGE (R198). -/
  | teEdge (t h : Nat)
  /-- TE_SILENT (R198). -/
  | teSilent (t h : Nat)
  /-- TX_UNDERRUN_READ (R196). -/
  | txUnderrunRead (t h : Nat) (ms : List Master)
  /-- MIRROR_PACKET_SEND (R199). -/
  | mirrorPacketSend (t h n : Nat) (seg : Option (Nat × Nat))
  /-- MIRROR_PACKET_RECEIVE (R201). -/
  | mirrorPacketReceive (t : Nat) (bytes : List Byte)
  /-- SOURCE_ABSENT (R202). -/
  | sourceAbsent (t h : Nat)
  /-- TX_REMOTE_RING_READ (R202). -/
  | txRemoteRingRead (t h : Nat) (ms : List Master)
  /-- LINE_DIGEST_COMPLETE (R208). -/
  | lineDigestComplete (t h n y : Nat)
  /-- BAND_SEAL_COMPLETE (R211). -/
  | bandSealComplete (t h n k : Nat)
  /-- RECORD_SIGNED (R219). -/
  | recordSigned (t : Nat)
  /-- CHAIN_QUEUE_PEAK_READ (R219). -/
  | chainQueuePeakRead (t : Nat) (ms : List Master)
  /-- GOOSE_FRAME (R87). -/
  | gooseFrame (t port : Nat) (g : Goose)
  /-- SV_ASDU (R90). -/
  | svAsdu (t port : Nat) (a : SvAsdu)
  /-- SUPERVISION_CHECK (R89). -/
  | supervisionCheck (t : Nat)
  /-- SV_STREAM_TIMEOUT (R93). -/
  | svStreamTimeout (t v : Nat)
  /-- ING_INIT (R78). -/
  | ingInit (t : Nat)
  /-- INIT_FILL_COMPLETE (R78). -/
  | initFillComplete (t : Nat)
  /-- ING_DISCARD_READ (R87). -/
  | ingDiscardRead (t r : Nat) (ms : List Master)
  /-- RULE_EVALUATION (R98). -/
  | ruleEvaluation (t : Nat)
  /-- ACTION_WRITE (R100). -/
  | actionWrite (t n : Nat)
  /-- PHOTON_RECORD (R106). -/
  | photonRecord (t i : Nat)
  /-- FIELD_LINE_EFFECT (R107). -/
  | fieldLineEffect (t i : Nat)
  /-- DER_REEVAL (R104). -/
  | derReeval (t p : Nat)
  /-- REEVAL_ALL (R104). -/
  | reevalAll (t : Nat)
  /-- DERAILLEUR_DISABLE (R104). -/
  | derailleurDisable (t : Nat)
  /-- DER_SKIPPED_READ (R99). -/
  | derSkippedRead (t : Nat) (ms : List Master)
  /-- DER_ARRAY_COLLISIONS_READ (R15). -/
  | derArrayCollisionsRead (t : Nat) (ms : List Master)
  /-- DER_QUEUE_PEAK_READ (R82). -/
  | derQueuePeakRead (t : Nat) (ms : List Master)
  /-- GS_STAGE_PTR_WRITE (R61). -/
  | gsStagePtrWrite (t n : Nat)
  /-- GS_STAGE_DATA_WRITE (R61). -/
  | gsStageDataWrite (t : Nat) (w : Word)
  /-- GS_CTRL_CHECK (R64). -/
  | gsCtrlCheck (t : Nat)
  /-- GS_CTRL_ABORT (R75). -/
  | gsCtrlAbort (t : Nat)
  /-- GS_APPLY_FRAME_WRITE (R67). -/
  | gsApplyFrameWrite (t frame : Nat)
  /-- GS_CHECK_COMPLETE (R66). -/
  | gsCheckComplete (t : Nat)
  /-- UNIT_SWAP (R68). -/
  | unitSwap (t type num : Nat)
  /-- HEAD_SWAP_LOAD_DONE (R69). -/
  | headSwapLoadDone (t h : Nat)
  /-- CORE_PARK (R71). -/
  | corePark (t k : Nat)
  /-- CORE_LOAD_DONE (R71). -/
  | coreLoadDone (t k : Nat)
  /-- GS_CLASH_READ (R63). -/
  | gsClashRead (t : Nat) (ms : List Master)
  /-- JOURNAL_ENTRY_RELEASE (R231). -/
  | journalEntryRelease (t : Nat) (e : Option (Nat × JInput))
  /-- SEAL_COMPARE (R236). -/
  | sealCompare (t h : Nat) (twin : List Byte) (twinMis twinBist twinHalt : Bool)
  /-- TAKE_NET_CHANGE (R239). -/
  | takeNetChange (t h : Nat)
  /-- TAKE_NET_DISAGREE (R238). -/
  | takeNetDisagree (t h : Nat) (high : Bool)
  /-- TANDEM_TAKE_REQ (R239). -/
  | tandemTakeReq (t heads : Nat)
  /-- TWIN_LOST (R240). -/
  | twinLost (t : Nat)
  /-- TWIN_LINK_FAIL (R240). -/
  | twinLinkFail (t : Nat)
  /-- HELD_FRAME_EXPIRE (R233). -/
  | heldFrameExpire (t : Nat)
  /-- TANDEM_START_ROLE (R229). -/
  | tandemStartRole (t twin : Nat)
  /-- TANDEM_REJOIN (R242). -/
  | tandemRejoin (t : Nat) (fromTwin : Bool) (digest : List Byte) (auth : Bool)
  /-- TANDEM_HANDOVER (R241). -/
  | tandemHandover (t : Nat)
  /-- REJOIN_TIME_TIMEOUT (R243). -/
  | rejoinTimeTimeout (t : Nat)
  /-- STATE_COPY_COMPLETE (R244). -/
  | stateCopyComplete (t : Nat) (blocks : List (Nat × List Byte)) (words : List (Nat × Word))
  /-- CUTOVER_HOLD_START (R244). -/
  | cutoverHoldStart (t : Nat) (words : List (Nat × Word)) (queue : List (List Byte)) (cores : List (Nat × List Byte))
      (locals : List (Nat × Nat × List Byte)) (voices : List (Nat × List Int))
  /-- CUTOVER_HOLD_END (R244). -/
  | cutoverHoldEnd (t : Nat)
  /-- TANDEM_JOURNAL_READ (R232). -/
  | tandemJournalRead (t : Nat) (ms : List Master)
  /-- TANDEM_DIVERGE_READ (R236). -/
  | tandemDivergeRead (t : Nat) (ms : List Master)
  /-- PELOTON_JOIN (R247). -/
  | pelotonJoin (t : Nat) (req : Option JoinReq)
  /-- JOIN_ANSWER (R246). -/
  | joinAnswer (t reason frame number leader : Nat) (path : List Nat)
  /-- PELOTON_LEAVE (R246). -/
  | pelotonLeave (t frame : Nat)
  /-- PELOTON_BEAT (R250). -/
  | pelotonBeat (t : Nat) (answers : List (Nat × Int))
  /-- LEADER_CLAIM (R250). -/
  | leaderClaim (t i : Nat) (held handed : Bool) (view : List (Nat × Nat × Nat))
  /-- BUNDLE_CLOSE (R253). -/
  | bundleClose (t : Nat) (b : PelBundle)
  /-- PREPARE_RECEIVE (R253). -/
  | prepareReceive (t : Nat) (b : PelBundle)
  /-- READY (R253). -/
  | ready (t m f : Nat)
  /-- BUNDLE_DECIDE (R256). -/
  | bundleDecide (t : Nat)
  /-- COMMIT_RECEIVE (R253). -/
  | commitReceive (t m f : Nat)
  /-- RETARGET_RECEIVE (R256). -/
  | retargetReceive (t f : Nat)
  /-- BUNDLE_ARM (R254). -/
  | bundleArm (t f : Nat)
  /-- ACK_DEADLINE (R257). -/
  | ackDeadline (t : Nat)
  /-- RETURN_REQUEST (R258). -/
  | returnRequest (t m r : Nat) (missed : List PelBundle) (words : List (Nat × List Nat)) (owners : List (Nat × Nat)) (resync : Bool)
  /-- MEMBER_FAIL (R258). -/
  | memberFail (t m : Nat)
  /-- PEL_COMMIT_STATS_READ (R255). -/
  | pelCommitStatsRead (t : Nat) (ms : List Master)
  /-- PEL_SPRITE_OWN_READ (R262). -/
  | pelSpriteOwnRead (t : Nat) (ms : List Master)
  /-- FRAME_RECEIVE (R266). -/
  | frameReceive (t p : Nat) (codeword fcs room : Bool) (b : List Byte)
  /-- PRP_ENTRY_EXPIRE (R268). -/
  | prpEntryExpire (t mac : Nat)
  /-- PRP_SUPERVISION_SEND (R267). -/
  | prpSupervisionSend (t : Nat)
  /-- ETH_LINK_CHANGE (R264). -/
  | ethLinkChange (t p : Nat) (up : Bool)
  /-- ETH_PRP_READ (R268). -/
  | ethPrpRead (t p : Nat) (ms : List Master)
  /-- ETH_RX_DROP_READ (R266). -/
  | ethRxDropRead (t p r : Nat) (ms : List Master)
  /-- PTP_SYNC (R276). -/
  | ptpSync (t : Nat) (y : PtpSync)
  /-- PDELAY_REQ_SEND (R270). -/
  | pdelayReqSend (t p : Nat) (delay : Option Int)
  /-- PDELAY_REQ_RECEIVE (R270). -/
  | pdelayReqReceive (t p : Nat)
  /-- ANNOUNCE_TIMEOUT (R271). -/
  | announceTimeout (t p : Nat) (other : Bool)
  /-- FIRST_LOCK (R275). -/
  | firstLock (t target : Nat)
  /-- ODO_SET (R275). -/
  | odoSet (t ns : Nat)
  /-- ODO_FORGET (R278). -/
  | odoForget (t : Nat)
  /-- ODO_SNAP (R282). -/
  | odoSnap (t : Nat)
  /-- LEAP_SECOND (R281). -/
  | leapSecond (t : Nat)
  /-- HELLO (R285). -/
  | hello (t p : Nat) (msg : List Byte)
  /-- AUTH (R286). -/
  | auth (t p : Nat) (msg : List Byte)
  /-- AUTH_TIMEOUT (R286). -/
  | authTimeout (t n : Nat)
  /-- CLOSE (R287). -/
  | close (t p : Nat) (msg : List Byte)
  /-- SESSION_TIMEOUT (R287). -/
  | sessionTimeout (t n : Nat)
  /-- COMMAND (R296). -/
  | command (t p : Nat) (msg : List Byte)
  /-- VTK_NOP (R291). -/
  | vtkNop (t : Nat)
  /-- STATUS_READ (R291). -/
  | statusRead (t : Nat)
  /-- REG_READ (R292). -/
  | regRead (t : Nat)
  /-- REG_WRITE (R292). -/
  | regWrite (t : Nat)
  /-- REG_WRITE_MASKED (R291). -/
  | regWriteMasked (t : Nat)
  /-- MEM_READ (R293). -/
  | memRead (t : Nat)
  /-- MEM_WRITE (R293). -/
  | memWrite (t : Nat)
  /-- MEM_FILL (R293). -/
  | memFill (t : Nat)
  /-- POINT_WRITE (R94). -/
  | pointWrite (t : Nat)
  /-- POINT_FORCE (R95). -/
  | pointForce (t : Nat)
  /-- POINT_RELEASE (R95). -/
  | pointRelease (t : Nat)
  /-- POINT_READ (R291). -/
  | pointRead (t : Nat)
  /-- COMMIT (R298). -/
  | commit (t : Nat)
  /-- HEAD_STATE (R298). -/
  | headState (t : Nat)
  /-- GS_STAGE (R294). -/
  | gsStage (t : Nat)
  /-- GS_CHECK (R294). -/
  | gsCheck (t : Nat)
  /-- GS_APPLY (R294). -/
  | gsApply (t : Nat)
  /-- GS_ABORT (R294). -/
  | gsAbort (t : Nat)
  /-- LEASE_TAKE (R303). -/
  | leaseTake (t : Nat)
  /-- LEASE_RENEW (R303). -/
  | leaseRenew (t : Nat)
  /-- LEASE_RELEASE (R303). -/
  | leaseRelease (t : Nat)
  /-- LEASE_EXPIRE (R303). -/
  | leaseExpire (t : Nat)
  /-- UNLOCK (R295). -/
  | unlock (t : Nat)
  /-- UNLOCK_TIMEOUT (R295). -/
  | unlockTimeout (t n : Nat)
  /-- RESTORE_FACTORY (R440). -/
  | restoreFactory (t : Nat)
  /-- DEVICE_RESET (R460). -/
  | deviceReset (t : Nat)
  /-- ATTEST (R437). -/
  | attest (t : Nat)
  /-- SETTINGS_WRITE (R436). -/
  | settingsWrite (t : Nat)
  /-- LOCK (R436). -/
  | lock (t : Nat)
  /-- ROLLBACK_ADVANCE (R434). -/
  | rollbackAdvance (t : Nat)
  /-- CAL_WRITE (R439). -/
  | calWrite (t : Nat)
  /-- CAL_READ (R436). -/
  | calRead (t : Nat)
  /-- VTK_UNKNOWN_COMMAND (R291). -/
  | vtkUnknownCommand (t : Nat)
  /-- FRAMED_APPLY (R298). -/
  | framedApply (t : Nat)
  /-- VTK_ORDER_READ (R302). -/
  | vtkOrderRead (t : Nat) (ms : List Master)
  /-- VTK_ILLEGAL_READ (R296). -/
  | vtkIllegalRead (t r : Nat) (ms : List Master)
  /-- BLT_QUEUE_WR_WRITE (R305). -/
  | bltQueueWrWrite (t q v : Nat)
  /-- BLITTER_COMMAND_TAKE (R306). -/
  | blitterCommandTake (t : Nat)
  /-- BLT_NOP (R307). -/
  | bltNop (t : Nat)
  /-- BLT_COPY (R310). -/
  | bltCopy (t : Nat)
  /-- BLT_FILL (R311). -/
  | bltFill (t : Nat)
  /-- BLITTER_WAIT_END (R316). -/
  | blitterWaitEnd (t : Nat)
  /-- BLITTER_COMPLETE (R309). -/
  | blitterComplete (t : Nat)
  /-- BLT_QUEUE_CANCEL (R319). -/
  | bltQueueCancel (t q : Nat)
  /-- BLT_QUEUE_RESUME (R309). -/
  | bltQueueResume (t q : Nat)
  /-- AUDIO_TICK (R320). -/
  | audioTick (t : Nat) (ins : List Int)
  /-- CUE_COMMAND (R324). -/
  | cueCommand (t cue arg : Nat) (action : Bool)
  /-- ENVELOPE_SEGMENT_END (R322). -/
  | envelopeSegmentEnd (t v : Nat)
  /-- ENVELOPE_HOLD_EXPIRE (R322). -/
  | envelopeHoldExpire (t v : Nat)
  /-- CLIP_END (R321). -/
  | clipEnd (t v : Nat)
  /-- BELL_XP_DATA_WRITE (R332). -/
  | bellXpDataWrite (t gain mode : Nat)
  /-- BELL_SINK_WRITE (R332). -/
  | bellSinkWrite (t k bus mode : Nat)
  /-- BELL_BUS_GAIN_WRITE (R332). -/
  | bellBusGainWrite (t b gain : Nat)
  /-- CROSSFADE_END (R332). -/
  | crossfadeEnd (t kind n : Nat)
  /-- ZERO_CUT (R332). -/
  | zeroCut (t kind n : Nat)
  /-- TDM_LOCK (R335). -/
  | tdmLock (t p rate : Nat)
  /-- TDM_UNLOCK (R335). -/
  | tdmUnlock (t p rate : Nat)
  /-- BELL_ERRS_READ (R326). -/
  | bellErrsRead (t : Nat) (ms : List Master)
  /-- BELL_BUS_READ (R329). -/
  | bellBusRead (t b : Nat) (ms : List Master)
  /-- NOP (R345). -/
  | nop (t k : Nat)
  /-- WAIT (R345). -/
  | wait (t k : Nat)
  /-- TRAP (R353). -/
  | trap (t k code : Nat)
  /-- IRET (R352). -/
  | iret (t k : Nat)
  /-- DIS_N (R345). -/
  | disN (t k : Nat)
  /-- EN_N (R345). -/
  | enN (t k : Nat)
  /-- DIS_F (R345). -/
  | disF (t k : Nat)
  /-- EN_F (R345). -/
  | enF (t k : Nat)
  /-- CLR_C (R345). -/
  | clrC (t k : Nat)
  /-- SET_C (R345). -/
  | setC (t k : Nat)
  /-- UNLINK (R345). -/
  | unlink (t k : Nat)
  /-- FENCE (R345). -/
  | fence (t k : Nat)
  /-- DBGBRK (R450). -/
  | dbgbrk (t k : Nat)
  /-- LD (R348). -/
  | ld (t k : Nat) (r : CReg) (m : CMode) (v : Nat)
  /-- LDU (R345). -/
  | ldu (t k : Nat) (r : CReg) (v : Nat)
  /-- ST (R345). -/
  | st (t k : Nat) (r : CReg) (m : CMode) (v : Nat)
  /-- LD_B (R345). -/
  | ldB (t k : Nat) (m : CMode) (v : Nat)
  /-- LD_H (R345). -/
  | ldH (t k : Nat) (m : CMode) (v : Nat)
  /-- ST_B (R345). -/
  | stB (t k : Nat) (m : CMode) (v : Nat)
  /-- ST_H (R345). -/
  | stH (t k : Nat) (m : CMode) (v : Nat)
  /-- ADD (R345). -/
  | addA (t k : Nat) (m : CMode) (v : Nat)
  /-- ADDC (R345). -/
  | addc (t k : Nat) (m : CMode) (v : Nat)
  /-- SUB (R345). -/
  | subA (t k : Nat) (m : CMode) (v : Nat)
  /-- SUBC (R345). -/
  | subc (t k : Nat) (m : CMode) (v : Nat)
  /-- AND (R345). -/
  | andA (t k : Nat) (m : CMode) (v : Nat)
  /-- OR (R345). -/
  | orA (t k : Nat) (m : CMode) (v : Nat)
  /-- XOR (R345). -/
  | xorA (t k : Nat) (m : CMode) (v : Nat)
  /-- CMP (R345). -/
  | cmp (t k : Nat) (m : CMode) (v : Nat)
  /-- TEST (R345). -/
  | testA (t k v : Nat)
  /-- MOV (R345). -/
  | mov (t k : Nat) (f : MovForm)
  /-- INC (R345). -/
  | inc (t k : Nat) (r : CReg)
  /-- DEC (R345). -/
  | dec (t k : Nat) (r : CReg)
  /-- NEG (R345). -/
  | neg (t k : Nat)
  /-- NOT (R345). -/
  | notA (t k : Nat)
  /-- SHL (R345). -/
  | shl (t k : Nat) (byX : Bool) (v : Nat)
  /-- SHR (R345). -/
  | shr (t k : Nat) (byX : Bool) (v : Nat)
  /-- SAR (R345). -/
  | sar (t k : Nat) (byX : Bool) (v : Nat)
  /-- ROR (R345). -/
  | ror (t k : Nat) (byX : Bool) (v : Nat)
  /-- MUL (R345). -/
  | mul (t k : Nat)
  /-- MULHU (R345). -/
  | mulhu (t k : Nat)
  /-- MULHS (R345). -/
  | mulhs (t k : Nat)
  /-- CMP_X (R345). -/
  | cmpX (t k : Nat) (r : CReg) (v : Nat)
  /-- ADD_X (R345). -/
  | addX (t k : Nat) (r : CReg) (v : Nat)
  /-- BR (R345). -/
  | br (t k : Nat) (c : Cond) (v : Nat)
  /-- LOOP (R345). -/
  | loopX (t k v : Nat)
  /-- JMP (R345). -/
  | jmp (t k : Nat) (byX : Bool) (v : Nat)
  /-- CALL (R345). -/
  | call (t k : Nat) (byX : Bool) (v : Nat)
  /-- RET (R345). -/
  | ret (t k : Nat)
  /-- PUSH (R345). -/
  | push (t k : Nat) (r : CReg)
  /-- POP (R345). -/
  | pop (t k : Nat) (r : CReg)
  /-- LL (R354). -/
  | ll (t k : Nat) (y : Bool) (v : Nat)
  /-- SC (R355). -/
  | sc (t k : Nat) (y : Bool) (v : Nat)
  /-- WRALT (R345). -/
  | wralt (t k v : Nat)
  /-- RDALT (R345). -/
  | rdalt (t k v : Nat)
  /-- CPWR (R357). -/
  | cpwr (t k slot v : Nat)
  /-- CPRD (R357). -/
  | cprd (t k slot v : Nat)
  /-- DIVU (R358). -/
  | divu (t k v : Nat)
  /-- DIVS (R358). -/
  | divs (t k v : Nat)
  /-- MACS (R358). -/
  | macs (t k v : Nat)
  /-- MACU (R358). -/
  | macu (t k v : Nat)
  /-- MSUS (R358). -/
  | msus (t k v : Nat)
  /-- CLR (R358). -/
  | clr (t k v : Nat)
  /-- CLZ (R358). -/
  | clz (t k v : Nat)
  /-- POPC (R358). -/
  | popc (t k v : Nat)
  /-- EXTU (R358). -/
  | extu (t k v : Nat)
  /-- EXTS (R358). -/
  | exts (t k v : Nat)
  /-- INS (R358). -/
  | ins (t k v : Nat)
  /-- REV (R358). -/
  | rev (t k v : Nat)
  /-- SNAP (R358). -/
  | snap (t k v : Nat)
  /-- WAITUNTIL (R358). -/
  | waituntil (t k v : Nat)
  /-- WAITUNTIL_EXPIRE (R358). -/
  | waituntilExpire (t k : Nat)
  /-- ILLEGAL_INSTRUCTION (R342). -/
  | illegalInstruction (t k : Nat) (w : Word)
  /-- CORE_STORE_DRAIN (R42). -/
  | coreStoreDrain (t k : Nat)
  /-- FAST_INTERRUPT_ENTRY (R351). -/
  | fastInterruptEntry (t k : Nat)
  /-- NORMAL_INTERRUPT_ENTRY (R351). -/
  | normalInterruptEntry (t k : Nat)
  /-- SOURCE_EDGE (R361). -/
  | sourceEdge (t i : Nat)
  /-- SOURCE_LEVEL_CHANGE (R361). -/
  | sourceLevelChange (t i : Nat)
  /-- INTC_CLAIM_READ (R364). -/
  | intcClaimRead (t k : Nat) (ms : List Master)
  /-- INTC_EOI_WRITE (R365). -/
  | intcEoiWrite (t k id : Nat) (m : Master)
  /-- INTC_FAST_EOI_WRITE (R368). -/
  | intcFastEoiWrite (t k : Nat) (m : Master)
  /-- INTC_DOORBELL_WRITE (R360). -/
  | intcDoorbellWrite (t k b : Nat)
  /-- INTC_MERGED_READ (R361). -/
  | intcMergedRead (t : Nat) (ms : List Master)
  /-- INTC_EOI_BAD_READ (R365). -/
  | intcEoiBadRead (t k : Nat) (ms : List Master)
  /-- TIMER_MATCH (R376). -/
  | timerMatch (t ch : Nat)
  /-- TMR_COUNT_WRITE (R374). -/
  | tmrCountWrite (t ch v : Nat)
  /-- TMR_COMPARE_WRITE (R375). -/
  | tmrCompareWrite (t ch v : Nat)
  /-- TMR_SNAP (R379). -/
  | tmrSnap (t channels : Nat)
  /-- COUNTER_LO_READ (R378). -/
  | counterLoRead (t a : Nat) (ms : List Master)
  /-- FILTER_ACCEPT (R383). -/
  | filterAccept (t n : Nat)
  /-- FL_CAP_POP_READ (R385). -/
  | flCapPopRead (t n : Nat) (ms : List Master)
  /-- FL_STATUS_READ (R384). -/
  | flStatusRead (t n : Nat) (ms : List Master)
  /-- DIRECTION_CHANGE_END (R382). -/
  | directionChangeEnd (t n : Nat)
  /-- OUTPUT_SHORT (R388). -/
  | outputShort (t n : Nat)
  /-- SHORT_RETRY (R388). -/
  | shortRetry (t n : Nat) (ok : Bool)
  /-- DMA_CH_START (R392). -/
  | dmaChStart (t e c : Nat)
  /-- DMA_CHANNEL_TAKE (R392). -/
  | dmaChannelTake (t e : Nat)
  /-- DMA_DESCRIPTOR_FETCH (R396). -/
  | dmaDescriptorFetch (t e : Nat)
  /-- DMA_DESCRIPTOR_COMPLETE (R394). -/
  | dmaDescriptorComplete (t e : Nat)
  /-- DMA_CHANNEL_DISABLE (R395). -/
  | dmaChannelDisable (t e written got : Nat)
  /-- DMA_RESUME (R396). -/
  | dmaResume (t e : Nat)
  /-- ARCHIVE_ENTRY (R402). -/
  | archiveEntry (t : Nat) (room : Bool) (twin : Option (Nat × Nat × Nat × List Byte))
  /-- STAGING_DRAIN (R402). -/
  | stagingDrain (t : Nat)
  /-- DRIVE_WRITE_COMPLETE (R399). -/
  | driveWriteComplete (t n : Nat)
  /-- SEGMENT_CLOSE (R403). -/
  | segmentClose (t : Nat)
  /-- SB_FLUSH (R403). -/
  | sbFlush (t : Nat)
  /-- KEYFRAME_START (R405). -/
  | keyframeStart (t : Nat) (write : Bool)
  /-- KEYFRAME_HOLD (R405). -/
  | keyframeHold (t : Nat) (ends : Bool)
  /-- SB_FREEZE (R406). -/
  | sbFreeze (t : Nat)
  /-- SB_UNFREEZE (R406). -/
  | sbUnfreeze (t i : Nat)
  /-- SB_ADOPT (R399). -/
  | sbAdopt (t : Nat)
  /-- SB_READ_START (R407). -/
  | sbReadStart (t : Nat) (w : Word)
  /-- SB_READ_COMPLETE (R407). -/
  | sbReadComplete (t : Nat) (data : Option (List Byte))
  /-- DRIVE_TIMEOUT (R399). -/
  | driveTimeout (t d : Nat)
  /-- DRIVE_INSERT (R399). -/
  | driveInsert (t d lbas lbaSize : Nat) (own : Bool) (gen width : Nat)
  /-- DRIVE_REMOVE (R399). -/
  | driveRemove (t d : Nat)
  /-- REBUILD_COMPLETE (R399). -/
  | rebuildComplete (t d : Nat)
  /-- SB_STATUS_READ (R402). -/
  | sbStatusRead (t : Nat) (ms : List Master)
  /-- SB_DRIVE_READ (R398). -/
  | sbDriveRead (t d : Nat) (ms : List Master)
  /-- SB_KEY_READ (R405). -/
  | sbKeyRead (t : Nat) (ms : List Master)
  /-- FAULT_RAISE (R410). -/
  | faultRaise (t i : Nat) (broken : Bool)
  /-- FAULT_ACTION_COMPLETE (R414). -/
  | faultActionComplete (t : Nat)
  /-- QUIET_PERIOD_END (R415). -/
  | quietPeriodEnd (t c : Nat)
  /-- FAULT_RELEASE (R415). -/
  | faultRelease (t : Nat)
  /-- FAULT_CLEAR_RECOVERY (R415). -/
  | faultClearRecovery (t : Nat)
  /-- FAULT_INJECT_WRITE (R421). -/
  | faultInjectWrite (t : Nat) (w : Word)
  /-- FAULT_QUEUE_READ (R416). -/
  | faultQueueRead (t : Nat) (ms : List Master)
  /-- FAULT_SRC_READ (R411). -/
  | faultSrcRead (t j : Nat) (ms : List Master)
  /-- WDOG_KICK (R419). -/
  | wdogKick (t k : Nat) (key : Word) (m : Master)
  /-- WATCHDOG_BITE (R419). -/
  | watchdogBite (t k : Nat)
  /-- WATCHDOG_HALT_EXPIRE (R420). -/
  | watchdogHaltExpire (t k : Nat)
  /-- BOOT_START (R431). -/
  | bootStart (t : Nat) (wraps : List (Option (List Byte)))
  /-- BOOT_SOURCE_FAIL (R431). -/
  | bootSourceFail (t : Nat) (unreadable : Bool)
  /-- NETWORK_BOOT_TIMEOUT (R433). -/
  | networkBootTimeout (t : Nat)
  /-- OTP_PROGRAM_COMPLETE (R425). -/
  | otpProgramComplete (t : Nat) (ok : Bool)
  /-- PEER_AUTH (R429). -/
  | peerAuth (t : Nat) (twin : Bool) (peerKey endorsement peerNonce sig : List Byte)
  /-- SEC_CAL_READ (R439). -/
  | secCalRead (t : Nat) (ms : List Master)
  /-- EXTEST (R442). -/
  | extest (t : Nat)
  /-- SAMPLE_PRELOAD (R442). -/
  | samplePreload (t : Nat)
  /-- IDCODE (R442). -/
  | idcode (t : Nat)
  /-- BYPASS (R442). -/
  | bypass (t : Nat)
  /-- TAP_AUTH (R443). -/
  | tapAuth (t : Nat) (body : List Byte)
  /-- DEBUG_SESSION_CLOSE (R444). -/
  | debugSessionClose (t : Nat)
  /-- DBG_NOP (R445). -/
  | dbgNop (t : Nat)
  /-- DBG_HALT (R448). -/
  | dbgHalt (t k data : Nat)
  /-- DBG_RESUME (R448). -/
  | dbgResume (t k data : Nat)
  /-- DBG_STEP (R448). -/
  | dbgStep (t k : Nat)
  /-- DBG_READ (R446). -/
  | dbgRead (t k a : Nat)
  /-- DBG_WRITE (R446). -/
  | dbgWrite (t k a : Nat) (w : Word)
  /-- DBG_REG_READ (R445). -/
  | dbgRegRead (t k j : Nat)
  /-- DBG_REG_WRITE (R445). -/
  | dbgRegWrite (t k j : Nat) (w : Word)
  /-- COMP_WRITE (R449). -/
  | compWrite (t k a data : Nat)
  /-- GROUP_WRITE (R451). -/
  | groupWrite (t k data : Nat)
  /-- DBG_RESERVED_OP (R445). -/
  | dbgReservedOp (t : Nat)
  /-- HALT_TAKEN (R448). -/
  | haltTaken (t k : Nat)
  /-- CROSS_TRIGGER (R451). -/
  | crossTrigger (t : Nat)
  /-- TAP_RESET (R444). -/
  | tapReset (t : Nat)
  /-- POWER_REQUEST (R454). -/
  | powerRequest (t v : Nat)
  /-- PARK_SEQUENCE (R455). -/
  | parkSequence (t : Nat) (frame : Bool)
  /-- WAKE (R456). -/
  | wake (t id : Nat)
  /-- PLL_LOCK (R452). -/
  | pllLock (t : Nat)
  /-- PLL_LOSS (R452). -/
  | pllLoss (t : Nat) (reference : Bool)
  /-- POWER_UP (R460). -/
  | powerUp (t : Nat)
  /-- PORST_ASSERT (R460). -/
  | porstAssert (t : Nat)
  /-- RAIL_OUT_OF_RANGE (R460). -/
  | railOutOfRange (t : Nat) (lost : Bool)
  /-- RESET_RELEASE (R461). -/
  | resetRelease (t balls twin : Nat) (fails : List (Nat × Nat)) (ms : Nat)
  /-- BIST_COMPLETE (R463). -/
  | bistComplete (t : Nat) (fails : List (Nat × Nat)) (ms : Nat)
  /-- SENSOR_READ (R473). -/
  | sensorRead (t : Nat) (rs : List (Option Int))
  /-- AGEING_MEASURE (R476). -/
  | ageingMeasure (t : Nat) (margins : List Nat) (hourly : Bool)
  /-- CPR_TEMP_MAX_READ (R473). -/
  | cprTempMaxRead (t : Nat) (ms : List Master)
  /-- FIELD_LINE_SAMPLE_EDGE (R380). -/
  | fieldLineSampleEdge (t ext lvl twin : Nat)
  /-- FAULT_SOURCE_NO_FAULT (R409). -/
  | faultSourceNoFault (t i : Nat)
  /-- TWIN_LINK_UP (R242). -/
  | twinLinkUp (t : Nat)
  /-- TWIN_TIME_TRANSFER (R234). -/
  | twinTimeTransfer (t : Nat) (offset : Int)
  /-- BOOT_IMAGE_DELIVERED (R431). -/
  | bootImageDelivered (t : Nat) (image : List Word) (key : Option (List Byte))
  /-- USER_CALIBRATION_WRITTEN (R439). -/
  | userCalibrationWritten (t : Nat)
  deriving DecidableEq, Repr

end Sys2Proof
end

