-- ==== Sys2Proof/Config.lean ====
section
/-! DEFINITION. What the spec leaves open or does not publish: free values, indexed by the state's free-value counter
or by the operands they depend on. None has a body: a claim holds whatever they are. -/

namespace Sys2Proof

/-- What the code does with three or more bit errors, by their pattern (R44): 0 uncorrectable, 1 a wrong correction, else clean
(log 7). -/
opaque Config.eccOutcome : Nat → BitVec 2
/-- The bit a wrong correction of that pattern turns over (R44, log 7). -/
opaque Config.eccBit : Nat → Nat
/-- Fresh random bytes: nonces and challenges (R285, R295, R429, R443; log 8). -/
opaque Config.freeByte : Nat → Nat → Byte
/-- A free word, for a result the spec does not state (log 8). -/
opaque Config.freeWord : Nat → Word
/-- Whether a root mean square that is no binary64 value is rounded up, its rounding unstated (R92, log 14): channel and samples. -/
opaque Config.rmsUp : Nat → List Int → Bool
/-- The root mean square of a cycle without samples, which the spec does not state (R92, log 14): channel. -/
opaque Config.rmsNone : Nat → BitVec 64
/-- Channel layout and sample width of a head's audio stream as the Bell section of the image with this digest fixes them, their place
in the section unstated (R197, log 111): bits 1 and 0 the layout, bit 2 the width. -/
opaque Config.audioForm : List Byte → Nat → BitVec 3
/-- Whether a head's mirror stream leaves by port B outside PRP mode, and the bytes of its UDP destination, as the image with this
digest sets them, their place in it unstated (R199, log 112). -/
opaque Config.mirrorPortB : List Byte → Nat → Bool
opaque Config.mirrorDest : List Byte → Nat → List Byte
/-- Factory MAC address of a port, its place in the factory calibration block unstated (R228, R424, log 108). -/
opaque Config.factoryMac : Nat → BitVec 48
/-- The Boot ROM's contents, byte by byte: the manual does not publish them (R435, log 10). -/
opaque Config.bootRom : Nat → Byte
/-- The 4 KiB header of an archive segment, its layout unstated (R401, log 26): segment number, chip index, seq and time of its
first entry. -/
opaque Config.segmentHeader : Nat → Nat → Nat → Nat → List Byte
/-- Level of a pad that nothing drives and no keeper holds, at a root count on a line: the manual gives none (R380, R386, log 122). -/
opaque Config.floatLevel : Nat → Nat → Bool
/-- The status summary STATUS_READ returns, its layout unstated (R291, log 43). -/
opaque Config.statusSummary : Nat → List Byte

end Sys2Proof
end

