-- ==== Sys2Proof/Machine/Bits.lean ====
section
/-! DEFINITION. Bit fields, sign extension, byte order (R6) and saturation, on naturals and words. -/

namespace Sys2Proof.Machine

/-- Bits [hi:lo] of a natural. -/
def bits (n hi lo : Nat) : Nat := n / 2 ^ lo % 2 ^ (hi + 1 - lo)

/-- Bit b of a natural. -/
def bit (n b : Nat) : Bool := n / 2 ^ b % 2 == 1

/-- A bit as a number. -/
def b2n (b : Bool) : Nat := if b then 1 else 0

/-- Bits [hi:lo] of a word. -/
def getBits (w : Word) (hi lo : Nat) : Nat := bits w.toNat hi lo

/-- The mask of bits [hi:lo]. -/
def fieldMask (hi lo : Nat) : Word := BitVec.ofNat 32 (2 ^ (hi + 1 - lo) - 1) <<< lo

/-- A word with bits [hi:lo] replaced by v. -/
def setBits (w : Word) (hi lo v : Nat) : Word :=
  (w &&& ~~~ fieldMask hi lo) ||| (BitVec.ofNat 32 v <<< lo &&& fieldMask hi lo)

/-- A natural with bit b set or cleared. -/
def setBit (n b : Nat) (v : Bool) : Nat :=
  if bit n b then (if v then n else n - 2 ^ b) else (if v then n + 2 ^ b else n)

/-- The w-bit two's-complement value of a natural. -/
def signed (w n : Nat) : Int :=
  let m := n % 2 ^ w
  if m < 2 ^ (w - 1) then (m : Int) else (m : Int) - (2 ^ w : Nat)

/-- An integer reduced to w bits. -/
def wrap (w : Nat) (i : Int) : Nat := (i % ((2 ^ w : Nat) : Int)).toNat

/-- n + k, at most the largest w-bit value. -/
def satAdd (w n k : Nat) : Nat := min (n + k) (2 ^ w - 1)

/-- An integer kept within [lo, hi]. -/
def clamp (lo hi i : Int) : Int := max lo (min hi i)

/-- The natural of little-endian bytes (R6). -/
def leNat : List Byte → Nat
  | [] => 0
  | b :: bs => b.toNat + 256 * leNat bs

/-- n little-endian bytes of v (R6). -/
def natLe : Nat → Nat → List Byte
  | 0, _ => []
  | n + 1, v => BitVec.ofNat 8 v :: natLe n (v / 256)

/-- The natural of big-endian bytes. -/
def beNat (bs : List Byte) : Nat := leNat bs.reverse

/-- n big-endian bytes of v. -/
def natBe (n v : Nat) : List Byte := (natLe n v).reverse

/-- `len` bytes of a list from `off`, 0 beyond its end. -/
def slice (bs : List Byte) (off len : Nat) : List Byte :=
  let t := (bs.drop off).take len
  t ++ List.replicate (len - t.length) 0

/-- Little-endian field of `len` bytes at `off`. -/
def leAt (bs : List Byte) (off len : Nat) : Nat := leNat (slice bs off len)

/-- Big-endian field of `len` bytes at `off`. -/
def beAt (bs : List Byte) (off len : Nat) : Nat := beNat (slice bs off len)

/-- Replace the byte of a list at an index. -/
def putBytes (bs : List Byte) (off : Nat) (new : List Byte) : List Byte :=
  bs.take off ++ new.take (bs.length - off) ++ bs.drop (off + new.length)

/-- Number of set bits among the low n. -/
def popCount : Nat → Nat → Nat
  | 0, _ => 0
  | n + 1, v => b2n (bit v n) + popCount n v

/-- The set bits among the low n, rising. -/
def setBitsOf (n v : Nat) : List Nat := (List.range n).filter (bit v ·)

/-- The lowest set bit among the low n. -/
def firstBit (n v : Nat) : Option Nat := (setBitsOf n v).head?

/-- ASCII bytes of a short name. -/
def ascii (s : String) : List Byte := s.toList.map fun c => BitVec.ofNat 8 c.toNat

/-- Quotient rounded up. -/
def ceilDiv (a b : Nat) : Nat := (a + b - 1) / b

/-- Arithmetic shift right of an integer. -/
def asr (i : Int) (n : Nat) : Int := i.fdiv ((2 ^ n : Nat) : Int)

end Sys2Proof.Machine
end

