-- ==== Sys2Proof/Machine/RegMap.lean ====
section
/-! DEFINITION. The Rim register map: every unit register of the spec's register tables, its address, its fields
and their access codes (R10, R11, R31, R37). `R.<NAME>` is a register's address (the _LO address of a 64-bit one),
`F.<NAME>.<field>` a field of it. A field whose name is a Lean word is spelt differently: class is cls, the field numbering a unit is inst,
open is opened, section is sect, match is hit, seal is sealed. -/

namespace Sys2Proof.Machine

/-- The unit blocks of R31. -/
inductive UnitKind where
  | Groupset
  | EthPort
  | Odometer
  | VertikU
  | IngestU
  | DerailleurU
  | HeadU
  | Chain
  | TandemU
  | PelotonU
  | BlitterU
  | BellU
  | Intc
  | DmaU
  | Timers
  | SaddlebagU
  | FaultU
  | Security
  | DebugU
  | ClockU
  | Kickstand
  | HubU
  deriving DecidableEq, Repr

/-- The registers of the spec by name; 64-bit pairs are one register. -/
inductive RegId where
  | U_UNIT_ID
  | U_IGNORED_WRITES
  | U_RIM_COLLISIONS
  | ARRAY_IGNORED
  | HUB_CTRL
  | HUB_STATUS
  | HUB_SCRUB_PASS
  | HUB_ECC_CORR
  | HUB_ECC_UNCORR
  | HUB_ECC_LAST_ADDR
  | HUB_ECC_LAST_SRC
  | HUB_REPAIR_STATUS
  | HUB_WRITE_DENIED
  | RIM_UNMAPPED
  | HUB_HEAD_MARGIN
  | HUB_SCHED_SEL
  | HUB_SCHED_DATA
  | GS_CTRL
  | GS_STATUS
  | GS_STAGE_PTR
  | GS_STAGE_DATA
  | GS_APPLY_FRAME
  | GS_REJECT
  | GS_CLASH
  | GS_MODE_SUMMARY
  | GS_SECURITY_VERSION
  | GS_UNIT_VERSION
  | GS_ACTIVE_DIGEST
  | ING_CTRL
  | ING_STATUS
  | ING_PLACE
  | ING_RX_GOOSE
  | ING_RX_SV
  | ING_POINT_WRITES
  | ING_LAST_DISCARD
  | ING_SUB_STATE
  | ING_DISCARD
  | DER_CTRL
  | DER_STATUS
  | DER_PLACE
  | DER_PHOTON
  | DER_PHOTON_WR
  | DER_REEVAL
  | DER_EVALS
  | DER_ACTIONS
  | DER_SKIPPED
  | DER_ARRAY_COLLISIONS
  | DER_QUEUE_PEAK
  | DER_LAST_SKIP
  | LL_CTRL
  | LL_MAP_BASE
  | LL_PATTERN_BASE
  | LL_ORIGIN_X
  | LL_ORIGIN_Y
  | LL_MAP_X0
  | LL_MAP_Y0
  | LL_SCROLL_TABLE
  | LL_TILE_RANGE
  | LL_PAL_RANGE
  | LL_FR_BASE
  | LL_POISON
  | LL_ERRS
  | TT_CTRL
  | TT_SHAPE
  | TT_LAG
  | TT_WIN_X
  | TT_WIN_Y
  | TT_POISON
  | TT_STATUS
  | TT_GAIN
  | TT_COLOUR
  | SPR_CTRL
  | SPR_BUDGET
  | SPR_ORIGIN_X
  | SPR_ORIGIN_Y
  | SPR_PAL_RANGE
  | SPR_WALL
  | SPR_POISON
  | SPR_LINE_STATUS
  | SPR_ERRS
  | SPR_LAST_DROP
  | SPR_IGNORED
  | CMP_CTRL
  | CMP_BACKDROP
  | CMP_LAYER
  | CMP_SPRITE
  | CMP_TRACE
  | CMP_MISMATCH
  | CMP_MISMATCH_PIX
  | BEAM_N
  | BEAM_H
  | BEAM_HSYNC
  | BEAM_V
  | BEAM_VSYNC
  | BEAM_T0
  | BEAM_TF
  | BEAM_FRAME
  | BEAM_POS
  | BEAM_COMMIT
  | BEAM_COMMIT_FRAME
  | BEAM_STATUS
  | BEAM_LAST_COMMIT
  | BEAM_EVENT
  | BEAM_EVENT_MISSED
  | BEAM_IRQ
  | CAD_CTRL
  | CAD_BASE
  | CAD_ERRS
  | CAD_BAD
  | CAD_LAST_BAD
  | TX_CTRL
  | TX_STATUS
  | TX_LINK
  | TX_MVID
  | TX_NVID
  | TX_UNDERRUN
  | TX_UNDERRUN_PIX
  | TX_TE
  | TX_TE_PHASE
  | TX_TE_TIME
  | TX_FW_WATCH
  | TX_MIRROR
  | TX_REMOTE
  | TX_REMOTE_SRC
  | TX_REMOTE_RING
  | TX_TEST
  | TX_TEST_COLOUR
  | TX_IRQ
  | TX_AUX_CTRL
  | TX_AUX_DATA
  | CHAIN_CTRL
  | CHAIN_STATUS
  | CHAIN_RING
  | CHAIN_BAND_RING
  | CHAIN_REC_WR
  | CHAIN_BAND_WR
  | CHAIN_SIGNED
  | CHAIN_QUEUE_PEAK
  | SEAL_CTRL
  | SEAL_STATUS
  | SEAL_FRAME
  | SEAL_FSEAL
  | SEAL_NEXT_PREV
  | TANDEM_CTRL
  | TANDEM_STATUS
  | TANDEM_OWN
  | TANDEM_TAKE_REQ
  | TANDEM_JOURNAL
  | TANDEM_DIVERGE
  | TANDEM_LAST_TAKE
  | TANDEM_LAST_TAKE_FRAME
  | TANDEM_IRQ
  | PEL_CTRL
  | PEL_STATUS
  | PEL_SELF
  | PEL_GUARD
  | PEL_APPLIED
  | PEL_COMMIT_STATS
  | PEL_WALL_X
  | PEL_WALL_Y
  | PEL_WALL_SRC
  | PEL_SPRITE_OWN
  | PEL_GENLOCK
  | PEL_GENLOCK_SELF
  | PEL_IRQ
  | ETH_CTRL
  | ETH_MODE
  | ETH_STATUS
  | ETH_ADDR
  | ETH_MIRROR_PORT
  | ETH_PTP_ASYM
  | ETH_PTP_DELAY
  | ETH_PRP
  | ETH_RX_DROP
  | ETH_VLAN
  | ETH_MCAST
  | ODO_CTRL
  | ODO_STATUS
  | ODO_TIME
  | ODO_SET
  | ODO_SNAP_ROOT
  | ODO_SNAP_NS
  | ODO_SNAP_SEC
  | ODO_SNAP_SUB
  | ODO_OFFSET
  | ODO_FREQ
  | ODO_SERVO
  | ODO_UTC
  | ODO_GM
  | ODO_GM_INACC
  | VTK_CTRL
  | VTK_STATUS
  | VTK_OPEN
  | VTK_ORDER
  | VTK_ILLEGAL
  | VTK_SESSION
  | VTK_IRQ
  | BLT_STATUS
  | BLT_Q_BASE
  | BLT_Q_CTRL
  | BLT_Q_WR
  | BLT_Q_RD
  | BLT_LAST_ERR
  | BLT_PIXELS
  | BLT_IRQ
  | BELL_CTRL
  | BELL_STATUS
  | BELL_CUE_CMD
  | BELL_CUE_BASE
  | BELL_XP_SEL
  | BELL_XP_DATA
  | BELL_ERRS
  | BELL_IRQ
  | BELL_VOICE_SEL
  | BELL_VOICE_STATE
  | BELL_TICK
  | BELL_VOICE_OWN
  | BELL_TDM
  | BELL_TDM_STATUS
  | BELL_SINK
  | BELL_BUS
  | BELL_BUS_GAIN
  | INTC_CTRL
  | INTC_MERGED
  | INTC_DOORBELL
  | INTC_WAKE
  | INTC_WAKE_CAUSE
  | INTC_WAKE_FIELD
  | INTC_CLAIM
  | INTC_EOI
  | INTC_FAST_ID
  | INTC_FAST_EOI
  | INTC_CORE_CTRL
  | INTC_RUNNING
  | INTC_EOI_BAD
  | INTC_PRIV_EN
  | INTC_PRIV_PEND
  | INTC_SRC
  | TMR_CTRL
  | TMR_STATUS
  | TMR_COUNT
  | TMR_COMPARE
  | TMR_PERIOD
  | TMR_CH_SNAP
  | TMR_SNAP
  | TMR_SNAP_TIME
  | FL_CFG
  | FL_STATUS
  | FL_CAP_TIME
  | FL_CAP_POP
  | FL_OUT
  | FL_OUT_SET
  | FL_OUT_CLR
  | FL_LEVEL
  | FL_SHORT
  | DMA_CTRL
  | DMA_STATUS
  | DMA_ERR_ADDR
  | DMA_ERR_INFO
  | DMA_PERMIT
  | DMA_CH_CTRL
  | DMA_CH_DESC
  | DMA_CH_STATUS
  | DMA_CH_CUR
  | SB_CTRL
  | SB_STATUS
  | SB_DRIVE
  | SB_SEQ
  | SB_FREEZE_START
  | SB_FREEZE_END
  | SB_READ_LBA
  | SB_READ_DST
  | SB_READ_CTRL
  | SB_REPLAY
  | SB_KEY
  | SB_IRQ
  | FAULT_CTRL
  | FAULT_STATUS
  | FAULT_LAST
  | FAULT_LAST_TIME
  | FAULT_QUEUE
  | FAULT_QUIET
  | FAULT_RECOVERY
  | FAULT_STOP_LOG
  | FAULT_INJECT
  | WDOG_CTRL
  | WDOG_KICK
  | WDOG_STATUS
  | FAULT_SRC
  | SEC_STATE
  | SEC_BOOT
  | SEC_PROG
  | SEC_IRQ
  | SEC_CAL
  | SEC_ID
  | SEC_RKEY
  | SEC_FACTORY_SEL
  | SEC_FACTORY_DATA
  | DBG_SESSION
  | DBG_HALTED
  | DBG_CORE
  | CPR_CTRL
  | CPR_STATUS
  | CPR_BIST
  | KICK_RESET_CAUSE
  | KICK_NEXT_START
  | CPR_TEMP
  | CPR_TEMP_MAX
  | CPR_AGE
  | CPR_AGE_SUMMARY
  deriving DecidableEq, Repr

/-- Access codes of R11. -/
inductive Acc where
  | rw | ro | wo | w1c | w1s | rc | rsv
  deriving DecidableEq, Repr

/-- A field of a register: bits [hi:lo], its access code, whether only the host writes it (R30), and
whether the Groupset section of its unit gives its value (R56). -/
structure FSpec where
  hi : Nat
  lo : Nat
  acc : Acc
  host : Bool
  gs : Bool
  deriving DecidableEq, Repr

/-- A register (array): its offset in the unit block, `n1` × stride `st1`, inner `n2` × stride `st2`. -/
structure RSpec where
  id : RegId
  off : Nat
  n1 : Nat
  st1 : Nat
  n2 : Nat
  st2 : Nat
  wide : Bool
  fields : List FSpec
  deriving DecidableEq, Repr

/-- A named field of one register word: its address and its bits [hi:lo]. -/
structure Fld where
  reg : Nat
  hi : Nat
  lo : Nat
  deriving DecidableEq, Repr

/-- <U>_UNIT_ID (02 R37) of the unit block at `base`. -/
def R.U_UNIT_ID (base : Nat) : Nat := base + 0xff0
def F.U_UNIT_ID.unit_code (base : Nat) : Fld := ⟨R.U_UNIT_ID base, 31, 16⟩
def F.U_UNIT_ID.inst (base : Nat) : Fld := ⟨R.U_UNIT_ID base, 15, 8⟩
def F.U_UNIT_ID.revision (base : Nat) : Fld := ⟨R.U_UNIT_ID base, 7, 0⟩
/-- <U>_IGNORED_WRITES (02 R37) of the unit block at `base`. -/
def R.U_IGNORED_WRITES (base : Nat) : Nat := base + 0xff4
def F.U_IGNORED_WRITES.count (base : Nat) : Fld := ⟨R.U_IGNORED_WRITES base, 31, 16⟩
def F.U_IGNORED_WRITES.last_reason (base : Nat) : Fld := ⟨R.U_IGNORED_WRITES base, 15, 14⟩
def F.U_IGNORED_WRITES.last_offset (base : Nat) : Fld := ⟨R.U_IGNORED_WRITES base, 13, 0⟩
/-- <U>_RIM_COLLISIONS (02 R37) of the unit block at `base`. -/
def R.U_RIM_COLLISIONS (base : Nat) : Nat := base + 0xff8
def F.U_RIM_COLLISIONS.count (base : Nat) : Fld := ⟨R.U_RIM_COLLISIONS base, 31, 16⟩
def F.U_RIM_COLLISIONS.last_offset (base : Nat) : Fld := ⟨R.U_RIM_COLLISIONS base, 13, 0⟩
/-- HEADh_ARRAY_IGNORED (02 R486). -/
def R.ARRAY_IGNORED (h : Nat) : Nat := 0x40100ffc + 0x10000 * h
def F.ARRAY_IGNORED.count (h : Nat) : Fld := ⟨R.ARRAY_IGNORED h, 31, 24⟩
def F.ARRAY_IGNORED.last_reason (h : Nat) : Fld := ⟨R.ARRAY_IGNORED h, 23, 22⟩
def F.ARRAY_IGNORED.last_word (h : Nat) : Fld := ⟨R.ARRAY_IGNORED h, 16, 2⟩
/-- HUB_CTRL (02 R55). -/
def R.HUB_CTRL : Nat := 0x403e0000
def F.HUB_CTRL.repair_auto : Fld := ⟨R.HUB_CTRL, 8, 8⟩
def F.HUB_CTRL.scrub_pace : Fld := ⟨R.HUB_CTRL, 3, 0⟩
/-- HUB_STATUS (02 R55). -/
def R.HUB_STATUS : Nat := 0x403e0004
def F.HUB_STATUS.repair_busy : Fld := ⟨R.HUB_STATUS, 9, 9⟩
def F.HUB_STATUS.round_cycle : Fld := ⟨R.HUB_STATUS, 7, 0⟩
/-- HUB_SCRUB_PASS (02 R55). -/
def R.HUB_SCRUB_PASS : Nat := 0x403e0008
def F.HUB_SCRUB_PASS.passes : Fld := ⟨R.HUB_SCRUB_PASS, 31, 0⟩
/-- HUB_ECC_CORR (02 R55). -/
def R.HUB_ECC_CORR : Nat := 0x403e0010
def F.HUB_ECC_CORR.count : Fld := ⟨R.HUB_ECC_CORR, 31, 0⟩
/-- HUB_ECC_UNCORR (02 R55). -/
def R.HUB_ECC_UNCORR : Nat := 0x403e0014
def F.HUB_ECC_UNCORR.count : Fld := ⟨R.HUB_ECC_UNCORR, 31, 0⟩
/-- HUB_ECC_LAST_ADDR (02 R55). -/
def R.HUB_ECC_LAST_ADDR : Nat := 0x403e0018
def F.HUB_ECC_LAST_ADDR.word : Fld := ⟨R.HUB_ECC_LAST_ADDR, 27, 3⟩
/-- HUB_ECC_LAST_SRC (02 R55). -/
def R.HUB_ECC_LAST_SRC : Nat := 0x403e001c
def F.HUB_ECC_LAST_SRC.uncorrectable : Fld := ⟨R.HUB_ECC_LAST_SRC, 31, 31⟩
def F.HUB_ECC_LAST_SRC.requestor : Fld := ⟨R.HUB_ECC_LAST_SRC, 6, 0⟩
/-- HUB_REPAIR_STATUS (02 R55). -/
def R.HUB_REPAIR_STATUS : Nat := 0x403e0020
def F.HUB_REPAIR_STATUS.rows_used : Fld := ⟨R.HUB_REPAIR_STATUS, 31, 16⟩
def F.HUB_REPAIR_STATUS.cols_used : Fld := ⟨R.HUB_REPAIR_STATUS, 15, 8⟩
def F.HUB_REPAIR_STATUS.exhausted_banks : Fld := ⟨R.HUB_REPAIR_STATUS, 7, 0⟩
/-- HUB_WRITE_DENIED (02 R55). -/
def R.HUB_WRITE_DENIED : Nat := 0x403e0024
def F.HUB_WRITE_DENIED.count : Fld := ⟨R.HUB_WRITE_DENIED, 31, 16⟩
def F.HUB_WRITE_DENIED.requestor : Fld := ⟨R.HUB_WRITE_DENIED, 6, 0⟩
/-- RIM_UNMAPPED (02 R55). -/
def R.RIM_UNMAPPED : Nat := 0x403e0030
def F.RIM_UNMAPPED.count : Fld := ⟨R.RIM_UNMAPPED, 31, 24⟩
def F.RIM_UNMAPPED.word : Fld := ⟨R.RIM_UNMAPPED, 23, 2⟩
/-- HUB_HEAD_MARGIN (02 R55). -/
def R.HUB_HEAD_MARGIN (h : Nat) : Nat := 0x403e0100 + 0x4 * h
def F.HUB_HEAD_MARGIN.min_spare (h : Nat) : Fld := ⟨R.HUB_HEAD_MARGIN h, 31, 16⟩
def F.HUB_HEAD_MARGIN.late_lines (h : Nat) : Fld := ⟨R.HUB_HEAD_MARGIN h, 15, 0⟩
/-- HUB_SCHED_SEL (02 R55). -/
def R.HUB_SCHED_SEL : Nat := 0x403e0200
def F.HUB_SCHED_SEL.bank : Fld := ⟨R.HUB_SCHED_SEL, 12, 8⟩
def F.HUB_SCHED_SEL.entry : Fld := ⟨R.HUB_SCHED_SEL, 7, 0⟩
/-- HUB_SCHED_DATA (02 R55). -/
def R.HUB_SCHED_DATA : Nat := 0x403e0204
def F.HUB_SCHED_DATA.requestor : Fld := ⟨R.HUB_SCHED_DATA, 6, 0⟩
/-- GS_CTRL (03 R75). -/
def R.GS_CTRL : Nat := 0x40000000
def F.GS_CTRL.blank_ok : Fld := ⟨R.GS_CTRL, 4, 4⟩
def F.GS_CTRL.abort : Fld := ⟨R.GS_CTRL, 1, 1⟩
def F.GS_CTRL.check : Fld := ⟨R.GS_CTRL, 0, 0⟩
/-- GS_STATUS (03 R75). -/
def R.GS_STATUS : Nat := 0x40000004
def F.GS_STATUS.state : Fld := ⟨R.GS_STATUS, 31, 28⟩
def F.GS_STATUS.last_result : Fld := ⟨R.GS_STATUS, 27, 26⟩
def F.GS_STATUS.busy : Fld := ⟨R.GS_STATUS, 25, 25⟩
def F.GS_STATUS.applies : Fld := ⟨R.GS_STATUS, 15, 0⟩
/-- GS_STAGE_PTR (03 R75). -/
def R.GS_STAGE_PTR : Nat := 0x40000008
def F.GS_STAGE_PTR.word : Fld := ⟨R.GS_STAGE_PTR, 22, 2⟩
/-- GS_STAGE_DATA (03 R75). -/
def R.GS_STAGE_DATA : Nat := 0x4000000c
def F.GS_STAGE_DATA.data : Fld := ⟨R.GS_STAGE_DATA, 31, 0⟩
/-- GS_APPLY_FRAME (64 bits, _LO) (03 R75). -/
def R.GS_APPLY_FRAME : Nat := 0x40000010
/-- GS_REJECT (03 R75). -/
def R.GS_REJECT : Nat := 0x40000018
def F.GS_REJECT.reason : Fld := ⟨R.GS_REJECT, 31, 28⟩
def F.GS_REJECT.sect : Fld := ⟨R.GS_REJECT, 23, 16⟩
def F.GS_REJECT.record : Fld := ⟨R.GS_REJECT, 15, 0⟩
/-- GS_CLASH (03 R75). -/
def R.GS_CLASH : Nat := 0x4000001c
def F.GS_CLASH.count : Fld := ⟨R.GS_CLASH, 31, 16⟩
def F.GS_CLASH.park_lost : Fld := ⟨R.GS_CLASH, 15, 0⟩
/-- GS_MODE_SUMMARY (03 R75). -/
def R.GS_MODE_SUMMARY : Nat := 0x40000020
def F.GS_MODE_SUMMARY.forced : Fld := ⟨R.GS_MODE_SUMMARY, 31, 25⟩
def F.GS_MODE_SUMMARY.startup : Fld := ⟨R.GS_MODE_SUMMARY, 11, 10⟩
def F.GS_MODE_SUMMARY.power : Fld := ⟨R.GS_MODE_SUMMARY, 9, 8⟩
def F.GS_MODE_SUMMARY.security : Fld := ⟨R.GS_MODE_SUMMARY, 7, 6⟩
def F.GS_MODE_SUMMARY.profile : Fld := ⟨R.GS_MODE_SUMMARY, 5, 5⟩
def F.GS_MODE_SUMMARY.peloton : Fld := ⟨R.GS_MODE_SUMMARY, 3, 2⟩
def F.GS_MODE_SUMMARY.tandem : Fld := ⟨R.GS_MODE_SUMMARY, 1, 0⟩
/-- GS_SECURITY_VERSION (03 R75). -/
def R.GS_SECURITY_VERSION : Nat := 0x40000024
def F.GS_SECURITY_VERSION.version : Fld := ⟨R.GS_SECURITY_VERSION, 31, 0⟩
/-- GS_UNIT_VERSION (03 R75). -/
def R.GS_UNIT_VERSION (i : Nat) : Nat := 0x40000100 + 0x4 * i
def F.GS_UNIT_VERSION.version (i : Nat) : Fld := ⟨R.GS_UNIT_VERSION i, 31, 0⟩
/-- GS_ACTIVE_DIGEST (03 R75). -/
def R.GS_ACTIVE_DIGEST (k : Nat) : Nat := 0x40000040 + 0x4 * k
def F.GS_ACTIVE_DIGEST.digest (k : Nat) : Fld := ⟨R.GS_ACTIVE_DIGEST k, 31, 0⟩
/-- ING_CTRL (04 R107). -/
def R.ING_CTRL : Nat := 0x40040000
def F.ING_CTRL.init : Fld := ⟨R.ING_CTRL, 8, 8⟩
def F.ING_CTRL.vertik_en : Fld := ⟨R.ING_CTRL, 1, 1⟩
def F.ING_CTRL.enable : Fld := ⟨R.ING_CTRL, 0, 0⟩
/-- ING_STATUS (04 R107). -/
def R.ING_STATUS : Nat := 0x40040004
def F.ING_STATUS.init_busy : Fld := ⟨R.ING_STATUS, 31, 31⟩
def F.ING_STATUS.queue_depth : Fld := ⟨R.ING_STATUS, 9, 0⟩
/-- ING_PLACE (04 R107). -/
def R.ING_PLACE : Nat := 0x40040008
def F.ING_PLACE.points_base : Fld := ⟨R.ING_PLACE, 27, 16⟩
def F.ING_PLACE.subs_base : Fld := ⟨R.ING_PLACE, 11, 0⟩
/-- ING_RX_GOOSE (04 R107). -/
def R.ING_RX_GOOSE : Nat := 0x40040010
def F.ING_RX_GOOSE.count : Fld := ⟨R.ING_RX_GOOSE, 31, 0⟩
/-- ING_RX_SV (04 R107). -/
def R.ING_RX_SV : Nat := 0x40040014
def F.ING_RX_SV.count : Fld := ⟨R.ING_RX_SV, 31, 0⟩
/-- ING_POINT_WRITES (04 R107). -/
def R.ING_POINT_WRITES : Nat := 0x40040018
def F.ING_POINT_WRITES.count : Fld := ⟨R.ING_POINT_WRITES, 31, 0⟩
/-- ING_LAST_DISCARD (04 R107). -/
def R.ING_LAST_DISCARD : Nat := 0x40040020
def F.ING_LAST_DISCARD.reason : Fld := ⟨R.ING_LAST_DISCARD, 31, 28⟩
def F.ING_LAST_DISCARD.sub : Fld := ⟨R.ING_LAST_DISCARD, 12, 0⟩
/-- ING_SUB_STATE (04 R107). -/
def R.ING_SUB_STATE : Nat := 0x40040024
def F.ING_SUB_STATE.goose_stale : Fld := ⟨R.ING_SUB_STATE, 28, 16⟩
def F.ING_SUB_STATE.sv_stale : Fld := ⟨R.ING_SUB_STATE, 6, 0⟩
/-- ING_DISCARD (04 R107). -/
def R.ING_DISCARD (r : Nat) : Nat := 0x40040040 + 0x4 * r
def F.ING_DISCARD.count (r : Nat) : Fld := ⟨R.ING_DISCARD r, 31, 0⟩
/-- DER_CTRL (04 R107). -/
def R.DER_CTRL : Nat := 0x40050000
def F.DER_CTRL.reeval_all : Fld := ⟨R.DER_CTRL, 8, 8⟩
def F.DER_CTRL.photon_en : Fld := ⟨R.DER_CTRL, 4, 4⟩
def F.DER_CTRL.enable : Fld := ⟨R.DER_CTRL, 0, 0⟩
/-- DER_STATUS (04 R107). -/
def R.DER_STATUS : Nat := 0x40050004
def F.DER_STATUS.reeval_busy : Fld := ⟨R.DER_STATUS, 31, 31⟩
def F.DER_STATUS.queue_depth : Fld := ⟨R.DER_STATUS, 12, 0⟩
/-- DER_PLACE (04 R107). -/
def R.DER_PLACE : Nat := 0x40050008
def F.DER_PLACE.rules_base : Fld := ⟨R.DER_PLACE, 27, 16⟩
def F.DER_PLACE.trig_base : Fld := ⟨R.DER_PLACE, 11, 0⟩
/-- DER_PHOTON (04 R107). -/
def R.DER_PHOTON : Nat := 0x4005000c
def F.DER_PHOTON.ring_base : Fld := ⟨R.DER_PHOTON, 27, 16⟩
def F.DER_PHOTON.ring_log2 : Fld := ⟨R.DER_PHOTON, 4, 0⟩
/-- DER_PHOTON_WR (04 R107). -/
def R.DER_PHOTON_WR : Nat := 0x40050010
def F.DER_PHOTON_WR.count : Fld := ⟨R.DER_PHOTON_WR, 31, 0⟩
/-- DER_REEVAL (04 R107). -/
def R.DER_REEVAL : Nat := 0x40050014
def F.DER_REEVAL.point : Fld := ⟨R.DER_REEVAL, 19, 0⟩
/-- DER_EVALS (64 bits, _LO) (04 R107). -/
def R.DER_EVALS : Nat := 0x40050020
/-- DER_ACTIONS (64 bits, _LO) (04 R107). -/
def R.DER_ACTIONS : Nat := 0x40050028
/-- DER_SKIPPED (04 R107). -/
def R.DER_SKIPPED : Nat := 0x40050030
def F.DER_SKIPPED.ecc : Fld := ⟨R.DER_SKIPPED, 31, 16⟩
def F.DER_SKIPPED.encoding : Fld := ⟨R.DER_SKIPPED, 15, 0⟩
/-- DER_ARRAY_COLLISIONS (04 R107). -/
def R.DER_ARRAY_COLLISIONS : Nat := 0x40050034
def F.DER_ARRAY_COLLISIONS.count : Fld := ⟨R.DER_ARRAY_COLLISIONS, 31, 16⟩
def F.DER_ARRAY_COLLISIONS.head : Fld := ⟨R.DER_ARRAY_COLLISIONS, 4, 0⟩
/-- DER_QUEUE_PEAK (04 R107). -/
def R.DER_QUEUE_PEAK : Nat := 0x40050038
def F.DER_QUEUE_PEAK.peak : Fld := ⟨R.DER_QUEUE_PEAK, 12, 0⟩
/-- DER_LAST_SKIP (04 R107). -/
def R.DER_LAST_SKIP : Nat := 0x4005003c
def F.DER_LAST_SKIP.ecc : Fld := ⟨R.DER_LAST_SKIP, 31, 31⟩
def F.DER_LAST_SKIP.rule : Fld := ⟨R.DER_LAST_SKIP, 17, 0⟩
/-- HEADh_Ll_CTRL (05 R130). -/
def R.LL_CTRL (h l : Nat) : Nat := 0x40101000 + 0x10000 * h + 0x200 * l
def F.LL_CTRL.enable (h l : Nat) : Fld := ⟨R.LL_CTRL h l, 31, 31⟩
def F.LL_CTRL.map_h_log2 (h l : Nat) : Fld := ⟨R.LL_CTRL h l, 27, 24⟩
def F.LL_CTRL.map_w_log2 (h l : Nat) : Fld := ⟨R.LL_CTRL h l, 23, 20⟩
def F.LL_CTRL.allow_rotate (h l : Nat) : Fld := ⟨R.LL_CTRL h l, 17, 17⟩
def F.LL_CTRL.transparent_zero (h l : Nat) : Fld := ⟨R.LL_CTRL h l, 16, 16⟩
def F.LL_CTRL.scroll_table_en (h l : Nat) : Fld := ⟨R.LL_CTRL h l, 9, 9⟩
def F.LL_CTRL.wrap_y (h l : Nat) : Fld := ⟨R.LL_CTRL h l, 8, 8⟩
def F.LL_CTRL.wrap_x (h l : Nat) : Fld := ⟨R.LL_CTRL h l, 7, 7⟩
def F.LL_CTRL.tile_size (h l : Nat) : Fld := ⟨R.LL_CTRL h l, 3, 3⟩
def F.LL_CTRL.format (h l : Nat) : Fld := ⟨R.LL_CTRL h l, 2, 0⟩
/-- HEADh_Ll_MAP_BASE (05 R130). -/
def R.LL_MAP_BASE (h l : Nat) : Nat := 0x40101004 + 0x10000 * h + 0x200 * l
def F.LL_MAP_BASE.base (h l : Nat) : Fld := ⟨R.LL_MAP_BASE h l, 27, 6⟩
/-- HEADh_Ll_PATTERN_BASE (05 R130). -/
def R.LL_PATTERN_BASE (h l : Nat) : Nat := 0x40101008 + 0x10000 * h + 0x200 * l
def F.LL_PATTERN_BASE.base (h l : Nat) : Fld := ⟨R.LL_PATTERN_BASE h l, 27, 6⟩
/-- HEADh_Ll_ORIGIN_X (05 R130). -/
def R.LL_ORIGIN_X (h l : Nat) : Nat := 0x4010100c + 0x10000 * h + 0x200 * l
def F.LL_ORIGIN_X.origin (h l : Nat) : Fld := ⟨R.LL_ORIGIN_X h l, 19, 0⟩
/-- HEADh_Ll_ORIGIN_Y (05 R130). -/
def R.LL_ORIGIN_Y (h l : Nat) : Nat := 0x40101010 + 0x10000 * h + 0x200 * l
def F.LL_ORIGIN_Y.origin (h l : Nat) : Fld := ⟨R.LL_ORIGIN_Y h l, 19, 0⟩
/-- HEADh_Ll_MAP_X0 (05 R130). -/
def R.LL_MAP_X0 (h l : Nat) : Nat := 0x40101014 + 0x10000 * h + 0x200 * l
def F.LL_MAP_X0.pos (h l : Nat) : Fld := ⟨R.LL_MAP_X0 h l, 19, 0⟩
/-- HEADh_Ll_MAP_Y0 (05 R130). -/
def R.LL_MAP_Y0 (h l : Nat) : Nat := 0x40101018 + 0x10000 * h + 0x200 * l
def F.LL_MAP_Y0.pos (h l : Nat) : Fld := ⟨R.LL_MAP_Y0 h l, 19, 0⟩
/-- HEADh_Ll_SCROLL_TABLE (05 R130). -/
def R.LL_SCROLL_TABLE (h l : Nat) : Nat := 0x4010101c + 0x10000 * h + 0x200 * l
def F.LL_SCROLL_TABLE.base (h l : Nat) : Fld := ⟨R.LL_SCROLL_TABLE h l, 27, 6⟩
/-- HEADh_Ll_TILE_RANGE (05 R130). -/
def R.LL_TILE_RANGE (h l : Nat) : Nat := 0x40101020 + 0x10000 * h + 0x200 * l
def F.LL_TILE_RANGE.tile_hi (h l : Nat) : Fld := ⟨R.LL_TILE_RANGE h l, 31, 16⟩
def F.LL_TILE_RANGE.tile_lo (h l : Nat) : Fld := ⟨R.LL_TILE_RANGE h l, 15, 0⟩
/-- HEADh_Ll_PAL_RANGE (05 R130). -/
def R.LL_PAL_RANGE (h l : Nat) : Nat := 0x40101024 + 0x10000 * h + 0x200 * l
def F.LL_PAL_RANGE.pal_hi (h l : Nat) : Fld := ⟨R.LL_PAL_RANGE h l, 13, 8⟩
def F.LL_PAL_RANGE.pal_lo (h l : Nat) : Fld := ⟨R.LL_PAL_RANGE h l, 5, 0⟩
/-- HEADh_Ll_FR_BASE (05 R130). -/
def R.LL_FR_BASE (h l : Nat) : Nat := 0x40101028 + 0x10000 * h + 0x200 * l
def F.LL_FR_BASE.fr_tile_base (h l : Nat) : Fld := ⟨R.LL_FR_BASE h l, 31, 16⟩
def F.LL_FR_BASE.fr_pal_base (h l : Nat) : Fld := ⟨R.LL_FR_BASE h l, 5, 0⟩
/-- HEADh_Ll_POISON (05 R130). -/
def R.LL_POISON (h l : Nat) : Nat := 0x4010102c + 0x10000 * h + 0x200 * l
def F.LL_POISON.colour (h l : Nat) : Fld := ⟨R.LL_POISON h l, 31, 0⟩
/-- HEADh_Ll_ERRS (05 R130). -/
def R.LL_ERRS (h l : Nat) : Nat := 0x40101030 + 0x10000 * h + 0x200 * l
def F.LL_ERRS.range (h l : Nat) : Fld := ⟨R.LL_ERRS h l, 31, 16⟩
def F.LL_ERRS.rot_ignored (h l : Nat) : Fld := ⟨R.LL_ERRS h l, 15, 0⟩
/-- HEADh_Tt_CTRL (05 R130). -/
def R.TT_CTRL (h t : Nat) : Nat := 0x40102000 + 0x10000 * h + 0x100 * t
def F.TT_CTRL.enable (h t : Nat) : Fld := ⟨R.TT_CTRL h t, 31, 31⟩
def F.TT_CTRL.reads_per_line (h t : Nat) : Fld := ⟨R.TT_CTRL h t, 23, 16⟩
def F.TT_CTRL.channels (h t : Nat) : Fld := ⟨R.TT_CTRL h t, 15, 8⟩
def F.TT_CTRL.stream (h t : Nat) : Fld := ⟨R.TT_CTRL h t, 5, 0⟩
/-- HEADh_Tt_SHAPE (05 R130). -/
def R.TT_SHAPE (h t : Nat) : Nat := 0x40102004 + 0x10000 * h + 0x100 * t
def F.TT_SHAPE.spc_m1 (h t : Nat) : Fld := ⟨R.TT_SHAPE h t, 23, 16⟩
def F.TT_SHAPE.thick_m1 (h t : Nat) : Fld := ⟨R.TT_SHAPE h t, 1, 0⟩
/-- HEADh_Tt_LAG (05 R130). -/
def R.TT_LAG (h t : Nat) : Nat := 0x40102008 + 0x10000 * h + 0x100 * t
def F.TT_LAG.lag (h t : Nat) : Fld := ⟨R.TT_LAG h t, 15, 0⟩
/-- HEADh_Tt_WIN_X (05 R130). -/
def R.TT_WIN_X (h t : Nat) : Nat := 0x4010200c + 0x10000 * h + 0x100 * t
def F.TT_WIN_X.width_m1 (h t : Nat) : Fld := ⟨R.TT_WIN_X h t, 27, 16⟩
def F.TT_WIN_X.x0 (h t : Nat) : Fld := ⟨R.TT_WIN_X h t, 12, 0⟩
/-- HEADh_Tt_WIN_Y (05 R130). -/
def R.TT_WIN_Y (h t : Nat) : Nat := 0x40102010 + 0x10000 * h + 0x100 * t
def F.TT_WIN_Y.height_m1 (h t : Nat) : Fld := ⟨R.TT_WIN_Y h t, 27, 16⟩
def F.TT_WIN_Y.y0 (h t : Nat) : Fld := ⟨R.TT_WIN_Y h t, 11, 0⟩
/-- HEADh_Tt_POISON (05 R130). -/
def R.TT_POISON (h t : Nat) : Nat := 0x40102014 + 0x10000 * h + 0x100 * t
def F.TT_POISON.colour (h t : Nat) : Fld := ⟨R.TT_POISON h t, 31, 0⟩
/-- HEADh_Tt_STATUS (05 R130). -/
def R.TT_STATUS (h t : Nat) : Nat := 0x40102018 + 0x10000 * h + 0x100 * t
def F.TT_STATUS.stream_down (h t : Nat) : Fld := ⟨R.TT_STATUS h t, 31, 31⟩
def F.TT_STATUS.short (h t : Nat) : Fld := ⟨R.TT_STATUS h t, 27, 16⟩
def F.TT_STATUS.gaps (h t : Nat) : Fld := ⟨R.TT_STATUS h t, 12, 0⟩
/-- HEADh_Tt_GAIN (05 R130). -/
def R.TT_GAIN (h t c : Nat) : Nat := 0x40102040 + 0x10000 * h + 0x100 * t + 0x8 * c
def F.TT_GAIN.gain (h t c : Nat) : Fld := ⟨R.TT_GAIN h t c, 31, 16⟩
def F.TT_GAIN.y_zero (h t c : Nat) : Fld := ⟨R.TT_GAIN h t c, 11, 0⟩
/-- HEADh_Tt_COLOUR (05 R130). -/
def R.TT_COLOUR (h t c : Nat) : Nat := 0x40102044 + 0x10000 * h + 0x100 * t + 0x8 * c
def F.TT_COLOUR.colour (h t c : Nat) : Fld := ⟨R.TT_COLOUR h t c, 31, 0⟩
/-- HEADh_SPR_CTRL (06 R149). -/
def R.SPR_CTRL (h : Nat) : Nat := 0x40103000 + 0x10000 * h
def F.SPR_CTRL.enable (h : Nat) : Fld := ⟨R.SPR_CTRL h, 31, 31⟩
def F.SPR_CTRL.max_line_m1 (h : Nat) : Fld := ⟨R.SPR_CTRL h, 30, 24⟩
def F.SPR_CTRL.allow_rotate (h : Nat) : Fld := ⟨R.SPR_CTRL h, 17, 17⟩
def F.SPR_CTRL.transparent_zero (h : Nat) : Fld := ⟨R.SPR_CTRL h, 16, 16⟩
def F.SPR_CTRL.split (h : Nat) : Fld := ⟨R.SPR_CTRL h, 2, 2⟩
def F.SPR_CTRL.wall_en (h : Nat) : Fld := ⟨R.SPR_CTRL h, 1, 1⟩
def F.SPR_CTRL.set_sel (h : Nat) : Fld := ⟨R.SPR_CTRL h, 0, 0⟩
/-- HEADh_SPR_BUDGET (06 R149). -/
def R.SPR_BUDGET (h : Nat) : Nat := 0x40103004 + 0x10000 * h
def F.SPR_BUDGET.access_max (h : Nat) : Fld := ⟨R.SPR_BUDGET h, 11, 0⟩
/-- HEADh_SPR_ORIGIN_X (06 R149). -/
def R.SPR_ORIGIN_X (h : Nat) : Nat := 0x40103008 + 0x10000 * h
def F.SPR_ORIGIN_X.origin (h : Nat) : Fld := ⟨R.SPR_ORIGIN_X h, 19, 0⟩
/-- HEADh_SPR_ORIGIN_Y (06 R149). -/
def R.SPR_ORIGIN_Y (h : Nat) : Nat := 0x4010300c + 0x10000 * h
def F.SPR_ORIGIN_Y.origin (h : Nat) : Fld := ⟨R.SPR_ORIGIN_Y h, 19, 0⟩
/-- HEADh_SPR_PAL_RANGE (06 R149). -/
def R.SPR_PAL_RANGE (h : Nat) : Nat := 0x40103010 + 0x10000 * h
def F.SPR_PAL_RANGE.pal_hi (h : Nat) : Fld := ⟨R.SPR_PAL_RANGE h, 13, 8⟩
def F.SPR_PAL_RANGE.pal_lo (h : Nat) : Fld := ⟨R.SPR_PAL_RANGE h, 5, 0⟩
/-- HEADh_SPR_WALL (06 R149). -/
def R.SPR_WALL (h : Nat) : Nat := 0x40103014 + 0x10000 * h
def F.SPR_WALL.wall_last (h : Nat) : Fld := ⟨R.SPR_WALL h, 25, 16⟩
def F.SPR_WALL.wall_first (h : Nat) : Fld := ⟨R.SPR_WALL h, 9, 0⟩
/-- HEADh_SPR_POISON (06 R149). -/
def R.SPR_POISON (h : Nat) : Nat := 0x40103018 + 0x10000 * h
def F.SPR_POISON.colour (h : Nat) : Fld := ⟨R.SPR_POISON h, 31, 0⟩
/-- HEADh_SPR_LINE_STATUS (06 R149). -/
def R.SPR_LINE_STATUS (h : Nat) : Nat := 0x4010301c + 0x10000 * h
def F.SPR_LINE_STATUS.peak (h : Nat) : Fld := ⟨R.SPR_LINE_STATUS h, 23, 16⟩
def F.SPR_LINE_STATUS.drop_lines (h : Nat) : Fld := ⟨R.SPR_LINE_STATUS h, 15, 0⟩
/-- HEADh_SPR_ERRS (06 R149). -/
def R.SPR_ERRS (h : Nat) : Nat := 0x40103020 + 0x10000 * h
def F.SPR_ERRS.dropped (h : Nat) : Fld := ⟨R.SPR_ERRS h, 31, 16⟩
def F.SPR_ERRS.bad_desc (h : Nat) : Fld := ⟨R.SPR_ERRS h, 15, 0⟩
/-- HEADh_SPR_LAST_DROP (06 R149). -/
def R.SPR_LAST_DROP (h : Nat) : Nat := 0x40103024 + 0x10000 * h
def F.SPR_LAST_DROP.line (h : Nat) : Fld := ⟨R.SPR_LAST_DROP h, 27, 16⟩
def F.SPR_LAST_DROP.sprite (h : Nat) : Fld := ⟨R.SPR_LAST_DROP h, 9, 0⟩
/-- HEADh_SPR_IGNORED (06 R149). -/
def R.SPR_IGNORED (h : Nat) : Nat := 0x40103028 + 0x10000 * h
def F.SPR_IGNORED.rot_ignored (h : Nat) : Fld := ⟨R.SPR_IGNORED h, 31, 16⟩
def F.SPR_IGNORED.wall_write (h : Nat) : Fld := ⟨R.SPR_IGNORED h, 15, 0⟩
/-- HEADh_CMP_CTRL (07 R163). -/
def R.CMP_CTRL (h : Nat) : Nat := 0x40104000 + 0x10000 * h
def F.CMP_CTRL.out_bpc (h : Nat) : Fld := ⟨R.CMP_CTRL h, 8, 8⟩
def F.CMP_CTRL.lut_en (h : Nat) : Fld := ⟨R.CMP_CTRL h, 4, 4⟩
def F.CMP_CTRL.dither_en (h : Nat) : Fld := ⟨R.CMP_CTRL h, 0, 0⟩
/-- HEADh_CMP_BACKDROP (07 R163). -/
def R.CMP_BACKDROP (h : Nat) : Nat := 0x40104004 + 0x10000 * h
def F.CMP_BACKDROP.colour (h : Nat) : Fld := ⟨R.CMP_BACKDROP h, 31, 0⟩
/-- HEADh_CMP_LAYER (07 R163). -/
def R.CMP_LAYER (h l : Nat) : Nat := 0x40104010 + 0x10000 * h + 0x4 * l
def F.CMP_LAYER.blend (h l : Nat) : Fld := ⟨R.CMP_LAYER h l, 9, 8⟩
def F.CMP_LAYER.layer_alpha (h l : Nat) : Fld := ⟨R.CMP_LAYER h l, 7, 0⟩
/-- HEADh_CMP_SPRITE (07 R163). -/
def R.CMP_SPRITE (h : Nat) : Nat := 0x40104030 + 0x10000 * h
def F.CMP_SPRITE.blend (h : Nat) : Fld := ⟨R.CMP_SPRITE h, 9, 8⟩
def F.CMP_SPRITE.layer_alpha (h : Nat) : Fld := ⟨R.CMP_SPRITE h, 7, 0⟩
/-- HEADh_CMP_TRACE (07 R163). -/
def R.CMP_TRACE (h t : Nat) : Nat := 0x40104034 + 0x10000 * h + 0x4 * t
def F.CMP_TRACE.level (h t : Nat) : Fld := ⟨R.CMP_TRACE h t, 17, 16⟩
def F.CMP_TRACE.blend (h t : Nat) : Fld := ⟨R.CMP_TRACE h t, 9, 8⟩
def F.CMP_TRACE.layer_alpha (h t : Nat) : Fld := ⟨R.CMP_TRACE h t, 7, 0⟩
/-- HEADh_CMP_MISMATCH (07 R163). -/
def R.CMP_MISMATCH (h : Nat) : Nat := 0x40104040 + 0x10000 * h
def F.CMP_MISMATCH.lines (h : Nat) : Fld := ⟨R.CMP_MISMATCH h, 31, 16⟩
def F.CMP_MISMATCH.last_line (h : Nat) : Fld := ⟨R.CMP_MISMATCH h, 11, 0⟩
/-- HEADh_CMP_MISMATCH_PIX (07 R163). -/
def R.CMP_MISMATCH_PIX (h : Nat) : Nat := 0x40104044 + 0x10000 * h
def F.CMP_MISMATCH_PIX.first_pixel (h : Nat) : Fld := ⟨R.CMP_MISMATCH_PIX h, 12, 0⟩
/-- HEADh_BEAM_N (08 R181). -/
def R.BEAM_N (h : Nat) : Nat := 0x40100000 + 0x10000 * h
def F.BEAM_N.n_div (h : Nat) : Fld := ⟨R.BEAM_N h, 7, 0⟩
/-- HEADh_BEAM_H (08 R181). -/
def R.BEAM_H (h : Nat) : Nat := 0x40100004 + 0x10000 * h
def F.BEAM_H.htotal (h : Nat) : Fld := ⟨R.BEAM_H h, 28, 16⟩
def F.BEAM_H.hactive (h : Nat) : Fld := ⟨R.BEAM_H h, 12, 0⟩
/-- HEADh_BEAM_HSYNC (08 R181). -/
def R.BEAM_HSYNC (h : Nat) : Nat := 0x40100008 + 0x10000 * h
def F.BEAM_HSYNC.hsync_pol (h : Nat) : Fld := ⟨R.BEAM_HSYNC h, 31, 31⟩
def F.BEAM_HSYNC.hsync_width (h : Nat) : Fld := ⟨R.BEAM_HSYNC h, 24, 16⟩
def F.BEAM_HSYNC.hsync_start (h : Nat) : Fld := ⟨R.BEAM_HSYNC h, 12, 0⟩
/-- HEADh_BEAM_V (08 R181). -/
def R.BEAM_V (h : Nat) : Nat := 0x4010000c + 0x10000 * h
def F.BEAM_V.vtotal (h : Nat) : Fld := ⟨R.BEAM_V h, 27, 16⟩
def F.BEAM_V.vactive (h : Nat) : Fld := ⟨R.BEAM_V h, 11, 0⟩
/-- HEADh_BEAM_VSYNC (08 R181). -/
def R.BEAM_VSYNC (h : Nat) : Nat := 0x40100010 + 0x10000 * h
def F.BEAM_VSYNC.vsync_pol (h : Nat) : Fld := ⟨R.BEAM_VSYNC h, 31, 31⟩
def F.BEAM_VSYNC.vsync_width (h : Nat) : Fld := ⟨R.BEAM_VSYNC h, 21, 16⟩
def F.BEAM_VSYNC.vsync_start (h : Nat) : Fld := ⟨R.BEAM_VSYNC h, 11, 0⟩
/-- HEADh_BEAM_T0 (64 bits, _LO) (08 R181). -/
def R.BEAM_T0 (h : Nat) : Nat := 0x40100018 + 0x10000 * h
/-- HEADh_BEAM_TF (64 bits, _LO) (08 R181). -/
def R.BEAM_TF (h : Nat) : Nat := 0x40100020 + 0x10000 * h
/-- HEADh_BEAM_FRAME (64 bits, _LO) (08 R181). -/
def R.BEAM_FRAME (h : Nat) : Nat := 0x40100028 + 0x10000 * h
/-- HEADh_BEAM_POS (08 R181). -/
def R.BEAM_POS (h : Nat) : Nat := 0x40100030 + 0x10000 * h
def F.BEAM_POS.line (h : Nat) : Fld := ⟨R.BEAM_POS h, 27, 16⟩
def F.BEAM_POS.pixel (h : Nat) : Fld := ⟨R.BEAM_POS h, 12, 0⟩
/-- HEADh_BEAM_COMMIT (08 R181). -/
def R.BEAM_COMMIT (h : Nat) : Nat := 0x40100034 + 0x10000 * h
def F.BEAM_COMMIT.cancel (h : Nat) : Fld := ⟨R.BEAM_COMMIT h, 1, 1⟩
def F.BEAM_COMMIT.commit (h : Nat) : Fld := ⟨R.BEAM_COMMIT h, 0, 0⟩
/-- HEADh_BEAM_COMMIT_FRAME (64 bits, _LO) (08 R181). -/
def R.BEAM_COMMIT_FRAME (h : Nat) : Nat := 0x40100038 + 0x10000 * h
/-- HEADh_BEAM_STATUS (08 R181). -/
def R.BEAM_STATUS (h : Nat) : Nat := 0x40100040 + 0x10000 * h
def F.BEAM_STATUS.commit_state (h : Nat) : Fld := ⟨R.BEAM_STATUS h, 31, 30⟩
def F.BEAM_STATUS.late_commits (h : Nat) : Fld := ⟨R.BEAM_STATUS h, 15, 0⟩
/-- HEADh_BEAM_LAST_COMMIT (64 bits, _LO) (08 R181). -/
def R.BEAM_LAST_COMMIT (h : Nat) : Nat := 0x40100048 + 0x10000 * h
/-- HEADh_BEAM_EVENT (08 R181). -/
def R.BEAM_EVENT (h k : Nat) : Nat := 0x40100050 + 0x10000 * h + 0x4 * k
def F.BEAM_EVENT.mode (h k : Nat) : Fld := ⟨R.BEAM_EVENT h k, 31, 30⟩
def F.BEAM_EVENT.line (h k : Nat) : Fld := ⟨R.BEAM_EVENT h k, 24, 13⟩
def F.BEAM_EVENT.pixel (h k : Nat) : Fld := ⟨R.BEAM_EVENT h k, 12, 0⟩
/-- HEADh_BEAM_EVENT_MISSED (08 R181). -/
def R.BEAM_EVENT_MISSED (h : Nat) : Nat := 0x40100058 + 0x10000 * h
def F.BEAM_EVENT_MISSED.event1 (h : Nat) : Fld := ⟨R.BEAM_EVENT_MISSED h, 31, 16⟩
def F.BEAM_EVENT_MISSED.event0 (h : Nat) : Fld := ⟨R.BEAM_EVENT_MISSED h, 15, 0⟩
/-- HEADh_BEAM_IRQ (08 R181). -/
def R.BEAM_IRQ (h : Nat) : Nat := 0x4010005c + 0x10000 * h
def F.BEAM_IRQ.enable (h : Nat) : Fld := ⟨R.BEAM_IRQ h, 18, 16⟩
def F.BEAM_IRQ.late (h : Nat) : Fld := ⟨R.BEAM_IRQ h, 2, 2⟩
def F.BEAM_IRQ.applied (h : Nat) : Fld := ⟨R.BEAM_IRQ h, 1, 1⟩
def F.BEAM_IRQ.latch (h : Nat) : Fld := ⟨R.BEAM_IRQ h, 0, 0⟩
/-- HEADh_CAD_CTRL (08 R181). -/
def R.CAD_CTRL (h : Nat) : Nat := 0x40105000 + 0x10000 * h
def F.CAD_CTRL.list1_en (h : Nat) : Fld := ⟨R.CAD_CTRL h, 1, 1⟩
def F.CAD_CTRL.list0_en (h : Nat) : Fld := ⟨R.CAD_CTRL h, 0, 0⟩
/-- HEADh_CAD_BASE (08 R181). -/
def R.CAD_BASE (h c : Nat) : Nat := 0x40105004 + 0x10000 * h + 0x4 * c
def F.CAD_BASE.base (h c : Nat) : Fld := ⟨R.CAD_BASE h c, 27, 14⟩
/-- HEADh_CAD_ERRS (08 R181). -/
def R.CAD_ERRS (h : Nat) : Nat := 0x40105010 + 0x10000 * h
def F.CAD_ERRS.late (h : Nat) : Fld := ⟨R.CAD_ERRS h, 31, 16⟩
def F.CAD_ERRS.lost (h : Nat) : Fld := ⟨R.CAD_ERRS h, 15, 0⟩
/-- HEADh_CAD_BAD (08 R181). -/
def R.CAD_BAD (h : Nat) : Nat := 0x40105014 + 0x10000 * h
def F.CAD_BAD.count (h : Nat) : Fld := ⟨R.CAD_BAD h, 31, 16⟩
def F.CAD_BAD.queue_peak (h : Nat) : Fld := ⟨R.CAD_BAD h, 3, 0⟩
/-- HEADh_CAD_LAST_BAD (08 R181). -/
def R.CAD_LAST_BAD (h : Nat) : Nat := 0x40105018 + 0x10000 * h
def F.CAD_LAST_BAD.list (h : Nat) : Fld := ⟨R.CAD_LAST_BAD h, 31, 31⟩
def F.CAD_LAST_BAD.line (h : Nat) : Fld := ⟨R.CAD_LAST_BAD h, 27, 16⟩
def F.CAD_LAST_BAD.entry (h : Nat) : Fld := ⟨R.CAD_LAST_BAD h, 13, 0⟩
/-- HEADh_TX_CTRL (09 R205). -/
def R.TX_CTRL (h : Nat) : Nat := 0x40107000 + 0x10000 * h
def F.TX_CTRL.audio_en (h : Nat) : Fld := ⟨R.TX_CTRL h, 5, 5⟩
def F.TX_CTRL.auto_fw (h : Nat) : Fld := ⟨R.TX_CTRL h, 4, 4⟩
def F.TX_CTRL.link_keep (h : Nat) : Fld := ⟨R.TX_CTRL h, 3, 3⟩
def F.TX_CTRL.req_state (h : Nat) : Fld := ⟨R.TX_CTRL h, 1, 0⟩
/-- HEADh_TX_STATUS (09 R205). -/
def R.TX_STATUS (h : Nat) : Nat := 0x40107004 + 0x10000 * h
def F.TX_STATUS.state (h : Nat) : Fld := ⟨R.TX_STATUS h, 31, 30⟩
def F.TX_STATUS.link_state (h : Nat) : Fld := ⟨R.TX_STATUS h, 29, 28⟩
def F.TX_STATUS.hpd (h : Nat) : Fld := ⟨R.TX_STATUS h, 27, 27⟩
def F.TX_STATUS.fw_capable (h : Nat) : Fld := ⟨R.TX_STATUS h, 26, 26⟩
def F.TX_STATUS.fw_refused (h : Nat) : Fld := ⟨R.TX_STATUS h, 25, 25⟩
def F.TX_STATUS.fw_error (h : Nat) : Fld := ⟨R.TX_STATUS h, 24, 24⟩
def F.TX_STATUS.source_absent (h : Nat) : Fld := ⟨R.TX_STATUS h, 23, 23⟩
def F.TX_STATUS.te_phase (h : Nat) : Fld := ⟨R.TX_STATUS h, 22, 22⟩
def F.TX_STATUS.te_silent (h : Nat) : Fld := ⟨R.TX_STATUS h, 21, 21⟩
def F.TX_STATUS.lanes (h : Nat) : Fld := ⟨R.TX_STATUS h, 18, 16⟩
def F.TX_STATUS.rate (h : Nat) : Fld := ⟨R.TX_STATUS h, 15, 14⟩
/-- HEADh_TX_LINK (09 R205). -/
def R.TX_LINK (h : Nat) : Nat := 0x40107008 + 0x10000 * h
def F.TX_LINK.edp (h : Nat) : Fld := ⟨R.TX_LINK h, 7, 7⟩
def F.TX_LINK.assr_en (h : Nat) : Fld := ⟨R.TX_LINK h, 6, 6⟩
def F.TX_LINK.fallback_en (h : Nat) : Fld := ⟨R.TX_LINK h, 5, 5⟩
def F.TX_LINK.max_rate (h : Nat) : Fld := ⟨R.TX_LINK h, 1, 0⟩
/-- HEADh_TX_MVID (09 R205). -/
def R.TX_MVID (h : Nat) : Nat := 0x4010700c + 0x10000 * h
def F.TX_MVID.value (h : Nat) : Fld := ⟨R.TX_MVID h, 23, 0⟩
/-- HEADh_TX_NVID (09 R205). -/
def R.TX_NVID (h : Nat) : Nat := 0x40107010 + 0x10000 * h
def F.TX_NVID.value (h : Nat) : Fld := ⟨R.TX_NVID h, 23, 0⟩
/-- HEADh_TX_UNDERRUN (09 R205). -/
def R.TX_UNDERRUN (h : Nat) : Nat := 0x40107014 + 0x10000 * h
def F.TX_UNDERRUN.lines (h : Nat) : Fld := ⟨R.TX_UNDERRUN h, 31, 16⟩
def F.TX_UNDERRUN.last_line (h : Nat) : Fld := ⟨R.TX_UNDERRUN h, 11, 0⟩
/-- HEADh_TX_UNDERRUN_PIX (09 R205). -/
def R.TX_UNDERRUN_PIX (h : Nat) : Nat := 0x40107018 + 0x10000 * h
def F.TX_UNDERRUN_PIX.pixels (h : Nat) : Fld := ⟨R.TX_UNDERRUN_PIX h, 31, 0⟩
/-- HEADh_TX_TE (09 R205). -/
def R.TX_TE (h : Nat) : Nat := 0x4010701c + 0x10000 * h
def F.TX_TE.te_en (h : Nat) : Fld := ⟨R.TX_TE h, 31, 31⟩
def F.TX_TE.te_line (h : Nat) : Fld := ⟨R.TX_TE h, 27, 16⟩
def F.TX_TE.te_window (h : Nat) : Fld := ⟨R.TX_TE h, 15, 8⟩
def F.TX_TE.te_timeout (h : Nat) : Fld := ⟨R.TX_TE h, 7, 0⟩
/-- HEADh_TX_TE_PHASE (09 R205). -/
def R.TX_TE_PHASE (h : Nat) : Nat := 0x40107020 + 0x10000 * h
def F.TX_TE_PHASE.phase (h : Nat) : Fld := ⟨R.TX_TE_PHASE h, 31, 0⟩
/-- HEADh_TX_TE_TIME (64 bits, _LO) (09 R205). -/
def R.TX_TE_TIME (h : Nat) : Nat := 0x40107028 + 0x10000 * h
/-- HEADh_TX_FW_WATCH (64 bits, _LO) (09 R205). -/
def R.TX_FW_WATCH (h : Nat) : Nat := 0x40107030 + 0x10000 * h
/-- HEADh_TX_MIRROR (09 R205). -/
def R.TX_MIRROR (h : Nat) : Nat := 0x40107040 + 0x10000 * h
def F.TX_MIRROR.tap_en (h : Nat) : Fld := ⟨R.TX_MIRROR h, 31, 31⟩
def F.TX_MIRROR.seg_pixels (h : Nat) : Fld := ⟨R.TX_MIRROR h, 27, 16⟩
/-- HEADh_TX_REMOTE (09 R205). -/
def R.TX_REMOTE (h : Nat) : Nat := 0x40107044 + 0x10000 * h
def F.TX_REMOTE.absent_frames (h : Nat) : Fld := ⟨R.TX_REMOTE h, 31, 24⟩
def F.TX_REMOTE.ring_log2 (h : Nat) : Fld := ⟨R.TX_REMOTE h, 23, 20⟩
def F.TX_REMOTE.lag (h : Nat) : Fld := ⟨R.TX_REMOTE h, 8, 0⟩
/-- HEADh_TX_REMOTE_SRC (09 R205). -/
def R.TX_REMOTE_SRC (h : Nat) : Nat := 0x40107048 + 0x10000 * h
def F.TX_REMOTE_SRC.source_id (h : Nat) : Fld := ⟨R.TX_REMOTE_SRC h, 31, 0⟩
/-- HEADh_TX_REMOTE_RING (09 R205). -/
def R.TX_REMOTE_RING (h : Nat) : Nat := 0x4010704c + 0x10000 * h
def F.TX_REMOTE_RING.base (h : Nat) : Fld := ⟨R.TX_REMOTE_RING h, 27, 16⟩
def F.TX_REMOTE_RING.discarded (h : Nat) : Fld := ⟨R.TX_REMOTE_RING h, 15, 0⟩
/-- HEADh_TX_TEST (09 R205). -/
def R.TX_TEST (h : Nat) : Nat := 0x40107050 + 0x10000 * h
def F.TX_TEST.phy_pattern (h : Nat) : Fld := ⟨R.TX_TEST h, 6, 4⟩
def F.TX_TEST.pattern (h : Nat) : Fld := ⟨R.TX_TEST h, 2, 0⟩
/-- HEADh_TX_TEST_COLOUR (09 R205). -/
def R.TX_TEST_COLOUR (h : Nat) : Nat := 0x40107054 + 0x10000 * h
def F.TX_TEST_COLOUR.colour (h : Nat) : Fld := ⟨R.TX_TEST_COLOUR h, 31, 0⟩
/-- HEADh_TX_IRQ (09 R205). -/
def R.TX_IRQ (h : Nat) : Nat := 0x4010705c + 0x10000 * h
def F.TX_IRQ.enable (h : Nat) : Fld := ⟨R.TX_IRQ h, 23, 16⟩
def F.TX_IRQ.aux_done (h : Nat) : Fld := ⟨R.TX_IRQ h, 7, 7⟩
def F.TX_IRQ.te_fault (h : Nat) : Fld := ⟨R.TX_IRQ h, 6, 6⟩
def F.TX_IRQ.source_change (h : Nat) : Fld := ⟨R.TX_IRQ h, 5, 5⟩
def F.TX_IRQ.fw_change (h : Nat) : Fld := ⟨R.TX_IRQ h, 4, 4⟩
def F.TX_IRQ.trained (h : Nat) : Fld := ⟨R.TX_IRQ h, 3, 3⟩
def F.TX_IRQ.link_lost (h : Nat) : Fld := ⟨R.TX_IRQ h, 2, 2⟩
def F.TX_IRQ.irq_hpd (h : Nat) : Fld := ⟨R.TX_IRQ h, 1, 1⟩
def F.TX_IRQ.plug (h : Nat) : Fld := ⟨R.TX_IRQ h, 0, 0⟩
/-- HEADh_TX_AUX_CTRL (09 R205). -/
def R.TX_AUX_CTRL (h : Nat) : Nat := 0x40107060 + 0x10000 * h
def F.TX_AUX_CTRL.aux_busy (h : Nat) : Fld := ⟨R.TX_AUX_CTRL h, 31, 31⟩
def F.TX_AUX_CTRL.result (h : Nat) : Fld := ⟨R.TX_AUX_CTRL h, 30, 28⟩
def F.TX_AUX_CTRL.cmd (h : Nat) : Fld := ⟨R.TX_AUX_CTRL h, 27, 24⟩
def F.TX_AUX_CTRL.len_m1 (h : Nat) : Fld := ⟨R.TX_AUX_CTRL h, 23, 20⟩
def F.TX_AUX_CTRL.addr (h : Nat) : Fld := ⟨R.TX_AUX_CTRL h, 19, 0⟩
/-- HEADh_TX_AUX_DATA (09 R205). -/
def R.TX_AUX_DATA (h k : Nat) : Nat := 0x40107070 + 0x10000 * h + 0x4 * k
def F.TX_AUX_DATA.data (h k : Nat) : Fld := ⟨R.TX_AUX_DATA h k, 31, 0⟩
/-- CHAIN_CTRL (10 R226). -/
def R.CHAIN_CTRL : Nat := 0x40300000
def F.CHAIN_CTRL.sign_every : Fld := ⟨R.CHAIN_CTRL, 7, 0⟩
/-- CHAIN_STATUS (10 R226). -/
def R.CHAIN_STATUS : Nat := 0x40300004
def F.CHAIN_STATUS.key_loaded : Fld := ⟨R.CHAIN_STATUS, 31, 31⟩
def F.CHAIN_STATUS.key_index : Fld := ⟨R.CHAIN_STATUS, 15, 8⟩
def F.CHAIN_STATUS.queue_depth : Fld := ⟨R.CHAIN_STATUS, 6, 0⟩
/-- CHAIN_RING (10 R226). -/
def R.CHAIN_RING : Nat := 0x40300008
def F.CHAIN_RING.ring_base : Fld := ⟨R.CHAIN_RING, 27, 16⟩
def F.CHAIN_RING.ring_log2 : Fld := ⟨R.CHAIN_RING, 4, 0⟩
/-- CHAIN_BAND_RING (10 R226). -/
def R.CHAIN_BAND_RING : Nat := 0x4030000c
def F.CHAIN_BAND_RING.band_base : Fld := ⟨R.CHAIN_BAND_RING, 27, 16⟩
def F.CHAIN_BAND_RING.band_log2 : Fld := ⟨R.CHAIN_BAND_RING, 3, 0⟩
/-- CHAIN_REC_WR (10 R226). -/
def R.CHAIN_REC_WR : Nat := 0x40300010
def F.CHAIN_REC_WR.count : Fld := ⟨R.CHAIN_REC_WR, 31, 0⟩
/-- CHAIN_BAND_WR (10 R226). -/
def R.CHAIN_BAND_WR : Nat := 0x40300014
def F.CHAIN_BAND_WR.count : Fld := ⟨R.CHAIN_BAND_WR, 31, 0⟩
/-- CHAIN_SIGNED (64 bits, _LO) (10 R226). -/
def R.CHAIN_SIGNED : Nat := 0x40300018
/-- CHAIN_QUEUE_PEAK (10 R226). -/
def R.CHAIN_QUEUE_PEAK : Nat := 0x40300020
def F.CHAIN_QUEUE_PEAK.peak : Fld := ⟨R.CHAIN_QUEUE_PEAK, 6, 0⟩
/-- HEADh_SEAL_CTRL (10 R226). -/
def R.SEAL_CTRL (h : Nat) : Nat := 0x40106000 + 0x10000 * h
def F.SEAL_CTRL.keep_bands (h : Nat) : Fld := ⟨R.SEAL_CTRL h, 16, 16⟩
def F.SEAL_CTRL.band_lines (h : Nat) : Fld := ⟨R.SEAL_CTRL h, 11, 0⟩
/-- HEADh_SEAL_STATUS (10 R226). -/
def R.SEAL_STATUS (h : Nat) : Nat := 0x40106004 + 0x10000 * h
def F.SEAL_STATUS.flags (h : Nat) : Fld := ⟨R.SEAL_STATUS h, 31, 16⟩
def F.SEAL_STATUS.bands (h : Nat) : Fld := ⟨R.SEAL_STATUS h, 6, 0⟩
/-- HEADh_SEAL_FRAME (64 bits, _LO) (10 R226). -/
def R.SEAL_FRAME (h : Nat) : Nat := 0x40106008 + 0x10000 * h
/-- HEADh_SEAL_FSEAL (10 R226). -/
def R.SEAL_FSEAL (h k : Nat) : Nat := 0x40106040 + 0x10000 * h + 0x4 * k
def F.SEAL_FSEAL.sealed (h k : Nat) : Fld := ⟨R.SEAL_FSEAL h k, 31, 0⟩
/-- HEADh_SEAL_NEXT_PREV (10 R226). -/
def R.SEAL_NEXT_PREV (h k : Nat) : Nat := 0x40106080 + 0x10000 * h + 0x4 * k
def F.SEAL_NEXT_PREV.hash (h k : Nat) : Fld := ⟨R.SEAL_NEXT_PREV h k, 31, 0⟩
/-- TANDEM_CTRL (11 R244). -/
def R.TANDEM_CTRL : Nat := 0x40310000
def F.TANDEM_CTRL.rejoin : Fld := ⟨R.TANDEM_CTRL, 2, 2⟩
def F.TANDEM_CTRL.handover : Fld := ⟨R.TANDEM_CTRL, 1, 1⟩
def F.TANDEM_CTRL.auto_rejoin : Fld := ⟨R.TANDEM_CTRL, 0, 0⟩
/-- TANDEM_STATUS (11 R244). -/
def R.TANDEM_STATUS : Nat := 0x40310004
def F.TANDEM_STATUS.state : Fld := ⟨R.TANDEM_STATUS, 31, 28⟩
def F.TANDEM_STATUS.role : Fld := ⟨R.TANDEM_STATUS, 27, 26⟩
def F.TANDEM_STATUS.link_up : Fld := ⟨R.TANDEM_STATUS, 25, 25⟩
def F.TANDEM_STATUS.twin_alive : Fld := ⟨R.TANDEM_STATUS, 24, 24⟩
def F.TANDEM_STATUS.eligible : Fld := ⟨R.TANDEM_STATUS, 23, 23⟩
def F.TANDEM_STATUS.index : Fld := ⟨R.TANDEM_STATUS, 22, 22⟩
def F.TANDEM_STATUS.refusal : Fld := ⟨R.TANDEM_STATUS, 21, 18⟩
def F.TANDEM_STATUS.rejoins : Fld := ⟨R.TANDEM_STATUS, 15, 0⟩
/-- TANDEM_OWN (11 R244). -/
def R.TANDEM_OWN : Nat := 0x40310008
def F.TANDEM_OWN.owned : Fld := ⟨R.TANDEM_OWN, 23, 0⟩
/-- TANDEM_TAKE_REQ (11 R244). -/
def R.TANDEM_TAKE_REQ : Nat := 0x4031000c
def F.TANDEM_TAKE_REQ.heads : Fld := ⟨R.TANDEM_TAKE_REQ, 23, 0⟩
/-- TANDEM_JOURNAL (11 R244). -/
def R.TANDEM_JOURNAL : Nat := 0x40310010
def F.TANDEM_JOURNAL.late : Fld := ⟨R.TANDEM_JOURNAL, 31, 16⟩
def F.TANDEM_JOURNAL.hold_lost : Fld := ⟨R.TANDEM_JOURNAL, 15, 0⟩
/-- TANDEM_DIVERGE (11 R244). -/
def R.TANDEM_DIVERGE : Nat := 0x40310014
def F.TANDEM_DIVERGE.remote : Fld := ⟨R.TANDEM_DIVERGE, 31, 16⟩
def F.TANDEM_DIVERGE.events : Fld := ⟨R.TANDEM_DIVERGE, 15, 8⟩
def F.TANDEM_DIVERGE.head : Fld := ⟨R.TANDEM_DIVERGE, 4, 0⟩
/-- TANDEM_LAST_TAKE (11 R244). -/
def R.TANDEM_LAST_TAKE : Nat := 0x40310018
def F.TANDEM_LAST_TAKE.cause : Fld := ⟨R.TANDEM_LAST_TAKE, 31, 29⟩
def F.TANDEM_LAST_TAKE.line : Fld := ⟨R.TANDEM_LAST_TAKE, 28, 17⟩
def F.TANDEM_LAST_TAKE.head : Fld := ⟨R.TANDEM_LAST_TAKE, 4, 0⟩
/-- TANDEM_LAST_TAKE_FRAME (64 bits, _LO) (11 R244). -/
def R.TANDEM_LAST_TAKE_FRAME : Nat := 0x40310020
/-- TANDEM_IRQ (11 R244). -/
def R.TANDEM_IRQ : Nat := 0x40310028
def F.TANDEM_IRQ.enable : Fld := ⟨R.TANDEM_IRQ, 18, 16⟩
def F.TANDEM_IRQ.diverged : Fld := ⟨R.TANDEM_IRQ, 2, 2⟩
def F.TANDEM_IRQ.state_change : Fld := ⟨R.TANDEM_IRQ, 1, 1⟩
def F.TANDEM_IRQ.take : Fld := ⟨R.TANDEM_IRQ, 0, 0⟩
/-- PEL_CTRL (12 R263). -/
def R.PEL_CTRL : Nat := 0x40320000
def F.PEL_CTRL.leave : Fld := ⟨R.PEL_CTRL, 2, 2⟩
def F.PEL_CTRL.join : Fld := ⟨R.PEL_CTRL, 1, 1⟩
def F.PEL_CTRL.leader_eligible : Fld := ⟨R.PEL_CTRL, 0, 0⟩
/-- PEL_STATUS (12 R263). -/
def R.PEL_STATUS : Nat := 0x40320004
def F.PEL_STATUS.state : Fld := ⟨R.PEL_STATUS, 31, 28⟩
def F.PEL_STATUS.role : Fld := ⟨R.PEL_STATUS, 27, 26⟩
def F.PEL_STATUS.resync_needed : Fld := ⟨R.PEL_STATUS, 25, 25⟩
def F.PEL_STATUS.refusal : Fld := ⟨R.PEL_STATUS, 24, 21⟩
def F.PEL_STATUS.depth : Fld := ⟨R.PEL_STATUS, 20, 16⟩
def F.PEL_STATUS.leader : Fld := ⟨R.PEL_STATUS, 9, 0⟩
/-- PEL_SELF (12 R263). -/
def R.PEL_SELF : Nat := 0x40320008
def F.PEL_SELF.chip_number : Fld := ⟨R.PEL_SELF, 25, 16⟩
def F.PEL_SELF.member_index : Fld := ⟨R.PEL_SELF, 9, 0⟩
/-- PEL_GUARD (12 R263). -/
def R.PEL_GUARD : Nat := 0x4032000c
def F.PEL_GUARD.max_retarget : Fld := ⟨R.PEL_GUARD, 27, 24⟩
def F.PEL_GUARD.close_guard : Fld := ⟨R.PEL_GUARD, 23, 16⟩
def F.PEL_GUARD.decide_guard : Fld := ⟨R.PEL_GUARD, 15, 8⟩
def F.PEL_GUARD.arm_guard : Fld := ⟨R.PEL_GUARD, 7, 0⟩
/-- PEL_APPLIED (64 bits, _LO) (12 R263). -/
def R.PEL_APPLIED : Nat := 0x40320010
/-- PEL_COMMIT_STATS (12 R263). -/
def R.PEL_COMMIT_STATS : Nat := 0x40320018
def F.PEL_COMMIT_STATS.retargets : Fld := ⟨R.PEL_COMMIT_STATS, 31, 24⟩
def F.PEL_COMMIT_STATS.late_ready : Fld := ⟨R.PEL_COMMIT_STATS, 23, 16⟩
def F.PEL_COMMIT_STATS.withdrawals : Fld := ⟨R.PEL_COMMIT_STATS, 15, 8⟩
def F.PEL_COMMIT_STATS.local_replaced : Fld := ⟨R.PEL_COMMIT_STATS, 7, 0⟩
/-- PEL_WALL_X (12 R263). -/
def R.PEL_WALL_X (h : Nat) : Nat := 0x40320100 + 0x8 * h
def F.PEL_WALL_X.in_wall (h : Nat) : Fld := ⟨R.PEL_WALL_X h, 31, 31⟩
def F.PEL_WALL_X.pos (h : Nat) : Fld := ⟨R.PEL_WALL_X h, 19, 0⟩
/-- PEL_WALL_Y (12 R263). -/
def R.PEL_WALL_Y (h : Nat) : Nat := 0x40320104 + 0x8 * h
def F.PEL_WALL_Y.in_wall (h : Nat) : Fld := ⟨R.PEL_WALL_Y h, 31, 31⟩
def F.PEL_WALL_Y.pos (h : Nat) : Fld := ⟨R.PEL_WALL_Y h, 19, 0⟩
/-- PEL_WALL_SRC (12 R263). -/
def R.PEL_WALL_SRC : Nat := 0x40320200
def F.PEL_WALL_SRC.src_base : Fld := ⟨R.PEL_WALL_SRC, 27, 6⟩
/-- PEL_SPRITE_OWN (12 R263). -/
def R.PEL_SPRITE_OWN : Nat := 0x40320204
def F.PEL_SPRITE_OWN.handoffs : Fld := ⟨R.PEL_SPRITE_OWN, 31, 16⟩
def F.PEL_SPRITE_OWN.owned : Fld := ⟨R.PEL_SPRITE_OWN, 10, 0⟩
/-- PEL_GENLOCK (12 R263). -/
def R.PEL_GENLOCK : Nat := 0x40320208
def F.PEL_GENLOCK.worst : Fld := ⟨R.PEL_GENLOCK, 31, 16⟩
def F.PEL_GENLOCK.member : Fld := ⟨R.PEL_GENLOCK, 9, 0⟩
/-- PEL_GENLOCK_SELF (12 R263). -/
def R.PEL_GENLOCK_SELF : Nat := 0x4032020c
def F.PEL_GENLOCK_SELF.offset : Fld := ⟨R.PEL_GENLOCK_SELF, 31, 0⟩
/-- PEL_IRQ (12 R263). -/
def R.PEL_IRQ : Nat := 0x40320210
def F.PEL_IRQ.enable : Fld := ⟨R.PEL_IRQ, 20, 16⟩
def F.PEL_IRQ.own_change : Fld := ⟨R.PEL_IRQ, 4, 4⟩
def F.PEL_IRQ.withdrawn : Fld := ⟨R.PEL_IRQ, 3, 3⟩
def F.PEL_IRQ.role_change : Fld := ⟨R.PEL_IRQ, 2, 2⟩
def F.PEL_IRQ.retarget : Fld := ⟨R.PEL_IRQ, 1, 1⟩
def F.PEL_IRQ.applied : Fld := ⟨R.PEL_IRQ, 0, 0⟩
/-- ETH_CTRL (13 R282). -/
def R.ETH_CTRL (p : Nat) : Nat := 0x40010000 + 0x8000 * p
def F.ETH_CTRL.ien (p : Nat) : Fld := ⟨R.ETH_CTRL p, 26, 24⟩
def F.ETH_CTRL.mtu (p : Nat) : Fld := ⟨R.ETH_CTRL p, 13, 0⟩
/-- ETH_MODE (13 R282). -/
def R.ETH_MODE (p : Nat) : Nat := 0x40010004 + 0x8000 * p
def F.ETH_MODE.ptp_profile (p : Nat) : Fld := ⟨R.ETH_MODE p, 3, 3⟩
def F.ETH_MODE.untagged_en (p : Nat) : Fld := ⟨R.ETH_MODE p, 2, 2⟩
def F.ETH_MODE.prp (p : Nat) : Fld := ⟨R.ETH_MODE p, 1, 1⟩
def F.ETH_MODE.phy (p : Nat) : Fld := ⟨R.ETH_MODE p, 0, 0⟩
/-- ETH_STATUS (13 R282). -/
def R.ETH_STATUS (p : Nat) : Nat := 0x40010008 + 0x8000 * p
def F.ETH_STATUS.link_up (p : Nat) : Fld := ⟨R.ETH_STATUS p, 31, 31⟩
def F.ETH_STATUS.ptp_state (p : Nat) : Fld := ⟨R.ETH_STATUS p, 30, 28⟩
def F.ETH_STATUS.followed (p : Nat) : Fld := ⟨R.ETH_STATUS p, 27, 27⟩
def F.ETH_STATUS.fec_uncorr (p : Nat) : Fld := ⟨R.ETH_STATUS p, 2, 2⟩
def F.ETH_STATUS.ptp_change (p : Nat) : Fld := ⟨R.ETH_STATUS p, 1, 1⟩
def F.ETH_STATUS.link_change (p : Nat) : Fld := ⟨R.ETH_STATUS p, 0, 0⟩
/-- ETH_ADDR (13 R282). -/
def R.ETH_ADDR (p k : Nat) : Nat := 0x40010010 + 0x8000 * p + 0x4 * k
def F.ETH_ADDR.addr (p k : Nat) : Fld := ⟨R.ETH_ADDR p k, 31, 0⟩
/-- ETH_MIRROR_PORT (13 R282). -/
def R.ETH_MIRROR_PORT (p : Nat) : Nat := 0x40010030 + 0x8000 * p
def F.ETH_MIRROR_PORT.mirror_port (p : Nat) : Fld := ⟨R.ETH_MIRROR_PORT p, 15, 0⟩
/-- ETH_PTP_ASYM (13 R282). -/
def R.ETH_PTP_ASYM (p : Nat) : Nat := 0x40010034 + 0x8000 * p
def F.ETH_PTP_ASYM.asym (p : Nat) : Fld := ⟨R.ETH_PTP_ASYM p, 31, 0⟩
/-- ETH_PTP_DELAY (13 R282). -/
def R.ETH_PTP_DELAY (p : Nat) : Nat := 0x40010038 + 0x8000 * p
def F.ETH_PTP_DELAY.delay (p : Nat) : Fld := ⟨R.ETH_PTP_DELAY p, 31, 0⟩
/-- ETH_PRP (13 R282). -/
def R.ETH_PRP (p : Nat) : Nat := 0x4001003c + 0x8000 * p
def F.ETH_PRP.wrong_lan (p : Nat) : Fld := ⟨R.ETH_PRP p, 31, 16⟩
def F.ETH_PRP.table_full (p : Nat) : Fld := ⟨R.ETH_PRP p, 15, 0⟩
/-- ETH_RX_DROP (13 R282). -/
def R.ETH_RX_DROP (p r : Nat) : Nat := 0x40010040 + 0x8000 * p + 0x4 * r
def F.ETH_RX_DROP.count (p r : Nat) : Fld := ⟨R.ETH_RX_DROP p r, 31, 0⟩
/-- ETH_VLAN (13 R282). -/
def R.ETH_VLAN (p v : Nat) : Nat := 0x40010100 + 0x8000 * p + 0x4 * v
def F.ETH_VLAN.valid (p v : Nat) : Fld := ⟨R.ETH_VLAN p v, 31, 31⟩
def F.ETH_VLAN.vid (p v : Nat) : Fld := ⟨R.ETH_VLAN p v, 11, 0⟩
/-- ETH_MCAST (64 bits, _LO) (13 R282). -/
def R.ETH_MCAST (p i : Nat) : Nat := 0x40011000 + 0x8000 * p + 0x8 * i
/-- ODO_CTRL (13 R282). -/
def R.ODO_CTRL : Nat := 0x40020000
def F.ODO_CTRL.ien : Fld := ⟨R.ODO_CTRL, 26, 24⟩
def F.ODO_CTRL.forget : Fld := ⟨R.ODO_CTRL, 1, 1⟩
def F.ODO_CTRL.snap : Fld := ⟨R.ODO_CTRL, 0, 0⟩
/-- ODO_STATUS (13 R282). -/
def R.ODO_STATUS : Nat := 0x40020004
def F.ODO_STATUS.time_state : Fld := ⟨R.ODO_STATUS, 31, 30⟩
def F.ODO_STATUS.released : Fld := ⟨R.ODO_STATUS, 29, 29⟩
def F.ODO_STATUS.converged : Fld := ⟨R.ODO_STATUS, 28, 28⟩
def F.ODO_STATUS.kick_valid : Fld := ⟨R.ODO_STATUS, 27, 27⟩
def F.ODO_STATUS.gm_rejected : Fld := ⟨R.ODO_STATUS, 26, 26⟩
def F.ODO_STATUS.port : Fld := ⟨R.ODO_STATUS, 25, 25⟩
def F.ODO_STATUS.saturated : Fld := ⟨R.ODO_STATUS, 2, 2⟩
def F.ODO_STATUS.gm_change : Fld := ⟨R.ODO_STATUS, 1, 1⟩
def F.ODO_STATUS.state_change : Fld := ⟨R.ODO_STATUS, 0, 0⟩
/-- ODO_TIME (64 bits, _LO) (13 R282). -/
def R.ODO_TIME : Nat := 0x40020008
/-- ODO_SET (64 bits, _LO) (13 R282). -/
def R.ODO_SET : Nat := 0x40020010
/-- ODO_SNAP_ROOT (64 bits, _LO) (13 R282). -/
def R.ODO_SNAP_ROOT : Nat := 0x40020018
/-- ODO_SNAP_NS (64 bits, _LO) (13 R282). -/
def R.ODO_SNAP_NS : Nat := 0x40020020
/-- ODO_SNAP_SEC (64 bits, _LO) (13 R282). -/
def R.ODO_SNAP_SEC : Nat := 0x40020028
/-- ODO_SNAP_SUB (13 R282). -/
def R.ODO_SNAP_SUB : Nat := 0x40020030
def F.ODO_SNAP_SUB.nanoseconds : Fld := ⟨R.ODO_SNAP_SUB, 31, 0⟩
/-- ODO_OFFSET (13 R282). -/
def R.ODO_OFFSET : Nat := 0x40020034
def F.ODO_OFFSET.offset : Fld := ⟨R.ODO_OFFSET, 31, 0⟩
/-- ODO_FREQ (13 R282). -/
def R.ODO_FREQ : Nat := 0x40020038
def F.ODO_FREQ.ppb : Fld := ⟨R.ODO_FREQ, 31, 0⟩
/-- ODO_SERVO (13 R282). -/
def R.ODO_SERVO : Nat := 0x4002003c
def F.ODO_SERVO.domain : Fld := ⟨R.ODO_SERVO, 15, 8⟩
def F.ODO_SERVO.slew_max : Fld := ⟨R.ODO_SERVO, 7, 0⟩
/-- ODO_UTC (13 R282). -/
def R.ODO_UTC : Nat := 0x40020040
def F.ODO_UTC.from_gm : Fld := ⟨R.ODO_UTC, 31, 31⟩
def F.ODO_UTC.leap61 : Fld := ⟨R.ODO_UTC, 30, 30⟩
def F.ODO_UTC.leap59 : Fld := ⟨R.ODO_UTC, 29, 29⟩
def F.ODO_UTC.utc_offset : Fld := ⟨R.ODO_UTC, 15, 0⟩
/-- ODO_GM (64 bits, _LO) (13 R282). -/
def R.ODO_GM : Nat := 0x40020048
/-- ODO_GM_INACC (13 R282). -/
def R.ODO_GM_INACC : Nat := 0x40020050
def F.ODO_GM_INACC.ns : Fld := ⟨R.ODO_GM_INACC, 31, 0⟩
/-- VTK_CTRL (14 R304). -/
def R.VTK_CTRL : Nat := 0x40030000
def F.VTK_CTRL.enable : Fld := ⟨R.VTK_CTRL, 0, 0⟩
/-- VTK_STATUS (14 R304). -/
def R.VTK_STATUS : Nat := 0x40030004
def F.VTK_STATUS.leases : Fld := ⟨R.VTK_STATUS, 24, 16⟩
def F.VTK_STATUS.outstanding : Fld := ⟨R.VTK_STATUS, 12, 0⟩
/-- VTK_OPEN (64 bits, _LO) (14 R304). -/
def R.VTK_OPEN : Nat := 0x40030008
/-- VTK_ORDER (14 R304). -/
def R.VTK_ORDER : Nat := 0x40030010
def F.VTK_ORDER.superseded : Fld := ⟨R.VTK_ORDER, 31, 16⟩
def F.VTK_ORDER.late : Fld := ⟨R.VTK_ORDER, 15, 8⟩
def F.VTK_ORDER.busy : Fld := ⟨R.VTK_ORDER, 7, 0⟩
/-- VTK_ILLEGAL (14 R304). -/
def R.VTK_ILLEGAL (r : Nat) : Nat := 0x40030020 + 0x4 * r
def F.VTK_ILLEGAL.count (r : Nat) : Fld := ⟨R.VTK_ILLEGAL r, 31, 0⟩
/-- VTK_SESSION (14 R304). -/
def R.VTK_SESSION (s : Nat) : Nat := 0x40030100 + 0x4 * s
def F.VTK_SESSION.state (s : Nat) : Fld := ⟨R.VTK_SESSION s, 31, 30⟩
def F.VTK_SESSION.priority (s : Nat) : Fld := ⟨R.VTK_SESSION s, 29, 27⟩
def F.VTK_SESSION.key_slot (s : Nat) : Fld := ⟨R.VTK_SESSION s, 23, 16⟩
def F.VTK_SESSION.outstanding (s : Nat) : Fld := ⟨R.VTK_SESSION s, 8, 0⟩
/-- VTK_IRQ (14 R304). -/
def R.VTK_IRQ : Nat := 0x40030200
def F.VTK_IRQ.enable : Fld := ⟨R.VTK_IRQ, 18, 16⟩
def F.VTK_IRQ.illegal : Fld := ⟨R.VTK_IRQ, 2, 2⟩
def F.VTK_IRQ.unlock : Fld := ⟨R.VTK_IRQ, 1, 1⟩
def F.VTK_IRQ.session : Fld := ⟨R.VTK_IRQ, 0, 0⟩
/-- BLT_STATUS (15 R319). -/
def R.BLT_STATUS : Nat := 0x40330000
def F.BLT_STATUS.busy : Fld := ⟨R.BLT_STATUS, 31, 31⟩
def F.BLT_STATUS.waiting : Fld := ⟨R.BLT_STATUS, 30, 30⟩
def F.BLT_STATUS.queue : Fld := ⟨R.BLT_STATUS, 25, 24⟩
def F.BLT_STATUS.index : Fld := ⟨R.BLT_STATUS, 15, 0⟩
/-- BLT_Q_BASE (15 R319). -/
def R.BLT_Q_BASE (q : Nat) : Nat := 0x40330010 + 0x10 * q
def F.BLT_Q_BASE.base (q : Nat) : Fld := ⟨R.BLT_Q_BASE q, 27, 6⟩
def F.BLT_Q_BASE.log2 (q : Nat) : Fld := ⟨R.BLT_Q_BASE q, 3, 0⟩
/-- BLT_Q_CTRL (15 R319). -/
def R.BLT_Q_CTRL (q : Nat) : Nat := 0x40330014 + 0x10 * q
def F.BLT_Q_CTRL.cancel (q : Nat) : Fld := ⟨R.BLT_Q_CTRL q, 2, 2⟩
def F.BLT_Q_CTRL.halted (q : Nat) : Fld := ⟨R.BLT_Q_CTRL q, 1, 1⟩
def F.BLT_Q_CTRL.enable (q : Nat) : Fld := ⟨R.BLT_Q_CTRL q, 0, 0⟩
/-- BLT_Q_WR (15 R319). -/
def R.BLT_Q_WR (q : Nat) : Nat := 0x40330018 + 0x10 * q
def F.BLT_Q_WR.wr (q : Nat) : Fld := ⟨R.BLT_Q_WR q, 15, 0⟩
/-- BLT_Q_RD (15 R319). -/
def R.BLT_Q_RD (q : Nat) : Nat := 0x4033001c + 0x10 * q
def F.BLT_Q_RD.rd (q : Nat) : Fld := ⟨R.BLT_Q_RD q, 15, 0⟩
/-- BLT_LAST_ERR (15 R319). -/
def R.BLT_LAST_ERR : Nat := 0x40330050
def F.BLT_LAST_ERR.status : Fld := ⟨R.BLT_LAST_ERR, 31, 28⟩
def F.BLT_LAST_ERR.queue : Fld := ⟨R.BLT_LAST_ERR, 17, 16⟩
def F.BLT_LAST_ERR.index : Fld := ⟨R.BLT_LAST_ERR, 15, 0⟩
/-- BLT_PIXELS (64 bits, _LO) (15 R319). -/
def R.BLT_PIXELS : Nat := 0x40330058
/-- BLT_IRQ (15 R319). -/
def R.BLT_IRQ : Nat := 0x40330060
def F.BLT_IRQ.enable : Fld := ⟨R.BLT_IRQ, 23, 16⟩
def F.BLT_IRQ.error : Fld := ⟨R.BLT_IRQ, 7, 4⟩
def F.BLT_IRQ.done : Fld := ⟨R.BLT_IRQ, 3, 0⟩
/-- BELL_CTRL (16 R338). -/
def R.BELL_CTRL : Nat := 0x40340000
def F.BELL_CTRL.swap_mode : Fld := ⟨R.BELL_CTRL, 3, 2⟩
def F.BELL_CTRL.default_mode : Fld := ⟨R.BELL_CTRL, 1, 0⟩
/-- BELL_STATUS (16 R338). -/
def R.BELL_STATUS : Nat := 0x40340004
def F.BELL_STATUS.active : Fld := ⟨R.BELL_STATUS, 23, 16⟩
def F.BELL_STATUS.queue : Fld := ⟨R.BELL_STATUS, 8, 0⟩
/-- BELL_CUE_CMD (16 R338). -/
def R.BELL_CUE_CMD : Nat := 0x40340008
def F.BELL_CUE_CMD.cue : Fld := ⟨R.BELL_CUE_CMD, 24, 16⟩
def F.BELL_CUE_CMD.arg : Fld := ⟨R.BELL_CUE_CMD, 7, 0⟩
/-- BELL_CUE_BASE (16 R338). -/
def R.BELL_CUE_BASE : Nat := 0x4034000c
def F.BELL_CUE_BASE.base : Fld := ⟨R.BELL_CUE_BASE, 27, 14⟩
/-- BELL_XP_SEL (16 R338). -/
def R.BELL_XP_SEL : Nat := 0x40340010
def F.BELL_XP_SEL.bus : Fld := ⟨R.BELL_XP_SEL, 14, 8⟩
def F.BELL_XP_SEL.input : Fld := ⟨R.BELL_XP_SEL, 7, 0⟩
/-- BELL_XP_DATA (16 R338). -/
def R.BELL_XP_DATA : Nat := 0x40340014
def F.BELL_XP_DATA.mode : Fld := ⟨R.BELL_XP_DATA, 17, 16⟩
def F.BELL_XP_DATA.gain : Fld := ⟨R.BELL_XP_DATA, 15, 0⟩
/-- BELL_ERRS (16 R338). -/
def R.BELL_ERRS : Nat := 0x40340018
def F.BELL_ERRS.refused : Fld := ⟨R.BELL_ERRS, 31, 16⟩
def F.BELL_ERRS.mem_zeroed : Fld := ⟨R.BELL_ERRS, 15, 0⟩
/-- BELL_IRQ (16 R338). -/
def R.BELL_IRQ : Nat := 0x4034001c
def F.BELL_IRQ.enable : Fld := ⟨R.BELL_IRQ, 19, 16⟩
def F.BELL_IRQ.mem_error : Fld := ⟨R.BELL_IRQ, 3, 3⟩
def F.BELL_IRQ.unlock : Fld := ⟨R.BELL_IRQ, 2, 2⟩
def F.BELL_IRQ.limiting : Fld := ⟨R.BELL_IRQ, 1, 1⟩
def F.BELL_IRQ.refused : Fld := ⟨R.BELL_IRQ, 0, 0⟩
/-- BELL_VOICE_SEL (16 R338). -/
def R.BELL_VOICE_SEL : Nat := 0x40340020
def F.BELL_VOICE_SEL.voice : Fld := ⟨R.BELL_VOICE_SEL, 6, 0⟩
/-- BELL_VOICE_STATE (16 R338). -/
def R.BELL_VOICE_STATE : Nat := 0x40340024
def F.BELL_VOICE_STATE.phase : Fld := ⟨R.BELL_VOICE_STATE, 31, 29⟩
def F.BELL_VOICE_STATE.cue : Fld := ⟨R.BELL_VOICE_STATE, 24, 16⟩
def F.BELL_VOICE_STATE.envelope : Fld := ⟨R.BELL_VOICE_STATE, 15, 0⟩
/-- BELL_TICK (64 bits, _LO) (16 R338). -/
def R.BELL_TICK : Nat := 0x40340028
/-- BELL_VOICE_OWN (16 R338). -/
def R.BELL_VOICE_OWN (i : Nat) : Nat := 0x40340040 + 0x4 * i
def F.BELL_VOICE_OWN.own (i : Nat) : Fld := ⟨R.BELL_VOICE_OWN i, 31, 0⟩
/-- BELL_TDM (16 R338). -/
def R.BELL_TDM (p : Nat) : Nat := 0x40340100 + 0x8 * p
def F.BELL_TDM.enable (p : Nat) : Fld := ⟨R.BELL_TDM p, 31, 31⟩
def F.BELL_TDM.input (p : Nat) : Fld := ⟨R.BELL_TDM p, 30, 30⟩
def F.BELL_TDM.master (p : Nat) : Fld := ⟨R.BELL_TDM p, 29, 29⟩
def F.BELL_TDM.fs_len (p : Nat) : Fld := ⟨R.BELL_TDM p, 28, 28⟩
def F.BELL_TDM.delay (p : Nat) : Fld := ⟨R.BELL_TDM p, 27, 27⟩
def F.BELL_TDM.bits24 (p : Nat) : Fld := ⟨R.BELL_TDM p, 26, 26⟩
/-- BELL_TDM_STATUS (16 R338). -/
def R.BELL_TDM_STATUS (p : Nat) : Nat := 0x40340104 + 0x8 * p
def F.BELL_TDM_STATUS.locked (p : Nat) : Fld := ⟨R.BELL_TDM_STATUS p, 31, 31⟩
def F.BELL_TDM_STATUS.rate (p : Nat) : Fld := ⟨R.BELL_TDM_STATUS p, 23, 0⟩
/-- BELL_SINK (16 R338). -/
def R.BELL_SINK (s : Nat) : Nat := 0x40340400 + 0x4 * s
def F.BELL_SINK.mode (s : Nat) : Fld := ⟨R.BELL_SINK s, 9, 8⟩
def F.BELL_SINK.bus (s : Nat) : Fld := ⟨R.BELL_SINK s, 7, 0⟩
/-- BELL_BUS (16 R338). -/
def R.BELL_BUS (b : Nat) : Nat := 0x40340800 + 0x8 * b
def F.BELL_BUS.ll (b : Nat) : Fld := ⟨R.BELL_BUS b, 31, 31⟩
def F.BELL_BUS.release_step (b : Nat) : Fld := ⟨R.BELL_BUS b, 27, 24⟩
def F.BELL_BUS.ceiling (b : Nat) : Fld := ⟨R.BELL_BUS b, 23, 16⟩
def F.BELL_BUS.min_gain (b : Nat) : Fld := ⟨R.BELL_BUS b, 15, 0⟩
/-- BELL_BUS_GAIN (16 R338). -/
def R.BELL_BUS_GAIN (b : Nat) : Nat := 0x40340804 + 0x8 * b
def F.BELL_BUS_GAIN.gain (b : Nat) : Fld := ⟨R.BELL_BUS_GAIN b, 15, 0⟩
/-- INTC_CTRL (18 R371). -/
def R.INTC_CTRL : Nat := 0x40350000
def F.INTC_CTRL.profile : Fld := ⟨R.INTC_CTRL, 31, 31⟩
def F.INTC_CTRL.gdis : Fld := ⟨R.INTC_CTRL, 0, 0⟩
/-- INTC_MERGED (18 R371). -/
def R.INTC_MERGED : Nat := 0x40350004
def F.INTC_MERGED.count : Fld := ⟨R.INTC_MERGED, 31, 16⟩
def F.INTC_MERGED.last_id : Fld := ⟨R.INTC_MERGED, 9, 0⟩
/-- INTC_DOORBELL (18 R371). -/
def R.INTC_DOORBELL : Nat := 0x40350008
def F.INTC_DOORBELL.core : Fld := ⟨R.INTC_DOORBELL, 12, 8⟩
def F.INTC_DOORBELL.bell : Fld := ⟨R.INTC_DOORBELL, 4, 0⟩
/-- INTC_WAKE (18 R371). -/
def R.INTC_WAKE : Nat := 0x40350010
def F.INTC_WAKE.twin : Fld := ⟨R.INTC_WAKE, 1, 1⟩
def F.INTC_WAKE.alarm : Fld := ⟨R.INTC_WAKE, 0, 0⟩
/-- INTC_WAKE_CAUSE (18 R371). -/
def R.INTC_WAKE_CAUSE : Nat := 0x40350014
def F.INTC_WAKE_CAUSE.valid : Fld := ⟨R.INTC_WAKE_CAUSE, 31, 31⟩
def F.INTC_WAKE_CAUSE.id : Fld := ⟨R.INTC_WAKE_CAUSE, 9, 0⟩
/-- INTC_WAKE_FIELD (64 bits, _LO) (18 R371). -/
def R.INTC_WAKE_FIELD : Nat := 0x40350018
/-- INTC_CLAIM (18 R371). -/
def R.INTC_CLAIM (k : Nat) : Nat := 0x40351000 + 0x40 * k
def F.INTC_CLAIM.id (k : Nat) : Fld := ⟨R.INTC_CLAIM k, 9, 0⟩
/-- INTC_EOI (18 R371). -/
def R.INTC_EOI (k : Nat) : Nat := 0x40351004 + 0x40 * k
def F.INTC_EOI.id (k : Nat) : Fld := ⟨R.INTC_EOI k, 9, 0⟩
/-- INTC_FAST_ID (18 R371). -/
def R.INTC_FAST_ID (k : Nat) : Nat := 0x40351008 + 0x40 * k
def F.INTC_FAST_ID.id (k : Nat) : Fld := ⟨R.INTC_FAST_ID k, 9, 0⟩
/-- INTC_FAST_EOI (18 R371). -/
def R.INTC_FAST_EOI (k : Nat) : Nat := 0x4035100c + 0x40 * k
def F.INTC_FAST_EOI.any (k : Nat) : Fld := ⟨R.INTC_FAST_EOI k, 31, 0⟩
/-- INTC_CORE_CTRL (18 R371). -/
def R.INTC_CORE_CTRL (k : Nat) : Nat := 0x40351010 + 0x40 * k
def F.INTC_CORE_CTRL.priv_fast (k : Nat) : Fld := ⟨R.INTC_CORE_CTRL k, 16, 16⟩
def F.INTC_CORE_CTRL.priv_prio (k : Nat) : Fld := ⟨R.INTC_CORE_CTRL k, 11, 8⟩
def F.INTC_CORE_CTRL.dis (k : Nat) : Fld := ⟨R.INTC_CORE_CTRL k, 4, 4⟩
def F.INTC_CORE_CTRL.threshold (k : Nat) : Fld := ⟨R.INTC_CORE_CTRL k, 3, 0⟩
/-- INTC_RUNNING (18 R371). -/
def R.INTC_RUNNING (k : Nat) : Nat := 0x40351014 + 0x40 * k
def F.INTC_RUNNING.depth (k : Nat) : Fld := ⟨R.INTC_RUNNING k, 19, 16⟩
def F.INTC_RUNNING.priority (k : Nat) : Fld := ⟨R.INTC_RUNNING k, 3, 0⟩
/-- INTC_EOI_BAD (18 R371). -/
def R.INTC_EOI_BAD (k : Nat) : Nat := 0x40351018 + 0x40 * k
def F.INTC_EOI_BAD.count (k : Nat) : Fld := ⟨R.INTC_EOI_BAD k, 31, 16⟩
def F.INTC_EOI_BAD.last (k : Nat) : Fld := ⟨R.INTC_EOI_BAD k, 9, 0⟩
/-- INTC_PRIV_EN (18 R371). -/
def R.INTC_PRIV_EN (k : Nat) : Nat := 0x4035101c + 0x40 * k
def F.INTC_PRIV_EN.bells (k : Nat) : Fld := ⟨R.INTC_PRIV_EN k, 31, 0⟩
/-- INTC_PRIV_PEND (18 R371). -/
def R.INTC_PRIV_PEND (k : Nat) : Nat := 0x40351020 + 0x40 * k
def F.INTC_PRIV_PEND.bells (k : Nat) : Fld := ⟨R.INTC_PRIV_PEND k, 31, 0⟩
/-- INTC_SRC (18 R371). -/
def R.INTC_SRC (i : Nat) : Nat := 0x40354000 + 0x4 * i
def F.INTC_SRC.enable (i : Nat) : Fld := ⟨R.INTC_SRC i, 31, 31⟩
def F.INTC_SRC.pending (i : Nat) : Fld := ⟨R.INTC_SRC i, 30, 30⟩
def F.INTC_SRC.active (i : Nat) : Fld := ⟨R.INTC_SRC i, 29, 29⟩
def F.INTC_SRC.asserted (i : Nat) : Fld := ⟨R.INTC_SRC i, 28, 28⟩
def F.INTC_SRC.edge (i : Nat) : Fld := ⟨R.INTC_SRC i, 27, 27⟩
def F.INTC_SRC.fast (i : Nat) : Fld := ⟨R.INTC_SRC i, 16, 16⟩
def F.INTC_SRC.priority (i : Nat) : Fld := ⟨R.INTC_SRC i, 15, 12⟩
def F.INTC_SRC.core (i : Nat) : Fld := ⟨R.INTC_SRC i, 4, 0⟩
/-- TMRt_CTRL (19 R389). -/
def R.TMR_CTRL (t : Nat) : Nat := 0x40370000 + 0x40 * t
def F.TMR_CTRL.cmp_en (t : Nat) : Fld := ⟨R.TMR_CTRL t, 31, 31⟩
def F.TMR_CTRL.reload (t : Nat) : Fld := ⟨R.TMR_CTRL t, 30, 30⟩
def F.TMR_CTRL.ien (t : Nat) : Fld := ⟨R.TMR_CTRL t, 29, 29⟩
def F.TMR_CTRL.source (t : Nat) : Fld := ⟨R.TMR_CTRL t, 27, 26⟩
def F.TMR_CTRL.div (t : Nat) : Fld := ⟨R.TMR_CTRL t, 23, 0⟩
/-- TMRt_STATUS (19 R389). -/
def R.TMR_STATUS (t : Nat) : Nat := 0x40370004 + 0x40 * t
def F.TMR_STATUS.overrun (t : Nat) : Fld := ⟨R.TMR_STATUS t, 1, 1⟩
def F.TMR_STATUS.hit (t : Nat) : Fld := ⟨R.TMR_STATUS t, 0, 0⟩
/-- TMRt_COUNT (64 bits, _LO) (19 R389). -/
def R.TMR_COUNT (t : Nat) : Nat := 0x40370008 + 0x40 * t
/-- TMRt_COMPARE (64 bits, _LO) (19 R389). -/
def R.TMR_COMPARE (t : Nat) : Nat := 0x40370010 + 0x40 * t
/-- TMRt_PERIOD (64 bits, _LO) (19 R389). -/
def R.TMR_PERIOD (t : Nat) : Nat := 0x40370018 + 0x40 * t
/-- TMRt_SNAP (64 bits, _LO) (19 R389). -/
def R.TMR_CH_SNAP (t : Nat) : Nat := 0x40370020 + 0x40 * t
/-- TMR_SNAP (19 R389). -/
def R.TMR_SNAP : Nat := 0x40370800
def F.TMR_SNAP.channels : Fld := ⟨R.TMR_SNAP, 31, 0⟩
/-- TMR_SNAP_TIME (64 bits, _LO) (19 R389). -/
def R.TMR_SNAP_TIME : Nat := 0x40370808
/-- FL_CFG (19 R389). -/
def R.FL_CFG (n : Nat) : Nat := 0x40371000 + 0x20 * n
def F.FL_CFG.dir (n : Nat) : Fld := ⟨R.FL_CFG n, 31, 31⟩
def F.FL_CFG.od (n : Nat) : Fld := ⟨R.FL_CFG n, 30, 30⟩
def F.FL_CFG.invert (n : Nat) : Fld := ⟨R.FL_CFG n, 29, 29⟩
def F.FL_CFG.edges (n : Nat) : Fld := ⟨R.FL_CFG n, 28, 27⟩
def F.FL_CFG.ien (n : Nat) : Fld := ⟨R.FL_CFG n, 26, 26⟩
def F.FL_CFG.timer (n : Nat) : Fld := ⟨R.FL_CFG n, 25, 21⟩
def F.FL_CFG.src_timer (n : Nat) : Fld := ⟨R.FL_CFG n, 20, 20⟩
def F.FL_CFG.src_der (n : Nat) : Fld := ⟨R.FL_CFG n, 19, 19⟩
def F.FL_CFG.src_reg (n : Nat) : Fld := ⟨R.FL_CFG n, 18, 18⟩
def F.FL_CFG.debounce (n : Nat) : Fld := ⟨R.FL_CFG n, 15, 0⟩
/-- FL_STATUS (19 R389). -/
def R.FL_STATUS (n : Nat) : Nat := 0x40371004 + 0x20 * n
def F.FL_STATUS.level (n : Nat) : Fld := ⟨R.FL_STATUS n, 31, 31⟩
def F.FL_STATUS.driven (n : Nat) : Fld := ⟨R.FL_STATUS n, 30, 30⟩
def F.FL_STATUS.short (n : Nat) : Fld := ⟨R.FL_STATUS n, 29, 29⟩
def F.FL_STATUS.overflow (n : Nat) : Fld := ⟨R.FL_STATUS n, 28, 28⟩
def F.FL_STATUS.depth (n : Nat) : Fld := ⟨R.FL_STATUS n, 27, 24⟩
def F.FL_STATUS.dropped (n : Nat) : Fld := ⟨R.FL_STATUS n, 15, 0⟩
/-- FL_CAP_TIME (64 bits, _LO) (19 R389). -/
def R.FL_CAP_TIME (n : Nat) : Nat := 0x40371008 + 0x20 * n
/-- FL_CAP_POP (19 R389). -/
def R.FL_CAP_POP (n : Nat) : Nat := 0x40371010 + 0x20 * n
def F.FL_CAP_POP.valid (n : Nat) : Fld := ⟨R.FL_CAP_POP n, 31, 31⟩
def F.FL_CAP_POP.rising (n : Nat) : Fld := ⟨R.FL_CAP_POP n, 30, 30⟩
/-- FL_OUT (64 bits, _LO) (19 R389). -/
def R.FL_OUT : Nat := 0x40371800
/-- FL_OUT_SET (64 bits, _LO) (19 R389). -/
def R.FL_OUT_SET : Nat := 0x40371808
/-- FL_OUT_CLR (64 bits, _LO) (19 R389). -/
def R.FL_OUT_CLR : Nat := 0x40371810
/-- FL_LEVEL (64 bits, _LO) (19 R389). -/
def R.FL_LEVEL : Nat := 0x40371818
/-- FL_SHORT (64 bits, _LO) (19 R389). -/
def R.FL_SHORT : Nat := 0x40371820
/-- DMA_CTRL (20 R397). -/
def R.DMA_CTRL (e : Nat) : Nat := 0x40360000 + 0x1000 * e
def F.DMA_CTRL.resume (e : Nat) : Fld := ⟨R.DMA_CTRL e, 0, 0⟩
/-- DMA_STATUS (20 R397). -/
def R.DMA_STATUS (e : Nat) : Nat := 0x40360004 + 0x1000 * e
def F.DMA_STATUS.halted (e : Nat) : Fld := ⟨R.DMA_STATUS e, 31, 31⟩
def F.DMA_STATUS.busy (e : Nat) : Fld := ⟨R.DMA_STATUS e, 30, 30⟩
def F.DMA_STATUS.swap_pending (e : Nat) : Fld := ⟨R.DMA_STATUS e, 29, 29⟩
def F.DMA_STATUS.channel (e : Nat) : Fld := ⟨R.DMA_STATUS e, 2, 0⟩
/-- DMA_ERR_ADDR (20 R397). -/
def R.DMA_ERR_ADDR (e : Nat) : Nat := 0x40360008 + 0x1000 * e
def F.DMA_ERR_ADDR.addr (e : Nat) : Fld := ⟨R.DMA_ERR_ADDR e, 31, 0⟩
/-- DMA_ERR_INFO (20 R397). -/
def R.DMA_ERR_INFO (e : Nat) : Nat := 0x4036000c + 0x1000 * e
def F.DMA_ERR_INFO.status (e : Nat) : Fld := ⟨R.DMA_ERR_INFO e, 31, 28⟩
def F.DMA_ERR_INFO.write (e : Nat) : Fld := ⟨R.DMA_ERR_INFO e, 27, 27⟩
def F.DMA_ERR_INFO.phase (e : Nat) : Fld := ⟨R.DMA_ERR_INFO e, 26, 25⟩
def F.DMA_ERR_INFO.channel (e : Nat) : Fld := ⟨R.DMA_ERR_INFO e, 2, 0⟩
/-- DMA_PERMIT (64 bits, _LO) (20 R397). -/
def R.DMA_PERMIT (e : Nat) : Nat := 0x40360010 + 0x1000 * e
/-- DMA_CH_CTRL (20 R397). -/
def R.DMA_CH_CTRL (e c : Nat) : Nat := 0x40360100 + 0x1000 * e + 0x20 * c
def F.DMA_CH_CTRL.priority (e c : Nat) : Fld := ⟨R.DMA_CH_CTRL e c, 11, 9⟩
def F.DMA_CH_CTRL.ien (e c : Nat) : Fld := ⟨R.DMA_CH_CTRL e c, 2, 2⟩
def F.DMA_CH_CTRL.start (e c : Nat) : Fld := ⟨R.DMA_CH_CTRL e c, 1, 1⟩
def F.DMA_CH_CTRL.enable (e c : Nat) : Fld := ⟨R.DMA_CH_CTRL e c, 0, 0⟩
/-- DMA_CH_DESC (20 R397). -/
def R.DMA_CH_DESC (e c : Nat) : Nat := 0x40360104 + 0x1000 * e + 0x20 * c
def F.DMA_CH_DESC.addr (e c : Nat) : Fld := ⟨R.DMA_CH_DESC e c, 31, 5⟩
/-- DMA_CH_STATUS (20 R397). -/
def R.DMA_CH_STATUS (e c : Nat) : Nat := 0x40360108 + 0x1000 * e + 0x20 * c
def F.DMA_CH_STATUS.done (e c : Nat) : Fld := ⟨R.DMA_CH_STATUS e c, 31, 31⟩
def F.DMA_CH_STATUS.running (e c : Nat) : Fld := ⟨R.DMA_CH_STATUS e c, 30, 30⟩
def F.DMA_CH_STATUS.status (e c : Nat) : Fld := ⟨R.DMA_CH_STATUS e c, 27, 24⟩
def F.DMA_CH_STATUS.remain (e c : Nat) : Fld := ⟨R.DMA_CH_STATUS e c, 23, 0⟩
/-- DMA_CH_CUR (20 R397). -/
def R.DMA_CH_CUR (e c : Nat) : Nat := 0x4036010c + 0x1000 * e + 0x20 * c
def F.DMA_CH_CUR.addr (e c : Nat) : Fld := ⟨R.DMA_CH_CUR e c, 31, 5⟩
/-- SB_CTRL (21 R408). -/
def R.SB_CTRL : Nat := 0x40380000
def F.SB_CTRL.key_period_k : Fld := ⟨R.SB_CTRL, 23, 16⟩
def F.SB_CTRL.span : Fld := ⟨R.SB_CTRL, 15, 10⟩
def F.SB_CTRL.auto_freeze : Fld := ⟨R.SB_CTRL, 9, 9⟩
def F.SB_CTRL.adopt : Fld := ⟨R.SB_CTRL, 5, 5⟩
def F.SB_CTRL.unfreeze : Fld := ⟨R.SB_CTRL, 4, 4⟩
def F.SB_CTRL.freeze : Fld := ⟨R.SB_CTRL, 3, 3⟩
def F.SB_CTRL.keyframe : Fld := ⟨R.SB_CTRL, 2, 2⟩
def F.SB_CTRL.flush : Fld := ⟨R.SB_CTRL, 1, 1⟩
/-- SB_STATUS (21 R408). -/
def R.SB_STATUS : Nat := 0x40380004
def F.SB_STATUS.full : Fld := ⟨R.SB_STATUS, 31, 31⟩
def F.SB_STATUS.keying : Fld := ⟨R.SB_STATUS, 30, 30⟩
def F.SB_STATUS.freeze_refused : Fld := ⟨R.SB_STATUS, 29, 29⟩
def F.SB_STATUS.spans : Fld := ⟨R.SB_STATUS, 22, 16⟩
def F.SB_STATUS.gaps : Fld := ⟨R.SB_STATUS, 15, 0⟩
/-- SB_DRIVE (21 R408). -/
def R.SB_DRIVE (d : Nat) : Nat := 0x40380008 + 0x4 * d
def F.SB_DRIVE.state (d : Nat) : Fld := ⟨R.SB_DRIVE d, 31, 30⟩
def F.SB_DRIVE.link (d : Nat) : Fld := ⟨R.SB_DRIVE d, 29, 27⟩
def F.SB_DRIVE.width (d : Nat) : Fld := ⟨R.SB_DRIVE d, 26, 24⟩
def F.SB_DRIVE.aer (d : Nat) : Fld := ⟨R.SB_DRIVE d, 23, 16⟩
def F.SB_DRIVE.rebuild (d : Nat) : Fld := ⟨R.SB_DRIVE d, 15, 0⟩
/-- SB_SEQ (64 bits, _LO) (21 R408). -/
def R.SB_SEQ : Nat := 0x40380010
/-- SB_FREEZE_START (64 bits, _LO) (21 R408). -/
def R.SB_FREEZE_START : Nat := 0x40380018
/-- SB_FREEZE_END (64 bits, _LO) (21 R408). -/
def R.SB_FREEZE_END : Nat := 0x40380020
/-- SB_READ_LBA (64 bits, _LO) (21 R408). -/
def R.SB_READ_LBA : Nat := 0x40380028
/-- SB_READ_DST (21 R408). -/
def R.SB_READ_DST : Nat := 0x40380030
def F.SB_READ_DST.offset : Fld := ⟨R.SB_READ_DST, 27, 12⟩
/-- SB_READ_CTRL (21 R408). -/
def R.SB_READ_CTRL : Nat := 0x40380034
def F.SB_READ_CTRL.busy : Fld := ⟨R.SB_READ_CTRL, 31, 31⟩
def F.SB_READ_CTRL.count_m1 : Fld := ⟨R.SB_READ_CTRL, 11, 0⟩
/-- SB_REPLAY (21 R408). -/
def R.SB_REPLAY : Nat := 0x40380038
def F.SB_REPLAY.heads : Fld := ⟨R.SB_REPLAY, 23, 0⟩
/-- SB_KEY (21 R408). -/
def R.SB_KEY : Nat := 0x4038003c
def F.SB_KEY.lost : Fld := ⟨R.SB_KEY, 31, 16⟩
def F.SB_KEY.number : Fld := ⟨R.SB_KEY, 15, 0⟩
/-- SB_IRQ (21 R408). -/
def R.SB_IRQ : Nat := 0x40380040
def F.SB_IRQ.enable : Fld := ⟨R.SB_IRQ, 20, 16⟩
def F.SB_IRQ.drive_change : Fld := ⟨R.SB_IRQ, 4, 4⟩
def F.SB_IRQ.gap : Fld := ⟨R.SB_IRQ, 3, 3⟩
def F.SB_IRQ.key_done : Fld := ⟨R.SB_IRQ, 2, 2⟩
def F.SB_IRQ.read_err : Fld := ⟨R.SB_IRQ, 1, 1⟩
def F.SB_IRQ.read_done : Fld := ⟨R.SB_IRQ, 0, 0⟩
/-- FAULT_CTRL (22 R421). -/
def R.FAULT_CTRL : Nat := 0x40390000
def F.FAULT_CTRL.ien : Fld := ⟨R.FAULT_CTRL, 7, 4⟩
def F.FAULT_CTRL.clear_recovery : Fld := ⟨R.FAULT_CTRL, 2, 2⟩
def F.FAULT_CTRL.release : Fld := ⟨R.FAULT_CTRL, 1, 1⟩
/-- FAULT_STATUS (22 R421). -/
def R.FAULT_STATUS : Nat := 0x40390004
def F.FAULT_STATUS.held : Fld := ⟨R.FAULT_STATUS, 31, 28⟩
def F.FAULT_STATUS.degraded : Fld := ⟨R.FAULT_STATUS, 23, 23⟩
def F.FAULT_STATUS.depth : Fld := ⟨R.FAULT_STATUS, 20, 16⟩
def F.FAULT_STATUS.classes : Fld := ⟨R.FAULT_STATUS, 3, 0⟩
/-- FAULT_LAST (22 R421). -/
def R.FAULT_LAST : Nat := 0x40390008
def F.FAULT_LAST.cls : Fld := ⟨R.FAULT_LAST, 31, 30⟩
def F.FAULT_LAST.broken : Fld := ⟨R.FAULT_LAST, 29, 29⟩
def F.FAULT_LAST.chip : Fld := ⟨R.FAULT_LAST, 28, 28⟩
def F.FAULT_LAST.source : Fld := ⟨R.FAULT_LAST, 8, 0⟩
/-- FAULT_LAST_TIME (64 bits, _LO) (22 R421). -/
def R.FAULT_LAST_TIME : Nat := 0x40390010
/-- FAULT_QUEUE (22 R421). -/
def R.FAULT_QUEUE : Nat := 0x40390018
def F.FAULT_QUEUE.queued : Fld := ⟨R.FAULT_QUEUE, 31, 16⟩
def F.FAULT_QUEUE.overflow : Fld := ⟨R.FAULT_QUEUE, 15, 0⟩
/-- FAULT_QUIET (22 R421). -/
def R.FAULT_QUIET (c : Nat) : Nat := 0x40390020 + 0x4 * c
def F.FAULT_QUIET.ms (c : Nat) : Fld := ⟨R.FAULT_QUIET c, 13, 0⟩
/-- FAULT_RECOVERY (22 R421). -/
def R.FAULT_RECOVERY (c : Nat) : Nat := 0x40390030 + 0x4 * c
def F.FAULT_RECOVERY.limit (c : Nat) : Fld := ⟨R.FAULT_RECOVERY c, 31, 16⟩
def F.FAULT_RECOVERY.count (c : Nat) : Fld := ⟨R.FAULT_RECOVERY c, 15, 0⟩
/-- FAULT_STOP_LOG (22 R421). -/
def R.FAULT_STOP_LOG : Nat := 0x40390040
def F.FAULT_STOP_LOG.valid : Fld := ⟨R.FAULT_STOP_LOG, 31, 31⟩
def F.FAULT_STOP_LOG.source : Fld := ⟨R.FAULT_STOP_LOG, 8, 0⟩
/-- FAULT_INJECT (22 R421). -/
def R.FAULT_INJECT : Nat := 0x40390044
def F.FAULT_INJECT.broken : Fld := ⟨R.FAULT_INJECT, 31, 31⟩
def F.FAULT_INJECT.cycles : Fld := ⟨R.FAULT_INJECT, 24, 9⟩
def F.FAULT_INJECT.source : Fld := ⟨R.FAULT_INJECT, 8, 0⟩
/-- WDOG_CTRL (22 R421). -/
def R.WDOG_CTRL (k : Nat) : Nat := 0x40390100 + 0x10 * k
def F.WDOG_CTRL.enable (k : Nat) : Fld := ⟨R.WDOG_CTRL k, 31, 31⟩
def F.WDOG_CTRL.window (k : Nat) : Fld := ⟨R.WDOG_CTRL k, 30, 20⟩
def F.WDOG_CTRL.period (k : Nat) : Fld := ⟨R.WDOG_CTRL k, 19, 0⟩
/-- WDOG_KICK (22 R421). -/
def R.WDOG_KICK (k : Nat) : Nat := 0x40390104 + 0x10 * k
def F.WDOG_KICK.key (k : Nat) : Fld := ⟨R.WDOG_KICK k, 31, 0⟩
/-- WDOG_STATUS (22 R421). -/
def R.WDOG_STATUS (k : Nat) : Nat := 0x40390108 + 0x10 * k
def F.WDOG_STATUS.halt_bite (k : Nat) : Fld := ⟨R.WDOG_STATUS k, 31, 31⟩
def F.WDOG_STATUS.bite (k : Nat) : Fld := ⟨R.WDOG_STATUS k, 30, 30⟩
def F.WDOG_STATUS.remain (k : Nat) : Fld := ⟨R.WDOG_STATUS k, 19, 0⟩
/-- FAULT_SRC (22 R421). -/
def R.FAULT_SRC (i : Nat) : Nat := 0x40390400 + 0x4 * i
def F.FAULT_SRC.cls (i : Nat) : Fld := ⟨R.FAULT_SRC i, 31, 30⟩
def F.FAULT_SRC.floor (i : Nat) : Fld := ⟨R.FAULT_SRC i, 29, 28⟩
def F.FAULT_SRC.state (i : Nat) : Fld := ⟨R.FAULT_SRC i, 27, 26⟩
def F.FAULT_SRC.latched (i : Nat) : Fld := ⟨R.FAULT_SRC i, 25, 25⟩
def F.FAULT_SRC.count (i : Nat) : Fld := ⟨R.FAULT_SRC i, 7, 0⟩
/-- SEC_STATE (23 R441). -/
def R.SEC_STATE : Nat := 0x403a0000
def F.SEC_STATE.state : Fld := ⟨R.SEC_STATE, 31, 30⟩
def F.SEC_STATE.gen : Fld := ⟨R.SEC_STATE, 29, 28⟩
def F.SEC_STATE.valid : Fld := ⟨R.SEC_STATE, 27, 24⟩
def F.SEC_STATE.retired : Fld := ⟨R.SEC_STATE, 23, 20⟩
def F.SEC_STATE.damaged : Fld := ⟨R.SEC_STATE, 19, 16⟩
def F.SEC_STATE.record_key : Fld := ⟨R.SEC_STATE, 15, 8⟩
def F.SEC_STATE.rollback : Fld := ⟨R.SEC_STATE, 7, 0⟩
/-- SEC_BOOT (23 R441). -/
def R.SEC_BOOT : Nat := 0x403a0004
def F.SEC_BOOT.source : Fld := ⟨R.SEC_BOOT, 31, 29⟩
def F.SEC_BOOT.reason_a : Fld := ⟨R.SEC_BOOT, 23, 20⟩
def F.SEC_BOOT.reason_b : Fld := ⟨R.SEC_BOOT, 19, 16⟩
def F.SEC_BOOT.boot_ms : Fld := ⟨R.SEC_BOOT, 15, 0⟩
/-- SEC_PROG (23 R441). -/
def R.SEC_PROG : Nat := 0x403a0008
def F.SEC_PROG.busy : Fld := ⟨R.SEC_PROG, 31, 31⟩
def F.SEC_PROG.last : Fld := ⟨R.SEC_PROG, 3, 0⟩
/-- SEC_IRQ (23 R441). -/
def R.SEC_IRQ : Nat := 0x403a000c
def F.SEC_IRQ.enable : Fld := ⟨R.SEC_IRQ, 18, 16⟩
def F.SEC_IRQ.cal : Fld := ⟨R.SEC_IRQ, 2, 2⟩
def F.SEC_IRQ.prog : Fld := ⟨R.SEC_IRQ, 1, 1⟩
def F.SEC_IRQ.gen : Fld := ⟨R.SEC_IRQ, 0, 0⟩
/-- SEC_CAL (23 R441). -/
def R.SEC_CAL : Nat := 0x403a0010
def F.SEC_CAL.unknown : Fld := ⟨R.SEC_CAL, 31, 16⟩
def F.SEC_CAL.items : Fld := ⟨R.SEC_CAL, 15, 0⟩
/-- SEC_ID (23 R441). -/
def R.SEC_ID (k : Nat) : Nat := 0x403a0040 + 0x4 * k
def F.SEC_ID.key (k : Nat) : Fld := ⟨R.SEC_ID k, 31, 0⟩
/-- SEC_RKEY (23 R441). -/
def R.SEC_RKEY (k : Nat) : Nat := 0x403a0060 + 0x4 * k
def F.SEC_RKEY.key (k : Nat) : Fld := ⟨R.SEC_RKEY k, 31, 0⟩
/-- SEC_FACTORY_SEL (23 R441). -/
def R.SEC_FACTORY_SEL : Nat := 0x403a0100
def F.SEC_FACTORY_SEL.word : Fld := ⟨R.SEC_FACTORY_SEL, 8, 0⟩
/-- SEC_FACTORY_DATA (23 R441). -/
def R.SEC_FACTORY_DATA : Nat := 0x403a0104
def F.SEC_FACTORY_DATA.data : Fld := ⟨R.SEC_FACTORY_DATA, 31, 0⟩
/-- DBG_SESSION (24 R451). -/
def R.DBG_SESSION : Nat := 0x403b0000
def F.DBG_SESSION.opened : Fld := ⟨R.DBG_SESSION, 31, 31⟩
def F.DBG_SESSION.slot : Fld := ⟨R.DBG_SESSION, 23, 16⟩
def F.DBG_SESSION.ien : Fld := ⟨R.DBG_SESSION, 0, 0⟩
/-- DBG_HALTED (24 R451). -/
def R.DBG_HALTED : Nat := 0x403b0004
def F.DBG_HALTED.cores : Fld := ⟨R.DBG_HALTED, 31, 0⟩
/-- DBG_CORE (24 R451). -/
def R.DBG_CORE (k : Nat) : Nat := 0x403b0100 + 0x4 * k
def F.DBG_CORE.reason (k : Nat) : Fld := ⟨R.DBG_CORE k, 31, 29⟩
def F.DBG_CORE.comparator (k : Nat) : Fld := ⟨R.DBG_CORE k, 26, 24⟩
def F.DBG_CORE.groups (k : Nat) : Fld := ⟨R.DBG_CORE k, 23, 20⟩
/-- CPR_CTRL (25 R465). -/
def R.CPR_CTRL : Nat := 0x403c0000
def F.CPR_CTRL.power_req : Fld := ⟨R.CPR_CTRL, 1, 0⟩
/-- CPR_STATUS (25 R465). -/
def R.CPR_STATUS : Nat := 0x403c0004
def F.CPR_STATUS.power : Fld := ⟨R.CPR_STATUS, 31, 30⟩
def F.CPR_STATUS.pll_locked : Fld := ⟨R.CPR_STATUS, 29, 29⟩
def F.CPR_STATUS.serdes_off : Fld := ⟨R.CPR_STATUS, 28, 28⟩
def F.CPR_STATUS.bist_busy : Fld := ⟨R.CPR_STATUS, 27, 27⟩
def F.CPR_STATUS.bist_fail : Fld := ⟨R.CPR_STATUS, 26, 26⟩
def F.CPR_STATUS.park_step : Fld := ⟨R.CPR_STATUS, 2, 0⟩
/-- CPR_BIST (25 R465). -/
def R.CPR_BIST : Nat := 0x403c0008
def F.CPR_BIST.fail_item : Fld := ⟨R.CPR_BIST, 31, 24⟩
def F.CPR_BIST.fail_index : Fld := ⟨R.CPR_BIST, 23, 16⟩
def F.CPR_BIST.ms : Fld := ⟨R.CPR_BIST, 15, 0⟩
/-- KICK_RESET_CAUSE (25 R465). -/
def R.KICK_RESET_CAUSE : Nat := 0x403d0000
def F.KICK_RESET_CAUSE.cause : Fld := ⟨R.KICK_RESET_CAUSE, 31, 28⟩
def F.KICK_RESET_CAUSE.resets : Fld := ⟨R.KICK_RESET_CAUSE, 15, 0⟩
/-- KICK_NEXT_START (25 R465). -/
def R.KICK_NEXT_START : Nat := 0x403d0004
def F.KICK_NEXT_START.armed : Fld := ⟨R.KICK_NEXT_START, 31, 31⟩
def F.KICK_NEXT_START.profile : Fld := ⟨R.KICK_NEXT_START, 1, 0⟩
/-- CPR_TEMP (26 R485). -/
def R.CPR_TEMP (i : Nat) : Nat := 0x403c0100 + 0x4 * i
def F.CPR_TEMP.valid (i : Nat) : Fld := ⟨R.CPR_TEMP i, 31, 31⟩
def F.CPR_TEMP.temp (i : Nat) : Fld := ⟨R.CPR_TEMP i, 15, 0⟩
/-- CPR_TEMP_MAX (26 R485). -/
def R.CPR_TEMP_MAX : Nat := 0x403c0120
def F.CPR_TEMP_MAX.sensor : Fld := ⟨R.CPR_TEMP_MAX, 18, 16⟩
def F.CPR_TEMP_MAX.peak : Fld := ⟨R.CPR_TEMP_MAX, 15, 0⟩
/-- CPR_AGE (26 R485). -/
def R.CPR_AGE (i : Nat) : Nat := 0x403c0140 + 0x4 * i
def F.CPR_AGE.region (i : Nat) : Fld := ⟨R.CPR_AGE i, 17, 16⟩
def F.CPR_AGE.margin (i : Nat) : Fld := ⟨R.CPR_AGE i, 15, 0⟩
/-- CPR_AGE_SUMMARY (26 R485). -/
def R.CPR_AGE_SUMMARY : Nat := 0x403c0180
def F.CPR_AGE_SUMMARY.kilohours : Fld := ⟨R.CPR_AGE_SUMMARY, 31, 16⟩
def F.CPR_AGE_SUMMARY.min_margin : Fld := ⟨R.CPR_AGE_SUMMARY, 15, 0⟩

/-- The common registers of every unit block (R37). -/
def commonRegs : List RSpec := [
  ⟨.U_UNIT_ID, 0xff0, 1, 0x4, 1, 0x4, false, [⟨31, 16, .ro, false, false⟩, ⟨15, 8, .ro, false, false⟩, ⟨7, 0, .ro, false, false⟩]⟩,
  ⟨.U_IGNORED_WRITES, 0xff4, 1, 0x4, 1, 0x4, false, [⟨31, 16, .rc, false, false⟩, ⟨15, 14, .ro, false, false⟩, ⟨13, 0, .ro, false, false⟩]⟩,
  ⟨.U_RIM_COLLISIONS, 0xff8, 1, 0x4, 1, 0x4, false, [⟨31, 16, .rc, false, false⟩, ⟨15, 14, .rsv, false, false⟩, ⟨13, 0, .ro, false, false⟩]⟩]

/-- The registers of the Groupset block. -/
def regsGroupset : List RSpec := [
  ⟨.GS_CTRL, 0x0, 1, 0x4, 1, 0x4, false, [⟨31, 5, .rsv, false, false⟩, ⟨4, 4, .rw, false, true⟩, ⟨3, 2, .rsv, false, false⟩, ⟨1, 1, .wo, false, false⟩, ⟨0, 0, .wo, false, false⟩]⟩,
  ⟨.GS_STATUS, 0x4, 1, 0x4, 1, 0x4, false, [⟨31, 28, .ro, false, false⟩, ⟨27, 26, .ro, false, false⟩, ⟨25, 25, .ro, false, false⟩, ⟨24, 16, .rsv, false, false⟩, ⟨15, 0, .ro, false, false⟩]⟩,
  ⟨.GS_STAGE_PTR, 0x8, 1, 0x4, 1, 0x4, false, [⟨31, 23, .rsv, false, false⟩, ⟨22, 2, .rw, false, false⟩, ⟨1, 0, .rsv, false, false⟩]⟩,
  ⟨.GS_STAGE_DATA, 0xc, 1, 0x4, 1, 0x4, false, [⟨31, 0, .wo, false, false⟩]⟩,
  ⟨.GS_APPLY_FRAME, 0x10, 1, 0x8, 1, 0x8, true, [⟨63, 0, .rw, false, false⟩]⟩,
  ⟨.GS_REJECT, 0x18, 1, 0x4, 1, 0x4, false, [⟨31, 28, .ro, false, false⟩, ⟨27, 24, .rsv, false, false⟩, ⟨23, 16, .ro, false, false⟩, ⟨15, 0, .ro, false, false⟩]⟩,
  ⟨.GS_CLASH, 0x1c, 1, 0x4, 1, 0x4, false, [⟨31, 16, .rc, false, false⟩, ⟨15, 0, .rc, false, false⟩]⟩,
  ⟨.GS_MODE_SUMMARY, 0x20, 1, 0x4, 1, 0x4, false, [⟨31, 25, .ro, false, false⟩, ⟨24, 12, .rsv, false, false⟩, ⟨11, 10, .ro, false, false⟩, ⟨9, 8, .ro, false, false⟩, ⟨7, 6, .ro, false, false⟩, ⟨5, 5, .ro, false, true⟩, ⟨4, 4, .rsv, false, false⟩, ⟨3, 2, .ro, false, true⟩, ⟨1, 0, .ro, false, true⟩]⟩,
  ⟨.GS_SECURITY_VERSION, 0x24, 1, 0x4, 1, 0x4, false, [⟨31, 0, .ro, false, true⟩]⟩,
  ⟨.GS_UNIT_VERSION, 0x100, 73, 0x4, 1, 0x4, false, [⟨31, 0, .ro, false, true⟩]⟩,
  ⟨.GS_ACTIVE_DIGEST, 0x40, 16, 0x4, 1, 0x4, false, [⟨31, 0, .ro, false, true⟩]⟩]

/-- The registers of the EthPort block. -/
def regsEthPort : List RSpec := [
  ⟨.ETH_CTRL, 0x0, 1, 0x4, 1, 0x4, false, [⟨31, 27, .rsv, false, false⟩, ⟨26, 24, .rw, false, false⟩, ⟨23, 14, .rsv, false, false⟩, ⟨13, 0, .ro, false, true⟩]⟩,
  ⟨.ETH_MODE, 0x4, 1, 0x4, 1, 0x4, false, [⟨31, 4, .rsv, false, false⟩, ⟨3, 3, .ro, false, true⟩, ⟨2, 2, .ro, false, true⟩, ⟨1, 1, .ro, false, true⟩, ⟨0, 0, .ro, false, true⟩]⟩,
  ⟨.ETH_STATUS, 0x8, 1, 0x4, 1, 0x4, false, [⟨31, 31, .ro, false, false⟩, ⟨30, 28, .ro, false, false⟩, ⟨27, 27, .ro, false, false⟩, ⟨26, 3, .rsv, false, false⟩, ⟨2, 2, .w1c, false, false⟩, ⟨1, 1, .w1c, false, false⟩, ⟨0, 0, .w1c, false, false⟩]⟩,
  ⟨.ETH_ADDR, 0x10, 8, 0x4, 1, 0x4, false, [⟨31, 0, .ro, false, true⟩]⟩,
  ⟨.ETH_MIRROR_PORT, 0x30, 1, 0x4, 1, 0x4, false, [⟨31, 16, .rsv, false, false⟩, ⟨15, 0, .ro, false, true⟩]⟩,
  ⟨.ETH_PTP_ASYM, 0x34, 1, 0x4, 1, 0x4, false, [⟨31, 0, .rw, false, true⟩]⟩,
  ⟨.ETH_PTP_DELAY, 0x38, 1, 0x4, 1, 0x4, false, [⟨31, 0, .ro, false, false⟩]⟩,
  ⟨.ETH_PRP, 0x3c, 1, 0x4, 1, 0x4, false, [⟨31, 16, .rc, false, false⟩, ⟨15, 0, .rc, false, false⟩]⟩,
  ⟨.ETH_RX_DROP, 0x40, 8, 0x4, 1, 0x4, false, [⟨31, 0, .rc, false, false⟩]⟩,
  ⟨.ETH_VLAN, 0x100, 64, 0x4, 1, 0x4, false, [⟨31, 31, .ro, false, true⟩, ⟨30, 12, .rsv, false, false⟩, ⟨11, 0, .ro, false, true⟩]⟩,
  ⟨.ETH_MCAST, 0x1000, 512, 0x8, 1, 0x8, true, [⟨63, 63, .ro, false, true⟩, ⟨62, 48, .rsv, false, false⟩, ⟨47, 0, .ro, false, true⟩]⟩]

/-- The registers of the Odometer block. -/
def regsOdometer : List RSpec := [
  ⟨.ODO_CTRL, 0x0, 1, 0x4, 1, 0x4, false, [⟨31, 27, .rsv, false, false⟩, ⟨26, 24, .rw, false, false⟩, ⟨23, 2, .rsv, false, false⟩, ⟨1, 1, .wo, true, false⟩, ⟨0, 0, .wo, false, false⟩]⟩,
  ⟨.ODO_STATUS, 0x4, 1, 0x4, 1, 0x4, false, [⟨31, 30, .ro, false, false⟩, ⟨29, 29, .ro, false, false⟩, ⟨28, 28, .ro, false, false⟩, ⟨27, 27, .ro, false, false⟩, ⟨26, 26, .ro, false, false⟩, ⟨25, 25, .ro, false, false⟩, ⟨24, 3, .rsv, false, false⟩, ⟨2, 2, .w1c, false, false⟩, ⟨1, 1, .w1c, false, false⟩, ⟨0, 0, .w1c, false, false⟩]⟩,
  ⟨.ODO_TIME, 0x8, 1, 0x8, 1, 0x8, true, [⟨63, 0, .ro, false, false⟩]⟩,
  ⟨.ODO_SET, 0x10, 1, 0x8, 1, 0x8, true, [⟨63, 0, .rw, false, false⟩]⟩,
  ⟨.ODO_SNAP_ROOT, 0x18, 1, 0x8, 1, 0x8, true, [⟨63, 0, .ro, false, false⟩]⟩,
  ⟨.ODO_SNAP_NS, 0x20, 1, 0x8, 1, 0x8, true, [⟨63, 0, .ro, false, false⟩]⟩,
  ⟨.ODO_SNAP_SEC, 0x28, 1, 0x8, 1, 0x8, true, [⟨63, 48, .rsv, false, false⟩, ⟨47, 0, .ro, false, false⟩]⟩,
  ⟨.ODO_SNAP_SUB, 0x30, 1, 0x4, 1, 0x4, false, [⟨31, 0, .ro, false, false⟩]⟩,
  ⟨.ODO_OFFSET, 0x34, 1, 0x4, 1, 0x4, false, [⟨31, 0, .ro, false, false⟩]⟩,
  ⟨.ODO_FREQ, 0x38, 1, 0x4, 1, 0x4, false, [⟨31, 0, .ro, false, false⟩]⟩,
  ⟨.ODO_SERVO, 0x3c, 1, 0x4, 1, 0x4, false, [⟨31, 16, .rsv, false, false⟩, ⟨15, 8, .ro, false, true⟩, ⟨7, 0, .ro, false, true⟩]⟩,
  ⟨.ODO_UTC, 0x40, 1, 0x4, 1, 0x4, false, [⟨31, 31, .ro, false, false⟩, ⟨30, 30, .ro, false, false⟩, ⟨29, 29, .ro, false, false⟩, ⟨28, 16, .rsv, false, false⟩, ⟨15, 0, .ro, false, true⟩]⟩,
  ⟨.ODO_GM, 0x48, 1, 0x8, 1, 0x8, true, [⟨63, 0, .ro, false, false⟩]⟩,
  ⟨.ODO_GM_INACC, 0x50, 1, 0x4, 1, 0x4, false, [⟨31, 0, .ro, false, false⟩]⟩]

/-- The registers of the VertikU block. -/
def regsVertikU : List RSpec := [
  ⟨.VTK_CTRL, 0x0, 1, 0x4, 1, 0x4, false, [⟨31, 1, .rsv, false, false⟩, ⟨0, 0, .rw, true, true⟩]⟩,
  ⟨.VTK_STATUS, 0x4, 1, 0x4, 1, 0x4, false, [⟨31, 25, .rsv, false, false⟩, ⟨24, 16, .ro, false, false⟩, ⟨15, 13, .rsv, false, false⟩, ⟨12, 0, .ro, false, false⟩]⟩,
  ⟨.VTK_OPEN, 0x8, 1, 0x8, 1, 0x8, true, [⟨63, 0, .ro, false, false⟩]⟩,
  ⟨.VTK_ORDER, 0x10, 1, 0x4, 1, 0x4, false, [⟨31, 16, .rc, false, false⟩, ⟨15, 8, .rc, false, false⟩, ⟨7, 0, .rc, false, false⟩]⟩,
  ⟨.VTK_ILLEGAL, 0x20, 5, 0x4, 1, 0x4, false, [⟨31, 0, .rc, false, false⟩]⟩,
  ⟨.VTK_SESSION, 0x100, 64, 0x4, 1, 0x4, false, [⟨31, 30, .ro, false, false⟩, ⟨29, 27, .ro, false, false⟩, ⟨26, 24, .rsv, false, false⟩, ⟨23, 16, .ro, false, false⟩, ⟨15, 9, .rsv, false, false⟩, ⟨8, 0, .ro, false, false⟩]⟩,
  ⟨.VTK_IRQ, 0x200, 1, 0x4, 1, 0x4, false, [⟨31, 19, .rsv, false, false⟩, ⟨18, 16, .rw, false, false⟩, ⟨15, 3, .rsv, false, false⟩, ⟨2, 2, .w1c, false, false⟩, ⟨1, 1, .w1c, false, false⟩, ⟨0, 0, .w1c, false, false⟩]⟩]

/-- The registers of the IngestU block. -/
def regsIngestU : List RSpec := [
  ⟨.ING_CTRL, 0x0, 1, 0x4, 1, 0x4, false, [⟨31, 9, .rsv, false, false⟩, ⟨8, 8, .wo, false, false⟩, ⟨7, 2, .rsv, false, false⟩, ⟨1, 1, .rw, false, true⟩, ⟨0, 0, .rw, false, true⟩]⟩,
  ⟨.ING_STATUS, 0x4, 1, 0x4, 1, 0x4, false, [⟨31, 31, .ro, false, false⟩, ⟨30, 10, .rsv, false, false⟩, ⟨9, 0, .ro, false, false⟩]⟩,
  ⟨.ING_PLACE, 0x8, 1, 0x4, 1, 0x4, false, [⟨31, 28, .rsv, false, false⟩, ⟨27, 16, .ro, false, true⟩, ⟨15, 12, .rsv, false, false⟩, ⟨11, 0, .ro, false, true⟩]⟩,
  ⟨.ING_RX_GOOSE, 0x10, 1, 0x4, 1, 0x4, false, [⟨31, 0, .ro, false, false⟩]⟩,
  ⟨.ING_RX_SV, 0x14, 1, 0x4, 1, 0x4, false, [⟨31, 0, .ro, false, false⟩]⟩,
  ⟨.ING_POINT_WRITES, 0x18, 1, 0x4, 1, 0x4, false, [⟨31, 0, .ro, false, false⟩]⟩,
  ⟨.ING_LAST_DISCARD, 0x20, 1, 0x4, 1, 0x4, false, [⟨31, 28, .ro, false, false⟩, ⟨27, 13, .rsv, false, false⟩, ⟨12, 0, .ro, false, false⟩]⟩,
  ⟨.ING_SUB_STATE, 0x24, 1, 0x4, 1, 0x4, false, [⟨31, 29, .rsv, false, false⟩, ⟨28, 16, .ro, false, false⟩, ⟨15, 7, .rsv, false, false⟩, ⟨6, 0, .ro, false, false⟩]⟩,
  ⟨.ING_DISCARD, 0x40, 10, 0x4, 1, 0x4, false, [⟨31, 0, .rc, false, false⟩]⟩]

/-- The registers of the DerailleurU block. -/
def regsDerailleurU : List RSpec := [
  ⟨.DER_CTRL, 0x0, 1, 0x4, 1, 0x4, false, [⟨31, 9, .rsv, false, false⟩, ⟨8, 8, .wo, false, false⟩, ⟨7, 5, .rsv, false, false⟩, ⟨4, 4, .rw, false, true⟩, ⟨3, 1, .rsv, false, false⟩, ⟨0, 0, .rw, false, true⟩]⟩,
  ⟨.DER_STATUS, 0x4, 1, 0x4, 1, 0x4, false, [⟨31, 31, .ro, false, false⟩, ⟨30, 13, .rsv, false, false⟩, ⟨12, 0, .ro, false, false⟩]⟩,
  ⟨.DER_PLACE, 0x8, 1, 0x4, 1, 0x4, false, [⟨31, 28, .rsv, false, false⟩, ⟨27, 16, .ro, false, true⟩, ⟨15, 12, .rsv, false, false⟩, ⟨11, 0, .ro, false, true⟩]⟩,
  ⟨.DER_PHOTON, 0xc, 1, 0x4, 1, 0x4, false, [⟨31, 28, .rsv, false, false⟩, ⟨27, 16, .ro, false, true⟩, ⟨15, 5, .rsv, false, false⟩, ⟨4, 0, .ro, false, true⟩]⟩,
  ⟨.DER_PHOTON_WR, 0x10, 1, 0x4, 1, 0x4, false, [⟨31, 0, .ro, false, false⟩]⟩,
  ⟨.DER_REEVAL, 0x14, 1, 0x4, 1, 0x4, false, [⟨31, 20, .rsv, false, false⟩, ⟨19, 0, .wo, false, false⟩]⟩,
  ⟨.DER_EVALS, 0x20, 1, 0x8, 1, 0x8, true, [⟨63, 0, .ro, false, false⟩]⟩,
  ⟨.DER_ACTIONS, 0x28, 1, 0x8, 1, 0x8, true, [⟨63, 0, .ro, false, false⟩]⟩,
  ⟨.DER_SKIPPED, 0x30, 1, 0x4, 1, 0x4, false, [⟨31, 16, .rc, false, false⟩, ⟨15, 0, .rc, false, false⟩]⟩,
  ⟨.DER_ARRAY_COLLISIONS, 0x34, 1, 0x4, 1, 0x4, false, [⟨31, 16, .rc, false, false⟩, ⟨15, 5, .rsv, false, false⟩, ⟨4, 0, .ro, false, false⟩]⟩,
  ⟨.DER_QUEUE_PEAK, 0x38, 1, 0x4, 1, 0x4, false, [⟨31, 13, .rsv, false, false⟩, ⟨12, 0, .rc, false, false⟩]⟩,
  ⟨.DER_LAST_SKIP, 0x3c, 1, 0x4, 1, 0x4, false, [⟨31, 31, .ro, false, false⟩, ⟨30, 18, .rsv, false, false⟩, ⟨17, 0, .ro, false, false⟩]⟩]

/-- Head block registers at 0x0000 (R31). -/
def headRegs0 : List RSpec := [
  ⟨.ARRAY_IGNORED, 0xffc, 1, 0x4, 1, 0x4, false, [⟨31, 24, .rc, false, false⟩, ⟨23, 22, .ro, false, false⟩, ⟨21, 17, .rsv, false, false⟩, ⟨16, 2, .ro, false, false⟩, ⟨1, 0, .rsv, false, false⟩]⟩,
  ⟨.BEAM_N, 0x0, 1, 0x4, 1, 0x4, false, [⟨31, 8, .rsv, false, false⟩, ⟨7, 0, .ro, false, true⟩]⟩,
  ⟨.BEAM_H, 0x4, 1, 0x4, 1, 0x4, false, [⟨31, 29, .rsv, false, false⟩, ⟨28, 16, .ro, false, true⟩, ⟨15, 13, .rsv, false, false⟩, ⟨12, 0, .ro, false, true⟩]⟩,
  ⟨.BEAM_HSYNC, 0x8, 1, 0x4, 1, 0x4, false, [⟨31, 31, .ro, false, true⟩, ⟨30, 25, .rsv, false, false⟩, ⟨24, 16, .ro, false, true⟩, ⟨15, 13, .rsv, false, false⟩, ⟨12, 0, .ro, false, true⟩]⟩,
  ⟨.BEAM_V, 0xc, 1, 0x4, 1, 0x4, false, [⟨31, 28, .rsv, false, false⟩, ⟨27, 16, .ro, false, true⟩, ⟨15, 12, .rsv, false, false⟩, ⟨11, 0, .ro, false, true⟩]⟩,
  ⟨.BEAM_VSYNC, 0x10, 1, 0x4, 1, 0x4, false, [⟨31, 31, .ro, false, true⟩, ⟨30, 22, .rsv, false, false⟩, ⟨21, 16, .ro, false, true⟩, ⟨15, 12, .rsv, false, false⟩, ⟨11, 0, .ro, false, true⟩]⟩,
  ⟨.BEAM_T0, 0x18, 1, 0x8, 1, 0x8, true, [⟨63, 0, .ro, false, true⟩]⟩,
  ⟨.BEAM_TF, 0x20, 1, 0x8, 1, 0x8, true, [⟨63, 0, .ro, false, true⟩]⟩,
  ⟨.BEAM_FRAME, 0x28, 1, 0x8, 1, 0x8, true, [⟨63, 0, .ro, false, false⟩]⟩,
  ⟨.BEAM_POS, 0x30, 1, 0x4, 1, 0x4, false, [⟨31, 28, .rsv, false, false⟩, ⟨27, 16, .ro, false, false⟩, ⟨15, 13, .rsv, false, false⟩, ⟨12, 0, .ro, false, false⟩]⟩,
  ⟨.BEAM_COMMIT, 0x34, 1, 0x4, 1, 0x4, false, [⟨31, 2, .rsv, false, false⟩, ⟨1, 1, .wo, false, false⟩, ⟨0, 0, .wo, false, false⟩]⟩,
  ⟨.BEAM_COMMIT_FRAME, 0x38, 1, 0x8, 1, 0x8, true, [⟨63, 0, .rw, false, false⟩]⟩,
  ⟨.BEAM_STATUS, 0x40, 1, 0x4, 1, 0x4, false, [⟨31, 30, .ro, false, false⟩, ⟨29, 16, .rsv, false, false⟩, ⟨15, 0, .rc, false, false⟩]⟩,
  ⟨.BEAM_LAST_COMMIT, 0x48, 1, 0x8, 1, 0x8, true, [⟨63, 0, .ro, false, false⟩]⟩,
  ⟨.BEAM_EVENT, 0x50, 2, 0x4, 1, 0x4, false, [⟨31, 30, .rw, false, false⟩, ⟨29, 25, .rsv, false, false⟩, ⟨24, 13, .rw, false, false⟩, ⟨12, 0, .rw, false, false⟩]⟩,
  ⟨.BEAM_EVENT_MISSED, 0x58, 1, 0x4, 1, 0x4, false, [⟨31, 16, .rc, false, false⟩, ⟨15, 0, .rc, false, false⟩]⟩,
  ⟨.BEAM_IRQ, 0x5c, 1, 0x4, 1, 0x4, false, [⟨31, 19, .rsv, false, false⟩, ⟨18, 16, .rw, false, false⟩, ⟨15, 3, .rsv, false, false⟩, ⟨2, 2, .w1c, false, false⟩, ⟨1, 1, .w1c, false, false⟩, ⟨0, 0, .w1c, false, false⟩]⟩]

/-- Head block registers at 0x1000 (R31). -/
def headRegs1 : List RSpec := [
  ⟨.LL_CTRL, 0x1000, 8, 0x200, 1, 0x200, false, [⟨31, 31, .ro, false, true⟩, ⟨30, 28, .rsv, false, false⟩, ⟨27, 24, .ro, false, true⟩, ⟨23, 20, .ro, false, true⟩, ⟨19, 18, .rsv, false, false⟩, ⟨17, 17, .ro, false, true⟩, ⟨16, 16, .ro, false, true⟩, ⟨15, 10, .rsv, false, false⟩, ⟨9, 9, .rw, false, true⟩, ⟨8, 8, .rw, false, true⟩, ⟨7, 7, .rw, false, true⟩, ⟨6, 4, .rsv, false, false⟩, ⟨3, 3, .ro, false, true⟩, ⟨2, 0, .ro, false, true⟩]⟩,
  ⟨.LL_MAP_BASE, 0x1004, 8, 0x200, 1, 0x200, false, [⟨31, 28, .rsv, false, false⟩, ⟨27, 6, .rw, false, true⟩, ⟨5, 0, .rsv, false, false⟩]⟩,
  ⟨.LL_PATTERN_BASE, 0x1008, 8, 0x200, 1, 0x200, false, [⟨31, 28, .rsv, false, false⟩, ⟨27, 6, .rw, false, true⟩, ⟨5, 0, .rsv, false, false⟩]⟩,
  ⟨.LL_ORIGIN_X, 0x100c, 8, 0x200, 1, 0x200, false, [⟨31, 20, .rsv, false, false⟩, ⟨19, 0, .rw, false, true⟩]⟩,
  ⟨.LL_ORIGIN_Y, 0x1010, 8, 0x200, 1, 0x200, false, [⟨31, 20, .rsv, false, false⟩, ⟨19, 0, .rw, false, true⟩]⟩,
  ⟨.LL_MAP_X0, 0x1014, 8, 0x200, 1, 0x200, false, [⟨31, 20, .rsv, false, false⟩, ⟨19, 0, .rw, false, true⟩]⟩,
  ⟨.LL_MAP_Y0, 0x1018, 8, 0x200, 1, 0x200, false, [⟨31, 20, .rsv, false, false⟩, ⟨19, 0, .rw, false, true⟩]⟩,
  ⟨.LL_SCROLL_TABLE, 0x101c, 8, 0x200, 1, 0x200, false, [⟨31, 28, .rsv, false, false⟩, ⟨27, 6, .rw, false, true⟩, ⟨5, 0, .rsv, false, false⟩]⟩,
  ⟨.LL_TILE_RANGE, 0x1020, 8, 0x200, 1, 0x200, false, [⟨31, 16, .ro, false, true⟩, ⟨15, 0, .ro, false, true⟩]⟩,
  ⟨.LL_PAL_RANGE, 0x1024, 8, 0x200, 1, 0x200, false, [⟨31, 14, .rsv, false, false⟩, ⟨13, 8, .ro, false, true⟩, ⟨7, 6, .rsv, false, false⟩, ⟨5, 0, .ro, false, true⟩]⟩,
  ⟨.LL_FR_BASE, 0x1028, 8, 0x200, 1, 0x200, false, [⟨31, 16, .rw, false, true⟩, ⟨15, 6, .rsv, false, false⟩, ⟨5, 0, .rw, false, true⟩]⟩,
  ⟨.LL_POISON, 0x102c, 8, 0x200, 1, 0x200, false, [⟨31, 0, .ro, false, true⟩]⟩,
  ⟨.LL_ERRS, 0x1030, 8, 0x200, 1, 0x200, false, [⟨31, 16, .rc, false, false⟩, ⟨15, 0, .rc, false, false⟩]⟩]

/-- Head block registers at 0x2000 (R31). -/
def headRegs2 : List RSpec := [
  ⟨.TT_CTRL, 0x2000, 2, 0x100, 1, 0x100, false, [⟨31, 31, .ro, false, true⟩, ⟨30, 24, .rsv, false, false⟩, ⟨23, 16, .ro, false, true⟩, ⟨15, 8, .rw, false, true⟩, ⟨7, 6, .rsv, false, false⟩, ⟨5, 0, .rw, false, true⟩]⟩,
  ⟨.TT_SHAPE, 0x2004, 2, 0x100, 1, 0x100, false, [⟨31, 24, .rsv, false, false⟩, ⟨23, 16, .rw, false, true⟩, ⟨15, 2, .rsv, false, false⟩, ⟨1, 0, .rw, false, true⟩]⟩,
  ⟨.TT_LAG, 0x2008, 2, 0x100, 1, 0x100, false, [⟨31, 16, .rsv, false, false⟩, ⟨15, 0, .rw, false, true⟩]⟩,
  ⟨.TT_WIN_X, 0x200c, 2, 0x100, 1, 0x100, false, [⟨31, 28, .rsv, false, false⟩, ⟨27, 16, .rw, false, true⟩, ⟨15, 13, .rsv, false, false⟩, ⟨12, 0, .rw, false, true⟩]⟩,
  ⟨.TT_WIN_Y, 0x2010, 2, 0x100, 1, 0x100, false, [⟨31, 28, .rsv, false, false⟩, ⟨27, 16, .rw, false, true⟩, ⟨15, 12, .rsv, false, false⟩, ⟨11, 0, .rw, false, true⟩]⟩,
  ⟨.TT_POISON, 0x2014, 2, 0x100, 1, 0x100, false, [⟨31, 0, .ro, false, true⟩]⟩,
  ⟨.TT_STATUS, 0x2018, 2, 0x100, 1, 0x100, false, [⟨31, 31, .ro, false, false⟩, ⟨30, 28, .rsv, false, false⟩, ⟨27, 16, .rc, false, false⟩, ⟨15, 13, .rsv, false, false⟩, ⟨12, 0, .rc, false, false⟩]⟩,
  ⟨.TT_GAIN, 0x2040, 2, 0x100, 8, 0x8, false, [⟨31, 16, .rw, false, true⟩, ⟨15, 12, .rsv, false, false⟩, ⟨11, 0, .rw, false, true⟩]⟩,
  ⟨.TT_COLOUR, 0x2044, 2, 0x100, 8, 0x8, false, [⟨31, 0, .rw, false, true⟩]⟩]

/-- Head block registers at 0x3000 (R31). -/
def headRegs3 : List RSpec := [
  ⟨.SPR_CTRL, 0x3000, 1, 0x4, 1, 0x4, false, [⟨31, 31, .ro, false, true⟩, ⟨30, 24, .ro, false, true⟩, ⟨23, 18, .rsv, false, false⟩, ⟨17, 17, .ro, false, true⟩, ⟨16, 16, .ro, false, true⟩, ⟨15, 3, .rsv, false, false⟩, ⟨2, 2, .ro, false, true⟩, ⟨1, 1, .ro, false, true⟩, ⟨0, 0, .rw, false, true⟩]⟩,
  ⟨.SPR_BUDGET, 0x3004, 1, 0x4, 1, 0x4, false, [⟨31, 12, .rsv, false, false⟩, ⟨11, 0, .ro, false, true⟩]⟩,
  ⟨.SPR_ORIGIN_X, 0x3008, 1, 0x4, 1, 0x4, false, [⟨31, 20, .rsv, false, false⟩, ⟨19, 0, .rw, false, true⟩]⟩,
  ⟨.SPR_ORIGIN_Y, 0x300c, 1, 0x4, 1, 0x4, false, [⟨31, 20, .rsv, false, false⟩, ⟨19, 0, .rw, false, true⟩]⟩,
  ⟨.SPR_PAL_RANGE, 0x3010, 1, 0x4, 1, 0x4, false, [⟨31, 14, .rsv, false, false⟩, ⟨13, 8, .ro, false, true⟩, ⟨7, 6, .rsv, false, false⟩, ⟨5, 0, .ro, false, true⟩]⟩,
  ⟨.SPR_WALL, 0x3014, 1, 0x4, 1, 0x4, false, [⟨31, 26, .rsv, false, false⟩, ⟨25, 16, .ro, false, true⟩, ⟨15, 10, .rsv, false, false⟩, ⟨9, 0, .ro, false, true⟩]⟩,
  ⟨.SPR_POISON, 0x3018, 1, 0x4, 1, 0x4, false, [⟨31, 0, .ro, false, true⟩]⟩,
  ⟨.SPR_LINE_STATUS, 0x301c, 1, 0x4, 1, 0x4, false, [⟨31, 24, .rsv, false, false⟩, ⟨23, 16, .rc, false, false⟩, ⟨15, 0, .rc, false, false⟩]⟩,
  ⟨.SPR_ERRS, 0x3020, 1, 0x4, 1, 0x4, false, [⟨31, 16, .rc, false, false⟩, ⟨15, 0, .rc, false, false⟩]⟩,
  ⟨.SPR_LAST_DROP, 0x3024, 1, 0x4, 1, 0x4, false, [⟨31, 28, .rsv, false, false⟩, ⟨27, 16, .ro, false, false⟩, ⟨15, 10, .rsv, false, false⟩, ⟨9, 0, .ro, false, false⟩]⟩,
  ⟨.SPR_IGNORED, 0x3028, 1, 0x4, 1, 0x4, false, [⟨31, 16, .rc, false, false⟩, ⟨15, 0, .rc, false, false⟩]⟩]

/-- Head block registers at 0x4000 (R31). -/
def headRegs4 : List RSpec := [
  ⟨.CMP_CTRL, 0x4000, 1, 0x4, 1, 0x4, false, [⟨31, 9, .rsv, false, false⟩, ⟨8, 8, .ro, false, true⟩, ⟨7, 5, .rsv, false, false⟩, ⟨4, 4, .rw, false, true⟩, ⟨3, 1, .rsv, false, false⟩, ⟨0, 0, .rw, false, true⟩]⟩,
  ⟨.CMP_BACKDROP, 0x4004, 1, 0x4, 1, 0x4, false, [⟨31, 0, .rw, false, true⟩]⟩,
  ⟨.CMP_LAYER, 0x4010, 8, 0x4, 1, 0x4, false, [⟨31, 10, .rsv, false, false⟩, ⟨9, 8, .rw, false, true⟩, ⟨7, 0, .rw, false, true⟩]⟩,
  ⟨.CMP_SPRITE, 0x4030, 1, 0x4, 1, 0x4, false, [⟨31, 10, .rsv, false, false⟩, ⟨9, 8, .rw, false, true⟩, ⟨7, 0, .rw, false, true⟩]⟩,
  ⟨.CMP_TRACE, 0x4034, 2, 0x4, 1, 0x4, false, [⟨31, 18, .rsv, false, false⟩, ⟨17, 16, .rw, false, true⟩, ⟨15, 10, .rsv, false, false⟩, ⟨9, 8, .rw, false, true⟩, ⟨7, 0, .rw, false, true⟩]⟩,
  ⟨.CMP_MISMATCH, 0x4040, 1, 0x4, 1, 0x4, false, [⟨31, 16, .rc, false, false⟩, ⟨15, 12, .rsv, false, false⟩, ⟨11, 0, .ro, false, false⟩]⟩,
  ⟨.CMP_MISMATCH_PIX, 0x4044, 1, 0x4, 1, 0x4, false, [⟨31, 13, .rsv, false, false⟩, ⟨12, 0, .ro, false, false⟩]⟩]

/-- Head block registers at 0x5000 (R31). -/
def headRegs5 : List RSpec := [
  ⟨.CAD_CTRL, 0x5000, 1, 0x4, 1, 0x4, false, [⟨31, 2, .rsv, false, false⟩, ⟨1, 1, .rw, false, true⟩, ⟨0, 0, .rw, false, true⟩]⟩,
  ⟨.CAD_BASE, 0x5004, 2, 0x4, 1, 0x4, false, [⟨31, 28, .rsv, false, false⟩, ⟨27, 14, .rw, false, true⟩, ⟨13, 0, .rsv, false, false⟩]⟩,
  ⟨.CAD_ERRS, 0x5010, 1, 0x4, 1, 0x4, false, [⟨31, 16, .rc, false, false⟩, ⟨15, 0, .rc, false, false⟩]⟩,
  ⟨.CAD_BAD, 0x5014, 1, 0x4, 1, 0x4, false, [⟨31, 16, .rc, false, false⟩, ⟨15, 4, .rsv, false, false⟩, ⟨3, 0, .rc, false, false⟩]⟩,
  ⟨.CAD_LAST_BAD, 0x5018, 1, 0x4, 1, 0x4, false, [⟨31, 31, .ro, false, false⟩, ⟨30, 28, .rsv, false, false⟩, ⟨27, 16, .ro, false, false⟩, ⟨15, 14, .rsv, false, false⟩, ⟨13, 0, .ro, false, false⟩]⟩]

/-- Head block registers at 0x7000 (R31). -/
def headRegs7 : List RSpec := [
  ⟨.TX_CTRL, 0x7000, 1, 0x4, 1, 0x4, false, [⟨31, 6, .rsv, false, false⟩, ⟨5, 5, .rw, false, true⟩, ⟨4, 4, .rw, false, true⟩, ⟨3, 3, .rw, false, true⟩, ⟨2, 2, .rsv, false, false⟩, ⟨1, 0, .rw, false, true⟩]⟩,
  ⟨.TX_STATUS, 0x7004, 1, 0x4, 1, 0x4, false, [⟨31, 30, .ro, false, false⟩, ⟨29, 28, .ro, false, false⟩, ⟨27, 27, .ro, false, false⟩, ⟨26, 26, .ro, false, false⟩, ⟨25, 25, .w1c, false, false⟩, ⟨24, 24, .w1c, false, false⟩, ⟨23, 23, .ro, false, false⟩, ⟨22, 22, .w1c, false, false⟩, ⟨21, 21, .w1c, false, false⟩, ⟨20, 19, .rsv, false, false⟩, ⟨18, 16, .ro, false, false⟩, ⟨15, 14, .ro, false, false⟩, ⟨13, 0, .rsv, false, false⟩]⟩,
  ⟨.TX_LINK, 0x7008, 1, 0x4, 1, 0x4, false, [⟨31, 8, .rsv, false, false⟩, ⟨7, 7, .ro, false, true⟩, ⟨6, 6, .ro, false, true⟩, ⟨5, 5, .ro, false, true⟩, ⟨4, 3, .rsv, false, false⟩, ⟨2, 2, .rsv, false, false⟩, ⟨1, 0, .ro, false, true⟩]⟩,
  ⟨.TX_MVID, 0x700c, 1, 0x4, 1, 0x4, false, [⟨31, 24, .rsv, false, false⟩, ⟨23, 0, .ro, false, false⟩]⟩,
  ⟨.TX_NVID, 0x7010, 1, 0x4, 1, 0x4, false, [⟨31, 24, .rsv, false, false⟩, ⟨23, 0, .ro, false, false⟩]⟩,
  ⟨.TX_UNDERRUN, 0x7014, 1, 0x4, 1, 0x4, false, [⟨31, 16, .rc, false, false⟩, ⟨15, 12, .rsv, false, false⟩, ⟨11, 0, .ro, false, false⟩]⟩,
  ⟨.TX_UNDERRUN_PIX, 0x7018, 1, 0x4, 1, 0x4, false, [⟨31, 0, .ro, false, false⟩]⟩,
  ⟨.TX_TE, 0x701c, 1, 0x4, 1, 0x4, false, [⟨31, 31, .rw, false, true⟩, ⟨30, 28, .rsv, false, false⟩, ⟨27, 16, .rw, false, true⟩, ⟨15, 8, .rw, false, true⟩, ⟨7, 0, .rw, false, true⟩]⟩,
  ⟨.TX_TE_PHASE, 0x7020, 1, 0x4, 1, 0x4, false, [⟨31, 0, .ro, false, false⟩]⟩,
  ⟨.TX_TE_TIME, 0x7028, 1, 0x8, 1, 0x8, true, [⟨63, 0, .ro, false, false⟩]⟩,
  ⟨.TX_FW_WATCH, 0x7030, 1, 0x8, 1, 0x8, true, [⟨63, 0, .ro, false, true⟩]⟩,
  ⟨.TX_MIRROR, 0x7040, 1, 0x4, 1, 0x4, false, [⟨31, 31, .ro, false, true⟩, ⟨30, 28, .rsv, false, false⟩, ⟨27, 16, .ro, false, true⟩, ⟨15, 0, .rsv, false, false⟩]⟩,
  ⟨.TX_REMOTE, 0x7044, 1, 0x4, 1, 0x4, false, [⟨31, 24, .ro, false, true⟩, ⟨23, 20, .ro, false, true⟩, ⟨19, 9, .rsv, false, false⟩, ⟨8, 0, .ro, false, true⟩]⟩,
  ⟨.TX_REMOTE_SRC, 0x7048, 1, 0x4, 1, 0x4, false, [⟨31, 0, .ro, false, true⟩]⟩,
  ⟨.TX_REMOTE_RING, 0x704c, 1, 0x4, 1, 0x4, false, [⟨31, 28, .rsv, false, false⟩, ⟨27, 16, .ro, false, true⟩, ⟨15, 0, .rc, false, false⟩]⟩,
  ⟨.TX_TEST, 0x7050, 1, 0x4, 1, 0x4, false, [⟨31, 7, .rsv, false, false⟩, ⟨6, 4, .rw, false, false⟩, ⟨3, 3, .rsv, false, false⟩, ⟨2, 0, .rw, false, false⟩]⟩,
  ⟨.TX_TEST_COLOUR, 0x7054, 1, 0x4, 1, 0x4, false, [⟨31, 0, .rw, false, false⟩]⟩,
  ⟨.TX_IRQ, 0x705c, 1, 0x4, 1, 0x4, false, [⟨31, 24, .rsv, false, false⟩, ⟨23, 16, .rw, false, false⟩, ⟨15, 8, .rsv, false, false⟩, ⟨7, 7, .w1c, false, false⟩, ⟨6, 6, .w1c, false, false⟩, ⟨5, 5, .w1c, false, false⟩, ⟨4, 4, .w1c, false, false⟩, ⟨3, 3, .w1c, false, false⟩, ⟨2, 2, .w1c, false, false⟩, ⟨1, 1, .w1c, false, false⟩, ⟨0, 0, .w1c, false, false⟩]⟩,
  ⟨.TX_AUX_CTRL, 0x7060, 1, 0x4, 1, 0x4, false, [⟨31, 31, .ro, false, false⟩, ⟨30, 28, .ro, false, false⟩, ⟨27, 24, .wo, false, false⟩, ⟨23, 20, .wo, false, false⟩, ⟨19, 0, .wo, false, false⟩]⟩,
  ⟨.TX_AUX_DATA, 0x7070, 4, 0x4, 1, 0x4, false, [⟨31, 0, .rw, false, false⟩]⟩]

/-- Head block registers at 0x6000 (R31). -/
def headRegs6 : List RSpec := [
  ⟨.SEAL_CTRL, 0x6000, 1, 0x4, 1, 0x4, false, [⟨31, 17, .rsv, false, false⟩, ⟨16, 16, .ro, false, true⟩, ⟨15, 12, .rsv, false, false⟩, ⟨11, 0, .ro, false, true⟩]⟩,
  ⟨.SEAL_STATUS, 0x6004, 1, 0x4, 1, 0x4, false, [⟨31, 16, .ro, false, false⟩, ⟨15, 7, .rsv, false, false⟩, ⟨6, 0, .ro, false, false⟩]⟩,
  ⟨.SEAL_FRAME, 0x6008, 1, 0x8, 1, 0x8, true, [⟨63, 0, .ro, false, false⟩]⟩,
  ⟨.SEAL_FSEAL, 0x6040, 16, 0x4, 1, 0x4, false, [⟨31, 0, .ro, false, false⟩]⟩,
  ⟨.SEAL_NEXT_PREV, 0x6080, 8, 0x4, 1, 0x4, false, [⟨31, 0, .ro, false, false⟩]⟩]

/-- The registers of a head block (R31). -/
def headRegs : List RSpec := headRegs0 ++ headRegs1 ++ headRegs2 ++ headRegs3 ++ headRegs4 ++ headRegs5 ++ headRegs7 ++ headRegs6

/-- The registers of the Chain block. -/
def regsChain : List RSpec := [
  ⟨.CHAIN_CTRL, 0x0, 1, 0x4, 1, 0x4, false, [⟨31, 8, .rsv, false, false⟩, ⟨7, 0, .ro, false, true⟩]⟩,
  ⟨.CHAIN_STATUS, 0x4, 1, 0x4, 1, 0x4, false, [⟨31, 31, .ro, false, false⟩, ⟨30, 16, .rsv, false, false⟩, ⟨15, 8, .ro, false, false⟩, ⟨7, 7, .rsv, false, false⟩, ⟨6, 0, .ro, false, false⟩]⟩,
  ⟨.CHAIN_RING, 0x8, 1, 0x4, 1, 0x4, false, [⟨31, 28, .rsv, false, false⟩, ⟨27, 16, .ro, false, true⟩, ⟨15, 5, .rsv, false, false⟩, ⟨4, 0, .ro, false, true⟩]⟩,
  ⟨.CHAIN_BAND_RING, 0xc, 1, 0x4, 1, 0x4, false, [⟨31, 28, .rsv, false, false⟩, ⟨27, 16, .ro, false, true⟩, ⟨15, 4, .rsv, false, false⟩, ⟨3, 0, .ro, false, true⟩]⟩,
  ⟨.CHAIN_REC_WR, 0x10, 1, 0x4, 1, 0x4, false, [⟨31, 0, .ro, false, false⟩]⟩,
  ⟨.CHAIN_BAND_WR, 0x14, 1, 0x4, 1, 0x4, false, [⟨31, 0, .ro, false, false⟩]⟩,
  ⟨.CHAIN_SIGNED, 0x18, 1, 0x8, 1, 0x8, true, [⟨63, 0, .ro, false, false⟩]⟩,
  ⟨.CHAIN_QUEUE_PEAK, 0x20, 1, 0x4, 1, 0x4, false, [⟨31, 7, .rsv, false, false⟩, ⟨6, 0, .rc, false, false⟩]⟩]

/-- The registers of the TandemU block. -/
def regsTandemU : List RSpec := [
  ⟨.TANDEM_CTRL, 0x0, 1, 0x4, 1, 0x4, false, [⟨31, 3, .rsv, false, false⟩, ⟨2, 2, .wo, false, false⟩, ⟨1, 1, .wo, false, false⟩, ⟨0, 0, .rw, false, true⟩]⟩,
  ⟨.TANDEM_STATUS, 0x4, 1, 0x4, 1, 0x4, false, [⟨31, 28, .ro, false, false⟩, ⟨27, 26, .ro, false, false⟩, ⟨25, 25, .ro, false, false⟩, ⟨24, 24, .ro, false, false⟩, ⟨23, 23, .ro, false, false⟩, ⟨22, 22, .ro, false, false⟩, ⟨21, 18, .ro, false, false⟩, ⟨17, 16, .rsv, false, false⟩, ⟨15, 0, .ro, false, false⟩]⟩,
  ⟨.TANDEM_OWN, 0x8, 1, 0x4, 1, 0x4, false, [⟨31, 24, .rsv, false, false⟩, ⟨23, 0, .ro, false, false⟩]⟩,
  ⟨.TANDEM_TAKE_REQ, 0xc, 1, 0x4, 1, 0x4, false, [⟨31, 24, .rsv, false, false⟩, ⟨23, 0, .wo, false, false⟩]⟩,
  ⟨.TANDEM_JOURNAL, 0x10, 1, 0x4, 1, 0x4, false, [⟨31, 16, .rc, false, false⟩, ⟨15, 0, .rc, false, false⟩]⟩,
  ⟨.TANDEM_DIVERGE, 0x14, 1, 0x4, 1, 0x4, false, [⟨31, 16, .rc, false, false⟩, ⟨15, 8, .rc, false, false⟩, ⟨7, 5, .rsv, false, false⟩, ⟨4, 0, .ro, false, false⟩]⟩,
  ⟨.TANDEM_LAST_TAKE, 0x18, 1, 0x4, 1, 0x4, false, [⟨31, 29, .ro, false, false⟩, ⟨28, 17, .ro, false, false⟩, ⟨16, 5, .rsv, false, false⟩, ⟨4, 0, .ro, false, false⟩]⟩,
  ⟨.TANDEM_LAST_TAKE_FRAME, 0x20, 1, 0x8, 1, 0x8, true, [⟨63, 0, .ro, false, false⟩]⟩,
  ⟨.TANDEM_IRQ, 0x28, 1, 0x4, 1, 0x4, false, [⟨31, 19, .rsv, false, false⟩, ⟨18, 16, .rw, false, false⟩, ⟨15, 3, .rsv, false, false⟩, ⟨2, 2, .w1c, false, false⟩, ⟨1, 1, .w1c, false, false⟩, ⟨0, 0, .w1c, false, false⟩]⟩]

/-- The registers of the PelotonU block. -/
def regsPelotonU : List RSpec := [
  ⟨.PEL_CTRL, 0x0, 1, 0x4, 1, 0x4, false, [⟨31, 3, .rsv, false, false⟩, ⟨2, 2, .wo, false, false⟩, ⟨1, 1, .wo, false, false⟩, ⟨0, 0, .ro, false, true⟩]⟩,
  ⟨.PEL_STATUS, 0x4, 1, 0x4, 1, 0x4, false, [⟨31, 28, .ro, false, false⟩, ⟨27, 26, .ro, false, false⟩, ⟨25, 25, .ro, false, false⟩, ⟨24, 21, .ro, false, false⟩, ⟨20, 16, .ro, false, false⟩, ⟨15, 10, .rsv, false, false⟩, ⟨9, 0, .ro, false, false⟩]⟩,
  ⟨.PEL_SELF, 0x8, 1, 0x4, 1, 0x4, false, [⟨31, 26, .rsv, false, false⟩, ⟨25, 16, .ro, false, false⟩, ⟨15, 10, .rsv, false, false⟩, ⟨9, 0, .ro, false, true⟩]⟩,
  ⟨.PEL_GUARD, 0xc, 1, 0x4, 1, 0x4, false, [⟨31, 28, .rsv, false, false⟩, ⟨27, 24, .ro, false, true⟩, ⟨23, 16, .ro, false, true⟩, ⟨15, 8, .ro, false, true⟩, ⟨7, 0, .ro, false, true⟩]⟩,
  ⟨.PEL_APPLIED, 0x10, 1, 0x8, 1, 0x8, true, [⟨63, 0, .ro, false, false⟩]⟩,
  ⟨.PEL_COMMIT_STATS, 0x18, 1, 0x4, 1, 0x4, false, [⟨31, 24, .rc, false, false⟩, ⟨23, 16, .rc, false, false⟩, ⟨15, 8, .rc, false, false⟩, ⟨7, 0, .rc, false, false⟩]⟩,
  ⟨.PEL_WALL_X, 0x100, 24, 0x8, 1, 0x8, false, [⟨31, 31, .ro, false, true⟩, ⟨30, 20, .rsv, false, false⟩, ⟨19, 0, .ro, false, true⟩]⟩,
  ⟨.PEL_WALL_Y, 0x104, 24, 0x8, 1, 0x8, false, [⟨31, 31, .ro, false, true⟩, ⟨30, 20, .rsv, false, false⟩, ⟨19, 0, .ro, false, true⟩]⟩,
  ⟨.PEL_WALL_SRC, 0x200, 1, 0x4, 1, 0x4, false, [⟨31, 28, .rsv, false, false⟩, ⟨27, 6, .ro, false, true⟩, ⟨5, 0, .rsv, false, false⟩]⟩,
  ⟨.PEL_SPRITE_OWN, 0x204, 1, 0x4, 1, 0x4, false, [⟨31, 16, .rc, false, false⟩, ⟨15, 11, .rsv, false, false⟩, ⟨10, 0, .ro, false, false⟩]⟩,
  ⟨.PEL_GENLOCK, 0x208, 1, 0x4, 1, 0x4, false, [⟨31, 16, .ro, false, false⟩, ⟨15, 10, .rsv, false, false⟩, ⟨9, 0, .ro, false, false⟩]⟩,
  ⟨.PEL_GENLOCK_SELF, 0x20c, 1, 0x4, 1, 0x4, false, [⟨31, 0, .ro, false, false⟩]⟩,
  ⟨.PEL_IRQ, 0x210, 1, 0x4, 1, 0x4, false, [⟨31, 21, .rsv, false, false⟩, ⟨20, 16, .rw, false, false⟩, ⟨15, 5, .rsv, false, false⟩, ⟨4, 4, .w1c, false, false⟩, ⟨3, 3, .w1c, false, false⟩, ⟨2, 2, .w1c, false, false⟩, ⟨1, 1, .w1c, false, false⟩, ⟨0, 0, .w1c, false, false⟩]⟩]

/-- The registers of the BlitterU block. -/
def regsBlitterU : List RSpec := [
  ⟨.BLT_STATUS, 0x0, 1, 0x4, 1, 0x4, false, [⟨31, 31, .ro, false, false⟩, ⟨30, 30, .ro, false, false⟩, ⟨29, 26, .rsv, false, false⟩, ⟨25, 24, .ro, false, false⟩, ⟨23, 16, .rsv, false, false⟩, ⟨15, 0, .ro, false, false⟩]⟩,
  ⟨.BLT_Q_BASE, 0x10, 4, 0x10, 1, 0x10, false, [⟨31, 28, .rsv, false, false⟩, ⟨27, 6, .rw, false, false⟩, ⟨5, 4, .rsv, false, false⟩, ⟨3, 0, .rw, false, false⟩]⟩,
  ⟨.BLT_Q_CTRL, 0x14, 4, 0x10, 1, 0x10, false, [⟨31, 3, .rsv, false, false⟩, ⟨2, 2, .wo, false, false⟩, ⟨1, 1, .w1c, false, false⟩, ⟨0, 0, .rw, false, false⟩]⟩,
  ⟨.BLT_Q_WR, 0x18, 4, 0x10, 1, 0x10, false, [⟨31, 16, .rsv, false, false⟩, ⟨15, 0, .rw, false, false⟩]⟩,
  ⟨.BLT_Q_RD, 0x1c, 4, 0x10, 1, 0x10, false, [⟨31, 16, .rsv, false, false⟩, ⟨15, 0, .ro, false, false⟩]⟩,
  ⟨.BLT_LAST_ERR, 0x50, 1, 0x4, 1, 0x4, false, [⟨31, 28, .ro, false, false⟩, ⟨27, 18, .rsv, false, false⟩, ⟨17, 16, .ro, false, false⟩, ⟨15, 0, .ro, false, false⟩]⟩,
  ⟨.BLT_PIXELS, 0x58, 1, 0x8, 1, 0x8, true, [⟨63, 0, .ro, false, false⟩]⟩,
  ⟨.BLT_IRQ, 0x60, 1, 0x4, 1, 0x4, false, [⟨31, 24, .rsv, false, false⟩, ⟨23, 16, .rw, false, false⟩, ⟨15, 8, .rsv, false, false⟩, ⟨7, 4, .w1c, false, false⟩, ⟨3, 0, .w1c, false, false⟩]⟩]

/-- The registers of the BellU block. -/
def regsBellU : List RSpec := [
  ⟨.BELL_CTRL, 0x0, 1, 0x4, 1, 0x4, false, [⟨31, 4, .rsv, false, false⟩, ⟨3, 2, .ro, false, true⟩, ⟨1, 0, .rw, false, true⟩]⟩,
  ⟨.BELL_STATUS, 0x4, 1, 0x4, 1, 0x4, false, [⟨31, 24, .rsv, false, false⟩, ⟨23, 16, .ro, false, false⟩, ⟨15, 9, .rsv, false, false⟩, ⟨8, 0, .ro, false, false⟩]⟩,
  ⟨.BELL_CUE_CMD, 0x8, 1, 0x4, 1, 0x4, false, [⟨31, 25, .rsv, false, false⟩, ⟨24, 16, .wo, false, false⟩, ⟨15, 8, .rsv, false, false⟩, ⟨7, 0, .wo, false, false⟩]⟩,
  ⟨.BELL_CUE_BASE, 0xc, 1, 0x4, 1, 0x4, false, [⟨31, 28, .rsv, false, false⟩, ⟨27, 14, .ro, false, true⟩, ⟨13, 0, .rsv, false, false⟩]⟩,
  ⟨.BELL_XP_SEL, 0x10, 1, 0x4, 1, 0x4, false, [⟨31, 15, .rsv, false, false⟩, ⟨14, 8, .rw, false, false⟩, ⟨7, 0, .rw, false, false⟩]⟩,
  ⟨.BELL_XP_DATA, 0x14, 1, 0x4, 1, 0x4, false, [⟨31, 18, .rsv, false, false⟩, ⟨17, 16, .wo, false, false⟩, ⟨15, 0, .rw, false, true⟩]⟩,
  ⟨.BELL_ERRS, 0x18, 1, 0x4, 1, 0x4, false, [⟨31, 16, .rc, false, false⟩, ⟨15, 0, .rc, false, false⟩]⟩,
  ⟨.BELL_IRQ, 0x1c, 1, 0x4, 1, 0x4, false, [⟨31, 20, .rsv, false, false⟩, ⟨19, 16, .rw, false, false⟩, ⟨15, 4, .rsv, false, false⟩, ⟨3, 3, .w1c, false, false⟩, ⟨2, 2, .w1c, false, false⟩, ⟨1, 1, .w1c, false, false⟩, ⟨0, 0, .w1c, false, false⟩]⟩,
  ⟨.BELL_VOICE_SEL, 0x20, 1, 0x4, 1, 0x4, false, [⟨31, 7, .rsv, false, false⟩, ⟨6, 0, .rw, false, false⟩]⟩,
  ⟨.BELL_VOICE_STATE, 0x24, 1, 0x4, 1, 0x4, false, [⟨31, 29, .ro, false, false⟩, ⟨28, 25, .rsv, false, false⟩, ⟨24, 16, .ro, false, false⟩, ⟨15, 0, .ro, false, false⟩]⟩,
  ⟨.BELL_TICK, 0x28, 1, 0x8, 1, 0x8, true, [⟨63, 0, .ro, false, false⟩]⟩,
  ⟨.BELL_VOICE_OWN, 0x40, 8, 0x4, 1, 0x4, false, [⟨31, 0, .ro, false, true⟩]⟩,
  ⟨.BELL_TDM, 0x100, 8, 0x8, 1, 0x8, false, [⟨31, 31, .ro, false, true⟩, ⟨30, 30, .ro, false, true⟩, ⟨29, 29, .ro, false, true⟩, ⟨28, 28, .ro, false, true⟩, ⟨27, 27, .ro, false, true⟩, ⟨26, 26, .ro, false, true⟩, ⟨25, 0, .rsv, false, false⟩]⟩,
  ⟨.BELL_TDM_STATUS, 0x104, 8, 0x8, 1, 0x8, false, [⟨31, 31, .ro, false, false⟩, ⟨30, 24, .rsv, false, false⟩, ⟨23, 0, .ro, false, false⟩]⟩,
  ⟨.BELL_SINK, 0x400, 256, 0x4, 1, 0x4, false, [⟨31, 10, .rsv, false, false⟩, ⟨9, 8, .wo, false, false⟩, ⟨7, 0, .rw, false, true⟩]⟩,
  ⟨.BELL_BUS, 0x800, 128, 0x8, 1, 0x8, false, [⟨31, 31, .ro, false, true⟩, ⟨30, 28, .rsv, false, false⟩, ⟨27, 24, .ro, false, true⟩, ⟨23, 16, .ro, false, true⟩, ⟨15, 0, .rc, false, false⟩]⟩,
  ⟨.BELL_BUS_GAIN, 0x804, 128, 0x8, 1, 0x8, false, [⟨31, 16, .rsv, false, false⟩, ⟨15, 0, .rw, false, true⟩]⟩]

/-- The registers of the Intc block. -/
def regsIntc : List RSpec := [
  ⟨.INTC_CTRL, 0x0, 1, 0x4, 1, 0x4, false, [⟨31, 31, .ro, false, true⟩, ⟨30, 1, .rsv, false, false⟩, ⟨0, 0, .rw, false, false⟩]⟩,
  ⟨.INTC_MERGED, 0x4, 1, 0x4, 1, 0x4, false, [⟨31, 16, .rc, false, false⟩, ⟨15, 10, .rsv, false, false⟩, ⟨9, 0, .ro, false, false⟩]⟩,
  ⟨.INTC_DOORBELL, 0x8, 1, 0x4, 1, 0x4, false, [⟨31, 13, .rsv, false, false⟩, ⟨12, 8, .wo, false, false⟩, ⟨7, 5, .rsv, false, false⟩, ⟨4, 0, .wo, false, false⟩]⟩,
  ⟨.INTC_WAKE, 0x10, 1, 0x4, 1, 0x4, false, [⟨31, 2, .rsv, false, false⟩, ⟨1, 1, .rw, false, false⟩, ⟨0, 0, .rw, false, false⟩]⟩,
  ⟨.INTC_WAKE_CAUSE, 0x14, 1, 0x4, 1, 0x4, false, [⟨31, 31, .ro, false, false⟩, ⟨30, 10, .rsv, false, false⟩, ⟨9, 0, .ro, false, false⟩]⟩,
  ⟨.INTC_WAKE_FIELD, 0x18, 1, 0x8, 1, 0x8, true, [⟨63, 0, .rw, false, false⟩]⟩,
  ⟨.INTC_CLAIM, 0x1000, 32, 0x40, 1, 0x40, false, [⟨31, 10, .rsv, false, false⟩, ⟨9, 0, .rc, false, false⟩]⟩,
  ⟨.INTC_EOI, 0x1004, 32, 0x40, 1, 0x40, false, [⟨31, 10, .rsv, false, false⟩, ⟨9, 0, .wo, false, false⟩]⟩,
  ⟨.INTC_FAST_ID, 0x1008, 32, 0x40, 1, 0x40, false, [⟨31, 10, .rsv, false, false⟩, ⟨9, 0, .ro, false, false⟩]⟩,
  ⟨.INTC_FAST_EOI, 0x100c, 32, 0x40, 1, 0x40, false, [⟨31, 0, .wo, false, false⟩]⟩,
  ⟨.INTC_CORE_CTRL, 0x1010, 32, 0x40, 1, 0x40, false, [⟨31, 17, .rsv, false, false⟩, ⟨16, 16, .ro, false, true⟩, ⟨15, 12, .rsv, false, false⟩, ⟨11, 8, .ro, false, true⟩, ⟨7, 5, .rsv, false, false⟩, ⟨4, 4, .rw, false, false⟩, ⟨3, 0, .rw, false, false⟩]⟩,
  ⟨.INTC_RUNNING, 0x1014, 32, 0x40, 1, 0x40, false, [⟨31, 20, .rsv, false, false⟩, ⟨19, 16, .ro, false, false⟩, ⟨15, 4, .rsv, false, false⟩, ⟨3, 0, .ro, false, false⟩]⟩,
  ⟨.INTC_EOI_BAD, 0x1018, 32, 0x40, 1, 0x40, false, [⟨31, 16, .rc, false, false⟩, ⟨15, 10, .rsv, false, false⟩, ⟨9, 0, .ro, false, false⟩]⟩,
  ⟨.INTC_PRIV_EN, 0x101c, 32, 0x40, 1, 0x40, false, [⟨31, 0, .rw, false, false⟩]⟩,
  ⟨.INTC_PRIV_PEND, 0x1020, 32, 0x40, 1, 0x40, false, [⟨31, 0, .ro, false, false⟩]⟩,
  ⟨.INTC_SRC, 0x4000, 64, 0x4, 1, 0x4, false, [⟨31, 0, .rsv, false, false⟩]⟩,
  ⟨.INTC_SRC, 0x4100, 640, 0x4, 1, 0x4, false, [⟨31, 31, .rw, false, true⟩, ⟨30, 30, .ro, false, false⟩, ⟨29, 29, .ro, false, false⟩, ⟨28, 28, .ro, false, false⟩, ⟨27, 27, .ro, false, false⟩, ⟨26, 17, .rsv, false, false⟩, ⟨16, 16, .ro, false, true⟩, ⟨15, 12, .ro, false, true⟩, ⟨11, 5, .rsv, false, false⟩, ⟨4, 0, .ro, false, true⟩]⟩,
  ⟨.INTC_SRC, 0x4B00, 320, 0x4, 1, 0x4, false, [⟨31, 0, .rsv, false, false⟩]⟩]

/-- The registers of the DmaU block. -/
def regsDmaU : List RSpec := [
  ⟨.DMA_CTRL, 0x0, 1, 0x4, 1, 0x4, false, [⟨31, 1, .rsv, false, false⟩, ⟨0, 0, .wo, false, false⟩]⟩,
  ⟨.DMA_STATUS, 0x4, 1, 0x4, 1, 0x4, false, [⟨31, 31, .ro, false, false⟩, ⟨30, 30, .ro, false, false⟩, ⟨29, 29, .ro, false, false⟩, ⟨28, 3, .rsv, false, false⟩, ⟨2, 0, .ro, false, false⟩]⟩,
  ⟨.DMA_ERR_ADDR, 0x8, 1, 0x4, 1, 0x4, false, [⟨31, 0, .ro, false, false⟩]⟩,
  ⟨.DMA_ERR_INFO, 0xc, 1, 0x4, 1, 0x4, false, [⟨31, 28, .ro, false, false⟩, ⟨27, 27, .ro, false, false⟩, ⟨26, 25, .ro, false, false⟩, ⟨24, 3, .rsv, false, false⟩, ⟨2, 0, .ro, false, false⟩]⟩,
  ⟨.DMA_PERMIT, 0x10, 1, 0x8, 1, 0x8, true, [⟨63, 0, .ro, false, true⟩]⟩,
  ⟨.DMA_CH_CTRL, 0x100, 8, 0x20, 1, 0x20, false, [⟨31, 12, .rsv, false, false⟩, ⟨11, 9, .ro, false, true⟩, ⟨8, 3, .rsv, false, false⟩, ⟨2, 2, .rw, false, false⟩, ⟨1, 1, .wo, false, false⟩, ⟨0, 0, .rw, false, true⟩]⟩,
  ⟨.DMA_CH_DESC, 0x104, 8, 0x20, 1, 0x20, false, [⟨31, 5, .rw, false, false⟩, ⟨4, 0, .rsv, false, false⟩]⟩,
  ⟨.DMA_CH_STATUS, 0x108, 8, 0x20, 1, 0x20, false, [⟨31, 31, .w1c, false, false⟩, ⟨30, 30, .ro, false, false⟩, ⟨29, 28, .rsv, false, false⟩, ⟨27, 24, .ro, false, false⟩, ⟨23, 0, .ro, false, false⟩]⟩,
  ⟨.DMA_CH_CUR, 0x10c, 8, 0x20, 1, 0x20, false, [⟨31, 5, .ro, false, false⟩, ⟨4, 0, .rsv, false, false⟩]⟩]

/-- The registers of the Timers block. -/
def regsTimers : List RSpec := [
  ⟨.TMR_CTRL, 0x0, 32, 0x40, 1, 0x40, false, [⟨31, 31, .rw, false, false⟩, ⟨30, 30, .rw, false, false⟩, ⟨29, 29, .rw, false, false⟩, ⟨28, 28, .rsv, false, false⟩, ⟨27, 26, .rw, false, false⟩, ⟨25, 24, .rsv, false, false⟩, ⟨23, 0, .rw, false, false⟩]⟩,
  ⟨.TMR_STATUS, 0x4, 32, 0x40, 1, 0x40, false, [⟨31, 2, .rsv, false, false⟩, ⟨1, 1, .w1c, false, false⟩, ⟨0, 0, .w1c, false, false⟩]⟩,
  ⟨.TMR_COUNT, 0x8, 32, 0x40, 1, 0x40, true, [⟨63, 0, .rw, false, false⟩]⟩,
  ⟨.TMR_COMPARE, 0x10, 32, 0x40, 1, 0x40, true, [⟨63, 0, .rw, false, false⟩]⟩,
  ⟨.TMR_PERIOD, 0x18, 32, 0x40, 1, 0x40, true, [⟨63, 0, .rw, false, false⟩]⟩,
  ⟨.TMR_CH_SNAP, 0x20, 32, 0x40, 1, 0x40, true, [⟨63, 0, .ro, false, false⟩]⟩,
  ⟨.TMR_SNAP, 0x800, 1, 0x4, 1, 0x4, false, [⟨31, 0, .wo, false, false⟩]⟩,
  ⟨.TMR_SNAP_TIME, 0x808, 1, 0x8, 1, 0x8, true, [⟨63, 0, .ro, false, false⟩]⟩,
  ⟨.FL_CFG, 0x1000, 64, 0x20, 1, 0x20, false, [⟨31, 31, .rw, false, true⟩, ⟨30, 30, .ro, false, true⟩, ⟨29, 29, .rw, false, true⟩, ⟨28, 27, .rw, false, true⟩, ⟨26, 26, .rw, false, true⟩, ⟨25, 21, .rw, false, true⟩, ⟨20, 20, .rw, false, true⟩, ⟨19, 19, .rw, false, true⟩, ⟨18, 18, .rw, false, true⟩, ⟨17, 16, .rsv, false, false⟩, ⟨15, 0, .rw, false, true⟩]⟩,
  ⟨.FL_STATUS, 0x1004, 64, 0x20, 1, 0x20, false, [⟨31, 31, .ro, false, false⟩, ⟨30, 30, .ro, false, false⟩, ⟨29, 29, .w1c, false, false⟩, ⟨28, 28, .w1c, false, false⟩, ⟨27, 24, .ro, false, false⟩, ⟨23, 16, .rsv, false, false⟩, ⟨15, 0, .rc, false, false⟩]⟩,
  ⟨.FL_CAP_TIME, 0x1008, 64, 0x20, 1, 0x20, true, [⟨63, 0, .ro, false, false⟩]⟩,
  ⟨.FL_CAP_POP, 0x1010, 64, 0x20, 1, 0x20, false, [⟨31, 31, .rc, false, false⟩, ⟨30, 30, .rc, false, false⟩, ⟨29, 0, .rsv, false, false⟩]⟩,
  ⟨.FL_OUT, 0x1800, 1, 0x8, 1, 0x8, true, [⟨63, 0, .rw, false, false⟩]⟩,
  ⟨.FL_OUT_SET, 0x1808, 1, 0x8, 1, 0x8, true, [⟨63, 0, .w1s, false, false⟩]⟩,
  ⟨.FL_OUT_CLR, 0x1810, 1, 0x8, 1, 0x8, true, [⟨63, 0, .w1c, false, false⟩]⟩,
  ⟨.FL_LEVEL, 0x1818, 1, 0x8, 1, 0x8, true, [⟨63, 0, .ro, false, false⟩]⟩,
  ⟨.FL_SHORT, 0x1820, 1, 0x8, 1, 0x8, true, [⟨63, 0, .w1c, false, false⟩]⟩]

/-- The registers of the SaddlebagU block. -/
def regsSaddlebagU : List RSpec := [
  ⟨.SB_CTRL, 0x0, 1, 0x4, 1, 0x4, false, [⟨31, 24, .rsv, false, false⟩, ⟨23, 16, .ro, false, true⟩, ⟨15, 10, .rw, false, false⟩, ⟨9, 9, .rw, false, true⟩, ⟨8, 6, .rsv, false, false⟩, ⟨5, 5, .wo, true, false⟩, ⟨4, 4, .wo, true, false⟩, ⟨3, 3, .wo, false, false⟩, ⟨2, 2, .wo, false, false⟩, ⟨1, 1, .wo, false, false⟩, ⟨0, 0, .rsv, false, false⟩]⟩,
  ⟨.SB_STATUS, 0x4, 1, 0x4, 1, 0x4, false, [⟨31, 31, .ro, false, false⟩, ⟨30, 30, .ro, false, false⟩, ⟨29, 29, .w1c, false, false⟩, ⟨28, 23, .rsv, false, false⟩, ⟨22, 16, .ro, false, false⟩, ⟨15, 0, .rc, false, false⟩]⟩,
  ⟨.SB_DRIVE, 0x8, 2, 0x4, 1, 0x4, false, [⟨31, 30, .ro, false, false⟩, ⟨29, 27, .ro, false, false⟩, ⟨26, 24, .ro, false, false⟩, ⟨23, 16, .rc, false, false⟩, ⟨15, 0, .ro, false, false⟩]⟩,
  ⟨.SB_SEQ, 0x10, 1, 0x8, 1, 0x8, true, [⟨63, 0, .ro, false, false⟩]⟩,
  ⟨.SB_FREEZE_START, 0x18, 1, 0x8, 1, 0x8, true, [⟨63, 0, .rw, false, false⟩]⟩,
  ⟨.SB_FREEZE_END, 0x20, 1, 0x8, 1, 0x8, true, [⟨63, 0, .rw, false, false⟩]⟩,
  ⟨.SB_READ_LBA, 0x28, 1, 0x8, 1, 0x8, true, [⟨63, 0, .rw, false, false⟩]⟩,
  ⟨.SB_READ_DST, 0x30, 1, 0x4, 1, 0x4, false, [⟨31, 28, .rsv, false, false⟩, ⟨27, 12, .rw, false, false⟩, ⟨11, 0, .rsv, false, false⟩]⟩,
  ⟨.SB_READ_CTRL, 0x34, 1, 0x4, 1, 0x4, false, [⟨31, 31, .ro, false, false⟩, ⟨30, 12, .rsv, false, false⟩, ⟨11, 0, .wo, false, false⟩]⟩,
  ⟨.SB_REPLAY, 0x38, 1, 0x4, 1, 0x4, false, [⟨31, 24, .rsv, false, false⟩, ⟨23, 0, .rw, false, false⟩]⟩,
  ⟨.SB_KEY, 0x3c, 1, 0x4, 1, 0x4, false, [⟨31, 16, .rc, false, false⟩, ⟨15, 0, .ro, false, false⟩]⟩,
  ⟨.SB_IRQ, 0x40, 1, 0x4, 1, 0x4, false, [⟨31, 21, .rsv, false, false⟩, ⟨20, 16, .rw, false, false⟩, ⟨15, 5, .rsv, false, false⟩, ⟨4, 4, .w1c, false, false⟩, ⟨3, 3, .w1c, false, false⟩, ⟨2, 2, .w1c, false, false⟩, ⟨1, 1, .w1c, false, false⟩, ⟨0, 0, .w1c, false, false⟩]⟩]

/-- The registers of the FaultU block. -/
def regsFaultU : List RSpec := [
  ⟨.FAULT_CTRL, 0x0, 1, 0x4, 1, 0x4, false, [⟨31, 8, .rsv, false, false⟩, ⟨7, 4, .rw, false, false⟩, ⟨3, 3, .rsv, false, false⟩, ⟨2, 2, .wo, true, false⟩, ⟨1, 1, .wo, true, false⟩, ⟨0, 0, .rsv, false, false⟩]⟩,
  ⟨.FAULT_STATUS, 0x4, 1, 0x4, 1, 0x4, false, [⟨31, 28, .ro, false, false⟩, ⟨27, 24, .rsv, false, false⟩, ⟨23, 23, .ro, false, false⟩, ⟨22, 21, .rsv, false, false⟩, ⟨20, 16, .ro, false, false⟩, ⟨15, 4, .rsv, false, false⟩, ⟨3, 0, .ro, false, false⟩]⟩,
  ⟨.FAULT_LAST, 0x8, 1, 0x4, 1, 0x4, false, [⟨31, 30, .ro, false, false⟩, ⟨29, 29, .ro, false, false⟩, ⟨28, 28, .ro, false, false⟩, ⟨27, 9, .rsv, false, false⟩, ⟨8, 0, .ro, false, false⟩]⟩,
  ⟨.FAULT_LAST_TIME, 0x10, 1, 0x8, 1, 0x8, true, [⟨63, 0, .ro, false, false⟩]⟩,
  ⟨.FAULT_QUEUE, 0x18, 1, 0x4, 1, 0x4, false, [⟨31, 16, .rc, false, false⟩, ⟨15, 0, .rc, false, false⟩]⟩,
  ⟨.FAULT_QUIET, 0x20, 4, 0x4, 1, 0x4, false, [⟨31, 14, .rsv, false, false⟩, ⟨13, 0, .rw, false, true⟩]⟩,
  ⟨.FAULT_RECOVERY, 0x30, 4, 0x4, 1, 0x4, false, [⟨31, 16, .ro, false, true⟩, ⟨15, 0, .ro, false, false⟩]⟩,
  ⟨.FAULT_STOP_LOG, 0x40, 1, 0x4, 1, 0x4, false, [⟨31, 31, .ro, false, false⟩, ⟨30, 9, .rsv, false, false⟩, ⟨8, 0, .ro, false, false⟩]⟩,
  ⟨.FAULT_INJECT, 0x44, 1, 0x4, 1, 0x4, false, [⟨31, 31, .wo, false, false⟩, ⟨30, 25, .rsv, false, false⟩, ⟨24, 9, .wo, false, false⟩, ⟨8, 0, .wo, false, false⟩]⟩,
  ⟨.WDOG_CTRL, 0x100, 32, 0x10, 1, 0x10, false, [⟨31, 31, .ro, false, true⟩, ⟨30, 20, .ro, false, true⟩, ⟨19, 0, .ro, false, true⟩]⟩,
  ⟨.WDOG_KICK, 0x104, 32, 0x10, 1, 0x10, false, [⟨31, 0, .wo, false, false⟩]⟩,
  ⟨.WDOG_STATUS, 0x108, 32, 0x10, 1, 0x10, false, [⟨31, 31, .w1c, false, false⟩, ⟨30, 30, .w1c, false, false⟩, ⟨29, 20, .rsv, false, false⟩, ⟨19, 0, .ro, false, false⟩]⟩,
  ⟨.FAULT_SRC, 0x400, 512, 0x4, 1, 0x4, false, [⟨31, 30, .ro, false, true⟩, ⟨29, 28, .ro, false, false⟩, ⟨27, 26, .ro, false, false⟩, ⟨25, 25, .w1c, false, false⟩, ⟨24, 8, .rsv, false, false⟩, ⟨7, 0, .rc, false, false⟩]⟩]

/-- The registers of the Security block. -/
def regsSecurity : List RSpec := [
  ⟨.SEC_STATE, 0x0, 1, 0x4, 1, 0x4, false, [⟨31, 30, .ro, false, false⟩, ⟨29, 28, .ro, false, false⟩, ⟨27, 24, .ro, false, false⟩, ⟨23, 20, .ro, false, false⟩, ⟨19, 16, .ro, false, false⟩, ⟨15, 8, .ro, false, false⟩, ⟨7, 0, .ro, false, false⟩]⟩,
  ⟨.SEC_BOOT, 0x4, 1, 0x4, 1, 0x4, false, [⟨31, 29, .ro, false, false⟩, ⟨28, 24, .rsv, false, false⟩, ⟨23, 20, .ro, false, false⟩, ⟨19, 16, .ro, false, false⟩, ⟨15, 0, .ro, false, false⟩]⟩,
  ⟨.SEC_PROG, 0x8, 1, 0x4, 1, 0x4, false, [⟨31, 31, .ro, false, false⟩, ⟨30, 4, .rsv, false, false⟩, ⟨3, 0, .ro, false, false⟩]⟩,
  ⟨.SEC_IRQ, 0xc, 1, 0x4, 1, 0x4, false, [⟨31, 19, .rsv, false, false⟩, ⟨18, 16, .rw, false, false⟩, ⟨15, 3, .rsv, false, false⟩, ⟨2, 2, .w1c, false, false⟩, ⟨1, 1, .w1c, false, false⟩, ⟨0, 0, .w1c, false, false⟩]⟩,
  ⟨.SEC_CAL, 0x10, 1, 0x4, 1, 0x4, false, [⟨31, 16, .rc, false, false⟩, ⟨15, 0, .ro, false, false⟩]⟩,
  ⟨.SEC_ID, 0x40, 8, 0x4, 1, 0x4, false, [⟨31, 0, .ro, false, false⟩]⟩,
  ⟨.SEC_RKEY, 0x60, 8, 0x4, 1, 0x4, false, [⟨31, 0, .ro, false, false⟩]⟩,
  ⟨.SEC_FACTORY_SEL, 0x100, 1, 0x4, 1, 0x4, false, [⟨31, 9, .rsv, false, false⟩, ⟨8, 0, .rw, false, false⟩]⟩,
  ⟨.SEC_FACTORY_DATA, 0x104, 1, 0x4, 1, 0x4, false, [⟨31, 0, .ro, false, false⟩]⟩]

/-- The registers of the DebugU block. -/
def regsDebugU : List RSpec := [
  ⟨.DBG_SESSION, 0x0, 1, 0x4, 1, 0x4, false, [⟨31, 31, .ro, false, false⟩, ⟨30, 24, .rsv, false, false⟩, ⟨23, 16, .ro, false, false⟩, ⟨15, 1, .rsv, false, false⟩, ⟨0, 0, .rw, false, false⟩]⟩,
  ⟨.DBG_HALTED, 0x4, 1, 0x4, 1, 0x4, false, [⟨31, 0, .ro, false, false⟩]⟩,
  ⟨.DBG_CORE, 0x100, 32, 0x4, 1, 0x4, false, [⟨31, 29, .ro, false, false⟩, ⟨28, 27, .rsv, false, false⟩, ⟨26, 24, .ro, false, false⟩, ⟨23, 20, .ro, false, false⟩, ⟨19, 0, .rsv, false, false⟩]⟩]

/-- The registers of the ClockU block. -/
def regsClockU : List RSpec := [
  ⟨.CPR_CTRL, 0x0, 1, 0x4, 1, 0x4, false, [⟨31, 2, .rsv, false, false⟩, ⟨1, 0, .rw, false, false⟩]⟩,
  ⟨.CPR_STATUS, 0x4, 1, 0x4, 1, 0x4, false, [⟨31, 30, .ro, false, false⟩, ⟨29, 29, .ro, false, false⟩, ⟨28, 28, .ro, false, false⟩, ⟨27, 27, .ro, false, false⟩, ⟨26, 26, .ro, false, false⟩, ⟨25, 3, .rsv, false, false⟩, ⟨2, 0, .ro, false, false⟩]⟩,
  ⟨.CPR_BIST, 0x8, 1, 0x4, 1, 0x4, false, [⟨31, 24, .ro, false, false⟩, ⟨23, 16, .ro, false, false⟩, ⟨15, 0, .ro, false, false⟩]⟩,
  ⟨.CPR_TEMP, 0x100, 8, 0x4, 1, 0x4, false, [⟨31, 31, .ro, false, false⟩, ⟨30, 16, .rsv, false, false⟩, ⟨15, 0, .ro, false, false⟩]⟩,
  ⟨.CPR_TEMP_MAX, 0x120, 1, 0x4, 1, 0x4, false, [⟨31, 19, .rsv, false, false⟩, ⟨18, 16, .ro, false, false⟩, ⟨15, 0, .rc, false, false⟩]⟩,
  ⟨.CPR_AGE, 0x140, 16, 0x4, 1, 0x4, false, [⟨31, 18, .rsv, false, false⟩, ⟨17, 16, .ro, false, false⟩, ⟨15, 0, .ro, false, false⟩]⟩,
  ⟨.CPR_AGE_SUMMARY, 0x180, 1, 0x4, 1, 0x4, false, [⟨31, 16, .ro, false, false⟩, ⟨15, 0, .ro, false, false⟩]⟩]

/-- The registers of the Kickstand block. -/
def regsKickstand : List RSpec := [
  ⟨.KICK_RESET_CAUSE, 0x0, 1, 0x4, 1, 0x4, false, [⟨31, 28, .ro, false, false⟩, ⟨27, 16, .rsv, false, false⟩, ⟨15, 0, .ro, false, false⟩]⟩,
  ⟨.KICK_NEXT_START, 0x4, 1, 0x4, 1, 0x4, false, [⟨31, 31, .rw, true, false⟩, ⟨30, 2, .rsv, false, false⟩, ⟨1, 0, .rw, false, false⟩]⟩]

/-- The registers of the HubU block. -/
def regsHubU : List RSpec := [
  ⟨.HUB_CTRL, 0x0, 1, 0x4, 1, 0x4, false, [⟨31, 9, .rsv, false, false⟩, ⟨8, 8, .rw, false, true⟩, ⟨7, 4, .rsv, false, false⟩, ⟨3, 0, .rw, false, false⟩]⟩,
  ⟨.HUB_STATUS, 0x4, 1, 0x4, 1, 0x4, false, [⟨31, 10, .rsv, false, false⟩, ⟨9, 9, .ro, false, false⟩, ⟨8, 8, .rsv, false, false⟩, ⟨7, 0, .ro, false, false⟩]⟩,
  ⟨.HUB_SCRUB_PASS, 0x8, 1, 0x4, 1, 0x4, false, [⟨31, 0, .ro, false, false⟩]⟩,
  ⟨.HUB_ECC_CORR, 0x10, 1, 0x4, 1, 0x4, false, [⟨31, 0, .rc, false, false⟩]⟩,
  ⟨.HUB_ECC_UNCORR, 0x14, 1, 0x4, 1, 0x4, false, [⟨31, 0, .rc, false, false⟩]⟩,
  ⟨.HUB_ECC_LAST_ADDR, 0x18, 1, 0x4, 1, 0x4, false, [⟨31, 28, .rsv, false, false⟩, ⟨27, 3, .ro, false, false⟩, ⟨2, 0, .rsv, false, false⟩]⟩,
  ⟨.HUB_ECC_LAST_SRC, 0x1c, 1, 0x4, 1, 0x4, false, [⟨31, 31, .ro, false, false⟩, ⟨30, 7, .rsv, false, false⟩, ⟨6, 0, .ro, false, false⟩]⟩,
  ⟨.HUB_REPAIR_STATUS, 0x20, 1, 0x4, 1, 0x4, false, [⟨31, 16, .ro, false, false⟩, ⟨15, 8, .ro, false, false⟩, ⟨7, 0, .ro, false, false⟩]⟩,
  ⟨.HUB_WRITE_DENIED, 0x24, 1, 0x4, 1, 0x4, false, [⟨31, 16, .rc, false, false⟩, ⟨15, 7, .rsv, false, false⟩, ⟨6, 0, .ro, false, false⟩]⟩,
  ⟨.RIM_UNMAPPED, 0x30, 1, 0x4, 1, 0x4, false, [⟨31, 24, .rc, false, false⟩, ⟨23, 2, .ro, false, false⟩, ⟨1, 0, .rsv, false, false⟩]⟩,
  ⟨.HUB_HEAD_MARGIN, 0x100, 24, 0x4, 1, 0x4, false, [⟨31, 16, .rc, false, false⟩, ⟨15, 0, .rc, false, false⟩]⟩,
  ⟨.HUB_SCHED_SEL, 0x200, 1, 0x4, 1, 0x4, false, [⟨31, 13, .rsv, false, false⟩, ⟨12, 8, .rw, false, false⟩, ⟨7, 0, .rw, false, false⟩]⟩,
  ⟨.HUB_SCHED_DATA, 0x204, 1, 0x4, 1, 0x4, false, [⟨31, 7, .rsv, false, false⟩, ⟨6, 0, .ro, false, true⟩]⟩]

/-- The register table of a unit block, without the common registers. -/
def unitRegs : UnitKind → List RSpec
  | .Groupset => regsGroupset
  | .EthPort => regsEthPort
  | .Odometer => regsOdometer
  | .VertikU => regsVertikU
  | .IngestU => regsIngestU
  | .DerailleurU => regsDerailleurU
  | .HeadU => headRegs
  | .Chain => regsChain
  | .TandemU => regsTandemU
  | .PelotonU => regsPelotonU
  | .BlitterU => regsBlitterU
  | .BellU => regsBellU
  | .Intc => regsIntc
  | .DmaU => regsDmaU
  | .Timers => regsTimers
  | .SaddlebagU => regsSaddlebagU
  | .FaultU => regsFaultU
  | .Security => regsSecurity
  | .DebugU => regsDebugU
  | .ClockU => regsClockU
  | .Kickstand => regsKickstand
  | .HubU => regsHubU

/-- Base of the first copy, unit code, number of copies and stride of a unit (R31). -/
structure UnitSpec where
  base : Nat
  code : Nat
  count : Nat
  stride : Nat
  deriving DecidableEq, Repr

/-- The table of R31. -/
def UnitKind.spec : UnitKind → UnitSpec
  | .Groupset => ⟨0x40000000, 0x1, 1, 0x0⟩
  | .EthPort => ⟨0x40010000, 0x2, 2, 0x8000⟩
  | .Odometer => ⟨0x40020000, 0x3, 1, 0x0⟩
  | .VertikU => ⟨0x40030000, 0x4, 1, 0x0⟩
  | .IngestU => ⟨0x40040000, 0x5, 1, 0x0⟩
  | .DerailleurU => ⟨0x40050000, 0x6, 1, 0x0⟩
  | .HeadU => ⟨0x40100000, 0x7, 24, 0x10000⟩
  | .Chain => ⟨0x40300000, 0x8, 1, 0x0⟩
  | .TandemU => ⟨0x40310000, 0x9, 1, 0x0⟩
  | .PelotonU => ⟨0x40320000, 0xa, 1, 0x0⟩
  | .BlitterU => ⟨0x40330000, 0xb, 1, 0x0⟩
  | .BellU => ⟨0x40340000, 0xc, 1, 0x0⟩
  | .Intc => ⟨0x40350000, 0xd, 1, 0x0⟩
  | .DmaU => ⟨0x40360000, 0xe, 8, 0x1000⟩
  | .Timers => ⟨0x40370000, 0xf, 1, 0x0⟩
  | .SaddlebagU => ⟨0x40380000, 0x10, 1, 0x0⟩
  | .FaultU => ⟨0x40390000, 0x11, 1, 0x0⟩
  | .Security => ⟨0x403a0000, 0x12, 1, 0x0⟩
  | .DebugU => ⟨0x403b0000, 0x13, 1, 0x0⟩
  | .ClockU => ⟨0x403c0000, 0x14, 1, 0x0⟩
  | .Kickstand => ⟨0x403d0000, 0x15, 1, 0x0⟩
  | .HubU => ⟨0x403e0000, 0x16, 1, 0x0⟩

/-- Every unit of R31. -/
def allUnits : List UnitKind := [.Groupset, .EthPort, .Odometer, .VertikU, .IngestU, .DerailleurU, .HeadU, .Chain, .TandemU, .PelotonU, .BlitterU, .BellU, .Intc, .DmaU, .Timers, .SaddlebagU, .FaultU, .Security, .DebugU, .ClockU, .Kickstand, .HubU]

end Sys2Proof.Machine
end

