-- ==== Sys2Proof/Machine/State.lean ====
section
/-! DEFINITION. The state of the ILY-9624 as plain data: the Rim register words (`regs`, see RegMap), and beside them, per
unit, what the spec gives the unit that no register word holds. -/

namespace Sys2Proof.Machine

/-- Why a run stops with a fault. Nothing in the model raises it: every command of the table has an effect. -/
inductive Fault where
  /-- Raised by no command; present so that the interface has a reason type with a name. Safe. -/
  | none
  deriving DecidableEq, Repr

/-- Why a command has no meaning. -/
inductive Refusal where
  /-- The command has no meaning yet. Raised by exec's arms only. Safe. -/
  | notModelled (mnemonic : String)
  deriving DecidableEq, Repr

/-- What leaves the chip or answers a read; the model's own log of outputs, newest first (log 5). -/
inductive Output where
  /-- A Rim read's answer to a master: address, value and whether it reports an error (R33). -/
  | rimRead (m : Master) (addr : Nat) (v : Word) (err : Bool)
  /-- Data of one Hub read: requestor, offset, bytes, and whether a word was uncorrectable (R45). -/
  | hubRead (req : Nat) (off : Nat) (bytes : List Byte) (bad : Bool)
  /-- A Vertik message to session `s`: kind, session sequence number and its bytes (R284). -/
  | vertik (s : Nat) (kind : Nat) (seq : Nat) (bytes : List Byte)
  /-- A frame or packet sent by Ethernet port `p`. -/
  | ethernet (p : Nat) (bytes : List Byte)
  /-- A message of a group protocol to a peer, or a frame of the ports: who speaks, its kind and its numbers. Frames of the ports
  (13, R267): the port, 0 or 1 more than the PRP sequence number, then the content: kind 1 supervision, 2 ARP and 3 echo or neighbour
  answer to the bytes given, 8 mirror; peer-delay kinds 4 to 6 carry the port, the source address and the time. -/
  | message (unit : Nat) (kind : Nat) (fields : List Nat)
  /-- A DisplayPort event of head `h`: kind and numbers. Kinds: 1 DPCD write (address, value), 2 VSC SDP (PSR active), 3 AUX
  transaction of a core (request code, address, bytes), 4 alternate scrambler seed reset in use, 5 MSA and VB-ID (synchronous-clock
  bit, bits per component, Mvid, Nvid, NoVideoStream), 6 audio timestamp and InfoFrame (Maud, Naud, channels, bits), 7 DPCD read
  (address, length), 8 PHY pattern on the lanes, 9 EDID block read, 10 training attempt (lanes, rate, patterns). -/
  | display (h : Nat) (kind : Nat) (fields : List Nat)
  /-- A sample frame leaving a TDM port or a head's audio. -/
  | audio (sink : Nat) (samples : List Int)
  /-- A TAP or debug answer: status and result. -/
  | debug (status : Nat) (value : Nat)
  deriving DecidableEq, Repr

/-- A region of scene memory (R43): base and size in bytes, and the write mask over requestor classes, bit 0 spoke cores,
1 pool cores, 2 DMA, 3 Derailleur, 4 ingest, 5 Blitter, 6 Bell, 7 Peloton, 8 Chain and Saddlebag, 9 Vertik. -/
structure Region where
  base : Nat
  size : Nat
  mask : Nat
  deriving DecidableEq, Repr

/-- A spare row or column (R48): for a row `index` is the group of 16 bank lines, for a column `index` is
sub-array × 72 + bit. -/
structure Spare where
  bank : Nat
  column : Bool
  index : Nat
  deriving DecidableEq, Repr

/-- Scene memory and the Hub (02). -/
structure HubS where
  /-- Scene memory: byte at each offset from 0x1000_0000 (R41). -/
  mem : SMap Byte := []
  /-- Error bits of each 64-bit word and its check: the bits in which the stored code word differs from the written one. -/
  flips : SMap (BitVec 72) := []
  /-- The region table in force (R43). -/
  regions : List Region := []
  /-- Requestor of entry `bank × 256 + round cycle` of the schedule in force (R49). -/
  sched : SMap Nat := []
  /-- Corrected words waiting for a maintenance slot, oldest first: word number and bit (R44, R50). -/
  writeBacks : List (Nat × Nat) := []
  /-- Words the scrub will read again after their write-back: word number and bit (R48). -/
  rereads : List (Nat × Nat) := []
  /-- Words marked as hard: word number and bit (R48). -/
  hard : List (Nat × Nat) := []
  /-- Spares being filled, and filled ones waiting to take over (R48). -/
  copying : List Spare := []
  filled : List Spare := []
  /-- Spares in use, factory and field (R48). -/
  spares : List Spare := []
  /-- Scrub reads made of each bank since reset (R47). -/
  scrubs : SMap Nat := []
  /-- Slots of the current line each head has used, at `head × 32 + bank` (R55). -/
  used : SMap Nat := []
  /-- Hub cycle that follows the last one granted, per bank (R14, R50). -/
  granted : SMap Nat := []
  deriving DecidableEq, Repr

/-- A head's way through a swap (R69, R70, R72). -/
structure HeadSwap where
  /-- Freewheel entry (or a blank frame) armed for the swap. -/
  armed : Bool := false
  /-- The head is in its swap frame, or held in Freewheel or blank frames after it (R72). -/
  inSwap : Bool := false
  /-- The swap frame is a blank frame (R70). -/
  blank : Bool := false
  /-- The swap frame shows no pixel of the head's layers or ring: it is a Freewheel or a blank frame (R69, R70, R72). -/
  hides : Bool := false
  /-- The head went over to the twin for its swap frame (R70). -/
  handed : Bool := false
  /-- The load path has written the whole section. -/
  loaded : Bool := false
  /-- Held until the Hub has swapped (R72). -/
  hubHold : Bool := false
  /-- Root count at which the load (and the Hub swap) completed. -/
  doneAt : Nat := 0
  /-- State in which the head returns: Run after a Freewheel swap frame, or what its new section or a request asks (R69). -/
  back : Nat := 0
  deriving DecidableEq, Repr

/-- One unit of an apply: section type and number (R56). -/
structure UnitName where
  type : Nat
  inst : Nat
  deriving DecidableEq, Repr

/-- The Groupset controller (03). -/
structure GsS where
  /-- Staging store, by word address, and its emptiness (R61). -/
  staging : SMap Word := []
  staged : Bool := false
  /-- Active store: the image in force in whole form, by word address. -/
  active : SMap Word := []
  /-- Body digest of the image in force. -/
  digest : List Byte := []
  /-- The staged image is partial (R58). -/
  partialImage : Bool := false
  /-- Root count at which the check passed (R67), and at which the last apply's last unit had loaded (R73). -/
  passedAt : Nat := 0
  lastDone : Nat := 0
  /-- An apply was requested before the check had run (R67). -/
  applyWanted : Bool := false
  /-- Units of the apply in progress: still to swap, already swapped (R68). -/
  toSwap : List UnitName := []
  swapped : List UnitName := []
  /-- The apply is being rolled back: the swapped units return to the active store (R74). -/
  rollback : Bool := false
  /-- The apply swaps every section (R73). -/
  whole : Bool := false
  /-- A whole-chip apply waits for the twin to take the heads and the control role (R73). -/
  handing : Bool := false
  /-- Units whose load is running: their Rim writes are discarded (R63). -/
  loading : List UnitName := []
  heads : SMap HeadSwap := []
  /-- Cores parked (R71), as a bit mask, and cores waiting for their park point. -/
  parked : Nat := 0
  parkDue : Nat := 0
  /-- Chip frame schedule in force: start and period in root cycles (R56). -/
  chipT0 : Nat := 0
  chipTf : Nat := 0
  /-- Chip frames started: the number of the current one. -/
  chipFrame : Nat := 0
  /-- Sections present in the image in force, one bit per section index (R59). -/
  present : Nat := 0
  /-- Tandem role Paired, Peloton role and head swap policy of the chip section (R56). -/
  paired : Bool := false
  pelotonRole : Nat := 0
  /-- Declared demand D(h,b) at head × 32 + bank (R54). -/
  demand : SMap Nat := []
  deriving DecidableEq, Repr

/-- A point record (R76). -/
structure PointRec where
  value : Nat := 0
  quality : Nat := 0
  source : Nat := 0
  type : Nat := 0
  stale : Bool := false
  test : Bool := false
  frozen : Bool := false
  unsync : Bool := false
  count : Nat := 0
  sourceTime : Nat := 0
  arrival : Nat := 0
  deriving DecidableEq, Repr

/-- An entry of the Derailleur queue (R82, R104): a point write with its copy and change class, or a re-evaluation, whose
copy is read at the head of the queue. `chain` holds the rules still to issue, once the trigger entry has been read. -/
structure DerEntry where
  point : Nat
  copy : Option PointRec := none
  reeval : Bool := false
  valueChange : Bool := false
  qualityChange : Bool := false
  chain : Option (List Nat) := none
  deriving DecidableEq, Repr

/-- What waits for a place in the full Derailleur queue and since when (R104). -/
structure DerWait where
  entry : DerEntry
  since : Nat
  deriving DecidableEq, Repr

/-- An action of an evaluated rule that has not landed yet (R100, R103). -/
structure DerAction where
  point : Nat
  rule : Nat
  action : Nat
  target : Nat
  lsb : Nat
  width : Nat
  out : Nat
  count : Nat
  arrival : Nat
  issued : Nat
  deriving DecidableEq, Repr

/-- How a record ends: its status, root count, head, line and pixel (R105–R107). -/
structure PhotonEnd where
  status : Nat
  time : Nat
  head : Nat := 0
  line : Nat := 0
  pixel : Nat := 0
  deriving DecidableEq, Repr

/-- A photon or effect record that waits to be decided (R105–R107): kind, its target (map offset, array address, cue or
line), the triggering write, and per head how many whole frames it has scanned since. -/
structure Photon where
  kind : Nat
  target : Nat
  point : Nat
  rule : Nat
  count : Nat
  arrival : Nat
  landed : Nat
  /-- For an array word, its content before and after the write (R144). -/
  old : Word := 0
  new : Word := 0
  scanned : SMap Nat := []
  /-- How the record is decided, once it is (R106, R107). -/
  ending : Option PhotonEnd := none
  deriving DecidableEq, Repr

/-- The fields a point write supplies; none keeps the field (R88, R89, R94, R95). -/
structure PtUpd where
  value : Option (Nat × Nat) := none
  quality : Option Nat := none
  source : Option Nat := none
  test : Option Bool := none
  stale : Option Bool := none
  unsync : Option Bool := none
  frozen : Option Bool := none
  sourceTime : Option Nat := none
  arrival : Option Nat := none
  /-- Quality validity becomes questionable with oldData set (R89). -/
  oldData : Bool := false
  /-- A source write: suppressed while the point is frozen (R95). -/
  fromSource : Bool := true
  /-- Refused when a live subscription owns the point (R94). -/
  ownCheck : Bool := false
  /-- A force or a release: a quality change whatever it changes (R95). -/
  forced : Bool := false
  deriving DecidableEq, Repr

/-- An input of ingest (R80): a frame with its port and arrival_time in ns, a Vertik point
command with the status it ends with when written, the supervision writes of one subscription (GOOSE g, or SV 4096 + s). -/
inductive IngestInput where
  | goose (port arrival : Nat) (g : Goose)
  | sv (port arrival : Nat) (a : SvAsdu)
  | vertik (c : VtkCmd) (status : Nat)
  | supervision (arrival sub : Nat) (writes : List (Nat × PtUpd))
  deriving DecidableEq, Repr

/-- A sample of an SV stream's current cycle (R91, R92): smpCnt, missing, time in ns, synchronised, values, qualities. -/
structure SvSample where
  count : Nat
  missing : Bool
  time : Nat
  sync : Bool
  values : List Int
  qualities : List Nat
  deriving DecidableEq, Repr

/-- Ingest beside its registers (04). -/
structure IngestS where
  /-- Inputs waiting, in the ingest order (R80, R81). -/
  queue : List IngestInput := []
  /-- Point writes of the input in hand still to make, the input's number for ING_LAST_DISCARD, and since when the first write
  is held by a full Derailleur queue (R82). -/
  writes : List (Nat × PtUpd) := []
  sub : Nat := 0x1FFF
  heldSince : Option Nat := none
  /-- Vertik command whose write is in hand, and the status it ends with when written. -/
  answer : Option (VtkCmd × Nat) := none
  /-- Samples of the current nominal cycle of each SV stream (R92). -/
  cycle : SMap (List SvSample) := []
  deriving DecidableEq, Repr

/-- The Derailleur beside its registers (04). -/
structure DerS where
  queue : List DerEntry := []
  /-- DER_REEVAL requests that wait for a place, oldest first (R104). -/
  holding : List DerWait := []
  /-- Next point of reeval_all and the moment it arose (R104). -/
  reevalNext : Option (Nat × Nat) := none
  /-- Actions evaluated and not landed, oldest first. -/
  actions : List DerAction := []
  photons : List Photon := []
  /-- Levels of the Derailleur sources of the field lines, as a bit mask (R100). -/
  lines : Nat := 0
  deriving DecidableEq, Repr

/-- What a head's fetch request brings (R52): a scroll-table word, map entries, pattern data of the cell that begins at pixel x,
sprite pattern, a Cadence index word or entries, sample number `q` of a trace build, or words of the mirror ring. -/
inductive FetchFor where
  | scroll (l : Nat)
  | map (l : Nat)
  | pattern (l x : Nat)
  | sprite (d : Nat)
  | index (c : Nat)
  | entry (c : Nat)
  | trace (tr q : Nat)
  | ring
  deriving DecidableEq, Repr

/-- A fetch request: one bank line at a scene offset. -/
structure FetchReq where
  what : FetchFor
  off : Nat
  deriving DecidableEq, Repr

/-- A request in a head's port, and the root count at which it was issued (R52). -/
structure Waiting where
  req : FetchReq
  since : Nat
  deriving DecidableEq, Repr

/-- A request that was served: root count of its slot, the bank line's bytes and a mask of its uncorrectable words. -/
structure Fetched where
  req : FetchReq
  slot : Nat
  bytes : List Byte
  bad : Nat
  deriving DecidableEq, Repr

/-- Pixels from `lo` up to `hi` of a line that a change of a descriptor word affects: the word, and when the change landed (R144). -/
structure SpriteBox where
  target : Nat
  landed : Nat
  lo : Int
  hi : Int
  deriving DecidableEq, Repr

/-- A line on its way from fetch to seal (R52, R150, R184, R208). -/
structure LineJob where
  head : Nat
  frame : Nat
  y : Nat
  /-- The line shows the mirror ring and not the head's own layers. -/
  remote : Bool := false
  /-- Live registers as sampled at the fetch start, and the compositor's as sampled at the first lookup, by address. -/
  regs : SMap Word := []
  cmp : SMap Word := []
  /-- Selected sprites in index order with their eight words (R140). -/
  sprites : List (Nat × List Nat) := []
  /-- Requests not yet served, served ones whose data is on its way, data delivered, requests dropped. -/
  waiting : List Waiting := []
  flying : List Fetched := []
  got : List Fetched := []
  dropped : List FetchReq := []
  /-- The line's moment has come: what still waits is dropped (R52); it was cut short. -/
  closed : Bool := false
  late : Bool := false
  /-- Next Cadence entry of each list and the pixel of the last good one (R174, R176). -/
  cadNext : SMap Nat := []
  cadPixel : SMap Nat := []
  /-- Pixels looked up and not sent: pixel and colour, none an underrun pixel (R150, R195). -/
  pipe : List (Nat × Option (Nat × Nat × Nat)) := []
  /-- Pixels sent, newest first, with the underrun pixels among them and the first mismatch. -/
  sent : List (Nat × Nat × Nat) := []
  underrun : List Nat := []
  mismatch : Option Nat := none
  /-- Boxes that changes of sprite descriptors affect on the line (R144). -/
  boxes : List SpriteBox := []
  deriving DecidableEq, Repr

/-- A Cadence write that is due (R176): its due root edge, whether it goes to the array window, offset, data and mask. -/
structure CadWrite where
  due : Nat
  array : Bool
  off : Nat
  data : Nat
  mask : Nat
  deriving DecidableEq, Repr

/-- A sample a trace build has read: missing, in an uncorrectable word, or its eight values. -/
inductive TraceSample where
  | missing
  | bad
  | values (vs : List Int)
  deriving DecidableEq, Repr

/-- A trace layer's column table in the making, or as drawn (R125–R127). -/
structure TraceBuild where
  /-- The frame that draws it. -/
  frame : Nat
  channels : Nat
  k : Nat
  lag : Nat
  width : Nat
  base : Nat
  log2 : Nat
  perSecond : Nat
  last : Nat
  /-- The stream entry is enabled and its ring is in range (R129). -/
  valid : Bool
  /-- Reads issued, newest sample of the right column first. -/
  issued : Nat := 0
  samples : SMap (Option TraceSample) := []
  deriving DecidableEq, Repr

/-- An AUX transaction of a core (R188). -/
structure AuxReq where
  cmd : Nat
  addr : Nat
  bytes : List Byte
  retries : Nat := 0
  /-- The transaction has gone out: the link sequencer left the channel free. -/
  sent : Bool := false
  deriving DecidableEq, Repr

/-- A head beside its registers (05–10). -/
structure HeadS where
  lines : List LineJob := []
  /-- Last pixel sent since the head left Off (R195). -/
  last : Nat × Nat × Nat := (0, 0, 0)
  /-- Descriptors already counted in this frame: bad ones and unrotated ones (R134). -/
  badSeen : List Nat := []
  rotSeen : List Nat := []
  builds : SMap (Option TraceBuild) := []
  tables : SMap (Option TraceBuild) := []
  /-- Gap columns of the table last drawn, by trace layer, until its frame has ended (R126). -/
  gaps : SMap (Option Nat) := []
  /-- Cadence registers in force since the fetch start of line 0 (R178). -/
  cadRegs : SMap Word := []
  /-- Cadence write queue, oldest first, and root edge of its last write (R176). -/
  cadQueue : List CadWrite := []
  cadLast : Option Nat := none
  /-- Commit held: root edge at which its request landed, and for one still on time its frame F (R169, R170). -/
  commit : Option (Nat × Option Nat) := none
  /-- State requested and not armed, with the root edge at which it landed; state armed for the next frame (R190). -/
  request : Option (Nat × Nat) := none
  armed : Option Nat := none
  /-- Automatic Freewheel is in force (R194); Freewheel follows the first whole frame (R487). -/
  autoFw : Bool := false
  thenFw : Bool := false
  /-- VSC SDP waiting for its place: PSR active or not (R193). -/
  psr : Option Bool := none
  /-- The head scans: its pixels leave the pins (R191). Armed for the next frame; training completed at this root count. -/
  scan : Bool := false
  scanNext : Bool := false
  trainedAt : Nat := 0
  /-- The frame has been scanned from its start. -/
  wholeFrame : Bool := false
  /-- Panel as read at the plug: eDP PSR version, training on exit and setup time in ns (R192), alternate scrambler seed reset
  (R182); PSR was enabled in it (R193). -/
  psrVersion : Nat := 0
  psrExitTrain : Bool := false
  psrSetup : Nat := 0
  assr : Bool := false
  psrOn : Bool := false
  /-- PHY pattern on the trained lanes (R204). -/
  phy : Nat := 0
  /-- Audio form of the frame: channel layout in bits 1 and 0, 24-bit samples in bit 2 (R197, R337, log 111). -/
  audio : Nat := 0
  /-- Training: attempts made at this configuration and its place in the fallback order (R187). -/
  attempts : Nat := 0
  config : Nat := 0
  aux : Option AuxReq := none
  /-- Frames since the last TE edge (R198). -/
  teFrames : Nat := 0
  /-- Test pattern and colour sampled at the frame start (R203). -/
  testPat : Nat := 0
  testCol : Nat := 0
  /-- Current frame: its number and what the record takes from it (R216). -/
  frame : Nat := 0
  started : Bool := false
  /-- Path of the head at the frame's start (R217). -/
  path : List Nat := []
  underrun : Nat := 0
  mismatch : Nat := 0
  digests : SMap (List Byte × Nat) := []
  seals : SMap (List Byte) := []
  freewheel : Bool := false
  remote : Bool := false
  blank : Bool := false
  owned : Bool := false
  takeover : Bool := false
  time : Nat := 0
  replayed : Bool := false
  parked : Bool := false
  /-- The next record starts the chain; prev_hash of the next record (R218). -/
  chainStart : Bool := true
  prevHash : List Byte := []
  /-- Mirror: consecutive frames without a packet, a packet seen in this frame, frames named by the last hold packets, first frame
  that shows the mirror again, own layers are drawn (R202). -/
  absent : Nat := 0
  packet : Bool := false
  holds : List Nat := []
  mirrorFrom : Nat := 0
  ownLayers : Bool := false
  deriving DecidableEq, Repr

/-- A record in the signing queue: head, frame, start, its first 192 bytes, and the root count of its assembly (R219). -/
structure QRecord where
  head : Nat
  frame : Nat
  start : Nat
  body : List Byte
  made : Nat := 0
  deriving DecidableEq, Repr

/-- A journal entry: its journal time (root count) and its input. -/
structure JEntry where
  time : Nat
  input : JInput
  deriving DecidableEq, Repr

/-- A takeover decided or armed (R239): head, cause of TANDEM_LAST_TAKE, and for an armed one the frame. -/
structure Takeover where
  head : Nat
  cause : Nat
  frame : Nat := 0
  /-- Root count from which both chips hold the decision. -/
  since : Nat := 0
  deriving DecidableEq, Repr

/-- The Tandem controller beside its registers (11). -/
structure TandemS where
  /-- Journal, oldest first. -/
  journal : List JEntry := []
  /-- Frames the Shadow's own ports received and holds: arrival (root count) and input (R233). -/
  held : List (Nat × JInput) := []
  /-- Takeover decisions held, and takeovers armed (R239). -/
  decided : List Takeover := []
  armed : List Takeover := []
  /-- TAKE nets this chip drives low (chip 0), level of each net (bit set: high), and the level expected (R238). -/
  drive : Nat := 0
  net : Nat := 0xFF_FFFF
  expected : Nat := 0xFF_FFFF
  /-- TWIN_HB_OUT toggles: this chip's heartbeat runs (R240). -/
  heartbeat : Bool := true
  /-- TWIN_HB_IN has not toggled for 4 µs (R360). -/
  hbLost : Bool := false
  /-- A rejoin is asked for: by TANDEM_CTRL.rejoin, by a start beside a running Primary, by a release or a wake (R26, R229, R242). -/
  rejoin : Bool := false
  /-- What is known of the twin: its background self-test runs or has failed, its heads with mismatch in this frame (R26, R239). -/
  twinBist : Bool := false
  twinMismatch : Nat := 0
  /-- The twin's body digest as sent in its rejoin request, and whether it authenticated (R243). -/
  authenticated : Bool := false
  /-- This chip is the joining side of a copy (R242). -/
  joining : Bool := false
  joinStart : Nat := 0
  copyDone : Bool := false
  /-- Root count of the last cutover: frames fetched after it are compared (R244). -/
  lockedAt : Nat := 0
  /-- The joiner's Odometer follows within ±1 ns (R243). -/
  follows : Bool := false
  /-- The cutover hold is in force (R244). -/
  hold : Bool := false
  /-- Heads compared equal since lockstep began; eligible when every present head is in it (R244). -/
  equalHeads : Nat := 0
  /-- A handover of the control role waits for the next chip latch edge (R241). -/
  handover : Bool := false
  /-- Divergence decided at a debug halt, taken at the next seal compare (R237). -/
  haltDiverge : Bool := false
  /-- Offset of the Shadow's Odometer from the Primary's, in tenths of a ns (R234). -/
  offset : Int := 0
  deriving DecidableEq, Repr
/-- A member as its leader sees it (R246–R258): index, chip number, chips under it, in the commit set, chip frames without a
beat answer, consecutive retargets it caused, whether it may lead, and bundles committed since it left the commit set. -/
structure PelMember where
  index : Nat
  number : Nat := 0
  chips : Nat := 1
  inSet : Bool := true
  missed : Nat := 0
  retargets : Nat := 0
  eligible : Bool := true
  behind : Nat := 0
  /-- Largest offset it reported, in ns (R252). -/
  offset : Int := 0
  deriving DecidableEq, Repr

/-- A group commit armed on a head (R254, R261): the head, its first frame that uses it, the bundle's Peloton frame, and the
wall descriptors to write with their source words. -/
structure PelArmed where
  head : Nat
  frame : Nat
  bundle : Nat
  words : List (Nat × List Nat)
  deriving DecidableEq, Repr

/-- The Peloton controller beside its registers (12). -/
structure PelS where
  /-- Path of the chip down to its member index, outermost level first; empty when in no Peloton (R217, R248). -/
  path : List Nat := []
  /-- A join stays requested (R247); ACTIVE from this chip frame; SOLO from this chip frame after a leave (R246). -/
  joinAsked : Bool := false
  joinFrame : Option Nat := none
  /-- Path and chip number that come into force with the join (R246, R248). -/
  joinPath : List Nat := []
  joinNumber : Nat := 0
  leaveFrame : Option Nat := none
  /-- A return was asked for; ACTIVE again from this chip frame (R258). -/
  returnAsked : Bool := false
  returnFrame : Option Nat := none
  /-- A leader that parks passes leadership at the next chip frame start (R250). -/
  handLead : Bool := false
  /-- Members known, this one included. -/
  members : List PelMember := []
  /-- Beats of the leader missed in a row (R250). -/
  missedBeats : Nat := 0
  /-- Leader: bundles still open, oldest first; the one that is closed and not decided, members READY for it, members whose
  acknowledgement of COMMIT arrived, the committed one whose start has not passed (R253, R257). -/
  opened : List PelBundle := []
  closed : Option PelBundle := none
  readySet : List Nat := []
  acked : List Nat := []
  waiting : Option PelBundle := none
  /-- Last bundle closed; the last 64 committed bundles, oldest first (R258). -/
  lastClosed : Nat := 0
  history : List PelBundle := []
  /-- Member: the bundle prepared, READY answered, the decision held (R253). -/
  prepared : Option PelBundle := none
  ready : Bool := false
  decided : Option PelBundle := none
  armed : List PelArmed := []
  /-- Samples of owned wall sprites for the next bundle, newest committed source words of each wall sprite, and the member
  index of its owner (R261, R262). -/
  samples : List (Nat × List Nat) := []
  words : SMap (List Nat) := []
  owners : SMap (Option Nat) := []
  deriving DecidableEq, Repr
/-- A source the PRP table knows (R268): its MAC, the root count of its last frame, sequence numbers accepted, newest first. -/
structure PrpEntry where
  mac : Nat
  last : Nat
  seqs : List Nat
  deriving DecidableEq, Repr

/-- The ports and the Odometer beside their registers (13). -/
structure EthS where
  prp : List PrpEntry := []
  /-- Next PRP sequence number, and root count of the last supervision frame (R267). -/
  prpSeq : Nat := 0
  supervised : Nat := 0
  /-- Answers given in the current second, by port: the second and their number (R266). -/
  answers : SMap (Nat × Nat) := []
  /-- Consecutive Sync messages with an offset of at most 50 ns (R277). -/
  good : Nat := 0
  /-- Base corrections of the last 1,000 s of lock, newest first: root cycles and ppb; the one in force, since when (R277). -/
  spans : List (Nat × Int) := []
  base : Option (Nat × Int) := none
  /-- UTC offset of the Groupset (R281). -/
  utc : Nat := 0
  deriving DecidableEq, Repr

/-- A Vertik session beside its register (R285–R296). -/
structure VSession where
  kHd : List Byte := []
  kDh : List Byte := []
  /-- Transcript X and the slot's public key; none in open provisioning (R433). -/
  transcript : List Byte := []
  slotKey : Option (List Byte) := none
  /-- Next host seq expected, next device seq. -/
  next : Nat := 0
  devSeq : Nat := 0
  /-- Final replies kept, newest first: seq and message body (R290). -/
  stored : List (Nat × List Byte) := []
  /-- Accepted commands without a final reply. -/
  outstanding : List Nat := []
  /-- Challenge of the last UNLOCK, its seq and the root count of its reply (R295). -/
  challenge : Option (List Byte) := none
  unlockSeq : Nat := 0
  unlockAt : Nat := 0
  /-- Port of the HELLO, whose body limit its replies keep (R284). -/
  port : Nat := 0
  /-- Root counts of the HELLO_REPLY, of the last accepted COMMAND, of the last NOTICE. -/
  helloAt : Nat := 0
  lastCommand : Nat := 0
  noticeAt : Option Nat := none
  /-- Session counters of NOP (R291). -/
  outOfOrder : Nat := 0
  badTag : Nat := 0
  brokenUnlock : Nat := 0
  deriving DecidableEq, Repr

/-- A lease (R303). -/
structure Lease where
  id : Nat
  session : Nat
  path : List Nat
  exclusive : Bool
  ends : Nat
  deriving DecidableEq, Repr

/-- A framed command that waits for its apply point (R298), with its acceptance (root count). -/
structure Framed where
  cmd : VtkCmd
  accepted : Nat
  /-- It has written its targets and waits for the commit it requested: the head and the head frame. -/
  waitsCommit : Option (Nat × Nat) := none
  /-- It took effect at a later frame than it named (R300). -/
  late : Bool := false
  /-- Priority of its session (R302). -/
  prio : Nat := 0
  /-- Kinds of apply point still to come: 0 chip, 1 window start, 2 latch edge; none before it has written anything (R298). -/
  stages : Option (List Nat) := none
  /-- Words ignored so far (R290). -/
  dropped : Nat := 0
  deriving DecidableEq, Repr

/-- The Vertik engine (14). -/
structure VtkS where
  sessions : SMap VSession := []
  /-- Accepted unframed commands that have not run. -/
  ready : List VtkCmd := []
  framed : List Framed := []
  leases : List Lease := []
  nextLease : Nat := 1
  /-- GS_CHECK and GS_APPLY commands that wait for the Groupset controller (R294). -/
  gsWait : List VtkCmd := []
  /-- Framed commands whose conflicts are settled: they stay in the pairings of later ones (R302, DEDUCED, log 41). -/
  applied : List VtkCmd := []
  deriving DecidableEq, Repr

/-- The Blitter's command at the engine (R306, R309, R316): its queue, descriptor index and sixteen words, whether it waits and
since when, and the status it will complete with once that is known. -/
structure BltCmd where
  queue : Nat
  index : Nat
  words : List Nat
  waiting : Bool := false
  since : Nat := 0
  result : Option Nat := none
  deriving DecidableEq, Repr

/-- A cue command that waits (R324, R325): cue, argument, sender, root count of its landing, and its effect record (R327). -/
structure CueCmd where
  cue : Nat
  arg : Nat
  rim : Bool
  landed : Nat
  record : Option Photon
  deriving DecidableEq, Repr

/-- IMA-ADPCM decoder (R321): codes decoded, predictor, step index, the sample before, and whether a code could not be read. -/
structure Adpcm where
  count : Nat := 0
  pred : Int := 0
  index : Nat := 0
  before : Int := 0
  lost : Bool := false
  deriving DecidableEq, Repr

/-- A voice (R321, R322, R326): phase 0 idle, 1 attack, 2 decay, 3 sustain, 4 release; its cue, level and the eight words of its
cue entry; ticks spent in the phase and since the start; the level from num / den at which the release began; phase
accumulators or position; its last output, and the ramp of a replaced cue. -/
structure Voice where
  phase : Nat := 0
  cue : Nat := 0
  level : Nat := 0
  words : List Nat := []
  count : Nat := 0
  age : Nat := 0
  num : Nat := 0
  den : Nat := 1
  pos : Nat := 0
  modPos : Nat := 0
  dec : Adpcm := {}
  /-- The start was taken at the tick in hand: the first sample comes at the next one (R325). -/
  fresh : Bool := false
  last : Int := 0
  ramp : Int := 0
  rampLeft : Nat := 0
  deriving DecidableEq, Repr

/-- A gain that changes (R332): the value it starts from, its target, mode (0 no change in progress), ticks since the tick of
use, landing, and whether a zero cut has been made. -/
structure Route where
  base : Nat := 0
  target : Nat := 0
  mode : Nat := 0
  age : Nat := 0
  landed : Nat := 0
  done : Bool := false
  deriving DecidableEq, Repr

/-- What a sink sends before a change (R332): a bus (0xFF mute), or an earlier crossfade held at its tick i. -/
inductive MixSrc where
  | bus (b : Nat)
  | mix (a : MixSrc) (b i : Nat)
  deriving DecidableEq, Repr

/-- A sink's selection (R332). -/
structure SinkRoute where
  old : MixSrc := .bus 0
  target : Nat := 0
  mode : Nat := 0
  age : Nat := 0
  landed : Nat := 0
  done : Bool := false
  deriving DecidableEq, Repr

/-- A limiter (R329): its gain and the samples it holds, oldest first. -/
structure Limiter where
  gain : Nat := 65536
  line : List Int := []
  deriving DecidableEq, Repr

/-- Bell beside its registers (16). -/
structure BellS where
  queue : List CueCmd := []
  voices : SMap Voice := []
  /-- Crosspoints by bus × 256 + input, bus gains, sinks. -/
  xp : SMap Route := []
  busGain : SMap Route := []
  sinks : SMap SinkRoute := []
  limiters : SMap Limiter := []
  /-- Limiter outputs and matrix inputs of the last tick. -/
  outs : SMap Int := []
  inputs : SMap Int := []
  /-- TDM input samples from the journal, and the samples of the next output frames (R330, R337). -/
  tdmIn : List Int := []
  tdmOut : SMap Int := []
  deriving DecidableEq, Repr

/-- What a core does: it runs, waits in WAIT or WAITUNTIL, or has stopped on a double trap (R345, R353, R358). -/
inductive CoreMode where
  | run
  | wait
  | waitUntil
  | dead
  deriving DecidableEq, Repr

/-- The coprocessor registers of a core, slot by slot (R358). -/
structure CopRegs where
  num : Word := 0
  den : Word := 0
  quo : Word := 0
  rem : Word := 0
  accLo : Word := 0
  accHi : Word := 0
  m1 : Word := 0
  m2 : Word := 0
  src : Word := 0
  dst : Word := 0
  rootLo : Word := 0
  rootHi : Word := 0
  beam : Word := 0
  frameLo : Word := 0
  frameHi : Word := 0
  untilLo : Word := 0
  untilHi : Word := 0
  deriving DecidableEq, Repr

/-- A register a load writes after its delay slot (R348). -/
inductive LoadDest where
  | a
  | x
  | y
  | ps
  | af
  | xf
  | yf
  | psf
  deriving DecidableEq, Repr

/-- A Crank core (17): the registers of R339 in both banks, the load that waits for its delay slot, the private block, the
local memories, the write queue of its Hub port and the coprocessor. The FB flag is `fb` (log 18). -/
structure CoreS where
  a : Word := 0
  x : Word := 0
  y : Word := 0
  sp : Word := 0x20000#32
  pc : Word := 0
  ps : Word := 0x30#32
  af : Word := 0
  xf : Word := 0
  yf : Word := 0
  psf : Word := 0
  fb : Bool := false
  load : Option (LoadDest × Word) := none
  mode : CoreMode := .run
  /-- The next instruction follows a debug resume: its own comparator match does not halt it again (R448). -/
  resumed : Bool := false
  vecNormal : Word := 0
  vecFast : Word := 0
  vecTrap : Word := 0
  fret : Word := 0
  cause : Nat := 0
  detail : Nat := 0
  trapAddr : Word := 0
  /-- Slots present (R356). -/
  slots : Nat := 0
  cop : CopRegs := {}
  /-- Local code and data memory by offset (R27). -/
  code : SMap Byte := []
  data : SMap Byte := []
  /-- Write queue, oldest first: scene offset and bytes (R42). -/
  queue : List (Nat × List Byte) := []
  /-- Bytes of its local memory the core wrote last, and one more than the number of that core cycle (R28). -/
  wrote : List Nat := []
  wroteAt : Nat := 0
  deriving DecidableEq, Repr

/-- The interrupt controller beside its registers (18). -/
structure IntcS where
  /-- Core on which a source is active (R364, R370). -/
  activeOn : SMap (Option Nat) := []
  /-- Active doorbells of each core, as a bit mask. -/
  privActive : SMap Nat := []
  /-- Forerunner stack of each core, top first: source and its priority (R366). -/
  stack : SMap (List (Nat × Nat)) := []
  /-- Line events on their way: source and the root count at which its edge arrives (R179). -/
  inFlight : List (Nat × Nat) := []
  deriving DecidableEq, Repr

/-- A timer channel (R372–R375): its count at the root count `since`, the landing of its last compare write, and the tick edge
of its last match. -/
structure Timer where
  value : Nat := 0
  since : Nat := 0
  landed : Nat := 0
  matched : Option Nat := none
  deriving DecidableEq, Repr

/-- The field lines and timers beside their registers (19). -/
structure FieldS where
  timers : SMap Timer := []
  /-- Timer source level of each line, one bit each: 0 after each apply of the set (R380). -/
  toggle : Nat := 0
  /-- The field-line set was applied since reset: until then the pads keep the latched drive (R386). -/
  applied : Bool := false
  /-- The set was applied since the Kickstand came up: until then every keeper is off (R386). -/
  keeper : Bool := false
  /-- Directions in effect, bit set: output (R382). -/
  dirNow : Nat := 0
  /-- Sample edge at which a change of direction ends, 0 for none: until then the pad is at high impedance (R382). -/
  changing : SMap Nat := []
  /-- Inputs that come into use and have not been sampled yet (R382). -/
  fresh : Nat := 0xFFFF_FFFF_FFFF_FFFF
  /-- Drivers at high impedance after a current limit of 1 ms (R388). -/
  shorted : Nat := 0
  /-- Sample edge of the last levels the filters took. -/
  edge : Nat := 0
  /-- Pad latch of each line: none is high impedance (R386). -/
  pad : SMap (Option Bool) := []
  /-- Ball level of each line (R380), by bit. -/
  balls : Nat := 0
  /-- Filter of each input line: the level being counted and at how many consecutive edges it was seen (R383). -/
  filter : SMap (Bool × Nat) := []
  /-- Capture queues, oldest first: time in ns and rising (R384). -/
  caps : SMap (List (Nat × Bool)) := []
  deriving DecidableEq, Repr

/-- A DMA engine beside its registers (20). -/
structure DmaS where
  /-- Start requests held, one bit per channel (R392). -/
  starts : Nat := 0
  /-- Address of the descriptor to run, and its eight words once it has been read whole (R390). -/
  next : Nat := 0
  desc : Option (List Nat) := none
  deriving DecidableEq, Repr

/-- An archive entry (R401). -/
structure SbEntry where
  kind : Nat
  chip : Nat
  head : Nat
  seq : Nat
  time : Nat
  payload : List Byte
  deriving DecidableEq, Repr

/-- A segment of the archive ring (R400, R401): its segment sequence number, its entries oldest first, whether it is closed. -/
structure Segment where
  number : Nat := 0
  entries : List SbEntry := []
  closed : Bool := false
  deriving DecidableEq, Repr

/-- What is known of a drive beside SB_DRIVE (R398, R399). -/
structure Drive where
  /-- Usable LBAs, 4,096 bytes each. -/
  lbas : Nat := 0
  /-- It carries a superblock of this chip's device identity, or was adopted. -/
  own : Bool := false
  timeouts : Nat := 0
  deriving DecidableEq, Repr

/-- The Saddlebag beside its registers (21). -/
structure SaddleS where
  /-- Entries handed over and not yet staged: kind, head, time, payload (R402). -/
  handed : List (Nat × Nat × Nat × List Byte) := []
  /-- Entries in the staging ring, and those of the drive write in progress (R402). -/
  staging : List SbEntry := []
  writing : List SbEntry := []
  /-- First lost seq, number of lost entries since the last GAP, and time of the first loss in ns (R402). -/
  lost : Option (Nat × Nat × Nat) := none
  /-- Next entry seq. -/
  nextSeq : Nat := 0
  /-- Segments by index, the open one, the next segment number, the superblock's sequence number. -/
  segments : SMap Segment := []
  current : Option Nat := none
  nextNumber : Nat := 0
  /-- Segment the superblock names as the next to write. -/
  nextIndex : Nat := 0
  superblocks : Nat := 0
  drives : SMap Drive := []
  /-- Frozen spans in ns by span index (R406). -/
  spans : SMap (Option (Nat × Nat)) := []
  /-- A flush waits for the segment to close (R403). -/
  flush : Bool := false
  adopt : Bool := false
  /-- Keyframes: number of the next one, chip frames since the last, copy complete and hold due (R405). -/
  keyNumber : Nat := 0
  keyFrames : Nat := 0
  keyCopied : Bool := false
  /-- The keyframe hold is in force. -/
  keyHold : Bool := false
  /-- Read in progress: LBA, blocks, destination (R407). -/
  reading : Option (Nat × Nat × Nat) := none
  deriving DecidableEq, Repr

/-- A fault waiting for or running its action (R414, R416). -/
structure FaultAct where
  source : Nat
  cls : Nat
  /-- The action's steps have been taken already (a pre-empted fault, R416). -/
  started : Bool
  deriving DecidableEq, Repr

/-- A forced fault line (R421): its source, pattern and last root cycle. -/
structure Injection where
  source : Nat
  broken : Bool
  until_ : Nat
  deriving DecidableEq, Repr

/-- A core's watchdog (R419, R420): root count of its last reload, whether it is expired (during a halt). -/
structure WDog where
  reload : Nat := 0
  expired : Bool := false
  deriving DecidableEq, Repr

/-- The fault collector (22). -/
structure FaultS where
  running : Option FaultAct := none
  queue : List FaultAct := []
  /-- Quiet period of class c: its end, or none (R415). -/
  quiet : SMap (Option Nat) := []
  /-- Sources whose rails are in Fault or Broken now belong to FAULT_SRC.state; forced lines are here. -/
  injections : List Injection := []
  wdog : SMap WDog := []
  /-- Source of the Stop in force (R415, FAULT_STOP_LOG). -/
  stopSource : Nat := 0
  deriving DecidableEq, Repr

/-- A calibration item: id, unit number and value (R439). -/
structure CalItem where
  id : Nat
  inst : Nat
  value : Nat
  deriving DecidableEq, Repr

/-- One copy of the user calibration record (R439). -/
structure CalRecord where
  seq : Nat := 0
  items : List CalItem := []
  valid : Bool := false
  deriving DecidableEq, Repr

/-- What an OTP or flash write in progress will do when it completes (R425, R439), and the session that waits. -/
inductive OtpJob where
  | settings (gen : Nat) (bytes : List Byte)
  | lock
  | rollback (target : Nat)
  | calibration (record : CalRecord)
  deriving DecidableEq, Repr

/-- OTP, keys, boot and calibration (23). -/
structure SecS where
  /-- The 1,024 bytes of each settings generation (R424). -/
  gens : SMap (List Byte) := []
  /-- Begin and retired bits, generations once found valid, the lock bit and the rollback count (R422, R426). -/
  begun : Nat := 0
  retired : Nat := 0
  wasValid : Nat := 0
  lock : Bool := false
  rollback : Nat := 0
  /-- Factory calibration block and identity seed (R422). -/
  factory : SMap Byte := []
  seed : List Byte := List.replicate 32 0
  /-- Generation in force, and a programmed generation that waits for the chip frame start (R436). -/
  inForce : Option Nat := none
  newGeneration : Bool := false
  /-- The write in progress and the command that asked for it; the settings command that ends when its generation comes into
  force. -/
  job : Option (OtpJob × VtkCmd) := none
  genReply : Option VtkCmd := none
  /-- Both flash copies of the user calibration; changes that wait for their atomic point (R439). -/
  calA : CalRecord := {}
  calB : CalRecord := {}
  calPending : Bool := false
  calInForce : List CalItem := []
  /-- Boot: sources still to try (0 slot A, 1 slot B, 2 network, 3 recovery), the one being tried, start time (R431). -/
  bootLeft : List Nat := []
  booting : Option Nat := none
  bootStart : Nat := 0
  /-- The Boot ROM has started since the reset; its network boot has no limit; start of the network boot; an image of the source
  has been delivered, and the prov_key of its wrapper (R431, R433). -/
  booted : Bool := false
  bootForever : Bool := false
  netStart : Nat := 0
  delivered : Bool := false
  srcKey : Option (List Byte) := none
  /-- prov_key of the first readable wrapper (R433). -/
  wrapper : Option (List Byte) := none
  /-- The last Peloton peer authenticated (R429). -/
  peerOk : Bool := false
  /-- prov_key of a boot wrapper, and open provisioning (R427, R433). -/
  provKey : Option (List Byte) := none
  openProv : Bool := false
  /-- Factory calibration values by id × 256 + unit number (R438). -/
  factoryCal : SMap Nat := []
  deriving DecidableEq, Repr

/-- A comparator of a core (R449). -/
structure Comparator where
  control : Nat := 0
  value : Nat := 0
  mask : Nat := 0
  data : Nat := 0
  deriving DecidableEq, Repr

/-- A halt request on its way to a core: reason, comparator and groups to trigger when it is taken (R448, R451). -/
structure HaltReq where
  reason : Nat
  comparator : Nat := 0
  groups : Nat := 0
  deriving DecidableEq, Repr

/-- Debug port and run control (24). -/
structure DebugS where
  /-- TAP instruction in effect (R442); a TAP reset selects IDCODE (log 38). -/
  ir : Nat := 0x02
  /-- Root count of the last DBG_ACCESS operation (R444). -/
  lastOp : Nat := 0
  /-- Status and result the next Capture-DR loads (R445). -/
  status : Nat := 0
  result : Nat := 0
  /-- Comparators at core × 8 + number. -/
  comps : SMap Comparator := []
  /-- Halt requests that wait for a boundary, per core. -/
  haltReq : SMap (Option HaltReq) := []
  /-- Triggers on their way: the root count at which they arrive, and the groups (R451). -/
  triggers : List (Nat × Nat) := []
  deriving DecidableEq, Repr

/-- Clocks, power and start-up (25). -/
structure ClockS where
  /-- Internal reset is held (R460, R461). -/
  resetHeld : Bool := true
  /-- Profile of this start; recovery not yet released (R461, 01 R26). -/
  recovery : Bool := false
  /-- A Full proof start has not completed its proof, or failed it (R26). -/
  proofHold : Bool := false
  /-- STARTUP1:STARTUP0 balls and rails in range. -/
  balls : Nat := 0
  railsGood : Bool := true
  /-- Power request that waits for the chip frame start, and one held during a Park sequence (R454, R457). -/
  powerReq : Option Nat := none
  powerAt : Nat := 0
  heldPower : Option Nat := none
  /-- Head states requested while parked, at the head's number (R26). -/
  heldHeads : SMap (Option Nat) := []
  /-- A wake source asserted before step 5 (R457). -/
  wakePending : Bool := false
  /-- Stop reaction in force: cores held, DMA, Blitter, ingest and Derailleur stopped, field lines high impedance (R414). -/
  stopped : Bool := false
  /-- Heads whose pipeline failed the proof (R464). -/
  failedHeads : Nat := 0
  bistStart : Nat := 0
  /-- Hours of Run or Dim counted in the Kickstand (R476). -/
  hours : Nat := 0
  /-- A Park sequence was abandoned: its cores go on at the next chip frame start (R457). -/
  abandoned : Bool := false
  /-- A wake waits for the relock of the PLL (R456). -/
  waking : Bool := false
  deriving DecidableEq, Repr

/-- The writes to one word of a head array that land at one root edge: the word before them, the Cadence write (mask, data), the
Rim's word, the Derailleur's write (R15). -/
structure EdgeWrites where
  base : Word
  cad : Word × Word := (0, 0)
  rim : Option Word := none
  der : Word × Word := (0, 0)
  deriving DecidableEq, Repr

/-- The words as they stood before the present root count, and by address the writes that land at it on head arrays, and those of
Cadence lists (mask, data) on live copies (R15, R122, R138, R150, R168, R177). -/
structure Moment where
  regs : SMap Word := []
  live : SMap Word := []
  arrays : SMap Word := []
  /-- Levels of the Derailleur sources and of the timer sources of the field lines (R103, R381). -/
  lines : Nat := 0
  toggle : Nat := 0
  /-- Heads on which a wake event lands at it, one bit each (R194). -/
  woke : Nat := 0
  edges : SMap (Option EdgeWrites) := []
  cad : SMap (Word × Word) := []
  deriving DecidableEq, Repr

/-- The Rim writes of the present Rim cycle that reached a register: its number, the writes in the order applied, and per
register, by its first address, what it showed before them (R39, R40). -/
structure RimCycle where
  number : Nat := 0
  writes : List RimWrite := []
  shown : List (Nat × Nat) := []
  deriving DecidableEq, Repr

/-- The whole machine. Register words live in `regs` under their Rim address; head-array words in `arrays` under theirs. -/
structure State where
  /-- Commands that wait, first in, first out. -/
  pending : List Instr := []
  /-- The Odometer's root-cycle count at this moment (R49, log 3). -/
  now : Nat := 0
  /-- Rim register words by address. -/
  regs : SMap Word := []
  /-- Live copies of the registers that have one, by address (R121, R138, R151, R178). -/
  live : SMap Word := []
  /-- Staged _LO words of 64-bit registers by address (R36). -/
  staged : SMap (Option Word) := []
  /-- Head-array words by address (R29). -/
  arrays : SMap Word := []
  /-- What stood before the present moment and lands at it. -/
  was : Moment := {}
  /-- The Rim writes of the present Rim cycle. -/
  cycle : RimCycle := {}
  /-- Values latched by Forerunner _LO reads: register address × 64 + master (R378). -/
  holding : SMap (Option Word) := []
  /-- Free values drawn so far: the model's own field, the index of the next one (log 7, log 8). -/
  freeCtr : Nat := 0
  /-- Outputs, newest first: the model's own log (log 5). -/
  out : List Output := []
  /-- Link of each core: address of the linked word in the core's map (R354). -/
  links : SMap (Option Nat) := []
  /-- The cores by number: spoke 0–23, pool 24–31. -/
  cores : SMap CoreS := []
  /-- Heads on which a wake event landed since their last latch edge and before the present moment, one bit each (R194). -/
  woke : Nat := 0
  heads : SMap HeadS := []
  /-- Signing queue, oldest first (R219). -/
  records : List QRecord := []
  field : FieldS := {}
  dma : SMap DmaS := []
  /-- Command at the front of the Blitter's engine (15). -/
  blt : Option BltCmd := none
  bell : BellS := {}
  pel : PelS := {}
  eth : EthS := {}
  hub : HubS := {}
  fault : FaultS := {}
  gs : GsS := {}
  tandem : TandemS := {}
  intc : IntcS := {}
  sec : SecS := {}
  dbg : DebugS := {}
  clock : ClockS := {}
  ing : IngestS := {}
  der : DerS := {}
  vtk : VtkS := {}
  sb : SaddleS := {}
  deriving DecidableEq, Repr

/-- The machine right after a device reset with cause power (R460): every register at its reset value (an unlisted register
reads its reset value, see `resetWord`), every memory empty, no commands waiting. Values the spec leaves open: log 4. -/
def State.reset : State := {}

end Sys2Proof.Machine
end

