-- ==== Sys2Proof/Machine/Ops.lean ====
section
/-! DEFINITION. The named operations every family uses: sparse arrays, register words and fields, the time and the beam
schedule, raising a fault (22), ignored writes (R35), and scene memory with its check code and regions (02). -/

namespace Sys2Proof.Machine

/-- The answer of a command's meaning. -/
abbrev Result := Host.Outcome State Fault Refusal

/-- Entry k of a sparse array; `d` gives the entry of an unlisted index. -/
def mget {α : Type} (d : Nat → α) : SMap α → Nat → α
  | [], k => d k
  | (i, a) :: m, k => if k = i then a else if k < i then d k else mget d m k

/-- Leave out the first entries of index k or below. -/
def mdrop {α : Type} (k : Nat) : SMap α → SMap α
  | [] => []
  | (i, a) :: m => if i ≤ k then mdrop k m else (i, a) :: m

/-- Put an entry, keeping the indexes rising and no entry equal to its default. -/
def mset {α : Type} [DecidableEq α] (d : Nat → α) : SMap α → Nat → α → SMap α
  | [], k, v => if v = d k then [] else [(k, v)]
  | (i, a) :: m, k, v =>
    if k < i then (if v = d k then (i, a) :: m else (k, v) :: (i, a) :: m)
    else if k = i then (if v = d k then mdrop k m else (k, v) :: m)
    else (i, a) :: mset d m k v

/-- The canonical form of a sparse array: indexes above `lo` strictly rising, no entry equal to its default. -/
def SMap.wfFrom {α : Type} [DecidableEq α] (d : Nat → α) : Nat → SMap α → Bool
  | _, [] => true
  | lo, (i, a) :: m => decide (lo ≤ i) && !decide (a = d i) && SMap.wfFrom d (i + 1) m

/-- Scene memory's canonical form (an unlisted byte reads 0, log 6). -/
def Memory.wf (m : SMap Byte) : Bool := SMap.wfFrom (fun _ => 0#8) 0 m

/-! ## Fault source table (R411, R412, R465, R474, 23) -/

/-- Floor class of a fault source; none for a source that is never raised. -/
def faultFloor (i : Nat) : Option Nat :=
  if i < 64 then some 1
  else if i < 88 then some 2
  else if i < 112 then some 1
  else if i < 136 then some 0
  else if i < 200 then some 1
  else if i < 223 then some (if i ∈ [204, 214, 215, 216, 218, 219, 220, 221, 222] then 0 else 1)
  else if i < 256 then none
  else if i < 320 then some 0
  else if i < 322 then some 3
  else if i < 324 then some 1
  else if i < 352 then none
  else if i < 360 then some 1
  else if i = 360 then some 3
  else if i = 361 then some 1
  else if i = 362 then some 0
  else if i = 363 then some 1
  else if i < 384 then none
  else if i = 384 ∨ i = 387 then some 0
  else if i = 385 ∨ i = 386 then some 1
  else none

/-- The head a fault source belongs to (R411). -/
def faultHead (i : Nat) : Option Nat :=
  if 64 ≤ i ∧ i < 136 then some ((i - 64) % 24) else none

/-! ## Registers -/

/-- The reset word of a register: 0 but for the registers whose table gives another value, and fixed fields (R10). -/
def resetWord (a : Nat) : Word :=
  if a = R.HUB_CTRL then 0x100#32
  else if R.HUB_HEAD_MARGIN 0 ≤ a ∧ a < R.HUB_HEAD_MARGIN 24 then 0x7FFF0000#32
  else if R.INTC_FAST_ID 0 ≤ a ∧ a < R.INTC_FAST_ID 32 ∧ (a - R.INTC_FAST_ID 0) % 0x40 = 0 then 0x3FF#32
  else if R.INTC_SRC 64 ≤ a ∧ a < R.INTC_SRC 160 ∧ (a - R.INTC_SRC 64) / 4 % 4 < 2 then 0x08000000#32
  else if R.BELL_BUS 0 ≤ a ∧ a < R.BELL_BUS 128 ∧ (a - R.BELL_BUS 0) % 8 = 0 then 0xFFFF#32
  else if a = R.ODO_STATUS then 0x80000000#32
  else if R.FAULT_SRC 0 ≤ a ∧ a < R.FAULT_SRC 448 then
    BitVec.ofNat 32 ((faultFloor ((a - R.FAULT_SRC 0) / 4)).getD 0 * 2 ^ 28)
  else 0#32

/-- A register word as stored. -/
def State.reg (s : State) (a : Nat) : Word := mget resetWord s.regs a

/-- Store a register word. -/
def State.setReg (s : State) (a : Nat) (w : Word) : State := { s with regs := mset resetWord s.regs a w }

/-- A register field. -/
def State.rd (s : State) (f : Fld) : Nat := getBits (s.reg f.reg) f.hi f.lo

/-- Store a register field. -/
def State.wr (s : State) (f : Fld) (v : Nat) : State := s.setReg f.reg (setBits (s.reg f.reg) f.hi f.lo v)

/-- A one-bit field as a truth value. -/
def State.on (s : State) (f : Fld) : Bool := s.rd f == 1

/-- Set a one-bit field. -/
def State.set1 (s : State) (f : Fld) : State := s.wr f 1

/-- Largest value of a field. -/
def Fld.max (f : Fld) : Nat := 2 ^ (f.hi + 1 - f.lo) - 1

/-- Add to a saturating count. -/
def State.satInc (s : State) (f : Fld) (n : Nat := 1) : State := s.wr f (min (s.rd f + n) f.max)

/-- Add to a wrapping count. -/
def State.wrapInc (s : State) (f : Fld) (n : Nat := 1) : State := s.wr f ((s.rd f + n) % (f.max + 1))

/-- Raise a peak field to at least v. -/
def State.peak (s : State) (f : Fld) (v : Nat) : State := if s.rd f < v then s.wr f v else s

/-- A 64-bit register by its _LO address. -/
def State.rd64 (s : State) (a : Nat) : Nat := (s.reg a).toNat + 2 ^ 32 * (s.reg (a + 4)).toNat

/-- Store a 64-bit register. -/
def State.wr64 (s : State) (a : Nat) (v : Nat) : State :=
  (s.setReg a (BitVec.ofNat 32 v)).setReg (a + 4) (BitVec.ofNat 32 (v / 2 ^ 32))

/-- Live copy of a register; where none is held it equals the programmed copy at reset. -/
def State.liveReg (s : State) (a : Nat) : Word := mget resetWord s.live a

/-- Field of a live copy. -/
def State.lv (s : State) (f : Fld) : Nat := getBits (s.liveReg f.reg) f.hi f.lo

/-- Store a live copy. -/
def State.setLive (s : State) (a : Nat) (w : Word) : State := { s with live := mset resetWord s.live a w }

/-- A head-array word (an entry nothing has written reads 0, log 6). -/
def State.arr (s : State) (a : Nat) : Word := mget (fun _ => 0#32) s.arrays a

/-- Store a head-array word. -/
def State.setArr (s : State) (a : Nat) (w : Word) : State := { s with arrays := mset (fun _ => 0#32) s.arrays a w }

/-- Append to the output log. -/
def State.emit (s : State) (o : Output) : State := { s with out := o :: s.out }

/-- A frame other than PTP leaves by port p; in PRP mode by both ports, with one sequence number in its trailer, and so with 1 more
than that number after the port (R265, R267). -/
def State.sendFrame (s : State) (kind p : Nat) (fields : List Nat) : State :=
  if s.on (F.ETH_MODE.prp 0) then
    let q := s.eth.prpSeq
    let s := { s with eth.prpSeq := (q + 1) % 65536 }
    (s.emit (.message 13 kind (0 :: (q + 1) :: fields))).emit (.message 13 kind (1 :: (q + 1) :: fields))
  else s.emit (.message 13 kind (p :: 0 :: fields))

/-- Draw a free-value index. -/
def State.draw (s : State) : Nat × State := (s.freeCtr, { s with freeCtr := s.freeCtr + 1 })

/-! ## Time (R8, R20, R21, R273) -/

/-- Root cycles of an audio tick (R320), and of a field-line sample period (R380). -/
def tickPeriodBell : Nat := 123750
def samplePeriod : Nat := 594

/-- The moment of a step: the count never runs back (log 3). A later moment keeps the words as they stand before it. -/
def State.at (s : State) (t : Nat) : State :=
  if s.now < t then
    { s with now := t, woke := s.woke ||| s.was.woke,
             was := { regs := s.regs, live := s.live, arrays := s.arrays, lines := s.der.lines, toggle := s.field.toggle } }
  else s

/-- The state with every word as held strictly before the present root count: what an edge that falls on it samples (R103, R122,
R138, R150, R168, R381). -/
def State.before (s : State) : State :=
  { s with regs := s.was.regs, live := s.was.live, arrays := s.was.arrays, der.lines := s.was.lines, field.toggle := s.was.toggle }

/-- The frame schedule runs: it has been released (R274), and the root clock runs, which Park stops until the PLL has relocked (R455,
R456). -/
def State.schedRuns (s : State) : Bool := s.on F.ODO_STATUS.released && (s.rd F.CPR_STATUS.power != 2 || s.on F.CPR_STATUS.pll_locked)

/-- The latch edge of the chip schedule: a chip frame start, and any moment with no schedule in force (log 33, log 60). -/
def State.chipLatch (s : State) : Bool :=
  s.gs.chipTf == 0 || (s.on F.ODO_STATUS.released && decide (s.gs.chipT0 ≤ s.now) && (s.now - s.gs.chipT0) % s.gs.chipTf == 0)

/-- Odometer time in ns of a root count: ⌊c × 10^9 / 5.94 × 10^9⌋ (R273). -/
def nsOf (c : Nat) : Nat := 50 * c / 297

/-- Root cycles of a whole number of microseconds. -/
def usRoot (us : Nat) : Nat := 5940 * us

/-- Journal delay J = 2.0 µs in root cycles (R230). -/
def journalDelay : Nat := 11880

/-- Beam geometry of a head from its registers (R166). -/
structure Beam where
  n : Nat
  htotal : Nat
  hactive : Nat
  vtotal : Nat
  vactive : Nat
  t0 : Nat
  tf : Nat
  deriving DecidableEq, Repr

/-- The geometry in force of head h. -/
def State.beam (s : State) (h : Nat) : Beam :=
  { n := s.rd (F.BEAM_N.n_div h), htotal := s.rd (F.BEAM_H.htotal h), hactive := s.rd (F.BEAM_H.hactive h),
    vtotal := s.rd (F.BEAM_V.vtotal h), vactive := s.rd (F.BEAM_V.vactive h),
    t0 := s.rd64 (R.BEAM_T0 h), tf := s.rd64 (R.BEAM_TF h) }

/-- Root count at which L y : P x of frame n leaves the pins (R20). -/
def Beam.time (b : Beam) (n y x : Nat) : Nat := b.t0 + n * b.tf + (y * b.htotal + x) * b.n

/-- Frame, line and pixel at a root count at or after T0; none before it or with no geometry (R166). -/
def Beam.pos (b : Beam) (c : Nat) : Option (Nat × Nat × Nat) :=
  if c < b.t0 ∨ b.tf = 0 ∨ b.n = 0 ∨ b.htotal = 0 then none
  else
    let n := (c - b.t0) / b.tf
    let p := (c - b.t0) % b.tf / b.n
    some (n, p / b.htotal, p % b.htotal)

/-- Frame, line and pixel of head h at a root count; none before its T0 or while the schedule is held (R166, R274). -/
def State.posOf (s : State) (h c : Nat) : Option (Nat × Nat × Nat) := if s.on F.ODO_STATUS.released then (s.beam h).pos c else none

/-! ## Time state (R277) -/

/-- Set the time state (R277). -/
def State.timeState (s : State) (v : Nat) : State :=
  if s.rd F.ODO_STATUS.time_state = v then s else (s.wr F.ODO_STATUS.time_state v).set1 F.ODO_STATUS.state_change

/-- The newest `left` root cycles of a history of corrections. -/
def trimSpans : Nat → List (Nat × Int) → List (Nat × Int)
  | _, [] => []
  | left, (d, b) :: r => if left = 0 then [] else (min d left, b) :: trimSpans (left - d) r

/-- The base correction in force joins the last 1,000 s of lock (R277). -/
def State.noteLock (s : State) : State :=
  match s.eth.base with
  | none => s
  | some (c, b) => { s with eth.spans := trimSpans 5_940_000_000_000 ((s.now - c, b) :: s.eth.spans), eth.base := none }

/-- Mean of a history of corrections, over time; none without one. -/
def meanBase (q : List (Nat × Int)) : Option Int :=
  let d := (q.map (·.1)).sum
  if d = 0 then none else some ((q.map fun x => (x.1 : Int) * x.2).sum / d)

/-- Lock is lost: the PLL keeps the mean correction of the last 1,000 s of lock (R277, log 120). -/
def State.holdover (s : State) : State :=
  if s.rd F.ODO_STATUS.time_state = 0 then
    let s := s.noteLock.timeState 1
    match meanBase s.eth.spans with
    | none => s
    | some m => s.wr F.ODO_FREQ.ppb (wrap 32 m)
  else s

/-! ## Faults (R409–R417) -/

/-- The Tandem controller is LOCKED (R242). -/
def State.locked (s : State) : Bool := s.rd F.TANDEM_STATUS.state == 3

/-- The chip is the Primary, or the Shadow (R229). -/
def State.isPrimary (s : State) : Bool := s.rd F.TANDEM_STATUS.role == 1
def State.isShadow (s : State) : Bool := s.rd F.TANDEM_STATUS.role == 2

/-- The class a raised source applies: at or above its floor, and at least Degrade when Broken (R410, R413). -/
def State.faultClass (s : State) (i : Nat) (broken : Bool) : Nat :=
  let c := max (s.rd (F.FAULT_SRC.cls i)) ((faultFloor i).getD 0)
  if broken then max c 1 else c

/-- Put an input into the journal: it reaches its unit J later, on both chips (R230, R231). -/
def State.journalIn (s : State) (i : JInput) : State :=
  { s with tandem.journal := s.tandem.journal ++ [⟨journalDelay + s.now, i⟩] }

/-- Level of TWIN_HB_OUT: it toggles every 1 µs (R240). -/
def State.hbOut (s : State) : Bool := s.tandem.heartbeat && s.now / usRoot 1 % 2 == 1

/-- Index of this chip within the Tandem (R227). -/
def State.twinIndex (s : State) : Nat := s.rd F.TANDEM_STATUS.index

/-- The TAKE net of head h names this chip: low chip 0, high chip 1 (R238). -/
def State.netOwns (s : State) (h : Nat) : Bool := bit s.tandem.net h == (s.twinIndex == 1)

/-- A decision to take head h over, which both chips hold from root count `since` on (R239, R241); a head in Off is not taken
over. -/
def State.holdTakeover (s : State) (h cause since : Nat) : State :=
  if s.rd (F.TX_STATUS.state h) = 0 then s
  else { s with tandem.decided := s.tandem.decided ++ [{ head := h, cause := cause, since := since }] }

/-- Heads that a Takeover fault of source `i` moves: its own head, else all (R411, R414). -/
def faultHeads (i : Nat) : List Nat :=
  match faultHead i with
  | some h => [h]
  | none => List.range 24

/-- A Takeover fault of the chip `chip` decides the takeover of the heads that chip owns (R239, R414). -/
def State.faultTakeovers (s : State) (source chip : Nat) : State :=
  ((faultHeads source).filter fun h => s.netOwns h == (chip == s.twinIndex)).foldl (fun s h => s.holdTakeover h 1 s.now) s

/-- Set up to 24 heads named by a bit mask. -/
def headsOf (m : Nat) : List Nat := setBitsOf 24 m

/-! ## Archive hand-over and frozen spans (R401, R402, R406) -/

/-- Hand an entry to the Saddlebag: kind, head (0xFF when not per head), time in ns, payload (R402). -/
def State.archive (s : State) (kind head time : Nat) (payload : List Byte) : State :=
  { s with sb.handed := s.sb.handed ++ [(kind, head, time, payload)] }

/-- Sequence numbers of the keyframe a span needs: from the last KEY_BEGIN before its start to its KEY_END (R406). -/
def keySeqs (es : List SbEntry) (start : Nat) : Option (Nat × Option Nat) :=
  match (es.filter fun e => e.kind == 7 && decide (e.time < start)).getLast? with
  | none => none
  | some b => some (b.seq, (es.find? fun e => e.kind == 8 && decide (b.seq < e.seq)).map (·.seq))

/-- A span freezes a segment: an entry's time lies in it, or the segment holds part of its keyframe (R406). -/
def Segment.frozenBy (g : Segment) (key : Option (Nat × Option Nat)) (span : Nat × Nat) : Bool :=
  g.entries.any fun e => decide (span.1 ≤ e.time ∧ e.time ≤ span.2) ||
    match key with
    | none => false
    | some (a, none) => decide (a ≤ e.seq)
    | some (a, some b) => decide (a ≤ e.seq ∧ e.seq ≤ b)

/-- All archived entries in seq order of their segments. -/
def State.archived (s : State) : List SbEntry := s.sb.segments.flatMap fun p => p.2.entries

/-- Frozen spans held, with their indexes. -/
def State.spanList (s : State) : List (Nat × Nat) := s.sb.spans.filterMap fun p => p.2

/-- Segment i is frozen by one of the spans. -/
def State.segFrozen (s : State) (spans : List (Nat × Nat)) (g : Segment) : Bool :=
  spans.any fun sp => g.frozenBy (keySeqs s.archived sp.1) sp

/-- Freeze a span: a FREEZE entry and a place in the span table, refused with 64 spans or past half the segments (R406). -/
def State.freezeSpan (s : State) (start stop segCount : Nat) : State :=
  let spans := s.spanList ++ [(start, stop)]
  let frozen := (s.sb.segments.filter fun p => s.segFrozen spans p.2).length
  match (List.range 64).find? fun i => (mget (fun _ => none) s.sb.spans i).isNone with
  | none => s.set1 F.SB_STATUS.freeze_refused
  | some i =>
    if segCount < 2 * frozen then s.set1 F.SB_STATUS.freeze_refused
    else
      let s := { s with sb.spans := mset (fun _ => none) s.sb.spans i (some (start, stop)) }
      let s := s.wr F.SB_STATUS.spans (s.rd F.SB_STATUS.spans + 1)
      s.archive 11 0xFF (nsOf s.now) (natLe 8 start ++ natLe 8 stop ++ natLe 8 i)

/-- Usable LBAs of the archive: those of the smaller drive in use, or of the one present (R399). -/
def State.archiveLbas (s : State) : Nat :=
  let d := fun i => mget (fun _ => ({} : Drive)) s.sb.drives i
  let use := fun i => s.rd (F.SB_DRIVE.state i) == 1 || s.rd (F.SB_DRIVE.state i) == 2
  match use 0, use 1 with
  | true, true => min (d 0).lbas (d 1).lbas
  | true, false => (d 0).lbas
  | false, true => (d 1).lbas
  | false, false => 0

/-- Segments of the ring: 65,536 LBAs each after LBAs 0 and 1 (R400). -/
def State.segCount (s : State) : Nat := (s.archiveLbas - 2) / 65536

/-- Span frozen by a fault of class Takeover or above, when SB_CTRL.auto_freeze is set: 300 s before to 60 s after (R406). -/
def State.autoFreeze (s : State) : State :=
  if s.on F.SB_CTRL.auto_freeze then
    let ns := nsOf s.now
    s.freezeSpan (ns - 300_000_000_000) (60_000_000_000 + ns) s.segCount
  else s

/-- A JOURNAL entry of an input (R401): its source code and body, at its time in ns. -/
def State.archiveInput (s : State) (source time : Nat) (body : List Byte) : State :=
  s.archive 4 0xFF time (natLe 1 source ++ List.replicate 7 0#8 ++ body)

/-- The chip is parked, or its Park sequence has stopped the units (R455). -/
def State.parkHeld (s : State) : Bool := s.rd F.CPR_STATUS.power == 2 || decide (4 ≤ s.rd F.CPR_STATUS.park_step)

/-- DMA engines, Blitter, ingest and Derailleur start nothing further: Stop reaction (R414), a cutover hold (R244), a keyframe hold
(R405) or Park (R455). -/
def State.unitsHeld (s : State) : Bool := s.clock.stopped || s.tandem.hold || s.sb.keyHold || s.parkHeld

/-- Cores are held as in a park once at their boundaries (R244, R405, R414), or the chip is parked. -/
def State.coresHeld (s : State) : Bool := s.clock.stopped || s.tandem.hold || s.sb.keyHold || s.rd F.CPR_STATUS.power == 2

/-- Every watchdog reloads, as at a core's resume (R71, R420). -/
def State.reloadDogs (s : State) : State :=
  { s with fault.wdog := (List.range 32).foldl (fun (m : SMap WDog) (k : Nat) => mset (fun _ => {}) m k { reload := s.now }) s.fault.wdog }

/-- Cores named by a list of units, as a mask. -/
def coreMask (us : List UnitName) : Nat := us.foldl (fun m u => if u.type = 4 then setBit m u.inst true else m) 0

/-- Abandon an apply in progress (R74): the units swapped or loading go back to the active store at their next atomic point;
heads and cores the apply had not reached go on as they were. -/
def State.abandonApply (s : State) : State :=
  if s.rd F.GS_STATUS.state = 5 ∧ s.gs.rollback = false then
    let s := (s.wr F.GS_STATUS.last_result 3).wr F.GS_REJECT.reason 0
    let back := s.gs.swapped ++ s.gs.loading
    let heads := s.gs.heads.map fun p =>
      (p.1, { p.2 with armed := false, loaded := p.2.loaded || !back.contains ⟨3, p.1⟩, hubHold := back.contains ⟨2, 0⟩ })
    { s with gs.toSwap := back, gs.swapped := [], gs.loading := [], gs.rollback := true, gs.heads := heads,
             gs.parked := s.gs.parked &&& coreMask back, gs.parkDue := coreMask back &&& (2 ^ 32 - 1 - s.gs.parked) }
  else s

/-- Chip 0 releases its TAKE pads: every net rises (R238). -/
def State.releaseNets (s : State) : State :=
  if s.twinIndex = 0 ∧ s.rd F.TANDEM_STATUS.state ≠ 0 then
    { s with tandem.drive := 0, tandem.net := 0xFF_FFFF, tandem.expected := 0xFF_FFFF }
  else { s with tandem.drive := 0 }

/-- The Stop steps (R414): cores, DMA engines, Blitter, ingest and Derailleur stop, TAKE pads release, heartbeat stops; the
Park sequence is abandoned (R457) and an apply rolls back (R74). -/
def State.stopSteps (s : State) : State :=
  let s := s.abandonApply.releaseNets
  let s := s.wr F.CPR_STATUS.park_step 0
  { s with clock.stopped := true, tandem.heartbeat := false, field.pad := [] }

/-- The steps of a class's action, with those of every lower class (R414). In lockstep a takeover is decided at the journal time of the
fault, on both chips (R239, R417; DEDUCED, log 109). -/
def State.classSteps (s : State) (source cls : Nat) : State :=
  let s := if 1 ≤ cls then s.set1 F.FAULT_STATUS.degraded else s
  let s :=
    if 2 ≤ cls then
      let s := if s.rd F.TANDEM_STATUS.state = 0 ∨ s.locked = true then s else s.faultTakeovers source s.twinIndex
      s.autoFreeze
    else s
  if 3 ≤ cls then s.stopSteps else s

/-- Start a fault's action; a pre-empted one repeats no step (R416). -/
def State.startAction (s : State) (a : FaultAct) : State :=
  let s := s.wr F.FAULT_STATUS.classes (setBit (s.rd F.FAULT_STATUS.classes) a.cls true)
  let s := if a.started then s else s.classSteps a.source a.cls
  let s := if a.cls = 3 then { s with fault.stopSource := a.source } else s
  { s with fault.running := some { a with started := true } }

/-- Set the queue and its depth. -/
def State.setFaultQueue (s : State) (q : List FaultAct) : State :=
  { s with fault.queue := q }.wr F.FAULT_STATUS.depth q.length

/-- Replace the last queued fault by one of a class above every queued class, or count the overflow (R416). -/
def State.queueFault (s : State) (a : FaultAct) : State :=
  let q := s.fault.queue
  if q.length < 16 then (s.satInc F.FAULT_QUEUE.queued).setFaultQueue (q ++ [a])
  else if q.all (·.cls < a.cls) then (s.satInc F.FAULT_QUEUE.overflow).setFaultQueue (q.dropLast ++ [a])
  else s.satInc F.FAULT_QUEUE.overflow

/-- End of a quiet period of class c that starts now (R415). -/
def State.quietEnd (s : State) (c : Nat) : Nat := usRoot (1000 * s.rd (F.FAULT_QUIET.ms c)) + s.now

/-- Quiet period of class c in progress. -/
def State.quietOf (s : State) (c : Nat) : Option Nat := mget (fun _ => none) s.fault.quiet c
def State.setQuiet (s : State) (c : Nat) (e : Option Nat) : State :=
  { s with fault.quiet := mset (fun _ => none) s.fault.quiet c e }

/-- A fault of class k restarts the quiet periods in progress of classes up to k (R415). -/
def State.restartQuiet (s : State) (k : Nat) : State :=
  (List.range 4).foldl (fun s c => if c ≤ k ∧ (s.quietOf c).isSome = true then s.setQuiet c (some (s.quietEnd c)) else s) s

/-- A pre-empted fault goes to the head of the queue; one that it displaces from a full queue counts as overflow (R416). -/
def State.preempt (s : State) (old : FaultAct) (a : FaultAct) : State :=
  let s := if s.fault.queue.length < 16 then s else s.satInc F.FAULT_QUEUE.overflow
  (s.setFaultQueue ((old :: s.fault.queue).take 16)).startAction a

/-- Run or queue the action of a raised fault (R414, R416). -/
def State.actOn (s : State) (a : FaultAct) : State :=
  let s := s.restartQuiet a.cls
  match s.fault.running with
  | none => s.startAction a
  | some r => if r.cls < a.cls then s.preempt r a else s.queueFault a

/-- Latch a raised fault as the last one (R414). -/
def State.latchFault (s : State) (chip source cls : Nat) (broken : Bool) : State :=
  let s := ((s.wr F.FAULT_LAST.cls cls).wr F.FAULT_LAST.broken (b2n broken)).wr F.FAULT_LAST.chip chip
  (s.wr F.FAULT_LAST.source source).wr64 R.FAULT_LAST_TIME (nsOf s.now)

/-- A raised fault becomes the last one: at once, or through the journal in a LOCKED Tandem (R417). -/
def State.reportFault (s : State) (source cls : Nat) (broken : Bool) : State :=
  let chip := s.rd F.TANDEM_STATUS.index
  if s.locked then
    if s.isPrimary then
      s.journalIn (.fault chip source cls broken)
    else s.emit (.message 9 1 [chip, source, cls, b2n broken])
  else s.latchFault chip source cls broken

/-- A source's lines go to Fault or Broken: from No fault it is raised, latched, counted and acted on (R409, R410, R414). -/
def State.raiseAs (s : State) (source : Nat) (broken : Bool) : State :=
  match faultFloor source with
  | none => s
  | some _ =>
    if s.rd (F.FAULT_SRC.state source) ≠ 0 then s
    else
      let cls := s.faultClass source broken
      let s := s.wr (F.FAULT_SRC.state source) (if broken then 2 else 1)
      let s := (s.set1 (F.FAULT_SRC.latched source)).satInc (F.FAULT_SRC.count source)
      let s := s.reportFault source cls broken
      s.actOn { source := source, cls := cls, started := false }

/-- A unit raises a fault. -/
def State.raise (s : State) (source : Nat) : State := s.raiseAs source false

/-- A source's lines return to the alternating code (R409). -/
def State.clearFault (s : State) (source : Nat) : State := s.wr (F.FAULT_SRC.state source) 0

/-! ## Ignored writes (R33–R37) -/

/-- Count an ignored write to the unit block at `base`: reasons 0 encoding, 1 width, 2 unmapped, 3 host_only; encoding and
unmapped raise the register notice of the block (R35, R411). -/
def State.ignoreWrite (s : State) (base off reason : Nat) : State :=
  let s := (s.satInc (F.U_IGNORED_WRITES.count base)).wr (F.U_IGNORED_WRITES.last_reason base) reason
  let s := s.wr (F.U_IGNORED_WRITES.last_offset base) (off / 4)
  if reason = 0 ∨ reason = 2 then s.raise (256 + bits base 21 16) else s

/-- A DMA engine, or a network port, exists: an image in force may name it absent (R59). -/
def State.enginePresent (s : State) (i : Nat) : Bool := s.gs.present == 0 || bit s.gs.present (61 + i)
def State.portPresent (s : State) (p : Nat) : Bool := s.gs.present == 0 || bit s.gs.present (71 + p)

/-! ## Scene memory (R41–R45) -/

/-- Size of scene memory in bytes (R27). -/
def sceneSize : Nat := 0x1000_0000

/-- Bank of an offset (R41). -/
def bankOf (off : Nat) : Nat := bits off 10 6

/-- One byte of scene memory, without its check. -/
def State.memByte (s : State) (off : Nat) : Byte := mget (fun _ => 0#8) s.hub.mem off

/-- Store one byte of scene memory, without its check. -/
def State.setMemByte (s : State) (off : Nat) (b : Byte) : State :=
  { s with hub.mem := mset (fun _ => 0#8) s.hub.mem off b }

/-- Bytes of scene memory as they stand. -/
def State.memBytes (s : State) : Nat → Nat → List Byte
  | _, 0 => []
  | off, n + 1 => s.memByte off :: s.memBytes (off + 1) n

/-- Store bytes of scene memory as they stand. -/
def State.setMemBytes (s : State) : Nat → List Byte → State
  | _, [] => s
  | off, b :: bs => (s.setMemByte off b).setMemBytes (off + 1) bs

/-- Error bits of the 64-bit word number wi. -/
def State.flips (s : State) (wi : Nat) : BitVec 72 := mget (fun _ => 0#72) s.hub.flips wi

/-- Set the error bits of a word. -/
def State.setFlips (s : State) (wi : Nat) (f : BitVec 72) : State :=
  { s with hub.flips := mset (fun _ => 0#72) s.hub.flips wi f }

/-- Latch the word and requestor of an error (R44, R45). -/
def State.latchEcc (s : State) (wi req : Nat) (uncorrectable : Bool) : State :=
  let s := s.wr F.HUB_ECC_LAST_ADDR.word wi
  (s.wr F.HUB_ECC_LAST_SRC.uncorrectable (b2n uncorrectable)).wr F.HUB_ECC_LAST_SRC.requestor req

/-- An uncorrectable word is found: counted, latched, Degrade fault of its bank (R45). -/
def State.eccUncorr (s : State) (wi req : Nat) : State :=
  ((s.satInc F.HUB_ECC_UNCORR.count).latchEcc wi req true).raise (136 + bankOf (8 * wi))

/-- A single error is found: counted and latched (R44). -/
def State.eccCorr (s : State) (wi req : Nat) : State := (s.satInc F.HUB_ECC_CORR.count).latchEcc wi req false

/-- How a word reads (R44). -/
inductive EccKind where
  | clean | single | uncorrectable | wrong
  deriving DecidableEq, Repr

/-- What the code makes of a word's error bits; three or more are open, and one pattern reads alike every time (R44, log 7). -/
def State.eccKind (s : State) (wi : Nat) : EccKind :=
  let f := (s.flips wi).toNat
  let n := popCount 72 f
  if n = 0 then .clean
  else if n = 1 then .single
  else if n = 2 then .uncorrectable
  else if Config.eccOutcome f = 0#2 then .uncorrectable
  else if Config.eccOutcome f = 1#2 then .wrong
  else .clean

/-- The bytes of a word as its cells hold them, errors included. -/
def State.rawWord (s : State) (wi : Nat) : List Byte :=
  natLe 8 (leNat (s.memBytes (8 * wi) 8) ^^^ (s.flips wi).toNat % 2 ^ 64)

/-- Bit that the code turns over in a word it corrects: the one in error, or another (R44, log 7). -/
def State.eccBit (s : State) (wi : Nat) : Nat :=
  let f := (s.flips wi).toNat
  if popCount 72 f = 1 then (firstBit 72 f).getD 0 else Config.eccBit f % 72

/-- The bytes of a word as the code delivers them: one bit turned over in a corrected one (R44). -/
def State.fixedWord (s : State) (wi : Nat) : List Byte :=
  match s.eccKind wi with
  | .single | .uncorrectable => s.memBytes (8 * wi) 8
  | .wrong => natLe 8 (leNat (s.rawWord wi) ^^^ 2 ^ s.eccBit wi % 2 ^ 64)
  | .clean => s.rawWord wi

/-- Ask for a write-back of a corrected word (R44). -/
def State.askWriteBack (s : State) (wi b : Nat) : State :=
  if s.hub.writeBacks.contains (wi, b) then s else { s with hub.writeBacks := s.hub.writeBacks ++ [(wi, b)] }

/-- The result of a checked read. -/
structure MemRead where
  bytes : List Byte
  /-- Numbers of the uncorrectable 64-bit words met. -/
  bad : List Nat
  deriving DecidableEq, Repr

/-- Read one 64-bit word through the check for a requestor (R44, R45). -/
def State.readWord64 (s : State) (req wi : Nat) : MemRead × State :=
  match s.eccKind wi with
  | .clean => (⟨s.fixedWord wi, []⟩, s)
  | .uncorrectable => (⟨s.fixedWord wi, [wi]⟩, s.eccUncorr wi req)
  | .single | .wrong => (⟨s.fixedWord wi, []⟩, (s.eccCorr wi req).askWriteBack wi (s.eccBit wi))

/-- Read `n` words from word number wi. -/
def State.readWords64 (s : State) (req wi : Nat) : Nat → MemRead × State
  | 0 => (⟨[], []⟩, s)
  | n + 1 =>
    let (r, s) := s.readWord64 req wi
    let (q, s) := s.readWords64 req (wi + 1) n
    (⟨r.bytes ++ q.bytes, r.bad ++ q.bad⟩, s)

/-- A checked read of `len` bytes at `off` by a requestor. -/
def State.memRead (s : State) (req off len : Nat) : MemRead × State :=
  let w0 := off / 8
  let n := if len = 0 then 0 else (off + len - 1) / 8 + 1 - w0
  let (r, s) := s.readWords64 req w0 n
  (⟨slice r.bytes (off % 8) len, r.bad⟩, s)

/-- Bit of a requestor's class in a region's write mask (R43, R49): none for head ports. -/
def reqClass (req : Nat) : Option Nat :=
  if req < 24 then none
  else if req < 48 then some 0
  else if req < 56 then some 1
  else if req < 64 then some 2
  else if req < 66 then some 3
  else if req = 66 then some 4
  else if req = 67 then some 5
  else if req = 68 then some 6
  else if req = 69 then some 7
  else if req = 70 then some 8
  else if req = 71 then some 9
  else none

/-- Region r holds the offset. -/
def Region.holds (r : Region) (off : Nat) : Bool := decide (r.base ≤ off ∧ off < r.base + r.size)

/-- The region rule for one access (R43). -/
def State.admits (s : State) (req off : Nat) : Bool :=
  match reqClass req with
  | none => false
  | some c =>
    match s.hub.regions.find? (·.holds off) with
    | none => false
    | some r => bit r.mask c

/-- A dropped write is counted and raises the register notice of the Hub block (R43). -/
def State.denyWrite (s : State) (req : Nat) : State :=
  ((s.satInc F.HUB_WRITE_DENIED.count).wr F.HUB_WRITE_DENIED.requestor req).raise (256 + 0x3E)

/-- Drop a pending write-back of a word that is written whole or merged (R44). -/
def State.dropWriteBack (s : State) (wi : Nat) : State :=
  { s with hub.writeBacks := s.hub.writeBacks.filter (·.1 != wi) }

/-- A read-modify-write of word number wi inside its bank (R44): `f` turns the word's checked bytes into the new ones; a
single error is corrected first, an uncorrectable word drops the write. -/
def State.mergeWord64 (s : State) (req wi : Nat) (f : List Byte → List Byte) : State :=
  match s.eccKind wi with
  | .clean => (s.setMemBytes (8 * wi) (f (s.fixedWord wi))).setFlips wi 0
  | .uncorrectable => s.eccUncorr wi req
  | .single | .wrong => (((s.eccCorr wi req).setMemBytes (8 * wi) (f (s.fixedWord wi))).setFlips wi 0).dropWriteBack wi

/-- Write bytes inside one 64-bit word at `off` (R44): a whole word takes a fresh check, a part of it is merged. -/
def State.writeWord64 (s : State) (req off : Nat) (bs : List Byte) : State :=
  if bs.length = 8 then ((s.setMemBytes off bs).setFlips (off / 8) 0).dropWriteBack (off / 8)
  else s.mergeWord64 req (off / 8) fun old => putBytes old (off % 8) bs

/-- Write bytes of one access, word by word; `n` bounds the number of words. -/
def State.writeWords64 (s : State) (req off : Nat) (bs : List Byte) : Nat → State
  | 0 => s
  | n + 1 =>
    if bs.isEmpty then s
    else
      let k := min bs.length (8 - off % 8)
      (s.writeWord64 req off (bs.take k)).writeWords64 req (off + k) (bs.drop k) n

/-- Offset of the subscription tables (R85). -/
def State.subsBase (s : State) : Nat := 0x1_0000 * s.rd F.ING_PLACE.subs_base

/-- The byte is written only by ingest: bytes 88–127 of a GOOSE entry, 64–127 of an SV entry (R85, R90). -/
def State.ingestOwned (s : State) (off : Nat) : Bool :=
  let b := s.subsBase
  if b ≤ off ∧ off < 0x8_0000 + b then decide (88 ≤ (off - b) % 128)
  else if 0x8_0000 + b ≤ off ∧ off < 0x8_2000 + b then decide (64 ≤ (off - b) % 128)
  else false

/-- Every link to a word that overlaps byte addresses [lo, hi) of the core map breaks (R355). -/
def State.breakLinks (s : State) (lo hi : Nat) : State :=
  { s with links := s.links.filter fun p => match p.2 with
      | some a => !decide (lo < a + 4 ∧ a < hi)
      | none => true }

/-- The bytes of an access that its writer may change, in runs: (offset, bytes), ingest-owned ones left out (R85). -/
def State.freeRuns (s : State) : Nat → List Byte → List (Nat × List Byte)
  | _, [] => []
  | off, b :: bs =>
    let rest := s.freeRuns (off + 1) bs
    if s.ingestOwned off then rest
    else match rest with
      | (o, r) :: more => if o = off + 1 then (off, b :: r) :: more else (off, [b]) :: (o, r) :: more
      | [] => [(off, [b])]

/-- A wake event of head h (R194). -/
def State.wake (s : State) (h : Nat) : State := { s with was.woke := setBit s.was.woke h true }

/-- A write landed in the region that holds `off`: a wake event of the heads that watch it (R194). -/
def State.wakeRegion (s : State) (off : Nat) : State :=
  match s.hub.regions.findIdx? (·.holds off) with
  | none => s
  | some r => (List.range 24).foldl (fun s h => if bit (s.rd64 (R.TX_FW_WATCH h)) r then s.wake h else s) s

/-- One write access of a requestor inside a bank line (R43, R85): dropped and counted when its region does not admit the
writer; ingest-owned bytes are masked out and counted. -/
def State.writeLine (s : State) (req off : Nat) (bs : List Byte) : State :=
  if !s.admits req off then s.denyWrite req
  else
    let masked := req != 66 && (List.range bs.length).any fun i => s.ingestOwned (off + i)
    let runs := if masked then s.freeRuns off bs else [(off, bs)]
    let s := if masked then s.denyWrite req else s
    runs.foldl (fun s r =>
      (s.writeWords64 req r.1 r.2 9).breakLinks (0x1000_0000 + r.1) (0x1000_0000 + r.1 + r.2.length)) (s.wakeRegion off)

/-- Split a write at bank lines; `n` bounds the number of accesses. -/
def State.writeLines (s : State) (req off : Nat) (bs : List Byte) : Nat → State
  | 0 => s
  | n + 1 =>
    if bs.isEmpty then s
    else
      let k := min bs.length (64 - off % 64)
      (s.writeLine req off (bs.take k)).writeLines req (off + k) (bs.drop k) n

/-- A write of bytes to scene memory, access by access (R43). -/
def State.memWrite (s : State) (req off : Nat) (bs : List Byte) : State :=
  s.writeLines req off bs (bs.length / 64 + 2)

/-- A masked write of one aligned 32-bit word in one slot: bits of `mask` take those of `v` (R101); a word that only ingest
writes is masked out whole (R85). -/
def State.memMasked32 (s : State) (req off mask v : Nat) : State :=
  if !s.admits req off || (req != 66 && s.ingestOwned off) then s.denyWrite req
  else
    let f := fun old : List Byte =>
      let w := leAt old (off % 8) 4
      putBytes old (off % 8) (natLe 4 ((w &&& (2 ^ 32 - 1 - mask)) ||| (v &&& mask)))
    ((s.wakeRegion off).mergeWord64 req (off / 8) f).breakLinks (0x1000_0000 + off) (0x1000_0000 + off + 4)

end Sys2Proof.Machine
end

