-- ==== Sys2Proof/Machine/BellOps.lean ====
section
/-! DEFINITION. Bell's route changes, cue command queue and unit swap (16: R324, R325, R332, R338). -/

namespace Sys2Proof.Machine

/-- Base of Bell's block. -/
def bellBase : Nat := 0x4034_0000

/-! ## Gains (R332) -/

/-- The value applied at tick of age `i`: a crossfade, the old value before a zero cut, or the new one. -/
def Route.value (r : Route) (cut : Bool) : Nat :=
  match r.mode with
  | 1 => ((r.base : Int) + asr (((r.target : Int) - r.base) * (min r.age 64 : Nat)) 6).toNat
  | 2 => if r.done || cut then r.target else r.base
  | _ => r.target

/-- A route change lands: it starts from the value applied at its tick of use. -/
def Route.change (r : Route) (v mode now : Nat) : Route :=
  let base := if r.mode ≠ 0 ∧ r.age = 0 then r.base else r.value false
  { base := base, target := v, mode := mode, landed := now }

/-- The route is used at a tick whose edge is `now`: its change landed strictly before (R320). -/
def Route.used (r : Route) (now : Nat) : Bool := r.mode != 0 && decide (r.landed < now)

/-- The value at this tick: `cut` says that the removed signal is 0 or has changed sign. -/
def Route.at (r : Route) (now : Nat) (cut : Bool) : Nat :=
  if r.mode = 0 then r.target
  else if r.used now then r.value (cut || decide (480 ≤ r.age))
  else r.base

/-- The route after this tick. -/
def Route.step (r : Route) (now : Nat) (cut : Bool) : Route :=
  if !r.used now then r
  else if r.mode = 3 then { base := r.target, target := r.target }
  else { r with age := r.age + 1, done := r.done || (r.mode == 2 && (cut || decide (480 ≤ r.age))) }

/-- The change is over: the 64th tick of a crossfade has been sent, or the cut is made. -/
def Route.over (r : Route) : Bool := (r.mode == 1 && decide (64 < r.age)) || (r.mode == 2 && r.done)

/-- The route at rest on its target. -/
def Route.rest (r : Route) : Route := { base := r.target, target := r.target }

/-- A sink's change lands. -/
def SinkRoute.change (r : SinkRoute) (v mode now : Nat) : SinkRoute :=
  let old :=
    if r.mode = 0 ∨ (r.mode = 2 ∧ r.done = true) ∨ (r.mode = 1 ∧ 64 < r.age) ∨ (r.mode = 3 ∧ 0 < r.age) then MixSrc.bus r.target
    else if r.mode = 1 ∧ 0 < r.age then .mix r.old r.target r.age
    else r.old
  { old := old, target := v, mode := mode, landed := now }

/-- The change is over. -/
def SinkRoute.over (r : SinkRoute) : Bool := (r.mode == 1 && decide (64 < r.age)) || (r.mode == 2 && r.done)

/-- Mode of a change: 0 takes the default (R332). -/
def State.routeMode (s : State) (mode : Nat) : Nat :=
  let m := if mode = 0 then s.rd F.BELL_CTRL.default_mode else mode
  if m = 0 then 3 else m

/-- Crosspoint of a bus and an input. -/
def xpKey (bus input : Nat) : Nat := 256 * bus + input

/-- A write of BELL_XP_DATA for the selected crosspoint (R332). -/
def State.xpWrite (s : State) (gain mode : Nat) : State :=
  let i := xpKey (s.rd F.BELL_XP_SEL.bus) (s.rd F.BELL_XP_SEL.input)
  let r := (mget (fun _ => {}) s.bell.xp i).change gain (s.routeMode mode) s.now
  { s with bell.xp := mset (fun _ => {}) s.bell.xp i r }

/-- BELL_XP_DATA_WRITE (R332). -/
def execBellXpDataWrite (t gain mode : Nat) (s : State) : Result := .next ((s.at t).xpWrite (gain % 65536) (mode % 4))

/-- A write of BELL_SINK (R332); 0x80–0xFE are reserved. -/
def State.sinkWrite (s : State) (k bus mode : Nat) : State :=
  if 0x80 ≤ bus ∧ bus ≠ 0xFF then s.ignoreWrite bellBase (R.BELL_SINK k - bellBase) 0
  else
    let r := (mget (fun _ => {}) s.bell.sinks k).change bus (s.routeMode mode) s.now
    { s with bell.sinks := mset (fun _ => {}) s.bell.sinks k r }.wr (F.BELL_SINK.bus k) bus

/-- BELL_SINK_WRITE (R332). -/
def execBellSinkWrite (t k bus mode : Nat) (s : State) : Result :=
  .next ((s.at t).sinkWrite (k % 256) (bus % 256) (mode % 4))

/-- A write of a bus gain always crossfades (R332). -/
def State.busGainWrite (s : State) (b gain : Nat) : State :=
  let r := (mget (fun _ => {}) s.bell.busGain b).change gain 1 s.now
  { s with bell.busGain := mset (fun _ => {}) s.bell.busGain b r }.wr (F.BELL_BUS_GAIN.gain b) gain

/-- BELL_BUS_GAIN_WRITE (R332). -/
def execBellBusGainWrite (t b gain : Nat) (s : State) : Result := .next ((s.at t).busGainWrite (b % 128) (gain % 65536))

/-- Settle the route of a kind: 0 crosspoint, 1 bus gain, 2 sink. -/
def State.settle (s : State) (kind i mode : Nat) : State :=
  match kind with
  | 0 =>
    let r := mget (fun _ => {}) s.bell.xp i
    if r.mode = mode ∧ r.over = true then { s with bell.xp := mset (fun _ => {}) s.bell.xp i r.rest } else s
  | 1 =>
    let r := mget (fun _ => {}) s.bell.busGain i
    if r.mode = mode ∧ r.over = true then { s with bell.busGain := mset (fun _ => {}) s.bell.busGain i r.rest } else s
  | _ =>
    let r := mget (fun _ => {}) s.bell.sinks i
    if r.mode = mode ∧ r.over = true then
      { s with bell.sinks := mset (fun _ => {}) s.bell.sinks i { old := .bus r.target, target := r.target } }
    else s

/-- CROSSFADE_END: of crosspoint (kind 0), bus gain (1) or sink (2) i (R332). -/
def execCrossfadeEnd (t kind i : Nat) (s : State) : Result := .next ((s.at t).settle kind i 1)

/-- ZERO_CUT: of crosspoint (kind 0) or sink (2) i (R332). -/
def execZeroCut (t kind i : Nat) (s : State) : Result := .next ((s.at t).settle kind i 2)

/-! ## Cue commands (R324, R325) -/

/-- Count a refused command (R326). -/
def State.refuseCue (s : State) : State := (s.satInc F.BELL_ERRS.refused).set1 F.BELL_IRQ.refused

/-- A Rim command goes before the Derailleur commands of its own cycle (R324). -/
def insertCue (c : CueCmd) (q : List CueCmd) : List CueCmd :=
  if c.rim then
    let same := fun (x : CueCmd) => !x.rim && x.landed == c.landed
    q.filter (!same ·) ++ [c] ++ q.filter same
  else q ++ [c]

/-- A command lands: queued, or with 256 waiting discarded; the answer says whether it was queued (R325). -/
def State.cueLands (s : State) (c : CueCmd) : Bool × State :=
  if 256 ≤ s.bell.queue.length then (false, s.refuseCue)
  else (true, { s with bell.queue := insertCue c s.bell.queue })

/-- A write of BELL_CUE_CMD. -/
def State.cueWrite (s : State) (cue arg : Nat) : State :=
  (s.cueLands { cue := cue, arg := arg, rim := true, landed := s.now, record := none }).2

/-! ## Unit swap (R338) -/

/-- Crosspoint gains of a section: BELL_XP_SEL and BELL_XP_DATA words in record order (log 30). -/
def sectionXp (rs : List (Nat × Nat)) : SMap Nat :=
  (rs.foldl (fun (a : Nat × SMap Nat) p =>
    if p.1 = R.BELL_XP_SEL then (p.2, a.2)
    else if p.1 = R.BELL_XP_DATA then (a.1, mset (fun _ => 0) a.2 (xpKey (bits a.1 14 8) (bits a.1 7 0)) (bits p.2 15 0))
    else a) (0, [])).2

/-- Every changed crosspoint, sink and bus gain changes in swap_mode from this tick; `old` is the state before the load. -/
def State.bellSwap (s old : State) (rs : List (Nat × Nat)) : State :=
  let m := s.rd F.BELL_CTRL.swap_mode
  let t := s.now - 1
  let new := sectionXp rs
  let s := ((new.map (·.1)) ++ (s.bell.xp.map (·.1))).eraseDups.foldl (fun s i =>
    let r := mget (fun _ => {}) s.bell.xp i
    let v := mget (fun _ => 0) new i
    if r.target = v then s else { s with bell.xp := mset (fun _ => {}) s.bell.xp i (r.change v m t) }) s
  let s := (List.range 256).foldl (fun s k =>
    let v := s.rd (F.BELL_SINK.bus k)
    if old.rd (F.BELL_SINK.bus k) = v then s
    else { s with bell.sinks := mset (fun _ => {}) s.bell.sinks k ((mget (fun _ => {}) s.bell.sinks k).change v m t) }) s
  let s := (List.range 128).foldl (fun s b =>
    let v := s.rd (F.BELL_BUS_GAIN.gain b)
    if old.rd (F.BELL_BUS_GAIN.gain b) = v then s
    else { s with bell.busGain := mset (fun _ => {}) s.bell.busGain b ((mget (fun _ => {}) s.bell.busGain b).change v m t) }) s
  (List.range 8).foldl (fun s p =>
    if s.on (F.BELL_TDM.enable p) && s.on (F.BELL_TDM.master p) then s.set1 (F.BELL_TDM_STATUS.locked p)
    else if old.on (F.BELL_TDM.master p) || !s.on (F.BELL_TDM.enable p) then s.wr (F.BELL_TDM_STATUS.locked p) 0
    else s) s

end Sys2Proof.Machine
end

