-- ==== Sys2Proof/Machine/Arrays.lean ====
section
/-! DEFINITION. The head array window: palettes, output LUT and sprite descriptors, and the rules every write to them meets
(02: R15, R29, R486; 06: R147). Copy B takes each write 2 pixel clocks after copy A (R162), so one home serves both. -/

namespace Sys2Proof.Machine

/-- Address of a word of head h's array window (R29). -/
def arrayAddr (h off : Nat) : Nat := 0x4100_0000 + 0x2_0000 * h + off

/-- The offset is mapped in the window (R29). -/
def arrayMapped (off : Nat) : Bool := decide (off < 0x1_1000 ∨ (0x1_8000 ≤ off ∧ off < 0x2_0000))

/-- The offset lies in the palettes or the sprite descriptors (R100). -/
def arrayBindable (off : Nat) : Bool := decide (off < 0x1_0000 ∨ (0x1_8000 ≤ off ∧ off < 0x2_0000))

/-- The word belongs to the head's wall range (R146). -/
def State.inWall (s : State) (h off : Nat) : Bool :=
  let i := (off - 0x1_8000) / 32
  s.on (F.SPR_CTRL.wall_en h) && decide (0x1_8000 ≤ off)
    && decide (s.rd (F.SPR_WALL.wall_first h) ≤ i ∧ i ≤ s.rd (F.SPR_WALL.wall_last h))

/-- Bits a word of the window holds: 31 and 30 of an output LUT entry are reserved (R34, R158, R163). -/
def arrayBits (off : Nat) : Word := if 0x1_0000 ≤ off ∧ off < 0x1_1000 then 0x3FFF_FFFF#32 else 0xFFFF_FFFF#32

/-- Store a word of the window: a wake event of the head (R194). -/
def State.putArray (s : State) (h off : Nat) (w : Word) : State := (s.setArr (arrayAddr h off) (w &&& arrayBits off)).wake h

/-- A write to a wall-range word by another port is dropped and counted (R147). -/
def State.dropWall (s : State) (h : Nat) : State := s.satInc (F.SPR_IGNORED.wall_write h)

/-- A collision of a Derailleur write with a Rim write at one root edge (R15). -/
def State.derCollision (s : State) (h : Nat) : State :=
  (s.satInc F.DER_ARRAY_COLLISIONS.count).wr F.DER_ARRAY_COLLISIONS.head h

/-- A masked write (mask, data) over a word. -/
def maskOver (old : Word) (p : Word × Word) : Word := (old &&& ~~~ p.1) ||| (p.2 &&& p.1)

/-- Two masked writes of one edge as one, the second over the first. -/
def maskJoin (p q : Word × Word) : Word × Word := (p.1 ||| q.1, maskOver p.2 q)

/-- The writes of the present root edge to array address a. -/
def State.edge (s : State) (a : Nat) : EdgeWrites := (mget (fun _ => none) s.was.edges a).getD { base := s.arr a }

/-- The word the writes of one edge leave: Cadence, then Rim, then Derailleur (R15). -/
def EdgeWrites.word (e : EdgeWrites) : Word := maskOver (e.rim.getD (maskOver e.base e.cad)) e.der

/-- A write of the present edge by one of the first three ports lands: `f` adds it to those of the edge; the wall range drops it, and
a Rim write and a Derailleur write that meet are a collision (R15, R147). -/
def State.edgeArray (s : State) (h off : Nat) (f : EdgeWrites → EdgeWrites) : State :=
  if s.inWall h off then s.dropWall h
  else
    let e := s.edge (arrayAddr h off)
    let e' := f e
    let met := fun e : EdgeWrites => e.rim.isSome && e.der.1 != 0
    let s := { s with was.edges := mset (fun _ => none) s.was.edges (arrayAddr h off) (some e') }
    (if met e' && !met e then s.derCollision h else s).putArray h off e'.word

/-- A Rim write to a mapped word (R15). -/
def State.rimArray (s : State) (h off : Nat) (w : Word) : State := s.edgeArray h off fun e => { e with rim := some w }

/-- A Derailleur write of the masked bits (R15). -/
def State.derArray (s : State) (h off mask v : Nat) : State :=
  s.edgeArray h off fun e => { e with der := maskJoin e.der (BitVec.ofNat 32 mask, BitVec.ofNat 32 v) }

/-- A Cadence ARRAY write (R15, R174). -/
def State.cadArray (s : State) (h off : Nat) (p : Word × Word) : State := s.edgeArray h off fun e => { e with cad := maskJoin e.cad p }

/-- A write to the window that is ignored: reason 1 width, 2 unmapped, the latter with the notice of R35 (R486). -/
def State.ignoreArray (s : State) (h off reason : Nat) : State :=
  let s := (s.satInc (F.ARRAY_IGNORED.count h)).wr (F.ARRAY_IGNORED.last_reason h) reason
  let s := s.wr (F.ARRAY_IGNORED.last_word h) (off / 4)
  if reason = 2 then s.raise (256 + 0x10 + h) else s

end Sys2Proof.Machine
end

