-- ==== Sys2Proof/Machine/Real.lean ====
section
/-! DEFINITION. IEEE 754 values as bit patterns: what R76, R98 need of binary32 and binary64. -/

namespace Sys2Proof.Machine

/-- Fields of a binary64 pattern: sign, exponent, fraction. -/
def f64Sign (v : Nat) : Bool := bit v 63
def f64Exp (v : Nat) : Nat := bits v 62 52
def f64Frac (v : Nat) : Nat := bits v 51 0

/-- The pattern is a NaN. -/
def f64Nan (v : Nat) : Bool := f64Exp v == 2047 && f64Frac v != 0

/-- Order key of a pattern that is no NaN: equal keys are equal values, both zeros included. -/
def f64Key (v : Nat) : Int := if f64Sign v then -((v % 2 ^ 63 : Nat) : Int) else ((v % 2 ^ 63 : Nat) : Int)

/-- Comparison of two patterns: none when either is a NaN, else the sign of a − b. -/
def f64Cmp (a b : Nat) : Option Ordering :=
  if f64Nan a || f64Nan b then none else some (compare (f64Key a) (f64Key b))

/-- Magnitude of a finite pattern truncated to an integer. -/
def f64TruncMag (v : Nat) : Nat :=
  let e := f64Exp v
  if e < 1023 then 0
  else
    let m := 2 ^ 52 + f64Frac v
    if e < 1075 then m / 2 ^ (1075 - e) else m * 2 ^ (e - 1075)

/-- Truncation toward zero to a signed 64-bit integer, saturated, NaN giving 0 (R98). -/
def f64ToInt (v : Nat) : Int :=
  if f64Nan v then 0
  else
    let big := decide (1086 < f64Exp v)
    let m : Int := if big then (2 ^ 64 : Int) else (f64TruncMag v : Int)
    clamp (-(2 ^ 63)) (2 ^ 63 - 1) (if f64Sign v then -m else m)

/-- A binary32 pattern widened exactly to binary64 (R76); a NaN keeps its payload at the top of the fraction. -/
def f32Widen (v : Nat) : Nat :=
  let s := b2n (bit v 31) * 2 ^ 63
  let e := bits v 30 23
  let f := bits v 22 0
  if e = 255 then s + 2047 * 2 ^ 52 + f * 2 ^ 29
  else if e ≠ 0 then s + (e + 896) * 2 ^ 52 + f * 2 ^ 29
  else if f = 0 then s
  else
    let k := Nat.log2 f
    s + (k + 874) * 2 ^ 52 + (f - 2 ^ k) * 2 ^ (52 - k)

/-- Integer square root of n by its bits from number k − 1 down, with r found so far. -/
def isqrt (n : Nat) : Nat → Nat → Nat
  | 0, r => r
  | k + 1, r => isqrt n k (if (r + 2 ^ k) * (r + 2 ^ k) ≤ n then r + 2 ^ k else r)

/-- The square root of a / b, between 2^−20 and 2^32 or 0, as binary64; one that is no such value is rounded up or down. -/
def f64Sqrt (a b : Nat) (up : Bool) : Nat :=
  if a = 0 then 0
  else
    let k := ((List.range 52).findIdx? fun i => decide (2 ^ (2 * (i + 1)) * b > a * 2 ^ 40)).getD 51
    let scaled := a * 2 ^ (2 * (72 - k))
    let m := isqrt (scaled / b) 54 0
    (k + 1003) * 2 ^ 52 + (m - 2 ^ 52) + b2n (up && m * m * b != scaled)

end Sys2Proof.Machine
end

