-- ==== Sys2Proof/Machine/Sha512.lean ====
section
/-! DEFINITION. SHA-512 (FIPS 180-4), over which the spec states its digests, and HMAC (RFC 2104) on it. -/

namespace Sys2Proof.Machine

abbrev W64 := BitVec 64

namespace Sha512

/-- The eight 64-bit words of a 512-bit number, the most significant first. -/
def octet (n : Nat) : List W64 := (List.range 8).map fun i => BitVec.ofNat 64 (n / 2 ^ (448 - 64 * i))

/-- Round constants, eight to a row: the first 64 fraction bits of the cube roots of the first 80 primes (FIPS 180-4 4.2.3). -/
def roots3 : List Nat :=
  [0x428a2f98d728ae227137449123ef65cdb5c0fbcfec4d3b2fe9b5dba58189dbbc3956c25bf348b53859f111f1b605d019923f82a4af194f9bab1c5ed5da6d8118,
   0xd807aa98a303024212835b0145706fbe243185be4ee4b28c550c7dc3d5ffb4e272be5d74f27b896f80deb1fe3b1696b19bdc06a725c71235c19bf174cf692694,
   0xe49b69c19ef14ad2efbe4786384f25e30fc19dc68b8cd5b5240ca1cc77ac9c652de92c6f592b02754a7484aa6ea6e4835cb0a9dcbd41fbd476f988da831153b5,
   0x983e5152ee66dfaba831c66d2db43210b00327c898fb213fbf597fc7beef0ee4c6e00bf33da88fc2d5a79147930aa72506ca6351e003826f142929670a0e6e70,
   0x27b70a8546d22ffc2e1b21385c26c9264d2c6dfc5ac42aed53380d139d95b3df650a73548baf63de766a0abb3c77b2a881c2c92e47edaee692722c851482353b,
   0xa2bfe8a14cf10364a81a664bbc423001c24b8b70d0f89791c76c51a30654be30d192e819d6ef5218d69906245565a910f40e35855771202a106aa07032bbd1b8,
   0x19a4c116b8d2d0c81e376c085141ab532748774cdf8eeb9934b0bcb5e19b48a8391c0cb3c5c95a634ed8aa4ae3418acb5b9cca4f7763e373682e6ff3d6b2b8a3,
   0x748f82ee5defb2fc78a5636f43172f6084c87814a1f0ab728cc702081a6439ec90befffa23631e28a4506cebde82bde9bef9a3f7b2c67915c67178f2e372532b,
   0xca273eceea26619cd186b8c721c0c207eada7dd6cde0eb1ef57d4f7fee6ed17806f067aa72176fba0a637dc5a2c898a6113f9804bef90dae1b710b35131c471b,
   0x28db77f523047d8432caab7b40c724933c9ebe0a15c9bebc431d67c49c100d4c4cc5d4becb3e42b6597f299cfc657e2a5fcb6fab3ad6faec6c44198c4a475817]

/-- Constants of the 80 rounds. -/
def k : List W64 := roots3.flatMap octet

/-- First 64 fraction bits of the square roots of the first eight primes: the initial hash value (FIPS 180-4 5.3.5). -/
def roots2 : Nat :=
  0x6a09e667f3bcc908bb67ae8584caa73b3c6ef372fe94f82ba54ff53a5f1d36f1510e527fade682d19b05688c2b3e6c1f1f83d9abfb41bd6b5be0cd19137e2179

/-- The sum over GF(2) of rotations of a word. -/
def turns (rs : List Nat) (x : W64) : W64 := rs.foldl (fun acc r => acc ^^^ x.rotateRight r) 0

/-- The six functions of FIPS 180-4 4.1.3: choice and majority, and the upper and lower sigmas. -/
def choose (x y z : W64) : W64 := z ^^^ (x &&& (y ^^^ z))
def majority (x y z : W64) : W64 := (x &&& (y ||| z)) ||| (y &&& z)
def upper0 : W64 → W64 := turns [28, 34, 39]
def upper1 : W64 → W64 := turns [14, 18, 41]
def lower0 (x : W64) : W64 := turns [1, 8] x ^^^ x >>> 7
def lower1 (x : W64) : W64 := turns [19, 61] x ^^^ x >>> 6

/-- The eight working variables. -/
structure Vars where
  a : W64
  b : W64
  c : W64
  d : W64
  e : W64
  f : W64
  g : W64
  h : W64
  deriving DecidableEq, Repr

def Vars.round (v : Vars) (kt wt : W64) : Vars :=
  let t1 := v.h + upper1 v.e + choose v.e v.f v.g + kt + wt
  let t2 := upper0 v.a + majority v.a v.b v.c
  ⟨t1 + t2, v.a, v.b, v.c, v.d + t1, v.e, v.f, v.g⟩

def Vars.add (v w : Vars) : Vars :=
  ⟨v.a + w.a, v.b + w.b, v.c + w.c, v.d + w.d, v.e + w.e, v.f + w.f, v.g + w.g, v.h + w.h⟩

/-- Working variables from eight words. -/
def Vars.ofWords : List W64 → Vars
  | [a, b, c, d, e, f, g, h] => ⟨a, b, c, d, e, f, g, h⟩
  | _ => ⟨0, 0, 0, 0, 0, 0, 0, 0⟩

def Vars.init : Vars := Vars.ofWords (octet roots2)

/-- The remaining rounds: `ks` their constants, `win` the last sixteen schedule words, oldest first. -/
def rounds : List W64 → List W64 → Vars → Vars
  | [], _, v => v
  | kt :: ks, win, v =>
    let w := win.headD 0
    let next := lower1 (win.getD 14 0) + win.getD 9 0 + lower0 (win.getD 1 0) + w
    rounds ks (win.drop 1 ++ [next]) (v.round kt w)

/-- Big-endian 64-bit words of a block. -/
def words : Nat → List Byte → List W64
  | 0, _ => []
  | n + 1, bs => BitVec.ofNat 64 (beNat (bs.take 8)) :: words n (bs.drop 8)

def block (v : Vars) (bs : List Byte) : Vars := v.add (rounds k (words 16 bs) v)

def blocks : Nat → Vars → List Byte → Vars
  | 0, v, _ => v
  | n + 1, v, bs => blocks n (block v (bs.take 128)) (bs.drop 128)

/-- The padded message (FIPS 180-4 5.1.2). -/
def pad (m : List Byte) : List Byte :=
  m ++ 0x80#8 :: List.replicate ((239 - m.length % 128) % 128) 0#8 ++ natBe 16 (8 * m.length)

def out (v : Vars) : List Byte :=
  [v.a, v.b, v.c, v.d, v.e, v.f, v.g, v.h].flatMap fun w => natBe 8 w.toNat

end Sha512

/-- SHA-512 of a byte string. -/
def sha512 (m : List Byte) : List Byte :=
  let p := Sha512.pad m
  Sha512.out (Sha512.blocks (p.length / 128) Sha512.Vars.init p)

/-- first32 of a digest: its first 32 bytes. -/
def first32 (m : List Byte) : List Byte := (sha512 m).take 32

/-- HMAC-SHA-512 (RFC 2104). -/
def hmac512 (key m : List Byte) : List Byte :=
  let k0 := if 128 < key.length then sha512 key else key
  let kp := k0 ++ List.replicate (128 - k0.length) 0#8
  sha512 ((kp.map (· ^^^ 0x5c#8)) ++ sha512 ((kp.map (· ^^^ 0x36#8)) ++ m))

end Sys2Proof.Machine
end

