-- ==== Sys2Proof/Machine/VtkOps.lean ====
section
/-! DEFINITION. What every Vertik command shares: messages, replies, credit, the session's life and its counts
(14: R283, R284, R287, R290, R304). -/

namespace Sys2Proof.Machine

/-- Session n beside its register. -/
def State.sess (s : State) (n : Nat) : VSession := mget (fun _ => {}) s.vtk.sessions n

/-- Store session n. -/
def State.setSess (s : State) (n : Nat) (v : VSession) : State :=
  { s with vtk.sessions := mset (fun _ => {}) s.vtk.sessions n v }

/-- Session n is OPEN. -/
def State.sessOpen (s : State) (n : Nat) : Bool := decide (n < 64) && s.rd (F.VTK_SESSION.state n) == 2

/-- Credit of session n (R304). -/
def State.credit (s : State) (n : Nat) : Nat :=
  min (256 - s.rd (F.VTK_SESSION.outstanding n)) (4096 - s.rd F.VTK_STATUS.outstanding)

/-- Count an illegal message of reason r (R296) set its status bit and raise its notice (R412). -/
def State.vtkIllegal (s : State) (r : Nat) : State :=
  ((s.satInc (F.VTK_ILLEGAL.count r)).set1 F.VTK_IRQ.illegal).raise 219

/-- Header of a device-to-host message (R283). -/
def vtkHeader (kind session seq bodyLen credit next : Nat) : List Byte :=
  [0x56#8, 0x4B#8, 1#8, BitVec.ofNat 8 kind] ++ natLe 2 session ++ natLe 2 0 ++ natLe 8 seq ++ natLe 4 bodyLen
    ++ natLe 4 credit ++ natLe 8 next ++ natLe 8 0

/-- Send a message to the host of session n: header, body and its 32-byte tag under k_dh (R283, R284). A Shadow holds no
key and sends none (R287). -/
def State.vtkSend (s : State) (n kind seq : Nat) (body : List Byte) : State :=
  if s.isShadow then s
  else
    let v := s.sess n
    let m := vtkHeader kind n seq body.length (if s.sessOpen n then s.credit n else 0) v.next ++ body
    s.emit (.vertik n kind seq (m ++ (hmac512 v.kDh m).take 32))

/-- Send with the session's own next sequence number. -/
def State.vtkSendNext (s : State) (n kind : Nat) (body : List Byte) : State :=
  let v := s.sess n
  let s := s.vtkSend n kind v.devSeq body
  s.setSess n { v with devSeq := v.devSeq + 1 }

/-- Statuses of a reply (R290). -/
def stOk := 0x00
def stPending := 0x01
def stLate := 0x02
def stSuperseded := 0x03
def stLeased := 0x04
def stLeaseHeld := 0x05
def stNoRoute := 0x06
def stBadArg := 0x07
def stBusError := 0x08
def stMemError := 0x09
def stDenied := 0x0A
def stPointOwned := 0x0B
def stTooLarge := 0x0C
def stWindow := 0x0D
def stBusy := 0x0E
def stGsRejected := 0x0F
def stUnknown := 0x10
def stUnlockBroken := 0x11
def stReplyGone := 0x12
def stIngestFull := 0x13

/-- Body of a REPLY (R290). -/
def vtkReplyBody (code status detail seq frame time : Nat) (results : List Byte) : List Byte :=
  natLe 1 code ++ natLe 1 status ++ natLe 2 detail ++ natLe 4 0 ++ natLe 8 seq ++ natLe 8 frame ++ natLe 8 time
    ++ results

/-- Count the final statuses VTK_ORDER counts (R300, R302). -/
def State.vtkCountStatus (s : State) (status : Nat) : State :=
  if status = stSuperseded then s.satInc F.VTK_ORDER.superseded
  else if status = stLate then s.satInc F.VTK_ORDER.late
  else s

/-- The final reply of a command: stored, sent, and its place in the session's credit given back (R290, R304). A command
whose session has closed (its session number then counts from 64) sends none (R287). -/
def State.vtkFinish (s : State) (c : VtkCmd) (status detail frame : Nat) (results : List Byte := []) : State :=
  let s := s.vtkCountStatus status
  let n := c.session
  if s.sessOpen n ∧ (s.sess n).outstanding.contains c.seq = true then
    let body := vtkReplyBody c.code status detail c.seq (if c.framed then frame else 0) (nsOf s.now) results
    let v := s.sess n
    let s := s.setSess n { v with outstanding := v.outstanding.erase c.seq, stored := ((c.seq, body) :: v.stored).take 256 }
    let s := s.wr (F.VTK_SESSION.outstanding n) (s.rd (F.VTK_SESSION.outstanding n) - 1)
    let s := s.wr F.VTK_STATUS.outstanding (s.rd F.VTK_STATUS.outstanding - 1)
    s.vtkSendNext n 5 body
  else s

/-- A command of a session that closes keeps its effect but not its reply. -/
def orphan (n : Nat) (c : VtkCmd) : VtkCmd := if c.session = n then { c with session := n + 64 } else c

/-- Renumber the waiting commands of a closing session. -/
def State.orphanCommands (s : State) (n : Nat) : State :=
  { s with vtk.ready := s.vtk.ready.map (orphan n),
           vtk.framed := s.vtk.framed.map fun f => { f with cmd := orphan n f.cmd },
           vtk.gsWait := s.vtk.gsWait.map (orphan n),
           sec.job := s.sec.job.map fun p => (p.1, orphan n p.2),
           sec.genReply := s.sec.genReply.map (orphan n),
           ing.answer := s.ing.answer.map fun p => (orphan n p.1, p.2),
           ing.queue := s.ing.queue.map fun i => match i with
             | .vertik c st => .vertik (orphan n c) st
             | i => i }

/-- Store the set of leases and its count. -/
def State.setLeases (s : State) (ls : List Lease) : State :=
  { s with vtk.leases := ls }.wr F.VTK_STATUS.leases ls.length

/-- Bit n of VTK_OPEN. -/
def State.setOpen (s : State) (n : Nat) (v : Bool) : State := s.wr64 R.VTK_OPEN (setBit (s.rd64 R.VTK_OPEN) n v)

/-- Free a session number: leases released, stored replies discarded, commands that wait keep only their effect (R287). -/
def State.freeSession (s : State) (n : Nat) : State :=
  let wasOpen := s.sessOpen n
  let s := s.wr F.VTK_STATUS.outstanding (s.rd F.VTK_STATUS.outstanding - s.rd (F.VTK_SESSION.outstanding n))
  let s := (s.orphanCommands n).setSess n {}
  let s := (s.setReg (R.VTK_SESSION n) 0).setOpen n false
  let s := s.setLeases (s.vtk.leases.filter (·.session != n))
  if wasOpen then s.set1 F.VTK_IRQ.session else s

/-- Every open or starting session closes (a change of security state, a promotion; R287). -/
def State.closeAll (s : State) : State :=
  (List.range 64).foldl (fun s n => if s.rd (F.VTK_SESSION.state n) = 0 then s else s.freeSession n) s

end Sys2Proof.Machine
end

