-- ==== Sys2Proof/Machine/Ingest.lean ====
section
/-! DEFINITION. Points and ingest (04: R76–R95), and the places of the Derailleur queue that point writes need (R82, R104). -/

namespace Sys2Proof.Machine

/-! ## Point records (R76–R79) -/

/-- Number of points. -/
def numPoints : Nat := 1048576

/-- Scene-memory offset of a point record. -/
def State.pointOff (s : State) (p : Nat) : Nat := 0x1_0000 * s.rd F.ING_PLACE.points_base + 32 * p

/-- A point record from its 32 bytes. -/
def PointRec.ofBytes (bs : List Byte) : PointRec :=
  let f := leAt bs 12 4
  { value := leAt bs 0 8, quality := leAt bs 8 2, source := leAt bs 10 2, type := bits f 31 28, stale := bit f 27,
    test := bit f 26, frozen := bit f 25, unsync := bit f 24, count := bits f 15 0, sourceTime := leAt bs 16 8,
    arrival := leAt bs 24 8 }

/-- The flags word of a record. -/
def PointRec.flags (r : PointRec) : Nat :=
  r.type % 16 * 2 ^ 28 + b2n r.stale * 2 ^ 27 + b2n r.test * 2 ^ 26 + b2n r.frozen * 2 ^ 25 + b2n r.unsync * 2 ^ 24
    + r.count % 2 ^ 16

/-- The 32 bytes of a record. -/
def PointRec.toBytes (r : PointRec) : List Byte :=
  natLe 8 r.value ++ natLe 2 r.quality ++ natLe 2 r.source ++ natLe 4 r.flags ++ natLe 8 r.sourceTime
    ++ natLe 8 r.arrival

/-- The initial record (R78). -/
def PointRec.initial : PointRec := { quality := 1, source := 0xFFFF, stale := true }

/-- A record with an input's fields put over it (R88, R89, R94, R95). -/
def PointRec.update (r : PointRec) (u : PtUpd) : PointRec :=
  let q := u.quality.getD r.quality
  let q := if u.oldData then setBit (q / 4 * 4 + 3) 7 true else q
  let q := if u.frozen = some true then setBit q 10 true else q
  { value := (u.value.map (·.2)).getD r.value, type := (u.value.map (·.1)).getD r.type, quality := q,
    source := u.source.getD r.source, stale := u.stale.getD r.stale, test := u.test.getD r.test,
    frozen := u.frozen.getD r.frozen, unsync := u.unsync.getD r.unsync, count := (r.count + 1) % 2 ^ 16,
    sourceTime := u.sourceTime.getD r.sourceTime, arrival := u.arrival.getD r.arrival }

/-- A value change (R79). -/
def PointRec.valueChange (o n : PointRec) : Bool := o.value != n.value || o.type != n.type

/-- A quality change (R79). -/
def PointRec.qualityChange (o n : PointRec) : Bool :=
  o.quality != n.quality || o.stale != n.stale || o.test != n.test || o.frozen != n.frozen || o.unsync != n.unsync

/-! ## The Derailleur queue's places (R82, R104) -/

/-- Trigger entry of a point as it stands. -/
def State.trigOff (s : State) (p : Nat) : Nat := 0x1_0000 * s.rd F.DER_PLACE.trig_base + p * 4

/-- Offset of rule r. -/
def State.ruleOff (s : State) (r : Nat) : Nat := 0x1_0000 * s.rd F.DER_PLACE.rules_base + 32 * r

/-- The rules a trigger entry names, none for a reserved count or a range past the last rule (R96). -/
def trigRules (w : Nat) : Option (List Nat) :=
  let n := bits w 31 25
  let r := bits w 17 0
  if 64 < n ∨ 262144 < r + n then none else some ((List.range n).map (r + ·))

/-- A ctrl word asks for refreshes, as read; one with an uncorrectable word does too (log 114). -/
def State.ctrlRefresh (s : State) (r : Nat) : Bool × State :=
  let (m, s) := s.memRead 66 (s.ruleOff r) 4
  let c := leNat m.bytes
  (!m.bad.isEmpty || (bit c 31 && bit c 28), s)

/-- The point's trigger entry names an enabled rule with on_update (R82), by the words as read; with an uncorrectable entry the write
enters the queue, and its evaluation finds the entry (log 114). -/
def State.wantsRefresh (s : State) (p : Nat) : Bool × State :=
  let (m, s) := s.memRead 66 (s.trigOff p) 4
  if !m.bad.isEmpty then (true, s)
  else ((trigRules (leNat m.bytes)).getD []).foldl (fun a r => if a.1 then a else a.2.ctrlRefresh r) (false, s)

/-- The Derailleur evaluates. -/
def State.derOn (s : State) : Bool := s.on F.DER_CTRL.enable

/-- The Derailleur queue is full (R82). -/
def State.derFull (s : State) : Bool := decide (4096 ≤ s.der.queue.length)

/-- A re-evaluation that has reached the head of the queue takes the record as read from the store now, none for an uncorrectable one
(R104). -/
def State.headRecord (s : State) : State :=
  match s.der.queue with
  | e :: q =>
    if e.reeval then
      let (m, s) := s.memRead 64 (s.pointOff e.point) 32
      { s with der.queue := { e with copy := if m.bad.isEmpty then some (PointRec.ofBytes m.bytes) else none } :: q }
    else s
  | [] => s

/-- Queue an entry. -/
def State.derPush (s : State) (e : DerEntry) : State :=
  let first := s.der.queue.isEmpty
  let s := { s with der.queue := s.der.queue ++ [e] }
  let s := if first then s.headRecord else s
  (s.wr F.DER_STATUS.queue_depth s.der.queue.length).peak F.DER_QUEUE_PEAK.peak s.der.queue.length

/-! ## Point writes (R77, R79, R82, R95) -/

/-- Count a discard of a reason, and latch it with its subscription (ING_DISCARD, ING_LAST_DISCARD). -/
def State.discard (s : State) (reason sub : Nat) : State :=
  ((s.satInc (F.ING_DISCARD.count reason)).wr F.ING_LAST_DISCARD.reason reason).wr F.ING_LAST_DISCARD.sub sub

/-- Discard reasons. -/
def drNoSub := 0
def drDecode := 1
def drConfig := 2
def drOld := 3
def drTest := 4
def drExt := 5
def drQueueFull := 6
def drFrozen := 7
def drOwned := 8
def drSvGap := 9

/-- Answer the Vertik command of the write in hand, if there is one. -/
def State.answerVertik (s : State) (status : Nat → Nat) : State :=
  match s.ing.answer with
  | none => s
  | some (c, st) =>
    let s := { s with ing.answer := none }
    s.vtkFinish c (status st) 0 (if c.framed then c.frame else 0)

/-- A record's source is a GOOSE or SV subscription (R76). -/
def PointRec.subscribed (r : PointRec) : Bool := decide (r.source < 0x1040)

/-- Queue the write for evaluation as its change class asks (R82). -/
def State.queueWrite (s : State) (p : Nat) (n : PointRec) (vc qc : Bool) : State :=
  if !s.derOn then s
  else
    let (queued, s) := if vc || qc then (true, s) else s.wantsRefresh p
    if queued then s.derPush { point := p, copy := some n, valueChange := vc, qualityChange := qc } else s

/-- Write the whole new record in one slot and queue it; a write the region rule drops changes nothing else (R77, R82). -/
def State.putRecord (s : State) (p : Nat) (n : PointRec) (vc qc : Bool) : State :=
  if s.admits 66 (s.pointOff p) then
    let s := s.memWrite 66 (s.pointOff p) n.toBytes
    (s.wrapInc F.ING_POINT_WRITES.count).queueWrite p n vc qc
  else s.denyWrite 66

/-- One point write of the input in hand (R79, R82, R94, R95). -/
def State.writePoint (s : State) (p : Nat) (u : PtUpd) : State :=
  let (m, s) := s.memRead 66 (s.pointOff p) 32
  let bad := !m.bad.isEmpty
  let old := if bad then { PointRec.initial with stale := false } else PointRec.ofBytes m.bytes
  if old.frozen && u.fromSource then s.discard drFrozen s.ing.sub
  else if u.ownCheck && old.subscribed && !old.frozen then
    (s.discard drOwned 0x1FFF).answerVertik fun _ => stPointOwned
  else
    let new := { old.update u with count := if bad then 1 else (old.count + 1) % 2 ^ 16 }
    (s.putRecord p new (bad || old.valueChange new) (bad || u.forced || old.qualityChange new)).answerVertik id

/-! ## GOOSE (R84–R88) -/

/-- A GOOSE subscription entry, or an SV one, as ingest reads it (R85, R90). -/
def State.gooseOff (s : State) (g : Nat) : Nat := s.subsBase + 128 * g
def State.svOff (s : State) (v : Nat) : Nat := 0x8_0000 + s.subsBase + 128 * v

/-- The ports field admits the port (0 A, 1 B). -/
def portOk (ports port : Nat) : Bool := bit ports port

/-- The GOOSE entry is enabled and well formed (R85). -/
def gooseEnabled (e : List Byte) : Bool :=
  let v := leAt e 8 2
  let f := leAt e 10 2
  bit f 0 && bits f 4 3 != 0 && bits f 15 5 == 0 && bits v 14 12 == 0 && decide (1 ≤ leAt e 16 1 ∧ leAt e 16 1 ≤ 64)
    && decide (1 ≤ leAt e 17 1 ∧ leAt e 17 1 ≤ 64) && leAt e 18 2 == 0 && leAt e 20 4 % 8 == 0 && leAt e 105 23 == 0

/-- The VLAN field of an entry agrees with a frame's VID. -/
def vlanOk (v : Nat) (vid : Option Nat) : Bool := !bit v 15 || vid == some (bits v 11 0)

/-- The entry agrees with the frame (R87). -/
def gooseMatches (e : List Byte) (port : Nat) (g : Goose) : Bool :=
  beAt e 0 6 == g.mac && leAt e 6 2 == g.appid && vlanOk (leAt e 8 2) g.vlan && portOk (bits (leAt e 10 2) 4 3) port
    && slice e 24 (leAt e 17 1) == g.gocbRef

/-- Read entries upward from g until one agrees: its number, its bytes and whether it held an uncorrectable word. -/
def State.findGoose (s : State) (port : Nat) (g : Goose) : Nat → Nat → Option (Nat × List Byte × Bool) × State
  | _, 0 => (none, s)
  | i, n + 1 =>
    let (m, s) := s.memRead 66 (s.gooseOff i) 128
    if gooseEnabled m.bytes && gooseMatches m.bytes port g then (some (i, m.bytes, !m.bad.isEmpty), s)
    else s.findGoose port g (i + 1) n

/-- A feature outside R84 in a frame. -/
def leafOutside : Leaf → Bool
  | .bitString n _ => decide (64 < n)
  | .int n _ => decide (8 < n)
  | .uint n _ => decide (8 < n)
  | .float n _ => n != 4 && n != 8
  | .unsupported => true
  | _ => false

/-- The frame cannot be decoded within R84. -/
def gooseOutside (g : Goose) : Bool :=
  g.malformed || decide (64 < g.leaves.length) || decide (1500 < g.length) || g.leaves.any leafOutside

/-- Leaf type code and size of a decoded leaf (R86). -/
def leafCode : Leaf → Nat × Nat
  | .bool _ => (1, 1)
  | .bitString n _ => (2, n)
  | .int n _ => (3, n)
  | .uint n _ => (4, n)
  | .float n _ => (5, n)
  | .utc _ _ => (6, 8)
  | .unsupported => (0, 0)

/-- A leaf-map entry (R86). -/
structure MapEntry where
  ltype : Nat
  role : Nat
  point : Nat
  size : Nat
  reserved : Bool
  deriving DecidableEq, Repr

/-- The leaf map's entry i. -/
def mapEntry (m : List Byte) (i : Nat) : MapEntry :=
  let w0 := leAt m (8 * i) 4
  let w1 := leAt m (8 * i + 4) 4
  { ltype := bits w0 27 24, role := bits w0 23 20, point := bits w0 19 0, size := bits w1 7 0,
    reserved := bits w0 31 28 != 0 || bits w1 31 8 != 0 }

/-- The entry makes every frame a config discard (R86). -/
def MapEntry.bad (e : MapEntry) : Bool :=
  e.reserved || e.ltype == 0 || decide (6 < e.ltype) || decide (3 < e.role)
    || (e.role == 2 && !(e.ltype == 2 && e.size == 13)) || (e.role == 3 && e.ltype != 6)

/-- Odometer ns of a UtcTime (R88). -/
def State.utcNs (s : State) (sec frac : Nat) : Nat :=
  (((sec : Int) + signed 16 (s.rd F.ODO_UTC.utc_offset)) * 1000000000).toNat + 1000000000 * frac / 2 ^ 24

/-- Type and value of a value leaf (R76, R86). -/
def State.leafValue (s : State) : Leaf → Nat × Nat
  | .bool b => (1, b2n b)
  | .bitString n v => (if n = 2 then 2 else 6, v % 2 ^ n)
  | .int _ v => (3, wrap 64 v)
  | .uint _ v => (4, v % 2 ^ 64)
  | .float n v => (5, if n = 4 then f32Widen v else v % 2 ^ 64)
  | .utc a f => (7, s.utcNs a f)
  | .unsupported => (0, 0)

/-- Quality code of a 13-bit quality bit string whose first bit is bit 12 (R76). -/
def leafQuality (v : Nat) : Nat :=
  b2n (bit v 12) * 2 + b2n (bit v 11) + ((List.range 11).map fun i => b2n (bit v (10 - i)) * 2 ^ (i + 2)).sum

/-- What a leaf of its role supplies to its point (R86, R88). -/
def State.leafUpd (s : State) (e : MapEntry) (l : Leaf) (u : PtUpd) : PtUpd :=
  if e.role = 1 then { u with value := some (s.leafValue l) }
  else if e.role = 2 then
    match l with
    | .bitString _ v => { u with quality := some (leafQuality v) }
    | _ => u
  else
    match l with
    | .utc a f => { u with sourceTime := some (s.utcNs a f) }
    | _ => u

/-- Join a leaf to the writes of its frame: one write a point, in the order of first leaves (R88). -/
def State.joinLeaf (s : State) (base : PtUpd) (ws : List (Nat × PtUpd)) (p : MapEntry × Leaf) : List (Nat × PtUpd) :=
  if p.1.role = 0 then ws
  else if ws.any (·.1 == p.1.point) then
    ws.map fun w => if w.1 = p.1.point then (w.1, s.leafUpd p.1 p.2 w.2) else w
  else ws ++ [(p.1.point, s.leafUpd p.1 p.2 base)]

/-- Set a subscription's state and keep the count of stale ones (R87, R89). -/
def State.setSubState (s : State) (off at_ : Nat) (f : Fld) (old new : Nat) : State :=
  let s := s.memWrite 66 (off + at_) (natLe 1 new)
  if old = 2 ∧ new ≠ 2 then s.wr f (s.rd f - 1) else if old ≠ 2 ∧ new = 2 then s.wr f (s.rd f + 1) else s

/-- A config discard of subscription g (R87). -/
def State.gooseConfig (s : State) (g : Nat) (e : List Byte) : State :=
  (s.setSubState (s.gooseOff g) 104 F.ING_SUB_STATE.goose_stale (leAt e 104 1) 3).discard drConfig g

/-- An accepted GOOSE frame: state of the subscription first, then the writes in hand (R88). -/
def State.acceptGoose (s : State) (n arrival : Nat) (e : List Byte) (es : List MapEntry) (g : Goose) : State :=
  let fresh := g.stNum != leAt e 88 4
  let s := s.memWrite 66 (s.gooseOff n + 88) (natLe 4 g.stNum ++ natLe 4 g.sqNum)
  let s := s.memWrite 66 (s.gooseOff n + 96) (natLe 8 (arrival + 1000000 * g.ttl))
  let s := s.setSubState (s.gooseOff n) 104 F.ING_SUB_STATE.goose_stale (leAt e 104 1) 1
  let s := s.wrapInc F.ING_RX_GOOSE.count
  let base : PtUpd := { source := some n, test := some g.test, stale := some false, arrival := some arrival,
                        sourceTime := if fresh then some (s.utcNs g.tSec g.tFrac) else none }
  { s with ing.writes := (es.zip g.leaves).foldl (s.joinLeaf base) [], ing.sub := n }

/-- A matched GOOSE frame (R87, R45): the conditions in their order. -/
def State.judgeGoose (s : State) (n arrival : Nat) (e : List Byte) (bad : Bool) (g : Goose) : State :=
  let f := leAt e 10 2
  if bad then s.discard drConfig n
  else if gooseOutside g then s.discard drDecode n
  else
    let k := leAt e 16 1
    let (m, s) := s.memRead 66 (leAt e 20 4) (8 * k)
    let es := (List.range k).map (mapEntry m.bytes)
    if !m.bad.isEmpty then s.discard drConfig n
    else if es.any MapEntry.bad || g.confRev != leAt e 12 4 || g.entries != k || g.leaves.length != k || g.ndsCom
        || (es.zip g.leaves).any fun p => (p.1.ltype, p.1.size) != leafCode p.2 then s.gooseConfig n e
    else if g.security && !bit f 2 then s.discard drExt n
    else if g.test && !bit f 1 then s.discard drTest n
    else
      let d := (g.sqNum + 2 ^ 32 - leAt e 92 4) % 2 ^ 32
      if g.stNum = leAt e 88 4 ∧ ¬(1 ≤ d ∧ d < 2 ^ 31) then s.discard drOld n
      else s.acceptGoose n arrival e es g

/-- A GOOSE frame reaches its turn in ingest. -/
def State.startGoose (s : State) (port arrival : Nat) (g : Goose) : State :=
  if !s.on F.ING_CTRL.enable then s.discard drNoSub 0x1FFF
  else
    match s.findGoose port g 0 4096 with
    | (none, s) => s.discard drNoSub 0x1FFF
    | (some (n, e, bad), s) => s.judgeGoose n arrival e bad g

/-! ## Sampled values (R90–R92) -/

/-- Samples per cycle and per second of a stream (R90). -/
def svPerCycle (f : Nat) : Nat := if bit f 2 then 256 else 80
def svPerSecond (f : Nat) : Nat := svPerCycle f * (if bit f 3 then 60 else 50)

/-- The SV entry is enabled and well formed (R85, R90). -/
def svEnabled (e : List Byte) : Bool :=
  let v := leAt e 8 2
  let f := leAt e 10 2
  bit f 0 && bits f 5 4 != 0 && bits f 15 6 == 0 && bits v 14 12 == 0
    && decide (1 ≤ leAt e 50 2 ∧ leAt e 50 2 ≤ 1000) && leAt e 52 4 % 64 == 0
    && decide (10 ≤ leAt e 56 1 ∧ leAt e 56 1 ≤ 16) && leAt e 57 3 == 0 && bits (leAt e 60 4) 30 20 == 0

/-- The svID of an entry agrees: zero-padded to 34 characters. -/
def svMatches (e : List Byte) (port : Nat) (a : SvAsdu) : Bool :=
  beAt e 0 6 == a.mac && leAt e 6 2 == a.appid && vlanOk (leAt e 8 2) a.vlan && portOk (bits (leAt e 10 2) 5 4) port
    && decide (a.svId.length ≤ 34) && slice e 16 34 == slice a.svId 0 34

/-- Read SV entries upward until one agrees. -/
def State.findSv (s : State) (port : Nat) (a : SvAsdu) : Nat → Nat → Option (Nat × List Byte × Bool) × State
  | _, 0 => (none, s)
  | i, n + 1 =>
    let (m, s) := s.memRead 66 (s.svOff i) 128
    if svEnabled m.bytes && svMatches m.bytes port a then (some (i, m.bytes, !m.bad.isEmpty), s)
    else s.findSv port a (i + 1) n

/-- Sample time of a count (R91). -/
def svTime (arrival count sps : Nat) (sync : Bool) : Nat :=
  if sync then arrival / 1000000000 * 1000000000 + 1000000000 * count / sps else arrival

/-- One ring entry (R91). -/
def svRingBytes (x : SvSample) (test : Bool) : List Byte :=
  ((List.range 8).flatMap fun i => natLe 4 (wrap 32 (x.values.getD i 0))) ++ natLe 8 x.time ++ natLe 2 x.count
    ++ natLe 1 (b2n x.sync + 2 * b2n test + 4 * b2n x.missing) ++ natLe 1 0
    ++ ((List.range 8).flatMap fun i => natLe 2 (x.qualities.getD i 0)) ++ natLe 4 0

/-- Write one sample into the stream's ring (R91). -/
def State.putSample (s : State) (e : List Byte) (x : SvSample) (test : Bool) : State :=
  s.memWrite 66 (leAt e 52 4 + x.count % 2 ^ leAt e 56 1 * 64) (svRingBytes x test)

/-- Add a sample to the cycle in hand; another cycle starts afresh. -/
def addCycle (spc : Nat) (c : List SvSample) (x : SvSample) : List SvSample :=
  match c with
  | [] => [x]
  | y :: _ => if y.count / spc = x.count / spc then c ++ [x] else [x]

/-- Rank of a validity: invalid and the reserved code worst, questionable, good (R92, log 14). -/
def validityRank (q : Nat) : Nat := if q % 4 = 0 then 0 else if q % 4 = 3 then 1 else 2

/-- Quality of an RMS point: worst validity, questionable and inaccurate with a sample missing, invalid with half (R92). -/
def rmsQuality (n : Nat) (c : List SvSample) (ch : Nat) : Nat :=
  let have_ := c.filter (!·.missing)
  let worst := have_.foldl (fun m x => max m (validityRank (x.qualities.getD ch 0))) 0
  let base := if worst = 0 then 0 else if worst = 1 then 3 else 1
  let missing := n - have_.length
  if missing = 0 then base else if n ≤ 2 * missing then 1 + 2 ^ 9 else 3 + 2 ^ 9

/-- Root mean square of a channel's samples as binary64: 0.001 A per LSB of channels 0 to 3, 0.01 V of 4 to 7 (R92). -/
def rmsValue (ch : Nat) (xs : List Int) : Nat :=
  let squares := (xs.map fun x => x.natAbs * x.natAbs).sum
  if xs.isEmpty then (Config.rmsNone ch).toNat
  else f64Sqrt squares (xs.length * (if ch < 4 then 1_000_000 else 10_000)) (Config.rmsUp ch xs)

/-- The eight RMS writes at the end of a cycle (R92). -/
def rmsWrites (v spc arrival : Nat) (e : List Byte) (c : List SvSample) (test : Bool) : List (Nat × PtUpd) :=
  let r := leAt e 60 4
  let have_ := c.filter (!·.missing)
  if bit r 31 then []
  else ((List.range 8).map fun ch => (bits r 19 0 + ch,
    ({ value := some (5, rmsValue ch (have_.map fun x => x.values.getD ch 0)),
       quality := some (rmsQuality spc c ch), source := some (0x1000 + v), test := some test, stale := some false,
       unsync := some ((c.head?.map (!·.sync)).getD false), sourceTime := some ((c.head?.map (·.time)).getD arrival),
       arrival := some arrival } : PtUpd))).filter fun w => decide (w.1 < numPoints)

/-- An accepted ASDU: skipped counts, the sample, the entry's own bytes, the cycle's RMS (R91, R92). -/
def State.acceptSv (s : State) (v arrival : Nat) (e : List Byte) (a : SvAsdu) : State :=
  let f := leAt e 10 2
  let sps := svPerSecond f
  let spc := svPerCycle f
  let sync := a.smpSynch != 0
  let mk := fun n miss => ({ count := n, missing := miss, time := svTime arrival n sps sync, sync := sync,
                             values := if miss then [] else a.values, qualities := if miss then [] else a.qualities } : SvSample)
  let last := leAt e 64 2
  let gap := if leAt e 80 1 = 0 then 0 else (a.smpCnt + sps - last) % sps - 1
  let xs := ((List.range gap).map fun i => mk ((last + 1 + i) % sps) true) ++ [mk a.smpCnt false]
  let s := xs.foldl (fun s x => if x.missing then (s.putSample e x false).discard drSvGap (4096 + v)
                                else s.putSample e x a.test) s
  let c := xs.foldl (addCycle spc) (mget (fun _ => []) s.ing.cycle v)
  let s := { s with ing.cycle := mset (fun _ => []) s.ing.cycle v c }
  let s := s.memWrite 66 (s.svOff v + 64) (natLe 2 a.smpCnt)
  let s := s.memWrite 66 (s.svOff v + 72) (natLe 8 arrival)
  let s := s.setSubState (s.svOff v) 80 F.ING_SUB_STATE.sv_stale (leAt e 80 1) 1
  let s := s.wrapInc F.ING_RX_SV.count
  { s with ing.sub := 4096 + v,
           ing.writes := if (a.smpCnt + 1) % spc = 0 then rmsWrites v spc arrival e c a.test else [] }

/-- A matched ASDU (R87, R90): the conditions in their order. -/
def State.judgeSv (s : State) (v arrival : Nat) (e : List Byte) (bad : Bool) (a : SvAsdu) : State :=
  let f := leAt e 10 2
  let sps := svPerSecond f
  let d := (a.smpCnt + sps - leAt e 64 2) % sps
  if bad then s.discard drConfig (4096 + v)
  else if a.malformed || a.values.length != 8 || a.qualities.length != 8 || decide (sps ≤ a.smpCnt) then
    s.discard drDecode (4096 + v)
  else if a.confRev != leAt e 12 4 then
    (s.setSubState (s.svOff v) 80 F.ING_SUB_STATE.sv_stale (leAt e 80 1) 3).discard drConfig (4096 + v)
  else if a.security then s.discard drExt (4096 + v)
  else if a.test && !bit f 1 then s.discard drTest (4096 + v)
  else if leAt e 80 1 ≠ 0 ∧ ¬(1 ≤ d ∧ 2 * d < sps) then s.discard drOld (4096 + v)
  else s.acceptSv v arrival e a

/-- A sampled-value ASDU reaches its turn in ingest. -/
def State.startSv (s : State) (port arrival : Nat) (a : SvAsdu) : State :=
  if !s.on F.ING_CTRL.enable then s.discard drNoSub 0x1FFF
  else
    match s.findSv port a 0 64 with
    | (none, s) => s.discard drNoSub 0x1FFF
    | (some (v, e, bad), s) => s.judgeSv v arrival e bad a

/-! ## Vertik point inputs (R94, R95) -/

/-- The write a Vertik point command asks for (0x30 write, 0x31 force, 0x32 release). -/
def vtkPointUpd (c : VtkCmd) : PtUpd :=
  if c.code = 0x32 then { frozen := some false, fromSource := false, forced := true }
  else
    let st := leAt c.args 24 8
    { value := some (leAt c.args 4 1, leAt c.args 8 8), quality := some (leAt c.args 16 2),
      source := some (0x8000 + c.session % 64), test := some false, stale := some false,
      frozen := if c.code = 0x31 then some true else none,
      sourceTime := some (if st = 0 then c.arrival else st), arrival := some c.arrival, fromSource := false,
      ownCheck := c.code == 0x30, forced := c.code == 0x31 }

/-- A Vertik point command reaches its turn in ingest. -/
def State.startVertik (s : State) (c : VtkCmd) (status : Nat) : State :=
  let s := { s with ing.answer := some (c, status), ing.sub := 0x1FFF }
  if c.code = 0x30 ∧ s.on F.ING_CTRL.vertik_en = false then
    (s.discard drOwned 0x1FFF).answerVertik fun _ => stPointOwned
  else { s with ing.writes := [(leAt c.args 0 4, vtkPointUpd c)] }

/-! ## The ingest order (R80–R82) -/

/-- An input reaches its turn. -/
def State.startInput (s : State) : IngestInput → State
  | .goose port arrival g => s.startGoose port arrival g
  | .sv port arrival a => s.startSv port arrival a
  | .vertik c st => s.startVertik c st
  | .supervision _ sub ws => { s with ing.writes := ws, ing.sub := sub }

/-- The next write must wait for a place in the Derailleur queue (R82). -/
def State.mustHold (s : State) : Bool := s.derOn && s.derFull

/-- Take inputs until one has a write to make, and hold that: it arises now (R82, R104); `n` bounds their number. -/
def State.ingHoldN (s : State) : Nat → State
  | 0 => s
  | n + 1 =>
    if s.ing.writes ≠ [] then { s with ing.heldSince := some s.now }
    else if s.on F.ING_STATUS.init_busy then s
    else
      match s.ing.queue with
      | [] => s
      | i :: q => (({ s with ing.queue := q }).startInput i).ingHoldN n

/-- The held write is made, and the next one waits behind the requests that arose before it (R104). -/
def State.ingOne (s : State) : State :=
  match s.ing.writes with
  | [] => { s with ing.heldSince := none }
  | w :: ws =>
    let s := ({ s with ing.writes := ws, ing.heldSince := none }.writePoint w.1 w.2).ingHoldN (s.ing.queue.length + 1)
    s.wr F.ING_STATUS.queue_depth s.ing.queue.length

/-- Make writes and take inputs in order until a write is held or nothing is left; `n` bounds their number. -/
def State.ingRunN (s : State) : Nat → State
  | 0 => s
  | n + 1 =>
    match s.ing.writes with
    | w :: ws =>
      if s.mustHold then
        { s with ing.heldSince := some (s.ing.heldSince.getD s.now) }
      else (({ s with ing.writes := ws, ing.heldSince := none }).writePoint w.1 w.2).ingRunN n
    | [] =>
      if s.on F.ING_STATUS.init_busy then s
      else
        match s.ing.queue with
        | [] => s
        | i :: q => (({ s with ing.queue := q }).startInput i).ingRunN n

/-- Run ingest as far as it goes. -/
def State.ingRun (s : State) : State :=
  if s.unitsHeld then s
  else
    let s := s.ingRunN (s.ing.writes.length + 66 * s.ing.queue.length + 66)
    s.wr F.ING_STATUS.queue_depth s.ing.queue.length

/-- A hold ends: the cores resume with their watchdogs reloaded, and what waits in ingest goes on (R244, R405, R420, R456). -/
def State.unitsResume (s : State) : State := s.reloadDogs.ingRun

/-- Place of an input in the ingest order: the ns at which it entered, then port A, port B, Vertik engine, supervision (R80). -/
def IngestInput.place : IngestInput → Nat
  | .goose port arrival _ => 4 * arrival + port
  | .sv port arrival _ => 4 * arrival + port
  | .vertik c _ => 4 * c.arrival + 2
  | .supervision arrival _ _ => 4 * arrival + 3

/-- Put an input among those that wait, before the ones of its ns that come later in the order (R80). -/
def inOrder (q : List IngestInput) (i : IngestInput) : List IngestInput :=
  let later := fun j : IngestInput => decide (i.place < j.place ∧ j.place / 4 = i.place / 4)
  let tail := (q.reverse.takeWhile later).length
  q.take (q.length - tail) ++ i :: q.drop (q.length - tail)

/-- An input enters ingest, or is discarded with a Degrade fault when 512 wait (R81). -/
def State.ingEnter (s : State) (i : IngestInput) : State :=
  if 512 ≤ s.ing.queue.length then
    let sub := match i with
      | .supervision _ n _ => n
      | _ => 0x1FFF
    let s := (s.discard drQueueFull sub).raise 200
    match i with
    | .vertik c _ => s.vtkFinish c stIngestFull 0 (if c.framed then c.frame else 0)
    | _ => s
  else { s with ing.queue := inOrder s.ing.queue i }.ingRun

/-- A frame enters ingest; during the fill of the point store none is accepted (R78, log 15). -/
def State.ingFrame (s : State) (i : IngestInput) : State :=
  if s.on F.ING_STATUS.init_busy then s.discard drNoSub 0x1FFF else s.ingEnter i

/-- A frame's way to ingest: through a Primary's journal; a Shadow in lockstep holds what its own ports receive; else at once
(R230, R231, R233). A frame that enters is handed to the archive (R402). -/
def State.inputArrives (s : State) (i : IngestInput) (j : JInput) (port : Nat) (raw : List Byte) : State :=
  if s.isPrimary then s.journalIn j
  else if s.locked then { s with tandem.held := s.tandem.held ++ [(s.now, j)] }
  else (s.archiveInput port (nsOf s.now) raw).ingFrame i

/-- GOOSE_FRAME: a frame enters ingest at its arrival_time (R80, R87). -/
def execGooseFrame (t port : Nat) (g : Goose) (s : State) : Result :=
  let s := s.at t
  .next (s.inputArrives (.goose port (nsOf t) g) (.goose port (nsOf t) g) port g.raw)

/-- SV_ASDU: an ASDU enters ingest at its arrival_time (R80, R90). -/
def execSvAsdu (t port : Nat) (a : SvAsdu) (s : State) : Result :=
  let s := s.at t
  .next (s.inputArrives (.sv port (nsOf t) a) (.sv port (nsOf t) a) port a.raw)

/-! ## Supervision (R89, R93) -/

/-- The stale write of a point (R89). -/
def staleUpd : PtUpd := { stale := some true, oldData := true }

/-- Points named by the value leaves of a map, once each, in leaf order. -/
def valuePoints (es : List MapEntry) : List Nat :=
  es.foldl (fun ps e => if e.role = 1 ∧ ps.contains e.point = false then ps ++ [e.point] else ps) []

/-- A supervision input enters ingest, and the archive with it (R80, R89, R402). -/
def State.superviseEnter (s : State) (sub : Nat) (ws : List (Nat × PtUpd)) : State :=
  (s.archiveInput 7 (nsOf s.now) (natLe 8 sub)).ingEnter (.supervision (nsOf s.now) sub ws)

/-- Supervision of subscription g (R89): one whose entry holds an uncorrectable word is passed over, and one whose leaf map does writes
no points (DESIGN CHOICE, log 115). -/
def State.superviseGoose (s : State) (g : Nat) : State :=
  let (m, s) := s.memRead 66 (s.gooseOff g) 128
  let st := leAt m.bytes 104 1
  if m.bad.isEmpty && (st == 1 || st == 3) && decide (leAt m.bytes 96 8 < nsOf s.now) then
    let s := s.setSubState (s.gooseOff g) 104 F.ING_SUB_STATE.goose_stale st 2
    let (lm, s) := s.memRead 66 (leAt m.bytes 20 4) (8 * leAt m.bytes 16 1)
    let es := (List.range (leAt m.bytes 16 1)).map (mapEntry lm.bytes)
    s.superviseEnter g (if lm.bad.isEmpty then (valuePoints es).map (·, staleUpd) else [])
  else s

/-- SUPERVISION_CHECK: every subscription, each 100 µs (R89). -/
def execSupervisionCheck (t : Nat) (s : State) : Result :=
  .next ((List.range 4096).foldl State.superviseGoose (s.at t))

/-- SV_STREAM_TIMEOUT: stream v received nothing for its timeout (R93). -/
def execSvStreamTimeout (t v : Nat) (s : State) : Result :=
  let s := s.at t
  let (m, s) := s.memRead 66 (s.svOff v) 128
  let st := leAt m.bytes 80 1
  .next (if m.bad.isEmpty && (st == 1 || st == 3)
      && decide (leAt m.bytes 72 8 + leAt m.bytes 50 2 * 1000000 ≤ nsOf s.now) then
    let s := s.setSubState (s.svOff v) 80 F.ING_SUB_STATE.sv_stale st 2
    let r := leAt m.bytes 60 4
    let ps := if bit r 31 then [] else ((List.range 8).map (bits r 19 0 + ·)).filter (decide <| · < numPoints)
    s.superviseEnter (4096 + v) (ps.map (·, staleUpd))
  else s)

/-! ## The fill (R78) -/

/-- A write of 1 to ING_CTRL.init; ignored while a fill runs. -/
def State.ingInit (s : State) : State :=
  if s.on F.ING_STATUS.init_busy then s else s.set1 F.ING_STATUS.init_busy

/-- ING_INIT (R78). -/
def execIngInit (t : Nat) (s : State) : Result := .next (s.at t).ingInit

/-- INIT_FILL_COMPLETE: every point holds the initial record, and the inputs that waited run (R78). -/
def execInitFillComplete (t : Nat) (s : State) : Result :=
  let s := s.at t
  .next (if s.on F.ING_STATUS.init_busy then
    let s := (List.range numPoints).foldl (fun s p => s.memWrite 66 (s.pointOff p) PointRec.initial.toBytes) s
    (s.wr F.ING_STATUS.init_busy 0).ingRun
  else s)

end Sys2Proof.Machine
end

