-- ==== Sys2Proof/Machine/Derailleur.lean ====
section
/-! DEFINITION. The Derailleur: places of its queue, rule evaluation, and its photon records (04: R96–R107). How an action
lands is in ActionWrite. -/

namespace Sys2Proof.Machine

/-! ## Queue places (R104) -/

/-- Queue the next point of reeval_all; the one after it arises now. -/
def State.placeReeval (s : State) (p : Nat) : State :=
  let s := s.derPush { point := p, reeval := true }
  if p + 1 < numPoints then { s with der.reevalNext := some (p + 1, s.now) }
  else { s with der.reevalNext := none }.wr F.DER_STATUS.reeval_busy 0

/-- Which of the waiting requests arose first: 1 the held point write, 2 the oldest held DER_REEVAL, 3 reeval_all; ties in
that order (R104). -/
def State.firstWaiter (s : State) : Option Nat :=
  let c := (s.ing.heldSince.map fun t => (t, 1)).toList ++ (s.der.holding.head?.map fun w => (w.since, 2)).toList
    ++ (s.der.reevalNext.map fun p => (p.2, 3)).toList
  (c.foldl (fun b x => match b with
    | none => some x
    | some y => if x.1 < y.1 then some x else some y) none).map (·.2)

/-- A freed place goes to the waiter that arose first; a held point write that takes none leaves it to the next (R104). -/
def State.fillN (s : State) : Nat → State
  | 0 => s
  | n + 1 =>
    if s.derFull then s
    else
      match s.firstWaiter with
      | some 1 => if s.unitsHeld then s else s.ingOne.fillN n
      | some 2 =>
        match s.der.holding with
        | [] => s
        | w :: ws => ({ s with der.holding := ws }.derPush w.entry).fillN n
      | some _ =>
        match s.der.reevalNext with
        | none => s
        | some (p, _) => s.placeReeval p
      | none => s

/-- Take the front entry off the queue and give its place to a waiter: at most the writes and inputs that wait in ingest go by without
taking it. -/
def State.derPop (s : State) : State :=
  let s := { s with der.queue := s.der.queue.drop 1 }.headRecord
  (s.wr F.DER_STATUS.queue_depth s.der.queue.length).fillN (70 + s.ing.writes.length + 66 * s.ing.queue.length)

/-! ## Skips (R99) -/

/-- An ECC skip, its rule latched. -/
def State.skipEcc (s : State) (r : Nat) : State :=
  ((s.satInc F.DER_SKIPPED.ecc).wr F.DER_LAST_SKIP.ecc 1).wr F.DER_LAST_SKIP.rule r

/-- An encoding skip, its rule latched, with its notice (R96, R99, R412). -/
def State.skipEncoding (s : State) (r : Nat) : State :=
  (((s.satInc F.DER_SKIPPED.encoding).wr F.DER_LAST_SKIP.ecc 0).wr F.DER_LAST_SKIP.rule r).raise 220

/-! ## Rules (R97–R99) -/

/-- The Forerunner profile is in force (R2). -/
def State.forerunner (s : State) : Bool := s.on F.GS_MODE_SUMMARY.profile

/-- A rule as stored (R97). -/
structure Rule where
  ctrl : Nat
  constant : Nat
  target : Nat
  vTrue : Nat
  vFalse : Nat
  vBad : Nat
  field : Nat
  deriving DecidableEq, Repr

/-- A rule from its 32 bytes. -/
def Rule.ofBytes (b : List Byte) : Rule :=
  ⟨leAt b 0 4, leAt b 4 8, leAt b 12 4, leAt b 16 4, leAt b 20 4, leAt b 24 4, leAt b 28 4⟩

/-- Fields of ctrl and field. -/
def Rule.enable (r : Rule) : Bool := bit r.ctrl 31
def Rule.cond (r : Rule) : Nat := bits r.ctrl 27 24
def Rule.qualMode (r : Rule) : Nat := bits r.ctrl 23 22
def Rule.outMode (r : Rule) : Nat := bits r.ctrl 21 20
def Rule.action (r : Rule) : Nat := bits r.ctrl 19 16
def Rule.shift (r : Rule) : Nat := bits r.ctrl 15 10
def Rule.width (r : Rule) : Nat := bits r.field 12 8 + 1
def Rule.lsb (r : Rule) : Nat := bits r.field 4 0

/-- The rule fires on the entry (R98). -/
def Rule.fires (r : Rule) (e : DerEntry) : Bool :=
  r.enable && (e.reeval || (bit r.ctrl 30 && e.valueChange) || (bit r.ctrl 29 && e.qualityChange) || bit r.ctrl 28)

/-- The target and field are as the action asks (R100). -/
def Rule.targetOk (r : Rule) (fr : Bool) : Bool :=
  let span := r.lsb + r.width
  let f0 := decide (span ≤ 32) && bits r.field 31 13 == 0 && bits r.field 7 5 == 0
  match r.action with
  | 0 => f0
  | 1 => f0 && r.target % (if fr then 2 else 4) == 0 && bits r.target 31 28 == 0 && (!fr || decide (span ≤ 16))
  | 2 => f0 && bits r.target 31 29 == 0 && bits r.target 23 17 == 0 && bits r.target 1 0 == 0
      && decide (bits r.target 28 24 < 24) && arrayBindable (bits r.target 16 0)
  | 3 => bits r.target 31 9 == 0 && r.field == 0
  | 4 => bits r.target 31 6 == 0 && r.field == 0
  | _ => false

/-- The rule and its record copy hold no reserved code (R99). -/
def Rule.valid (r : Rule) (fr : Bool) (p : PointRec) : Bool :=
  decide (r.cond ≤ 8) && r.qualMode != 3 && r.outMode != 3 && bits r.ctrl 9 0 == 0 && r.targetOk fr
    && decide (p.type < 8)

/-- Quality of a record is bad (R98). -/
def PointRec.bad (p : PointRec) : Bool := p.quality % 4 != 0 || p.stale

/-- Sign of value against constant in the type's domain; none with a NaN (R98). -/
def PointRec.cmp (p : PointRec) (c : Nat) : Option Ordering :=
  if p.type = 3 then some (compare (signed 64 p.value) (signed 64 c))
  else if p.type = 5 then f64Cmp p.value c
  else some (compare p.value c)

/-- The condition of a rule (R98). -/
def Rule.holds (r : Rule) (p : PointRec) : Bool :=
  let c := p.cmp r.constant
  if r.cond = 0 then true
  else if p.type = 0 then false
  else
    match r.cond with
    | 1 => c == some .eq
    | 2 => c != some .eq
    | 3 => c == some .lt
    | 4 => c == some .lt || c == some .eq
    | 5 => c == some .gt
    | 6 => c == some .gt || c == some .eq
    | 7 => p.value &&& r.constant == r.constant
    | _ => p.value &&& r.constant != 0

/-- The operand shifted right (R98): arithmetic for INT and REAL, logical otherwise; as a two's-complement integer. -/
def Rule.operand (r : Rule) (p : PointRec) : Int :=
  if p.type = 3 then asr (signed 64 p.value) r.shift
  else if p.type = 5 then asr (f64ToInt p.value) r.shift
  else ((p.value / 2 ^ r.shift : Nat) : Int)

/-- The output of a fired rule (R98). -/
def Rule.out (r : Rule) (p : PointRec) : Nat :=
  if r.qualMode = 2 ∧ p.bad = true then r.vBad
  else
    let held := r.holds p && !(r.qualMode == 1 && p.bad)
    if !held then r.vFalse
    else if r.outMode = 0 then r.vTrue
    else if r.outMode = 1 then (r.vTrue + wrap 8 (r.operand p)) % 2 ^ 32
    else wrap 32 (r.operand p)

/-! ## Evaluation (R98, R103) -/

/-- Replace the front entry. -/
def State.setFront (s : State) (e : DerEntry) : State := { s with der.queue := e :: s.der.queue.drop 1 }

/-- Bring the front entry to its chain: the trigger entry is read; an entry without rules leaves the queue at once and takes no issue
(R96, R99). -/
def State.openFrontN (s : State) : Nat → State
  | 0 => s
  | n + 1 =>
    match s.der.queue with
    | [] => s
    | e :: _ =>
      if e.chain.isSome then s
      else
        let (m, s) := s.memRead 64 (s.trigOff e.point) 4
        let w := leNat m.bytes
        if !m.bad.isEmpty then ((s.skipEcc (bits w 17 0)).derPop).openFrontN n
        else
          match trigRules w with
          | none => ((s.skipEncoding (bits w 17 0)).derPop).openFrontN n
          | some [] => s.derPop.openFrontN n
          | some rs => s.setFront { e with chain := some rs }

/-- Queue the action of a fired rule until it lands (R100, R103). -/
def State.issueAction (s : State) (e : DerEntry) (p : PointRec) (n : Nat) (r : Rule) : State :=
  if r.action = 0 then s
  else { s with der.actions := s.der.actions ++
    [{ point := e.point, rule := n, action := r.action, target := r.target, lsb := r.lsb, width := r.width,
       out := r.out p, count := p.count, arrival := p.arrival, issued := s.now }] }

/-- Issue rule n of the front entry. -/
def State.issueRule (s : State) (e : DerEntry) (n : Nat) : State :=
  let s := s.wr64 R.DER_EVALS (s.rd64 R.DER_EVALS + 1)
  let (m, s) := s.memRead 64 (s.ruleOff n) 32
  let r := Rule.ofBytes m.bytes
  match m.bad, e.copy with
  | [], some p =>
    if !r.fires e then s
    else if r.valid s.forerunner p then s.issueAction e p n r
    else s.skipEncoding n
  | _, _ => s.skipEcc n

/-- Issue the next rule of the front entry and let the entry go after its last. -/
def State.evalFront (s : State) : State :=
  match s.der.queue with
  | [] => s
  | e :: _ =>
    match e.chain with
    | some (r :: rs) =>
      let s := s.issueRule e r
      if rs.isEmpty then s.derPop else s.setFront { e with chain := some rs }
    | _ => s

/-- RULE_EVALUATION: one issue, every 14 Rim cycles while the queue is not empty (R103). -/
def execRuleEvaluation (t : Nat) (s : State) : Result :=
  let s := s.at t
  .next (if s.unitsHeld ∨ s.derOn = false then s else (s.openFrontN 4097).evalFront)

/-! ## Requests (R104) -/

/-- A DER_REEVAL write: queued, held, or ignored with reason encoding. -/
def State.derReeval (s : State) (p : Nat) : State :=
  if !s.derOn then s.ignoreWrite 0x4005_0000 0x14 0
  else if !s.derFull then s.derPush { point := p, reeval := true }
  else if s.der.holding.length < 64 then
    { s with der.holding := s.der.holding ++ [⟨{ point := p, reeval := true }, s.now⟩] }
  else s.ignoreWrite 0x4005_0000 0x14 0

/-- DER_REEVAL (R104). -/
def execDerReeval (t p : Nat) (s : State) : Result := .next ((s.at t).derReeval p)

/-- A write of 1 to reeval_all: ignored while busy, refused while disabled. -/
def State.reevalAll (s : State) : State :=
  if !s.derOn then s.ignoreWrite 0x4005_0000 0 0
  else if s.on F.DER_STATUS.reeval_busy then s
  else
    let s := { s.set1 F.DER_STATUS.reeval_busy with der.reevalNext := some (0, s.now) }
    if s.derFull then s else s.placeReeval 0

/-- REEVAL_ALL (R104). -/
def execReevalAll (t : Nat) (s : State) : Result := .next (s.at t).reevalAll

/-- Clearing DER_CTRL.enable: both queues empty, a held point write released unqueued, reeval_all ended (R104). -/
def State.derDisable (s : State) : State :=
  let s := (s.wr F.DER_CTRL.enable 0).wr F.DER_STATUS.reeval_busy 0
  let s := { s with der.queue := [], der.holding := [], der.reevalNext := none }
  (s.wr F.DER_STATUS.queue_depth 0).ingRun

/-- DERAILLEUR_DISABLE (R104). -/
def execDerailleurDisable (t : Nat) (s : State) : Result := .next (s.at t).derDisable

/-! ## Photon and effect records (R105–R107) -/

/-- The head's section is present in the image in force (R59). -/
def State.headPresent (s : State) (h : Nat) : Bool := bit s.gs.present (2 + h)

/-- Head state codes: 0 Off, 1 Run, 2 Freewheel, 3 Remote. -/
def State.headState (s : State) (h : Nat) : Nat := s.rd (F.TX_STATUS.state h)

/-- The head counts for no record: absent or Off (R106). -/
def State.headIdle (s : State) (h : Nat) : Bool := !s.headPresent h || s.headState h == 0

/-- The 32 bytes of a record (R105). -/
def photonBytes (p : Photon) (status head line pixel time : Nat) : List Byte :=
  natLe 4 (p.kind * 2 ^ 28 + status * 2 ^ 26 + head * 2 ^ 21 + p.point) ++ natLe 4 p.rule
    ++ natLe 4 (line * 2 ^ 20 + pixel * 2 ^ 7) ++ natLe 4 (p.count * 2 ^ 16) ++ natLe 8 p.arrival ++ natLe 8 time

/-- Write a record into the photon ring and hand it to the Saddlebag (R105). -/
def State.writePhoton (s : State) (p : Photon) (status head line pixel time : Nat) : State :=
  let b := photonBytes p status head line pixel time
  let i := s.rd F.DER_PHOTON_WR.count
  let off := 0x1_0000 * s.rd F.DER_PHOTON.ring_base + i % 2 ^ s.rd F.DER_PHOTON.ring_log2 * 32
  let s := (s.memWrite 65 off b).wrapInc F.DER_PHOTON_WR.count
  s.archive 3 (if p.kind ≤ 1 ∧ status = 0 then head else 0xFF) p.arrival b

/-- Drop a decided record from those that wait. -/
def State.dropPhoton (s : State) (p : Photon) : State := { s with der.photons := s.der.photons.erase p }

/-- The record leaves those that wait and is written as it ended (R105): SHOWN with its pixel and time, else without. -/
def State.endPhoton (s : State) (p : Photon) (e : PhotonEnd) : State :=
  if e.status = 0 then (s.dropPhoton p).writePhoton p 0 e.head e.line e.pixel (nsOf e.time)
  else (s.dropPhoton p).writePhoton p e.status 0 0 0 0

/-- A record written without a pixel or time: 1 NOT_SHOWN, 2 OVERTAKEN. -/
def State.closePhoton (s : State) (status : Nat) (p : Photon) : State := s.endPhoton p ⟨status, s.now, 0, 0, 0⟩

/-- A record of a map entry or array word that another action write overtakes: it is SHOWN when an affected pixel has left (R106). -/
def State.overtake (s : State) (p : Photon) : State := s.endPhoton p (p.ending.getD ⟨2, s.now, 0, 0, 0⟩)

/-- Two records name one target word. -/
def Photon.sameTarget (p q : Photon) : Bool := p.kind == q.kind && p.target == q.target

/-- The sample edge at which a new level of a Derailleur source would first reach the pin: the first one after the landing (R107,
R381). -/
def Photon.edge (p : Photon) : Nat := (p.landed / samplePeriod + 1) * samplePeriod

/-- A later action has changed the line's source before the edge of an earlier one's record (R107). -/
def Photon.lineOvertaken (p q : Photon) (now : Nat) : Photon :=
  if p.sameTarget q && p.ending.isNone && decide (now < p.edge) then { p with ending := some ⟨2, p.edge, 0, 0, 0⟩ } else p

/-- A record begins for an action that changed its target (R105–R107): an earlier one of the same target is overtaken, and with every
head absent or Off one of a map entry or array word is NOT_SHOWN at once. -/
def State.beginPhoton (s : State) (p : Photon) : State :=
  let s := if p.kind ≤ 1 then (s.der.photons.filter (·.sameTarget p)).foldl State.overtake s else s
  let s := if p.kind = 3 then { s with der.photons := s.der.photons.map (·.lineOvertaken p s.now) } else s
  let s := if s.on F.DER_CTRL.photon_en then { s with der.photons := s.der.photons ++ [p] } else s
  if s.on F.DER_CTRL.photon_en ∧ p.kind ≤ 1 ∧ (List.range 24).all s.headIdle = true then s.closePhoton 1 p else s

/-- Every head is absent, Off, or has scanned four whole frames since (R106), and no affected pixel has left. -/
def State.photonPassed (s : State) (p : Photon) : Bool :=
  p.ending.isNone && (List.range 24).all fun h => s.headIdle h || decide (4 ≤ mget (fun _ => 0) p.scanned h)

/-- A frame of head h that began at root count `start` has ended: when the head scanned it whole in Run or Remote it counts for the
records that landed before it; those every head has passed are NOT_SHOWN (R106). -/
def State.photonFrameEnd (s : State) (h start : Nat) (scanned : Bool) : State :=
  let ps := s.der.photons.map fun p =>
    if p.kind ≤ 1 ∧ scanned = true ∧ p.landed < start then
      { p with scanned := mset (fun _ => 0) p.scanned h (mget (fun _ => 0) p.scanned h + 1) }
    else p
  let s := { s with der.photons := ps }
  (s.der.photons.filter fun p => p.kind ≤ 1 && s.photonPassed p).foldl (State.closePhoton · 1) s

/-- An affected pixel leaves now at a place: the earliest one wins, of several at one time that of the lowest head (R106). -/
def Photon.leaves (p : Photon) (now head line pixel : Nat) : Photon :=
  let e : PhotonEnd := ⟨0, now, head, line, pixel⟩
  match p.ending with
  | none => { p with ending := some e }
  | some f => if now = f.time ∧ head < f.head then { p with ending := some e } else p

/-- PHOTON_RECORD: record i of a map entry or array word is written SHOWN once its first affected pixel has left, or NOT_SHOWN when
every head has passed its frames (R105, R106). -/
def execPhotonRecord (t i : Nat) (s : State) : Result :=
  let s := s.at t
  .next (match s.der.photons[i]? with
    | none => s
    | some p =>
      if 1 < p.kind then s
      else
        match p.ending with
        | some e => if e.time < s.now then s.endPhoton p e else s
        | none => if s.photonPassed p then s.closePhoton 1 p else s)

/-- A sample edge decides the kind 3 records whose new level would reach the pin at it (R107): by the direction in effect and the
source enables as held strictly before it. -/
def State.decideLines (s : State) : State :=
  { s with der.photons := s.der.photons.map fun p =>
      if p.kind = 3 ∧ p.ending.isNone = true ∧ p.edge ≤ s.now then
        let shown := bit s.field.dirNow p.target && s.before.on (F.FL_CFG.src_der p.target)
        { p with ending := some ⟨if shown then 0 else 1, p.edge, 0, 0, 0⟩ }
      else p }

/-- FIELD_LINE_EFFECT: the kind 3 record i is written as the sample edge has decided it (R107). -/
def execFieldLineEffect (t i : Nat) (s : State) : Result :=
  let s := s.at t
  .next (match s.der.photons[i]? with
    | some p =>
      match p.ending with
      | some e => if p.kind = 3 ∧ e.time ≤ s.now then s.endPhoton p e else s
      | none => s
    | none => s)

end Sys2Proof.Machine
end

