-- ==== Sys2Proof/Machine/ActionWrite.lean ====
section
/-! DEFINITION. How an action of a fired rule lands, and cue commands of both senders (04: R100–R103, R105; 16: R324, R325). -/

namespace Sys2Proof.Machine

/-- The word an action writes: for a map field the 32-bit word that holds its entry. -/
def DerAction.wordOf (a : DerAction) : Nat × Nat := (a.action, if a.action = 1 then a.target / 4 else a.target)

/-- The record of a landed action (R105). -/
def DerAction.photon (a : DerAction) (now : Nat) : Photon :=
  { kind := a.action - 1, target := a.target, point := a.point, rule := a.rule, count := a.count, arrival := a.arrival, landed := now }

/-- Mask and bits of an action's field. -/
def DerAction.mask (a : DerAction) : Nat := (2 ^ a.width - 1) * 2 ^ a.lsb
def DerAction.bits (a : DerAction) : Nat := a.out % 2 ^ a.width * 2 ^ a.lsb

/-- The action changed its target: its record begins (R105). -/
def State.landed (old s : State) (a : DerAction) (p : State → List Byte) : State :=
  if p old = p s then s else s.beginPhoton (a.photon s.now)

/-- MAP_FIELD (R100, R101): the bound bit, bit 27, or in Forerunner bit 15 of the 16-bit entry, is set too. -/
def State.landMap (s : State) (a : DerAction) : State :=
  let off := a.target / 4 * 4
  let sh := if s.forerunner then 8 * (a.target % 4) else 0
  let bound := if s.forerunner then 2 ^ 15 else 2 ^ 27
  let n := s.memMasked32 65 off ((a.mask ||| bound) * 2 ^ sh) ((a.bits ||| bound) * 2 ^ sh)
  State.landed s n a (·.memBytes off 4)

/-- HEAD_ARRAY (R15, R100, R144). -/
def State.landArray (s : State) (a : DerAction) : State :=
  let w := arrayAddr (Machine.bits a.target 28 24) (Machine.bits a.target 16 0)
  let old := s.arr w
  let s := s.derArray (Machine.bits a.target 28 24) (Machine.bits a.target 16 0) a.mask a.bits
  if s.arr w = old then s else s.beginPhoton { a.photon s.now with old := old, new := s.arr w }

/-- BELL_CUE (R100, R324, R325): every command has its record; one that finds the queue full is not shown (R327). -/
def State.landCue (s : State) (a : DerAction) : State :=
  let p := a.photon s.now
  let s := s.beginPhoton p
  let rec_ := if s.on F.DER_CTRL.photon_en then some p else none
  let (ok, s) := s.cueLands { cue := a.target, arg := a.out % 256, rim := false, landed := s.now, record := rec_ }
  if ok || rec_.isNone then s else s.closePhoton 1 p

/-- FIELD_LINE (R100): the level of the line's Derailleur source. -/
def State.landLine (s : State) (a : DerAction) : State :=
  let n := { s with der.lines := setBit s.der.lines a.target (bit a.out 0) }
  State.landed s n a fun s => [BitVec.ofNat 8 (b2n (bit s.der.lines a.target))]

/-- Pending action n lands: not before an earlier one for the same word (R102), nor sooner than 4 Rim cycles after its issue
(R103). -/
def State.landAction (s : State) (n : Nat) : State :=
  match s.der.actions[n]? with
  | none => s
  | some a =>
    if s.clock.stopped ∨ s.now < a.issued + 32 ∨ (s.der.actions.take n).any (·.wordOf == a.wordOf) = true then s
    else
      let s := { s with der.actions := s.der.actions.eraseIdx n }
      let s := s.wr64 R.DER_ACTIONS ((s.rd64 R.DER_ACTIONS + 1) % 2 ^ 64)
      match a.action with
      | 1 => s.landMap a
      | 2 => s.landArray a
      | 3 => s.landCue a
      | _ => s.landLine a

/-- ACTION_WRITE: the pending action n lands (R100). -/
def execActionWrite (t n : Nat) (s : State) : Result := .next ((s.at t).landAction n)

/-- CUE_COMMAND: the oldest pending BELL_CUE action lands, or a Rim command (R324, R325). -/
def execCueCommand (t cue arg : Nat) (action : Bool) (s : State) : Result :=
  let s := s.at t
  .next (if action then
      match s.der.actions.findIdx? (·.action == 3) with
      | some n => s.landAction n
      | none => s
    else s.cueWrite (cue % 512) (arg % 256))

end Sys2Proof.Machine
end

