-- ==== Sys2Proof/Machine/RegRules.lean ====
section
/-! DEFINITION. The register rules every write meets: which register an address names (R31), what each access code does with
a written word (R11), host-only fields (R30) and the reserved encodings (R35, R66). -/

namespace Sys2Proof.Machine

/-- A register named by an address: its unit and copy, the block's base, its entry, its indexes, and whether the address is
the _HI word of a 64-bit register. -/
structure RegHit where
  unit : UnitKind
  inst : Nat
  base : Nat
  spec : RSpec
  i1 : Nat
  i2 : Nat
  high : Bool
  deriving DecidableEq, Repr

/-- Size of a unit block (R31). -/
def UnitKind.size : UnitKind → Nat
  | .EthPort => 0x8000
  | .DmaU => 0x1000
  | _ => 0x1_0000

/-- The block of a unit that holds an address: its copy and base. -/
def UnitKind.holds (u : UnitKind) (addr : Nat) : Option (Nat × Nat) :=
  let sp := u.spec
  (List.range sp.count).findSome? fun i =>
    let b := sp.base + i * sp.stride
    if b ≤ addr ∧ addr < b + u.size then some (i, b) else none

/-- The unit block that holds an address (R31). -/
def blockOf (addr : Nat) : Option (UnitKind × Nat × Nat) :=
  allUnits.findSome? fun u => (u.holds addr).map fun p => (u, p.1, p.2)

/-- The indexes at which a register entry covers a block offset, and whether it is its _HI word. -/
def RSpec.covers (r : RSpec) (off : Nat) : Option (Nat × Nat × Bool) :=
  if off < r.off then none
  else
    let d := off - r.off
    let i1 := d / r.st1
    let d1 := d % r.st1
    let i2 := if r.n2 ≤ 1 then 0 else d1 / r.st2
    let d2 := if r.n2 ≤ 1 then d1 else d1 % r.st2
    if i1 < r.n1 ∧ i2 < max r.n2 1 then
      if d2 = 0 then some (i1, i2, false) else if d2 = 4 ∧ r.wide = true then some (i1, i2, true) else none
    else none

/-- The register at an aligned address. -/
def findReg (addr : Nat) : Option RegHit :=
  match blockOf addr with
  | none => none
  | some (u, i, b) =>
    (commonRegs ++ unitRegs u).findSome? fun r =>
      (r.covers (addr - b)).map fun p => ⟨u, i, b, r, p.1, p.2.1, p.2.2⟩

/-- The fields of the word an address names, as bits of that word. -/
def RegHit.fields (r : RegHit) : List FSpec :=
  if !r.spec.wide then r.spec.fields
  else r.spec.fields.filterMap fun f =>
    if r.high then
      if f.hi < 32 then none else some { f with hi := f.hi - 32, lo := f.lo - 32 }
    else if 32 ≤ f.lo then none else some { f with hi := min f.hi 31 }

/-- A write changes or acts on the field (R35). -/
def Acc.writable : Acc → Bool
  | .rw | .wo | .w1c | .w1s => true
  | _ => false

/-- Some write has an effect on the register (R35). -/
def RegHit.writable (r : RegHit) : Bool := r.spec.fields.any (·.acc.writable)

/-- What one field makes of a written word (R11): a WO field stores nothing. -/
def FSpec.apply (f : FSpec) (host : Bool) (old new : Word) : Word :=
  let o := getBits old f.hi f.lo
  let n := getBits new f.hi f.lo
  if f.host && !host then old
  else
    match f.acc with
    | .rw => setBits old f.hi f.lo n
    | .w1c => setBits old f.hi f.lo (o &&& (2 ^ (f.hi + 1 - f.lo) - 1 - n))
    | .w1s => setBits old f.hi f.lo (o ||| n)
    | _ => old

/-- The word a write leaves (R11, R30, R34). -/
def applyWrite (fs : List FSpec) (host : Bool) (old new : Word) : Word := fs.foldl (fun w f => f.apply host w new) old

/-- A master other than the host would have acted on a host-only field (R30). -/
def hostBlocked (fs : List FSpec) (old new : Word) : Bool :=
  fs.any fun f => f.host && match f.acc with
    | .wo | .w1s => getBits new f.hi f.lo != 0
    | .w1c => getBits new f.hi f.lo &&& getBits old f.hi f.lo != 0
    | _ => getBits new f.hi f.lo != getBits old f.hi f.lo

/-- The word holds a reserved encoding in a control field (R35, R66); `i` is the register's index. -/
def reservedEnc (id : RegId) (i : Nat) (w : Word) : Bool :=
  let f := getBits w
  match id with
  | .HUB_CTRL => decide (8 < f 3 0)
  | .GS_STAGE_PTR => decide (0x18_0000 ≤ f 22 2)
  | .LL_CTRL => !(decide (5 ≤ f 27 24 ∧ f 27 24 ≤ 12)) || !(decide (5 ≤ f 23 20 ∧ f 23 20 ≤ 12)) || decide (4 ≤ f 2 0)
  | .TT_CTRL => decide (64 < f 23 16)
  | .CMP_LAYER | .CMP_SPRITE | .CMP_TRACE => f 9 8 == 3
  | .BEAM_EVENT => f 31 30 == 3
  | .TX_TE => f 7 0 == 0
  | .TX_TEST => decide (4 ≤ f 6 4 ∨ 5 ≤ f 2 0)
  | .CHAIN_CTRL => f 7 0 == 0
  | .ETH_VLAN => f 31 31 == 1 && (f 11 0 == 0 || f 11 0 == 4095)
  | .ODO_SERVO => f 7 0 == 0 || decide (200 ≤ f 7 0)
  | .BLT_Q_BASE => decide (f 3 0 < 4 ∨ 10 < f 3 0)
  | .BELL_CTRL => f 3 2 == 0 || f 1 0 == 0
  | .BELL_SINK => decide (0x80 ≤ f 7 0 ∧ f 7 0 ≤ 0xFE)
  | .BELL_BUS => decide (13 ≤ f 27 24)
  | .TMR_CTRL => f 27 26 == 3 || (f 27 26 == 2 && i % 2 == 0)
  | .SB_READ_CTRL => decide (2048 ≤ f 11 0)
  | .FAULT_QUIET => f 13 0 == 0 || decide (10000 < f 13 0)
  | .FAULT_INJECT => (faultFloor (f 8 0)).isNone || decide (f 24 9 < 2)
  | .WDOG_CTRL => f 19 0 == 0
  | .FAULT_SRC => decide (f 31 30 < (faultFloor i).getD 0)
  | .CPR_CTRL => f 1 0 == 3
  | .KICK_NEXT_START => f 1 0 == 3
  | _ => false

/-- A Rim write of `w` puts a reserved encoding into a field it reaches (R35): fields that only the Groupset loads are not
reached. -/
def writesReserved (id : RegId) (i : Nat) (w : Word) : Bool :=
  match id with
  | .LL_CTRL | .TT_CTRL | .FAULT_SRC | .WDOG_CTRL | .CHAIN_CTRL | .ETH_VLAN | .ODO_SERVO | .BELL_BUS => false
  | .BELL_CTRL => getBits w 1 0 == 0
  | _ => reservedEnc id i w

end Sys2Proof.Machine
end

