-- ==== Sys2Proof/Machine/Curve25519.lean ====
section
/-! DEFINITION. Ed25519 (RFC 8032) and X25519 (RFC 7748), over which the spec states its signatures and key agreements (14: R285; 23: R427;
log 9). Field elements are numbers below 2^255 − 19. -/

namespace Sys2Proof.Machine

namespace Curve

/-- The prime of the field, and the order of the base point. -/
def p : Nat := 2 ^ 255 - 19
def order : Nat := 2 ^ 252 + 27742317777372353535851937790883648493

def add (a b : Nat) : Nat := (a + b) % p
def sub (a b : Nat) : Nat := (a + p - b) % p
def mul (a b : Nat) : Nat := a * b % p

/-- Bits n − 1 to 0 of a number, highest first. -/
def bitsDown : Nat → Nat → List Bool
  | 0, _ => []
  | n + 1, e => e.testBit n :: bitsDown n e

/-- Power by the bits of the exponent, highest first. -/
def powBits (a : Nat) : List Bool → Nat → Nat
  | [], acc => acc
  | b :: bs, acc =>
    let q := mul acc acc
    powBits a bs (if b then mul q a else q)

def pow (a e : Nat) : Nat := powBits a (bitsDown 255 e) 1

def inv (a : Nat) : Nat := pow a (p - 2)

/-- Constants of the curve −x² + y² = 1 + d x² y² (RFC 8032 5.1), and a square root of −1. -/
def d : Nat := 37095705934669439343138083508754565189542113879843219016388785533085940283555
def rootM1 : Nat := 19681161376707505956807079304988542015446066515923890162744021073123829784752

/-- A point in extended coordinates. -/
structure Pt where
  x : Nat
  y : Nat
  z : Nat
  t : Nat
  deriving DecidableEq, Repr

def zero : Pt := ⟨0, 1, 1, 0⟩

def base : Pt :=
  let x := 15112221349535400772501151409588531511454012693041857206046113283949847762202
  let y := 46316835694926478169428394003475163141307993866256225615783033603165251855960
  ⟨x, y, 1, mul x y⟩

/-- Sum of two points (RFC 8032 5.1.4). -/
def Pt.add (v w : Pt) : Pt :=
  let a := mul (sub v.y v.x) (sub w.y w.x)
  let b := mul (Curve.add v.y v.x) (Curve.add w.y w.x)
  let c := mul (mul v.t (2 * d)) w.t
  let e := mul (2 * v.z) w.z
  let f := sub b a
  let g := sub e c
  let h := Curve.add e c
  let i := Curve.add b a
  ⟨mul f g, mul h i, mul g h, mul f i⟩

/-- Multiple of a point by the bits of the factor, highest first. -/
def Pt.timesBits (v : Pt) : List Bool → Pt → Pt
  | [], acc => acc
  | b :: bs, acc =>
    let q := acc.add acc
    v.timesBits bs (if b then q.add v else q)

def Pt.times (v : Pt) (n : Nat) : Pt := v.timesBits (bitsDown 256 n) zero

/-- Two points are the same. -/
def Pt.same (v w : Pt) : Bool := mul v.x w.z == mul w.x v.z && mul v.y w.z == mul w.y v.z

/-- The 32 bytes of a point (RFC 8032 5.1.2). -/
def Pt.bytes (v : Pt) : List Byte :=
  let zi := inv v.z
  natLe 32 (mul v.y zi + mul v.x zi % 2 * 2 ^ 255)

/-- The x of a point with this y, even or odd as `odd` says (RFC 8032 5.1.3). -/
def xOf (y : Nat) (odd : Bool) : Option Nat :=
  let u := sub (mul y y) 1
  let v := Curve.add (mul d (mul y y)) 1
  let v3 := mul v (mul v v)
  let x := mul (mul u v3) (pow (mul u (mul v (mul v3 v3))) ((p - 5) / 8))
  let s := mul v (mul x x)
  let x := if s = u then some x else if s = sub 0 u then some (mul x rootM1) else none
  x.bind fun (x : Nat) => if x = 0 ∧ odd = true then none else some (if (x % 2 == 1) == odd then x else p - x)

/-- The point that 32 bytes name, if any. -/
def ptOf (b : List Byte) : Option Pt :=
  let n := leNat b
  let y := n % 2 ^ 255
  if b.length ≠ 32 ∨ p ≤ y then none
  else (xOf y (n.testBit 255)).map fun (x : Nat) => ⟨x, y, 1, mul x y⟩

/-- A private scalar: bits 2 to 0 and 255 clear, bit 254 set. -/
def clamp (n : Nat) : Nat := n % 2 ^ 254 / 8 * 8 + 2 ^ 254

/-- Both coordinates of the Montgomery ladder of X25519 (RFC 7748 5), x2 over z2 and x3 over z3. -/
structure Ladder where
  x2 : Nat
  z2 : Nat
  x3 : Nat
  z3 : Nat

/-- The ladder's two sides exchanged. -/
def Ladder.swap (l : Ladder) (b : Bool) : Ladder := if b then ⟨l.x3, l.z3, l.x2, l.z2⟩ else l

def Ladder.step (u : Nat) (l : Ladder) : Ladder :=
  let a := Curve.add l.x2 l.z2
  let aa := mul a a
  let b := sub l.x2 l.z2
  let bb := mul b b
  let e := sub aa bb
  let da := mul (sub l.x3 l.z3) a
  let cb := mul (Curve.add l.x3 l.z3) b
  let s := Curve.add da cb
  let f := sub da cb
  ⟨mul aa bb, mul e (Curve.add aa (mul 121665 e)), mul s s, mul u (mul f f)⟩

def Ladder.run (u : Nat) : List Bool → Ladder → Ladder
  | [], l => l
  | b :: bs, l => Ladder.run u bs (((l.swap b).step u).swap b)

end Curve

/-- X25519 of a private scalar and a u-coordinate, 32 bytes each (RFC 7748 5). -/
@[irreducible] def x25519 (priv pub : List Byte) : List Byte :=
  let u := leNat (pub.take 32) % 2 ^ 255 % Curve.p
  let l := Curve.Ladder.run u (Curve.bitsDown 255 (Curve.clamp (leNat (priv.take 32)))) ⟨1, 0, u, 1⟩
  natLe 32 (Curve.mul l.x2 (Curve.inv l.z2))

/-- Ed25519 public key of a 32-byte seed (RFC 8032 5.1.5). -/
@[irreducible] def ed25519Public (seed : List Byte) : List Byte :=
  (Curve.base.times (Curve.clamp (leNat ((sha512 seed).take 32)))).bytes

/-- Ed25519 signature of a message with the key of a seed (RFC 8032 5.1.6). -/
@[irreducible] def ed25519Sign (seed m : List Byte) : List Byte :=
  let h := sha512 seed
  let a := Curve.clamp (leNat (h.take 32))
  let r := leNat (sha512 (h.drop 32 ++ m)) % Curve.order
  let rb := (Curve.base.times r).bytes
  let k := leNat (sha512 (rb ++ (Curve.base.times a).bytes ++ m)) % Curve.order
  rb ++ natLe 32 ((r + k * a) % Curve.order)

/-- Ed25519 verification of a signature over a message under a public key (RFC 8032 5.1.7), with the cofactor (log 9). -/
@[irreducible] def ed25519Verify (pub m sig : List Byte) : Bool :=
  let s := leNat (sig.drop 32)
  match Curve.ptOf pub, Curve.ptOf (sig.take 32) with
  | some a, some r =>
    let k := leNat (sha512 (sig.take 32 ++ pub ++ m)) % Curve.order
    sig.length == 64 && decide (s < Curve.order)
      && ((Curve.base.times s).times 8).same ((r.add (a.times k)).times 8)
  | _, _ => false

end Sys2Proof.Machine
end

