-- ==== Sys2Proof/Machine/SecOps.lean ====
section
/-! DEFINITION. What the OTP and its keys say: generations, security state, owner and host keys, and the registers that report
them (23: R422–R430). -/

namespace Sys2Proof.Machine

/-- The 1,024 bytes of generation g. -/
def State.genBytes (s : State) (g : Nat) : List Byte := slice (mget (fun _ => []) s.sec.gens g) 0 1024

/-- Host key slot i of a generation: its 36 bytes (R424). -/
def slotOf (b : List Byte) (i : Nat) : List Byte := slice b (144 + 36 * i) 36

/-- Bytes are all zero. -/
def allZero (b : List Byte) : Bool := b.all (· == 0#8)

/-- Every field of a generation holds a permitted value (R424). -/
def genFieldsOk (b : List Byte) : Bool :=
  slice b 0 4 == [0x4F#8, 0x54#8, 0x50#8, 0x47#8] && leAt b 4 2 == 1
    && (decide (leAt b 7 1 < 24) || leAt b 7 1 == 0xFF) && decide (leAt b 8 1 ≤ 3) && decide (1 ≤ leAt b 9 1)
    && leAt b 12 4 % 65536 == 0 && allZero (slice b 32 16) && allZero (slice b 720 240)
    && (List.range 16).all fun i =>
      let k := slotOf b i
      decide (leAt k 32 1 ≤ 7) && decide (leAt k 33 1 < 16) && leAt k 34 2 == 0

/-- The seal of a generation matches (R424). -/
def genSealOk (b : List Byte) : Bool := slice b 960 64 == sha512 (slice b 0 960)

/-- Generation g is valid (R424). -/
def State.genValid (s : State) (g : Nat) : Bool :=
  bit s.sec.begun g && genSealOk (s.genBytes g) && genFieldsOk (s.genBytes g)

/-- Generation g is damaged (R424). -/
def State.genDamaged (s : State) (g : Nat) : Bool := bit s.sec.begun g && !s.genValid g

/-- The generation in use by the OTP: the lowest valid one not retired (R425). -/
def State.genInUse (s : State) : Option Nat :=
  (List.range 4).find? fun g => s.genValid g && !bit s.sec.retired g

/-- The security state: 0 Factory, 1 Provisioned, 2 Locked (R423). -/
def State.secState (s : State) : Nat := if s.sec.lock then 2 else if s.sec.begun = 0 then 0 else 1

/-- Bytes of the generation in force. -/
def State.inForceBytes (s : State) : Option (List Byte) := s.sec.inForce.map s.genBytes

/-- The owner's public key (R427). -/
def State.ownerPub (s : State) : Option (List Byte) := s.inForceBytes.map fun b => slice b 48 32

/-- The endorsement of this chip (R424). -/
def State.endorsement (s : State) : List Byte := (s.inForceBytes.map fun b => slice b 80 64).getD []

/-- Identity public key (R427). -/
def State.idPub (s : State) : List Byte := ed25519Public s.sec.seed

/-- Sign with the identity key. -/
def State.idSign (s : State) (m : List Byte) : List Byte := ed25519Sign s.sec.seed m

/-- record_key in force; 0 none (R430). -/
def State.recordKey (s : State) : Nat := (s.inForceBytes.map fun b => leAt b 6 1).getD 0

/-- Seed of record-signing key i (R427). -/
def State.recordSeed (s : State) (i : Nat) : List Byte := first32 (ascii "RKEY" ++ s.sec.seed ++ natLe 1 i)

/-- Key, priority and permissions of host slot i: in Factory slot 0 holds prov_key, or any key in open provisioning, with
priority 7 and every permission (R423, R427, R433). -/
def State.hostSlot (s : State) (i : Nat) : Option (Option (List Byte) × Nat × Nat) :=
  if s.secState = 0 then
    if i ≠ 0 then none
    else
      match s.sec.provKey with
      | some k => some (some k, 7, 15)
      | none => if s.sec.openProv then some (none, 7, 15) else none
  else
    match s.inForceBytes with
    | none => none
    | some b =>
      let k := slotOf b i
      if 16 ≤ i ∨ allZero (slice k 0 32) = true then none else some (some (slice k 0 32), leAt k 32 1, leAt k 33 1)

/-- A signature holds under the owner's key. -/
def State.ownerSigned (s : State) (m sig : List Byte) : Bool :=
  match s.ownerPub with
  | none => false
  | some k => ed25519Verify k m sig

/-- A bit for each generation that a test names. -/
def genMask (p : Nat → Bool) : Nat := ((List.range 4).map fun g => b2n (p g) * 2 ^ g).sum

/-- Store 8 words of a key, first byte lowest. -/
def State.setKeyRegs (s : State) (a : Nat → Nat) (k : List Byte) : State :=
  (List.range 8).foldl (fun s i => s.setReg (a i) (BitVec.ofNat 32 (leAt k (4 * i) 4))) s

/-- The registers that report the OTP and the keys in force: SEC_STATE, SEC_ID, SEC_RKEY, GS_MODE_SUMMARY.security and
CHAIN_STATUS's key (R423, R430). -/
def State.secRefresh (s : State) : State :=
  let s := (s.wr F.SEC_STATE.state s.secState).wr F.GS_MODE_SUMMARY.security s.secState
  let s := s.wr F.SEC_STATE.gen (s.sec.inForce.getD 0)
  let s := (s.wr F.SEC_STATE.valid (genMask s.genValid)).wr F.SEC_STATE.damaged (genMask s.genDamaged)
  let s := (s.wr F.SEC_STATE.retired s.sec.retired).wr F.SEC_STATE.rollback s.sec.rollback
  let k := s.recordKey
  let s := (s.wr F.SEC_STATE.record_key k).wr F.CHAIN_STATUS.key_index k
  let s := s.wr F.CHAIN_STATUS.key_loaded (b2n (k != 0 && s.secState != 0))
  let s := s.setKeyRegs R.SEC_ID s.idPub
  s.setKeyRegs R.SEC_RKEY (if k = 0 then [] else ed25519Public (s.recordSeed k))

end Sys2Proof.Machine
end

