-- ==== Sys2Proof/Machine/GsCheck.lean ====
section
/-! DEFINITION. The Groupset image (03: R56–R60) and the device check of it (R64–R66, with the limits other chapters set:
R50–R54, R83, R164, R185, R200, R201, R210, R221, R253, R299, R336, R356). -/

namespace Sys2Proof.Machine

/-! ## The image -/

/-- A record of a section (R60). -/
structure GsRec where
  kind : Nat
  target : Nat
  words : List Nat
  deriving DecidableEq, Repr

/-- A section with its entry of the table (R59) and its words. -/
structure GsSec where
  type : Nat
  inst : Nat
  absent : Bool
  version : Nat
  words : List Nat
  deriving DecidableEq, Repr

/-- Why an image is rejected: reason, section index, record index (R66). -/
structure GsFail where
  reason : Nat
  sect : Nat
  record : Nat
  deriving DecidableEq, Repr

/-- The 73 units of a whole image in table order (R58). -/
def allSections : List (Nat × Nat) :=
  [(1, 0), (2, 0)] ++ (List.range 24).map (3, ·) ++ (List.range 32).map (4, ·) ++ [(5, 0), (6, 0), (7, 0)]
    ++ (List.range 8).map (8, ·) ++ [(9, 0), (10, 0), (11, 0), (11, 1)]

/-- Section index of a unit. -/
def sectionIndex (type inst : Nat) : Nat := (allSections.idxOf? (type, inst)).getD 73

/-- Word i of a store. -/
def storeWord (m : SMap Word) (i : Nat) : Nat := (mget (fun _ => 0#32) m i).toNat

/-- `n` words of a store from word i. -/
def storeWords (m : SMap Word) : Nat → Nat → List Nat
  | _, 0 => []
  | i, n + 1 => storeWord m i :: storeWords m (i + 1) n

/-- Bytes of words. -/
def wordsBytes (ws : List Nat) : List Byte := ws.flatMap (natLe 4)

/-- Bytes of a store from word i. -/
def storeBytes (m : SMap Word) (i n : Nat) : List Byte := wordsBytes (storeWords m i n)

/-- Header fields (R58), by word. -/
def gsMagic : Nat := 0x54455347
def gsFlags (m : SMap Word) : Nat := bits (storeWord m 1) 31 16
def gsLength (m : SMap Word) : Nat := storeWord m 2
def gsCount (m : SMap Word) : Nat := bits (storeWord m 3) 15 0
def gsVersion (m : SMap Word) : Nat := storeWord m 4
def gsBaseDigest (m : SMap Word) : List Byte := storeBytes m 8 16
def gsBodyDigest (m : SMap Word) : List Byte := storeBytes m 24 16
def gsSignature (m : SMap Word) : List Byte := storeBytes m 40 16
def gsPartial (m : SMap Word) : Bool := bit (gsFlags m) 0

/-- The header is well formed (R58). -/
def gsHeaderOk (m : SMap Word) : Bool :=
  storeWord m 0 == gsMagic && bits (storeWord m 1) 15 0 == 1 && decide (gsFlags m < 2)
    && gsLength m % 8 == 0 && decide (gsLength m ≤ 6291456) && decide (1 ≤ gsCount m ∧ gsCount m ≤ 73)
    && decide (256 + 16 * gsCount m ≤ gsLength m) && bits (storeWord m 3) 31 16 == 0 && storeWord m 7 == 0
    && (storeWords m 56 8).all (· == 0) && (gsPartial m || allZero (gsBaseDigest m))

/-- Entry j of the section table: type, number, flags, offset, length, version. -/
def gsEntry (m : SMap Word) (j : Nat) : Nat × Nat × Nat × Nat × Nat × Nat :=
  let w := storeWord m (64 + 4 * j)
  (bits w 7 0, bits w 15 8, bits w 31 16, storeWord m (65 + 4 * j), storeWord m (66 + 4 * j), storeWord m (67 + 4 * j))

/-- A unit of this type may be absent (R59). -/
def mayBeAbsent (type : Nat) : Bool := type == 3 || type == 4 || type == 8 || type == 11

/-- Entry j is well formed and follows the one before it (R59). -/
def gsEntryOk (m : SMap Word) (j : Nat) : Bool :=
  let (ty, inst, fl, off, len, _) := gsEntry m j
  let prev := gsEntry m (j - 1)
  allSections.contains (ty, inst) && decide (fl < 2) && off % 8 == 0 && len % 8 == 0 && (fl == 0 || (len == 0 && mayBeAbsent ty))
    && (fl == 1 || decide (256 + 16 * gsCount m ≤ off ∧ off + len ≤ gsLength m ∧ 0 < len))
    && (j == 0 || decide (prev.1 * 256 + prev.2.1 < 256 * ty + inst))

/-- The sections of an image whose table is well formed. -/
def gsSections (m : SMap Word) : List GsSec :=
  (List.range (gsCount m)).map fun j =>
    let (ty, inst, fl, off, len, ver) := gsEntry m j
    ⟨ty, inst, fl == 1, ver, storeWords m (off / 4) (len / 4)⟩

/-- The records of a section, or the index of the record that is malformed: an END closes it and nothing follows (R60). -/
def parseRecs : Nat → Nat → List Nat → Except Nat (List GsRec)
  | 0, i, _ => .error i
  | _ + 1, i, [] => .error i
  | _ + 1, i, [_] => .error i
  | n + 1, i, h :: t :: rest =>
    let k := bits h 7 0
    let c := bits h 31 16
    if bits h 15 8 ≠ 0 ∨ rest.length < c then .error i
    else if k = 0 then (if c = 0 ∧ t = 0 ∧ rest = [] then .ok [] else .error i)
    else
      match parseRecs n (i + 1) (rest.drop c) with
      | .error e => .error e
      | .ok rs => .ok (⟨k, t, rest.take c⟩ :: rs)

/-- Records of a section; none where it is absent or malformed. -/
def GsSec.recs (g : GsSec) : List GsRec :=
  match parseRecs (g.words.length + 1) 0 g.words with
  | .ok rs => rs
  | .error _ => []

/-- Rim base and size of the register block a section's REG records address (R60; the chip section's reach, log 17). -/
def secBase (type inst : Nat) : Nat × Nat :=
  match type with
  | 1 => (0x4000_0000, 0x0100_0000)
  | 2 => (0x403E_0000, 0x1_0000)
  | 3 => (0x4010_0000 + 0x1_0000 * inst, 0x1_0000)
  | 5 => (0x4035_0000, 0x1_0000)
  | 6 => (0x4039_0000, 0x1_0000)
  | 7 => (0x4034_0000, 0x1_0000)
  | 8 => (0x4036_0000 + 0x1000 * inst, 0x1000)
  | 9 => (0x4037_0000, 0x1_0000)
  | 10 => (0x4004_0000, 0x2_0000)
  | 11 => (0x4001_0000 + 0x8000 * inst, 0x8000)
  | _ => (0, 0)

/-- Chip-section words that no register holds: chip T0 and Tf, low words first (log 17). -/
def chipSchedWord (a : Nat) : Bool := decide (0x4000_0080 ≤ a ∧ a < 0x4000_0090 ∧ a % 4 = 0)

/-- A register address that a REG record may name: a register with a field that the Groupset gives (R56), and the selector of
Bell's crosspoints (log 30). DESIGN CHOICE (log 100): a record that names another register, or a hole, is a format error. -/
def gsLoads (a : Nat) : Bool :=
  match findReg a with
  | some r => r.fields.any (·.gs) || a == R.BELL_XP_SEL
  | none => false

/-- The (address, word) pairs of a REG record. -/
def GsRec.regs (base : Nat) (r : GsRec) : List (Nat × Nat) :=
  r.words.zipIdx.map fun p => (base + r.target + 4 * p.2, p.1)

/-- The register words of a section, in record order. -/
def GsSec.regs (g : GsSec) : List (Nat × Nat) :=
  (g.recs.filter (·.kind == 1)).flatMap (GsRec.regs (secBase g.type g.inst).1)

/-- A record stands where its kind may (R60). -/
def GsRec.placed (g : GsSec) (r : GsRec) : Bool :=
  match r.kind with
  | 1 => g.type != 4 && r.target % 4 == 0 && decide (r.target + 4 * r.words.length ≤ (secBase g.type g.inst).2)
      && (r.regs (secBase g.type g.inst).1).all fun p => gsLoads p.1 || (g.type == 1 && chipSchedWord p.1)
  | 2 => g.type == 4 && r.target % 4 == 0 && decide (r.target + 4 * r.words.length ≤ 0x2_0000)
  | 3 => g.type == 3 && r.target == 0 && r.words.length == 16
  | 4 => g.type == 2 && decide (r.target < 32) && r.words.length == 64
  | 5 => g.type == 2 && decide (r.target < 64) && r.words.length == 4 && r.words.getD 3 0 == 0
  | 6 => g.type == 4 && r.target == 0 && r.words.length == 1 && bits (r.words.getD 0 0) 31 20 == 0
      && bits (r.words.getD 0 0) 1 0 == 0
  | _ => false

/-- The records a section must hold exactly once (R60). DESIGN CHOICE (log 100): two REGION records for one region are a format
error. -/
def GsSec.counts (g : GsSec) (rs : List GsRec) : Bool :=
  let n := fun k t => (rs.filter fun r => r.kind == k && r.target == t).length
  match g.type with
  | 2 => (List.range 32).all (fun b => n 4 b == 1) && (List.range 64).all fun r => decide (n 5 r ≤ 1)
  | 3 => n 3 0 == 1
  | 4 => n 6 0 == 1
  | _ => true

/-- Format of one present section: the index of its first bad record (R60). -/
def GsSec.formatFail (g : GsSec) : Option Nat :=
  if g.absent then none
  else
    match parseRecs (g.words.length + 1) 0 g.words with
    | .error i => some i
    | .ok rs =>
      match rs.findIdx? fun r => !r.placed g with
      | some i => some i
      | none => if g.counts rs then none else some rs.length

/-- First failure over sections. -/
def firstFail (reason : Nat) (secs : List GsSec) (f : GsSec → Option Nat) : Option GsFail :=
  secs.zipIdx.findSome? fun p => (f p.1).map fun r => ⟨reason, p.2, r⟩

/-- The format check of a staged image (reason 0x1). -/
def gsFormat (m : SMap Word) : Option GsFail :=
  if !gsHeaderOk m then some ⟨1, 0, 0⟩
  else
    match (List.range (gsCount m)).find? fun j => !gsEntryOk m j with
    | some j => some ⟨1, j, 0⟩
    | none =>
      if !gsPartial m && (gsSections m).map (fun g => (g.type, g.inst)) != allSections then some ⟨1, 0, 0⟩
      else firstFail 1 (gsSections m) GsSec.formatFail

/-! ## Composition of a partial image (R64) -/

/-- The amended whole image's sections: those of the partial image over those of the active store. -/
def composeSections (act part : List GsSec) : List GsSec :=
  allSections.filterMap fun u =>
    match part.find? fun g => (g.type, g.inst) == u with
    | some g => some g
    | none => act.find? fun g => (g.type, g.inst) == u

/-- Table and sections of a whole image in packed form, from byte offset 256. -/
def packBody (secs : List GsSec) : List Nat :=
  let start := 256 + 16 * secs.length
  let table := (secs.foldl (fun (acc : List Nat × Nat) g =>
    let len := 4 * g.words.length
    (acc.1 ++ [g.type + 256 * g.inst + 65536 * b2n g.absent, if g.absent then 0 else acc.2, len, g.version], acc.2 + len))
    ([], start)).1
  table ++ secs.flatMap (·.words)

/-- Whole image of composed sections, with the security version and build of the partial image's header. DESIGN CHOICE (log 101): the
spec gives no layout of a composition; the sections are packed in table order, an absent one at offset 0. -/
def packImage (m : SMap Word) (secs : List GsSec) : List Nat :=
  let body := packBody secs
  [gsMagic, 1, 256 + 4 * body.length, secs.length, storeWord m 4, storeWord m 5, storeWord m 6, 0]
    ++ List.replicate 16 0
    ++ (List.range 16).map (fun i => leAt (sha512 (wordsBytes body)) (4 * i) 4) ++ List.replicate 24 0 ++ body

/-- A store that holds the words. -/
def storeOf (ws : List Nat) : SMap Word :=
  (ws.zipIdx.filter (·.1 != 0)).map fun p => (p.2, BitVec.ofNat 32 p.1)

/-! ## The settings of an image -/

/-- A register word of the image: the last one recorded, else the register's reset word (R56). -/
def imgReg (rs : List (Nat × Nat)) (a : Nat) : Word :=
  match (rs.filter (·.1 == a)).getLast? with
  | some p => BitVec.ofNat 32 p.2
  | none => resetWord a

/-- A field of the image. -/
def imgFld (rs : List (Nat × Nat)) (f : Fld) : Nat := getBits (imgReg rs f.reg) f.hi f.lo

/-- A section of a whole image. -/
def secOf (secs : List GsSec) (type inst : Nat) : Option GsSec := secs.find? fun g => g.type == type && g.inst == inst

/-- The section is present. -/
def secPresent (secs : List GsSec) (type inst : Nat) : Bool := ((secOf secs type inst).map (!·.absent)).getD false

/-- Register words of a section. -/
def secRegs (secs : List GsSec) (type inst : Nat) : List (Nat × Nat) := ((secOf secs type inst).map (·.regs)).getD []

/-- Requestor of round cycle j of bank b (R49, R60). -/
def imgSched (hub : List GsRec) (b j : Nat) : Nat :=
  match hub.find? fun r => r.kind == 4 && r.target == b with
  | none => 127
  | some r => bits (r.words.getD (j / 4) 0) (8 * (j % 4) + 7) (8 * (j % 4))

/-- Declared demand D(h, b) of a head section (R60). -/
def secDemand (rs : List GsRec) (b : Nat) : Nat :=
  match rs.find? (·.kind == 3) with
  | none => 0
  | some r => bits (r.words.getD (b / 2) 0) (16 * (b % 2) + 15) (16 * (b % 2))

/-! ## Checks (R64) -/

/-- Index of the last REG record that gives the register at an address; 0 when none does (R66). -/
def GsSec.recordOf (g : GsSec) (a : Nat) : Nat :=
  let rs := g.recs
  let gives := fun i => match rs[i]? with
    | some r => r.kind == 1 && (r.regs (secBase g.type g.inst).1).any (·.1 == a)
    | none => false
  (((List.range rs.length).filter gives).getLast?).getD 0

/-- A failure at the record of section (type, inst) that gives register a (R66). -/
def failAt (reason : Nat) (secs : List GsSec) (type inst a : Nat) : GsFail :=
  ⟨reason, sectionIndex type inst, ((secOf secs type inst).map (·.recordOf a)).getD 0⟩

/-- No reserved encoding in any REG word (reason 0x6; R35, R148). -/
def reservedFail (g : GsSec) : Option Nat :=
  let base := (secBase g.type g.inst).1
  let bad := g.recs.findIdx? fun r => r.kind == 1 && (r.regs base).any fun p =>
    match findReg p.1 with
    | some q => reservedEnc q.spec.id q.i1 (BitVec.ofNat 32 p.2)
    | none => false
  match bad with
  | some i => some i
  | none =>
    let rs := g.regs
    let h := g.inst
    if g.type ≠ 3 ∨ g.absent = true then none
    else if imgFld rs (F.SPR_CTRL.wall_en h) = 1 ∧ imgFld rs (F.SPR_CTRL.split h) = 1 then some (g.recordOf (R.SPR_CTRL h))
    else if imgFld rs (F.SPR_WALL.wall_last h) < imgFld rs (F.SPR_WALL.wall_first h) then some (g.recordOf (R.SPR_WALL h))
    else none

/-- Slots of a requestor in a bank's round. -/
def slotsOf (hub : List GsRec) (b req : Nat) : List Nat := (List.range 256).filter fun j => imgSched hub b j == req

/-- The largest gap between consecutive slots of a round, around its end. -/
def largestGap : List Nat → Nat
  | [] => 256
  | a :: rest => ((a :: rest).zip (rest ++ [a + 256])).foldl (fun m p => max m (p.2 - p.1)) 0

/-- A port has its slots on a bank with no larger gap. -/
def portServed (hub : List GsRec) (b req slots gap : Nat) : Bool :=
  let l := slotsOf hub b req
  decide (slots ≤ l.length ∧ largestGap l ≤ gap)

/-- A region record is well formed (R43). DESIGN CHOICE (log 102): regions may overlap; the lowest-numbered one that holds an address
rules it. -/
def regionOk (r : GsRec) : Bool :=
  let base := r.words.getD 0 0
  let size := r.words.getD 1 0
  base % 65536 == 0 && size % 65536 == 0 && decide (base + size ≤ sceneSize) && decide (r.words.getD 2 0 < 1024)

/-- The table of bank b keeps the rules (R50, R51, R83, R299, R336). -/
def bankOk (secs : List GsSec) (hub : List GsRec) (b : Nat) : Bool :=
  ((List.range 256).all fun j =>
    let r := imgSched hub b j
    (r == 126) == (j == 0) && (decide (r ≤ 71) || r == 126 || r == 127))
  && ((List.range 32).all fun k => !secPresent secs 4 k || portServed hub b (24 + k) 1 256)
  && portServed hub b 66 4 80 && portServed hub b 64 8 40 && portServed hub b 65 8 40 && portServed hub b 71 2 160
  && portServed hub b 68 1 256

/-- The Hub table and region rules (reason 0x7; R43): the first record that breaks one. -/
def hubFail (secs : List GsSec) : Option GsFail :=
  let hub := ((secOf secs 2 0).map (·.recs)).getD []
  (hub.findIdx? fun r => (r.kind == 4 && !bankOk secs hub r.target) || (r.kind == 5 && !regionOk r)).map fun i => ⟨7, 1, i⟩

/-- Geometry of a head in an image (R164). -/
def imgBeam (rs : List (Nat × Nat)) (h : Nat) : Beam :=
  let n := imgFld rs (F.BEAM_N.n_div h)
  let ht := imgFld rs (F.BEAM_H.htotal h)
  let vt := imgFld rs (F.BEAM_V.vtotal h)
  { n := n, htotal := ht, hactive := imgFld rs (F.BEAM_H.hactive h), vtotal := vt,
    vactive := imgFld rs (F.BEAM_V.vactive h),
    t0 := (imgReg rs (R.BEAM_T0 h)).toNat + 2 ^ 32 * (imgReg rs (R.BEAM_T0 h + 4)).toNat, tf := ht * vt * n }

/-- Fewest slots of a list of round cycles in any window of w Hub cycles (R53). -/
def fewestSlots (l : List Nat) (w : Nat) : Nat :=
  let part := w % 256
  let here := fun start => (l.filter fun j => decide ((j + 256 - start) % 256 < part)).length
  w / 256 * l.length + (List.range 256).foldl (fun m st => min m (here st)) l.length

/-- G(h, b) of an image (R53). -/
def imgG (secs : List GsSec) (h b : Nat) : Nat :=
  let hub := ((secOf secs 2 0).map (·.recs)).getD []
  let bm := imgBeam (secRegs secs 3 h) h
  fewestSlots (slotsOf hub b h) (bm.htotal * bm.n / 8)

/-- Each head's schedule meets its declared demand (reason 0x8; R53). -/
def budgetFail (secs : List GsSec) : Option GsFail :=
  (List.range 24).findSome? fun h =>
    if !secPresent secs 3 h then none
    else
      let rs := ((secOf secs 3 h).map (·.recs)).getD []
      if (List.range 32).all fun b => decide (secDemand rs b ≤ imgG secs h b) then none
      else some ⟨8, 2 + h, (rs.findIdx? (·.kind == 3)).getD 0⟩

/-- Bits per pixel of a tile layer's format (R109). -/
def formatBpp (f : Nat) : Nat := if f = 3 then 32 else 2 ^ (f + 1)

/-- The lower bound Dmin(h) (R54). -/
def dMin (secs : List GsSec) (fr : Bool) (h : Nat) : Nat :=
  let rs := secRegs secs 3 h
  let ha := imgFld rs (F.BEAM_H.hactive h)
  ((List.range 8).map fun l =>
    if imgFld rs (F.LL_CTRL.enable h l) = 1 then
      let tw := if imgFld rs (F.LL_CTRL.tile_size h l) = 1 then 16 else 8
      ceilDiv (ha * formatBpp (imgFld rs (F.LL_CTRL.format h l))) 512
        + ceilDiv (ceilDiv ha tw * (if fr then 16 else 32)) 512
    else 0).sum

/-- Declared demand is at least Dmin (reason 0x9; R54). -/
def demandFail (secs : List GsSec) (fr : Bool) : Option GsFail :=
  (List.range 24).findSome? fun h =>
    if !secPresent secs 3 h then none
    else
      let rs := ((secOf secs 3 h).map (·.recs)).getD []
      if dMin secs fr h ≤ ((List.range 32).map (secDemand rs)).sum then none
      else some ⟨9, 2 + h, (rs.findIdx? (·.kind == 3)).getD 0⟩

/-- Timing limits of R164, each with the register it rests on. -/
def timingRules (rs : List (Nat × Nat)) (h : Nat) : List (Nat × Bool) :=
  let b := imgBeam rs h
  let hs := imgFld rs (F.BEAM_HSYNC.hsync_start h)
  let hw := imgFld rs (F.BEAM_HSYNC.hsync_width h)
  let vs := imgFld rs (F.BEAM_VSYNC.vsync_start h)
  let vw := imgFld rs (F.BEAM_VSYNC.vsync_width h)
  [(R.BEAM_N h, decide (10 ≤ b.n)),
   (R.BEAM_H h, decide (320 ≤ b.hactive ∧ b.hactive ≤ 4096) && b.hactive % 8 == 0 && decide (b.hactive + 80 ≤ b.htotal)),
   (R.BEAM_HSYNC h, decide (b.hactive ≤ hs ∧ 1 ≤ hw ∧ hs + hw ≤ b.htotal)),
   (R.BEAM_V h, decide (200 ≤ b.vactive ∧ b.vactive ≤ 2160) && decide (b.vactive + 3 ≤ b.vtotal)),
   (R.BEAM_VSYNC h, decide (b.vactive ≤ vs ∧ 1 ≤ vw ∧ vs + vw ≤ b.vtotal))]

/-- Lane rate in units of 10 Mbit/s by rate code: RBR, HBR, HBR2, HBR3 (R183). -/
def laneRate (code : Nat) : Nat := [162, 270, 540, 810].getD code 162

/-- Bits per component of a head's output. -/
def imgBpc (rs : List (Nat × Nat)) (h : Nat) : Nat := if imgFld rs (F.CMP_CTRL.out_bpc h) = 1 then 10 else 8

/-- B ≤ 0.97 × C for a rate and lane count: root 5,940 MHz; both sides times 100 × N (R185). -/
def linkFits (bpc n rate lanes : Nat) : Bool :=
  decide (3 * bpc * 5940 * 1000 ≤ 97 * lanes * laneRate rate * 10 * 8 * n)

/-- Bands of a head (R210). -/
def bandCount (vactive lines : Nat) : Nat := if lines = 0 then 0 else ceilDiv vactive lines

/-- The limits on one head's timing, each with the register it rests on (reason 0xA; R164, R185, R201, R210); `chip` is the chip
number in force, which names sources of this chip. A head has a ring when its section gives one or asks for Remote. -/
def headRules (secs : List GsSec) (chip h : Nat) : List (Nat × Bool) :=
  let rs := secRegs secs 3 h
  let b := imgBeam rs h
  let bl := imgFld rs (F.SEAL_CTRL.band_lines h)
  let lag := imgFld rs (F.TX_REMOTE.lag h)
  let lg := imgFld rs (F.TX_REMOTE.ring_log2 h)
  let src := imgFld rs (F.TX_REMOTE_SRC.source_id h)
  let q := imgBeam (secRegs secs 3 (src % 256)) (src % 256)
  let remote := lg != 0 || imgFld rs (F.TX_CTRL.req_state h) == 3
  let local_ := src / 256 == chip && decide (src % 256 < 24)
  timingRules rs h ++
    [(R.TX_LINK h, linkFits (imgBpc rs h) b.n (imgFld rs (F.TX_LINK.max_rate h)) 4),
     (R.SEAL_CTRL h, bl != 0 && decide (bandCount b.vactive bl ≤ 64)),
     (R.TX_REMOTE h, !remote || (decide (6 ≤ lg ∧ lg ≤ 9) && decide (4 ≤ lag ∧ lag ≤ 2 ^ lg - 2))),
     (R.TX_REMOTE_SRC h, !(remote && local_) || (b.htotal == q.htotal && b.vtotal == q.vtotal && b.n == q.n
        && imgBpc rs h == imgBpc (secRegs secs 3 (src % 256)) (src % 256)
        && b.t0 == q.t0 + lag * q.htotal * q.n))]

/-- Heads whose tap goes to the network (R199, R200): tapped, and no ring of this chip takes them (log 17). -/
def networkTap (secs : List GsSec) (chip h : Nat) : Bool :=
  secPresent secs 3 h && imgFld (secRegs secs 3 h) (F.TX_MIRROR.tap_en h) == 1
    && !(List.range 24).any fun g => secPresent secs 3 g
      && decide (6 ≤ imgFld (secRegs secs 3 g) (F.TX_REMOTE.ring_log2 g))
      && imgFld (secRegs secs 3 g) (F.TX_REMOTE_SRC.source_id g) == 256 * chip + h

/-- A sum of fractions as numerator and denominator. -/
def fracSum : List (Nat × Nat) → Nat × Nat
  | [] => (0, 1)
  | (a, b) :: qs => let q := fracSum qs; (a * q.2 + q.1 * b, b * q.2)

/-- Load of the network taps in kbit/s, counting `w` bits a pixel at 10 bpc, is at most `most` (R200). -/
def tapLoadOk (secs : List GsSec) (chip w most : Nat) : Bool :=
  let q := fracSum (((List.range 24).filter (networkTap secs chip)).map fun h =>
    let rs := secRegs secs 3 h
    ((if imgBpc rs h = 10 then w else 24) * 5940000, (imgBeam rs h).n))
  decide (q.1 ≤ most * q.2)

/-- Signing load ≤ 10,000 a second over present heads (R221): Σ root/Tf ≤ 10,000 × sign_every. -/
def signLoadOk (secs : List GsSec) : Bool :=
  let every := imgFld (secRegs secs 1 0) F.CHAIN_CTRL.sign_every
  let q := fracSum (((List.range 24).filter (secPresent secs 3)).map fun h =>
    (5940000000, (imgBeam (secRegs secs 3 h) h).tf))
  decide (q.1 ≤ 10000 * every * q.2)

/-- Guards of a Peloton chip (R253): in units of 100 µs; the longest vertical blanking plus 50 µs fits in arm_guard. -/
def guardsOk (secs : List GsSec) : Bool :=
  let rs := secRegs secs 1 0
  let c := imgFld rs F.PEL_GUARD.close_guard
  let d := imgFld rs F.PEL_GUARD.decide_guard
  let a := imgFld rs F.PEL_GUARD.arm_guard
  let u := 594000
  let tf := (imgReg rs 0x4000_0088).toNat + 2 ^ 32 * (imgReg rs 0x4000_008C).toNat
  imgFld rs F.GS_MODE_SUMMARY.peloton == 0
    || (decide (d < c ∧ a < d) && decide (c * u < tf + a * u)
      && (List.range 24).all fun h => !secPresent secs 3 h ||
        let b := imgBeam (secRegs secs 3 h) h
        decide ((b.vtotal - b.vactive) * b.htotal * b.n + 297000 ≤ a * u))

/-- The first limit that head h breaks: the register it rests on. -/
def headTimingFail (secs : List GsSec) (chip h : Nat) : Option Nat :=
  if secPresent secs 3 h then ((headRules secs chip h).find? (!·.2)).map (·.1) else none

/-- Timing parameters (reason 0xA). A limit on several heads together fails at the last head that counts (log 103). -/
def timingFail (secs : List GsSec) (chip : Nat) : Option GsFail :=
  match (List.range 24).find? fun h => (headTimingFail secs chip h).isSome with
  | some h => some (failAt 10 secs 3 h ((headTimingFail secs chip h).getD 0))
  | none =>
    let last := fun p : Nat → Bool => (((List.range 24).filter p).getLast?).getD 0
    if 6 < ((List.range 24).filter (networkTap secs chip)).length ∨ !tapLoadOk secs chip 30 90000000 ∨ !tapLoadOk secs chip 32 96000000 then
      let h := last (networkTap secs chip)
      some (failAt 10 secs 3 h (R.TX_MIRROR h))
    else if !signLoadOk secs then
      let h := last (secPresent secs 3)
      some (failAt 10 secs 3 h (R.BEAM_H h))
    else if !guardsOk secs then some (failAt 10 secs 1 0 R.PEL_GUARD)
    else none

/-- Every source routed to a present core, and every fault source has a class (reason 0xC). Line events go to their spoke core
whatever the route (R362). -/
def routingFail (secs : List GsSec) : Option GsFail :=
  let ir := secRegs secs 5 0
  let has := fun rs a => (rs : List (Nat × Nat)).any (·.1 == a)
  let lineEvent := fun i => decide (i < 160) && decide ((i - 64) % 4 < 2)
  let routed := fun i => has ir (R.INTC_SRC i) && (lineEvent i || secPresent secs 4 (imgFld ir (F.INTC_SRC.core i)))
  let fr := secRegs secs 6 0
  let classed := fun i => (faultFloor i).isNone || has fr (R.FAULT_SRC i)
  match ((List.range 640).map (64 + ·)).find? (!routed ·), (List.range 448).find? (!classed ·) with
  | some i, _ => some (failAt 12 secs 5 0 (R.INTC_SRC i))
  | none, some i => some (failAt 12 secs 6 0 (R.FAULT_SRC i))
  | none, none => none

/-- Checks of a composed whole image, in the order of R64's table; `chip` is the chip number in force. -/
def imageFail (secs : List GsSec) (chip : Nat) : Option GsFail :=
  let fr := imgFld (secRegs secs 1 0) F.GS_MODE_SUMMARY.profile == 1
  (firstFail 6 secs reservedFail).orElse fun _ =>
  (hubFail secs).orElse fun _ =>
  (budgetFail secs).orElse fun _ =>
  (demandFail secs fr).orElse fun _ =>
  (timingFail secs chip).orElse fun _ => routingFail secs

/-! ## Transition from the image in force (R65, R70) -/

/-- The sections of the image in force. -/
def State.activeSections (s : State) : List GsSec := gsSections s.gs.active

/-- A head swap on a panel without Freewheel is not allowed: blank_ok clear, and the chip not Primary (R65, R70). -/
def State.swapBlocked (s : State) (h : Nat) : Bool :=
  s.rd (F.TX_STATUS.state h) == 1 && !s.on (F.TX_STATUS.fw_capable h) && !s.on F.GS_CTRL.blank_ok && !s.isPrimary

/-- Transition check of a partial image: `part` its sections, `secs` the composition (reason 0xB). DESIGN CHOICE (log 104): the section
index counts in the partial image's own table, while the image checks count in the composed one. -/
def State.transitionFail (s : State) (part secs : List GsSec) : Option GsFail :=
  let hub := ((secOf secs 2 0).map (·.recs)).getD []
  if part.any (·.type == 1) then some ⟨11, 0, 0⟩
  else
    match part.findIdx? fun g => g.type == 3 && s.swapBlocked g.inst with
    | some j => some ⟨11, j, 0⟩
    | none =>
      let lost := (List.range 24).any fun h =>
        (s.rd (F.TX_STATUS.state h) == 1 || s.rd (F.TX_STATUS.state h) == 2) && !part.any (fun g => g.type == 3 && g.inst == h)
          && (List.range 32).any fun b => (List.range 256).any fun j =>
            mget (fun i => if i % 256 = 0 then 126 else 127) s.hub.sched (256 * b + j) == h && imgSched hub b j != h
      if part.any (·.type == 2) && lost then some ⟨11, (part.findIdx? (·.type == 2)).getD 0, 0⟩ else none

/-- A whole-chip apply needs blank_ok or a capable panel on every head it swaps live (R70). DESIGN CHOICE (log 105): the blank_ok
tested is the new image's, which the apply loads. -/
def State.wholeBlocked (s : State) (secs : List GsSec) : Option GsFail :=
  let ok := imgFld (secRegs secs 1 0) F.GS_CTRL.blank_ok == 1
  if ok then none
  else
    match (List.range 24).find? fun h => s.rd (F.TX_STATUS.state h) == 1 && !s.on (F.TX_STATUS.fw_capable h) && !s.isPrimary with
    | some h => some ⟨11, 2 + h, 0⟩
    | none => none

/-- The image's signature holds, or none is asked (R423, R426, R428). -/
def State.signatureOk (s : State) (m : SMap Word) : Bool :=
  s.secState == 0 || s.ownerSigned (storeBytes m 0 40) (gsSignature m)

/-- The device check of the staged image (R64–R66): its failure, or the composed sections. -/
def State.gsDeviceCheck (s : State) : Except GsFail (List GsSec) :=
  let m := s.gs.staging
  match gsFormat m with
  | some f => .error f
  | none =>
    if !s.signatureOk m then .error ⟨2, 0, 0⟩
    else if sha512 (storeBytes m 64 (gsLength m / 4 - 64)) ≠ gsBodyDigest m then .error ⟨3, 0, 0⟩
    else if gsVersion m < s.sec.rollback then .error ⟨4, 0, 0⟩
    else
      let part := gsSections m
      if gsPartial m then
        if gsBaseDigest m ≠ s.gs.digest then .error ⟨5, 0, 0⟩
        else
          let secs := composeSections s.activeSections part
          match (imageFail secs (s.rd F.PEL_SELF.chip_number)).orElse fun _ => s.transitionFail part secs with
          | some f => .error f
          | none => .ok secs
      else
        match (imageFail part (s.rd F.PEL_SELF.chip_number)).orElse fun _ => s.wholeBlocked part with
        | some f => .error f
        | none => .ok part

end Sys2Proof.Machine
end

