-- ==== Sys2Proof/Machine/Hub.lean ====
section
/-! DEFINITION. The Hub's slots, the scrub, write-backs and field repairs of scene memory (02: R14, R42–R50). -/

namespace Sys2Proof.Machine

/-- Requestor that owns round cycle j of a bank; before any apply entry 0 is MAINT and every other is FREE (R49, R50, log 4). -/
def State.slotOwner (s : State) (bank j : Nat) : Nat :=
  mget (fun i => if i % 256 = 0 then 126 else 127) s.hub.sched (256 * bank + j)

/-- Root cycle at which Hub cycle k begins (R49). -/
def hubRoot (k : Nat) : Nat := 8 * k

/-- The bank has granted nobody in the present Hub cycle (R14). -/
def State.bankFree (s : State) (bank : Nat) : Bool := decide (mget (fun _ => 0) s.hub.granted bank ≤ s.now / 8)

/-- The bank's grant of the present Hub cycle is used (R14). -/
def State.grant (s : State) (bank : Nat) : State :=
  { s with hub.granted := mset (fun _ => 0) s.hub.granted bank (s.now / 8 + 1) }

/-- The present Hub cycle of the bank is a slot of the requestor and not used yet (R14, R49). -/
def State.slotFor (s : State) (bank req : Nat) : Bool := s.slotOwner bank (s.now / 8 % 256) == req && s.bankFree bank

/-- Count a slot a head port used on a bank (R55). -/
def State.useSlot (s : State) (req bank : Nat) : State :=
  if req < 24 then
    let i := 32 * req + bank
    { s with hub.used := mset (fun _ => 0) s.hub.used i (mget (fun _ => 0) s.hub.used i + 1) }
  else s

/-- One granted access: a read answers its data, a write goes through the region rule (R43–R45). -/
def State.serveAccess (s : State) (a : HubAccess) : State :=
  match a.data with
  | none =>
    let (r, s) := s.memRead a.req a.off a.len
    s.emit (.hubRead a.req a.off r.bytes (!r.bad.isEmpty))
  | some bs => s.writeLine a.req a.off bs

/-- Head h beside its registers. -/
def State.head (s : State) (h : Nat) : HeadS := mget (fun _ => {}) s.heads h

/-- Store it. -/
def State.setHead (s : State) (h : Nat) (x : HeadS) : State := { s with heads := mset (fun _ => {}) s.heads h x }

/-- Update it. -/
def State.modHead (s : State) (h : Nat) (f : HeadS → HeadS) : State := s.setHead h (f (s.head h))

/-- Mask of the uncorrectable words of a bank line read. -/
def badMask (off : Nat) (bad : List Nat) : Nat := bad.foldl (fun m wi => setBit m (wi - off / 8) true) 0

/-- The request at the front of a head's queue of a bank: the one issued first, of those issued together the one of the earlier line
(R52). -/
def State.headFront (s : State) (h bank : Nat) : Option Waiting :=
  let ws := (s.head h).lines.flatMap fun j => j.waiting.filter fun w => bankOf w.req.off == bank
  ws.foldl (fun b w => match b with
    | none => some w
    | some v => some (if w.since < v.since then w else v)) none

/-- The request w of the first line that waits for it is served at this slot: its data is on the way (R52). -/
def serveLines (w : Waiting) (slot : Nat) (bytes : List Byte) (bad : Nat) : List LineJob → List LineJob
  | [] => []
  | j :: js =>
    if j.waiting.contains w then
      { j with waiting := j.waiting.erase w, flying := j.flying ++ [⟨w.req, slot, bytes, bad⟩] } :: js
    else j :: serveLines w slot bytes bad js

/-- A head's slot serves the front of its queue of the bank, for the bank line at `off` (R52). -/
def State.serveHead (s : State) (bank off : Nat) (h : Nat) : State :=
  match s.headFront h bank with
  | none => s
  | some w =>
    if w.req.off ≠ off then s
    else
      let s := (s.grant bank).useSlot h bank
      let (r, s) := s.memRead h off 64
      let slot := s.now
      s.modHead h fun x => { x with lines := serveLines w slot r.bytes (badMask off r.bad) x.lines }

/-- The access covers at most one bank line of that bank (R43). -/
def hubInLine (a : HubAccess) (bank : Nat) : Bool :=
  let len := match a.data with
    | none => a.len
    | some bs => bs.length
  bankOf a.off == bank && decide (a.off < sceneSize) && decide (a.off % 64 + len ≤ 64)

/-- HUB_SLOT_ACCESS: in Hub cycle k the bank serves one access, of the requestor that owns the slot; MAINT and FREE slots serve none
(R14, R49, R50). -/
def execHubSlotAccess (k bank : Nat) (a : HubAccess) (s : State) : Result :=
  let s := s.at (hubRoot k)
  .next (if s.now / 8 = k ∧ s.slotFor bank a.req = true ∧ hubInLine a bank = true ∧ a.req < 72 then
      (if a.req < 24 then s.serveHead bank a.off a.req else (s.grant bank).serveAccess a)
    else s)

/-! ## Scrub and repair -/

/-- Word number of the first word of line l of a bank (R41). -/
def lineWord (bank l : Nat) : Nat := (2048 * l + 64 * bank) / 8

/-- Bank of a 64-bit word. -/
def wordBank (wi : Nat) : Nat := bankOf (8 * wi)

/-- Bank line of a 64-bit word. -/
def wordLine (wi : Nat) : Nat := 8 * wi / 2048

/-- Scrub reads made of a bank. -/
def State.scrubs (s : State) (bank : Nat) : Nat := mget (fun _ => 0) s.hub.scrubs bank

/-- Passes every bank has completed. -/
def State.scrubPasses (s : State) : Nat :=
  (List.range 32).foldl (fun m b => min m (s.scrubs b / 131072)) (s.scrubs 0 / 131072)

/-- The scrub is paused while parked (R455). -/
def State.parkedPower (s : State) : Bool := s.rd F.CPR_STATUS.power == 2

/-- The scrub read of one bank: the next line, every word through the check (R47). -/
def State.scrubLine (s : State) (bank : Nat) : State :=
  let n := s.scrubs bank
  let (_, s) := s.readWords64 126 (lineWord bank (n % 131072)) 8
  let s := { s with hub.scrubs := mset (fun _ => 0) s.hub.scrubs bank (n + 1) }
  s.wr F.HUB_SCRUB_PASS.passes s.scrubPasses

/-- A bank has a write-back, or a repair copy, that takes its maintenance slot first (R50). -/
def State.hasWriteBack (s : State) (bank : Nat) : Bool := s.hub.writeBacks.any fun p => wordBank p.1 == bank
def State.hasCopy (s : State) (bank : Nat) : Bool := s.hub.copying.any (·.bank == bank)

/-- The present Hub cycle is the bank's maintenance slot and has served nothing yet: a slot serves one item (R50). -/
def State.maintSlot (s : State) (bank : Nat) : Bool := s.slotFor bank 126

/-- SCRUB_READ: at a maintenance slot of the bank, when no earlier item is pending there (R47, R50). -/
def execScrubRead (t bank : Nat) (s : State) : Result :=
  let s := s.at t
  .next (if s.parkedPower ∨ s.maintSlot bank = false ∨ s.hasWriteBack bank ∨ s.hasCopy bank then s else (s.grant bank).scrubLine bank)

/-- Write back the first corrected word of a bank, as the code corrects it, and have it read again (R44, R48). -/
def State.writeBackFirst (s : State) (bank : Nat) : State :=
  match s.hub.writeBacks.find? (fun p => wordBank p.1 == bank) with
  | none => s
  | some p =>
    let s := (s.setMemBytes (8 * p.1) (s.fixedWord p.1)).setFlips p.1 0
    { s.grant bank with hub.writeBacks := s.hub.writeBacks.erase p, hub.rereads := s.hub.rereads ++ [p] }

/-- ECC_WRITE_BACK: at the bank's next maintenance slot, before every other item (R50). -/
def execEccWriteBack (t bank : Nat) (s : State) : Result :=
  let s := s.at t
  .next (if s.maintSlot bank then s.writeBackFirst bank else s)

/-- Hard words of a bank with the same bit in the same 1 MiB sub-array as (wi, b), also those a spare row has replaced (R48,
log 96). -/
def State.columnMates (s : State) (wi b : Nat) : Nat :=
  (s.hub.hard.filter fun p => wordBank p.1 == wordBank wi && p.2 == b
    && wordLine p.1 / 16384 == wordLine wi / 16384).length

/-- Spare rows, or columns of a sub-array, of a bank in use, filled or filling. -/
def State.spareCount (s : State) (p : Spare → Bool) : Nat :=
  ((s.hub.spares ++ s.hub.filled ++ s.hub.copying).filter p).length

/-- A spare starts to fill (R48). -/
def State.startSpare (s : State) (sp : Spare) : State :=
  let s := { s with hub.copying := s.hub.copying ++ [sp] }
  let s := s.set1 F.HUB_STATUS.repair_busy
  if !sp.column && s.spareCount (fun q => q.bank == sp.bank && !q.column) == 64 then
    (s.satInc F.HUB_REPAIR_STATUS.exhausted_banks).raise (168 + sp.bank)
  else s

/-- A word lies in what a spare replaces. -/
def Spare.covers (sp : Spare) (p : Nat × Nat) : Bool :=
  wordBank p.1 == sp.bank &&
    (if sp.column then decide (wordLine p.1 / 16384 = sp.index / 72 ∧ p.2 = sp.index % 72)
     else wordLine p.1 / 16 == sp.index)

/-- Map in a spare for a hard word that none replaces: a column for the fourth word of one bit in one sub-array, a row otherwise;
a bank with no spare left is left to its code (R48). -/
def State.repairWord (s : State) (wi b : Nat) : State :=
  let bank := wordBank wi
  let sub := wordLine wi / 16384
  if (s.hub.spares ++ s.hub.filled ++ s.hub.copying).any (·.covers (wi, b)) then s
  else if 4 ≤ s.columnMates wi b ∧ s.spareCount (fun q => q.bank == bank && q.column && q.index / 72 == sub) < 2 then
    s.startSpare ⟨bank, true, 72 * sub + b⟩
  else if s.spareCount (fun q => q.bank == bank && !q.column) < 64 then
    s.startSpare ⟨bank, false, wordLine wi / 16⟩
  else s

/-- Mark a word as hard (R48). -/
def State.markHard (s : State) (wi b : Nat) : State :=
  let s := if s.hub.hard.contains (wi, b) then s else { s with hub.hard := s.hub.hard ++ [(wi, b)] }
  if s.on F.HUB_CTRL.repair_auto then s.repairWord wi b else s

/-- HARD_WORD_REREAD: the word is read again at the next maintenance slot that no earlier item takes; `again` says whether its cell errs in the same bit
once more, which makes it hard (R48, log 12). -/
def execHardWordReread (t bank : Nat) (again : Bool) (s : State) : Result :=
  let s := s.at t
  .next (if s.maintSlot bank = false ∨ s.hasWriteBack bank ∨ s.hasCopy bank then s else
    match s.hub.rereads.find? (fun p => wordBank p.1 == bank) with
    | none => s
    | some p =>
      let s := { s.grant bank with hub.rereads := s.hub.rereads.erase p }
      if again then
        let s := (s.setFlips p.1 (BitVec.ofNat 72 (2 ^ p.2))).eccCorr p.1 126
        (s.askWriteBack p.1 p.2).markHard p.1 p.2
      else s)

/-- SPARE_REPAIR_COPY: the bank's filling spare receives the corrected contents, after any pending write-back (R48, R50). -/
def execSpareRepairCopy (t bank : Nat) (s : State) : Result :=
  let s := s.at t
  .next (if s.maintSlot bank = false ∨ s.hasWriteBack bank then s else
    match s.hub.copying.find? (·.bank == bank) with
    | none => s
    | some sp => { s.grant bank with hub.copying := s.hub.copying.erase sp, hub.filled := s.hub.filled ++ [sp] })

/-- A filled spare takes over: its hard words read well again (R48). -/
def State.takeoverSpare (s : State) (sp : Spare) : State :=
  let gone := s.hub.hard.filter sp.covers
  let s := gone.foldl (fun s p => (s.setFlips p.1 0).dropWriteBack p.1) s
  let s := { s with hub.filled := s.hub.filled.erase sp, hub.spares := s.hub.spares ++ [sp] }
  if s.hub.copying.isEmpty && s.hub.filled.isEmpty then s.wr F.HUB_STATUS.repair_busy 0 else s

/-- SPARE_TAKEOVER: at a maintenance slot of the bank (R48). -/
def execSpareTakeover (t bank : Nat) (s : State) : Result :=
  let s := s.at t
  .next (if s.maintSlot bank = false then s else
    match s.hub.filled.find? (·.bank == bank) with
    | none => s
    | some sp => s.takeoverSpare sp)

end Sys2Proof.Machine
end

