-- ==== Sys2Proof/Machine/CoreOps.lean ====
section
/-! DEFINITION. A core's registers in both banks, its local memories, its write queue and private block, its reset (17:
R339–R341; 02: R27, R28, R42), and the rule by which it may issue. What needs the Rim is in Operands. -/

namespace Sys2Proof.Machine

/-- Core k. -/
def State.core (s : State) (k : Nat) : CoreS := mget (fun _ => {}) s.cores k

/-- Store core k. -/
def State.setCore (s : State) (k : Nat) (c : CoreS) : State := { s with cores := mset (fun _ => {}) s.cores k c }

/-- Update core k. -/
def State.modCore (s : State) (k : Nat) (f : CoreS → CoreS) : State := s.setCore k (f (s.core k))

/-- The core's section is present in the image in force (R59). -/
def State.corePresent (s : State) (k : Nat) : Bool := decide (k < 32) && bit s.gs.present (26 + k)

/-- Parked at its park point (R71); halted by the debug port (R448). -/
def State.coreParked (s : State) (k : Nat) : Bool := bit s.gs.parked k
def State.coreHalted (s : State) (k : Nat) : Bool := bit (s.rd F.DBG_HALTED.cores) k

/-- Hub requestor of core k (R49). -/
def coreReq (k : Nat) : Nat := 24 + k

/-- A pool core (17). -/
def isPool (k : Nat) : Bool := decide (24 ≤ k)

/-! ## Registers and banks (R339, R340) -/

/-- The PS in use, with FB (log 18). -/
def CoreS.psWord (c : CoreS) : Word := if c.fb then (c.psf &&& 0x3F#32) ||| 0x40#32 else c.ps &&& 0x3F#32

/-- A register by the name the bank in use gives it. -/
def CoreS.get (c : CoreS) : CReg → Word
  | .a => if c.fb then c.af else c.a
  | .x => if c.fb then c.xf else c.x
  | .y => if c.fb then c.yf else c.y
  | .sp => c.sp
  | .ps => c.psWord

/-- Write a register of the bank in use; PS keeps FB and its reserved bits (R339). -/
def CoreS.put (c : CoreS) (r : CReg) (v : Word) : CoreS :=
  match r with
  | .a => if c.fb then { c with af := v } else { c with a := v }
  | .x => if c.fb then { c with xf := v } else { c with x := v }
  | .y => if c.fb then { c with yf := v } else { c with y := v }
  | .sp => { c with sp := v }
  | .ps => if c.fb then { c with psf := v &&& 0x3F#32 } else { c with ps := v &&& 0x3F#32 }

/-- Write a register of the bank not in use (WRALT). -/
def CoreS.putAlt (c : CoreS) (r : CReg) (v : Word) : CoreS := { CoreS.put { c with fb := !c.fb } r v with fb := c.fb }

/-- Read a register of the bank not in use (RDALT); its PS reads FB as 0 (log 18). -/
def CoreS.getAlt (c : CoreS) (r : CReg) : Word :=
  match r with
  | .ps => (if c.fb then c.ps else c.psf) &&& 0x3F#32
  | r => CoreS.get { c with fb := !c.fb } r

/-- A flag bit of the PS in use: C 0, V 1, Z 2, N 3, I 4, FM 5. -/
def CoreS.flag (c : CoreS) (b : Nat) : Bool := bit c.psWord.toNat b

/-- Set a flag bit of the PS in use. -/
def CoreS.setFlag (c : CoreS) (b : Nat) (v : Bool) : CoreS := c.put .ps (BitVec.ofNat 32 (setBit c.psWord.toNat b v))

/-- Where a load will write register r of the bank in use (R348). -/
def CoreS.dest (c : CoreS) : CReg → LoadDest
  | .a => if c.fb then .af else .a
  | .x => if c.fb then .xf else .x
  | .y => if c.fb then .yf else .y
  | .ps | .sp => if c.fb then .psf else .ps

/-- Write what a load brought. -/
def CoreS.land (c : CoreS) : LoadDest × Word → CoreS
  | (.a, v) => { c with a := v }
  | (.x, v) => { c with x := v }
  | (.y, v) => { c with y := v }
  | (.ps, v) => { c with ps := v &&& 0x3F#32 }
  | (.af, v) => { c with af := v }
  | (.xf, v) => { c with xf := v }
  | (.yf, v) => { c with yf := v }
  | (.psf, v) => { c with psf := v &&& 0x3F#32 }

/-- Clear the link of core k. -/
def State.clearLink (s : State) (k : Nat) : State := { s with links := mset (fun _ => none) s.links k none }

/-- Word address the link of core k names. -/
def State.link (s : State) (k : Nat) : Option Nat := mget (fun _ => none) s.links k

/-- A core after a device reset or a swap (R341): its memories as loaded, its entry address and slots as its section says. -/
def CoreS.fresh (code data : SMap Byte) (entry slots : Nat) : CoreS :=
  { pc := BitVec.ofNat 32 entry, slots := slots, code := code, data := data }

/-! ## Local memories (R27, R28) -/

/-- `n` bytes of a local memory. -/
def localBytes (m : SMap Byte) : Nat → Nat → List Byte
  | _, 0 => []
  | i, n + 1 => mget (fun _ => 0#8) m i :: localBytes m (i + 1) n

/-- Put bytes into a local memory. -/
def putLocal (m : SMap Byte) : Nat → List Byte → SMap Byte
  | _, [] => m
  | i, b :: bs => putLocal (mset (fun _ => 0#8) m i b) (i + 1) bs

/-- Bytes of core k's local memory at an address below 0x2_0000: code, then data. -/
def State.localRead (s : State) (k a n : Nat) : List Byte :=
  let c := s.core k
  if a < 0x1_0000 then localBytes c.code a n else localBytes c.data (a - 0x1_0000) n

/-- Bytes of core k's local memory that it has written itself in the present core cycle (R28). -/
def State.wroteNow (s : State) (k : Nat) : List Nat := if (s.core k).wroteAt = s.now / 6 + 1 then (s.core k).wrote else []

/-- A write to core k's local memory; its own link to a word it touches breaks (R355). -/
def State.localWrite (s : State) (k a : Nat) (bs : List Byte) : State :=
  let s := s.modCore k fun c =>
    if a < 0x1_0000 then { c with code := putLocal c.code a bs }
    else { c with data := putLocal c.data (a - 0x1_0000) bs }
  match s.link k with
  | some w => if w < a + bs.length ∧ a < w + 4 then s.clearLink k else s
  | none => s

/-- Core k's own write to its local memory; the bytes are kept for the rest of the core cycle (R28). -/
def State.ownWrite (s : State) (k a : Nat) (bs : List Byte) : State :=
  let w := s.wroteNow k ++ (List.range bs.length).map (a + ·)
  (s.modCore k fun c => { c with wroteAt := s.now / 6 + 1, wrote := w }).localWrite k a bs

/-- A DMA write through the second port: bytes the core has written in the same core cycle stand (R28). -/
def State.portWrite (s : State) (k a : Nat) : List Byte → State
  | [] => s
  | b :: bs => (if (s.wroteNow k).contains a then s else s.localWrite k a [b]).portWrite k (a + 1) bs

/-! ## Write queue (R42) -/

/-- The oldest store of core k drains at its slot. -/
def State.drainOne (s : State) (k : Nat) : State :=
  match (s.core k).queue with
  | [] => s
  | (off, bs) :: q => (s.modCore k fun c => { c with queue := q }).memWrite (coreReq k) off bs

/-- Every earlier store of core k drains. -/
def State.drainAll (s : State) (k : Nat) : State :=
  (List.range (s.core k).queue.length).foldl (fun s _ => s.drainOne k) s

/-- A store enters the queue; with four entries the oldest drains first. -/
def State.queueStore (s : State) (k off : Nat) (bs : List Byte) : State :=
  let s := if 4 ≤ (s.core k).queue.length then s.drainOne k else s
  s.modCore k fun c => { c with queue := c.queue ++ [(off, bs)] }

/-- CORE_STORE_DRAIN: the oldest entry of a core's write queue drains at its owned slot (R42). -/
def execCoreStoreDrain (t k : Nat) (s : State) : Result :=
  let s := s.at t
  .next (match (s.core k).queue with
    | [] => s
    | (off, _) :: _ => if s.slotFor (bankOf off) (coreReq k) then (s.grant (bankOf off)).drainOne k else s)

/-! ## Private block (17) -/

/-- Offsets of the private block. -/
def privListed (o : Nat) : Bool := o == 0 || (decide (8 ≤ o ∧ o ≤ 0x30) && o % 4 == 0)

/-- Read a word of the private block; `t` is the moment of the read. -/
def State.privRead (s : State) (k o : Nat) : Word :=
  let c := s.core k
  let n := BitVec.ofNat 32
  match o with
  | 0x00 => n (if isPool k then 0x100 + (k - 24) else k)
  | 0x08 => n (s.now / 6)
  | 0x0C => n (s.now / 6 / 2 ^ 32)
  | 0x10 => c.vecNormal
  | 0x14 => c.vecFast
  | 0x18 => c.vecTrap
  | 0x1C => c.fret
  | 0x20 => n (c.cause * 2 ^ 28 + c.detail)
  | 0x24 => c.trapAddr
  | 0x28 => n c.slots
  | 0x2C => n (2 * b2n c.fb + b2n (s.link k).isSome)
  | 0x30 => n ((s.link k).getD 0)
  | _ => 0#32

/-- Write a word of the private block: the vectors and the fast return address; the rest is RO. -/
def State.privWrite (s : State) (k o : Nat) (v : Word) : State :=
  let w := v &&& ~~~ 3#32
  s.modCore k fun c =>
    match o with
    | 0x10 => { c with vecNormal := w }
    | 0x14 => { c with vecFast := w }
    | 0x18 => { c with vecTrap := w }
    | 0x1C => { c with fret := w }
    | _ => c

end Sys2Proof.Machine
end

