-- ==== Sys2Proof/Machine/Intc.lean ====
section
/-! DEFINITION. The interrupt controller (18: R360–R371): levels and edges, presentation, claims and ends of interrupt. -/

namespace Sys2Proof.Machine

/-- Some event bit of an interrupt register is enabled: `n` event bits from bit 0, their enables from bit 16. -/
def irqPending (w : Word) (n : Nat) : Bool :=
  (List.range n).any fun i => bit w.toNat i && bit w.toNat (16 + i)

/-- The level a source shows at this moment (R360, as the units' chapters number them). -/
def State.sourceLevel (s : State) (i : Nat) : Bool :=
  let n := i - 64
  if i < 64 then false
  else if i < 160 then
    if n % 4 = 2 then irqPending (s.reg (R.BEAM_IRQ (n / 4))) 3
    else if n % 4 = 3 then irqPending (s.reg (R.TX_IRQ (n / 4))) 8
    else false
  else if i < 224 then
    let l := i - 160
    s.on (F.FL_CFG.ien l) && (s.rd (F.FL_STATUS.depth l) != 0 || s.on (F.FL_STATUS.overflow l) || s.on (F.FL_STATUS.short l))
  else if i < 256 then s.on (F.TMR_STATUS.hit (i - 224)) && s.on (F.TMR_CTRL.ien (i - 224))
  else if i < 320 then
    let e := (i - 256) / 8
    let c := i % 8
    (s.on (F.DMA_CH_CTRL.ien e c) && s.on (F.DMA_CH_STATUS.done e c))
      || (s.on (F.DMA_STATUS.halted e) && s.rd (F.DMA_ERR_INFO.channel e) == c)
  else if i = 320 ∨ i = 321 then
    decide (bits (s.reg (R.ETH_STATUS (i - 320))).toNat 2 0 &&& s.rd (F.ETH_CTRL.ien (i - 320)) ≠ 0)
  else if i = 324 then decide (bits (s.reg R.ODO_STATUS).toNat 2 0 &&& s.rd F.ODO_CTRL.ien ≠ 0)
  else if i = 384 then irqPending (s.reg R.VTK_IRQ) 3
  else if i = 480 then irqPending (s.reg R.TANDEM_IRQ) 3
  else if i = 481 then s.tandem.hbLost
  else if i = 488 then irqPending (s.reg R.PEL_IRQ) 5
  else if i = 512 then irqPending (s.reg R.BELL_IRQ) 4
  else if i = 544 then irqPending (s.reg R.BLT_IRQ) 8
  else if i = 576 then irqPending (s.reg R.SB_IRQ) 5
  else if i = 640 ∨ i = 641 ∨ i = 642 then
    bit (s.rd F.FAULT_STATUS.classes) (i - 640) && bit (s.rd F.FAULT_CTRL.ien) (i - 640)
  else if i = 643 then bit (s.rd F.FAULT_CTRL.ien) 3 && (List.range 32).any fun k => s.on (F.WDOG_STATUS.halt_bite k)
  else if i = 648 then irqPending (s.reg R.SEC_IRQ) 3
  else if i = 656 then s.on F.DBG_SESSION.ien && s.rd F.DBG_HALTED.cores != 0
  else false

/-- A source of the routed range (R360, R362). -/
def routed (i : Nat) : Bool := decide (64 ≤ i ∧ i < 704)

/-- A line event source: its head. -/
def lineEvent (i : Nat) : Option Nat := if 64 ≤ i ∧ i < 160 ∧ (i - 64) % 4 < 2 then some ((i - 64) / 4) else none

/-- Target core of a routed source: line events always go to their own spoke core (R362). -/
def State.srcCore (s : State) (i : Nat) : Nat := (lineEvent i).getD (s.rd (F.INTC_SRC.core i))

/-- The Forerunner claim model is in force: the chip-wide profile (R2, R366). -/
def State.intcForerunner (s : State) : Bool := s.forerunner

/-- A level source is pending while asserted and not active (R361). -/
def State.refreshLevel (s : State) (i : Nat) : State :=
  if s.on (F.INTC_SRC.edge i) then s
  else s.wr (F.INTC_SRC.pending i) (b2n (s.on (F.INTC_SRC.asserted i) && !s.on (F.INTC_SRC.active i)))

/-- The controller sees a level source at its level now (R361). -/
def State.seeLevel (s : State) (i : Nat) : State :=
  (s.wr (F.INTC_SRC.asserted i) (b2n (s.sourceLevel i))).refreshLevel i

/-- SOURCE_LEVEL_CHANGE: the level of a source, as it stands, takes effect at the controller (R361, log 125). -/
def execSourceLevelChange (t i : Nat) (s : State) : Result :=
  let s := s.at t
  .next (if routed i && (lineEvent i).isNone then s.seeLevel i else s)

/-- Count an edge that met its source pending (R361, R180). -/
def State.mergeEdge (s : State) (i : Nat) : State :=
  match lineEvent i with
  | some h => if (i - 64) % 4 = 0 then s.satInc (F.BEAM_EVENT_MISSED.event0 h) else s.satInc (F.BEAM_EVENT_MISSED.event1 h)
  | none => (s.satInc F.INTC_MERGED.count).wr F.INTC_MERGED.last_id i

/-- An edge of a line event at the controller: pending, or merged (R361). -/
def State.srcEdge (s : State) (i : Nat) : State :=
  if s.on (F.INTC_SRC.pending i) then s.mergeEdge i else s.set1 (F.INTC_SRC.pending i)

/-- An edge of doorbell b of core k (R360). -/
def State.bellEdge (s : State) (k b : Nat) : State :=
  let p := s.rd (F.INTC_PRIV_PEND.bells k)
  if bit p b then s.mergeEdge b else s.wr (F.INTC_PRIV_PEND.bells k) (setBit p b true)

/-- SOURCE_EDGE: the edge of a line event that fired takes effect at the controller at the 24th core cycle after it (R179, R361). -/
def execSourceEdge (t i : Nat) (s : State) : Result :=
  let s := s.at t
  .next (match s.intc.inFlight.find? (fun p => p.1 == i && p.2 == s.now) with
    | none => s
    | some p => { s with intc.inFlight := s.intc.inFlight.erase p }.srcEdge i)

/-- INTC_DOORBELL: a write rings doorbell b of core k (R360). -/
def execIntcDoorbellWrite (t k b : Nat) (s : State) : Result := .next ((s.at t).bellEdge (k % 32) (b % 32))

/-! ## Presentation (R363) -/

/-- Running priority of core k (R366). -/
def State.runningPrio (s : State) (k : Nat) : Nat :=
  (((mget (fun _ => []) s.intc.stack k).head?).map (·.2)).getD 0

/-- Nothing is presented to the core. -/
def State.intcMuted (s : State) (k : Nat) : Bool := s.on F.INTC_CTRL.gdis || s.on (F.INTC_CORE_CTRL.dis k)

/-- Priority of a normal source passes the core's threshold, and in Forerunner the running priority. -/
def State.prioPasses (s : State) (k p : Nat) : Bool :=
  decide (s.rd (F.INTC_CORE_CTRL.threshold k) < p) && (!s.intcForerunner || decide (s.runningPrio k < p))

/-- Doorbell b of core k is eligible in a class. -/
def State.bellEligible (s : State) (k b : Nat) (fast : Bool) : Bool :=
  bit (s.rd (F.INTC_PRIV_EN.bells k)) b && bit (s.rd (F.INTC_PRIV_PEND.bells k)) b
    && !bit (mget (fun _ => 0) s.intc.privActive k) b && s.on (F.INTC_CORE_CTRL.priv_fast k) == fast

/-- Routed source i is eligible for core k in a class. -/
def State.srcEligible (s : State) (k i : Nat) (fast : Bool) : Bool :=
  s.srcCore i == k && s.on (F.INTC_SRC.enable i) && s.on (F.INTC_SRC.pending i) && !s.on (F.INTC_SRC.active i)
    && s.on (F.INTC_SRC.fast i) == fast

/-- Eligible sources of core k in one class, with their priorities, IDs rising. -/
def State.eligible (s : State) (k : Nat) (fast : Bool) : List (Nat × Nat) :=
  if s.intcMuted k ∨ (fast = true ∧ s.rd (F.INTC_FAST_ID.id k) ≠ 1023) then []
  else
    let bp := s.rd (F.INTC_CORE_CTRL.priv_prio k)
    let bells := ((List.range 32).filter fun b => s.bellEligible k b fast).map fun b => (b, bp)
    let srcs := ((List.range 640).filter fun j => s.srcEligible k (64 + j) fast).map fun j =>
      (64 + j, s.rd (F.INTC_SRC.priority (64 + j)))
    (bells ++ srcs).filter fun p => decide (0 < p.2) && (fast || s.prioPasses k p.2)

/-- Highest priority, lowest ID (R363). -/
def bestSource : List (Nat × Nat) → Option (Nat × Nat)
  | [] => none
  | p :: ps =>
    match bestSource ps with
    | none => some p
    | some q => if p.2 < q.2 then some q else some p

/-- The source presented to core k in a class. -/
def State.presented (s : State) (k : Nat) (fast : Bool) : Option (Nat × Nat) := bestSource (s.eligible k fast)

/-! ## Claims and ends (R364–R368) -/

/-- A source becomes active on core k; an edge source stops being pending. -/
def State.activate (s : State) (k i : Nat) : State :=
  if i < 32 then
    let s := s.wr (F.INTC_PRIV_PEND.bells k) (setBit (s.rd (F.INTC_PRIV_PEND.bells k)) i false)
    { s with intc.privActive := mset (fun _ => 0) s.intc.privActive k (setBit (mget (fun _ => 0) s.intc.privActive k) i true) }
  else
    let s := ({ s with intc.activeOn := mset (fun _ => none) s.intc.activeOn i (some k) }).set1 (F.INTC_SRC.active i)
    if s.on (F.INTC_SRC.edge i) then s.wr (F.INTC_SRC.pending i) 0 else s.refreshLevel i

/-- A source is active on core k. -/
def State.activeFor (s : State) (k i : Nat) : Bool :=
  if i < 32 then bit (mget (fun _ => 0) s.intc.privActive k) i else mget (fun _ => none) s.intc.activeOn i == some k

/-- A source's active state ends; a level still asserted is pending again (R367). -/
def State.endSource (s : State) (k i : Nat) : State :=
  if i < 32 then
    { s with intc.privActive := mset (fun _ => 0) s.intc.privActive k (setBit (mget (fun _ => 0) s.intc.privActive k) i false) }
  else
    (({ s with intc.activeOn := mset (fun _ => none) s.intc.activeOn i none }).wr (F.INTC_SRC.active i) 0).refreshLevel i

/-- Set the stack of core k and what INTC_RUNNING shows of it. -/
def State.setStack (s : State) (k : Nat) (st : List (Nat × Nat)) : State :=
  let s := { s with intc.stack := mset (fun _ => []) s.intc.stack k st }
  (s.wr (F.INTC_RUNNING.depth k) st.length).wr (F.INTC_RUNNING.priority k) ((st.head?.map (·.2)).getD 0)

/-- A claim by core k: the ID it returns and the state after it (R364, R366). -/
def State.claim (s : State) (k : Nat) : Nat × State :=
  match s.presented k false with
  | none => (1023, s)
  | some (i, p) =>
    let s := s.activate k i
    (i, if s.intcForerunner then s.setStack k ((i, p) :: mget (fun _ => []) s.intc.stack k) else s)

/-- Count an ignored end of interrupt. -/
def State.badEoi (s : State) (k id : Nat) : State :=
  (s.satInc (F.INTC_EOI_BAD.count k)).wr (F.INTC_EOI_BAD.last k) (id % 1024)

/-- An end of interrupt by core k (R364–R366; a write of 1023 does nothing, log 20). -/
def State.eoi (s : State) (k id : Nat) : State :=
  if id % 1024 = 1023 then s
  else if s.intcForerunner then
    match mget (fun _ => []) s.intc.stack k with
    | [] => s.badEoi k id
    | (i, _) :: st => (s.endSource k i).setStack k st
  else if s.activeFor k (id % 1024) then s.endSource k (id % 1024)
  else s.badEoi k id

/-- An end of the fast claim of core k (R368). -/
def State.fastEoi (s : State) (k : Nat) : State :=
  let i := s.rd (F.INTC_FAST_ID.id k)
  if i = 1023 then s else (s.endSource k i).wr (F.INTC_FAST_ID.id k) 1023

/-- The automatic claim at a fast entry (R368). -/
def State.fastClaim (s : State) (k i : Nat) : State := (s.activate k i).wr (F.INTC_FAST_ID.id k) i

/-- INTC_EOI: a write by its core ends a source; by another master it is an ignored write (R365, R366, R369). -/
def execIntcEoiWrite (t k id : Nat) (m : Master) (s : State) : Result :=
  let s := s.at t
  .next (if m = .core k then s.eoi k id else s.ignoreWrite 0x4035_0000 (R.INTC_EOI k - 0x4035_0000) 0)

/-- INTC_FAST_EOI: a write by its core ends the fast claim (R368, R369). -/
def execIntcFastEoiWrite (t k : Nat) (m : Master) (s : State) : Result :=
  let s := s.at t
  .next (if m = .core k then s.fastEoi k else s.ignoreWrite 0x4035_0000 (R.INTC_FAST_EOI k - 0x4035_0000) 0)

/-- What reads of INTC_CLAIM(k) that meet in one Rim cycle answer: its core claims, every other master sees 1023 (R364, R369). -/
def State.readClaim (s : State) (k : Nat) (ms : List Master) : State :=
  let (i, s') := if ms.contains (.core k) then s.claim k else (1023, s)
  ms.foldl (fun s m => s.emit (.rimRead m (R.INTC_CLAIM k) (BitVec.ofNat 32 (if m = .core k then i else 1023)) false)) s'

/-- INTC_CLAIM read (R364, R369). -/
def execIntcClaimRead (t k : Nat) (ms : List Master) (s : State) : Result := .next ((s.at t).readClaim k ms)

/-- A core swap ends every claim of the core, its stack and its fast claim (R370). -/
def State.intcEndCore (s : State) (k : Nat) : State :=
  let s := s.intc.activeOn.foldl (fun s p => if p.2 = some k then s.endSource k p.1 else s) s
  let s := { s with intc.privActive := mset (fun _ => 0) s.intc.privActive k 0 }
  (s.setStack k []).wr (F.INTC_FAST_ID.id k) 1023

end Sys2Proof.Machine
end

