-- ==== Sys2Proof/Machine/Groupset.lean ====
section
/-! DEFINITION. The Groupset controller: staging, the check, the apply of each unit, rollback and abort (03: R61–R75). How a
head arms and leaves its swap frame is in Beam. -/

namespace Sys2Proof.Machine

/-- Base of the Groupset controller's block. -/
def gsBase : Nat := 0x4000_0000

/-- Words of the staging store (R58). -/
def stageWords : Nat := 0x18_0000

/-- State of the controller: 0 idle, 1 staging, 2 checking, 3 checked, 4 pending, 5 applying. -/
def State.gsState (s : State) : Nat := s.rd F.GS_STATUS.state

/-- Set it, with busy. -/
def State.setGsState (s : State) (n : Nat) : State :=
  (s.wr F.GS_STATUS.state n).wr F.GS_STATUS.busy (b2n (n == 2 || n == 5))

/-- A check or an apply is in progress (R62). -/
def State.gsBusy (s : State) : Bool := s.gsState == 2 || s.gsState == 5

/-- Empty the staging store. -/
def State.clearStaging (s : State) : State :=
  { s with gs.staging := [], gs.staged := false, gs.partialImage := false, gs.applyWanted := false }.wr F.GS_STAGE_PTR.word 0

/-- Answer the Vertik commands of a code that wait for the controller (R294). -/
def State.gsAnswer (s : State) (code status detail : Nat) : State :=
  let done := s.vtk.gsWait.filter (·.code == code)
  let s := { s with vtk.gsWait := s.vtk.gsWait.filter (·.code != code) }
  let f := s.rd64 R.GS_APPLY_FRAME
  done.foldl (fun s c =>
    let late := status == stOk && code == 0x52 && !s.gs.rollback && c.framed && c.frame != 0 && decide (c.frame < f)
    s.vtkFinish c (if late then stLate else status) detail f) s

/-! ## Staging (R61, R62) -/

/-- A write to GS_STAGE_PTR of word address n. -/
def State.stagePtr (s : State) (n : Nat) : State :=
  if s.gsBusy ∨ stageWords ≤ n then s.ignoreWrite gsBase 0x8 0
  else if n = 0 then (s.clearStaging.setGsState 0).gsAnswer 0x52 stSuperseded 0
  else s.wr F.GS_STAGE_PTR.word n

/-- GS_STAGE_PTR (R61). -/
def execGsStagePtrWrite (t n : Nat) (s : State) : Result := .next ((s.at t).stagePtr n)

/-- A write to GS_STAGE_DATA: past the end of the store nothing is stored (log 21). -/
def State.stageData (s : State) (w : Word) : State :=
  if s.gsBusy then s.ignoreWrite gsBase 0xC 0
  else
    let n := s.rd F.GS_STAGE_PTR.word
    if stageWords ≤ n then s
    else
      let s := { s with gs.staging := mset (fun _ => 0) s.gs.staging n w, gs.staged := true, gs.applyWanted := false }
      (s.wr F.GS_STAGE_PTR.word (n + 1)).setGsState 1

/-- GS_STAGE_DATA (R61). -/
def execGsStageDataWrite (t : Nat) (w : Word) (s : State) : Result := .next ((s.at t).stageData w)

/-! ## Check and abort (R64, R66, R75) -/

/-- A write of 1 to GS_CTRL.check: the device check of a staged image starts. -/
def State.gsCheck (s : State) : State :=
  if s.gs.staged ∧ (s.gsState = 1 ∨ s.gsState = 3) then s.setGsState 2 else s

/-- GS_CTRL.check (R64). -/
def execGsCtrlCheck (t : Nat) (s : State) : Result := .next (s.at t).gsCheck

/-- A write of 1 to GS_CTRL.abort (R75): before a unit has swapped nothing is left of the apply, parked cores go on, and a head in its
swap frame returns as it was. -/
def State.gsAbort (s : State) : State :=
  if s.gsState = 0 then s
  else if s.gsState = 5 ∧ s.gs.swapped ≠ [] ∨ s.gs.rollback = true then s.ignoreWrite gsBase 0x0 0
  else
    let back := fun p : Nat × HeadSwap => (p.1, { p.2 with armed := false, loaded := true, hubHold := false, doneAt := s.now })
    let s := { s with gs.toSwap := [], gs.loading := [], gs.parked := 0, gs.parkDue := 0, gs.lastDone := s.now,
                      gs.heads := (s.gs.heads.filter fun p : Nat × HeadSwap => p.2.inSwap).map back }
    (((s.clearStaging).setGsState 0).gsAnswer 0x51 stSuperseded 0).gsAnswer 0x52 stSuperseded 0

/-- GS_CTRL.abort (R75). -/
def execGsCtrlAbort (t : Nat) (s : State) : Result := .next (s.at t).gsAbort

/-- An image fails: rejected whole, with its reason, section and record (R66). -/
def State.gsReject (s : State) (f : GsFail) : State :=
  let s := ((s.clearStaging).setGsState 0).wr F.GS_STATUS.last_result 2
  let s := ((s.wr F.GS_REJECT.reason f.reason).wr F.GS_REJECT.sect f.sect).wr F.GS_REJECT.record f.record
  ((s.raise 218).gsAnswer 0x51 stGsRejected f.reason).gsAnswer 0x52 stGsRejected f.reason

/-- Cores due to park at the start of the chip frame: pool cores, and spoke cores whose head is not swapped or, absent or in Off, has no
swap frame (DEDUCED, log 116); all in a whole-chip apply (R71, R73). -/
def State.parkAtStart (s : State) (units : List UnitName) (whole : Bool) : Nat :=
  units.foldl (fun m u =>
    if u.type == 4 && (whole || isPool u.inst || !units.contains ⟨3, u.inst⟩ || !s.headPresent u.inst || s.headState u.inst == 0) then setBit m u.inst true
    else m) 0

/-- The apply starts at a chip frame start (R67, R68, R73). -/
def State.startApply (s : State) : State :=
  let units := (gsSections s.gs.staging).map fun g => (⟨g.type, g.inst⟩ : UnitName)
  let whole := !s.gs.partialImage
  { s.setGsState 5 with
    gs.toSwap := units, gs.swapped := [], gs.rollback := false, gs.whole := whole,
    gs.parkDue := s.parkAtStart units whole }

/-- A whole-chip apply of the Primary of a LOCKED Tandem: it first hands its heads and the control role over (R73). -/
def State.handAll (s : State) : State :=
  if s.tandem.handover then s
  else (List.range 24).foldl (fun s h => if s.netOwns h then s.holdTakeover h 6 s.now else s) { s with tandem.handover := true }

/-- The heads and the control role have gone to the twin. -/
def State.handedAll (s : State) : Bool :=
  s.isShadow && (List.range 24).all fun h => !s.netOwns h || s.headState h == 0

/-- The chip leaves lockstep for its whole-chip apply; it rejoins as Shadow (R73, R242). -/
def State.leaveForApply (s : State) : State :=
  let s := ((s.wr F.TANDEM_STATUS.state 0).wr F.TANDEM_STATUS.role 0).wr F.TANDEM_STATUS.eligible 0
  ({ s with tandem.rejoin := true }.wr F.GS_MODE_SUMMARY.tandem 0).set1 F.TANDEM_IRQ.state_change

/-- The start of an apply's chip frame: in lockstep a whole-chip apply is the Primary's alone, which starts it once its twin has taken
over; the twin's request ends (R73; DESIGN CHOICE, log 106). -/
def State.beginApply (s : State) : State :=
  if !s.locked || s.gs.partialImage then s.startApply
  else if s.gs.handing then (if s.handedAll then { s.leaveForApply with gs.handing := false }.startApply else s)
  else if s.isPrimary then { s with gs.handing := true }.handAll
  else s.setGsState 3

/-- A request stands: the image waits for its chip frame; with no chip frame schedule in force the apply starts at once (log 33). -/
def State.applyPending (s : State) : State := if s.gs.chipTf = 0 then s.startApply else s.setGsState 4

/-- The check completes (R64–R66): an apply requested meanwhile is then pending. -/
def State.checkDone (s : State) : State :=
  if s.gsState ≠ 2 then s
  else
    match s.gsDeviceCheck with
    | .error f => s.gsReject f
    | .ok _ =>
      let s := { s with gs.partialImage := gsPartial s.gs.staging, gs.passedAt := s.now }
      let s := if s.gs.applyWanted then s.applyPending else s.setGsState 3
      s.gsAnswer 0x51 stOk 0

/-- GS_CHECK_COMPLETE (R64–R66). -/
def execGsCheckComplete (t : Nat) (s : State) : Result := .next (s.at t).checkDone

/-! ## Requesting an apply (R67) -/

/-- The request as the controller takes it: pending, or the check starts; while PENDING it replaces the frame (R75). -/
def State.applyNow (s : State) (frame : Nat) : State :=
  if s.gsState = 5 then s.ignoreWrite gsBase 0x10 0
  else
    let s := s.wr64 R.GS_APPLY_FRAME frame
    if s.gsState = 3 ∨ s.gsState = 4 then s.applyPending
    else if s.gsState = 1 then { s with gs.applyWanted := true }.gsCheck
    else if s.gsState = 2 then { s with gs.applyWanted := true }
    else s

/-- In an ACTIVE member of a Peloton the apply is a group commit: the request joins the bundle of its frame, at the leader itself or by
way of it, and the check starts (R67, R254). -/
def State.applyGroup (s : State) (frame : Nat) : State :=
  let s := s.wr64 R.GS_APPLY_FRAME frame
  let s := if s.gsState = 1 then s.gsCheck else s
  if s.rd F.PEL_STATUS.role = 2 then { s with pel.opened := s.pel.opened ++ [⟨frame, [], true, [], [], []⟩] }
  else if s.isShadow then s
  else s.emit (.message 10 13 [s.rd F.PEL_SELF.member_index, frame])

/-- A write to GS_APPLY_FRAME_HI: in a Peloton it is a group commit, in a Tandem it travels through the journal (R67, R230). -/
def State.applyRequest (s : State) (frame : Nat) : State :=
  if s.rd F.PEL_STATUS.state = 2 then s.applyGroup frame
  else if s.isPrimary then (s.wr64 R.GS_APPLY_FRAME frame).journalIn (.apply frame)
  else if s.locked then s.wr64 R.GS_APPLY_FRAME frame
  else s.applyNow frame

/-- GS_APPLY_FRAME (R67). -/
def execGsApplyFrameWrite (t frame : Nat) (s : State) : Result := .next ((s.at t).applyRequest frame)

/-! ## What an apply changes -/

/-- Sections the apply in hand loads: the staged ones, or on a rollback the active ones (R74). -/
def State.nextSections (s : State) : List GsSec := if s.gs.rollback then s.activeSections else gsSections s.gs.staging

/-- Records of the apply's Hub section, when it has one. -/
def State.nextHub (s : State) : Option (List GsRec) := (secOf s.nextSections 2 0).map (·.recs)

/-- Requestor of a schedule entry in force. -/
def State.schedNow (s : State) (b j : Nat) : Nat := mget (fun i => if i % 256 = 0 then 126 else 127) s.hub.sched (256 * b + j)

/-- The apply changes the slots head h owns (R72). -/
def State.slotsChange (s : State) (h : Nat) : Bool :=
  match s.nextHub with
  | none => false
  | some hub => (List.range 32).any fun b => (List.range 256).any fun j =>
      (s.schedNow b j == h) != (imgSched hub b j == h)

/-- The apply affects head h: it swaps the head or changes its slots (R67, R72). -/
def State.swapAffects (s : State) (h : Nat) : Bool := s.nextSections.any (fun g => g.type == 3 && g.inst == h) || s.slotsChange h

/-- Root count at which chip frame n starts (R67). -/
def State.chipStart (s : State) (n : Nat) : Nat := s.gs.chipT0 + n * s.gs.chipTf

/-- Latch edge of the last frame of a head that begins before root count c. -/
def Beam.lastLatch (b : Beam) (c : Nat) : Option Nat :=
  if b.tf = 0 ∨ c ≤ b.t0 then none else some (b.time ((c - 1 - b.t0) / b.tf) b.vactive 0)

/-- The request for chip frame n is on time: its check passed strictly before those latch edges (R67). -/
def State.onTime (s : State) (n : Nat) : Bool :=
  (List.range 24).all fun h => !s.swapAffects h ||
    match (s.beam h).lastLatch (s.chipStart n) with
    | none => true
    | some c => decide (s.gs.passedAt < c)

/-- Place of a unit in the order of R68; the Hub, which follows its own point (R72), has none. -/
def swapOrder (type : Nat) : Nat :=
  match type with
  | 1 => 0
  | 11 => 1
  | 5 => 2
  | 6 => 3
  | 10 => 4
  | 8 => 5
  | 9 => 6
  | 7 => 7
  | 4 => 8
  | 3 => 9
  | _ => 0

/-- Head h's way through the swap. -/
def State.headSwap (s : State) (h : Nat) : HeadSwap := mget (fun _ => {}) s.gs.heads h

/-- Store it. -/
def State.setHeadSwap (s : State) (h : Nat) (w : HeadSwap) : State :=
  { s with gs.heads := mset (fun _ => {}) s.gs.heads h w }

/-! ## Loading a unit (R56, R63) -/

/-- Unit whose section gives the registers at an address (log 17). -/
def ownerOf (a : Nat) : Nat × Nat :=
  match blockOf a with
  | some (.HubU, _, _) => (2, 0)
  | some (.HeadU, i, _) => (3, i)
  | some (.Intc, _, _) => (5, 0)
  | some (.FaultU, _, _) => (6, 0)
  | some (.BellU, _, _) => (7, 0)
  | some (.DmaU, i, _) => (8, i)
  | some (.Timers, _, _) => (9, 0)
  | some (.IngestU, _, _) => (10, 0)
  | some (.DerailleurU, _, _) => (10, 0)
  | some (.EthPort, i, _) => (11, i)
  | _ => (1, 0)

/-- Bits of a register word that the Groupset gives (R10): those of its GS fields. GS_MODE_SUMMARY's are set apart. -/
def gsMask (a : Nat) : Word :=
  if a = R.GS_MODE_SUMMARY then 0
  else
    match findReg a with
    | none => 0
    | some r => (r.fields.filter (·.gs)).foldl (fun m f => m ||| fieldMask f.hi f.lo) 0

/-- Load one register word, its live copy too (R121). -/
def State.loadWord (s : State) (rs : List (Nat × Nat)) (a : Nat) : State :=
  let m := gsMask a
  let v := imgReg rs a &&& m
  let t := (s.setReg a ((s.reg a &&& ~~~ m) ||| v)).setLive a ((s.liveReg a &&& ~~~ m) ||| v)
  if a = R.ODO_UTC then { t with eth.utc := v.toNat, regs := if s.on F.ODO_UTC.from_gm then s.regs else t.regs } else t

/-- Load the registers of a section: those it records take their words, the unit's others their reset values (R56). -/
def State.loadRegs (s : State) (g : GsSec) : State :=
  let held := ((s.regs.map (·.1)) ++ (s.live.map (·.1))).filter fun a => ownerOf a == (g.type, g.inst)
  ((g.regs.map (·.1)) ++ held ++ [R.ODO_UTC].filter fun a => ownerOf a == (g.type, g.inst)).eraseDups.foldl (fun s a => s.loadWord g.regs a) s

/-- The chip section's settings that no register holds (R56, log 17). -/
def State.loadChip (s : State) (g : GsSec) : State :=
  let rs := g.regs
  let w64 := fun a => (imgReg rs a).toNat + 2 ^ 32 * (imgReg rs (a + 4)).toNat
  let role := imgFld rs F.GS_MODE_SUMMARY.peloton
  let s := { s with gs.chipT0 := w64 0x4000_0080, gs.chipTf := w64 0x4000_0088,
                    gs.paired := imgFld rs F.GS_MODE_SUMMARY.tandem != 0, gs.pelotonRole := role }
  s.wr F.GS_MODE_SUMMARY.profile (if s.clock.recovery ∧ s.sec.booting.isSome then 0 else imgFld rs F.GS_MODE_SUMMARY.profile)

/-- The Hub's tables (R43, R49). -/
def State.loadHub (s : State) (g : GsSec) : State :=
  let hub := g.recs
  let sched := (List.range 8192).foldl (fun m i =>
    mset (fun i => if i % 256 = 0 then 126 else 127) m i (imgSched hub (i / 256) (i % 256))) []
  let regions := (List.range 64).map fun r =>
    match hub.find? fun q => q.kind == 5 && q.target == r with
    | none => (⟨0, 0, 0⟩ : Region)
    | some q => ⟨q.words.getD 0 0, q.words.getD 1 0, q.words.getD 2 0⟩
  { s with hub.sched := sched, hub.regions := regions }

/-- A head's declared demand and frame period (R53, R166). -/
def State.loadHead (s : State) (g : GsSec) : State :=
  let h := g.inst
  let demand := (List.range 32).foldl (fun m b => mset (fun _ => 0) m (32 * h + b) (secDemand g.recs b)) s.gs.demand
  let s := { s with gs.demand := demand }
  s.wr64 (R.BEAM_TF h) (s.rd (F.BEAM_H.htotal h) * s.rd (F.BEAM_V.vtotal h) * s.rd (F.BEAM_N.n_div h))

/-- A core's memories, entry and slots: code the records omit is 0, data they omit stays (R60); the core is fresh, its claims end, its
watchdog reloads (R71, R341, R370). -/
def State.loadCore (s : State) (g : GsSec) : State :=
  let k := g.inst
  let s := s.modCore k fun c => { c with code := [] }
  let s := (g.recs.filter (·.kind == 2)).foldl (fun s r =>
    r.words.zipIdx.foldl (fun s w => s.localWrite k (r.target + 4 * w.2) (natLe 4 w.1)) s) s
  let w := match g.recs.find? (·.kind == 6) with
    | some r => r.words.getD 0 0
    | none => 0
  let c := s.core k
  let s := s.setCore k (CoreS.fresh c.code c.data (bits w 15 0) (bits w 19 16))
  let s := (s.clearLink k).intcEndCore k
  { s with fault.wdog := mset (fun _ => {}) s.fault.wdog k { reload := s.now } }

/-- The ingest and Derailleur section: one that clears the enable does what a write that clears it does (R104). -/
def State.loadDer (s : State) (on : Bool) : State := if on && !s.derOn then s.derDisable else s

/-- A watchdog that the fault section newly enables starts its full period (R419, log 123). -/
def State.loadFaults (s before : State) : State :=
  (List.range 32).foldl (fun s k =>
    if s.on (F.WDOG_CTRL.enable k) && !before.on (F.WDOG_CTRL.enable k) then
      { s with fault.wdog := mset (fun _ => {}) s.fault.wdog k { reload := s.now } }
    else s) s

/-- A port the image has not is disabled: its link goes down (R59). -/
def State.loadPort (s : State) (g : GsSec) : State :=
  if g.absent then
    ((s.wr (F.ETH_STATUS.link_up g.inst) 0).wr (F.ETH_STATUS.ptp_state g.inst) 0).wr (F.ETH_STATUS.followed g.inst) 0
  else s

/-- Load a section into its unit. -/
def State.loadUnit (s : State) (g : GsSec) : State :=
  let before := s
  let s := if g.type = 4 then s else s.loadRegs g
  match g.type with
  | 1 => s.loadChip g
  | 2 => s.loadHub g
  | 3 => s.loadHead g
  | 4 => if g.absent then s else s.loadCore g
  | 6 => s.loadFaults before
  | 7 => s.bellSwap before g.regs
  | 9 => { s with field.toggle := 0, der.lines := 0, field.applied := true, field.keeper := true }
  | 10 => s.loadDer before.derOn
  | 11 => s.loadPort g
  | _ => s

/-! ## Completing (R68, R74) -/

/-- The image in force becomes the one just applied. -/
def State.enterImage (s : State) : State :=
  let m := s.gs.staging
  let secs := if s.gs.partialImage then composeSections s.activeSections (gsSections m) else gsSections m
  let act := if s.gs.partialImage then storeOf (packImage m secs) else m
  let digest := gsBodyDigest act
  let s := { s with gs.active := act, gs.digest := digest }
  let s := (List.range 16).foldl (fun s k => s.setReg (R.GS_ACTIVE_DIGEST k) (BitVec.ofNat 32 (leAt digest (4 * k) 4))) s
  let s := secs.zipIdx.foldl (fun s p => s.setReg (R.GS_UNIT_VERSION p.2) (BitVec.ofNat 32 p.1.version)) s
  let s := s.archive 9 0xFF (nsOf s.now) (storeBytes act 0 (gsLength act / 4))
  s.setReg R.GS_SECURITY_VERSION (BitVec.ofNat 32 (gsVersion act))

/-- The boot image is in force: SEC_BOOT names its source and the time it took; in Factory its wrapper's prov_key takes slot 0
(R427, R431). -/
def State.bootDone (s : State) : State :=
  match s.sec.booting with
  | none => s
  | some k =>
    let s := (s.wr F.SEC_BOOT.source k).wr F.SEC_BOOT.boot_ms (min 0xFFFF ((s.now - s.sec.bootStart) / 5_940_000))
    let key := if s.secState = 0 ∧ k ≠ 2 then s.sec.srcKey else s.sec.provKey
    { s with sec.booting := none, sec.bootLeft := [], sec.bootForever := false, sec.provKey := key }

/-- The last unit has swapped, or the last one has been restored. -/
def State.finishApply (s : State) : State :=
  if s.gs.toSwap ≠ [] ∨ s.gsState ≠ 5 then s
  else if s.gs.rollback then
    let s := { s.clearStaging with gs.rollback := false, gs.parkDue := 0, gs.lastDone := s.now }
    (s.setGsState 0).gsAnswer 0x52 stOk 0
  else
    let free := s.gs.whole && s.sec.booting.isNone
    let s := { s.enterImage.clearStaging with gs.swapped := [], gs.lastDone := s.now, clock.recovery := s.clock.recovery && !free,
                                              tandem.rejoin := s.tandem.rejoin || (s.clock.recovery && free && s.gs.paired) }
    let s := ((s.setGsState 0).wr F.GS_STATUS.last_result 1).wrapInc F.GS_STATUS.applies
    let s := if s.gs.whole then s.bootDone else s
    s.gsAnswer 0x52 stOk 0

/-- What a chip frame start does to a pending apply: it starts, or waits one chip frame more (R67). -/
def State.applyAtFrame (s : State) (n : Nat) : State :=
  let s := if s.gs.rollback then s.finishApply else s
  if s.gsState = 4 ∧ s.rd64 R.GS_APPLY_FRAME ≤ n then
    if s.onTime (s.rd64 R.GS_APPLY_FRAME) then s.beginApply else s.wr64 R.GS_APPLY_FRAME (n + 1)
  else s

/-- A unit has taken its section. -/
def State.unitSwapped (s : State) (g : GsSec) : State :=
  let u : UnitName := ⟨g.type, g.inst⟩
  let present := setBit s.gs.present (sectionIndex g.type g.inst) (!g.absent)
  { s with gs.toSwap := s.gs.toSwap.erase u, gs.loading := s.gs.loading.erase u, gs.present := present,
           gs.swapped := if s.gs.rollback then s.gs.swapped else s.gs.swapped ++ [u] }.finishApply

/-- The Hub swap waits for head h: its slots change, or every section swaps (R72, R73). -/
def State.hubNeeds (s : State) (h : Nat) : Bool :=
  (if s.gsState = 5 then s.gs.whole else !s.gs.partialImage) || s.slotsChange h

/-- Every head the Hub waits for is in Off, or in Freewheel or a blank frame entered for this apply (R72, R73). -/
def State.hubMaySwap (s : State) : Bool :=
  (List.range 24).all fun h => !s.hubNeeds h || s.headState h == 0 ||
    ((s.headSwap h).inSwap && (s.headState h == 2 || (s.headSwap h).blank))

/-- The Hub has swapped: heads it held are free to return (R72). -/
def State.releaseHubHold (s : State) : State :=
  (List.range 24).foldl (fun s h =>
    if (s.headSwap h).hubHold then s.setHeadSwap h { s.headSwap h with hubHold := false, doneAt := s.now } else s) s

/-- The unit's place in the order has come (R68); a rollback has no order (R74). -/
def State.swapTurn (s : State) (u : UnitName) : Bool :=
  s.gsState == 5 && s.gs.toSwap.contains u && (s.gs.rollback || u.type == 2 ||
    !s.gs.toSwap.any (fun v => v.type != 2 && decide (swapOrder v.type < swapOrder u.type)))

/-- A frame boundary of head h is now, before T0 too; a head with no schedule has none to wait for (R166). -/
def State.headBoundary (s : State) (h : Nat) : Bool :=
  let b := s.beam h
  b.tf == 0 || ((s.now : Int) - b.t0) % b.tf == 0

/-- The moment is an atomic point of the unit (R56): a slot-round boundary, an audio tick, a field-line sample edge, a Rim cycle
boundary; a head in Off waits for its frame boundary (R69), and the fault unit for the end of an action (R418). The others' points are those of the commands themselves. -/
def State.atomicPoint (s : State) (u : UnitName) : Bool :=
  match u.type with
  | 2 => s.now % 2048 == 0
  | 3 => (s.headSwap u.inst).inSwap || s.headBoundary u.inst
  | 5 => s.now % 8 == 0
  | 6 => s.fault.running.isNone
  | 7 => s.now % tickPeriodBell == 0
  | 9 => s.now % samplePeriod == 0
  | _ => true

/-- The spoke core of a head whose swap frame starts is due to park when its own section is still to swap (R71). -/
def State.parkSpoke (s : State) (h : Nat) : State :=
  if s.gs.toSwap.contains ⟨4, h⟩ && !s.gs.whole && !s.coreParked h then { s with gs.parkDue := setBit s.gs.parkDue h true } else s

/-- The atomic point of a unit: load it, or for a head or core start its load (R63, R68, R69, R71); a DMA engine waits until no
channel runs (R395). -/
def State.swapUnit (s : State) (u : UnitName) : State :=
  match secOf s.nextSections u.type u.inst with
  | none => { s with gs.toSwap := s.gs.toSwap.erase u }.finishApply
  | some g =>
    if u.type = 3 then
      if ((s.headSwap u.inst).inSwap || s.headState u.inst == 0) && !s.gs.loading.contains u then
        { s with gs.loading := s.gs.loading ++ [u] }.parkSpoke u.inst
      else s
    else if u.type = 4 then
      if s.coreParked u.inst && !s.gs.loading.contains u then { s with gs.loading := s.gs.loading ++ [u] } else s
    else if u.type = 2 then
      if s.hubMaySwap then ((s.loadUnit g).releaseHubHold).unitSwapped g else s
    else if u.type = 8 ∧ s.on (F.DMA_STATUS.busy u.inst) = true then s.set1 (F.DMA_STATUS.swap_pending u.inst)
    else if u.type = 8 then ((s.loadUnit g).wr (F.DMA_STATUS.swap_pending u.inst) 0).unitSwapped g
    else (s.loadUnit g).unitSwapped g

/-- UNIT_SWAP: a unit of the apply swaps at its atomic point (R68). -/
def execUnitSwap (t type num : Nat) (s : State) : Result :=
  let s := s.at t
  .next (if s.swapTurn ⟨type, num⟩ && s.atomicPoint ⟨type, num⟩ then s.swapUnit ⟨type, num⟩ else s)

/-- Head states that a start allows (R26): in a Recovery start only Run of the head the OTP names, H0 when none is named (R424); a
failed pipeline stays Off (R464). -/
def State.stateAllowed (s : State) (h v : Nat) : Bool :=
  let named := match s.inForceBytes with
    | none => 0
    | some b => if leAt b 7 1 < 24 then leAt b 7 1 else 0
  v == 0 || (!bit s.clock.failedHeads h && (!s.clock.recovery || (h == named && v == 1)))

/-- A loaded section asks for its state: the head returns in it from its swap (R56, R69, R73). Freewheel is a request, armed as
one (R487), and a state the start does not allow is not entered (R26). -/
def State.sectionState (s : State) (h : Nat) (absent : Bool) : State :=
  let v := if absent then 0 else s.rd (F.TX_CTRL.req_state h)
  let w := s.headSwap h
  let base := if w.inSwap then w.back else s.headState h
  let hold := w.hubHold || (s.hubNeeds h && s.gs.toSwap.contains ⟨2, 0⟩)
  let back := if v = 2 then base else if s.stateAllowed h v then v else 0
  let s := s.setHeadSwap h { w with inSwap := true, loaded := true, hubHold := hold, doneAt := s.now, back := back }
  s.modHead h fun x => { x with request := if v = 2 then some (2, s.now) else none }

/-- Freewheel capability (R192): the section selects eDP, and the panel as read at its plug allows it. -/
def State.judgeCapable (s : State) (h : Nat) : Bool :=
  let b := s.beam h
  let x := s.head h
  s.on (F.TX_LINK.edp h) && s.on (F.TX_STATUS.hpd h) && decide (1 ≤ x.psrVersion) && !x.psrExitTrain
    && decide (297 * x.psrSetup ≤ (b.vtotal - b.vactive - 2) * b.htotal * b.n * 50)

/-- A head beside its registers as a section finds it that had none: what is known of its panel stays. -/
def HeadS.renew (x : HeadS) : HeadS :=
  { psrVersion := x.psrVersion, psrExitTrain := x.psrExitTrain, psrSetup := x.psrSetup, assr := x.assr, psrOn := x.psrOn }

/-- The load of a head's section completes: a head that had none starts its chain anew, what the panel can do is judged again, and the
band seals of a blank swap frame are formed with the new section's bands (R69, R192, R218, R224). -/
def State.headLoaded (s : State) (h : Nat) : State :=
  match secOf s.nextSections 3 h with
  | none => s
  | some g =>
    let s := if !s.headPresent h && !g.absent then s.modHead h HeadS.renew else s
    let s := ((s.loadUnit g).modHead h fun x => { x with seals := [] }).sectionState h g.absent
    let s := s.wr (F.TX_STATUS.fw_capable h) (b2n (s.judgeCapable h))
    s.unitSwapped g

/-- HEAD_SWAP_LOAD_DONE (R69). -/
def execHeadSwapLoadDone (t h : Nat) (s : State) : Result :=
  let s := s.at t
  .next (if s.gs.loading.contains ⟨3, h⟩ then s.headLoaded h else s)

/-- The core is at an instruction boundary at which it may park: no load waits for its delay slot (R71, R349). -/
def State.atBoundary (s : State) (k : Nat) : Bool := (s.core k).load.isNone

/-- CORE_PARK: a core due to park does so at its boundary; no instruction runs in the parked state (R71, R74). -/
def execCorePark (t k : Nat) (s : State) : Result :=
  let s := s.at t
  .next (if bit s.gs.parkDue k ∧ (s.atBoundary k ∨ !s.corePresent k) then
      { s with gs.parked := setBit s.gs.parked k true, gs.parkDue := setBit s.gs.parkDue k false }
    else s)

/-- CORE_LOAD_DONE: a parked core's section has loaded; it resumes at its new entry address (R71). -/
def execCoreLoadDone (t k : Nat) (s : State) : Result :=
  let s := s.at t
  .next (match s.gs.loading.contains ⟨4, k⟩, secOf s.nextSections 4 k with
    | true, some g =>
      let s := s.loadUnit g
      { s with gs.parked := setBit s.gs.parked k false }.unitSwapped g
    | _, _ => s)

/-- Rim writes to a unit whose load runs are discarded and counted (R63). -/
def State.unitLoading (s : State) (a : Nat) : Bool :=
  let u := ownerOf a
  s.gs.loading.contains ⟨u.1, u.2⟩

end Sys2Proof.Machine
end

