-- ==== Sys2Proof/Machine/Fetch.lean ====
section
/-! DEFINITION. The head fetch port: what line y samples and asks for, what the data releases, what is dropped, and the
trace build (02: R46, R52, R55; 05: R109–R129; 06: R133–R141; 08: R172, R175). -/

namespace Sys2Proof.Machine

/-- Head h's own address range of the Rim. -/
def headBase (h : Nat) : Nat := 0x4010_0000 + 0x1_0000 * h

/-- L y : P x of frame n of head h leaves the pins now (R20, R166). -/
def State.beamAt (s : State) (h n y x : Nat) : Bool := s.schedRuns && decide (s.now = (s.beam h).time n y x)

/-- Live register words of head h at block offsets [lo, hi). -/
def State.liveOf (s : State) (h lo hi : Nat) : SMap Word :=
  s.live.filter fun p => decide (headBase h + lo ≤ p.1 ∧ p.1 < headBase h + hi)

/-- A register field as sampled at the line's fetch start (R122). -/
def LineJob.rd (j : LineJob) (f : Fld) : Nat := getBits (mget resetWord j.regs f.reg) f.hi f.lo
def LineJob.on (j : LineJob) (f : Fld) : Bool := j.rd f == 1

/-! ## What the head fetches (R189, R201, R202) -/

/-- Start of the fetch of line y of frame n: L(y−2):P0 (R16). -/
def State.fetchStart (s : State) (h n y : Nat) : Nat :=
  let b := s.beam h
  b.time n y 0 - 2 * b.htotal * b.n

/-- The fetch of line y of frame n starts now. -/
def State.fetchStarts (s : State) (h n y : Nat) : Bool :=
  let b := s.beam h
  s.schedRuns && decide (s.now + 2 * b.htotal * b.n = b.time n y 0)

/-- Every unit of a whole-chip apply has loaded (R73). -/
def State.applyWhole (s : State) : Bool := !s.gs.whole || (s.gs.toSwap.isEmpty && s.gs.loading.isEmpty)

/-- The head returns from its swap at the start of frame n: its section, and what it was held for, was loaded before the
fetch of line 0 of that frame starts (R69, R72, R73). -/
def State.swapLeaves (s : State) (h n : Nat) : Bool :=
  let w := s.headSwap h
  w.inSwap && w.loaded && !w.hubHold && s.applyWhole
    && decide (w.doneAt < s.fetchStart h n 0) && (!s.gs.whole || decide (s.gs.lastDone < s.fetchStart h n 0))

/-- The state in force for line y of frame n: lines 0 and 1 are fetched under the state of the frame start to come (R190, R69). -/
def State.stateFor (s : State) (h n y : Nat) : Nat :=
  if y < 2 then (if s.swapLeaves h n then (s.headSwap h).back else (s.head h).armed.getD (s.headState h)) else s.headState h

/-- Line y of frame n lies in a swap frame (R69, R70). -/
def State.swapFrame (s : State) (h n y : Nat) : Bool :=
  let w := s.headSwap h
  if y < 2 then w.armed || (w.inSwap && !s.swapLeaves h n) else w.inSwap

/-- A hold packet names frame n (R202). -/
def State.held (s : State) (h n : Nat) : Bool := (s.head h).holds.contains n

/-- The panel can take Freewheel (R192). -/
def State.fwCapable (s : State) (h : Nat) : Bool := s.on (F.TX_STATUS.fw_capable h)

/-- What line y of frame n fetches: 0 nothing, 1 the head's own layers, 2 the mirror ring (R189, R202). -/
def State.fetchMode (s : State) (h n y : Nat) : Nat :=
  let st := s.stateFor h n y
  if !s.headPresent h || (s.swapFrame h n y && ((s.headSwap h).hides || st == 1)) then 0
  else if st = 3 then
    if s.held h n && s.fwCapable h then 0
    else if (s.head h).ownLayers then 1 else 2
  else if st = 1 then 1
  else 0

/-! ## Tile layers (R109–R120, R123) -/

/-- Side of a tile, bytes of one tile row and of one tile (R109). -/
def LineJob.side (j : LineJob) (l : Nat) : Nat := if j.on (F.LL_CTRL.tile_size j.head l) then 16 else 8
def LineJob.rowBytes (j : LineJob) (l : Nat) : Nat := j.side l * formatBpp (j.rd (F.LL_CTRL.format j.head l)) / 8
def LineJob.tileBytes (j : LineJob) (l : Nat) : Nat := j.side l * j.rowBytes l

/-- Layer-space coordinate of a pixel (R116): origin, position and signed scroll displacement. -/
def layerCoord (origin p d : Nat) : Nat := wrap 20 ((origin : Int) + p + signed 16 d)

/-- Coordinate inside the map; none is Transparent (R117). -/
def mapCoord (p p0 size : Nat) (wrapOn : Bool) : Option Nat :=
  let u := (p + 2 ^ 20 - p0) % 2 ^ 20
  if u < size then some u else if wrapOn then some (u % size) else none

/-- Bytes of a map entry (R115). -/
def entryBytes (fr : Bool) : Nat := if fr then 2 else 4

/-- The cell under pixel x of the line with scroll word `sc`: offset of its map entry, and the displayed pixel in it; none is
Transparent (R115–R117). -/
def LineJob.cell (j : LineJob) (fr : Bool) (l sc x : Nat) : Option (Nat × Nat × Nat) :=
  let h := j.head
  let side := j.side l
  let mw := j.rd (F.LL_CTRL.map_w_log2 h l)
  let mh := j.rd (F.LL_CTRL.map_h_log2 h l)
  let X := layerCoord (j.rd (F.LL_ORIGIN_X.origin h l)) x (bits sc 15 0)
  let Y := layerCoord (j.rd (F.LL_ORIGIN_Y.origin h l)) j.y (bits sc 31 16)
  match mapCoord X (j.rd (F.LL_MAP_X0.pos h l)) (2 ^ mw * side) (j.on (F.LL_CTRL.wrap_x h l)),
        mapCoord Y (j.rd (F.LL_MAP_Y0.pos h l)) (2 ^ mh * side) (j.on (F.LL_CTRL.wrap_y h l)) with
  | some u, some v =>
    some ((64 * j.rd (F.LL_MAP_BASE.base h l) + (v / side * 2 ^ mw + u / side) * entryBytes fr) % 2 ^ 28, u % side, v % side)
  | _, _ => none

/-- A cell the line crosses: offset of its entry, row inside it, and its first pixel on the line. -/
structure LineCell where
  entry : Nat
  row : Nat
  x : Nat
  deriving DecidableEq, Repr

/-- The cells the line crosses, left to right (R123). -/
def LineJob.cells (j : LineJob) (fr : Bool) (l sc hactive : Nat) : List LineCell :=
  (List.range hactive).filterMap fun x =>
    match j.cell fr l sc x with
    | some (o, tx, ty) => if x = 0 ∨ tx = 0 then some ⟨o, ty, x⟩ else none
    | none => none

/-- A map entry in force (R112, R113). -/
structure MapCell where
  prio : Nat
  rotate : Bool
  vflip : Bool
  hflip : Bool
  palette : Nat
  tile : Nat
  deriving DecidableEq, Repr

/-- Decode a map entry word, or halfword in Forerunner (R112, R113). -/
def LineJob.mapCell (j : LineJob) (fr : Bool) (l w : Nat) : MapCell :=
  if fr then
    { prio := if bit w 14 then 2 else 0, rotate := false, vflip := false, hflip := bit w 13,
      palette := j.rd (F.LL_FR_BASE.fr_pal_base j.head l) + bits w 12 10,
      tile := (j.rd (F.LL_FR_BASE.fr_tile_base j.head l) + bits w 9 0) % 65536 }
  else
    { prio := bits w 26 25, rotate := bit w 24, vflip := bit w 23, hflip := bit w 22, palette := bits w 21 16,
      tile := bits w 15 0 }

/-- The cell draws: tile and, but in the direct format, palette within their ranges (R119). -/
def LineJob.drawn (j : LineJob) (l : Nat) (c : MapCell) : Bool :=
  let h := j.head
  decide (j.rd (F.LL_TILE_RANGE.tile_lo h l) ≤ c.tile ∧ c.tile ≤ j.rd (F.LL_TILE_RANGE.tile_hi h l))
    && (j.rd (F.LL_CTRL.format h l) == 3
        || decide (j.rd (F.LL_PAL_RANGE.pal_lo h l) ≤ c.palette ∧ c.palette ≤ j.rd (F.LL_PAL_RANGE.pal_hi h l)))

/-- The cell is turned (R119). -/
def LineJob.turned (j : LineJob) (l : Nat) (c : MapCell) : Bool := c.rotate && j.on (F.LL_CTRL.allow_rotate j.head l)

/-- Source pixel of a displayed pixel (R118, R137): `w2`, `h2` the displayed size, `hh` the source height. -/
def sourcePixel (hflip vflip rot : Bool) (w2 h2 hh tx ty : Nat) : Nat × Nat :=
  let u1 := if hflip then w2 - 1 - tx else tx
  let v1 := if vflip then h2 - 1 - ty else ty
  if rot then (v1, hh - 1 - u1) else (u1, v1)

/-- Scene offset of tile t of the layer's bank (R111). -/
def LineJob.tileOff (j : LineJob) (l t : Nat) : Nat :=
  (64 * j.rd (F.LL_PATTERN_BASE.base j.head l) + t * j.tileBytes l) % 2 ^ 28

/-- The bank line that holds an offset. -/
def bankLine (off : Nat) : Nat := off % 2 ^ 28 / 64 * 64

/-- The bank lines one drawn cell reads on the line (R123). -/
def LineJob.cellLines (j : LineJob) (l ty : Nat) (c : MapCell) : List Nat :=
  let o := j.tileOff l c.tile
  if j.turned l c then (List.range (ceilDiv (j.tileBytes l) 64)).map fun k => bankLine (o + 64 * k)
  else
    let v := if c.vflip then j.side l - 1 - ty else ty
    [bankLine (o + v * j.rowBytes l)]

/-- Map requests of a layer: the bank lines of the entries of the cells crossed (R123). -/
def LineJob.mapReqs (j : LineJob) (fr : Bool) (l sc hactive : Nat) : List FetchReq :=
  ((j.cells fr l sc hactive).map fun c => bankLine c.entry).eraseDups.map fun o => ⟨.map l, o⟩

/-- Scene offset of the scroll-table entry of the line (R116). -/
def LineJob.scrollOff (j : LineJob) (l : Nat) : Nat := (64 * j.rd (F.LL_SCROLL_TABLE.base j.head l) + j.y * 4) % 2 ^ 28

/-- First requests of the tile layers (R52): the scroll-table requests, then the map requests of layers without a scroll table. -/
def LineJob.layerReqs (j : LineJob) (fr : Bool) (hactive : Nat) : List FetchReq :=
  let ls := (List.range 8).filter fun l => j.on (F.LL_CTRL.enable j.head l)
  let scrolls := ls.filter fun l => j.on (F.LL_CTRL.scroll_table_en j.head l)
  let plain := ls.filter fun l => !j.on (F.LL_CTRL.scroll_table_en j.head l)
  scrolls.map (fun l => ⟨.scroll l, bankLine (j.scrollOff l)⟩) ++ plain.flatMap fun l => j.mapReqs fr l 0 hactive

/-! ## Sprites (R133–R141, R145) -/

/-- Word w of a descriptor's eight. -/
def sw (ws : List Nat) (w : Nat) : Nat := ws.getD w 0

/-- Source size, format and zoom of a descriptor (R133). -/
def sprW (ws : List Nat) : Nat := (bits (sw ws 0) 4 0 + 1) * 8
def sprH (ws : List Nat) : Nat := (bits (sw ws 0) 12 8 + 1) * 8
def sprFormat (ws : List Nat) : Nat := bits (sw ws 0) 23 22
def sprZoom (ws : List Nat) : Nat := 2 ^ bits (sw ws 0) 30 29
def sprRowBytes (ws : List Nat) : Nat := sprW ws * formatBpp (sprFormat ws) / 8
def sprStride (ws : List Nat) : Nat := ceilDiv (sprH ws * sprRowBytes ws) 64 * 64

/-- A bad descriptor among the enabled ones (R134). -/
def LineJob.sprBad (j : LineJob) (ws : List Nat) : Bool :=
  let w0 := sw ws 0
  bits w0 30 29 == 3 || bits w0 15 13 != 0 || bits w0 7 5 != 0 || bits (sw ws 1) 31 20 != 0 || bits (sw ws 2) 31 20 != 0
    || bits (sw ws 3) 31 28 != 0 || bits (sw ws 3) 5 0 != 0 || bits (sw ws 4) 31 8 != 0 || sw ws 6 != 0 || sw ws 7 != 0
    || (sprFormat ws != 3 && !decide (j.rd (F.SPR_PAL_RANGE.pal_lo j.head) ≤ bits w0 21 16
        ∧ bits w0 21 16 ≤ j.rd (F.SPR_PAL_RANGE.pal_hi j.head)))

/-- The sprite is turned. -/
def LineJob.sprTurned (j : LineJob) (ws : List Nat) : Bool := bit (sw ws 0) 26 && j.on (F.SPR_CTRL.allow_rotate j.head)

/-- Displayed size before the zoom (R136). -/
def LineJob.sprW2 (j : LineJob) (ws : List Nat) : Nat := if j.sprTurned ws then sprH ws else sprW ws
def LineJob.sprH2 (j : LineJob) (ws : List Nat) : Nat := if j.sprTurned ws then sprW ws else sprH ws

/-- Signed place of the box on the head (R136). -/
def LineJob.sprX (j : LineJob) (ws : List Nat) : Int :=
  signed 20 (bits (sw ws 1) 19 0 + 2 ^ 20 - j.rd (F.SPR_ORIGIN_X.origin j.head))
def LineJob.sprY (j : LineJob) (ws : List Nat) : Int :=
  signed 20 (bits (sw ws 2) 19 0 + 2 ^ 20 - j.rd (F.SPR_ORIGIN_Y.origin j.head))

/-- The box covers the line and overlaps the active pixels (R140). -/
def LineJob.sprCovers (j : LineJob) (hactive : Nat) (ws : List Nat) : Bool :=
  let z := sprZoom ws
  decide (j.sprY ws ≤ j.y ∧ (j.y : Int) < j.sprY ws + (j.sprH2 ws * z : Nat)
    ∧ j.sprX ws < hactive ∧ 0 < j.sprX ws + (j.sprW2 ws * z : Nat))

/-- Displayed row of the box on the line, zoom undone. -/
def LineJob.sprRow (j : LineJob) (ws : List Nat) : Nat := ((j.y : Int) - j.sprY ws).toNat / sprZoom ws

/-- Offset of the shown frame of the pattern (R135). -/
def sprFrameOff (ws : List Nat) : Nat := sw ws 3 + bits (sw ws 4) 7 0 * sprStride ws

/-- The bank lines a selected sprite reads on the line (R141). -/
def LineJob.sprLines (j : LineJob) (ws : List Nat) : List Nat :=
  let o := sprFrameOff ws
  if j.sprTurned ws then (List.range (sprStride ws / 64)).map fun k => bankLine (o + 64 * k)
  else
    let v := j.sprRow ws
    let sy := if bit (sw ws 0) 25 then sprH ws - 1 - v else v
    let a := o + sy * sprRowBytes ws
    (List.range (ceilDiv (a % 64 + sprRowBytes ws) 64)).map fun k => bankLine (a + 64 * k)

/-- The eight words of descriptor d of head h. -/
def State.sprWords (s : State) (h d : Nat) : List Nat :=
  (List.range 8).map fun w => (s.arr (arrayAddr h (0x1_8000 + 32 * d + w * 4))).toNat

/-- Descriptors scanned, in order (R145). -/
def LineJob.sprScan (j : LineJob) : List Nat :=
  if j.on (F.SPR_CTRL.split j.head) then
    (List.range 512).map (· + 512 * j.rd (F.SPR_CTRL.set_sel j.head))
  else List.range 1024

/-- The selection in the making (R140): access cost so far, selected sprites in reverse order, dropped ones in order. -/
structure SprPick where
  cost : Nat := 0
  picked : List (Nat × List Nat) := []
  dropped : List Nat := []
  deriving DecidableEq, Repr

/-- One candidate of the scan (R140). -/
def LineJob.sprTake (j : LineJob) (p : SprPick) (c : Nat × List Nat) : SprPick :=
  let cost := (j.sprLines c.2).length
  if p.picked.length = j.rd (F.SPR_CTRL.max_line_m1 j.head) + 1 ∨ j.rd (F.SPR_BUDGET.access_max j.head) < p.cost + cost then
    { p with dropped := p.dropped ++ [c.1] }
  else { p with cost := p.cost + cost, picked := c :: p.picked }

/-- The selection among the descriptors of a scan with their words (R140). -/
def LineJob.sprSelect (j : LineJob) (hactive : Nat) (ds : List (Nat × List Nat)) : SprPick :=
  (ds.filter fun d => bit (sw d.2 0) 31 && !j.sprBad d.2 && j.sprCovers hactive d.2).foldl j.sprTake {}

/-- The sprites of the line, by the descriptors held strictly before the fetch start: checked and counted, candidates selected, drops
counted (R134, R138, R140). -/
def State.pickSprites (s : State) (j : LineJob) (hactive : Nat) : List (Nat × List Nat) × State :=
  let h := j.head
  if !j.on (F.SPR_CTRL.enable h) then ([], s)
  else
    let ds := (j.sprScan.map fun d => (d, s.before.sprWords h d)).filter fun d => bit (sw d.2 0) 31
    let bad := (ds.filter fun d => j.sprBad d.2).map (·.1)
    let rot := (ds.filter fun d => !j.sprBad d.2 && bit (sw d.2 0) 26 && !j.on (F.SPR_CTRL.allow_rotate h)).map (·.1)
    let x := s.head h
    let newBad := bad.filter fun d => !x.badSeen.contains d
    let newRot := rot.filter fun d => !x.rotSeen.contains d
    let s := s.setHead h { x with badSeen := x.badSeen ++ newBad, rotSeen := x.rotSeen ++ newRot }
    let s := (s.satInc (F.SPR_ERRS.bad_desc h) newBad.length).satInc (F.SPR_IGNORED.rot_ignored h) newRot.length
    let p := j.sprSelect hactive ds
    let s := s.peak (F.SPR_LINE_STATUS.peak h) p.picked.length
    let s := match p.dropped with
      | [] => s
      | d :: _ =>
        let s := (s.satInc (F.SPR_ERRS.dropped h) p.dropped.length).satInc (F.SPR_LINE_STATUS.drop_lines h)
        (s.wr (F.SPR_LAST_DROP.line h) j.y).wr (F.SPR_LAST_DROP.sprite h) d
    (p.picked.reverse, s)

/-! ## Trace builds (R125–R127, R129) -/

/-- Reads of a whole build. -/
def TraceBuild.total (b : TraceBuild) : Nat := b.width * b.k

/-- Sample count of read q (R125): q-th newest. -/
def TraceBuild.count (b : TraceBuild) (q : Nat) : Nat :=
  (b.last + 2 * b.perSecond - b.lag % b.perSecond - q % b.perSecond) % b.perSecond

/-- Scene offset of the ring entry of read q. -/
def TraceBuild.entryOff (b : TraceBuild) (q : Nat) : Nat := (b.base + b.count q % 2 ^ b.log2 * 64) % 2 ^ 28

/-- What read q holds (R126, R127). -/
def TraceBuild.sample (b : TraceBuild) (q : Nat) (bytes : List Byte) (bad : Nat) : TraceSample :=
  if b.perSecond ≤ b.lag + q then .missing
  else if bad != 0 then .bad
  else if leAt bytes 40 2 = b.count q ∧ bit (leAt bytes 42 1) 2 = false then
    .values ((List.range 8).map fun c => signed 32 (leAt bytes (4 * c) 4))
  else .missing

/-- Trace build tr of a head, if one is in the making. -/
def HeadS.build (x : HeadS) (tr : Nat) : Option TraceBuild := mget (fun _ => none) x.builds tr

/-- The reads of one line period (R127). -/
def State.traceReqs (s : State) (j : LineJob) (tr : Nat) : List FetchReq × State :=
  let x := s.head j.head
  match x.build tr with
  | none => ([], s)
  | some b =>
    if !b.valid ∨ b.frame ≠ j.frame + 1 then ([], s)
    else
      let n := min (j.rd (F.TT_CTRL.reads_per_line j.head tr)) (b.total - b.issued)
      let rs := (List.range n).map fun i => (⟨.trace tr (b.issued + i), bankLine (b.entryOff (b.issued + i))⟩ : FetchReq)
      (rs, s.setHead j.head { x with builds := mset (fun _ => none) x.builds tr (some { b with issued := b.issued + n }) })

/-- Samples of column c, newest first; none is not read yet. -/
def TraceBuild.column (b : TraceBuild) (c : Nat) : List (Option TraceSample) :=
  (List.range b.k).map fun i => mget (fun _ => none) b.samples ((b.width - 1 - c) * b.k + i)

/-- Kinds of column (R126, R127). -/
inductive TraceCol where
  | incomplete | gap | poison | drawn
  deriving DecidableEq, Repr

/-- The kind of column c; with no valid stream every column is a gap (R129). -/
def TraceBuild.kind (b : TraceBuild) (c : Nat) : TraceCol :=
  let xs := b.column c
  if !b.valid then .gap
  else if xs.any (·.isNone) then .incomplete
  else if xs.any (· == some .bad) then .poison
  else if xs.all (· == some .missing) then .gap
  else .drawn

/-- Gap columns of a table (R126). -/
def TraceBuild.gaps (b : TraceBuild) : Nat := ((List.range b.width).filter fun c => b.kind c == .gap).length

/-- The build stops at the fetch start of line 0 of its frame: its table is drawn, and an incomplete one counts in short; the gaps of
the table before it are kept until the frame that drew it has ended (R126, R127). -/
def State.stopBuild (s : State) (h n tr : Nat) : State :=
  let x := s.head h
  let b := (x.build tr).filter (·.frame == n)
  let drawn := (mget (fun _ => none) x.tables tr).map TraceBuild.gaps
  let s := s.setHead h { x with
    builds := mset (fun _ => none) x.builds tr none, tables := mset (fun _ => none) x.tables tr b,
    gaps := mset (fun _ => none) x.gaps tr drawn }
  match b with
  | some b =>
    if b.valid && (List.range b.width).any (fun c => b.kind c == .incomplete) then s.satInc (F.TT_STATUS.short h tr) else s
  | none => s

/-- Start the build for frame n: the settings as held strictly before L0:P0 of the frame before, and the stream's entry (R125,
R129). -/
def State.startBuild (s : State) (h tr n : Nat) : State :=
  let lv := s.before.lv
  let v := lv (F.TT_CTRL.stream h tr)
  let (m, s) := s.memRead h (s.svOff v) 128
  let e := m.bytes
  let b : TraceBuild :=
    { frame := n, channels := lv (F.TT_CTRL.channels h tr), k := lv (F.TT_SHAPE.spc_m1 h tr) + 1,
      lag := lv (F.TT_LAG.lag h tr), width := lv (F.TT_WIN_X.width_m1 h tr) + 1, base := leAt e 52 4,
      log2 := leAt e 56 1, perSecond := svPerSecond (leAt e 10 2), last := leAt e 64 2,
      valid := m.bad.isEmpty && bit (leAt e 10 2) 0 && leAt e 52 4 % 64 == 0
        && decide (10 ≤ leAt e 56 1 ∧ leAt e 56 1 ≤ 16) }
  let s := s.wr (F.TT_STATUS.stream_down h tr) (b2n (leAt e 80 1 != 1))
  s.modHead h fun x => { x with builds := mset (fun _ => none) x.builds tr (some b) }

/-- TRACE_BUILD_START: at L0:P0 of frame n − 1 (R125). -/
def execTraceBuildStart (t h tr n : Nat) (s : State) : Result :=
  let s := s.at t
  .next (if s.headPresent h ∧ s.beamAt h (n - 1) 0 0 ∧ 0 < n ∧ s.before.lv (F.TT_CTRL.enable h tr) = 1 then s.startBuild h tr n
    else s)

/-! ## The line (R52, R122, R175) -/

/-- List c is enabled in the live copy (R178). -/
def State.cadEnabled (s : State) (h c : Nat) : Bool := bit (s.liveReg (R.CAD_CTRL h)).toNat c

/-- Base of list c of the line's frame (R172). -/
def LineJob.cadBase (j : LineJob) (c : Nat) : Nat := 0x4000 * j.rd (F.CAD_BASE.base j.head c)

/-- Index requests of the enabled lists (R175). -/
def LineJob.cadReqs (j : LineJob) : List FetchReq :=
  (List.range 2).filterMap fun c =>
    if bit (mget resetWord j.regs (R.CAD_CTRL j.head)).toNat c then some ⟨.index c, bankLine (j.cadBase c + j.y * 4)⟩ else none

/-- Bytes of one pixel as sent (R207). -/
def State.pixBytes (s : State) (h : Nat) : Nat := if s.on (F.CMP_CTRL.out_bpc h) then 4 else 3

/-- Bytes of a ring line without its tag, and scene offset of the ring line of y (R201). -/
def State.ringPixels (s : State) (h : Nat) : Nat := ceilDiv (s.rd (F.BEAM_H.hactive h) * s.pixBytes h) 64 * 64
def State.ringLine (s : State) (h y : Nat) : Nat :=
  0x1_0000 * s.rd (F.TX_REMOTE_RING.base h) + y % 2 ^ s.rd (F.TX_REMOTE.ring_log2 h) * (64 + s.ringPixels h)

/-- Ring requests of a line: tag, then pixel words (R201). -/
def State.ringReqs (s : State) (h y : Nat) : List FetchReq :=
  (List.range (1 + s.ringPixels h / 64)).map fun k => ⟨.ring, bankLine (s.ringLine h y + 64 * k)⟩

/-- The live copies a line samples, as held strictly before its fetch start (R122, R138), with the Cadence registers its frame began
with (R178). -/
def State.sampleRegs (s : State) (h : Nat) : SMap Word := s.before.liveOf h 0x1000 0x4000 ++ (s.head h).cadRegs

/-- Bits of a descriptor's word w whose change affects the box under the old content too: enable, zoom, w_m1, h_m1, rotate, x and y
(R144). -/
def sprMoves (w : Nat) : Nat := [0xE400_1F1F, 0xF_FFFF, 0xF_FFFF].getD w 0

/-- The box of descriptor d under its words, on the line where it is selected (R144). -/
def LineJob.sprBox (j : LineJob) (p : Photon) (d : Nat) (picked : List (Nat × List Nat)) : List SpriteBox :=
  match picked.find? (·.1 == d) with
  | some q => [⟨p.target, p.landed, j.sprX q.2, j.sprX q.2 + (j.sprW2 q.2 * sprZoom q.2 : Nat)⟩]
  | none => []

/-- Pixels of the line that the change of a descriptor word affects: the box under the new content, and under the old one when the
change moves it (R144). -/
def State.changedBoxes (s : State) (j : LineJob) (hactive : Nat) (p : Photon) : List SpriteBox :=
  let off := bits p.target 16 0
  let d := (off - 0x1_8000) / 32
  let w := off % 32 / 4
  if p.kind ≠ 1 ∨ bits p.target 28 24 ≠ j.head ∨ off < 0x1_8000 ∨ s.now ≤ p.landed then []
  else
    let olds := j.sprScan.map fun e =>
      (e, if e = d then (s.before.sprWords j.head e).set w p.old.toNat else s.before.sprWords j.head e)
    let moved := (p.old ^^^ p.new).toNat &&& sprMoves w != 0
    j.sprBox p d j.sprites ++ if moved then j.sprBox p d (j.sprSelect hactive olds).picked else []

/-- A new line joins those of the head; the last eight are kept, which covers fetch, transmission and digest (R52, R209). -/
def State.addJob (s : State) (j : LineJob) : State :=
  s.modHead j.head fun x => { x with lines := x.lines.drop (x.lines.length - 7) ++ [j] }

/-- The line samples the live copies and issues its independent requests in the order of R52. -/
def State.lineStart (s : State) (h n y : Nat) : State :=
  let b := s.beam h
  let mode := s.fetchMode h n y
  let active := decide (y < b.vactive)
  let j : LineJob := { head := h, frame := n, y := y, remote := mode == 2, regs := s.sampleRegs h }
  if mode = 0 then s
  else if mode = 2 then
    if active then s.addJob { j with waiting := (s.ringReqs h y).map (Waiting.mk · s.now) } else s
  else
    let (sprites, s) := if active then s.pickSprites j b.hactive else ([], s)
    let layers := if active then j.layerReqs s.forerunner b.hactive else []
    let pats := sprites.flatMap fun p => (j.sprLines p.2).map fun o => (⟨.sprite p.1, o⟩ : FetchReq)
    let (t0, s) := if y < 2 then ([], s) else s.traceReqs j 0
    let (t1, s) := if y < 2 then ([], s) else s.traceReqs j 1
    let boxes := if active then s.der.photons.flatMap (s.changedBoxes { j with sprites := sprites } b.hactive) else []
    s.addJob { j with sprites := sprites, boxes := boxes, waiting := (layers ++ j.cadReqs ++ pats ++ t0 ++ t1).map (Waiting.mk · s.now) }

/-- A Remote head of a chip in no Peloton whose source is on another chip: it has none (R26). -/
def State.soloSource (s : State) (h : Nat) : Bool :=
  s.rd F.PEL_STATUS.role == 0 && s.rd (F.TX_REMOTE_SRC.source_id h) / 256 != s.rd F.PEL_SELF.chip_number

/-- A head's line 0 opens a frame for the fetch port: the trace tables change, the Cadence registers of the frame are taken (R178),
once-per-frame counts begin anew, and a Remote head without its source draws its own layers (R202). -/
def State.fetchFrame (s : State) (h n : Nat) : State :=
  let own := s.soloSource h || s.on (F.TX_STATUS.source_absent h) || decide (n < (s.head h).mirrorFrom) || (s.held h n && !s.fwCapable h)
  let cad := s.before.liveOf h 0x5000 0x6000
  let s := s.modHead h fun x => { x with badSeen := [], rotSeen := [], ownLayers := own, cadRegs := cad }
  (s.stopBuild h n 0).stopBuild h n 1

/-- FETCH_LINE_START: at L(y−2):P0 of the line (R52). -/
def execFetchLineStart (t h n y : Nat) (s : State) : Result :=
  let s := s.at t
  .next (if s.headPresent h ∧ y < (s.beam h).vtotal ∧ s.fetchStarts h n y then
      let s := if y = 0 then s.fetchFrame h n else s
      if (s.head h).lines.any (fun j => j.frame == n && j.y == y) then s else s.lineStart h n y
    else s)

/-! ## Data (R46, R52, R119, R175) -/

/-- Bytes of a delivered request of the line, with the mask of its uncorrectable words. -/
def LineJob.data (j : LineJob) (r : FetchReq) : Option (List Byte × Nat) :=
  (j.got.find? (·.req == r)).map fun f => (f.bytes, f.bad)

/-- A request of the line was dropped. -/
def LineJob.lostReq (j : LineJob) (r : FetchReq) : Bool := j.dropped.contains r

/-- Scene offset of entry i of list c. -/
def LineJob.entryOff (j : LineJob) (c i : Nat) : Nat := (j.cadBase c + 0x4000 + i * 16) % 2 ^ 28

/-- A delivered field of `len` bytes at scene offset o: its value, or none when its word is uncorrectable (R46). -/
def lineField (p : List Byte × Nat) (o len : Nat) : Option Nat :=
  if bit p.2 (o % 64 / 8) then none else some (leAt p.1 (o % 64) len)

/-- The map entries a delivered bank line holds, cell by cell: the entry word and the cell; none for an uncorrectable one. -/
def LineJob.cellsIn (j : LineJob) (fr : Bool) (l sc hactive off : Nat) (p : List Byte × Nat) : List (Option Nat × LineCell) :=
  ((j.cells fr l sc hactive).filter fun c => bankLine c.entry == off).map fun c => (lineField p c.entry (entryBytes fr), c)

/-- Entries of the line and list that a set of dropped requests would have delivered (R175). -/
def LineJob.lostEntries (j : LineJob) (c : Nat) (first count : Nat) (dropped : List FetchReq) : Nat :=
  ((List.range count).filter fun i => dropped.contains ⟨.entry c, bankLine (j.entryOff c (first + i))⟩).length

/-- Requests are dropped: a cut line counts once (R52). -/
def State.dropReqs (s : State) (j : LineJob) (rs : List FetchReq) : LineJob × State :=
  if rs.isEmpty then (j, s)
  else
    ({ j with dropped := j.dropped ++ rs, late := true },
      if j.late then s else s.satInc (F.HUB_HEAD_MARGIN.late_lines j.head))

/-- Dependent requests of the line: they wait from now on, or are dropped when the line's moment has come (R52; DEDUCED, log 98). -/
def State.askMore (s : State) (j : LineJob) (rs : List FetchReq) : LineJob × State :=
  if j.closed then s.dropReqs j rs else ({ j with waiting := j.waiting ++ rs.map (Waiting.mk · s.now) }, s)

/-- A map line arrived: its cells' pattern requests follow, range and rotation losses are counted (R119, R123). -/
def State.mapArrived (s : State) (j : LineJob) (l sc off : Nat) (p : List Byte × Nat) : LineJob × State :=
  let h := j.head
  let cs := (j.cellsIn s.forerunner l sc (s.beam h).hactive off p).filterMap fun c =>
    c.1.map fun w => (j.mapCell s.forerunner l w, c.2)
  let shown := cs.filter fun c => j.drawn l c.1
  let s := s.satInc (F.LL_ERRS.range h l) (cs.length - shown.length)
  let s := s.satInc (F.LL_ERRS.rot_ignored h l) (shown.filter fun c => c.1.rotate && !j.turned l c.1).length
  s.askMore j (shown.flatMap fun c => (j.cellLines l c.2.row c.1).map fun o => (⟨.pattern l c.2.x, o⟩ : FetchReq))

/-- Scroll word of a layer on the line: 0 without a table, none when it is lost or uncorrectable (R116). -/
def LineJob.scroll (j : LineJob) (l : Nat) : Option Nat :=
  if j.on (F.LL_CTRL.scroll_table_en j.head l) then
    match j.data ⟨.scroll l, bankLine (j.scrollOff l)⟩ with
    | none => none
    | some p => lineField p (j.scrollOff l) 4
  else some 0

/-- An index word is reserved (R172). -/
def indexBad (w : Nat) : Bool :=
  bits w 31 25 != 0 || bits w 15 14 != 0 || decide (256 < bits w 24 16) || decide (16384 < bits w 13 0 + bits w 24 16)

/-- Count a bad entry of list c on line y, latch it, and raise the head's notice (R174). -/
def State.cadBad (s : State) (h c y entry : Nat) : State :=
  let s := (s.satInc (F.CAD_BAD.count h)).wr (F.CAD_LAST_BAD.list h) c
  ((s.wr (F.CAD_LAST_BAD.line h) y).wr (F.CAD_LAST_BAD.entry h) entry).raise (256 + 0x10 + h)

/-- An index word arrived: its entries are asked for, or the whole line is bad; entries of an uncorrectable one are lost. -/
def State.indexArrived (s : State) (j : LineJob) (c : Nat) (p : List Byte × Nat) : LineJob × State :=
  match lineField p (j.cadBase c + j.y * 4) 4 with
  | none => (j, s.satInc (F.CAD_ERRS.lost j.head))
  | some w =>
    if indexBad w then (j, s.cadBad j.head c j.y (bits w 13 0))
    else
      let lines := ((List.range (bits w 24 16)).map fun i => bankLine (j.entryOff c (bits w 13 0 + i))).eraseDups
      let s := if j.closed then s.satInc (F.CAD_ERRS.lost j.head) (bits w 24 16) else s
      s.askMore j (lines.map fun o => ⟨.entry c, o⟩)

/-- What a delivered request releases (R52). -/
def State.dataArrived (s : State) (j : LineJob) (f : Fetched) : LineJob × State :=
  let p := (f.bytes, f.bad)
  match f.req.what with
  | .scroll l =>
    match lineField p (j.scrollOff l) 4 with
    | none => (j, s)
    | some sc => s.askMore j (j.mapReqs s.forerunner l sc (s.beam j.head).hactive)
  | .map l => s.mapArrived j l ((j.scroll l).getD 0) f.req.off p
  | .index c => s.indexArrived j c p
  | .trace tr q =>
    let x := s.head j.head
    match x.build tr with
    | none => (j, s)
    | some b =>
      let b := { b with samples := mset (fun _ => none) b.samples q (some (b.sample q f.bytes f.bad)) }
      (j, s.setHead j.head { x with builds := mset (fun _ => none) x.builds tr (some b) })
  | _ => (j, s)

/-- Replace the job of a line. -/
def State.setJob (s : State) (j : LineJob) : State :=
  s.modHead j.head fun x => { x with lines := x.lines.map fun i => if i.frame = j.frame ∧ i.y = j.y then j else i }

/-- The job of line y of frame n. -/
def State.job (s : State) (h n y : Nat) : Option LineJob := (s.head h).lines.find? fun j => j.frame == n && j.y == y

/-- Root cycles from a slot's start to its data at the port: 24 Hub cycles (R52). -/
def fetchLatency : Nat := 192

/-- FETCH_DATA_ARRIVE: 24 Hub cycles after the slot that served bank line `off` (R52). -/
def execFetchDataArrive (t h n y off : Nat) (s : State) : Result :=
  let s := s.at t
  .next (match s.job h n y with
    | none => s
    | some j =>
      match j.flying.find? (fun f => f.req.off == off && decide (f.slot + fetchLatency ≤ s.now)) with
      | none => s
      | some f =>
        let (j, s) := s.dataArrived { j with flying := j.flying.erase f, got := j.got ++ [f] } f
        s.setJob j)

/-! ## Drops and the margin (R52, R55, R175) -/

/-- Numbers k in [k0, k1) with k mod 256 = j. -/
def cyclesAt (k0 k1 j : Nat) : Nat := (k1 + 255 - j) / 256 - (k0 + 255 - j) / 256

/-- Slots head h owns on a bank in Hub cycles [k0, k1). -/
def State.ownedSlots (s : State) (h bank k0 k1 : Nat) : Nat :=
  (s.hub.sched.filter fun p => p.2 == h && p.1 / 256 == bank).foldl (fun a p => a + cyclesAt k0 k1 (p.1 % 256)) 0

/-- The smallest owned-minus-used count of a line period that began at root count c0 (R55). -/
def State.lineSpare (s : State) (h c0 c1 : Nat) : Nat :=
  let spare := fun b => s.ownedSlots h b (ceilDiv c0 8) (ceilDiv c1 8) - mget (fun _ => 0) s.hub.used (32 * h + b)
  (List.range 32).foldl (fun m b => min m (spare b)) (spare 0)

/-- A line period of a head in Run ends: the smallest margin is kept and the used slots start anew (R55). DESIGN CHOICE (log 99):
'during Run' is the head's own state Run; in the other states no margin is kept. -/
def State.endLinePeriod (s : State) (h c1 : Nat) : State :=
  let b := s.beam h
  let s :=
    if s.headState h = 1 then
      let m := min 0x7FFF (s.lineSpare h (c1 - b.htotal * b.n) c1)
      if m < s.rd (F.HUB_HEAD_MARGIN.min_spare h) then s.wr (F.HUB_HEAD_MARGIN.min_spare h) m else s
    else s
  { s with hub.used := s.hub.used.filter fun p => p.1 / 32 != h }

/-- The index word of list c on the line, when delivered whole. -/
def LineJob.index (j : LineJob) (c : Nat) : Option Nat :=
  match j.data ⟨.index c, bankLine (j.cadBase c + j.y * 4)⟩ with
  | none => none
  | some p => lineField p (j.cadBase c + j.y * 4) 4

/-- Cadence losses of dropped requests: one for an index word, else the entries of a delivered one (R175). -/
def LineJob.cadLost (j : LineJob) (d : List FetchReq) : Nat :=
  let entries := fun c => match j.index c with
    | none => 0
    | some w => j.lostEntries c (bits w 13 0) (bits w 24 16) d
  (d.filter fun r => match r.what with
    | .index _ => true
    | _ => false).length + entries 0 + entries 1

/-- Requests not served by L y:P0 are dropped, and with them what they would release (R52, R175). -/
def State.dropLine (s : State) (j : LineJob) : State :=
  let d := j.waiting.map (·.req)
  let s := s.satInc (F.CAD_ERRS.lost j.head) (j.cadLost d)
  let (j, s) := s.dropReqs { j with waiting := [], closed := true } d
  s.setJob j

/-- FETCH_LINE_DROP: at L y:P0 (R52). -/
def execFetchLineDrop (t h n y : Nat) (s : State) : Result :=
  let s := s.at t
  .next (if s.headPresent h ∧ s.beamAt h n y 0 then
      let s := s.endLinePeriod h s.now
      match s.job h n y with
      | none => s
      | some j => s.dropLine j
    else s)

end Sys2Proof.Machine
end

