-- ==== Sys2Proof/Machine/Pixels.lean ====
section
/-! DEFINITION. The pixel path: what each layer delivers, composition, output LUT, test pattern and dither, and the pixel that
leaves the transmitter (05: R108–R129; 06: R131–R143, R488; 07: R150–R162; 09: R195, R196, R202, R203). -/

namespace Sys2Proof.Machine

/-- A colour of 10-bit or sent components: red, green, blue. -/
abbrev Rgb := Nat × Nat × Nat

/-- What one source delivers for a pixel (R108, R131). `underrun` marks a pixel whose data was lost (R195). -/
inductive LayerOut where
  | transparent
  | indexed (palette index prio : Nat)
  | direct (colour prio : Nat)
  | poison (colour prio : Nat)
  | underrun
  deriving DecidableEq, Repr

/-! ## Tile layers (R108, R118, R120) -/

/-- One pixel's bits in the format's order at scene offset `row` of the row (R110). -/
def pixelField (p : List Byte × Nat) (row bpp x : Nat) : Option Nat :=
  if bpp = 32 then lineField p (row + x * 4) 4
  else (lineField p (row + x * bpp / 8) 1).map fun b => b / 2 ^ (x * bpp % 8) % 2 ^ bpp

/-- Bank line of that pixel. -/
def pixelLine (row bpp x : Nat) : Nat := bankLine (row + x * bpp / 8)

/-- The output of pixel (tx, ty) of a drawn cell that begins at pixel x0 of the line, its pattern delivered or not. -/
def LineJob.patternOut (j : LineJob) (l : Nat) (c : MapCell) (x0 tx ty : Nat) : LayerOut :=
  let h := j.head
  let side := j.side l
  let f := j.rd (F.LL_CTRL.format h l)
  let src := sourcePixel c.hflip c.vflip (j.turned l c) side side side tx ty
  let row := j.tileOff l c.tile + src.2 * j.rowBytes l
  match j.data ⟨.pattern l x0, pixelLine row (formatBpp f) src.1⟩ with
  | none => .underrun
  | some p =>
    match pixelField p row (formatBpp f) src.1 with
    | none => .poison (j.rd (F.LL_POISON.colour h l)) 3
    | some v =>
      if f = 3 then .direct v c.prio
      else if v = 0 ∧ j.on (F.LL_CTRL.transparent_zero h l) then .transparent
      else .indexed c.palette v c.prio

/-- Tile layer l at pixel x (R108, R116–R120): a lost scroll or map request is an underrun, an uncorrectable word poison. -/
def LineJob.tileOut (j : LineJob) (fr : Bool) (l x : Nat) : LayerOut :=
  let h := j.head
  let poison := LayerOut.poison (j.rd (F.LL_POISON.colour h l)) 3
  let sreq : FetchReq := ⟨.scroll l, bankLine (j.scrollOff l)⟩
  if !j.on (F.LL_CTRL.enable h l) then .transparent
  else if j.on (F.LL_CTRL.scroll_table_en h l) && (j.data sreq).isNone then .underrun
  else
    match j.scroll l with
    | none => poison
    | some sc =>
      match j.cell fr l sc x with
      | none => .transparent
      | some (o, tx, ty) =>
        match j.data ⟨.map l, bankLine o⟩ with
        | none => .underrun
        | some p =>
          match lineField p o (entryBytes fr) with
          | none => poison
          | some w =>
            let c := j.mapCell fr l w
            if j.drawn l c then j.patternOut l c (x - tx) tx ty else .transparent

/-! ## Sprites (R137, R142, R143, R488) -/

/-- One selected sprite at pixel x; none is transparent there. -/
def LineJob.spriteAt (j : LineJob) (d x : Nat) (ws : List Nat) : Option LayerOut :=
  let h := j.head
  let z := sprZoom ws
  let tx := (x : Int) - j.sprX ws
  if tx < 0 ∨ ((j.sprW2 ws * z : Nat) : Int) ≤ tx then none
  else
    let f := sprFormat ws
    let prio := bits (sw ws 0) 28 27
    let src := sourcePixel (bit (sw ws 0) 24) (bit (sw ws 0) 25) (j.sprTurned ws) (j.sprW2 ws) (j.sprH2 ws) (sprH ws)
      (tx.toNat / z) (j.sprRow ws)
    let row := sprFrameOff ws + src.2 * sprRowBytes ws
    match j.data ⟨.sprite d, pixelLine row (formatBpp f) src.1⟩ with
    | none => some .underrun
    | some p =>
      match pixelField p row (formatBpp f) src.1 with
      | none => some (.poison (j.rd (F.SPR_POISON.colour h)) prio)
      | some v =>
        if f = 3 then some (.direct v prio)
        else if v = 0 ∧ j.on (F.SPR_CTRL.transparent_zero h) then none
        else some (.indexed (bits (sw ws 0) 21 16) v prio)

/-- The sprite plane at pixel x: the lowest-indexed opaque sprite wins (R142). -/
def LineJob.spriteOut (j : LineJob) (x : Nat) : LayerOut :=
  (j.sprites.findSome? fun d => j.spriteAt d.1 x d.2).getD .transparent

/-! ## Trace layers (R124, R126–R128) -/

/-- Present values of a column's channel, newest first. -/
def TraceBuild.values (b : TraceBuild) (c ch : Nat) : List Int :=
  (b.column c).filterMap fun q => match q with
    | some (.values vs) => some (vs.getD ch 0)
    | _ => none

/-- Window row of a value (R128). -/
def tracePos (yZero gain height : Nat) (v : Int) : Int :=
  clamp 0 ((height : Int) - 1) ((yZero : Int) - (v * signed 16 gain).fdiv 65536)

/-- Row r of column c lies on channel ch (R128). -/
def LineJob.onTrace (j : LineJob) (tr : Nat) (b : TraceBuild) (c r ch : Nat) : Bool :=
  let h := j.head
  let prev := if c = 0 ∨ b.kind (c - 1) = .gap then [] else (b.values (c - 1) ch).take 1
  let pos := (b.values c ch ++ prev).map
    (tracePos (j.rd (F.TT_GAIN.y_zero h tr ch)) (j.rd (F.TT_GAIN.gain h tr ch)) (j.rd (F.TT_WIN_Y.height_m1 h tr) + 1))
  let th := j.rd (F.TT_SHAPE.thick_m1 h tr)
  match pos with
  | [] => false
  | p :: ps =>
    let lo := ps.foldl min p
    let hi := ps.foldl max p
    decide (lo - (th / 2 : Nat) ≤ r ∧ (r : Int) ≤ hi + (th - th / 2 : Nat))

/-- Trace layer tr at pixel x: colour and whether it is poison; none is Transparent. -/
def LineJob.traceAt (j : LineJob) (table : Option TraceBuild) (tr x : Nat) : Option (Nat × Bool) :=
  let h := j.head
  let x0 := j.rd (F.TT_WIN_X.x0 h tr)
  let y0 := j.rd (F.TT_WIN_Y.y0 h tr)
  match table with
  | none => none
  | some b =>
    if !j.on (F.TT_CTRL.enable h tr) ∨ b.frame ≠ j.frame ∨ x < x0 ∨ x0 + b.width ≤ x ∨ j.y < y0
        ∨ y0 + j.rd (F.TT_WIN_Y.height_m1 h tr) < j.y then none
    else
      let c := x - x0
      match b.kind c with
      | .poison => some (j.rd (F.TT_POISON.colour h tr), true)
      | .drawn =>
        ((setBitsOf 8 b.channels).find? (j.onTrace tr b c (j.y - y0))).map fun ch => (j.rd (F.TT_COLOUR.colour h tr ch), false)
      | _ => none

/-! ## Composition (R152–R157) -/

/-- Widen an 8-bit component to 10 bits (R153). -/
def widen8 (c : Nat) : Nat := c * 4 + c / 64

/-- Widened components of a colour word (R152, R153). -/
def widen (w : Nat) : Rgb := (widen8 (bits w 7 0), widen8 (bits w 15 8), widen8 (bits w 23 16))

/-- Weight of an 8-bit alpha (R153). -/
def weight (a : Nat) : Nat := a + a / 128

/-- Apply a function to three components of two colours. -/
def rgbMap (f : Nat → Nat → Nat) (a b : Rgb) : Rgb := (f a.1 b.1, f a.2.1 b.2.1, f a.2.2 b.2.2)

/-- An input of a pixel: depth key, colour word, poison, blend mode and layer alpha (R155, R156). -/
structure BlendIn where
  key : Nat
  colour : Nat
  poison : Bool
  blend : Nat
  alpha : Nat
  deriving DecidableEq, Repr

/-- Blend one input over what lies behind it (R156). -/
def blendOver (c : Rgb) (i : BlendIn) : Rgb :=
  let sc := widen i.colour
  if i.poison then sc
  else
    let g := weight i.alpha
    let w := if i.blend = 0 then g else (weight (bits i.colour 31 24) * g + 128) / 256
    if i.blend = 2 then rgbMap (fun a b => min 1023 (b + (a * w + 128) / 256)) sc c
    else rgbMap (fun a b => (a * w + b * (256 - w) + 128) / 256) sc c

/-- Blend the inputs of a pixel in ascending key order (R155, R156). -/
def compose (backdrop : Nat) (ins : List BlendIn) : Rgb :=
  ((List.range 64).filterMap fun k => ins.find? (·.key == k)).foldl blendOver (widen backdrop)

/-- A palette entry (R154). -/
def State.paletteEntry (s : State) (h p i : Nat) : Nat := (s.arr (arrayAddr h ((256 * p + i) * 4))).toNat

/-- Compositor field as sampled for the line (R151). -/
def LineJob.crd (j : LineJob) (f : Fld) : Nat := getBits (mget resetWord j.cmp f.reg) f.hi f.lo

/-- The line sends 10 bits per component (R151, R159). -/
def LineJob.bpc10 (j : LineJob) : Bool := j.crd (F.CMP_CTRL.out_bpc j.head) == 1

/-- The blend input of a layer's output, with its rank and its layer register. -/
def State.blendOf (s : State) (j : LineJob) (rank : Nat) (reg : Nat) : LayerOut → Option BlendIn
  | .indexed p i prio => some ⟨16 * prio + rank, s.paletteEntry j.head p i, false, j.crd ⟨reg, 9, 8⟩, j.crd ⟨reg, 7, 0⟩⟩
  | .direct c prio => some ⟨16 * prio + rank, c, false, j.crd ⟨reg, 9, 8⟩, j.crd ⟨reg, 7, 0⟩⟩
  | .poison c prio => some ⟨16 * prio + rank, c, true, 0, 0⟩
  | _ => none

/-- The blend input of a trace layer (R155). -/
def LineJob.traceIn (j : LineJob) (tr : Nat) (o : Option (Nat × Bool)) : Option BlendIn :=
  let r := R.CMP_TRACE j.head tr
  o.map fun c => ⟨16 * j.crd ⟨r, 17, 16⟩ + 11 + tr, c.1, c.2, j.crd ⟨r, 9, 8⟩, j.crd ⟨r, 7, 0⟩⟩

/-- The composite of pixel x of a line drawn from the head's layers; none is an underrun pixel (R156, R195). -/
def State.layersPixel (s : State) (j : LineJob) (backdrop x : Nat) : Option Rgb :=
  let tiles := (List.range 8).map fun l => (l, R.CMP_LAYER j.head l, j.tileOut s.forerunner l x)
  let outs := tiles ++ [(10, R.CMP_SPRITE j.head, j.spriteOut x)]
  if outs.any (fun o => o.2.2 == .underrun) then none
  else
    let tabs := (s.head j.head).tables
    let traces := (List.range 2).filterMap fun tr => j.traceIn tr (j.traceAt (mget (fun _ => none) tabs tr) tr x)
    some (compose backdrop (outs.filterMap (fun o => s.blendOf j o.1 o.2.1 o.2.2) ++ traces))

/-! ## Output stages (R158, R159, R203) -/

/-- Output LUT: one curve per component (R158). -/
def State.lut (s : State) (h : Nat) (c : Rgb) : Rgb :=
  let e := fun i => (s.arr (arrayAddr h (0x1_0000 + i * 4))).toNat
  (bits (e c.1) 29 20, bits (e c.2.1) 19 10, bits (e c.2.2) 9 0)

/-- Dither matrix (R159), row first. -/
def ditherM (row col : Nat) : Nat := [0, 8, 2, 10, 12, 4, 14, 6, 3, 11, 1, 9, 15, 7, 13, 5].getD (row * 4 + col) 0

/-- The component as sent (R159). -/
def outComponent (bpc10 dither : Bool) (n y x c : Nat) : Nat :=
  if bpc10 then c
  else if dither then
    let q := n % 16
    min 255 ((4 * c + ditherM ((y + q / 4) % 4) ((x + q % 4) % 4)) / 16)
  else c / 4

/-- Components of test pattern `pat` at L y : P x (R203). -/
def testPattern (pat colour hactive y x : Nat) : Rgb :=
  let on := fun b : Bool => if b then 1023 else 0
  match pat with
  | 1 => widen colour
  | 2 =>
    let b := 8 * x / hactive
    (on (b = 0 ∨ b = 1 ∨ b = 4 ∨ b = 5), on (decide (b ≤ 3)), on (b % 2 = 0))
  | 3 => let v := 1024 * x / hactive; (v, v, v)
  | _ => let v := on ((x / 64 + y / 64) % 2 = 1); (v, v, v)

/-! ## Mirror pixels (R201, R202) -/

/-- The tag of the line's ring line names the line, and its segment bit is set (R202). A tag in an uncorrectable word is open
(log 22). -/
def State.segReceived (s : State) (j : LineJob) (x : Nat) : Bool × State :=
  let o := s.ringLine j.head j.y
  match j.data ⟨.ring, bankLine o⟩ with
  | none => (false, s)
  | some p =>
    if bit p.2 0 ∨ bit p.2 1 ∨ bit p.2 2 then
      let (i, s) := s.draw
      ((Config.freeWord i).getLsbD 0, s)
    else
      let seg := s.rd (F.TX_MIRROR.seg_pixels j.head)
      (leAt p.1 0 8 == j.frame && leAt p.1 8 2 == j.y && bit (leAt p.1 16 8) (if seg = 0 then 0 else x / seg), s)

/-- A received pixel as sent: r, g, b bytes or a 10-bit word (R199); a pixel in an uncorrectable word is open (log 22). -/
def State.ringPixel (s : State) (j : LineJob) (x : Nat) : Option Rgb × State :=
  let (have_, s) := s.segReceived j x
  if !have_ then (none, s)
  else
    let k := s.pixBytes j.head
    let o := s.ringLine j.head j.y + 64 + x * k
    let parts := (List.range k).map fun i => (j.data ⟨.ring, bankLine (o + i)⟩).map fun p => lineField p (o + i) 1
    if parts.any (·.isNone) then (none, s)
    else if parts.any (· == some none) then
      let (i, s) := s.draw
      let w := (Config.freeWord i).toNat
      (some (if k = 4 then (bits w 29 20, bits w 19 10, bits w 9 0) else (bits w 7 0, bits w 15 8, bits w 23 16)), s)
    else
      let v := leNat (parts.map fun p => BitVec.ofNat 8 ((p.getD none).getD 0))
      (some (if k = 4 then (bits v 29 20, bits v 19 10, bits v 9 0) else (bits v 7 0, bits v 15 8, bits v 23 16)), s)

/-! ## The lookup edge (R150, R151, R189) -/

/-- The frame in hand of head h is a blank frame of a swap (R70). -/
def State.blankFrame (s : State) (h : Nat) : Bool := (s.headSwap h).inSwap && (s.headSwap h).blank

/-- Registers of the new section that a blank frame shows before the load has written them (R70). -/
def State.blankRegs (s : State) (h : Nat) : SMap Word :=
  if (s.headSwap h).loaded then s.before.liveOf h 0x4000 0x5000
  else
    match secOf s.nextSections 3 h with
    | none => s.before.liveOf h 0x4000 0x5000
    | some g => [R.CMP_CTRL h, R.CMP_BACKDROP h].map fun a => (a, imgReg g.regs a)

/-- The line as the compositor meets it, with the live copies held strictly before the lookup edge of P0 (R151): a blank frame has
no fetched line, its first lookup opens one. -/
def State.openLine (s : State) (h n y x : Nat) : State :=
  if x = 0 ∧ s.blankFrame h = true ∧ (s.job h n y).isNone then s.addJob { head := h, frame := n, y := y, cmp := s.blankRegs h }
  else if x = 0 then
    match s.job h n y with
    | none => s
    | some j => s.setJob { j with cmp := s.before.liveOf h 0x4000 0x5000 }
  else s

/-- The composite behind the output LUT, from the arrays and the backdrop as held strictly before the lookup edge, or the mirror pixel
as received; none is an underrun pixel (R150, R158, R201). -/
def State.sourcePix (s : State) (j : LineJob) (x : Nat) : Option Rgb × State :=
  let h := j.head
  if j.remote then s.ringPixel j x
  else
    let back := if s.blankFrame h then j.crd (F.CMP_BACKDROP.colour h) else s.before.lv (F.CMP_BACKDROP.colour h)
    let c := s.before.layersPixel j back x
    (c.map fun v => if j.crd (F.CMP_CTRL.lut_en h) = 1 then s.before.lut h v else v, s)

/-- The lookup edge of L y : P x of frame n is now: 64 pixel clocks before the pixel leaves (R150). -/
def State.looksUp (s : State) (h n y x : Nat) : Bool :=
  let b := s.beam h
  s.schedRuns && decide (s.now + 64 * b.n = b.time n y x) && decide (y < b.vactive ∧ x < b.hactive)

/-- The pixel is looked up and joins the pipeline of both copies (R150, R160). -/
def State.lookPixel (s : State) (h n y x : Nat) : State :=
  let s := s.openLine h n y x
  match s.job h n y with
  | none => s
  | some j =>
    let (c, s) := s.sourcePix j x
    s.setJob { j with pipe := j.pipe ++ [(x, c)] }

/-- PIXEL_LOOKUP: 64 pixel clocks before the pixel leaves (R150). -/
def execPixelLookup (t h n y x : Nat) (s : State) : Result :=
  let s := s.at t
  .next (if s.looksUp h n y x then s.lookPixel h n y x else s)

/-! ## Transmission (R161, R184, R195, R196) -/

/-- The head sends pixels in the frame in hand: Run or Remote, scanning, and no Freewheel frame (R189, R191). -/
def State.sending (s : State) (h : Nat) : Bool :=
  (s.headState h == 1 || s.headState h == 3) && (s.head h).scan && !(s.head h).freewheel
    && s.rd (F.TX_STATUS.link_state h) == 2

/-- An underrun pixel of the line is counted; its first makes an underrun line, the frame's first a Notice (R195, R196). -/
def State.countUnderrun (s : State) (j : LineJob) (x : Nat) : LineJob × State :=
  let h := j.head
  let hd := s.head h
  let s :=
    if j.underrun.isEmpty then
      let s := (s.satInc (F.TX_UNDERRUN.lines h)).wr (F.TX_UNDERRUN.last_line h) j.y
      if hd.underrun = 0 then s.raise (112 + h) else s
    else s
  ({ j with underrun := x :: j.underrun }, s.modHead h fun q => { q with underrun := q.underrun + 1 })

/-- Copies A and B differ at a pixel: the line's first difference makes a mismatch line, the frame's first one a Takeover
fault (R161). -/
def State.countMismatch (s : State) (j : LineJob) (x : Nat) : LineJob × State :=
  let h := j.head
  if j.mismatch.isSome then (j, s)
  else
    let first := (s.head h).mismatch == 0
    let s := ((s.satInc (F.CMP_MISMATCH.lines h)).wr (F.CMP_MISMATCH.last_line h) j.y).wr (F.CMP_MISMATCH_PIX.first_pixel h) x
    let s := s.modHead h fun q => { q with mismatch := q.mismatch + 1 }
    ({ j with mismatch := some x }, if first then s.raise (64 + h) else s)

/-- The pixel behind the test-pattern stage and the dither (R159, R203): a pattern in force replaces it whole, a mirror pixel
carries its dither already; none is an underrun pixel. -/
def State.finishPixel (s : State) (j : LineJob) (x : Nat) (c : Option Rgb) : Option Rgb :=
  let hd := s.head j.head
  let dither := j.crd (F.CMP_CTRL.dither_en j.head) == 1
  let fin := fun c : Rgb => let f := outComponent j.bpc10 dither j.frame j.y x; ((f c.1, f c.2.1, f c.2.2) : Rgb)
  if hd.testPat ≠ 0 then some (fin (testPattern hd.testPat hd.testCol (s.rd (F.BEAM_H.hactive j.head)) j.y x))
  else if j.remote then c
  else c.map fin

/-- The bits of a pixel that are compared and sent: 30 or 24 (R161). -/
def pixelCut (bpc10 : Bool) (c : Rgb) : Rgb :=
  let m := if bpc10 then 1024 else 256
  (c.1 % m, c.2.1 % m, c.2.2 % m)

/-- Pixel x of the line reads the map entry as it is since the change landed: the entry's bank line was served after it (R106). -/
def LineJob.readsEntry (j : LineJob) (fr : Bool) (p : Photon) (x : Nat) : Bool :=
  (List.range 8).any fun l =>
    j.on (F.LL_CTRL.enable j.head l) &&
      match (j.scroll l).bind fun sc => j.cell fr l sc x with
      | none => false
      | some c => c.1 == p.target && j.got.any fun f => f.req == ⟨.map l, bankLine c.1⟩ && decide (p.landed < f.slot)

/-- Palette entries that pixel x of the line looks up, covered ones too (R106, R150). -/
def LineJob.lookups (j : LineJob) (fr : Bool) (x : Nat) : List Nat :=
  ((List.range 8).map (fun l => j.tileOut fr l x) ++ [j.spriteOut x]).filterMap fun o => match o with
    | .indexed q i _ => some (256 * q + i)
    | _ => none

/-- Pixel x of the line, which leaves now, is affected by the change that a record is of (R106, R144). -/
def State.affects (s : State) (j : LineJob) (x : Nat) (p : Photon) : Bool :=
  let off := bits p.target 16 0
  if j.remote then false
  else if p.kind = 0 then j.readsEntry s.forerunner p x
  else if p.kind = 1 ∧ bits p.target 28 24 = j.head then
    if off < 0x1_0000 then
      decide (p.landed + 64 * (s.beam j.head).n < s.now) && (j.lookups s.forerunner x).contains (off / 4)
    else j.boxes.any fun b => b.target == p.target && b.landed == p.landed && decide (b.lo ≤ x ∧ (x : Int) < b.hi)
  else false

/-- The records of which the pixel is the earliest affected one take its place and time; an underrun pixel shows nothing (R106). -/
def State.photonsLeave (s : State) (j : LineJob) (x : Nat) : State :=
  { s with der.photons := s.der.photons.map fun p => if s.affects j x p then p.leaves s.now j.head j.y x else p }

/-- Pixel x of a line leaves the pins: copies A and B are compared and copy A's pixel is sent; `a` and `b` are the pixels a
disturbance has left in the copies (log 23). An underrun pixel is replaced in both before the compare (R161, R195). -/
def State.sendPixel (s : State) (j : LineJob) (x : Nat) (c : Option Rgb) (a b : Option Rgb) : State :=
  let p := s.finishPixel j x c
  let (j, s) := if p.isNone then s.countUnderrun j x else (j, s.photonsLeave j x)
  let last := (s.head j.head).last
  let copy := fun d : Option Rgb => match p with
    | none => last
    | some v => pixelCut j.bpc10 (d.getD v)
  let (j, s) := if copy a = copy b then (j, s) else s.countMismatch j x
  let s := s.modHead j.head fun q => { q with last := copy a }
  s.setJob { j with pipe := j.pipe.filter (·.1 != x), sent := copy a :: j.sent }

/-- Pixel x of line y of frame n, looked up, is the next one the head sends, and its time is now (R184, R191). -/
def State.sendsNow (s : State) (j : LineJob) (x : Nat) : Bool :=
  s.beamAt j.head j.frame j.y x && s.sending j.head && (s.head j.head).frame == j.frame && j.sent.length == x

/-- PIXEL_SEND: at the pixel's scheduled time (R184). -/
def execPixelSend (t h n y x : Nat) (a b : Option (Nat × Nat × Nat)) (s : State) : Result :=
  let s := s.at t
  .next (match s.job h n y with
    | none => s
    | some j =>
      match j.pipe.find? (·.1 == x) with
      | none => s
      | some p => if s.sendsNow j x then s.sendPixel j x p.2 a b else s)

end Sys2Proof.Machine
end

