-- ==== Sys2Proof/Machine/Seals.lean ====
section
/-! DEFINITION. Chain seals: line digests, band seals, the frame record, its signature and the rings (10: R206–R223). -/

namespace Sys2Proof.Machine

/-! ## Line digests (R207, R208) -/

/-- Bytes of a pixel as hashed and mirrored (R207). -/
def pixelBytes (bpc10 : Bool) (c : Rgb) : List Byte :=
  if bpc10 then natLe 4 (c.1 * 2 ^ 20 + c.2.1 * 2 ^ 10 + c.2.2) else natLe 1 c.1 ++ natLe 1 c.2.1 ++ natLe 1 c.2.2

/-- The head sends 10 bits per component. -/
def State.bpc10 (s : State) (h : Nat) : Bool := s.on (F.CMP_CTRL.out_bpc h)

/-- Flags of a line (R208). -/
def State.lineFlags (s : State) (j : LineJob) : Nat :=
  b2n (!j.underrun.isEmpty) + 2 * b2n j.mismatch.isSome + 4 * b2n (s.bpc10 j.head)
    + 8 * b2n ((s.head j.head).testPat != 0) + 16 * b2n j.remote

/-- The line message of a line sent whole (R208). -/
def State.lineMessage (s : State) (j : LineJob) : List Byte :=
  ascii "LINE" ++ natLe 1 j.head ++ [0#8] ++ natLe 2 j.y ++ natLe 8 j.frame ++ natLe 2 (s.lineFlags j)
    ++ natLe 2 j.sent.length ++ natLe 2 j.underrun.length ++ natLe 2 0 ++ j.sent.reverse.flatMap (pixelBytes (s.bpc10 j.head))

/-- The line left the pins whole (R206). -/
def State.lineWhole (s : State) (j : LineJob) : Bool := j.sent.length == s.rd (F.BEAM_H.hactive j.head)

/-- LINE_DIGEST_COMPLETE: a line sent whole is hashed (R208, R209). -/
def execLineDigestComplete (t h n y : Nat) (s : State) : Result :=
  let s := s.at t
  .next (match s.job h n y with
    | none => s
    | some j =>
      if s.lineWhole j ∧ (s.head h).frame = n then
        let d := sha512 (s.lineMessage j)
        s.modHead h fun x => { x with digests := mset (fun _ => ([], 0)) x.digests y (d, s.lineFlags j) }
      else s)

/-! ## Bands (R210–R212) -/

/-- Lines of band k, and the number of bands (R210). -/
def State.bandLines (s : State) (h : Nat) : Nat := s.rd (F.SEAL_CTRL.band_lines h)
def State.bands (s : State) (h : Nat) : Nat := bandCount (s.rd (F.BEAM_V.vactive h)) (s.bandLines h)

/-- Digests of the hashed lines of band k, in line order (R211). -/
def State.bandDigests (s : State) (h k : Nat) : List (List Byte × Nat) :=
  ((s.head h).digests.filter fun p => p.1 / s.bandLines h == k).map (·.2)

/-- The band seal of band k (R211). -/
def State.bandSeal (s : State) (h n k : Nat) : List Byte :=
  let ds := s.bandDigests h k
  sha512 (ascii "BAND" ++ natLe 1 h ++ natLe 1 k ++ natLe 2 (k * s.bandLines h) ++ natLe 8 n ++ natLe 2 ds.length
    ++ natLe 2 (ds.foldl (fun f d => f ||| d.2) 0) ++ natLe 4 0 ++ ds.flatMap (·.1))

/-- BAND_SEAL_COMPLETE: the band-and-frame hasher completes a band's seal (R211). -/
def execBandSealComplete (t h n k : Nat) (s : State) : Result :=
  let s := s.at t
  .next (if (s.head h).frame = n ∧ (s.head h).started ∧ k < s.bands h then
      let d := s.bandSeal h n k
      s.modHead h fun x => { x with seals := mset (fun _ => []) x.seals k d }
    else s)

/-- All band seals of the frame; none is formed for a frame with no line hashed (R214). -/
def State.frameSeals (s : State) (h n : Nat) : List (List Byte) :=
  if (s.head h).digests.isEmpty then []
  else (List.range (s.bands h)).map fun k =>
    match mget (fun _ => []) (s.head h).seals k with
    | [] => s.bandSeal h n k
    | d => d

/-- The band digest (R212). -/
def bandDigest (h n : Nat) (seals : List (List Byte)) : List Byte :=
  first32 (ascii "BDIG" ++ natLe 1 h ++ natLe 1 seals.length ++ natLe 2 0 ++ natLe 8 n ++ seals.flatten)

/-! ## The record (R213–R219) -/

/-- Start of frame n in ns (R213). -/
def State.startNs (s : State) (h n : Nat) : Nat := nsOf ((s.beam h).time n 0 0)

/-- The record that n closes is signed: a key is loaded and n is a multiple of sign_every (R219, R220). -/
def State.signs (s : State) (n : Nat) : Bool :=
  s.on F.CHAIN_STATUS.key_loaded && n % max 1 (s.rd F.CHAIN_CTRL.sign_every) == 0

/-- Record flags (R216). -/
def State.recordFlags (s : State) (h n : Nat) : Nat :=
  let x := s.head h
  let lines := x.digests.length
  b2n x.freewheel + 2 * b2n (lines == 0 && !x.freewheel) + 4 * b2n (x.underrun != 0) + 8 * b2n (x.mismatch != 0)
    + 16 * b2n (lines != 0 && decide (lines < s.rd (F.BEAM_V.vactive h))) + 32 * b2n x.remote + 64 * b2n (x.testPat != 0)
    + 128 * b2n x.takeover + 256 * b2n x.owned + 512 * b2n x.replayed + 1024 * b2n x.chainStart
    + 2048 * b2n (!s.signs n) + 4096 * x.time + 16384 * b2n x.parked

/-- The frame seal (R213). -/
def State.frameSeal (s : State) (h n bands flags : Nat) (digest : List Byte) : List Byte :=
  let x := s.head h
  sha512 (ascii "FRAM" ++ natLe 1 h ++ natLe 1 bands ++ natLe 2 (flags % 128) ++ natLe 8 n ++ natLe 8 (s.startNs h n)
    ++ natLe 4 x.underrun ++ natLe 2 x.mismatch ++ natLe 2 (s.rd (F.BEAM_H.hactive h)) ++ natLe 2 (s.rd (F.BEAM_V.vactive h))
    ++ natLe 1 (if s.bpc10 h then 10 else 8) ++ List.replicate 13 0 ++ digest)

/-- Path of head h: the levels of the Peloton down to its member, the chip's index within a Tandem, the head (R22, R217). -/
def State.headPath (s : State) (h : Nat) : List Nat :=
  let group := if s.pel.path.isEmpty then [0] else s.pel.path
  let twin := if s.rd F.TANDEM_STATUS.role = 0 then [] else [s.rd F.TANDEM_STATUS.index]
  let p := group ++ twin ++ [h]
  p ++ List.replicate (16 - p.length) 0xFFFF

/-- Bytes 0–191 of the record (R215). -/
def State.recordBody (s : State) (h n flags bands : Nat) (fseal digest : List Byte) : List Byte :=
  let x := s.head h
  ascii "FREC" ++ natLe 2 1 ++ natLe 2 flags ++ x.path.flatMap (natLe 2) ++ natLe 8 n ++ natLe 8 (s.startNs h n)
    ++ natLe 4 x.underrun ++ natLe 2 x.mismatch ++ natLe 1 bands
    ++ natLe 1 (if s.signs n then s.rd F.CHAIN_STATUS.key_index else 0)
    ++ fseal ++ digest ++ (if x.chainStart then List.replicate 32 0 else slice x.prevHash 0 32)

/-- The band block of a frame (R222). -/
def bandBlock (h n flags : Nat) (seals : List (List Byte)) : List Byte :=
  slice (natLe 1 h ++ natLe 1 seals.length ++ natLe 2 (flags % 128) ++ natLe 4 0 ++ natLe 8 n ++ List.replicate 48 0
    ++ seals.flatten) 0 8192

/-- Write the band block and hand it to the archive (R222, R402). -/
def State.putBands (s : State) (h n flags : Nat) (seals : List (List Byte)) : State :=
  if s.on (F.SEAL_CTRL.keep_bands h) ∧ seals ≠ [] then
    let b := bandBlock h n flags seals
    let j := s.rd F.CHAIN_BAND_WR.count
    let s := s.memWrite 70 (0x1_0000 * s.rd F.CHAIN_BAND_RING.band_base + j % 2 ^ s.rd F.CHAIN_BAND_RING.band_log2 * 8192) b
    (s.wrapInc F.CHAIN_BAND_WR.count).archive 2 h (s.startNs h n) b
  else s

/-- The registers that change together at an assembly (R223, R196). -/
def State.sealRegs (s : State) (h n flags bands : Nat) (fseal prev : List Byte) : State :=
  let s := (s.wr (F.SEAL_STATUS.flags h) flags).wr (F.SEAL_STATUS.bands h) bands
  let s := s.wr64 (R.SEAL_FRAME h) n
  let s := (List.range 16).foldl (fun s k => s.setReg (R.SEAL_FSEAL h k) (BitVec.ofNat 32 (leAt fseal (4 * k) 4))) s
  let s := (List.range 8).foldl (fun s k => s.setReg (R.SEAL_NEXT_PREV h k) (BitVec.ofNat 32 (leAt prev (4 * k) 4))) s
  s.wr (F.TX_UNDERRUN_PIX.pixels h) (s.head h).underrun

/-- Gap columns of the table drawn in the frame that ends (R126). -/
def State.countGaps (s : State) (h tr : Nat) : State :=
  s.wr (F.TT_STATUS.gaps h tr) ((mget (fun _ => none) (s.head h).gaps tr).getD 0)

/-- Put a record into the signing queue: among those assembled in one root cycle the heads ascend (R219). -/
def insertRecord (q : QRecord) : List QRecord → List QRecord
  | [] => [q]
  | r :: rs => if r.made = q.made ∧ q.head < r.head then q :: r :: rs else r :: insertRecord q rs

/-- Assembly of the record of frame n of head h: chained, its registers set, queued for signing (R213–R219, R222, R223). -/
def State.assemble (s : State) (h n : Nat) : State :=
  let seals := s.frameSeals h n
  let digest := bandDigest h n seals
  let flags := s.recordFlags h n
  let fseal := s.frameSeal h n seals.length flags digest
  let body := s.recordBody h n flags seals.length fseal digest
  let prev := first32 body
  let s := s.sealRegs h n flags seals.length fseal prev
  let s := s.putBands h n flags seals
  let s := (s.countGaps h 0).countGaps h 1
  let s := { s with records := insertRecord ⟨h, n, (s.beam h).time n 0 0, body, s.now⟩ s.records }
  let s := (s.wr F.CHAIN_STATUS.queue_depth s.records.length).peak F.CHAIN_QUEUE_PEAK.peak s.records.length
  s.modHead h fun x => { x with chainStart := false, prevHash := prev, parked := false }

/-- The record at the head of the queue completes: signed when its flags say so, written to the ring, archived (R219–R222). -/
def State.signFront (s : State) : State :=
  match s.records with
  | [] => s
  | r :: rest =>
    let signed := !bit (leAt r.body 6 2) 11
    let sig := if signed then slice (ed25519Sign (s.recordSeed (leAt r.body 63 1)) r.body) 0 64 else List.replicate 64 0
    let b := r.body ++ sig
    let s := ({ s with records := rest }).wr F.CHAIN_STATUS.queue_depth rest.length
    let i := s.rd F.CHAIN_REC_WR.count
    let s := s.memWrite 70 (0x1_0000 * s.rd F.CHAIN_RING.ring_base + i % 2 ^ s.rd F.CHAIN_RING.ring_log2 * 256) b
    let s := s.wrapInc F.CHAIN_REC_WR.count
    let s := if signed then s.wr64 R.CHAIN_SIGNED (s.rd64 R.CHAIN_SIGNED + 1) else s
    s.archive 1 r.head (nsOf r.start) b

/-- RECORD_SIGNED (R219). -/
def execRecordSigned (t : Nat) (s : State) : Result := .next (s.at t).signFront

end Sys2Proof.Machine
end

