-- ==== Sys2Proof/Machine/Tx.lean ====
section
/-! DEFINITION. The DisplayPort transmitter: state requests, plug, training, AUX, Freewheel signalling, tearing-effect input
and mirror streams (09: R182–R204). -/

namespace Sys2Proof.Machine

/-- Set a status bit of a head's transmitter interrupt. -/
def State.txIrq (s : State) (f : Nat → Fld) (h : Nat) : State := s.set1 (f h)

/-- Power state in force: 0 Run, 1 Dim, 2 Park (R454). -/
def State.power (s : State) : Nat := s.rd F.CPR_STATUS.power

/-- The link of head h carries its streams. -/
def State.linkUp (s : State) (h : Nat) : Bool := s.rd (F.TX_STATUS.link_state h) == 2

/-- The pattern the trained lanes carry in place of link symbols: only in Off with link_keep and a trained link (R204). -/
def State.refreshPhy (s : State) (h : Nat) : State :=
  let v := if s.headState h == 0 && s.on (F.TX_CTRL.link_keep h) && s.linkUp h then s.rd (F.TX_TEST.phy_pattern h) else 0
  if (s.head h).phy = v then s else (s.modHead h fun x => { x with phy := v }).emit (.display h 8 [v])

/-! ## AUX transactions of cores (R188) -/

/-- The transaction goes out on the AUX channel. -/
def State.auxSend (s : State) (h : Nat) (a : AuxReq) : State :=
  s.emit (.display h 3 ([a.cmd, a.addr] ++ a.bytes.map (·.toNat)))

/-- A core's transaction goes out once the link sequencer leaves the channel free (R188). -/
def State.auxFree (s : State) (h : Nat) : State :=
  match (s.head h).aux with
  | some a =>
    if a.sent || s.rd (F.TX_STATUS.link_state h) == 1 then s
    else (s.modHead h fun x => { x with aux := some { a with sent := true } }).auxSend h a
  | none => s

/-! ## The link (R183, R186, R187, R189) -/

/-- Lane counts and rates in the fallback order, those at or below the configured rate that carry the head's pixels
(R185, R187). -/
def State.linkConfigs (s : State) (h : Nat) : List (Nat × Nat) :=
  ([4, 2, 1].flatMap fun l => [3, 2, 1, 0].map fun r => (l, r)).filter fun c =>
    decide (c.2 ≤ s.rd (F.TX_LINK.max_rate h)) && linkFits (if s.bpc10 h then 10 else 8) (s.rd (F.BEAM_N.n_div h)) c.2 c.1

/-- A clock `num / den` of the symbol clock in lowest terms, times the least factor that makes the second 32,768 (R183, R197). -/
def streamRatio (num den : Nat) : Nat × Nat :=
  let g := Nat.gcd num den
  let k := ceilDiv 32768 (den / g)
  (num / g * k, den / g * k)

/-- Mvid and Nvid at a rate (R183): (root / N) over the symbol clock. -/
def mvidNvid (n rate : Nat) : Nat × Nat :=
  let ratio := [(110, 3), (22, 1), (11, 1), (22, 3)].getD rate (1, 1)
  streamRatio ratio.1 (ratio.2 * n)

/-- Maud and Naud at a rate (R197): 512 × 48 kHz over the symbol clock. -/
def maudNaud (rate : Nat) : Nat × Nat :=
  let ratio := [(512, 3375), (512, 5625), (256, 5625), (512, 16875)].getD rate (1, 1)
  streamRatio ratio.1 ratio.2

/-- The transmitter sends Mvid and Nvid of the trained rate (R183). -/
def State.sendRatio (s : State) (h : Nat) : State :=
  let m := mvidNvid (s.rd (F.BEAM_N.n_div h)) (s.rd (F.TX_STATUS.rate h))
  (s.wr (F.TX_MVID.value h) m.1).wr (F.TX_NVID.value h) m.2

/-- A training attempt goes out at the setting now tried: TPS1, then TPS4 at HBR3, TPS3 at HBR2, else TPS2 (R187). -/
def State.attempt (s : State) (h : Nat) : State :=
  match (s.linkConfigs h)[(s.head h).config]? with
  | some (lanes, rate) => s.emit (.display h 10 [lanes, rate, 1, if rate = 3 then 4 else if rate = 2 then 3 else 2])
  | none => s

/-- Training starts at the configured setting (R187): the sink's DOWNSPREAD_CTRL takes 0 (R183), and the scrambler seed reset is the
alternate one where the section asks for it and an eDP sink has it (R182). -/
def State.startTraining (s : State) (h : Nat) : State :=
  let s := (s.wr (F.TX_STATUS.link_state h) 1).modHead h fun x => { x with attempts := 0, config := 0 }
  let s := s.emit (.display h 1 [0x107, 0])
  (s.emit (.display h 4 [b2n (s.on (F.TX_LINK.edp h) && s.on (F.TX_LINK.assr_en h) && (s.head h).assr)])).attempt h

/-- The head's state, or link_keep in Off, needs the link (R186, R189). -/
def State.needsLink (s : State) (h : Nat) : Bool := s.headState h != 0 || s.on (F.TX_CTRL.link_keep h)

/-- The link goes down: no pixels leave until it is trained again, and a waiting AUX transaction finds the channel free. -/
def State.linkDown (s : State) (h : Nat) : State :=
  let s := (s.wr (F.TX_STATUS.link_state h) 0).wr (F.TX_STATUS.lanes h) 0
  let s := s.modHead h fun x => { x with scan := false, scanNext := false, freewheel := false, wholeFrame := false }
  (s.refreshPhy h).auxFree h

/-- The sink goes to D3 and the lanes are powered down (R189). -/
def State.linkSleep (s : State) (h : Nat) : State := (s.linkDown h).emit (.display h 1 [0x600, 2])

/-- The link of a head in Off is kept trained, or put to sleep, as link_keep says (R189). -/
def State.keepLink (s : State) (h : Nat) : State :=
  if s.headState h ≠ 0 then s
  else if s.on (F.TX_CTRL.link_keep h) then
    if s.on (F.TX_STATUS.hpd h) && s.rd (F.TX_STATUS.link_state h) == 0 then s.startTraining h else s.refreshPhy h
  else if s.rd (F.TX_STATUS.link_state h) ≠ 0 then s.linkSleep h
  else s

/-- The link of head h is lost; a head that is not Off raises a Degrade fault (R186, R191). -/
def State.linkLost (s : State) (h : Nat) : State :=
  if s.rd (F.TX_STATUS.link_state h) = 0 then s
  else
    let up := s.linkUp h
    let s := s.linkDown h
    let s := if up then s.txIrq F.TX_IRQ.link_lost h else s
    if up && s.headState h != 0 then s.raise (88 + h) else s

/-! ## State requests (R189, R190) -/

/-- A state request for head h lands: it replaces the one not armed; while parked it is held (R26, R190). -/
def State.requestHead (s : State) (h v : Nat) : State :=
  if s.power = 2 then { s with clock.heldHeads := mset (fun _ => none) s.clock.heldHeads h (some v) }
  else s.modHead h fun x => { x with request := some (v, s.now) }

/-- A write of HEADh_TX_CTRL: RW fields take their bits; a changed req_state is a request (R190). -/
def State.txCtrlWrite (s : State) (h : Nat) (w : Word) : State :=
  let old := s.rd (F.TX_CTRL.req_state h)
  let s := (s.setReg (R.TX_CTRL h) (setBits (w &&& 0x3B#32) 31 6 0)).keepLink h
  let v := getBits w 1 0
  if v = old then s else s.requestHead h v

/-- HEAD_STATE_REQUEST (R190). -/
def execHeadStateRequest (t h : Nat) (w : Word) (s : State) : Result := .next ((s.at t).txCtrlWrite h w)

/-! ## Plug, IRQ and training (R186, R187) -/

/-- The sequencer reads DPCD bytes (R186). -/
def State.dpcdRead (s : State) (h addr len : Nat) : State := s.emit (.display h 7 [addr, len])

/-- A plug (R186): the capabilities are read and kept, for DP the EDID block 0 too, and the link trains when the head needs it, else
the sink goes to sleep (R189). -/
def State.sinkPlug (s : State) (h : Nat) (c : SinkCaps) : State :=
  let s := (s.set1 (F.TX_STATUS.hpd h)).txIrq F.TX_IRQ.plug h
  let s := (s.dpcdRead h 0 16).dpcdRead h 0x70 2
  let s := if s.on (F.TX_LINK.edp h) then s else s.emit (.display h 9 [0])
  let s := s.modHead h fun x =>
    { x with psrVersion := c.psrVersion, psrExitTrain := c.exitTrain, psrSetup := c.setup, assr := c.assr, psrOn := false }
  let s := s.wr (F.TX_STATUS.fw_capable h) (b2n (s.judgeCapable h))
  if s.needsLink h then s.startTraining h else s.linkSleep h

/-- IRQ_HPD (R186, R187, R193): a lane that lost lock, or a failed link, trains again; a PSR error ends Freewheel. -/
def State.sinkIrq (s : State) (h : Nat) (lost psrError : Bool) : State :=
  let s := (s.txIrq F.TX_IRQ.irq_hpd h).dpcdRead h 0x200 6
  let s := if s.on (F.TX_LINK.edp h) then s.dpcdRead h 0x2006 3 else s
  let failed := s.rd (F.TX_STATUS.link_state h) == 3
  let s := if lost && s.rd (F.TX_STATUS.link_state h) == 2 then (s.linkLost h).startTraining h
    else if failed && s.needsLink h then s.startTraining h else s
  if psrError && s.on (F.TX_LINK.edp h) then
    let s := (s.set1 (F.TX_STATUS.fw_error h)).raise (88 + h)
    if s.headState h = 2 then s.modHead h fun x => { x with request := some (1, s.now), autoFw := false } else s
  else s

/-- An unplug (R186). -/
def State.sinkUnplug (s : State) (h : Nat) : State :=
  ((s.wr (F.TX_STATUS.hpd h) 0).txIrq F.TX_IRQ.plug h).linkLost h

/-- A completed training: the first one of a capable panel enables PSR in it (R191, R193). -/
def State.trained (s : State) (h lanes rate : Nat) : State :=
  let s := (s.wr (F.TX_STATUS.link_state h) 2).wr (F.TX_STATUS.lanes h) lanes
  let s := ((s.wr (F.TX_STATUS.rate h) rate).sendRatio h).txIrq F.TX_IRQ.trained h
  let s := s.modHead h fun x => { x with trainedAt := s.now, scanNext := false }
  let s := if s.fwCapable h && !(s.head h).psrOn then
      (s.modHead h fun x => { x with psrOn := true }).emit (.display h 1 [0x170, 3]) else s
  (s.refreshPhy h).auxFree h

/-- A training attempt ends (R187): three failures at one setting go on to the next, and after the last the link has failed. -/
def State.trainingEnd (s : State) (h : Nat) (ok : Bool) : State :=
  let x := s.head h
  let cs := s.linkConfigs h
  if s.rd (F.TX_STATUS.link_state h) ≠ 1 then s
  else
    match ok, cs[x.config]? with
    | true, some c => s.trained h c.1 c.2
    | _, _ =>
      if x.attempts + 1 < 3 then (s.setHead h { x with attempts := x.attempts + 1 }).attempt h
      else if s.on (F.TX_LINK.fallback_en h) && decide (x.config + 1 < cs.length) then
        (s.setHead h { x with attempts := 0, config := x.config + 1 }).attempt h
      else ((s.wr (F.TX_STATUS.link_state h) 3).raise (88 + h)).auxFree h

/-! ## What the blanking carries (R182, R183, R191, R197) -/

/-- Channels of a head's audio stream and bits of its samples (R197, log 111). -/
def audioChannels (form : Nat) : Nat := [2, 6, 8, 8].getD (form % 4) 8
def audioBits (form : Nat) : Nat := if bit form 2 then 24 else 16

/-- A head's audio stream runs (R197). -/
def State.audioRuns (s : State) (h : Nat) : Bool :=
  s.on (F.TX_CTRL.audio_en h) && s.headPresent h && s.headState h != 0 && s.linkUp h

/-- Vertical blanking of head h: MSA with its synchronous-clock bit, bits per component, Mvid and Nvid, VB-ID with or without
NoVideoStream, and for a running audio stream its timestamp and InfoFrame (R183, R191, R197). -/
def State.blankingOut (s : State) (h : Nat) : State :=
  let x := s.head h
  if !s.linkUp h || (s.headState h == 0 && x.armed.getD 0 == 0) then s
  else
    let s := s.sendRatio h
    let video := x.scan && !x.freewheel
    let s := s.emit (.display h 5 [1, if s.bpc10 h then 10 else 8, s.rd (F.TX_MVID.value h), s.rd (F.TX_NVID.value h), b2n (!video)])
    let m := maudNaud (s.rd (F.TX_STATUS.rate h))
    if s.audioRuns h then s.emit (.display h 6 [m.1, m.2, audioChannels x.audio, audioBits x.audio]) else s

/-! ## AUX (R188) -/

/-- Bytes of the head's AUX data registers. -/
def State.auxData (s : State) (h : Nat) : List Byte := (List.range 4).flatMap fun k => natLe 4 (s.reg (R.TX_AUX_DATA h k)).toNat

/-- A write of HEADh_TX_AUX_CTRL: a transaction is requested and waits while the sequencer trains, or the write is ignored while one is
busy. -/
def State.auxRequest (s : State) (h : Nat) (w : Word) : State :=
  if s.on (F.TX_AUX_CTRL.aux_busy h) then s.ignoreWrite (headBase h) 0x7060 0
  else
    let a : AuxReq := { cmd := getBits w 27 24, addr := getBits w 19 0, bytes := (s.auxData h).take (getBits w 23 20 + 1) }
    ((s.set1 (F.TX_AUX_CTRL.aux_busy h)).modHead h fun x => { x with aux := some a }).auxFree h

/-- AUX_REQUEST (R188). -/
def execAuxRequest (t h : Nat) (w : Word) (s : State) : Result := .next ((s.at t).auxRequest h w)

/-- Store the bytes an AUX read delivered. -/
def State.putAuxData (s : State) (h : Nat) (bs : List Byte) : State :=
  if bs.isEmpty then s
  else
    let d := putBytes (s.auxData h) 0 bs
    (List.range 4).foldl (fun s k => s.setReg (R.TX_AUX_DATA h k) (BitVec.ofNat 32 (leAt d (4 * k) 4))) s

/-- The core's transaction is on the channel and may end so: DEFER ends it only after seven retries (R188). -/
def AuxReq.ends (a : AuxReq) (r : AuxReply) : Bool := a.sent && (r != .deferred || decide (7 ≤ a.retries))

/-- A transaction ends with its result (R188). -/
def State.auxEnd (s : State) (h : Nat) (r : AuxReply) : State :=
  if !s.on (F.TX_AUX_CTRL.aux_busy h) || !((s.head h).aux.any (·.ends r)) then s
  else
    let s := match r with
      | .ack bs => (s.putAuxData h bs).wr (F.TX_AUX_CTRL.result h) 0
      | .nack => s.wr (F.TX_AUX_CTRL.result h) 1
      | .deferred => s.wr (F.TX_AUX_CTRL.result h) 2
      | .timeout => s.wr (F.TX_AUX_CTRL.result h) 3
    let s := (s.wr (F.TX_AUX_CTRL.aux_busy h) 0).txIrq F.TX_IRQ.aux_done h
    s.modHead h fun x => { x with aux := none }

/-- AUX_DEFER_RETRY: a deferred transaction goes out again 400 µs later, at most seven times (R188). -/
def execAuxDeferRetry (t h : Nat) (s : State) : Result :=
  let s := s.at t
  .next (match (s.head h).aux with
    | none => s
    | some a =>
      if !a.sent then s
      else if 7 ≤ a.retries then s.auxEnd h .deferred
      else
        let a := { a with retries := a.retries + 1 }
        (s.modHead h fun x => { x with aux := some a }).auxSend h a)

/-! ## Tearing effect (R198) -/

/-- Schedule time of L(te_line):P0 nearest to an edge. -/
def State.teNearest (s : State) (h edge : Nat) : Nat :=
  let b := s.beam h
  let y := s.rd (F.TX_TE.te_line h)
  let n := (edge - b.t0) / max 1 b.tf
  let dist := fun c : Nat => max c edge - min c edge
  let pick := fun a c : Nat => if dist c < dist a then c else a
  (pick (pick (b.time n y 0) (b.time (n + 1) y 0)) (b.time (n - 1) y 0))

/-- A TE edge is timestamped and its phase checked. -/
def State.teEdge (s : State) (h edge : Nat) : State :=
  if !s.on (F.TX_TE.te_en h) || s.headState h == 0 then s
  else
    let phase : Int := (nsOf edge : Int) - nsOf (s.teNearest h edge)
    let s := (s.wr64 (R.TX_TE_TIME h) (nsOf edge)).wr (F.TX_TE_PHASE.phase h) (wrap 32 phase)
    let s := s.modHead h fun x => { x with teFrames := 0 }
    if 100 * s.rd (F.TX_TE.te_window h) < phase.natAbs then
      ((s.set1 (F.TX_STATUS.te_phase h)).txIrq F.TX_IRQ.te_fault h).raise (112 + h)
    else s

/-- TE_SILENT: te_timeout frames have passed without an edge (R198). -/
def execTeSilent (t h : Nat) (s : State) : Result :=
  let s := s.at t
  .next (if s.on (F.TX_TE.te_en h) ∧ s.headState h ≠ 0 ∧ s.rd (F.TX_TE.te_timeout h) ≤ (s.head h).teFrames then
      let s := s.modHead h fun x => { x with teFrames := 0 }
      ((s.set1 (F.TX_STATUS.te_silent h)).txIrq F.TX_IRQ.te_fault h).raise (88 + h)
    else s)

/-! ## Sink events and the journal (R230, R238) -/

/-- Body of a sink event's archive entry: head, kind, its data (R401, log 42). -/
def sinkBody (h : Nat) : SinkEvent → List Byte
  | .plug c => natLe 1 h ++ natLe 1 0 ++ natLe 1 c.psrVersion ++ natLe 1 (b2n c.exitTrain) ++ natLe 4 c.setup ++ natLe 1 (b2n c.assr)
  | .irq lost e => natLe 1 h ++ natLe 1 1 ++ natLe 1 (b2n lost) ++ natLe 1 (b2n e)
  | .unplug => natLe 1 h ++ natLe 1 2
  | .training ok => natLe 1 h ++ natLe 1 3 ++ natLe 1 (b2n ok)
  | .aux (.ack bs) => natLe 1 h ++ natLe 1 4 ++ natLe 1 0 ++ bs
  | .aux .nack => natLe 1 h ++ natLe 1 4 ++ natLe 1 1
  | .aux .deferred => natLe 1 h ++ natLe 1 4 ++ natLe 1 2
  | .aux .timeout => natLe 1 h ++ natLe 1 4 ++ natLe 1 3
  | .te edge => natLe 1 h ++ natLe 1 5 ++ natLe 8 edge

/-- A sink event acts on the head. -/
def State.sinkAct (s : State) (h : Nat) : SinkEvent → State
  | .plug c => s.sinkPlug h c
  | .irq lost e => s.sinkIrq h lost e
  | .unplug => s.sinkUnplug h
  | .training ok => s.trainingEnd h ok
  | .aux r => s.auxEnd h r
  | .te edge => s.teEdge h edge

/-- A sink event reaches the head, and the archive (R402). -/
def State.applySink (s : State) (h : Nat) (e : SinkEvent) : State := (s.archiveInput 5 (nsOf s.now) (sinkBody h e)).sinkAct h e

/-- A sink event at this chip's pins: in lockstep only the owner takes it; a Primary journals it, a Shadow in lockstep sends it to
the Primary (event data of log 42), any other chip takes it at once (R230, R231, R238). -/
def State.sinkEvent (s : State) (h : Nat) (e : SinkEvent) : State :=
  if s.locked && !bit (s.rd F.TANDEM_OWN.owned) h then s
  else if s.isPrimary then s.journalIn (.sink h e)
  else if s.locked then s.emit (.message 9 2 (s.now :: (sinkBody h e).map (·.toNat)))
  else s.applySink h e

/-- HPD_PLUG (R186). -/
def execHpdPlug (t h : Nat) (c : SinkCaps) (s : State) : Result := .next ((s.at t).sinkEvent h (.plug c))

/-- HPD_IRQ (R186). -/
def execHpdIrq (t h : Nat) (lost psrError : Bool) (s : State) : Result := .next ((s.at t).sinkEvent h (.irq lost psrError))

/-- HPD_UNPLUG (R186). -/
def execHpdUnplug (t h : Nat) (s : State) : Result := .next ((s.at t).sinkEvent h .unplug)

/-- TRAINING_ATTEMPT_END (R187). -/
def execTrainingAttemptEnd (t h : Nat) (ok : Bool) (s : State) : Result := .next ((s.at t).sinkEvent h (.training ok))

/-- AUX_COMPLETE (R188). -/
def execAuxComplete (t h : Nat) (r : AuxReply) (s : State) : Result := .next ((s.at t).sinkEvent h (.aux r))

/-- TE_EDGE (R198). -/
def execTeEdge (t h : Nat) (s : State) : Result := .next ((s.at t).sinkEvent h (.te t))

/-! ## Freewheel signalling (R193) -/

/-- PSR_SDP_SEND: the VSC SDP in the horizontal blanking of L(Vactive+1). -/
def execPsrSdpSend (t h : Nat) (s : State) : Result :=
  let s := s.at t
  .next (match (s.head h).psr with
    | none => s
    | some b => (s.modHead h fun x => { x with psr := none }).emit (.display h 2 [b2n b]))

/-! ## Mirror streams (R199–R202) -/

/-- source_id of a head of this chip (R263). -/
def State.sourceId (s : State) (h : Nat) : Nat := 256 * s.rd F.PEL_SELF.chip_number + h

/-- A mirror packet (R199). -/
def mirrorPacket (kind flags src frame line first count time : Nat) (pixels : List Byte) : List Byte :=
  natLe 2 1 ++ natLe 1 kind ++ natLe 1 flags ++ natLe 4 src ++ natLe 8 frame ++ natLe 2 line ++ natLe 2 first ++ natLe 2 count
    ++ natLe 2 0 ++ natLe 8 time ++ pixels

/-- Heads of this chip whose ring accepts a source (R201). -/
def State.ringHeads (s : State) (src : Nat) : List Nat :=
  (List.range 24).filter fun h => s.headPresent h && decide (6 ≤ s.rd (F.TX_REMOTE.ring_log2 h))
    && s.rd (F.TX_REMOTE_SRC.source_id h) == src && (s.headState h == 3 || s.rd (F.TX_CTRL.req_state h) == 3)

/-- A packet of frame k arrives for a Remote head: the mirror is shown again from frame k + 1 (R202). -/
def State.packetSeen (s : State) (h k : Nat) : State :=
  let s := s.modHead h fun x => { x with packet := true, absent := 0 }
  if s.on (F.TX_STATUS.source_absent h) then
    ((s.wr (F.TX_STATUS.source_absent h) 0).txIrq F.TX_IRQ.source_change h).modHead h fun x => { x with mirrorFrom := k + 1 }
  else s

/-- A pixel segment is written into the ring line of head h, its bit set after the data; a tag with an uncorrectable word names no
line (R45, R201, log 112). -/
def State.ringWrite (s : State) (h : Nat) (p : List Byte) : State :=
  let frame := leAt p 8 8
  let line := leAt p 16 2
  let first := leAt p 18 2
  let o := s.ringLine h line
  let (m, s) := s.memRead 69 o 64
  let tag := m.bytes
  let fresh := !m.bad.isEmpty || !(leAt tag 0 8 == frame && leAt tag 8 2 == line)
  let map := if fresh then 0 else leAt tag 16 8
  let tagOf := fun m => slice (natLe 8 frame ++ natLe 2 line ++ natLe 6 0 ++ natLe 8 m) 0 64
  let s := if fresh then s.memWrite 69 o (tagOf 0) else s
  let s := s.memWrite 69 (o + 64 + first * s.pixBytes h) (slice p 32 (leAt p 20 2 * s.pixBytes h))
  let seg := s.rd (F.TX_MIRROR.seg_pixels h)
  s.memWrite 69 o (tagOf (setBit map (if seg = 0 then 0 else first / seg) true))

/-- A hold packet for frame k names it while it arrives before the latch edge of frame k − 1; frames gone by are forgotten
(R202). -/
def State.holdFrame (s : State) (h k : Nat) : State :=
  let b := s.beam h
  if s.now + b.tf < b.time k b.vactive 0 then
    s.modHead h fun x => { x with holds := k :: x.holds.filter fun f => decide (x.frame ≤ f ∧ f ≠ k) }
  else s

/-- A mirror packet reaches the rings of the heads that show its source (R201, R202). -/
def State.mirrorTo (s : State) (p : List Byte) (h : Nat) : State :=
  if leAt p 2 1 = 1 then (s.packetSeen h (leAt p 8 8)).holdFrame h (leAt p 8 8)
  else if bit (leAt p 3 1) 2 != s.bpc10 h then s.satInc (F.TX_REMOTE_RING.discarded h)
  else (s.packetSeen h (leAt p 8 8)).ringWrite h p

/-- Deliver a packet to every ring of this chip that accepts it. -/
def State.mirrorReceive (s : State) (p : List Byte) : State :=
  if leAt p 0 2 ≠ 1 ∨ 1 < leAt p 2 1 then s else (s.ringHeads (leAt p 4 4)).foldl (fun s h => s.mirrorTo p h) s

/-- MIRROR_PACKET_RECEIVE: a packet from the network or from a tap of this chip (R201). -/
def execMirrorPacketReceive (t : Nat) (bytes : List Byte) (s : State) : Result := .next ((s.at t).mirrorReceive bytes)

/-- A packet of head h leaves: into rings of the same chip, else by the ports and to the UDP destination that the Groupset sets; a
Shadow sends none (R199, R228, log 112). -/
def State.mirrorOut (s : State) (h : Nat) (p : List Byte) : State :=
  if (s.ringHeads (s.sourceId h)).isEmpty then
    if s.isShadow then s
    else s.sendFrame 8 (b2n (Config.mirrorPortB s.gs.digest h)) ((Config.mirrorDest s.gs.digest h ++ p).map (·.toNat))
  else s.mirrorReceive p

/-- The segment of a line that starts at pixel `first`, once its pixels have left. -/
def State.mirrorSegment (s : State) (j : LineJob) (first : Nat) : Option (List Byte) :=
  let h := j.head
  let seg := s.rd (F.TX_MIRROR.seg_pixels h)
  let hact := s.rd (F.BEAM_H.hactive h)
  let count := min seg (hact - first)
  if seg = 0 ∨ first % seg ≠ 0 ∨ hact ≤ first ∨ j.sent.length < first + count then none
  else
    let px := (j.sent.reverse.drop first).take count
    let under := j.underrun.any fun x => decide (first ≤ x ∧ x < first + count)
    let flags := b2n under + 2 * b2n j.mismatch.isSome + 4 * b2n (s.bpc10 h)
    some (mirrorPacket 0 flags (s.sourceId h) j.frame j.y first count (nsOf ((s.beam h).time j.frame j.y first))
      (px.flatMap (pixelBytes (s.bpc10 h))))

/-- MIRROR_PACKET_SEND: the segment of line `y` at pixel `first` (R199), or with none the hold packet of a head in Freewheel or
Off at its frame start. -/
def execMirrorPacketSend (t h n : Nat) (seg : Option (Nat × Nat)) (s : State) : Result :=
  let s := s.at t
  .next (if !s.on (F.TX_MIRROR.tap_en h) || !s.headPresent h then s
    else
      match seg with
      | none =>
        if s.headState h = 0 ∨ s.headState h = 2 ∨ (s.head h).freewheel = true then
          s.mirrorOut h (mirrorPacket 1 (4 * b2n (s.bpc10 h)) (s.sourceId h) n 0 0 0 (s.startNs h n) [])
        else s
      | some (y, first) =>
        match (s.job h n y).bind fun j => s.mirrorSegment j first with
        | none => s
        | some p => s.mirrorOut h p)

/-- SOURCE_ABSENT: absent_frames frames have brought no packet (R202). -/
def execSourceAbsent (t h : Nat) (s : State) : Result :=
  let s := s.at t
  .next (if s.headState h = 3 ∧ s.rd (F.TX_REMOTE.absent_frames h) ≤ (s.head h).absent ∧ !s.on (F.TX_STATUS.source_absent h) then
      ((s.set1 (F.TX_STATUS.source_absent h)).txIrq F.TX_IRQ.source_change h).raise 221
    else s)

end Sys2Proof.Machine
end

