-- ==== Sys2Proof/Machine/Tandem.lean ====
section
/-! DEFINITION. The Tandem controller: roles, seal compare, takeovers, loss of the twin, rejoin and cutover (11: R227–R244).
How a journalled input reaches its unit, and the loss of the twin, are in Journal. -/

namespace Sys2Proof.Machine

/-- Set a status bit of the Tandem interrupt. -/
def State.tandemIrq (s : State) (f : Fld) : State := s.set1 f

/-- Enter a controller state and role, reported in TANDEM_STATUS and GS_MODE_SUMMARY (R229, R242). -/
def State.setTandem (s : State) (st role : Nat) : State :=
  if s.rd F.TANDEM_STATUS.state = st ∧ s.rd F.TANDEM_STATUS.role = role then s
  else
    let s := (s.wr F.TANDEM_STATUS.state st).wr F.TANDEM_STATUS.role role
    let s := s.wr F.GS_MODE_SUMMARY.tandem role
    let s := if st = 3 then s else s.wr F.TANDEM_STATUS.eligible 0
    s.tandemIrq F.TANDEM_IRQ.state_change

/-- Drive, or release, the TAKE net of head h towards a chip: chip 0 drives, both chips expect the level (R238). -/
def State.moveNet (s : State) (h chip : Nat) : State :=
  { s with tandem.drive := if s.twinIndex = 0 then setBit s.tandem.drive h (chip == 0) else s.tandem.drive,
           tandem.net := setBit s.tandem.net h (chip == 1), tandem.expected := setBit s.tandem.expected h (chip == 1) }

/-- Latch a switch (R239, R240). -/
def State.lastTake (s : State) (h cause line frame : Nat) : State :=
  let s := ((s.wr F.TANDEM_LAST_TAKE.cause cause).wr F.TANDEM_LAST_TAKE.line line).wr F.TANDEM_LAST_TAKE.head h
  (s.wr64 R.TANDEM_LAST_TAKE_FRAME frame).tandemIrq F.TANDEM_IRQ.take

/-- The chip is forced Solo on the Tandem axis: recovery start, a proof not passed, Factory (R26). -/
def State.forcedSolo (s : State) : Bool :=
  s.clock.recovery || s.clock.proofHold || s.rd F.SEC_STATE.state == 0

/-! ## Start and rejoin (R229, R242, R243) -/

/-- A joiner is refused: it stays Solo on the Tandem axis (R243). -/
def State.refuseRejoin (s : State) (reason : Nat) : State :=
  let s := { s with tandem.joining := false, tandem.copyDone := false }
  (s.wr F.TANDEM_STATUS.refusal reason).setTandem 0 0

/-- This chip starts to join its twin (R242, R243). -/
def State.startJoin (s : State) (digest : List Byte) (auth : Bool) : State :=
  if digest ≠ s.gs.digest then s.refuseRejoin 1
  else if !auth then s.refuseRejoin 2
  else
    let s := { s with tandem.joining := true, tandem.joinStart := s.now, tandem.copyDone := false,
                      tandem.authenticated := true, tandem.follows := false }
    (s.wr F.TANDEM_STATUS.refusal 0).setTandem 2 (s.rd F.TANDEM_STATUS.role)

/-- TANDEM_START_ROLE: this chip completes its start-up profile; `twin` says what its twin does: 0 silent, 1 completes within
1 s, 2 runs as Primary. A joiner asks for its rejoin, made by TANDEM_REJOIN (R229). -/
def execTandemStartRole (t twin : Nat) (s : State) : Result :=
  let s := s.at t
  .next (if !s.gs.paired || s.forcedSolo || s.rd F.TANDEM_STATUS.state != 0 then s
    else if twin = 2 ∨ (twin = 1 ∧ s.twinIndex = 1) then { s with tandem.rejoin := true }
    else
      let s := s.setTandem 1 1
      if s.twinIndex = 0 then (List.range 24).foldl (fun s h => s.moveNet h 0) s else s)

/-- TANDEM_REJOIN: a rejoin of this chip that was asked for, or that auto_rejoin makes after a divergence; or the twin's request
(`fromTwin`). The other chip's body digest and the outcome of authentication come with it (R237, R242, R243). -/
def execTandemRejoin (t : Nat) (fromTwin : Bool) (digest : List Byte) (auth : Bool) (s : State) : Result :=
  let s := s.at t
  let st := s.rd F.TANDEM_STATUS.state
  .next (if !s.gs.paired || s.forcedSolo then s
    else if fromTwin then
      if st = 1 ∧ s.isPrimary = true ∧ digest = s.gs.digest ∧ auth = true then
        { s with tandem.joining := false, tandem.copyDone := false, tandem.authenticated := true }.setTandem 2 1
      else s
    else if (st = 0 ∧ s.tandem.rejoin) ∨ (st = 4 ∧ (s.tandem.rejoin ∨ s.on F.TANDEM_CTRL.auto_rejoin)) then
      { s with tandem.rejoin := false }.startJoin digest auth
    else s)

/-- REJOIN_TIME_TIMEOUT: after 2 s a joiner whose Odometer does not follow is refused (R243). -/
def execRejoinTimeTimeout (t : Nat) (s : State) : Result :=
  let s := s.at t
  .next (if s.tandem.joining ∧ s.rd F.TANDEM_STATUS.state = 2 ∧ usRoot 2_000_000 + s.tandem.joinStart ≤ s.now ∧ !s.tandem.follows
    then s.refuseRejoin 3 else s)

/-- STATE_COPY_COMPLETE: the background copy ends; a joiner has received the scene memory blocks and head-array words that the
twin sent (R244, R32). -/
def execStateCopyComplete (t : Nat) (blocks : List (Nat × List Byte)) (words : List (Nat × Word)) (s : State) : Result :=
  let s := s.at t
  .next (if s.rd F.TANDEM_STATUS.state ≠ 2 then s
    else
      let s := { s with tandem.copyDone := true }
      if !s.tandem.joining then s
      else
        let s := blocks.foldl (fun s b => s.setMemBytes b.1 b.2) s
        let s := { s with hub.flips := s.hub.flips.filter fun p => !blocks.any fun b =>
                            decide (b.1 ≤ 8 * p.1 ∧ 8 * p.1 < b.1 + b.2.length) }
        words.foldl (fun s w => s.setArr w.1 w.2) s)

/-- A queue entry of the Derailleur from its 40 bytes in the form of KEY_STATE: record copy, point, change class (R32, R401). -/
def derEntryOf (b : List Byte) : DerEntry :=
  let k := leAt b 36 4
  { point := leAt b 32 4, copy := some (PointRec.ofBytes b), reeval := bit k 0, valueChange := bit k 1, qualityChange := bit k 2 }

/-- Word i of a core's state in the form of KEY_STATE. -/
def coreWord (b : List Byte) (i : Nat) : Word := BitVec.ofNat 32 (leAt b (4 * i) 4)

/-- Coprocessor registers from a core's state in the form of KEY_STATE (R358, R401). -/
def copOf (b : List Byte) : CopRegs :=
  let w := fun i => coreWord b (12 + i)
  { num := w 0, den := w 1, quo := w 2, rem := w 3, accLo := w 4, accHi := w 5, m1 := w 6, m2 := w 7, src := w 8, dst := w 9,
    rootLo := w 10, rootHi := w 11, beam := w 12, frameLo := w 13, frameHi := w 14, untilLo := w 15, untilHi := w 16 }

/-- A held core takes the registers of the twin's (R32, R244, R401). -/
def State.copyCore (s : State) (p : Nat × List Byte) : State :=
  let w := coreWord p.2
  let s := s.modCore p.1 fun c =>
    { c with a := w 0, x := w 1, y := w 2, sp := w 3, pc := w 4, ps := if bit (w 5).toNat 6 then c.ps else w 5, af := w 6, xf := w 7,
             yf := w 8, psf := w 9, fb := bit (w 5).toNat 6, fret := w 10, cop := copOf p.2, load := none }
  { s with links := mset (fun _ => none) s.links p.1 (if bit (w 11).toNat 0 then some ((w 11).toNat / 4 * 4) else none) }

/-- A Bell voice's state as the copy carries it, one number per field in their order in `Voice`, the eight cue words and the decoder's
five among them (R244, log 24). -/
def voiceOf (l : List Int) : Voice :=
  let z := fun i => l.getD i 0
  let n := fun i => (z i).toNat
  { phase := n 0, cue := n 1, level := n 2, words := (List.range 8).map fun i => n (3 + i), count := n 11, age := n 12, num := n 13,
    den := n 14, pos := n 15, modPos := n 16, dec := { count := n 17, pred := z 18, index := n 19, before := z 20, lost := z 21 != 0 },
    fresh := z 22 != 0, last := z 23, ramp := z 24, rampLeft := n 25 }

/-- A joiner takes what the hold copies: unit registers, the Derailleur queue, core registers, bytes of the local memories by core and
offset, and the state of Bell voices (R32, R244; log 24). -/
def State.takeCopy (s : State) (words : List (Nat × Word)) (queue : List (List Byte)) (cores : List (Nat × List Byte))
    (locals : List (Nat × Nat × List Byte)) (voices : List (Nat × List Int)) : State :=
  let s := { s with bell.voices := voices.foldl (fun m (v : Nat × List Int) => mset (fun _ => {}) m v.1 (voiceOf v.2)) s.bell.voices }
  let s := words.foldl (fun s w => s.setReg w.1 w.2) s
  let s := cores.foldl State.copyCore { s with der.queue := queue.map derEntryOf }
  locals.foldl (fun s m => s.localWrite m.1 m.2.1 m.2.2) s

/-- CUTOVER_HOLD_START: at a chip latch edge after the copy; a joiner receives the state that the hold copies (R32, R244; log 24). -/
def execCutoverHoldStart (t : Nat) (words : List (Nat × Word)) (queue : List (List Byte)) (cores : List (Nat × List Byte))
    (locals : List (Nat × Nat × List Byte)) (voices : List (Nat × List Int)) (s : State) : Result :=
  let s := s.at t
  .next (if s.rd F.TANDEM_STATUS.state = 2 ∧ s.tandem.copyDone ∧ s.chipLatch = true then
      let s := { s with tandem.hold := true }
      if s.tandem.joining then s.takeCopy words queue cores locals voices else s
    else s)

/-- CUTOVER_HOLD_END: both chips resume in lockstep (R242, R244). -/
def execCutoverHoldEnd (t : Nat) (s : State) : Result :=
  let s := s.at t
  .next (if !s.tandem.hold then s
    else
      let role := if s.tandem.joining then 2 else 1
      let s := { s with tandem.hold := false, tandem.joining := false, tandem.copyDone := false, tandem.equalHeads := 0,
                        tandem.lockedAt := s.now, tandem.held := [] }
      ((s.setTandem 3 role).wrapInc F.TANDEM_STATUS.rejoins).unitsResume)

/-- TWIN_LINK_UP (R242). -/
def execTwinLinkUp (t : Nat) (s : State) : Result :=
  let s := (s.at t).set1 F.TANDEM_STATUS.link_up
  .next ({ s with tandem.hbLost := false }.set1 F.TANDEM_STATUS.twin_alive)

/-! ## Divergence (R236, R237) -/

/-- Every head this chip owns, or when Primary does not own, is to go to the Primary (R237). -/
def State.releaseHeads (s : State) : State :=
  (List.range 24).foldl (fun s h =>
    if s.headPresent h && (s.netOwns h == s.isShadow) then s.holdTakeover h 5 s.now else s) s

/-- Lockstep ends (R232, R234, R236, R237). -/
def State.diverge (s : State) : State :=
  if !s.locked then s
  else
    let s := (s.satInc F.TANDEM_DIVERGE.events).tandemIrq F.TANDEM_IRQ.diverged
    let s := { s with tandem.haltDiverge := false }
    let s := s.releaseHeads
    let s := if s.isPrimary then s.setTandem 1 1 else s.setTandem 4 2
    s.raise 201

/-- A divergence that this chip alone has found: its twin is told (R236). -/
def State.divergeAlone (s : State) : State := if s.locked then s.diverge.emit (.message 9 3 []) else s

/-- The head was in Remote in the frame of its last record (R236). -/
def State.lastRemote (s : State) (h : Nat) : Bool := bit (s.rd (F.SEAL_STATUS.flags h)) 5

/-- The head had mismatch lines in its last record (R236). -/
def State.lastMismatch (s : State) (h : Nat) : Bool := bit (s.rd (F.SEAL_STATUS.flags h)) 3

/-- The last frame seal of head h. -/
def State.lastSeal (s : State) (h : Nat) : List Byte := (List.range 16).flatMap fun k => natLe 4 (s.reg (R.SEAL_FSEAL h k)).toNat

/-- The frame of the head's last record was fetched after the cutover (R244). -/
def State.comparable (s : State) (h : Nat) : Bool := decide (s.tandem.lockedAt < s.fetchStart h (s.rd64 (R.SEAL_FRAME h)) 0)

/-- The chip's own background self-test still runs or has failed, or the twin's does (R26, R239). -/
def State.ownUnproven (s : State) : Bool := s.on F.CPR_STATUS.bist_busy || s.on F.CPR_STATUS.bist_fail

/-- Every present head not in Remote has compared equal, and the Shadow's self-test has passed: the Shadow is eligible (R26, R244). -/
def State.judgeEligible (s : State) : State :=
  let proven := !(if s.isShadow then s.ownUnproven else s.tandem.twinBist)
  if proven && (List.range 24).all fun h => !s.headPresent h || s.headState h == 3 || bit s.tandem.equalHeads h then
    s.set1 F.TANDEM_STATUS.eligible
  else s

/-- The exchange of one head's frame seals (R236), with whether either chip was halted since the last one (R237). -/
def State.compareSeals (s : State) (h : Nat) (twin : List Byte) (twinMis twinHalt : Bool) : State :=
  if s.tandem.haltDiverge || twinHalt then s.diverge
  else if s.lastSeal h = twin then { s with tandem.equalHeads := setBit s.tandem.equalHeads h true }.judgeEligible
  else
    let s := s.wr F.TANDEM_DIVERGE.head h
    if s.lastRemote h then (s.satInc F.TANDEM_DIVERGE.remote).raise 222
    else if s.lastMismatch h != twinMis then s
    else s.diverge

/-- SEAL_COMPARE: the twin's seal of head h's last frame and whether it had mismatch lines; with it, whether the twin's self-test runs
or has failed, and whether one of its cores was halted (R26, R236, R237, R239). -/
def execSealCompare (t h : Nat) (twin : List Byte) (twinMis twinBist twinHalt : Bool) (s : State) : Result :=
  let s := s.at t
  .next (if s.locked && s.headPresent h && s.comparable h then
      { s with tandem.twinBist := twinBist }.compareSeals h twin twinMis twinHalt
    else s)

/-- TWIN_TIME_TRANSFER: the offset of the Shadow's Odometer in tenths of a ns (R234, R243). -/
def execTwinTimeTransfer (t : Nat) (offset : Int) (s : State) : Result :=
  let s := { s.at t with tandem.offset := offset }
  .next (if s.locked ∧ s.isShadow ∧ 20 < offset.natAbs then s.divergeAlone
    else if s.tandem.joining then { s with tandem.follows := decide (offset.natAbs ≤ 10) }
    else s)

/-! ## Takeovers (R238, R239) -/

/-- TANDEM_TAKE_REQ: a write asks for takeovers (R239). -/
def State.takeRequest (s : State) (heads : Nat) : State :=
  if s.rd F.TANDEM_STATUS.role = 0 then s else (headsOf heads).foldl (fun s h => s.holdTakeover h 2 s.now) s

/-- TANDEM_TAKE_REQ (R239). -/
def execTandemTakeReq (t heads : Nat) (s : State) : Result := .next ((s.at t).takeRequest heads)

/-- The chip that would receive the head may take it: LOCKED, self-tested, without mismatch on the head in this frame, and a Shadow
only once it is eligible (R26, R239, R244). -/
def State.mayTake (s : State) (d : Takeover) : Bool :=
  let mine := s.netOwns d.head
  let toShadow := mine == s.isPrimary
  d.cause == 5 || (s.locked && (!toShadow || s.on F.TANDEM_STATUS.eligible) &&
    (if mine then !s.tandem.twinBist && !bit s.tandem.twinMismatch d.head
     else !s.ownUnproven && (s.head d.head).mismatch == 0))

/-- A takeover is armed at the latch edge of frame m: the net follows, and a capable head in Run passes through one Freewheel
frame (R239). -/
def State.armTakeover (s : State) (d : Takeover) (m : Nat) : State :=
  let h := d.head
  let s := { s with tandem.armed := s.tandem.armed ++ [{ d with frame := m }] }
  if s.headState h = 1 ∧ s.fwCapable h = true ∧ (s.head h).armed.getD 1 = 1 ∧ (s.headSwap h).armed = false then
    s.modHead h fun x => { x with armed := some 2, psr := some true, request := some (1, s.now) }
  else s

/-- The decisions `due` of one head, in order, at the latch edge of frame m: the first that may be made is armed, those before it are
refused with a Degrade fault, those after it stay held for the next edge (R239, R241). -/
def State.armFirst (s : State) (m : Nat) : List Takeover → State
  | [] => s
  | d :: rest =>
    if s.headState d.head = 0 then s.armFirst m rest
    else if s.mayTake d then { s with tandem.decided := rest ++ s.tandem.decided }.armTakeover d m
    else (s.raise 202).armFirst m rest

/-- The latch edge of frame m of head h: the decisions that both chips hold (R239). -/
def State.takeoversAtLatch (s : State) (h m : Nat) : State :=
  let due := fun d : Takeover => d.head == h && decide (d.since < s.now)
  { s with tandem.decided := s.tandem.decided.filter fun d => !due d }.armFirst m (s.tandem.decided.filter due)

/-- TAKE_NET_CHANGE: at L(Vactive+2):P0 of the arming frame the net moves to the other chip (R239). -/
def execTakeNetChange (t h : Nat) (s : State) : Result :=
  let s := s.at t
  .next (match s.tandem.armed.find? (·.head == h) with
    | none => s
    | some d =>
      let chip := if bit s.tandem.net h then 0 else 1
      let s := { s with tandem.armed := s.tandem.armed.erase d }.moveNet h chip
      s.lastTake h d.cause (s.rd (F.BEAM_V.vactive h) + 2) d.frame)

/-- TAKE_NET_DISAGREE: the net's level has differed from the expected one for 10 µs (R238). -/
def execTakeNetDisagree (t h : Nat) (high : Bool) (s : State) : Result :=
  let s := { s.at t with tandem.net := setBit s.tandem.net h high }
  .next (if bit s.tandem.expected h = high then s else s.raise 201)

/-- HELD_FRAME_EXPIRE: held frames go after 100 µs (R233). -/
def execHeldFrameExpire (t : Nat) (s : State) : Result :=
  let s := s.at t
  .next { s with tandem.held := s.tandem.held.filter fun p => decide (s.now < usRoot 100 + p.1) }

/-! ## Control role (R241) -/

/-- TANDEM_HANDOVER: the control role is to go to the twin at the next latch edge of the chip schedule; ignored unless LOCKED. -/
def execTandemHandover (t : Nat) (s : State) : Result :=
  let s := s.at t
  .next (if s.locked then { s with tandem.handover := true } else s)

/-- The control role changes hands (R241). -/
def State.swapRoles (s : State) : State :=
  if s.tandem.handover && s.locked then
    { s with tandem.handover := false }.setTandem 3 (if s.isPrimary then 2 else 1)
  else { s with tandem.handover := false }

end Sys2Proof.Machine
end

