-- ==== Sys2Proof/Machine/Peloton.lean ====
section
/-! DEFINITION. The Peloton controller: membership, leadership, group commit, wall sprites (12: R245–R263). The messages'
contents come as operands: their wire format is not published. -/

namespace Sys2Proof.Machine

/-- Set a status bit of the Peloton interrupt. -/
def State.pelIrq (s : State) (f : Fld) : State := s.set1 f

/-- Member states: 0 SOLO, 1 JOINING, 2 ACTIVE, 3 RETURNING; roles: 0 Solo, 1 Member, 2 Leader. -/
def State.pelState (s : State) : Nat := s.rd F.PEL_STATUS.state
def State.pelRole (s : State) : Nat := s.rd F.PEL_STATUS.role
def State.pelLeads (s : State) : Bool := s.pelRole == 2 && s.pelState == 2

/-- This chip's member index. -/
def State.selfIndex (s : State) : Nat := s.rd F.PEL_SELF.member_index

/-- Enter a member state and role (R246); only a leader keeps the largest offset (R252). -/
def State.setPel (s : State) (st role : Nat) : State :=
  if s.pelState = st ∧ s.pelRole = role then s
  else
    let s := ((s.wr F.PEL_STATUS.state st).wr F.PEL_STATUS.role role).wr F.GS_MODE_SUMMARY.peloton role
    let s := if role = 2 then s else (s.wr F.PEL_GENLOCK.worst 0).wr F.PEL_GENLOCK.member 0
    s.pelIrq F.PEL_IRQ.role_change

/-- Send a Peloton message; a Shadow sends none (R228, R245). -/
def State.pelSend (s : State) (kind : Nat) (fields : List Nat) : State :=
  if s.isShadow then s else s.emit (.message 10 kind fields)

/-- Update one member of the leader's list. -/
def State.modMember (s : State) (i : Nat) (f : PelMember → PelMember) : State :=
  { s with pel.members := s.pel.members.map fun m => if m.index = i then f m else m }

/-- Start of Peloton frame F, and the deadlines of its bundle (R253). -/
def State.pelStart (s : State) (f : Nat) : Nat := s.chipStart f
def State.closeAt (s : State) (f : Nat) : Nat := s.pelStart f - usRoot (100 * s.rd F.PEL_GUARD.close_guard)
def State.decideAt (s : State) (f : Nat) : Nat := s.pelStart f - usRoot (100 * s.rd F.PEL_GUARD.decide_guard)
def State.armAt (s : State) (f : Nat) : Nat := s.pelStart f - usRoot (100 * s.rd F.PEL_GUARD.arm_guard)

/-! ## Joining and leaving (R246–R248) -/

/-- This chip becomes a member, with its path and chip number. -/
def State.enterPeloton (s : State) (role leader number : Nat) (path : List Nat) : State :=
  let s := { s with pel.path := path, pel.joinAsked := false, pel.joinFrame := none, pel.joinPath := [], pel.missedBeats := 0 }
  let s := (s.wr F.PEL_STATUS.leader leader).wr F.PEL_SELF.chip_number number
  (s.wr F.PEL_STATUS.depth path.length).setPel 2 role

/-- Chips of this member: both of a Tandem count (R23). -/
def State.ownChips (s : State) : Nat := if s.rd F.TANDEM_STATUS.role = 0 then 1 else 2

/-- This chip as a member of its own Peloton. -/
def State.selfMember (s : State) : PelMember :=
  { index := s.selfIndex, number := s.rd F.PEL_SELF.chip_number, chips := s.ownChips, eligible := s.on F.PEL_CTRL.leader_eligible }

/-- This chip is in no Peloton. -/
def State.leavePeloton (s : State) : State :=
  let s := { s with pel := { joinAsked := false, words := s.pel.words } }
  (((s.wr F.PEL_STATUS.depth 0).wr F.PEL_SPRITE_OWN.owned 0).wr F.PEL_SELF.chip_number 0).setPel 0 0

/-- A write of PEL_CTRL.join: a Member asks its leader; a chip whose Groupset names it Leader opens the Peloton, and as the leader of one
asks for its place in the parent (R245, log 25). -/
def State.pelJoin (s : State) : State :=
  if s.gs.pelotonRole = 0 || s.forcedSolo then s
  else if s.pelLeads then s.pelSend 1 [s.selfIndex, s.gs.chipT0, s.gs.chipTf]
  else if 1 < s.pelState then s
  else if s.gs.pelotonRole = 2 then
    let s := s.wr F.PEL_SELF.chip_number 0
    { s with pel.members := [s.selfMember] }.enterPeloton 2 s.selfIndex 0 [0, s.selfIndex]
  else
    let s := { s with pel.joinAsked := true }
    (s.setPel 1 0).pelSend 1 [s.selfIndex, s.gs.chipT0, s.gs.chipTf]

/-- The lowest chip number not in use (R248). -/
def State.freeNumber (s : State) : Nat :=
  ((List.range 1024).find? fun n => !s.pel.members.any (·.number == n)).getD 0

/-- Chips in the Peloton. -/
def State.pelChips (s : State) : Nat := (s.pel.members.map (·.chips)).sum

/-- Why a join is refused; 0 when it is accepted (R247): its chips are counted in the outermost Peloton, its path from there (R22,
R23). -/
def State.joinReason (s : State) (r : JoinReq) : Nat :=
  if !r.auth then 1
  else if 1024 < r.outside + s.pelChips + r.chips then 2
  else if 16 < s.pel.path.length - 1 + r.depth then 3
  else if r.t0 ≠ s.gs.chipT0 ∨ r.tf ≠ s.gs.chipTf ∨ r.guards = false then 4
  else if s.pel.members.any (·.index == r.index) then 5
  else 0

/-- Wall sprites of member i, with the leader as their new owner (R262). -/
def State.passedSprites (s : State) (i : Nat) : List (Nat × Nat) :=
  s.pel.owners.filterMap fun p => if p.2 = some i then some (p.1, s.selfIndex) else none

/-- Add a membership change to the bundle in the making (R246); a member that leaves the commit set gives its wall sprites to the leader
with it (R262). -/
def State.pelChange (s : State) (i what : Nat) : State :=
  let f := s.pel.lastClosed + 1
  { s with pel.opened := s.pel.opened ++ [⟨f, [], false, [], if what = 2 then s.passedSprites i else [], [(i, what)]⟩] }

/-- The leader answers a join request: the join takes effect with the next bundle (R246–R248). -/
def State.answerJoin (s : State) (r : JoinReq) : State :=
  let why := s.joinReason r
  if why ≠ 0 then s.pelSend 2 [r.index, why]
  else
    let n := s.freeNumber
    let s := { s with pel.members := s.pel.members ++ [({ index := r.index, number := n, chips := r.chips, inSet := false } : PelMember)] }
    (s.pelChange r.index 0).pelSend 2 [r.index, 0, n, s.pel.lastClosed + 1]

/-- PELOTON_JOIN: this chip's join, or at the leader a request of another (R247). -/
def execPelotonJoin (t : Nat) (req : Option JoinReq) (s : State) : Result :=
  let s := s.at t
  .next (match req with
    | none => s.pelJoin
    | some r => if s.pelLeads then s.answerJoin r else s)

/-- The answer to this chip's join: reason 0 accepts from chip frame `frame`; any other refuses (R246, R247). A leader takes its
parent's answer for the whole of its Peloton, which then lies below the parent (R22, R245). -/
def State.joinAnswered (s : State) (reason frame number leader : Nat) (path : List Nat) : State :=
  let levels := path.length + b2n s.pelLeads + b2n (s.rd F.TANDEM_STATUS.role != 0) + 2
  let why := if reason = 0 ∧ 16 < levels then 3 else reason
  let accepted : State := { s with pel.joinFrame := some frame, pel.joinPath := path, pel.joinNumber := number }
  if s.pelLeads then (if why = 0 then accepted else s.wr F.PEL_STATUS.refusal why)
  else if s.pelState ≠ 1 then s
  else if why = 0 then accepted.wr F.PEL_STATUS.leader leader
  else (s.wr F.PEL_STATUS.refusal why).setPel 0 0

/-- The join takes effect: this chip becomes a member, or its Peloton one of its parent's (R246, R248). -/
def State.joinNow (s : State) : State :=
  let p := s.pel.joinPath
  let n := s.pel.joinNumber
  if s.pelLeads then s.enterPeloton 2 s.selfIndex n (p ++ [s.selfIndex])
  else s.enterPeloton 1 (s.rd F.PEL_STATUS.leader) n p

/-- The next eligible member, by its index (R250). -/
def State.nextLeader (s : State) : Option Nat :=
  ((s.pel.members.filter fun m => m.inSet && m.eligible && m.index != s.selfIndex).map (·.index)).min?

/-- A leader that parks hands leadership over, and is withdrawn (R26, R250). -/
def State.passLead (s : State) : State :=
  if s.pel.handLead then
    let s := { s with pel.handLead := false }
    match s.nextLeader with
    | some i => ((s.pelSend 14 [i]).wr F.PEL_STATUS.leader i).setPel 3 1
    | none => s.setPel 3 1
  else s

/-- PELOTON_LEAVE: the chip leaves at the frame the leader names (R246). -/
def execPelotonLeave (t frame : Nat) (s : State) : Result :=
  let s := s.at t
  .next (if s.pelState = 0 then { s with pel.joinAsked := false }
    else if s.pelState = 1 then s.leavePeloton
    else { s with pel.leaveFrame := some frame }.pelSend 3 [s.selfIndex])

/-- A RETURNING member that has no return frame yet asks its leader for one (R258), at a chip frame start (log 25). -/
def State.askReturn (s : State) : State :=
  if s.pelState = 3 ∧ s.pel.returnAsked = false ∧ s.power ≠ 2 then { s with pel.returnAsked := true }.pelSend 15 [s.selfIndex] else s

/-- What a chip frame start does to membership: joins, returns and leaves named for it take effect, a refused join repeats, a
beat not yet seen counts as missed (R246, R247, R250). -/
def State.pelAtFrame (s : State) (n : Nat) : State :=
  let s := if s.pel.leaveFrame = some n then s.leavePeloton else s
  let s := (if s.pel.joinFrame = some n then s.joinNow else s).passLead
  let s := if s.pel.returnFrame = some n ∧ s.pelState = 3 then
      { s with pel.returnFrame := none, pel.returnAsked := false }.setPel 2 (if s.pelRole = 0 then 1 else s.pelRole)
    else s
  let s := (if s.pel.joinAsked && s.pelState == 0 then s.pelJoin else s).askReturn
  if 2 ≤ s.pelState ∧ s.pelRole = 1 then { s with pel.missedBeats := s.pel.missedBeats + 1 } else s

/-! ## Leadership (R250, R251) -/

/-- This chip may lead (R250). -/
def State.mayLead (s : State) : Bool :=
  s.pelState == 2 && s.on F.PEL_CTRL.leader_eligible && s.rd F.ODO_STATUS.time_state == 0 && s.power != 2 && !s.clock.recovery

/-- The largest offset reported, kept by the leader (R252). -/
def State.worstOffset (s : State) : State :=
  let w := s.pel.members.foldl (fun (b : Nat × Int) m => if b.2.natAbs < m.offset.natAbs then (m.index, m.offset) else b) (0, 0)
  (s.wr F.PEL_GENLOCK.worst (wrap 16 (clamp (-32768) 32767 w.2))).wr F.PEL_GENLOCK.member w.1

/-- The present moment is a chip frame start of the released schedule. -/
def State.atChipStart (s : State) : Bool :=
  s.on F.ODO_STATUS.released && decide (s.gs.chipT0 ≤ s.now) && (s.now - s.gs.chipT0) % s.gs.chipTf == 0

/-- PELOTON_BEAT: at a chip frame start a leader that may still lead sends its beat and takes the members' answers with their offsets; a
member hears it and answers (R250, R252, R258). -/
def execPelotonBeat (t : Nat) (answers : List (Nat × Int)) (s : State) : Result :=
  let s := s.at t
  .next (if s.pelLeads then
      if !(s.mayLead && s.atChipStart) then s else
      let hear := fun m : PelMember => match answers.find? (·.1 == m.index) with
        | some a => { m with missed := 0, offset := a.2 }
        | none => if m.index = s.selfIndex then { m with offset := signed 32 (s.rd F.PEL_GENLOCK_SELF.offset) }
                  else { m with missed := m.missed + 1 }
      ({ s with pel.members := s.pel.members.map hear }.worstOffset).pelSend 4 [s.gs.chipFrame]
    else if 2 ≤ s.pelState then { s with pel.missedBeats := 0 }.pelSend 5 [s.selfIndex, s.rd F.PEL_GENLOCK_SELF.offset]
    else s)

/-- Merge a bundle's contents into a later one: older commands first, of each wall sprite only the newest sample (R256). -/
def mergeBundle (old new : PelBundle) : PelBundle :=
  { frame := new.frame, cmds := old.cmds ++ new.cmds, apply := old.apply || new.apply,
    samples := (old.samples.filter fun x => !new.samples.any (·.1 == x.1)) ++ new.samples,
    owners := (old.owners.filter fun x => !new.owners.any (·.1 == x.1)) ++ new.owners, members := old.members ++ new.members }

/-- The leader sends a bundle back to a later frame g (R256). -/
def State.retargetTo (s : State) (b : PelBundle) (g : Nat) : State :=
  let s := { s with pel.opened := { b with frame := g } :: s.pel.opened, pel.closed := none, pel.readySet := [],
                    pel.prepared := none, pel.ready := false }
  (((s.satInc F.PEL_COMMIT_STATS.retargets).pelIrq F.PEL_IRQ.retarget)).pelSend 8 [b.frame, g]

/-- The first frame whose close deadline lies ahead (R251, R253). -/
def State.firstOpen (s : State) : Nat :=
  (s.now + usRoot (100 * s.rd F.PEL_GUARD.close_guard) - s.gs.chipT0) / s.gs.chipTf + 1

/-- The new leader settles the bundle it finds open: a COMMIT some member holds is sent again while its arm deadline lies
ahead; with none held the bundle goes to the first frame that can still close (R251). -/
def State.settleBundle (s : State) (held : Bool) : State :=
  match s.pel.prepared with
  | none => s
  | some b =>
    if held then
      if s.now < s.armAt b.frame then
        { s with pel.decided := some b, pel.waiting := some b, pel.acked := [] }.pelSend 7 [b.frame]
      else s
    else s.retargetTo b s.firstOpen

/-- The members that a new leader learns of from their views: index, chip number, chips (R251). -/
def State.viewMembers (s : State) (view : List (Nat × Nat × Nat)) : List PelMember :=
  s.selfMember :: (view.filter fun v => v.1 != s.selfIndex).map fun v => { index := v.1, number := v.2.1, chips := v.2.2 }

/-- Member i claims leadership, after three missed beats or because a leader that parks has handed it over; `held` says that some
member holds COMMIT for the open bundle, `view` what the new leader learns of the members (R250, R251). Where two claims meet the lower
index stands: a leader that may lead, or a member that hears its leader, follows no claim of a higher index. -/
def State.leaderClaims (s : State) (i : Nat) (held handed : Bool) (view : List (Nat × Nat × Nat)) : State :=
  if s.pelState ≠ 2 then s
  else if i = s.selfIndex then
    if s.mayLead && (handed || decide (3 ≤ s.pel.missedBeats)) then
      let s := (s.wr F.PEL_STATUS.leader i).setPel 2 2
      let s := { s with pel.missedBeats := 0, pel.members := s.viewMembers view }
      (s.pelSend 6 [i]).settleBundle held
    else s
  else if if s.pelLeads then s.mayLead && decide (s.selfIndex < i)
      else !handed && decide (s.pel.missedBeats < 3) && decide (s.rd F.PEL_STATUS.leader < i) then s
  else
    let s := (s.wr F.PEL_STATUS.leader i).setPel 2 1
    { s with pel.missedBeats := 0 }

/-! ## Bundles (R253–R258) -/

/-- BUNDLE_CLOSE: at C(F) the leader closes the bundle, gathered from the members in `b`, with what it holds itself (R253). -/
def execBundleClose (t : Nat) (b : PelBundle) (s : State) : Result :=
  let s := s.at t
  .next (if s.pelLeads && s.now == s.closeAt b.frame then
      let due := s.pel.opened.filter fun o => decide (o.frame ≤ b.frame)
      let own : PelBundle := ⟨b.frame, [], false, s.pel.samples, [], []⟩
      let all := (due ++ [own]).foldr mergeBundle b
      let s := { s with pel.opened := s.pel.opened.filter fun o => !decide (o.frame ≤ b.frame),
                        pel.closed := some all, pel.readySet := [], pel.lastClosed := b.frame,
                        pel.prepared := some all, pel.ready := false, pel.samples := [] }
      s.pelSend 9 [b.frame]
    else s)

/-- A member stages its part of a bundle (R253). -/
def State.preparePart (s : State) (b : PelBundle) : State :=
  if s.pelState = 2 ∧ s.pelRole = 1 then { s with pel.prepared := some b, pel.ready := false, pel.samples := [] } else s

/-- This chip's part is staged: a Groupset apply in it has passed its check and is on time (R67, R254). -/
def State.partReady (s : State) (b : PelBundle) : Bool :=
  !b.apply || ((s.gsState == 3 || s.gsState == 4) && s.onTime b.frame)

/-- Member m answers READY for bundle F; an answer after D(F) is discarded and counts on the member (R253, R256). -/
def State.memberReady (s : State) (m f : Nat) : State :=
  let late := decide (s.decideAt f ≤ s.now)
  let mine : State := match s.pel.prepared with
    | some b =>
      if m = s.selfIndex ∧ b.frame = f ∧ s.partReady b = true then
        let s := if late then s.satInc F.PEL_COMMIT_STATS.late_ready else { s with pel.ready := true }
        s.pelSend 10 [m, f]
      else s
    | none => if m = s.selfIndex ∧ late = true ∧ 2 ≤ s.pelState then s.satInc F.PEL_COMMIT_STATS.late_ready else s
  if s.pelLeads ∧ late = false ∧ (s.pel.closed.map (·.frame)) = some f ∧ (m ≠ s.selfIndex ∨ mine.pel.ready = true) then
    { mine with pel.readySet := m :: mine.pel.readySet }
  else mine

/-- Members that caused the limit of retargets leave the commit set with the next bundle (R256). -/
def State.dropLate (s : State) : State :=
  let late := s.pel.members.filter fun m => m.inSet && decide (s.rd F.PEL_GUARD.max_retarget ≤ m.retargets) && m.retargets != 0
  late.foldl (fun s m => (s.modMember m.index fun x => { x with inSet := false, retargets := 0 }).pelChange m.index 2) s

/-- BUNDLE_DECIDE: at D(F) every member of the commit set READY commits the bundle, otherwise it is retargeted (R253, R256). -/
def execBundleDecide (t : Nat) (s : State) : Result :=
  let s := s.at t
  .next (match s.pel.closed with
    | none => s
    | some b =>
      if !s.pelLeads || s.now != s.decideAt b.frame then s
      else
        let ready := fun m : PelMember => !m.inSet || s.pel.readySet.contains m.index
        if s.pel.members.all ready then
          let s := { s with pel.closed := none, pel.waiting := some b, pel.acked := [], pel.decided := some b,
                            pel.history := (s.pel.history ++ [b]).drop (s.pel.history.length - 63),
                            pel.members := s.pel.members.map fun (m : PelMember) =>
                              { m with retargets := 0, behind := if m.inSet then 0 else m.behind + 1 } }
          s.pelSend 7 [b.frame]
        else
          let bump := fun m : PelMember => if ready m then { m with retargets := 0 } else { m with retargets := m.retargets + 1 }
          let s := ({ s with pel.members := s.pel.members.map bump } : State)
          (s.retargetTo b (b.frame + 1)).dropLate)

/-- Member m receives COMMIT for bundle F and acknowledges; the leader notes the acknowledgement (R253, R257). -/
def State.memberCommit (s : State) (m f : Nat) : State :=
  if m = s.selfIndex then
    match s.pel.prepared with
    | some b => if b.frame = f ∧ s.pel.ready = true then { s with pel.decided := some b }.pelSend 11 [m, f] else s
    | none => s
  else if s.pelLeads ∧ (s.pel.waiting.map (·.frame)) = some f then { s with pel.acked := m :: s.pel.acked }
  else s

/-- RETARGET reaches a member: the bundle is merged into the next one (R256). -/
def State.memberRetarget (s : State) (f : Nat) : State :=
  if 2 ≤ s.pelState ∧ s.pelRole = 1 then
    let s := if (s.pel.prepared.map (·.frame)) = some f then { s with pel.prepared := none, pel.ready := false } else s
    (s.satInc F.PEL_COMMIT_STATS.retargets).pelIrq F.PEL_IRQ.retarget
  else s

/-! ## Wall sprites (R259–R262) -/

/-- The descriptor words a committed source entry gives (R260). -/
def wallWords (src : List Nat) : List Nat :=
  let w := fun i => src.getD i 0 % 2 ^ 32
  let w0 := setBit (w 0) 27 (bit (w 0) 15)
  [w0 - bits w0 15 13 * 2 ^ 13, bits (w 1) 19 0, bits (w 2) 19 0, bits (w 3) 26 6 * 64 + b2n (bit (w 3) 5) * 2 ^ 27,
   bits (w 4) 7 0, setBit (w 5) 27 (bit (w 6) 0), 0, 0]

/-- Scene offset of source entry w (R260). -/
def State.wallSrc (s : State) (w : Nat) : Nat := (64 * s.rd F.PEL_WALL_SRC.src_base + 32 * w) % 2 ^ 28

/-- Wall sprites this chip owns. -/
def State.ownedSprites (s : State) : List Nat :=
  s.pel.owners.filterMap fun p => if p.2 = some s.selfIndex then some p.1 else none

/-- Sample every owned source entry for the next bundle, and send the samples to the leader; an uncorrectable entry gives no sample (R45,
R261). -/
def State.sampleWall (s : State) : State :=
  s.ownedSprites.foldl (fun s w =>
    let (m, s) := s.memRead 69 (s.wallSrc w) 32
    let words := (List.range 8).map fun i => leAt m.bytes (4 * i) 4
    if m.bad.isEmpty then
      let s := { s with pel.samples := (s.pel.samples.filter (·.1 != w)) ++ [(w, words)] }
      if s.pelLeads then s else s.pelSend 16 (w :: words)
    else s) s

/-- A new owner of wall sprite w: a gaining chip writes the newest words into its own entry; both sides raise own_change
(R262). -/
def State.changeOwner (s : State) (w i : Nat) : State :=
  let old := mget (fun _ => none) s.pel.owners w
  let self := s.selfIndex
  let s := { s with pel.owners := mset (fun _ => none) s.pel.owners w (some i) }
  let gained := i == self && old != some self
  let lost := i != self && old == some self
  let s := if gained then
      match mget (fun _ => []) s.pel.words w with
      | [] => s
      | src => s.memWrite 69 (s.wallSrc w) (src.flatMap (natLe 4))
    else s
  let s := if gained || lost then (s.satInc F.PEL_SPRITE_OWN.handoffs).pelIrq F.PEL_IRQ.own_change else s
  s.wr F.PEL_SPRITE_OWN.owned s.ownedSprites.length

/-- First frame of head h that starts at or after a root count. -/
def State.headFrameAt (s : State) (h c : Nat) : Nat :=
  let b := s.beam h
  if c ≤ b.t0 ∨ b.tf = 0 then 0 else ceilDiv (c - b.t0) b.tf

/-- The head has a place in the wall (R259). -/
def State.inWallHead (s : State) (h : Nat) : Bool := s.on (F.PEL_WALL_X.in_wall h)

/-- Head commits of a bundle: each head's first frame at or after P(F), with the wall words (R254, R261). -/
def State.armHeads (s : State) (f : Nat) (words : List (Nat × List Nat)) : State :=
  (List.range 24).foldl (fun s h =>
    if !s.headPresent h then s
    else
      let n := s.headFrameAt h (s.pelStart f)
      let s := { s with pel.armed := s.pel.armed ++ [(⟨h, n, f, if s.on (F.SPR_CTRL.wall_en h) then words else []⟩ : PelArmed)] }
      let s := s.wr64 (R.BEAM_COMMIT_FRAME h) n
      (s.wr (F.BEAM_STATUS.commit_state h) 2).modHead h fun x => { x with commit := some (s.now, some n) }) s

/-- A membership change as a member sees it. -/
def State.applyMember (s : State) (c : Nat × Nat) : State :=
  if c.2 = 1 then { s with pel.members := s.pel.members.filter (·.index != c.1) }
  else s.modMember c.1 fun m => { m with inSet := c.2 != 2, behind := 0 }

/-- Commands of a bundle, to be applied at frame f. A command of another entry chip's session has no priority here (log 45). -/
def State.bundleCmds (s : State) (b : PelBundle) (f : Nat) (late : VtkCmd → Bool) : List Framed :=
  b.cmds.map fun c =>
    { cmd := { c with frame := f }, accepted := s.now, late := late c,
      prio := if c.session < 64 then s.rd (F.VTK_SESSION.priority c.session) else 0 }

/-- A committed bundle acts on this chip at its arm deadline (R254, R261, R262). -/
def State.armBundle (s : State) (b : PelBundle) : State :=
  let s := { s with pel.words := b.samples.foldl (fun m x => mset (fun _ => []) m x.1 x.2) s.pel.words,
                    vtk.framed := s.vtk.framed ++ s.bundleCmds b b.frame fun c => c.frame != 0 && c.frame != b.frame }
  let s := b.members.foldl State.applyMember s
  let s := s.armHeads b.frame b.samples
  let s := if b.apply then s.applyNow b.frame else s
  b.owners.foldl (fun s o => s.changeOwner o.1 o.2) s

/-- Withdrawal to RETURNING (R257). -/
def State.withdraw (s : State) : State :=
  let s := { s with pel.prepared := none, pel.ready := false }
  let s := ((s.satInc F.PEL_COMMIT_STATS.withdrawals).pelIrq F.PEL_IRQ.withdrawn).raise 203
  s.setPel 3 (if s.pelRole = 2 then 1 else s.pelRole)

/-- BUNDLE_ARM: at A(F) a member holding COMMIT arms its part, one READY without a decision withdraws; then wall sprites are
sampled for the next bundle (R254, R257, R261). -/
def execBundleArm (t f : Nat) (s : State) : Result :=
  let s := s.at t
  .next (if s.pelState ≠ 2 ∨ s.now ≠ s.armAt f then s
    else
      let s : State := match s.pel.decided, s.pel.prepared with
        | some b, _ => if b.frame = f then { s with pel.decided := none, pel.prepared := none, pel.ready := false }.armBundle b else s
        | none, some b => if b.frame = f ∧ s.pel.ready = true then s.withdraw else s
        | none, none => s
      if s.pelState = 2 then s.sampleWall else s)

/-- ACK_DEADLINE: at P(F) members without an acknowledgement are marked RETURNING (R257). -/
def execAckDeadline (t : Nat) (s : State) : Result :=
  let s := s.at t
  .next (match s.pel.waiting with
    | none => s
    | some b =>
      if s.now ≠ s.pelStart b.frame then s else
      let silent := s.pel.members.filter fun m => m.inSet && m.index != s.selfIndex && !s.pel.acked.contains m.index
      let s := { s with pel.waiting := none }
      if s.pelLeads then
        silent.foldl (fun s m => (s.modMember m.index fun x => { x with inSet := false }).pelChange m.index 2) s
      else s)

/-- MEMBER_FAIL: three chip frames without a beat answer remove a member from the commit set (R258, R262). -/
def execMemberFail (t m : Nat) (s : State) : Result :=
  let s := s.at t
  .next (if s.pelLeads && s.pel.members.any (fun x => x.index == m && decide (3 ≤ x.missed)) then
      (s.modMember m fun x => { x with inSet := false }).pelChange m 2
    else s)

/-- Member m asks to return; the leader names frame R, and sends the bundles it missed if it still keeps them. This chip, when it is m,
takes the missed bundles, the wall words and the ownership table as one commit at R; too many missed bundles set resync_needed (R258). -/
def State.memberReturns (s : State) (m r : Nat) (missed : List PelBundle) (words : List (Nat × List Nat)) (owners : List (Nat × Nat))
    (resync : Bool) : State :=
  if m = s.selfIndex then
    if s.pelState ≠ 3 then s
    else
      let s := { s with pel.returnAsked := true, pel.returnFrame := some r,
                        pel.words := words.foldl (fun q (x : Nat × List Nat) => mset (fun _ => []) q x.1 x.2) s.pel.words }
      let s := if resync then s.set1 F.PEL_STATUS.resync_needed else s
      let s := missed.foldl (fun s b => { s with vtk.framed := s.vtk.framed ++ s.bundleCmds b r fun c => c.frame != 0 }) s
      let s := if missed.any (·.apply) then s.applyNow r else s
      let s := s.armHeads r words
      owners.foldl (fun s o => s.changeOwner o.1 o.2) s
  else if s.pelLeads then
    let behind := s.pel.members.foldl (fun n x => if x.index = m then x.behind else n) 0
    let frames := if behind ≤ 64 then (s.pel.history.drop (s.pel.history.length - behind)).map (·.frame) else []
    ((s.modMember m fun x => { x with missed := 0 }).pelChange m 3).pelSend 12 ([m, r, b2n (decide (64 < behind))] ++ frames)
  else s

/-! ## Messages of the Peloton (R245) -/

/-- A message acts on its receiver. -/
def State.pelAct (s : State) : PelMsg → State
  | .joinAnswer reason frame number leader path => s.joinAnswered reason frame number leader path
  | .claim i held handed view => s.leaderClaims i held handed view
  | .prepare b => s.preparePart b
  | .ready m f => s.memberReady m f
  | .commit m f => s.memberCommit m f
  | .retarget f => s.memberRetarget f
  | .returned m r missed words owners resync => s.memberReturns m r missed words owners resync

/-- What the chip does itself (its own READY, its own claim) needs no message. -/
def State.pelOwn (s : State) : PelMsg → Bool
  | .ready m _ => m == s.selfIndex
  | .claim i _ _ _ => i == s.selfIndex
  | _ => false

/-- A message is received: through a Primary's journal; a Shadow in lockstep receives none; else at once (R231, R245). -/
def State.pelReceive (s : State) (m : PelMsg) : State :=
  if s.pelOwn m then s.pelAct m
  else if s.isPrimary then s.journalIn (.peloton m)
  else if s.locked then s
  else s.pelAct m

/-- JOIN_ANSWER (R246, R247). -/
def execJoinAnswer (t reason frame number leader : Nat) (path : List Nat) (s : State) : Result :=
  .next ((s.at t).pelReceive (.joinAnswer reason frame number leader path))

/-- LEADER_CLAIM (R250, R251). -/
def execLeaderClaim (t i : Nat) (held handed : Bool) (view : List (Nat × Nat × Nat)) (s : State) : Result :=
  .next ((s.at t).pelReceive (.claim i held handed view))

/-- PREPARE_RECEIVE (R253). -/
def execPrepareReceive (t : Nat) (b : PelBundle) (s : State) : Result := .next ((s.at t).pelReceive (.prepare b))

/-- READY (R253, R256). -/
def execReady (t m f : Nat) (s : State) : Result := .next ((s.at t).pelReceive (.ready m f))

/-- COMMIT_RECEIVE (R253, R257). -/
def execCommitReceive (t m f : Nat) (s : State) : Result := .next ((s.at t).pelReceive (.commit m f))

/-- RETARGET_RECEIVE (R256). -/
def execRetargetReceive (t f : Nat) (s : State) : Result := .next ((s.at t).pelReceive (.retarget f))

/-- RETURN_REQUEST (R258). -/
def execReturnRequest (t m r : Nat) (missed : List PelBundle) (words : List (Nat × List Nat)) (owners : List (Nat × Nat))
    (resync : Bool) (s : State) : Result :=
  .next ((s.at t).pelReceive (.returned m r missed words owners resync))

/-! ## At the heads (R255, R261) -/

/-- The newest group commit armed on the head. -/
def State.groupArmed (s : State) (h : Nat) : Option PelArmed := (s.pel.armed.filter (·.head == h)).getLast?

/-- A local commit request meets an armed group commit: it counts and the group commit is armed again (R255). -/
def State.rearmGroup (s : State) (h : Nat) : State :=
  match s.groupArmed h with
  | none => s
  | some a =>
    let s := (s.satInc F.PEL_COMMIT_STATS.local_replaced).wr64 (R.BEAM_COMMIT_FRAME h) a.frame
    (s.wr (F.BEAM_STATUS.commit_state h) 2).modHead h fun x => { x with commit := some (s.now, some a.frame) }

/-- The committed words of a bundle go through the wall port into the head's wall range (R146, R261). -/
def State.wallWrite (s : State) (a : PelArmed) : State :=
  let first := s.rd (F.SPR_WALL.wall_first a.head)
  let inside := a.words.filter fun w => decide (first + w.1 ≤ s.rd (F.SPR_WALL.wall_last a.head))
  inside.foldl (fun s w =>
    (wallWords w.2).zipIdx.foldl (fun s v =>
      s.putArray a.head (0x1_8000 + (first + w.1) * 32 + v.2 * 4) (BitVec.ofNat 32 v.1)) s) s

/-- At the latch edge before frame n the group commits due there act: their words are written and their bundles applied (R261). -/
def State.wallAtLatch (s : State) (h n : Nat) : State :=
  let due := fun a : PelArmed => a.head == h && decide (a.frame ≤ n)
  (s.pel.armed.filter due).foldl (fun s a => ((s.wallWrite a).wr64 R.PEL_APPLIED a.bundle).pelIrq F.PEL_IRQ.applied)
    { s with pel.armed := s.pel.armed.filter fun a => !due a }

end Sys2Proof.Machine
end

