-- ==== Sys2Proof/Machine/Beam.lean ====
section
/-! DEFINITION. The beam: commits, the latch point, the frame start and line events (08: R166–R171, R179, R180), with what
they do to head states (09: R190–R194), swaps (03: R69–R73), takeovers (11: R238, R239) and records (10: R218, R219). -/

namespace Sys2Proof.Machine

/-- Set a status bit of a head's beam interrupt. -/
def State.beamIrq (s : State) (f : Nat → Fld) (h : Nat) : State := s.set1 (f h)

/-! ## Commits (R168–R171) -/

/-- A commit request is held: it replaces the one held (R171). -/
def State.holdCommit (s : State) (h : Nat) (f : Option Nat) : State :=
  (s.wr (F.BEAM_STATUS.commit_state h) (if f.isSome then 2 else 1)).modHead h fun x => { x with commit := some (s.now, f) }

/-- A write of 1 to commit; a group commit it replaces is armed again (R169, R255). -/
def State.beamCommit (s : State) (h : Nat) : State := (s.holdCommit h none).rearmGroup h

/-- A write of 1 to cancel (R171). -/
def State.beamCancel (s : State) (h : Nat) : State :=
  (s.wr (F.BEAM_STATUS.commit_state h) 0).modHead h fun x => { x with commit := none }

/-- The request lands strictly before the latch edge of frame F − 1 (R170). -/
def State.commitOnTime (s : State) (h f : Nat) : Bool :=
  let b := s.beam h
  decide (s.now + b.tf < b.time f b.vactive 0)

/-- The _HI write of BEAM_COMMIT_FRAME with the whole number F (R170). -/
def State.commitFrame (s : State) (h f : Nat) : State :=
  let s := s.wr64 (R.BEAM_COMMIT_FRAME h) f
  let s :=
    if s.commitOnTime h f then s.holdCommit h (some f)
    else ((s.satInc (F.BEAM_STATUS.late_commits h)).beamIrq F.BEAM_IRQ.late h).holdCommit h none
  s.rearmGroup h

/-- BEAM_COMMIT (R169). -/
def execBeamCommit (t h : Nat) (s : State) : Result := .next ((s.at t).beamCommit h)

/-- BEAM_COMMIT_CANCEL (R171). -/
def execBeamCommitCancel (t h : Nat) (s : State) : Result := .next ((s.at t).beamCancel h)

/-- COMMIT_FRAME_WRITE (R170). -/
def execCommitFrameWrite (t h f : Nat) (s : State) : Result := .next ((s.at t).commitFrame h f)

/-- The commit held is due at the edge before frame n, now (R169, R170). -/
def State.commitDue (s : State) (h n : Nat) : Bool :=
  match (s.head h).commit with
  | none => false
  | some (landed, none) => decide (landed < s.now)
  | some (_, some f) => decide (f ≤ n)

/-- Copy every programmed copy of the head's layers, sprite plane, traces, compositor and Cadence block, with the values held before
any write that lands at this edge; a Cadence write of this edge comes after the copy (R168, R177). -/
def State.copyLive (s : State) (h : Nat) : State :=
  let mine := fun p : Nat × Word => decide (headBase h + 0x1000 ≤ p.1 ∧ p.1 < headBase h + 0x6000)
  (((s.was.regs.filter mine).map (·.1)) ++ ((s.live.filter mine).map (·.1))).foldl (fun s a =>
    s.setLive a (maskOver (s.before.reg a) (mget (fun _ => (0, 0)) s.was.cad a))) s

/-- Chip frame in which frame n of head h starts. -/
def State.chipFrameOf (s : State) (h n : Nat) : Nat := ((s.beam h).time n 0 0 - s.gs.chipT0) / max 1 s.gs.chipTf

/-- The final replies of the framed commands whose commit head h applies before its frame n (R300, R171). -/
def State.commitReplies (s : State) (h n : Nat) : State :=
  let due := fun f : Framed => f.stages == some [] && match f.waitsCommit with
    | some (g, m) => g == h && decide (m ≤ n)
    | none => false
  let s' := { s with vtk.framed := s.vtk.framed.filter fun f => !due f }
  (s.vtk.framed.filter due).foldl (fun s f =>
    let later := f.late || f.waitsCommit != some (h, n)
    s.vtkFinish f.cmd (if later then stLate else stOk) f.dropped (if later then s.chipFrameOf h n else f.cmd.frame)) s'

/-- Apply the commit due at the edge before frame n (R168, R171, R194). -/
def State.commitAtLatch (s : State) (h n : Nat) : State :=
  if s.commitDue h n then
    let s := ((s.copyLive h).beamCancel h).wr64 (R.BEAM_LAST_COMMIT h) n
    ((s.beamIrq F.BEAM_IRQ.applied h).wake h).commitReplies h n
  else s

/-! ## Arming at the latch edge (R190–R194, R487) -/

/-- The state in force of a head, for one in its swap the state it returns in. -/
def State.stateInForce (s : State) (h : Nat) : Nat := if (s.headSwap h).inSwap then (s.headSwap h).back else s.headState h

/-- A Freewheel request is refused (R487). -/
def State.refuseFw (s : State) (h : Nat) : State :=
  let s := s.set1 (F.TX_STATUS.fw_refused h)
  (s.wr (F.TX_CTRL.req_state h) (s.stateInForce h)).raise (112 + h)

/-- Freewheel is entered at the next frame start. -/
def State.armFw (s : State) (h : Nat) (auto : Bool) : State :=
  s.modHead h fun x => { x with armed := some 2, psr := some true, autoFw := auto, thenFw := false }

/-- Another state is entered at the next frame start; a head in Freewheel signals its exit (R193). -/
def State.armState (s : State) (h v : Nat) : State :=
  if (s.headSwap h).inSwap then
    (s.setHeadSwap h { s.headSwap h with back := v }).modHead h fun x => { x with thenFw := false }
  else
    let leaves := s.headState h == 2 && v != 2
    s.modHead h fun x => { x with armed := some v, thenFw := false, psr := if leaves then some false else x.psr }

/-- Freewheel requested of a head in its swap: it returns in it, or from Off by way of a whole frame in Run (R487). -/
def State.armFwInSwap (s : State) (h : Nat) : State :=
  let w := s.headSwap h
  if w.back = 0 then (s.setHeadSwap h { w with back := 1 }).modHead h fun x => { x with thenFw := true }
  else
    let s := s.setHeadSwap h { w with back := 2 }
    if s.headState h = 2 then s else s.modHead h fun x => { x with psr := some true }

/-- Arm a requested state that the start allows (R26, R190, R487). -/
def State.armRequest (s : State) (h v : Nat) : State :=
  if !s.stateAllowed h v then s
  else if v ≠ 2 then s.armState h v
  else if !s.fwCapable h then s.refuseFw h
  else if (s.headSwap h).inSwap then s.armFwInSwap h
  else if s.headState h = 0 then (s.armState h 1).modHead h fun x => { x with thenFw := true }
  else s.armFw h false

/-- The request that landed strictly before the edge is armed (R190). -/
def State.requestAtLatch (s : State) (h : Nat) : State :=
  match (s.head h).request with
  | none => s
  | some (v, landed) =>
    if landed < s.now then (s.modHead h fun x => { x with request := none }).armRequest h v else s

/-- Freewheel after the first whole frame in Run (R487). -/
def State.thenFwAtLatch (s : State) (h : Nat) : State :=
  let x := s.head h
  if x.thenFw && x.wholeFrame && s.headState h == 1 && x.armed.isNone && !(s.headSwap h).inSwap then
    if s.fwCapable h then s.armFw h false else (s.refuseFw h).modHead h fun x => { x with thenFw := false }
  else s

/-- A trace layer or a Cadence list is enabled, or the output depends on the frame number (R194). -/
def State.changing (s : State) (h : Nat) : Bool :=
  s.lv (F.TT_CTRL.enable h 0) == 1 || s.lv (F.TT_CTRL.enable h 1) == 1 || s.cadEnabled h 0 || s.cadEnabled h 1
    || (!s.bpc10 h && s.lv (F.CMP_CTRL.dither_en h) == 1)

/-- Automatic Freewheel in Dim; `awake` says that a wake event landed since the last edge (R194, R26). -/
def State.autoFwAtLatch (s : State) (h : Nat) (awake applied : Bool) : State :=
  let x := s.head h
  if x.armed.isSome || (s.headSwap h).inSwap then s
  else if s.headState h = 2 ∧ x.autoFw = true then
    if awake || s.power == 0 then s.armState h 1 else s
  else if s.power == 1 && s.on (F.TX_CTRL.auto_fw h) && s.fwCapable h && s.headState h == 1 && x.scan && !s.changing h
      && !awake && !applied then
    s.armFw h true
  else s

/-! ## Swaps of a head (R69, R70, R72, R73) -/

/-- The head has its swap to make at the start of frame n: at its first frame boundary at or after the start of chip frame F. -/
def State.swapComes (s : State) (h n : Nat) : Bool :=
  let start := (s.beam h).time n 0 0
  !(s.headSwap h).inSwap &&
    (if s.gsState = 5 then s.gs.toSwap.contains ⟨3, h⟩ || (s.slotsChange h && s.gs.toSwap.contains ⟨2, 0⟩)
     else
       let f := s.rd64 R.GS_APPLY_FRAME
       s.gsState == 4 && s.swapAffects h && s.onTime f && decide (s.chipStart f ≤ start))

/-- The section that head h is to take in the apply names it absent (R59). -/
def State.nextAbsent (s : State) (h : Nat) : Bool := ((secOf s.nextSections 3 h).map (·.absent)).getD false

/-- The swap frame shows none of the head's pixels: a head in Run, or a Remote one the Hub swap waits for, that does not enter Off by
an absent section (R69, R72, R73). -/
def State.swapHides (s : State) (h : Nat) : Bool :=
  let st := (s.head h).armed.getD (s.headState h)
  !s.nextAbsent h && (st == 1 || (st == 3 && s.hubNeeds h))

/-- A Primary of a LOCKED Tandem hands a head over for a blank swap frame: both chips hold the decision at this edge (R70). -/
def State.handSwap (s : State) (h : Nat) : State :=
  if s.locked && (s.netOwns h == s.isPrimary) then
    (s.holdTakeover h 6 (s.now - 1)).setHeadSwap h { s.headSwap h with handed := true }
  else s

/-- Arm the swap frame: Freewheel on a capable panel, else a blank frame (R69, R70); the exit of a Freewheel swap frame is signalled
at the latch edge before its end (R193). -/
def State.swapAtLatch (s : State) (h n : Nat) : State :=
  let w := s.headSwap h
  if s.swapComes h n then
    let hides := s.swapHides h
    let blank := hides && !s.fwCapable h
    let s := s.setHeadSwap h { w with armed := true, blank := blank, hides := hides }
    if blank then s.handSwap h
    else if hides then s.modHead h fun x => { x with psr := some true }
    else s
  else if w.inSwap && w.loaded && !w.blank && s.headState h == 2 && w.back != 2 && !w.hubHold && s.applyWhole then
    s.modHead h fun x => { x with psr := some false }
  else s

/-- A hold packet of the mirror: the panel holds the mirror frame, and its end is signalled too (R202). -/
def State.holdAtLatch (s : State) (h n : Nat) : State :=
  let x := s.head h
  if s.headState h = 3 ∧ s.fwCapable h = true then
    if s.held h n && !x.freewheel then s.modHead h fun x => { x with psr := some true }
    else if !s.held h n && x.freewheel then s.modHead h fun x => { x with psr := some false }
    else s
  else s

/-- The first frame after the edge may be scanned: training completed strictly before it (R191). -/
def State.scanAtLatch (s : State) (h : Nat) : State :=
  s.modHead h fun x => { x with scanNext := s.rd (F.TX_STATUS.link_state h) == 2 && decide (x.trainedAt < s.now) }

/-- The latch edge before frame n of head h. -/
def State.latch (s : State) (h n : Nat) : State :=
  let awake := bit s.woke h
  let applied := s.commitDue h n
  let s := (s.commitAtLatch h n).wallAtLatch h n
  let s := ((s.requestAtLatch h).thenFwAtLatch h).autoFwAtLatch h awake applied
  let s := ((s.scanAtLatch h).swapAtLatch h n).holdAtLatch h n
  let s := (s.blankingOut h).takeoversAtLatch h (n - 1)
  let s := s.beamIrq F.BEAM_IRQ.latch h
  { s with woke := setBit s.woke h false, was.woke := setBit s.was.woke h (bit s.was.woke h || applied) }

/-- The latch edge before frame n of head h is now: L(Vactive):P0 of frame n − 1, at n = 0 the edge before T0 (R168, R170). -/
def State.latchAt (s : State) (h n : Nat) : Bool :=
  s.schedRuns && decide (s.now + (s.beam h).tf = (s.beam h).time n (s.beam h).vactive 0)

/-- LATCH_POINT (R168, R170). -/
def execLatchPoint (t h n : Nat) (s : State) : Result :=
  let s := s.at t
  .next (if s.headPresent h ∧ s.latchAt h n then s.latch h n else s)

/-! ## The frame start (R166, R190, R216, R218, R238) -/

/-- The frame that ends: its record, photons its scan passed, the mirror packets it brought (R106, R202, R219). -/
def State.endFrame (s : State) (h : Nat) : State :=
  let x := s.head h
  if !x.started then s
  else
    let s := s.assemble h x.frame
    let shows := s.headState h == 1 || s.headState h == 3
    let s := s.photonFrameEnd h ((s.beam h).time x.frame 0 0) (x.scan && !x.freewheel && shows)
    s.modHead h fun x => { x with
      absent := if s.headState h = 3 ∧ x.packet = false then x.absent + 1 else 0, packet := false,
      teFrames := if s.on (F.TX_TE.te_en h) ∧ s.headState h ≠ 0 then x.teFrames + 1 else 0 }

/-- The link of a head that enters or leaves Off, or stays there (R186, R189, R195, R204). -/
def State.offLink (s : State) (h old : Nat) : State :=
  if s.headState h = 0 then s.keepLink h
  else if old = 0 then
    let s := (s.modHead h fun x => { x with last := (0, 0, 0) }).refreshPhy h
    if s.on (F.TX_STATUS.hpd h) && s.rd (F.TX_STATUS.link_state h) == 0 then s.startTraining h else s
  else s

/-- Put a head into a state at a frame boundary. -/
def State.enterState (s : State) (h new : Nat) : State :=
  let old := s.headState h
  let s := (s.wr (F.TX_STATUS.state h) new).offLink h old
  let s := s.modHead h fun x => { x with armed := none, autoFw := x.autoFw && new == 2 }
  if (old == 2) != (new == 2) then s.txIrq F.TX_IRQ.fw_change h else s

/-- A head enters its swap, to return in the state `base` unless its section or a request says otherwise; its spoke core parks when
its section is swapped too (R69, R71, R72). -/
def State.enterSwap (s : State) (h base : Nat) : State :=
  let w := s.headSwap h
  let s := s.setHeadSwap h { w with armed := false, inSwap := true, loaded := !s.gs.toSwap.contains ⟨3, h⟩,
                                    hubHold := s.hubNeeds h && s.gs.toSwap.contains ⟨2, 0⟩, doneAt := s.now, back := base }
  (s.wake h).parkSpoke h

/-- The head leaves its swap; a Primary takes back a head it handed over for it (R70). -/
def State.leaveSwap (s : State) (h : Nat) : State :=
  let w := s.headSwap h
  let s := s.setHeadSwap h {}
  if w.handed && s.locked && (s.netOwns h == s.isShadow) then s.holdTakeover h 6 s.now else s

/-- State changes at the start of frame n (R69–R73, R190). -/
def State.changeStates (s : State) (h n : Nat) : State :=
  let w := s.headSwap h
  if s.swapLeaves h n then (s.leaveSwap h).enterState h w.back
  else if w.inSwap then s.modHead h fun x => { x with armed := none }
  else
    let base := (s.head h).armed.getD (s.headState h)
    if w.armed && s.gsState == 5 then
      let base := if s.nextAbsent h then 0 else base
      (s.enterSwap h base).enterState h (if w.hides && !w.blank then 2 else base)
    else (s.setHeadSwap h {}).enterState h base

/-- This chip owns the head at its frame start (R216, R238). -/
def State.ownsHead (s : State) (h : Nat) : Bool := s.rd F.TANDEM_STATUS.state == 0 || s.netOwns h

/-- What the new frame's record will carry (R195, R203, R216, R217); the test pattern is the one held strictly before the frame start,
and a head that draws none of its own layers applies no Cadence write (R178). -/
def State.openFrame (s : State) (h n : Nat) : State :=
  let st := s.headState h
  let x := s.head h
  let up := s.rd (F.TX_STATUS.link_state h) == 2
  let held := st == 3 && s.held h n && s.fwCapable h
  let owned := s.ownsHead h
  let scan := x.scanNext && st != 0
  let test := st == 1 || st == 3
  let path := s.headPath h
  let queue := if s.fetchMode h n 2 = 1 then x.cadQueue else []
  let s := s.wr F.TANDEM_OWN.owned (setBit (s.rd F.TANDEM_OWN.owned) h owned)
  s.setHead h { x with
    frame := n, started := true, path := path, cadQueue := queue, underrun := 0, mismatch := 0, digests := [], seals := [],
    audio := (Config.audioForm s.gs.digest h).toNat, scan := scan, wholeFrame := scan && st == 1, freewheel := (st == 2 || held) && up, remote := st == 3,
    blank := (s.headSwap h).inSwap && (s.headSwap h).blank, owned := owned, takeover := !x.chainStart && x.owned != owned,
    time := s.rd F.ODO_STATUS.time_state, replayed := bit (s.rd F.SB_REPLAY.heads) h,
    testPat := if test then s.before.rd (F.TX_TEST.pattern h) else 0, testCol := (s.before.reg (R.TX_TEST_COLOUR h)).toNat }

/-- A Remote head without a source in a chip that is in no Peloton reports its source absent (R26). -/
def State.reportSource (s : State) (h : Nat) : State :=
  if s.headState h = 3 ∧ s.soloSource h = true ∧ s.on (F.TX_STATUS.source_absent h) = false then
    (s.set1 (F.TX_STATUS.source_absent h)).txIrq F.TX_IRQ.source_change h
  else s

/-- The chip reads the TAKE net of head h (R238). -/
def State.readNet (s : State) (h : Nat) (high : Bool) : State :=
  if s.rd F.TANDEM_STATUS.state = 0 then s else { s with tandem.net := setBit s.tandem.net h high }

/-- Frame n of head h starts, the TAKE net at level `take`. -/
def State.frameStart (s : State) (h n : Nat) (take : Bool) : State :=
  let s := ((((s.readNet h take).endFrame h).changeStates h n).reportSource h).openFrame h n
  { s with tandem.twinMismatch := setBit s.tandem.twinMismatch h false }

/-- FRAME_START: at T0 + n × Tf (R166), with the level of the head's TAKE net (R238). -/
def execFrameStart (t h n : Nat) (take : Bool) (s : State) : Result :=
  let s := s.at t
  .next (if s.headPresent h ∧ s.beamAt h n 0 0 then s.frameStart h n take else s)

/-! ## Line events (R71, R179, R180, R244, R405) -/

/-- Position (line, pixel) at which event k of head h fires, when it is on; mode 2 fires on every line. -/
def State.eventAt (s : State) (h k y x : Nat) : Bool :=
  let m := s.rd (F.BEAM_EVENT.mode h k)
  s.rd (F.BEAM_EVENT.pixel h k) == x && (m == 2 || (m == 1 && s.rd (F.BEAM_EVENT.line h k) == y))

/-- An event of head h fires (R179, R180). -/
def State.fireEvent (s : State) (h k : Nat) : State :=
  let i := 64 + 4 * h + k
  if !s.corePresent h then s.mergeEdge i
  else if s.coreParked h then s.satInc F.GS_CLASH.park_lost
  else if s.tandem.hold then s.satInc F.TANDEM_JOURNAL.hold_lost
  else if s.sb.keyHold then s.satInc F.SB_KEY.lost
  else if s.on (F.INTC_SRC.pending i) then s.mergeEdge i
  else { s with intc.inFlight := s.intc.inFlight ++ [(i, 6 * (ceilDiv s.now 6 + 24))] }

/-- LINE_EVENT_FIRE: event k of head h, as its register stood strictly before the edge at which its position leaves the pins (R179,
R180). -/
def execLineEventFire (t h k : Nat) (s : State) : Result :=
  let s := s.at t
  .next (match s.posOf h s.now with
    | none => s
    | some (n, y, x) =>
      if s.headPresent h ∧ k < 2 ∧ s.beamAt h n y x ∧ s.before.eventAt h k y x = true then s.fireEvent h k else s)

end Sys2Proof.Machine
end

