-- ==== Sys2Proof/Machine/Bell.lean ====
section
/-! DEFINITION. Bell: the audio tick, voices and their sources, cues, matrix, limiters, sinks and TDM ports (16: R320–R337;
09: R197). -/

namespace Sys2Proof.Machine

/-- Hub requestor of Bell (R336). -/
def bellReq : Nat := 68

/-- Clamp to 24 bits (R322). -/
def sat24 (i : Int) : Int := clamp (-(2 ^ 23)) (2 ^ 23 - 1) i

/-! ## The sine table (R321) -/

/-- ⌊π × 2^80⌋. -/
def piFixed : Int := 3797952473636338580787993

/-- The sine of the angle x × 2^−80 by its series; `n` is the next term's number, `left` the terms left. -/
def sinSeries (x2 term : Int) (n : Nat) : Nat → Int
  | 0 => 0
  | left + 1 =>
    let next := asr (-(term * x2)) 80 / ((2 * n) * (2 * n + 1) : Nat)
    next + sinSeries x2 next (n + 1) left

/-- round(32,767 × sin(2πj / 4,096)) for j from 0 to 1,024. -/
def sineQuarter (j : Nat) : Int :=
  let x : Int := (j : Int) * piFixed / 2048
  asr (32767 * (x + sinSeries (asr (x * x) 80) x 1 15) * 2 + 2 ^ 80) 81

/-- round(32,767 × sin(2πj / 4,096)). -/
def sine (j : Nat) : Int :=
  let j := j % 4096
  if j ≤ 1024 then sineQuarter j
  else if j ≤ 2048 then sineQuarter (2048 - j)
  else if j ≤ 3072 then -(sineQuarter (j - 2048))
  else -(sineQuarter (4096 - j))

/-! ## IMA-ADPCM (R321; the standard's tables are PRESUMED, log 31) -/

/-- Step sizes of the IMA standard. -/
def imaSteps : List Nat :=
  [7, 8, 9, 10, 11, 12, 13, 14, 16, 17, 19, 21, 23, 25, 28, 31, 34, 37, 41, 45, 50, 55, 60, 66, 73, 80, 88, 97, 107, 118]
  ++ [130, 143, 157, 173, 190, 209, 230, 253, 279, 307, 337, 371, 408, 449, 494, 544, 598, 658, 724, 796, 876, 963, 1060]
  ++ [1166, 1282, 1411, 1552, 1707, 1878, 2066, 2272, 2499, 2749, 3024, 3327, 3660, 4026, 4428, 4871, 5358, 5894, 6484]
  ++ [7132, 7845, 8630, 9493, 10442, 11487, 12635, 13899, 15289, 16818, 18500, 20350, 22385, 24623, 27086, 29794, 32767]

/-- One code decoded. -/
def Adpcm.next (d : Adpcm) (code : Nat) : Adpcm :=
  let st := imaSteps.getD d.index 7
  let diff := st / 8 + (if bit code 2 then st else 0) + (if bit code 1 then st / 2 else 0) + (if bit code 0 then st / 4 else 0)
  let p := clamp (-32768) 32767 (if bit code 3 then d.pred - diff else d.pred + diff)
  let i : Int := (d.index : Int) + ([-1, -1, -1, -1, 2, 4, 6, 8] : List Int).getD (code % 8) 0
  { d with count := d.count + 1, before := d.pred, pred := p, index := (clamp 0 88 i).toNat }

/-! ## Cue entries (R323) -/

/-- Fields of an entry's words. -/
def cueSource (w : List Nat) : Nat := bits (w.getD 0 0) 30 28
def cuePriority (w : List Nat) : Nat := bits (w.getD 0 0) 27 24
def cueVoice (w : List Nat) : Nat := bits (w.getD 0 0) 6 0
def cueData (w : List Nat) : Nat := bits (w.getD 1 0) 27 1 * 2
def cueLength (w : List Nat) : Nat := w.getD 2 0
def cueLoop (w : List Nat) : Bool := bit (w.getD 3 0) 31
def cueLoopStart (w : List Nat) : Nat := bits (w.getD 3 0) 30 0
def cueStep (w : List Nat) : Nat := w.getD 4 0
def cueEnv (w : List Nat) (hi lo : Nat) : Nat := bits (w.getD 6 0) hi lo

/-- The entry is no bad entry (R323). -/
def cueGood (w : List Nat) : Bool :=
  let n := cueLength w
  bits (w.getD 0 0) 23 7 == 0 && bits (w.getD 1 0) 31 28 == 0 && bits (w.getD 1 0) 0 0 == 0
    && match cueSource w with
      | 0 => decide (6 ≤ n ∧ n ≤ 12)
      | 1 => n == 0
      | 2 => decide (1 ≤ n ∧ n ≤ 2 ^ 28 ∧ cueLoopStart w < n ∧ cueStep w ≤ 0x4_0000)
      | 3 => decide (1 ≤ n ∧ n ≤ 2 ^ 28 ∧ cueStep w ≤ 0x4_0000) && cueLoopStart w == 0
      | _ => false

/-- Read the entry of a cue; none when a word is uncorrectable (R336). -/
def State.cueEntry (s : State) (cue : Nat) : Option (List Nat) × State :=
  let (r, s) := s.memRead bellReq ((0x4000 * s.rd F.BELL_CUE_BASE.base + 32 * cue) % sceneSize) 32
  (if r.bad.isEmpty then some ((List.range 8).map fun i => leAt r.bytes (4 * i) 4) else none, s)

/-! ## Envelope (R322) -/

/-- Ticks of the voice's segment: attack, decay or release. -/
def Voice.segTicks (v : Voice) : Nat :=
  match v.phase with
  | 1 => 48 * cueEnv v.words 31 24
  | 2 => 48 * cueEnv v.words 23 16
  | 4 => 48 * cueEnv v.words 7 0
  | _ => 0

/-- The level for the next sample, exactly, as numerator and denominator (log 32). -/
def Voice.env (v : Voice) : Nat × Nat :=
  let n := v.segTicks
  let i := min v.count n
  let sus := cueEnv v.words 15 8 * 257
  match v.phase with
  | 1 => (65536 * i, n)
  | 2 => (65536 * n - (65536 - sus) * i, n)
  | 3 => (sus, 1)
  | 4 => (v.num * (n - i), v.den * n)
  | _ => (0, 1)

/-- Enter a segment, skipping those of zero length. -/
def Voice.enter (v : Voice) (p : Nat) : Voice :=
  if p ≤ 1 ∧ cueEnv v.words 31 24 ≠ 0 then { v with phase := 1, count := 0 }
  else if p ≤ 2 ∧ cueEnv v.words 23 16 ≠ 0 then { v with phase := 2, count := 0 }
  else { v with phase := 3, count := 0 }

/-- The voice is silent from now on. -/
def Voice.stop (v : Voice) : Voice := { ramp := v.ramp, rampLeft := v.rampLeft, last := v.last }

/-- The release begins from the current level. -/
def Voice.release (v : Voice) : Voice :=
  if cueEnv v.words 7 0 = 0 then v.stop
  else { v with num := v.env.1, den := v.env.2, phase := 4, count := 0 }

/-- Voice i. -/
def State.voice (s : State) (i : Nat) : Voice := mget (fun _ => {}) s.bell.voices i
def State.setVoice (s : State) (i : Nat) (v : Voice) : State :=
  { s with bell.voices := mset (fun _ => {}) s.bell.voices i v }

/-- ENVELOPE_SEGMENT_END: the segment's ticks have passed (R322). -/
def execEnvelopeSegmentEnd (t i : Nat) (s : State) : Result :=
  let s := s.at t
  let v := s.voice i
  .next (if v.count < v.segTicks then s
    else
      match v.phase with
      | 1 => s.setVoice i (v.enter 2)
      | 2 => s.setVoice i (v.enter 3)
      | 4 => s.setVoice i v.stop
      | _ => s)

/-- ENVELOPE_HOLD_EXPIRE: hold_ms × 48 ticks after the start (R322). -/
def execEnvelopeHoldExpire (t i : Nat) (s : State) : Result :=
  let s := s.at t
  let v := s.voice i
  let hold := bits (v.words.getD 7 0) 15 0
  .next (if 1 ≤ v.phase ∧ v.phase ≤ 3 ∧ hold ≠ 0 ∧ 48 * hold ≤ v.age then s.setVoice i v.release else s)

/-- CLIP_END: the position of a clip has reached its length (R321). -/
def execClipEnd (t i : Nat) (s : State) : Result :=
  let s := s.at t
  let v := s.voice i
  let n := cueLength v.words * 65536
  .next (if v.phase = 0 ∨ cueSource v.words < 2 ∨ v.pos < n then s
    else if cueLoop v.words then
      s.setVoice i { v with pos := (cueLoopStart v.words * 65536 + (v.pos - n)) % 2 ^ 32, dec := {} }
    else s.setVoice i v.stop)

/-! ## Samples (R321) -/

/-- A sample of Bell's data: 0 and counted when its word is uncorrectable (R336); the flag says so. -/
def State.bellSample (s : State) (off : Nat) : Int × Bool × State :=
  let (r, s) := s.memRead bellReq (off % sceneSize) 2
  (signed 16 (leNat r.bytes), !r.bad.isEmpty, s)

/-- Linear interpolation, rounding toward minus infinity. -/
def interp (a b : Int) (f : Nat) : Int := a + asr ((b - a) * f) 16

/-- Decode codes until `n` have been taken; `left` bounds them. -/
def State.decodeTo (s : State) (d : Adpcm) (base n : Nat) : Nat → Adpcm × State
  | 0 => (d, s)
  | left + 1 =>
    if n ≤ d.count then (d, s)
    else
      let (r, s) := s.memRead bellReq ((base + d.count / 2) % sceneSize) 1
      let code := bits (leNat r.bytes) (if d.count % 2 = 0 then 3 else 7) (if d.count % 2 = 0 then 0 else 4)
      let d := { d with lost := d.lost || !r.bad.isEmpty }
      s.decodeTo (d.next code) base n left

/-- The source's sample at this tick, whether it depends on an uncorrectable word, and the voice with its decoder. -/
def State.voiceSource (s : State) (v : Voice) : Int × Bool × Voice × State :=
  let base := cueData v.words
  let len := cueLength v.words
  match cueSource v.words with
  | 0 =>
    let i := v.pos / 2 ^ (32 - len)
    let f := v.pos / 2 ^ (16 - len) % 65536
    let (a, x, s) := s.bellSample (base + 2 * i)
    let (b, y, s) := s.bellSample (base + 2 * ((i + 1) % 2 ^ len))
    (interp a b f, x || y, v, s)
  | 1 =>
    let m := sine (v.modPos / 2 ^ 20)
    let ph := wrap 32 ((v.pos : Int) + m * (bits (v.words.getD 5 0) 15 0 : Nat) * 32)
    (sine (ph / 2 ^ 20), false, v, s)
  | 2 =>
    let i := min (v.pos / 65536) (len - 1)
    let (a, x, s) := s.bellSample (base + 2 * i)
    let (b, y, s) := s.bellSample (base + 2 * min (i + 1) (len - 1))
    (interp a b (v.pos % 65536), x || y, v, s)
  | _ =>
    let i := min (v.pos / 65536) (len - 1)
    let (d, s) := s.decodeTo v.dec base (min (i + 2) len) 6
    let a := if i + 1 < len then d.before else d.pred
    (interp a d.pred (v.pos % 65536), d.lost, { v with dec := d }, s)

/-- Advance phases or position, modulo 2^32. -/
def Voice.advance (v : Voice) : Voice :=
  let st := cueStep v.words
  let v := { v with pos := (v.pos + st) % 2 ^ 32, count := v.count + 1, age := v.age + 1 }
  if cueSource v.words = 1 then
    { v with modPos := (v.modPos + st * bits (v.words.getD 5 0) 31 16 / 256) % 2 ^ 32 }
  else v

/-- The ramp of a replaced cue at this tick (R326). -/
def Voice.rampNow (v : Voice) : Int := asr (v.ramp * (v.rampLeft : Int)) 5

/-- Voice i at this tick: its matrix input, and the state after it (R322, R326). -/
def State.voiceTick (s : State) (i : Nat) : Int × State :=
  let v := s.voice i
  let left := v.rampLeft - 1
  let v := { v with rampLeft := left }
  let r := v.rampNow
  if v.phase = 0 then (r, s.setVoice i (if left = 0 then {} else v))
  else if v.fresh then (r, s.setVoice i { v with fresh := false })
  else
    let (x, bad, v, s) := s.voiceSource v
    let s := if bad then (s.satInc F.BELL_ERRS.mem_zeroed).set1 F.BELL_IRQ.mem_error else s
    let x := if bad then 0 else x
    let (n, d) := v.env
    let out := sat24 (Int.fdiv (x * (n : Int) * (bits (v.words.getD 7 0) 31 16 : Nat) * (v.level : Int)) ((d * 2 ^ 29 : Nat) : Int))
    (out + r, s.setVoice i (({ v with last := out } : Voice).advance))

/-! ## Commands used at a tick (R324–R327) -/

/-- Voice i belongs to the command's sender. -/
def State.owns (s : State) (rim : Bool) (i : Nat) : Bool :=
  bit (s.rd (F.BELL_VOICE_OWN.own (i / 16))) (2 * (i % 16) + (if rim then 1 else 0))

/-- Decide a command's effect record: 0 SHOWN with a time in ns, 1 NOT_SHOWN, 2 OVERTAKEN (R327). -/
def State.cueRecord (s : State) (p : Option Photon) (status time : Nat) : State :=
  match p with
  | none => s
  | some p => if s.der.photons.contains p then (s.dropPhoton p).writePhoton p status 0 0 0 time else s

/-- Starts taken at this tick whose records are open: voice and record. -/
abbrev OpenStarts := List (Nat × Option Photon)

/-- A refused command. -/
def State.cueRefused (s : State) (c : CueCmd) : State := s.refuseCue.cueRecord c.record 1 0

/-- Start or restart the entry's voice (R326). -/
def State.cueStart (s : State) (c : CueCmd) (w : List Nat) : State :=
  let i := cueVoice w
  let v := s.voice i
  let replaced := v.phase != 0 && v.cue != c.cue
  let n : Voice := { cue := c.cue, level := c.arg, words := w, fresh := true,
                     ramp := if replaced then v.last else v.ramp, rampLeft := if replaced then 32 else v.rampLeft }
  s.setVoice i (n.enter 1)

/-- Take one command: refused, or it acts; a later command for a voice overtakes the starts of this tick on it. -/
def State.takeCue (s : State) (st : OpenStarts) (c : CueCmd) : OpenStarts × State :=
  let (e, s) := s.cueEntry c.cue
  match e with
  | none => (st, s.cueRefused c)
  | some w =>
    if !bit (w.getD 0 0) 31 || !cueGood w then (st, s.cueRefused c)
    else
      let i := cueVoice w
      let s := (st.filter (·.1 == i)).foldl (fun s p => s.cueRecord p.2 2 0) s
      let st := st.filter (·.1 != i)
      let v := s.voice i
      if !s.owns c.rim i then (st, s.cueRefused c)
      else if c.arg = 0 ∨ c.arg = 0xFF then
        if v.phase ≠ 0 ∧ v.cue = c.cue then
          let s := s.setVoice i (if c.arg = 0 then v.release else v.stop)
          (st, s.cueRecord c.record 0 (nsOf s.now))
        else (st, s.cueRecord c.record 1 0)
      else if v.phase ≠ 0 ∧ v.cue ≠ c.cue ∧ cuePriority w < cuePriority v.words then (st, s.cueRefused c)
      else (st ++ [(i, c.record)], s.cueStart c w)

/-- The commands used at this tick: those that landed before its edge, at most 64, in landing order (R325). -/
def State.takeCues (s : State) : State :=
  let now := s.now
  let ready := (s.bell.queue.takeWhile fun (c : CueCmd) => decide (c.landed < now)).take 64
  let s := { s with bell.queue := s.bell.queue.drop ready.length }
  let (st, s) := ready.foldl (fun (a : OpenStarts × State) c => a.2.takeCue a.1 c) ([], s)
  st.foldl (fun s p => s.cueRecord p.2 0 (nsOf (tickPeriodBell + s.now))) s

/-! ## Matrix, limiters, sinks (R328–R332) -/

/-- The sign of a sample has changed, or it is 0. -/
def crosses (now before : Int) : Bool := now == 0 || decide (now < 0) != decide (before < 0)

/-- Limiter step (R329): gain and output; `q` bounds each held sample. -/
def limitGain (c prev step : Nat) (line : List Int) : Nat :=
  let q := fun (x : Int) => if x = 0 then 65536 else min 65536 (65536 * c / x.natAbs)
  line.zipIdx.foldl (fun g p =>
    let qj := q p.1
    if qj < prev then min g (prev - (prev - qj) / (p.2 + 1)) else g) (min 65536 (prev + 2 ^ step))

/-- Bus b takes x: the limiter's output. -/
def State.limit (s : State) (b : Nat) (x : Int) : Int × State :=
  let l := mget (fun _ => {}) s.bell.limiters b
  let n := if s.on (F.BELL_BUS.ll b) then 1 else 33
  let line := l.line ++ [x]
  let line := List.replicate (n - line.length) 0 ++ line.drop (line.length - n)
  let g := limitGain ((s.rd (F.BELL_BUS.ceiling b) + 1) * 32768 - 1) l.gain (s.rd (F.BELL_BUS.release_step b)) line
  let y := asr (line.headD 0 * (g : Int)) 16
  let s := if g / 2 < s.rd (F.BELL_BUS.min_gain b) then s.wr (F.BELL_BUS.min_gain b) (g / 2) else s
  let s := if g < 65536 then s.set1 F.BELL_IRQ.limiting else s
  (y, { s with bell.limiters := mset (fun _ => {}) s.bell.limiters b { gain := g, line := line.drop 1 } })

/-- The 256 matrix inputs (R328). -/
def State.bellInputs (s : State) (voices tdm : List Int) : SMap Int :=
  let put := fun (m : SMap Int) (i : Nat) (v : Int) => mset (fun _ => 0) m i v
  let m := voices.zipIdx.foldl (fun (m : SMap Int) p => put m p.2 p.1) []
  let m := (List.range 64).foldl (fun (m : SMap Int) j =>
    let p := j / 8
    let live := s.on (F.BELL_TDM.enable p) && s.on (F.BELL_TDM.input p) && s.on (F.BELL_TDM_STATUS.locked p)
    put m (128 + j) (if live then sat24 (tdm.getD j 0) else 0)) m
  (List.range 64).foldl (fun (m : SMap Int) b => put m (192 + b) (mget (fun _ => 0) s.bell.outs b)) m

/-- The sum of a bus over its crosspoints, with its gain (R328). -/
def State.busSum (s : State) (inputs : SMap Int) (b : Nat) : Int :=
  let get := mget (fun _ => (0 : Int))
  let sum := (s.bell.xp.filter fun (p : Nat × Route) => p.1 / 256 == b).foldl (fun (a : Int) p =>
    let x := get inputs (p.1 % 256)
    a + x * (p.2.at s.now (crosses x (get s.bell.inputs (p.1 % 256))) : Nat)) 0
  asr (asr sum 14 * (((mget (fun _ => {}) s.bell.busGain b).at s.now false : Nat) : Int)) 14

/-- Advance every gain change. -/
def State.stepRoutes (s : State) (inputs : SMap Int) : State :=
  let get := mget (fun _ => (0 : Int))
  let now := s.now
  let old := s.bell.inputs
  let xp := s.bell.xp.map fun (p : Nat × Route) => (p.1, p.2.step now (crosses (get inputs (p.1 % 256)) (get old (p.1 % 256))))
  let gains := s.bell.busGain.map fun (p : Nat × Route) => (p.1, p.2.step now false)
  let kept := fun (p : Nat × Route) => decide (p.2 ≠ {})
  { s with bell.xp := xp.filter kept, bell.busGain := gains.filter kept }

/-- A bus as a sink takes it: 0xFF is mute (R331). -/
def busOut (outs : SMap Int) (b : Nat) : Int := if b = 0xFF then 0 else mget (fun _ => 0) outs b

/-- A source of a sink, from the limiter outputs of a tick (R332). -/
def MixSrc.value (outs : SMap Int) : MixSrc → Int
  | .bus b => busOut outs b
  | .mix a b i =>
    let w : Int := (min i 64 : Nat)
    asr (a.value outs * (64 - w)) 6 + asr (busOut outs b * w) 6

/-- What a sink sends at this tick, and its selection after it; `before` are the outputs of the tick before (R331, R332). -/
def SinkRoute.tick (r : SinkRoute) (now : Nat) (outs before : SMap Int) : Int × SinkRoute :=
  let new := (MixSrc.bus r.target).value outs
  if r.mode = 0 then (new, r)
  else if now ≤ r.landed then (r.old.value outs, r)
  else
    let cut := crosses (r.old.value outs) (r.old.value before) || decide (480 ≤ r.age)
    let r' := { r with age := r.age + 1, done := r.done || (r.mode == 2 && cut) }
    match r.mode with
    | 1 => ((MixSrc.mix r.old r.target r.age).value outs, r')
    | 2 => (if r'.done then new else r.old.value outs, r')
    | _ => (new, { old := .bus r.target, target := r.target })

/-- Every sink's value at this tick. -/
def State.sinkTick (s : State) (before : SMap Int) : SMap Int × State :=
  (List.range 256).foldl (fun (a : SMap Int × State) k =>
    let (x, r) := (mget (fun _ => {}) a.2.bell.sinks k).tick a.2.now a.2.bell.outs before
    (mset (fun _ => 0) a.1 k x, { a.2 with bell.sinks := mset (fun _ => {}) a.2.bell.sinks k r })) ([], s)

/-- A sample as a TDM slot carries it (R333). -/
def State.tdmSample (s : State) (p : Nat) (x : Int) : Int := if s.on (F.BELL_TDM.bits24 p) then x else asr x 8 * 256

/-- The TDM frame that begins at this tick, unless the chip is a Shadow (R330, R335, R337). -/
def State.sendTdm (s : State) : State :=
  (List.range 8).foldl (fun s p =>
    if !s.on (F.BELL_TDM.enable p) || s.on (F.BELL_TDM.input p) || s.isShadow then s
    else
      let live := s.on (F.BELL_TDM_STATUS.locked p)
      s.emit (.audio (8 * p) ((List.range 8).map fun q =>
        if live then s.tdmSample p (mget (fun _ => 0) s.bell.tdmOut (8 * p + q)) else 0))) s

/-- A sample as a head's audio stream carries it: a 16-bit one has bits 23 to 8 (R331). -/
def State.dpSample (s : State) (h : Nat) (x : Int) : Int := if audioBits (s.head h).audio = 24 then x else asr x 8

/-- The samples that enter a head's audio queue at this tick, of the channels its stream has (R197, R331). -/
def State.sendAudio (s : State) (sinks : SMap Int) : State :=
  (List.range 24).foldl (fun s h =>
    if s.audioRuns h then
      s.emit (.audio (64 + 8 * h) ((List.range (audioChannels (s.head h).audio)).map fun c =>
        s.dpSample h (mget (fun _ => 0) sinks (64 + 8 * h + c))))
    else s) s

/-- TDM input samples of this tick: a Primary enters its own into the journal, and it and a LOCKED Shadow take those of the journal
(R230, R231, R337). -/
def State.tdmInput (s : State) (ins : List Int) : List Int × State :=
  let body := ins.flatMap fun x => natLe 4 (wrap 32 x)
  if s.isPrimary then (s.bell.tdmIn, s.journalIn (.tdm (s.now / tickPeriodBell) ins))
  else if s.locked then (s.bell.tdmIn, s)
  else (ins, if ins.isEmpty then s else s.archiveInput 4 (nsOf s.now) body)

/-- The samples of the 128 voices at this tick (R321, R322). -/
def State.voiceTicks (s : State) : List Int × State :=
  (List.range 128).foldl (fun (a : List Int × State) i => (a.1 ++ [(a.2.voiceTick i).1], (a.2.voiceTick i).2)) ([], s)

/-- The buses after their limiters (R329). -/
def State.limitAll (s : State) (sums : List Int) : SMap Int × State :=
  sums.zipIdx.foldl (fun (a : SMap Int × State) p =>
    (mset (fun _ => 0) a.1 p.2 (a.2.limit p.2 p.1).1, (a.2.limit p.2 p.1).2)) ([], s)

/-- One audio tick. -/
def State.audioTick (s : State) (ins : List Int) : State :=
  let r := s.sendTdm.tdmInput ins
  let v := r.2.takeCues.voiceTicks
  let s := v.2
  let inputs := s.bellInputs v.1 r.1
  let sums := (List.range 128).map (s.busSum inputs)
  let before := s.bell.outs
  let outs := (s.stepRoutes inputs).limitAll sums
  let s := outs.2
  let sinks := { s with bell.outs := outs.1, bell.inputs := inputs }.sinkTick before
  let s := sinks.2
  { s with bell.tdmOut := sinks.1.filter fun (p : Nat × Int) => decide (p.1 < 64) }.sendAudio sinks.1

/-- AUDIO_TICK: at an edge of the 48 kHz tick, in Run and Dim; `ins` are the 64 TDM input samples (R320). -/
def execAudioTick (t : Nat) (ins : List Int) (s : State) : Result :=
  let s := s.at t
  .next (if s.now % tickPeriodBell ≠ 0 ∨ s.rd F.CPR_STATUS.power = 2 then s else s.audioTick ins)

/-! ## TDM clocks (R335) -/

/-- TDM_LOCK: a slave port locks to a steady clock of `rate` hundredths of a hertz. -/
def execTdmLock (t p rate : Nat) (s : State) : Result :=
  let s := s.at t
  .next (if s.on (F.BELL_TDM.enable p) && !s.on (F.BELL_TDM.master p) && decide (1_600_000 ≤ rate ∧ rate ≤ 9_600_000) then
      (s.set1 (F.BELL_TDM_STATUS.locked p)).wr (F.BELL_TDM_STATUS.rate p) rate
    else s)

/-- TDM_UNLOCK. -/
def execTdmUnlock (t p rate : Nat) (s : State) : Result :=
  let s := s.at t
  .next (if s.on (F.BELL_TDM_STATUS.locked p) && !s.on (F.BELL_TDM.master p) then
      (((s.wr (F.BELL_TDM_STATUS.locked p) 0).wr (F.BELL_TDM_STATUS.rate p) rate).set1 F.BELL_IRQ.unlock).raise 215
    else s)

/-- On wake every voice is idle (R337, R456). -/
def State.bellWake (s : State) : State := { s with bell.voices := [] }

end Sys2Proof.Machine
end

