-- ==== Sys2Proof/Machine/Blitter.lean ====
section
/-! DEFINITION. The Blitter: queues, descriptors, checks, copies and fills (15: R305–R319). -/

namespace Sys2Proof.Machine

/-- Hub requestor of the Blitter, and base of its block. -/
def bltReq : Nat := 67
def bltBase : Nat := 0x4033_0000

/-! ## Descriptor (R307, R308) -/

/-- A surface (R308): its three words, and their fields. -/
structure Surface where
  a : Nat
  b : Nat
  c : Nat
  deriving DecidableEq, Repr

def Surface.layout (f : Surface) : Nat := bits f.b 27 26
def Surface.format (f : Surface) : Nat := bits f.b 25 24
def Surface.pitch (f : Surface) : Nat := bits f.b 15 0
def Surface.height (f : Surface) : Nat := bits f.c 31 16
def Surface.width (f : Surface) : Nat := bits f.c 15 0

/-- Bits per pixel. -/
def Surface.bpp (f : Surface) : Nat := [2, 4, 8, 32].getD f.format 32

/-- Tile side of a tiled surface. -/
def Surface.side (f : Surface) : Nat := if f.layout = 1 then 8 else 16

/-- Bit address in scene memory of pixel (x, y); the first pixel of a byte lies lowest (R110, R308). -/
def Surface.bitOf (f : Surface) (x y : Nat) : Nat :=
  let base := bits f.a 27 6 * 64
  let p :=
    if f.layout = 0 then 8 * (base + y * 4 * f.pitch) + x * f.bpp
    else
      let k := f.side
      let tile := y / k * f.pitch + x / k
      8 * base + tile * (k * k * f.bpp) + y % k * (k * f.bpp) + x % k * f.bpp
  p % 2 ^ 31

/-- Every field holds a permitted value (R308, R309). -/
def Surface.ok (f : Surface) : Bool :=
  bits f.a 31 28 == 0 && bits f.a 5 0 == 0 && bits f.b 31 28 == 0 && bits f.b 23 16 == 0 && decide (f.layout < 3)
    && decide (1 ≤ f.pitch ∧ 1 ≤ f.height ∧ 1 ≤ f.width) && (f.layout == 0 || decide (f.width ≤ f.pitch * f.side))

/-- Word i of the descriptor, and fields of word 0. -/
def BltCmd.w (c : BltCmd) (i : Nat) : Nat := c.words.getD i 0
def BltCmd.op (c : BltCmd) : Nat := bits (c.w 0) 31 28
def BltCmd.rotate (c : BltCmd) : Bool := bit (c.w 0) 27
def BltCmd.vflip (c : BltCmd) : Bool := bit (c.w 0) 26
def BltCmd.hflip (c : BltCmd) : Bool := bit (c.w 0) 25
def BltCmd.keyEn (c : BltCmd) : Bool := bit (c.w 0) 24
def BltCmd.clipEn (c : BltCmd) : Bool := bit (c.w 0) 23
def BltCmd.irq (c : BltCmd) : Bool := bit (c.w 0) 22
def BltCmd.waitEn (c : BltCmd) : Bool := bit (c.w 0) 21
def BltCmd.waitHead (c : BltCmd) : Nat := bits (c.w 0) 20 16
def BltCmd.waitLine (c : BltCmd) : Nat := bits (c.w 0) 11 0
def BltCmd.src (c : BltCmd) : Surface := ⟨c.w 1, c.w 2, c.w 3⟩
def BltCmd.dst (c : BltCmd) : Surface := ⟨c.w 4, c.w 5, c.w 6⟩
def BltCmd.srcX (c : BltCmd) : Nat := bits (c.w 7) 15 0
def BltCmd.srcY (c : BltCmd) : Nat := bits (c.w 7) 31 16
def BltCmd.dstX (c : BltCmd) : Nat := bits (c.w 8) 15 0
def BltCmd.dstY (c : BltCmd) : Nat := bits (c.w 8) 31 16
def BltCmd.width (c : BltCmd) : Nat := bits (c.w 9) 11 0 + 1
def BltCmd.height (c : BltCmd) : Nat := bits (c.w 9) 27 16 + 1

/-- A transform is asked for. -/
def BltCmd.turned (c : BltCmd) : Bool := c.rotate || c.vflip || c.hflip

/-- Size of the destination rectangle (R310, R311). -/
def BltCmd.dw (c : BltCmd) : Nat := if c.rotate then c.height else c.width
def BltCmd.dh (c : BltCmd) : Nat := if c.rotate then c.width else c.height

/-- Source pixel of destination offset (tx, ty) (R310). -/
def BltCmd.source (c : BltCmd) (tx ty : Nat) : Nat × Nat :=
  let u1 := if c.hflip then c.dw - 1 - tx else tx
  let v1 := if c.vflip then c.dh - 1 - ty else ty
  if c.rotate then (c.srcX + v1, c.srcY + (c.height - 1 - u1)) else (c.srcX + u1, c.srcY + v1)

/-- The written set (R311) as columns [x0, x1) and rows [y0, y1). -/
structure BltRect where
  x0 : Nat
  x1 : Nat
  y0 : Nat
  y1 : Nat
  deriving DecidableEq, Repr

/-- No pixel. -/
def BltRect.empty (r : BltRect) : Bool := decide (r.x1 ≤ r.x0 ∨ r.y1 ≤ r.y0)

/-- Destination rectangle cut to the surface and the clip rectangle. -/
def BltCmd.written (c : BltCmd) : BltRect :=
  let r : BltRect := ⟨c.dstX, min (c.dstX + c.dw) c.dst.width, c.dstY, min (c.dstY + c.dh) c.dst.height⟩
  if c.clipEn then
    ⟨max r.x0 (bits (c.w 10) 15 0), min r.x1 (bits (c.w 11) 15 0 + 1), max r.y0 (bits (c.w 10) 31 16),
      min r.y1 (bits (c.w 11) 31 16 + 1)⟩
  else r

/-- Numbers from a, below b. -/
def span (a b : Nat) : List Nat := (List.range (b - a)).map (a + ·)

/-- Pixels of a rectangle, row by row. -/
def BltRect.pixels (r : BltRect) : List (Nat × Nat) := (span r.y0 r.y1).flatMap fun y => (span r.x0 r.x1).map fun x => (x, y)

/-- Source pixel of a written pixel. -/
def BltCmd.sourceOf (c : BltCmd) (p : Nat × Nat) : Nat × Nat := c.source (p.1 - c.dstX) (p.2 - c.dstY)

/-! ## Checks (R309, R313) -/

/-- Order 1 with a wait: the head is present and has the line. -/
def State.bltWaitOk (s : State) (c : BltCmd) : Bool :=
  !c.waitEn || (s.headPresent c.waitHead && decide (c.waitLine < s.rd (F.BEAM_V.vtotal c.waitHead)))

/-- Order 1: no reserved code or bit, and nothing its operation does not take. -/
def State.bltGood (s : State) (c : BltCmd) : Bool :=
  let value := c.w 12 < 2 ^ c.dst.bpp
  decide (c.op < 3) && bits (c.w 0) 15 12 == 0 && bits (c.w 9) 31 28 == 0 && bits (c.w 9) 15 12 == 0
    && c.w 13 == 0 && c.w 15 == 0 && s.bltWaitOk c
    && (match c.op with
      | 1 => c.src.ok && c.dst.ok && c.src.format == c.dst.format && (!c.keyEn || decide value)
      | 2 => c.dst.ok && !c.turned && !c.keyEn && decide value
      | _ => true)

/-- Order 2: the source rectangle of a COPY lies in its surface. -/
def BltCmd.inBounds (c : BltCmd) : Bool :=
  c.op != 1 || decide (c.srcX + c.width ≤ c.src.width ∧ c.srcY + c.height ≤ c.src.height)

/-- Bytes of a pixel of surface f. -/
def Surface.bytesOf (f : Surface) (p : Nat × Nat) : List Nat :=
  let a := f.bitOf p.1 p.2 / 8
  if f.bpp = 32 then [a, a + 1, a + 2, a + 3] else [a]

/-- Order 4: every byte written lies in a region that admits the Blitter. -/
def State.bltAdmitted (s : State) (c : BltCmd) : Bool :=
  c.written.pixels.all fun p => (c.dst.bytesOf p).all fun a => s.admits bltReq a

/-- Lowest and highest byte of a list of pixels of a surface. -/
def Surface.extent (f : Surface) (ps : List (Nat × Nat)) : Nat × Nat :=
  ps.foldl (fun (m : Nat × Nat) p => (min m.1 (f.bitOf p.1 p.2 / 8), max m.2 (f.bitOf p.1 p.2 / 8 + max f.bpp 8 / 8 - 1)))
    (2 ^ 28, 0)

/-- Order 5: an overlap that no order resolves (R313). -/
def BltCmd.unresolved (c : BltCmd) : Bool :=
  if c.op ≠ 1 then false
  else
    let dst := c.written.pixels
    let src := dst.map c.sourceOf
    if c.src = c.dst then c.turned && src.any fun p => decide (c.written.x0 ≤ p.1 ∧ p.1 < c.written.x1 ∧ c.written.y0 ≤ p.2 ∧ p.2 < c.written.y1)
    else
      let a := c.src.extent src
      let b := c.dst.extent dst
      decide (a.1 ≤ b.2 ∧ b.1 ≤ a.2)

/-- Orders 2 to 5: the status of the first condition met, none when the command may run. -/
def State.bltRecheck (s : State) (c : BltCmd) : Option Nat :=
  if c.op = 0 then none
  else if !c.inBounds then some 5
  else if c.written.empty then some 0
  else if !s.bltAdmitted c then some 2
  else if c.unresolved then some 1
  else none

/-- All checks in their order. -/
def State.bltCheck (s : State) (c : BltCmd) : Option Nat := if !s.bltGood c then some 4 else s.bltRecheck c

/-! ## Running (R310–R315) -/

/-- Bit ranges to change: per 64-bit word number, the mask and the value. -/
abbrev WordEdits := SMap (Nat × Nat)

/-- One pixel more. -/
def addEdit (m : WordEdits) (bitAddr bpp v : Nat) : WordEdits :=
  let wi := bitAddr / 64
  let sh := 2 ^ (bitAddr % 64)
  let keep := (2 ^ bpp - 1) * sh
  let (mk, val) := mget (fun _ => (0, 0)) m wi
  mset (fun _ => (0, 0)) m wi (mk ||| keep, (val &&& (2 ^ 64 - 1 - keep)) ||| (v % 2 ^ bpp * sh))

/-- Bits of word wi that only ingest may write (R85). -/
def State.ingestMask (s : State) (wi : Nat) : Nat :=
  ((List.range 8).map fun i => if s.ingestOwned (8 * wi + i) then 255 * 2 ^ (8 * i) else 0).sum

/-- A masked write of one 64-bit word by a requestor (R43, R44, R85, R312). -/
def State.memMasked64 (s : State) (req wi mask v : Nat) : State :=
  if !s.admits req (8 * wi) then s.denyWrite req
  else
    let own := s.ingestMask wi
    let s := if mask &&& own = 0 then s else s.denyWrite req
    let mask := mask &&& (2 ^ 64 - 1 - own)
    let s := s.wakeRegion (8 * wi)
    let s :=
      if mask = 2 ^ 64 - 1 then s.writeWord64 req (8 * wi) (natLe 8 v)
      else s.mergeWord64 req wi fun old => natLe 8 ((leNat old &&& (2 ^ 64 - 1 - mask)) ||| (v &&& mask))
    s.breakLinks (0x1000_0000 + 8 * wi) (0x1000_0000 + 8 * wi + 8)

/-- Write the edits. -/
def State.applyEdits (s : State) (m : WordEdits) : State :=
  m.foldl (fun s p => s.memMasked64 bltReq p.1 p.2.1 p.2.2) s

/-- The 64-bit words of a list of numbers, each read once (R317). -/
def State.readEach (s : State) (wis : List Nat) : SMap Nat × Bool × State :=
  wis.foldl (fun (a : SMap Nat × Bool × State) wi =>
    let (r, s) := a.2.2.readWord64 bltReq wi
    (mset (fun _ => 0) a.1 wi (leNat r.bytes), a.2.1 || !r.bad.isEmpty, s)) ([], false, s)

/-- A batch of written pixels: its source words are read, and unless one is uncorrectable its pixels are written (R315). The
answer says whether the command goes on. -/
def State.copyBatch (s : State) (c : BltCmd) (ps : List (Nat × Nat)) : Bool × State :=
  let from_ := fun (p : Nat × Nat) => c.src.bitOf (c.sourceOf p).1 (c.sourceOf p).2
  let (words, bad, s) := s.readEach (ps.map fun (p : Nat × Nat) => from_ p / 64).eraseDups
  if bad then (false, s)
  else
    let pix := fun (p : Nat × Nat) => mget (fun _ => 0) words (from_ p / 64) / 2 ^ (from_ p % 64) % 2 ^ c.src.bpp
    let go := ps.filter fun (p : Nat × Nat) => !(c.keyEn && pix p == c.w 12)
    let s := s.applyEdits (go.foldl (fun (m : WordEdits) p => addEdit m (c.dst.bitOf p.1 p.2) c.dst.bpp (pix p)) [])
    (true, s.wr64 R.BLT_PIXELS ((s.rd64 R.BLT_PIXELS + go.length) % 2 ^ 64))

/-- The batches of a COPY in order: rows from the side R313 gives, or blocks of 16 × 16 when rotated (R317). -/
def BltCmd.batches (c : BltCmd) : List (List (Nat × Nat)) :=
  let r := c.written
  if c.rotate then
    (List.range (ceilDiv (r.y1 - r.y0) 16)).flatMap fun j => (List.range (ceilDiv (r.x1 - r.x0) 16)).map fun i =>
      (BltRect.mk (r.x0 + 16 * i) (min r.x1 (r.x0 + 16 * i + 16)) (r.y0 + 16 * j) (min r.y1 (r.y0 + 16 * j + 16))).pixels
  else
    let rows := (span r.y0 r.y1).map fun y => (span r.x0 r.x1).map fun x => (x, y)
    if c.srcY < c.dstY then rows.reverse else rows

/-- Run batches until one meets an uncorrectable word: the status. -/
def State.copyAll (s : State) (c : BltCmd) : List (List (Nat × Nat)) → Nat × State
  | [] => (0, s)
  | b :: bs =>
    match s.copyBatch c b with
    | (true, s) => s.copyAll c bs
    | (false, s) => (3, s)

/-- Fill the written set, row by row (R311). -/
def State.fillAll (s : State) (c : BltCmd) : State :=
  let r := c.written
  let s := (span r.y0 r.y1).foldl (fun s y =>
    s.applyEdits ((span r.x0 r.x1).foldl (fun (m : WordEdits) x => addEdit m (c.dst.bitOf x y) c.dst.bpp (c.w 12)) [])) s
  s.wr64 R.BLT_PIXELS ((s.rd64 R.BLT_PIXELS + (r.x1 - r.x0) * (r.y1 - r.y0)) % 2 ^ 64)

/-! ## The engine -/

/-- Put a command at the front of the engine, and show it. -/
def State.setBlt (s : State) (c : Option BltCmd) : State :=
  let s := { s with blt := c }
  match c with
  | none => (s.wr F.BLT_STATUS.busy 0).wr F.BLT_STATUS.waiting 0
  | some x =>
    let s := (s.wr F.BLT_STATUS.busy (b2n !x.waiting)).wr F.BLT_STATUS.waiting (b2n x.waiting)
    (s.wr F.BLT_STATUS.queue x.queue).wr F.BLT_STATUS.index x.index

/-- Scene offset of descriptor i of queue q (R305). -/
def State.bltDesc (s : State) (q i : Nat) : Nat :=
  (64 * s.rd (F.BLT_Q_BASE.base q) + i % 2 ^ s.rd (F.BLT_Q_BASE.log2 q) * 64) % sceneSize

/-- Commands the queue holds (R305). -/
def State.bltCount (s : State) (q : Nat) : Nat := (65536 + s.rd (F.BLT_Q_WR.wr q) - s.rd (F.BLT_Q_RD.rd q)) % 65536

/-- The queue supplies commands (R306, R318). -/
def State.bltSupplies (s : State) (q : Nat) : Bool :=
  s.on (F.BLT_Q_CTRL.enable q) && !s.on (F.BLT_Q_CTRL.halted q) && s.bltCount q != 0

/-- A write of WR: reserved when it would overfill the ring (R305). -/
def State.bltWr (s : State) (q v : Nat) : State :=
  if 2 ^ s.rd (F.BLT_Q_BASE.log2 q) < (65536 + v % 65536 - s.rd (F.BLT_Q_RD.rd q)) % 65536 then
    s.ignoreWrite bltBase (R.BLT_Q_WR q - bltBase) 0
  else s.wr (F.BLT_Q_WR.wr q) v

/-- BLT_QUEUE_WR_WRITE (R305). -/
def execBltQueueWrWrite (t q v : Nat) (s : State) : Result := .next ((s.at t).bltWr (q % 4) v)

/-- Take the command of queue q: read it whole and check it; one that passes runs, or waits (R306, R309, R316). -/
def State.bltTake (s : State) (q : Nat) : State :=
  let i := s.rd (F.BLT_Q_RD.rd q)
  let (r, s) := s.memRead bltReq (s.bltDesc q i) 64
  let c : BltCmd := { queue := q, index := i, words := (List.range 16).map fun k => leAt r.bytes (4 * k) 4 }
  let res := if r.bad.isEmpty then s.bltCheck c else some 3
  s.setBlt (some { c with result := res, waiting := c.waitEn && res.isNone, since := s.now })

/-- The engine may take a command of queue q: none is at the front, or one of a higher-numbered queue waits (R306). -/
def State.bltFree (s : State) (q : Nat) : Bool :=
  match s.blt with
  | none => true
  | some c => c.waiting && decide (q < c.queue)

/-- BLITTER_COMMAND_TAKE (R306); a hold stops the engine here, between commands (R244, R405, R414, R455). -/
def execBlitterCommandTake (t : Nat) (s : State) : Result :=
  let s := s.at t
  .next (if s.unitsHeld then s
    else
      match (List.range 4).find? s.bltSupplies with
      | none => s
      | some q => if s.bltFree q then s.bltTake q else s)

/-- The command in front runs now: not waiting, its status not known. -/
def State.bltRuns (s : State) (op : Nat) : Option BltCmd :=
  match s.blt with
  | none => none
  | some c => if c.waiting || c.result.isSome || c.op != op then none else some c

/-- BLT_NOP (R307). -/
def execBltNop (t : Nat) (s : State) : Result :=
  let s := s.at t
  .next (match s.bltRuns 0 with
    | none => s
    | some c => s.setBlt (some { c with result := some 0 }))

/-- BLT_COPY (R310–R315). -/
def execBltCopy (t : Nat) (s : State) : Result :=
  let s := s.at t
  .next (match s.bltRuns 1 with
    | none => s
    | some c =>
      let (st, s) := s.copyAll c c.batches
      s.setBlt (some { c with result := some st }))

/-- BLT_FILL (R311). -/
def execBltFill (t : Nat) (s : State) : Result :=
  let s := s.at t
  .next (match s.bltRuns 2 with
    | none => s
    | some c => (s.fillAll c).setBlt (some { c with result := some 0 }))

/-- The wait's position leaves the pins at this moment (R316). -/
def State.bltWaitMet (s : State) (c : BltCmd) : Bool :=
  match s.posOf c.waitHead s.now with
  | none => false
  | some (n, y, x) => decide (c.since < s.now) && y == c.waitLine && x == 0 && (s.beam c.waitHead).time n y 0 == s.now

/-- BLITTER_WAIT_END: the position is reached, or the head has become absent; a queue that was disabled supplies nothing (R316,
R318). -/
def execBlitterWaitEnd (t : Nat) (s : State) : Result :=
  let s := s.at t
  .next (match s.blt with
    | none => s
    | some c =>
      if !c.waiting || s.unitsHeld then s
      else if !s.bltSupplies c.queue then s.setBlt none
      else if !s.headPresent c.waitHead then s.setBlt (some { c with waiting := false, result := some 4 })
      else if s.bltWaitMet c then s.setBlt (some { c with waiting := false, result := s.bltRecheck c })
      else s)

/-- Write the status into word 14 of descriptor i of queue q. -/
def State.bltStatus (s : State) (q i st : Nat) : State := s.memWrite bltReq (s.bltDesc q i + 56) (natLe 4 (2 ^ 31 + st))

/-- A failed command: its queue halts (R309). -/
def State.bltFail (s : State) (q i st : Nat) : State :=
  let s := (s.set1 (F.BLT_Q_CTRL.halted q)).wr F.BLT_IRQ.error (setBit (s.rd F.BLT_IRQ.error) q true)
  (((s.wr F.BLT_LAST_ERR.status st).wr F.BLT_LAST_ERR.queue q).wr F.BLT_LAST_ERR.index i).raise 214

/-- BLITTER_COMPLETE (R309): a command in progress completes in a hold too. -/
def execBlitterComplete (t : Nat) (s : State) : Result :=
  let s := s.at t
  .next (match s.blt with
    | none => s
    | some c =>
      match c.result with
      | none => s
      | some st =>
        let s := (s.bltStatus c.queue c.index st).wrapInc (F.BLT_Q_RD.rd c.queue)
        let s := if c.irq then s.wr F.BLT_IRQ.done (setBit (s.rd F.BLT_IRQ.done) c.queue true) else s
        (if st = 0 then s else s.bltFail c.queue c.index st).setBlt none)

/-- A running command of queue q (R319): one that waits has not started. -/
def State.bltRunning (s : State) (q : Nat) : Bool :=
  match s.blt with
  | none => false
  | some c => c.queue == q && !c.waiting

/-- Cancel (R319): every command of the queue that has not started gets status CANCELLED; RD passes them. -/
def State.bltCancel (s : State) (q : Nat) : State :=
  let run := b2n (s.bltRunning q)
  let rd := s.rd (F.BLT_Q_RD.rd q)
  let n := s.bltCount q - run
  let s := (List.range n).foldl (fun s j => s.bltStatus q ((rd + run + j) % 65536) 6) s
  let s := (s.wr (F.BLT_Q_RD.rd q) ((rd + n) % 65536)).wr (F.BLT_Q_CTRL.halted q) 0
  match s.blt with
  | some c => if c.queue = q ∧ c.waiting = true then s.setBlt none else s
  | none => s

/-- BLT_QUEUE_CANCEL (R319). -/
def execBltQueueCancel (t q : Nat) (s : State) : Result := .next ((s.at t).bltCancel (q % 4))

/-- BLT_QUEUE_RESUME: writing 1 to halted (R309). -/
def execBltQueueResume (t q : Nat) (s : State) : Result := .next ((s.at t).wr (F.BLT_Q_CTRL.halted (q % 4)) 0)

end Sys2Proof.Machine
end

