-- ==== Sys2Proof/Machine/Cadence.lean ====
section
/-! DEFINITION. Cadence lists: entries that fall due, their write queue, its writes (08: R172–R177). -/

namespace Sys2Proof.Machine

/-- Root cycle at which L y : P0 of the line after the job's line begins. -/
def State.nextLine (s : State) (j : LineJob) : Nat := (s.beam j.head).time j.frame (j.y + 1) 0

/-- The register a REG entry names: RW, in the layers, traces, sprite plane or compositor (R174). -/
def cadReg (h off : Nat) : Option RegHit :=
  if 0x1000 ≤ off ∧ off < 0x5000 then
    (findReg (headBase h + off)).filter fun r => r.fields.any (·.acc == .rw)
  else none

/-- An entry's words make it a bad entry (R174): line y, pixel of the good entry before it, Htotal. -/
def cadEntryBad (h y before htotal : Nat) (w0 w1 : Nat) : Bool :=
  let kind := bits w0 31 30
  let off := bits w1 16 2 * 4
  kind == 3 || bits w0 29 25 != 0 || bits w0 24 13 != y || decide (htotal ≤ bits w0 12 0) || decide (bits w0 12 0 < before)
    || (kind != 2 && (bits w1 31 17 != 0 || bits w1 1 0 != 0))
    || (kind == 0 && (cadReg h off).isNone) || (kind == 1 && !arrayMapped off)

/-- What becomes of the next entry of a list now. -/
inductive CadNext where
  /-- Its data is not there yet, or its time or a place in the queue has not come. -/
  | waits
  /-- Its bank line was dropped: counted then (R175). -/
  | gone
  /-- It is uncorrectable, or not queued by the next line (R175, R176). -/
  | lost (pixel : Option Nat)
  | bad
  | nop (pixel : Nat)
  | queued (w : CadWrite) (pixel : Nat)
  deriving DecidableEq, Repr

/-- Judge entry i of list c of a line (R173–R176). -/
def State.cadJudge (s : State) (j : LineJob) (c i : Nat) : CadNext :=
  let h := j.head
  let o := j.entryOff c i
  let req : FetchReq := ⟨.entry c, bankLine o⟩
  match j.data req with
  | none => if j.lostReq req then .gone else .waits
  | some p =>
    match lineField p o 4, lineField p (o + 4) 4, lineField p (o + 8) 4, lineField p (o + 12) 4 with
    | some w0, some w1, some w2, some w3 =>
      let b := s.beam h
      let px := bits w0 12 0
      let kind := bits w0 31 30
      if cadEntryBad h j.y (mget (fun _ => 0) j.cadPixel c) b.htotal w0 w1 then .bad
      else
        let due := b.time j.frame j.y px
        if s.now < due then .waits
        else if kind = 2 then .nop px
        else if s.nextLine j ≤ s.now then .lost (some px)
        else if 8 ≤ (s.head h).cadQueue.length then .waits
        else .queued ⟨due, kind == 1, bits w1 16 2 * 4, w2, w3⟩ px
    | _, _, _, _ => .lost none

/-- The list has gone past entry i. -/
def LineJob.cadPast (j : LineJob) (c i : Nat) (px : Option Nat) : LineJob :=
  { j with cadNext := mset (fun _ => 0) j.cadNext c (i + 1),
           cadPixel := match px with
             | some x => mset (fun _ => 0) j.cadPixel c x
             | none => j.cadPixel }

/-- The next entry of list c of a line, judged; none when the line has none left in it. -/
def State.cadHead (s : State) (j : LineJob) (c : Nat) : Option (Nat × CadNext) :=
  match j.index c with
  | none => none
  | some w =>
    let i := mget (fun _ => 0) j.cadNext c
    if indexBad w ∨ bits w 24 16 ≤ i then none else some (bits w 13 0 + i, s.cadJudge j c (bits w 13 0 + i))

/-- Order in which an entry is dealt with: none while it waits, those that take no place in the queue first, then by due time. -/
def CadNext.rank : CadNext → Option Nat
  | .waits => none
  | .queued w _ => some (w.due + 1)
  | _ => some 0

/-- The list whose entry goes next: list 0 goes before list 1 at equal times (R176). -/
def cadFirst (a b : Option (Nat × CadNext)) : Option Nat :=
  match a.bind (·.2.rank), b.bind (·.2.rank) with
  | none, none => none
  | some _, none => some 0
  | none, some _ => some 1
  | some x, some y => if y < x then some 1 else some 0

/-- Entry `i` of list c of a line is dealt with. -/
def State.cadDeal (s : State) (j : LineJob) (c i : Nat) (e : CadNext) : State :=
  let h := j.head
  let k := mget (fun _ => 0) j.cadNext c
  match e with
  | .waits => s
  | .gone => s.setJob (j.cadPast c k none)
  | .lost px => (s.satInc (F.CAD_ERRS.lost h)).setJob (j.cadPast c k px)
  | .bad => (s.cadBad h c j.y i).setJob (j.cadPast c k none)
  | .nop px => s.setJob (j.cadPast c k (some px))
  | .queued w px =>
    let s := s.modHead h fun x => { x with cadQueue := x.cadQueue ++ [w] }
    (s.peak (F.CAD_BAD.queue_peak h) (s.head h).cadQueue.length).setJob (j.cadPast c k (some px))

/-- Entries of one line join the queue in order of due time while they may; `n` bounds them. -/
def State.cadTake (s : State) (h f y : Nat) : Nat → State
  | 0 => s
  | n + 1 =>
    match s.job h f y with
    | none => s
    | some j =>
      match cadFirst (s.cadHead j 0) (s.cadHead j 1) with
      | none => s
      | some c =>
        match s.cadHead j c with
        | none => s
        | some e => (s.cadDeal j c e.1 e.2).cadTake h f y n

/-- CADENCE_ENTRY_DUE: the entries of head h whose beam position has come join the queue, line by line (R176). -/
def execCadenceEntryDue (t h : Nat) (s : State) : Result :=
  let s := s.at t
  .next ((s.head h).lines.foldl (fun s (j : LineJob) => s.cadTake h j.frame j.y 513) s)

/-- Bits of a register that a Cadence write reaches: those of its RW fields (R174). -/
def RegHit.rwBits (r : RegHit) : Word := (r.fields.filter (·.acc == .rw)).foldl (fun m f => m ||| fieldMask f.hi f.lo) 0

/-- A REG entry lands on the live copy; one that leaves a reserved encoding is ignored whole and counted (R174, R177). -/
def State.cadRegWrite (s : State) (h off : Nat) (p : Word × Word) : State :=
  match cadReg h off with
  | none => s
  | some r =>
    let a := headBase h + off
    if writesReserved r.spec.id r.i1 (maskOver (s.liveReg a) p) then s.ignoreWrite (headBase h) off 0
    else
      let p := (p.1 &&& r.rwBits, p.2)
      let s := s.setLive a (maskOver (s.liveReg a) p)
      { s with was.cad := mset (fun _ => (0, 0)) s.was.cad a (maskJoin (mget (fun _ => (0, 0)) s.was.cad a) p) }

/-- A word of the array window holds a reserved encoding: zoom 3 in word 0 of a sprite descriptor (R134, R174). -/
def arrayReserved (off : Nat) (w : Word) : Bool := decide (0x1_8000 ≤ off) && off % 32 == 0 && getBits w 30 29 == 3

/-- An ARRAY entry lands as a Rim write would; one that leaves a reserved encoding is ignored whole and counted (R174). -/
def State.cadArrayWrite (s : State) (h off : Nat) (p : Word × Word) : State :=
  let e := s.edge (arrayAddr h off)
  if !s.inWall h off && arrayReserved off (maskOver (maskOver e.base e.cad) p) then s.ignoreWrite (headBase h) off 0
  else s.cadArray h off p

/-- The oldest write of the queue lands (R174, R177). -/
def State.cadLand (s : State) (h : Nat) (w : CadWrite) : State :=
  let p := (BitVec.ofNat 32 w.mask, BitVec.ofNat 32 w.data)
  if w.array then s.cadArrayWrite h w.off p else s.cadRegWrite h w.off p

/-- CADENCE_WRITE: the queue's oldest entry lands at the first edge at or after its due time and 4 pixel clocks after the
queue's previous write (R176). -/
def execCadenceWrite (t h : Nat) (s : State) : Result :=
  let s := s.at t
  let x := s.head h
  .next (match x.cadQueue with
    | [] => s
    | w :: rest =>
      let free := match x.cadLast with
        | none => true
        | some c => decide (c + 4 * s.rd (F.BEAM_N.n_div h) ≤ s.now)
      if free && decide (w.due ≤ s.now) then
        let s := s.setHead h { x with cadQueue := rest, cadLast := some s.now }
        (if w.due < s.now then s.satInc (F.CAD_ERRS.late h) else s).cadLand h w
      else s)

end Sys2Proof.Machine
end

