-- ==== Sys2Proof/Machine/Reset.lean ====
section
/-! DEFINITION. The device reset and what survives it (25: R460; 13: R274; 19: R386; 23: R422). -/

namespace Sys2Proof.Machine

/-- Addresses of the Kickstand's registers, and of those whose fields the Kickstand keeps: FAULT_RECOVERY's counts, FAULT_STOP_LOG,
CPR_AGE_SUMMARY.kilohours, and the lines whose capture continues (R384, R386). -/
def keptAddrs : List Nat :=
  [R.KICK_RESET_CAUSE, R.KICK_NEXT_START, R.FAULT_STOP_LOG, R.CPR_AGE_SUMMARY] ++ (List.range 4).map R.FAULT_RECOVERY
    ++ (List.range 512).map fun (i : Nat) => R.FL_CFG 0 + 4 * i

/-- The bits of a kept register that the Kickstand keeps. -/
def keptMask (a : Nat) : Word :=
  if a = R.CPR_AGE_SUMMARY then 0xFFFF_0000#32
  else if R.FAULT_RECOVERY 0 ≤ a ∧ a < R.FAULT_RECOVERY 4 then 0xFFFF#32
  else 0xFFFF_FFFF#32

/-- Register words that a reset with the Kickstand powered leaves. -/
def State.keptRegs (s : State) : SMap Word :=
  keptAddrs.foldl (fun (m : SMap Word) (a : Nat) => mset resetWord m a (s.reg a &&& keptMask a)) []

/-- The OTP and the flash, which keep what is written; a write in progress is cut short (R422, R425, R439). -/
def SecS.kept (c : SecS) : SecS :=
  { gens := c.gens, begun := c.begun, retired := c.retired, wasValid := c.wasValid, lock := c.lock, rollback := c.rollback,
    factory := c.factory, seed := c.seed, calA := c.calA, calB := c.calB, factoryCal := c.factoryCal }

/-- The drives keep their contents (R398–R403). -/
def SaddleS.kept (b : SaddleS) : SaddleS :=
  { drives := b.drives.map fun p => (p.1, { p.2 with timeouts := 0 }), segments := b.segments, nextNumber := b.nextNumber,
    nextIndex := b.nextIndex, superblocks := b.superblocks, spans := b.spans, nextSeq := b.nextSeq, keyNumber := b.keyNumber }

/-- The pads keep the latched drive and capture goes on (R384, R386). -/
def FieldS.kept (f : FieldS) : FieldS :=
  { keeper := f.keeper, dirNow := f.dirNow, fresh := f.fresh, shorted := f.shorted, edge := f.edge, pad := f.pad, balls := f.balls,
    filter := f.filter, caps := f.caps }

/-- Every count is 0 at the reset and goes on ticking from there (R372). -/
def timersFrom (now : Nat) : SMap Timer :=
  if now = 0 then [] else (List.range 32).map fun (k : Nat) => (k, ({ since := now } : Timer))

/-- The state after a reset that leaves the Kickstand powered (`kick`), or not (R460, R274, R386). -/
def State.afterReset (s : State) (kick : Bool) : State :=
  let valid := kick && s.on F.ODO_STATUS.kick_valid
  let z : State := {
    pending := s.pending, out := s.out, freeCtr := s.freeCtr, now := if valid then s.now else 0,
    regs := if kick then s.keptRegs else [],
    field := { (if kick then s.field.kept else { balls := s.field.balls }) with timers := timersFrom (if valid then s.now else 0) },
    hub := { spares := s.hub.spares }, sec := s.sec.kept, sb := s.sb.kept, dbg := { ir := s.dbg.ir },
    clock := { balls := s.clock.balls, railsGood := s.clock.railsGood, hours := if kick then s.clock.hours else 0 } }
  if valid then ((z.wr F.ODO_STATUS.time_state 1).set1 F.ODO_STATUS.released).set1 F.ODO_STATUS.kick_valid else z

/-- A device reset (R460): its cause and count are latched in the Kickstand. -/
def State.deviceReset (s : State) (cause : Nat) : State :=
  let z := s.afterReset (cause != 0)
  let z := z.wr F.KICK_RESET_CAUSE.cause cause
  let z := if cause = 0 then z.wr F.KICK_RESET_CAUSE.resets 0 else z.satInc F.KICK_RESET_CAUSE.resets
  let z := if cause = 3 then z.wr F.FAULT_STOP_LOG.source s.fault.stopSource else z
  (z.wr F.FAULT_STOP_LOG.valid (b2n (cause == 3))).secRefresh

end Sys2Proof.Machine
end

