-- ==== Sys2Proof/Machine/Faults.lean ====
section
/-! DEFINITION. The fault collector's steps and the watchdogs (22: R409–R421). What raising a fault does is in Ops. -/

namespace Sys2Proof.Machine

/-- Base of the fault collector's block. -/
def faultBase : Nat := 0x4039_0000

/-- FAULT_RAISE: source i changes to Fault or Broken (R409, R410). -/
def execFaultRaise (t i : Nat) (broken : Bool) (s : State) : Result := .next ((s.at t).raiseAs i broken)

/-- The rails of source i are forced now (R421). -/
def State.forced (s : State) (i : Nat) : Bool := s.fault.injections.any fun j => j.source == i && decide (s.now < j.until_)

/-- FAULT_SOURCE_NO_FAULT: the rails of source i alternate again, unless they are forced (R409, R421). -/
def execFaultSourceNoFault (t i : Nat) (s : State) : Result :=
  let s := s.at t
  .next (if s.forced i then s
    else { s with fault.injections := s.fault.injections.filter (·.source != i) }.clearFault i)

/-- The running action completes: its class's quiet period starts, and the next queued action (R415, R416). -/
def State.actionDone (s : State) : State :=
  match s.fault.running with
  | none => s
  | some a =>
    let s := { s with fault.running := none }
    let s := s.setQuiet a.cls (some (s.quietEnd a.cls))
    match s.fault.queue with
    | [] => s
    | b :: rest => ((s.setFaultQueue rest).restartQuiet b.cls).startAction b

/-- FAULT_ACTION_COMPLETE (R414). -/
def execFaultActionComplete (t : Nat) (s : State) : Result := .next (s.at t).actionDone

/-- Source i stands in Fault or Broken with class c, or with a class of at least c. -/
def State.faultStands (s : State) (i : Nat) (p : Nat → Bool) : Bool :=
  let st := s.rd (F.FAULT_SRC.state i)
  st != 0 && p (s.faultClass i (st == 2))

/-- A class of Degrade or above is in its action or quiet period. -/
def State.degradeActive (s : State) : Bool := decide (2 ≤ s.rd F.FAULT_STATUS.classes)

/-- A class recovers: its bit clears; degraded clears when nothing of Degrade or above stands; a Stop resets the device. -/
def State.recoverClass (s : State) (c : Nat) : State :=
  let s := (s.setQuiet c none).wr F.FAULT_STATUS.classes (setBit (s.rd F.FAULT_STATUS.classes) c false)
  let s := s.wr F.FAULT_STATUS.held (setBit (s.rd F.FAULT_STATUS.held) c false)
  if c = 3 then s.deviceReset 3
  else if 1 ≤ c ∧ s.degradeActive = false ∧ ¬((List.range 448).any fun i => s.faultStands i (1 ≤ ·)) then
    s.wr F.FAULT_STATUS.degraded 0
  else s

/-- The quiet period of class c ends (R415). -/
def State.quietOver (s : State) (c : Nat) : State :=
  if (List.range 448).any fun i => s.faultStands i (· == c) then s.setQuiet c (some (s.quietEnd c))
  else
    let limit := s.rd (F.FAULT_RECOVERY.limit c)
    if limit ≠ 0 ∧ limit ≤ s.rd (F.FAULT_RECOVERY.count c) then
      (s.setQuiet c none).wr F.FAULT_STATUS.held (setBit (s.rd F.FAULT_STATUS.held) c true)
    else (s.satInc (F.FAULT_RECOVERY.count c)).recoverClass c

/-- QUIET_PERIOD_END (R415). -/
def execQuietPeriodEnd (t c : Nat) (s : State) : Result :=
  let s := s.at t
  .next (match s.quietOf c with
    | some e => if e ≤ s.now then s.quietOver c else s
    | none => s)

/-- A write of FAULT_CTRL.release: every held class recovers, uncounted (R415). -/
def State.faultRelease (s : State) : State := (setBitsOf 4 (s.rd F.FAULT_STATUS.held)).foldl State.recoverClass s

/-- FAULT_RELEASE (R415). -/
def execFaultRelease (t : Nat) (s : State) : Result := .next (s.at t).faultRelease

/-- A write of FAULT_CTRL.clear_recovery. -/
def State.clearRecovery (s : State) : State := (List.range 4).foldl (fun s c => s.wr (F.FAULT_RECOVERY.count c) 0) s

/-- FAULT_CLEAR_RECOVERY (R415). -/
def execFaultClearRecovery (t : Nat) (s : State) : Result := .next (s.at t).clearRecovery

/-- A write of FAULT_INJECT: rails are forced in Factory; elsewhere, or with a reserved encoding, it is ignored (R421). -/
def State.faultInject (s : State) (w : Word) : State :=
  let i := getBits w 8 0
  let cycles := getBits w 24 9
  let broken := getBits w 31 31 == 1
  if s.rd F.SEC_STATE.state ≠ 0 ∨ (faultFloor i).isNone = true ∨ cycles < 2 then s.ignoreWrite faultBase 0x44 0
  else
    let inj : Injection := ⟨i, broken, s.now + 8 * (cycles + 1)⟩
    { s with fault.injections := inj :: s.fault.injections.filter (·.source != i) }.raiseAs i broken

/-- FAULT_INJECT_WRITE (R421). -/
def execFaultInjectWrite (t : Nat) (w : Word) (s : State) : Result := .next ((s.at t).faultInject w)

/-! ## Watchdogs (R419, R420) -/

/-- Watchdog of core k. -/
def State.wdog (s : State) (k : Nat) : WDog := mget (fun _ => {}) s.fault.wdog k
def State.setWdog (s : State) (k : Nat) (w : WDog) : State := { s with fault.wdog := mset (fun _ => {}) s.fault.wdog k w }

/-- The watchdog counts: enabled, its core not parked nor held as in a park (R244, R405, R420). -/
def State.wdogCounts (s : State) (k : Nat) : Bool :=
  s.on (F.WDOG_CTRL.enable k) && s.corePresent k && !s.coreParked k && !s.coresHeld

/-- Its period has run out. -/
def State.wdogOver (s : State) (k : Nat) : Bool := decide (usRoot (s.rd (F.WDOG_CTRL.period k)) + (s.wdog k).reload ≤ s.now)

/-- Whole microseconds left (WDOG_STATUS.remain). -/
def State.wdogRemain (s : State) (k : Nat) : Nat :=
  if s.on (F.WDOG_CTRL.enable k) then (usRoot (s.rd (F.WDOG_CTRL.period k)) + (s.wdog k).reload - s.now) / 5940 else 0

/-- Reload to the full period. -/
def State.wdogReload (s : State) (k : Nat) : State := s.setWdog k { reload := s.now }

/-- A bite raises source k and reloads (R419). -/
def State.wdogBite (s : State) (k : Nat) : State := ((s.set1 (F.WDOG_STATUS.bite k)).raise k).wdogReload k

/-- A write of WDOG_KICK(k) by a master (R419). -/
def State.wdogKick (s : State) (k : Nat) (key : Word) (m : Master) : State :=
  if m ≠ .core k ∨ key ≠ 0x4B1C#32 then s.ignoreWrite faultBase (0x104 + k * 0x10) 0
  else if s.rd (F.WDOG_CTRL.window k) ≠ 0 ∧ s.wdogCounts k = true
      ∧ s.now < usRoot (s.rd (F.WDOG_CTRL.window k)) + (s.wdog k).reload then s.wdogBite k
  else s.wdogReload k

/-- WDOG_KICK (R419). -/
def execWdogKick (t k : Nat) (key : Word) (m : Master) (s : State) : Result := .next ((s.at t).wdogKick k key m)

/-- WATCHDOG_BITE: the period runs out (R419). -/
def execWatchdogBite (t k : Nat) (s : State) : Result :=
  let s := s.at t
  .next (if s.wdogCounts k && s.wdogOver k && !s.coreHalted k then s.wdogBite k else s)

/-- WATCHDOG_HALT_EXPIRE: it runs out while the core is halted by the debug port (R420). -/
def execWatchdogHaltExpire (t k : Nat) (s : State) : Result :=
  let s := s.at t
  .next (if s.wdogCounts k && s.wdogOver k && s.coreHalted k && !(s.wdog k).expired then
      (s.set1 (F.WDOG_STATUS.halt_bite k)).setWdog k { s.wdog k with expired := true }
    else s)

end Sys2Proof.Machine
end

