-- ==== Sys2Proof/Machine/Clock.lean ====
section
/-! DEFINITION. Clocks, power states, resets, start-up profiles, self-tests, temperature and ageing (25: R452–R464; 26: R473,
R474, R476, R477; 18: R371). What a chip frame start does to the power state is in ChipFrame. -/

namespace Sys2Proof.Machine

/-! ## Reset and start (R452, R460–R464) -/

/-- POWER_UP: VDD_IO applied (R460). -/
def execPowerUp (t : Nat) (s : State) : Result := .next ((s.at t).deviceReset 0)

/-- PORST_ASSERT (R460). -/
def execPorstAssert (t : Nat) (s : State) : Result := .next ((s.at t).deviceReset 1)

/-- RAIL_OUT_OF_RANGE: `lost` says that VDD_IO fell below 1.55 V, so that the Kickstand lost its contents (R458, R460). -/
def execRailOutOfRange (t : Nat) (lost : Bool) (s : State) : Result :=
  let s := s.at t
  let s := if lost then s.afterReset false else s
  .next (s.deviceReset 2)

/-- The start-up profile (R461): 0 Quick, 1 Full proof, 2 Recovery. -/
def State.startProfile (s : State) (balls : Nat) : Nat :=
  if s.on F.KICK_NEXT_START.armed then s.rd F.KICK_NEXT_START.profile
  else if balls = 3 then 2
  else if s.rd F.KICK_RESET_CAUSE.cause = 3 then 1
  else if balls = 0 then 0 else 1

/-- The failures a self-test found, as (item of CPR_BIST, index), and its length in ms (R463, R464). -/
def State.bistResult (s : State) (fails : List (Nat × Nat)) (ms : Nat) : State :=
  let s := s.wr F.CPR_BIST.ms (min ms 0xFFFF)
  match fails with
  | [] => s
  | (i, x) :: _ =>
    let s := ((s.wr F.CPR_BIST.fail_item i).wr F.CPR_BIST.fail_index x).set1 F.CPR_STATUS.bist_fail
    let heads := fails.foldl (fun m f => if f.1 = 2 then setBit m f.2 true else m) s.clock.failedHeads
    { s with clock.failedHeads := heads }.raise 322

/-- The Full proof: scene memory content is lost, a head whose pipeline fails is held Off, and any other failure
fails the proof, which holds the chip Solo (R26, R464). -/
def State.fullProof (s : State) (fails : List (Nat × Nat)) (ms : Nat) : State :=
  let s := { s with hub.mem := [], hub.flips := [], hub.writeBacks := [], hub.rereads := [] }
  let s := s.bistResult fails ms
  { s with clock.proofHold := fails.any (·.1 != 2) }

/-- RESET_RELEASE: the balls are sampled and the profile is run; `fails` and `ms` are a Full proof's outcome (R227, R461–R464). -/
def execResetRelease (t balls twin : Nat) (fails : List (Nat × Nat)) (ms : Nat) (s : State) : Result :=
  let s := s.at t
  .next (if !s.clock.resetHeld then s
    else
      let p := s.startProfile balls
      let s := (s.wr F.KICK_NEXT_START.armed 0).wr F.GS_MODE_SUMMARY.startup p
      let s := s.wr F.TANDEM_STATUS.index twin
      let s := { s with clock.resetHeld := false, clock.balls := balls, clock.recovery := p == 2, clock.bistStart := s.now, sec.bootStart := s.now }
      if p = 1 then s.fullProof fails ms else if p = 0 then s.set1 F.CPR_STATUS.bist_busy else s)

/-- BIST_COMPLETE (R463). -/
def execBistComplete (t : Nat) (fails : List (Nat × Nat)) (ms : Nat) (s : State) : Result :=
  let s := s.at t
  .next (if s.on F.CPR_STATUS.bist_busy then
      let s := (s.wr F.CPR_STATUS.bist_busy 0).bistResult fails ms
      if s.locked then s.judgeEligible else s
    else s)

/-- PLL_LOCK: after a reset release or in a wake (R452, R456). -/
def execPllLock (t : Nat) (s : State) : Result :=
  let s := (s.at t).set1 F.CPR_STATUS.pll_locked
  .next (if s.clock.waking then s.wr F.CPR_STATUS.serdes_off 0 else s)

/-- PLL_LOSS: loss of lock, or of the reference (R452, R465). -/
def execPllLoss (t : Nat) (reference : Bool) (s : State) : Result :=
  let s := s.at t
  .next (if reference then s.raise 321 else (s.wr F.CPR_STATUS.pll_locked 0).raise 320)

/-! ## Power states (R454, R455, R457) -/

/-- Base of the clock, power and reset block. -/
def cprBase : Nat := 0x403C_0000

/-- A write of CPR_CTRL.power_req (R454, R457): held while a Park sequence runs or the chip is parked. -/
def State.powerRequest (s : State) (v : Nat) : State :=
  if v = 3 then s.ignoreWrite cprBase 0 0
  else
    let s := s.wr F.CPR_CTRL.power_req v
    if s.rd F.CPR_STATUS.park_step ≠ 0 ∨ s.power = 2 then { s with clock.heldPower := some v }
    else { s with clock.powerReq := some v, clock.powerAt := s.now }

/-- POWER_REQUEST (R454). -/
def execPowerRequest (t v : Nat) (s : State) : Result := .next ((s.at t).powerRequest v)

/-- Put a power state into force. -/
def State.setPower (s : State) (p : Nat) : State := (s.wr F.CPR_STATUS.power p).wr F.GS_MODE_SUMMARY.power p

/-- The engines have stopped: no DMA channel runs and no Blitter command is in progress (R455). -/
def State.enginesIdle (s : State) : Bool :=
  (List.range 8).all (fun e => !s.on (F.DMA_STATUS.busy e)) && (match s.blt with
    | none => true
    | some c => c.waiting)

/-- Step 1: the hand-overs of the Park rows (R26, R241): a Primary's owned heads and its control role, and leadership, which passes at
the next chip frame start (R250). INTC_WAKE_CAUSE is free for the next wake (R371, log 65). -/
def State.parkHandOver (s : State) : State :=
  let s :=
    if s.locked && s.isPrimary then
      let s := (List.range 24).foldl (fun s h => if s.netOwns h then s.holdTakeover h 4 s.now else s) s
      { s with tandem.handover := true }
    else s
  let s := s.wr F.INTC_WAKE_CAUSE.valid 0
  if s.pelLeads && s.nextLeader.isSome then { s with pel.handLead := true }
  else if 2 ≤ s.pelState then s.setPel 3 1 else s

/-- Step 1 is complete: every takeover it asked for has been made or refused, and the control role and leadership have gone. -/
def State.handedOver (s : State) : Bool :=
  !s.pel.handLead && (!s.locked || (s.isShadow && !(s.tandem.decided ++ s.tandem.armed).any (·.cause == 4)))

/-- Step 2: every head is to go to Off; the state it is to have after waking is held (R26). -/
def State.parkHeads (s : State) : State :=
  (List.range 24).foldl (fun s h =>
    if s.headState h = 0 ∧ (s.head h).request = none then s
    else
      let v := s.rd (F.TX_CTRL.req_state h)
      let s := { s with clock.heldHeads := mset (fun _ => none) s.clock.heldHeads h (some v) }
      s.modHead h fun x => { x with request := some (0, s.now), thenFw := false }) s

/-- Step 4: every present core is to park at its boundary (R71). -/
def State.parkCores (s : State) : State :=
  let m := (List.range 32).foldl (fun m k => if s.corePresent k && !s.coreParked k then setBit m k true else m) 0
  { s with gs.parkDue := m }

/-- The frames in progress end without a record: the next one each head makes is the first after the wake (R216, R218). -/
def State.parkRecords (s : State) : State :=
  (List.range 24).foldl (fun s h =>
    if s.headPresent h then s.modHead h fun x => { x with started := false, parked := true } else s) s

/-- Step 5: SerDes and root PLL stop; a Tandem member parks as Shadow, out of lockstep, to rejoin once it has woken (R26, R240, R455;
DEDUCED, log 107). -/
def State.parkStop (s : State) : State :=
  let s := ((s.set1 F.CPR_STATUS.serdes_off).wr F.CPR_STATUS.pll_locked 0).wr F.CPR_STATUS.park_step 0
  let s := { s with tandem.heartbeat := false, clock.powerReq := none }.parkRecords
  let s := if s.rd F.TANDEM_STATUS.state = 0 then s else s.setTandem 4 2
  s.holdover.setPower 2

/-- The sequence is abandoned: Run at the next chip frame start, heads as held, cores go on (R457). -/
def State.abandonPark (s : State) : State :=
  let s := s.wr F.CPR_STATUS.park_step 0
  { s with clock.wakePending := false, clock.powerReq := some 0, clock.powerAt := s.now, clock.abandoned := true }

/-- The sequence goes on to a step. -/
def State.parkStep (s : State) (k : Nat) (f : State → State) : State := f (s.wr F.CPR_STATUS.park_step k)

/-- The step in progress has completed (R455). -/
def State.parkStepDone (s : State) (k : Nat) : Bool :=
  match k with
  | 1 => s.handedOver
  | 2 => (List.range 24).all fun h => s.headState h == 0
  | 3 => !s.sb.flush
  | 4 => s.gs.parkDue == 0 && s.enginesIdle
  | _ => true

/-- PARK_SEQUENCE: the next step begins when the one before it has completed; `frame` says that a chip frame starts now, which
step 4 waits for (R455, R457). -/
def execParkSequence (t : Nat) (frame : Bool) (s : State) : Result :=
  let s := s.at t
  let k := s.rd F.CPR_STATUS.park_step
  .next (if s.clock.stopped ∨ s.parkStepDone k = false then s
    else if k ≠ 0 ∧ s.clock.wakePending = true then s.abandonPark
    else
      match k with
      | 0 => if s.clock.powerReq = some 2 ∧ s.gsState ≠ 5 then s.parkStep 1 State.parkHandOver else s
      | 1 => s.parkStep 2 State.parkHeads
      | 2 => s.parkStep 3 fun s => { s with sb.flush := s.sb.current.isSome }
      | 3 => if frame && s.chipLatch then s.parkStep 4 State.parkCores else s
      | 4 => s.parkStep 5 State.parkStop
      | _ => s)

/-- A wake source asserts: the first one is latched and requests the wake; during a sequence it abandons it (R371, R456,
R457). -/
def State.wakeUp (s : State) (id : Nat) : State :=
  let enabled :=
    if id = 255 then s.on F.INTC_WAKE.alarm
    else if id = 481 then s.on F.INTC_WAKE.twin
    else decide (160 ≤ id ∧ id < 224) && bit (s.rd64 R.INTC_WAKE_FIELD) (id - 160)
  if !enabled then s
  else
    let latched := if s.on F.INTC_WAKE_CAUSE.valid then s else (s.set1 F.INTC_WAKE_CAUSE.valid).wr F.INTC_WAKE_CAUSE.id id
    if s.power = 2 then { latched with clock.waking := true }
    else if s.rd F.CPR_STATUS.park_step ≠ 0 then { latched with clock.wakePending := true }
    else s

/-- WAKE (R456). -/
def execWake (t id : Nat) (s : State) : Result := .next ((s.at t).wakeUp id)

/-! ## Temperature and ageing (R473, R474, R476, R477) -/

/-- Value in force of a calibration item (R438): the user value, else the factory value. -/
def State.calValue (s : State) (id inst : Nat) : Nat :=
  match s.sec.calInForce.find? fun i => i.id == id && i.inst == inst with
  | some i => i.value
  | none => mget (fun k => if k = 0x0C02 * 256 then 100 else 0) s.sec.factoryCal (256 * id + inst)

/-- A source follows a reading: raised on `high`; on `low` its fault ends, unless its lines are forced (R421). -/
def State.follow (s : State) (i : Nat) (high low : Bool) : State :=
  if high then s.raise i else if low && !s.forced i then s.clearFault i else s

/-- Reading of one sensor in 1/16 °C; none is missing or out of range. -/
def State.sensor (s : State) (i : Nat) (r : Option Int) : State :=
  match r with
  | none => s.wr (F.CPR_TEMP.valid i) 0
  | some v =>
    let v := v + signed 32 (s.calValue 0x0C01 i)
    let s := (s.set1 (F.CPR_TEMP.valid i)).wr (F.CPR_TEMP.temp i) (wrap 16 v)
    let thr : Int := s.calValue 0x0C02 0
    let s := s.follow (352 + i) (decide (16 * thr ≤ v)) (decide (v ≤ 16 * (thr - 5)))
    if signed 16 (s.rd F.CPR_TEMP_MAX.peak) < v then (s.wr F.CPR_TEMP_MAX.peak (wrap 16 v)).wr F.CPR_TEMP_MAX.sensor i else s

/-- Temperature a sensor shows, in 1/16 °C. -/
def State.tempOf (s : State) (i : Nat) : Int := signed 16 (s.rd (F.CPR_TEMP.temp i))

/-- SENSOR_READ: the eight sensors, once per millisecond (R473, R474). -/
def execSensorRead (t : Nat) (rs : List (Option Int)) (s : State) : Result :=
  let s := s.at t
  let s := (List.range 8).foldl (fun s i => s.sensor i (rs.getD i none)) s
  let s := s.follow 360 ((List.range 8).any fun i => decide (1920 ≤ s.tempOf i)) ((List.range 8).all fun i => decide (s.tempOf i ≤ 1840))
  let missing := (List.range 8).any fun i => (rs.getD i none).isNone
  .next (s.follow 361 missing (!missing))

/-- AGEING_MEASURE: the sixteen margins; `hourly` marks the measurement of each hour of Run or Dim (R476). -/
def execAgeingMeasure (t : Nat) (margins : List Nat) (hourly : Bool) (s : State) : Result :=
  let s := s.at t
  .next (if s.power = 2 then s
    else
      let s := (List.range 16).foldl (fun s i => s.wr (F.CPR_AGE.margin i) (margins.getD i 0)) s
      let least := (List.range 16).foldl (fun m i => min m (margins.getD i 0)) (margins.getD 0 0)
      let s := s.wr F.CPR_AGE_SUMMARY.min_margin least
      let s := if hourly then { s with clock.hours := s.clock.hours + 1 } else s
      let s := s.wr F.CPR_AGE_SUMMARY.kilohours (min 0xFFFF (s.clock.hours / 1000))
      (s.follow 362 (decide (least < 200)) (decide (200 ≤ least))).follow 363 (decide (least < 100)) (decide (100 ≤ least)))

end Sys2Proof.Machine
end

