-- ==== Sys2Proof/Machine/DebugOps.lean ====
section
/-! DEFINITION. What run control shares with the units it meets: resuming a core, asking for a halt, closing the debug session
(24: R444, R448). The operations of the port are in Debug. -/

namespace Sys2Proof.Machine

/-- A debug session is open (R444). -/
def State.debugOpen (s : State) : Bool := s.on F.DBG_SESSION.opened

/-- Halt request of core k that waits for its boundary. -/
def State.haltReq (s : State) (k : Nat) : Option HaltReq := mget (fun _ => none) s.dbg.haltReq k

/-- Set it. -/
def State.setHaltReq (s : State) (k : Nat) (r : Option HaltReq) : State :=
  { s with dbg.haltReq := mset (fun _ => none) s.dbg.haltReq k r }

/-- A halt request reaches core k; one that waits already stands, and the groups of both are triggered (R448, R451). -/
def State.askHalt (s : State) (k : Nat) (r : HaltReq) : State :=
  if s.coreHalted k then s
  else
    match s.haltReq k with
    | none => s.setHaltReq k (some r)
    | some q => s.setHaltReq k (some { q with groups := q.groups ||| r.groups })

/-- A halted core goes on: its watchdog reloads (R420), its next instruction is not halted again by its own match (R448). -/
def State.resumeCore (s : State) (k : Nat) : State :=
  if s.coreHalted k then
    let s := s.wr F.DBG_HALTED.cores (setBit (s.rd F.DBG_HALTED.cores) k false)
    (s.modCore k fun c => { c with resumed := true }).wdogReload k
  else s

/-- The debug session closes: comparators and groups cleared, halted cores resume (R444). -/
def State.closeDebug (s : State) : State :=
  if !s.debugOpen then s
  else
    let s := (s.wr F.DBG_SESSION.opened 0).wr F.DBG_SESSION.slot 0
    let s := { s with dbg.comps := [], dbg.haltReq := [], dbg.triggers := [] }
    (List.range 32).foldl (fun s k => (s.wr (F.DBG_CORE.groups k) 0).resumeCore k) s

/-- A slot may open a debug session: in Provisioned with the debug permission, in Factory slot 0 with the prov_key of the image
booted (R443). -/
def State.debugKey (s : State) (slot : Nat) : Option (List Byte) :=
  if s.secState = 2 then none
  else
    match s.hostSlot slot with
    | some (some key, _, perms) => if bit perms 2 then some key else none
    | _ => none

/-- A generation that takes the debug permission from the session's slot closes the session (R444). -/
def State.debugRecheck (s : State) : State :=
  if s.debugOpen && (s.debugKey (s.rd F.DBG_SESSION.slot)).isNone then s.closeDebug else s

/-- A change of the security state closes every session and the debug session (R287, R436, R444). -/
def State.securityChanged (s : State) : State := s.closeAll.closeDebug

end Sys2Proof.Machine
end

