-- ==== Sys2Proof/Machine/Security.lean ====
section
/-! DEFINITION. Boot, OTP writes, peer authentication and user calibration (23: R422–R441). The security commands themselves are
in Vertik; what a chip frame start brings into force is in ChipFrame. -/

namespace Sys2Proof.Machine

/-! ## OTP at the start (R425, R426) -/

/-- An interrupted generation write is completed: of several usable generations the ones below the last are retired (R425). -/
def State.completeWrite (s : State) : State :=
  let ok := (List.range 4).filter fun g => s.genValid g && !bit s.sec.retired g
  { s with sec.retired := ok.dropLast.foldl (fun m g => setBit m g true) s.sec.retired }

/-- The seal check of every generation; what it finds is reported and the generation in use comes into force (R426). -/
def State.checkGens (s : State) : State :=
  let lost := (List.range 4).any fun g => bit s.sec.wasValid g && s.genDamaged g
  let s := { s with sec.wasValid := s.sec.wasValid ||| genMask s.genValid, sec.inForce := s.genInUse }
  let s := if lost || (s.sec.begun != 0 && s.sec.inForce.isNone) then s.raise 385 else s
  s.secRefresh

/-! ## Calibration records (R438–R440) -/

/-- A unit owns the item, and its value is permitted (R439, R477). -/
def calOwned (i : CalItem) : Bool :=
  (i.id == 0x0C01 && decide (i.inst < 8)) || (i.id == 0x0C02 && i.inst == 0 && decide (70 ≤ i.value ∧ i.value ≤ 110))

/-- Copy B of the user calibration is the current one; else copy A (R439). -/
def State.calBCurrent (s : State) : Bool :=
  s.sec.calB.valid && (!s.sec.calA.valid || decide (s.sec.calA.seq < s.sec.calB.seq))

/-- The current record; an empty one when no copy is valid. -/
def State.calCurrent (s : State) : CalRecord :=
  if s.calBCurrent then s.sec.calB else if s.sec.calA.valid then s.sec.calA else {}

/-- A record is written over the copy that is not current, with the next sequence number (R439, R440). -/
def State.calStore (s : State) (r : CalRecord) : State :=
  if s.calBCurrent then { s with sec.calA := r } else if s.sec.calA.valid then { s with sec.calB := r } else { s with sec.calA := r }

/-- The values of the current record come into force (R438, R439). -/
def State.calApply (s : State) : State :=
  { s with sec.calInForce := s.calCurrent.items.filter calOwned, sec.calPending := false }

/-! ## Boot (R431–R433) -/

/-- Seconds that network boot waits (R424, R433). -/
def State.bootWait (s : State) : Nat := (s.inForceBytes.map fun b => leAt b 9 1).getD 60

/-- Sources of boot_order: 0 slot A, 1 slot B, 2 network (R424, R431). -/
def State.bootSources (s : State) : List Nat :=
  match (s.inForceBytes.map fun b => leAt b 8 1).getD 0 with
  | 1 => [2, 0, 1]
  | 2 => [0, 1]
  | 3 => [2]
  | _ => [0, 1, 2]

/-- A source is tried: network boot holds the first readable wrapper's key, or runs in open provisioning (R433). -/
def State.bootTry (s : State) (k : Nat) : State :=
  let s := { s with sec.booting := some k, sec.delivered := false, sec.srcKey := none }
  if k = 2 then
    let s := { s with sec.netStart := s.now }
    if s.secState = 0 then { s with sec.provKey := s.sec.wrapper, sec.openProv := s.sec.wrapper.isNone } else s
  else s

/-- The next source: after the last one the recovery slot, then network boot with no limit (R431). -/
def State.bootNext (s : State) : State :=
  match s.sec.bootLeft with
  | k :: rest => { s with sec.bootLeft := rest }.bootTry k
  | [] =>
    if s.sec.booting = some 3 then { s with sec.bootForever := true }.bootTry 2
    else
      { s with clock.recovery := true }.wr F.GS_MODE_SUMMARY.startup 2 |>.bootTry 3

/-- BOOT_START: `wraps` are the prov_keys of slot A's and slot B's boot wrappers, where they can be read (R431, R433). A chip
with a begin bit set and no usable generation does not boot (R426). -/
def execBootStart (t : Nat) (wraps : List (Option (List Byte))) (s : State) : Result :=
  let s := s.at t
  .next (if s.clock.resetHeld ∨ s.sec.booted = true then s
    else
      let s := s.completeWrite.checkGens
      let s := { s with sec.booted := true, sec.wrapper := (wraps.take 2).findSome? id }
      let s := s.calApply.wr F.SEC_CAL.items (min 0xFFFF s.calCurrent.items.length)
      if s.sec.begun ≠ 0 ∧ s.sec.inForce = none then s
      else { s with sec.bootLeft := if s.clock.recovery then [3] else s.bootSources }.bootNext)

/-- The image a source delivers stands in the staging store; a network boot's was staged by its commands (R61, R294). -/
def State.bootStage (s : State) (image : List Word) : State :=
  if s.sec.booting = some 2 then s
  else
    let s := s.clearStaging
    let m := storeOf ((image.take stageWords).map (·.toNat))
    ({ s with gs.staging := m, gs.staged := true }.wr F.GS_STAGE_PTR.word (min image.length stageWords)).setGsState 1

/-- BOOT_IMAGE_DELIVERED: the whole image is in the staging store and its check starts, to be applied when it passes; `key` is the
prov_key of the slot's wrapper (R431, R432). -/
def execBootImageDelivered (t : Nat) (image : List Word) (key : Option (List Byte)) (s : State) : Result :=
  let s := s.at t
  .next (if s.sec.booting.isNone ∨ s.gsBusy = true then s
    else
      let s := { s with sec.delivered := true, sec.srcKey := key }.bootStage image
      { s with gs.applyWanted := true }.gsCheck)

/-- The source in hand fails with its SEC_BOOT reason, and the next one is tried (R431). -/
def State.bootFail (s : State) (reason : Nat) : State :=
  let s := match s.sec.booting with
    | some 0 => s.wr F.SEC_BOOT.reason_a reason
    | some 1 => s.wr F.SEC_BOOT.reason_b reason
    | _ => s
  (s.raise 384).bootNext

/-- BOOT_SOURCE_FAIL: the source cannot be read, or the image it delivered was rejected (R431). -/
def execBootSourceFail (t : Nat) (unreadable : Bool) (s : State) : Result :=
  let s := s.at t
  let rejected := s.sec.delivered && s.gsState == 0 && s.rd F.GS_STATUS.last_result == 2
  .next (if s.sec.booting.isNone ∨ s.sec.bootForever = true then s
    else if unreadable then s.bootFail 0xE
    else if rejected then s.bootFail (s.rd F.GS_REJECT.reason)
    else s)

/-- NETWORK_BOOT_TIMEOUT: no image was applied within boot_wait seconds (R433). -/
def execNetworkBootTimeout (t : Nat) (s : State) : Result :=
  let s := s.at t
  .next (if s.sec.booting = some 2 ∧ s.sec.bootForever = false ∧ s.gsState ≠ 5
      ∧ usRoot (1_000_000 * s.bootWait) + s.sec.netStart ≤ s.now then s.bootFail 0
    else s)

/-! ## OTP writes (R425, R434, R436) -/

/-- The write in progress ends: SEC_PROG and its interrupt. -/
def State.progEnd (s : State) (last : Nat) : State :=
  (({ s with sec.job := none }.wr F.SEC_PROG.busy 0).wr F.SEC_PROG.last last).set1 F.SEC_IRQ.prog

/-- A generation is programmed: verified, the one in use retired; it waits for the chip frame start (R425, R436). -/
def State.genProgrammed (s : State) (g : Nat) (bytes : List Byte) (c : VtkCmd) : State :=
  let old := s.genInUse
  let s := { s with sec.gens := mset (fun _ => []) s.sec.gens g bytes, sec.wasValid := setBit s.sec.wasValid g true }
  let s := match old with
    | some o => { s with sec.retired := setBit s.sec.retired o true }
    | none => s
  ({ s with sec.newGeneration := true, sec.genReply := some c }.progEnd 0).secRefresh

/-- Programming failed its verification: source 386 and DENIED, detail 5 (R436). -/
def State.progFailed (s : State) (c : VtkCmd) : State :=
  (((s.progEnd 5).secRefresh).raise 386).vtkFinish c stDenied 5 s.gs.chipFrame

/-- OTP_PROGRAM_COMPLETE (R425, R434, R436). -/
def execOtpProgramComplete (t : Nat) (ok : Bool) (s : State) : Result :=
  let s := s.at t
  .next (match s.sec.job with
    | none => s
    | some (.calibration _, _) => s
    | some (job, c) =>
      if !ok then s.progFailed c
      else
        match job with
        | .settings g bytes => s.genProgrammed g bytes c
        | .lock => (({ s with sec.lock := true }.progEnd 0).securityChanged).secRefresh
        | .rollback n =>
          (({ s with sec.rollback := max s.sec.rollback n }.progEnd 0).secRefresh).vtkFinish c stOk 0 s.gs.chipFrame (natLe 1 n)
        | .calibration _ => s)

/-- USER_CALIBRATION_WRITTEN: the record is over the copy that was not current; its changes wait for the next chip frame start
(R439, R440). -/
def execUserCalibrationWritten (t : Nat) (s : State) : Result :=
  let s := s.at t
  .next (match s.sec.job with
    | some (.calibration r, c) =>
      let s := s.calStore r
      let s := { s with sec.job := none, sec.calPending := true }.wr F.SEC_CAL.items (min 0xFFFF r.items.length)
      ((s.wr F.SEC_PROG.busy 0).wr F.SEC_PROG.last 0).vtkFinish c stOk 0 s.gs.chipFrame
    | _ => s)

/-! ## Peer authentication (R429) -/

/-- Unsigned byte comparison: the first is the lower, or equal. -/
def bytesLe : List Byte → List Byte → Bool
  | [], _ => true
  | _ :: _, [] => false
  | a :: as, b :: bs => if a = b then bytesLe as bs else decide (a.toNat < b.toNat)

/-- Two byte strings, the lower first. -/
def ordered (a b : List Byte) : List Byte := if bytesLe a b then a ++ b else b ++ a

/-- What each side signs: "PEER", both nonces, both identity keys (R429). -/
def peerText (n1 n2 k1 k2 : List Byte) : List Byte := ascii "PEER" ++ ordered n1 n2 ++ ordered k1 k2

/-- The peer is accepted: its endorsement holds under our owner's key, its signature under its own (R424, R429). -/
def State.peerAccepts (s : State) (peerKey endorsement text sig : List Byte) : Bool :=
  s.secState != 0 && s.ownerSigned (ascii "ENDO" ++ peerKey) endorsement && ed25519Verify peerKey text sig

/-- PEER_AUTH: this chip draws its nonce, sends its key, endorsement, nonce and signature, and checks the peer's (R429). -/
def execPeerAuth (t : Nat) (twin : Bool) (peerKey endorsement peerNonce sig : List Byte) (s : State) : Result :=
  let (i, s) := (s.at t).draw
  let nonce := (List.range 16).map (Config.freeByte i)
  let text := peerText nonce peerNonce s.idPub peerKey
  let sent := s.idPub ++ s.endorsement ++ nonce ++ s.idSign text
  let s := if s.secState = 0 then s else s.emit (.message (if twin then 9 else 10) 20 (sent.map (·.toNat)))
  let ok := s.peerAccepts peerKey endorsement text sig
  let s := if twin then { s with tandem.authenticated := ok } else { s with sec.peerOk := ok }
  .next (if ok then s else s.raise 387)

end Sys2Proof.Machine
end

