-- ==== Sys2Proof/Machine/ChipFrame.lean ====
section
/-! DEFINITION. The start of a chip frame: what waits for it takes effect (03: R67; 11: R241; 12: R246; 23: R430, R436, R439;
25: R454, R456, R457). -/

namespace Sys2Proof.Machine

/-- Sessions whose slot changed in key, priority or permissions close; the debug session closes when its slot loses the debug
permission (R436, R444). -/
def State.closeChanged (old s : State) : State :=
  let s := (List.range 64).foldl (fun s n =>
    let slot := s.rd (F.VTK_SESSION.key_slot n)
    if s.rd (F.VTK_SESSION.state n) ≠ 0 ∧ old.hostSlot slot ≠ s.hostSlot slot then s.freeSession n else s) s
  match s.hostSlot (s.rd F.DBG_SESSION.slot) with
  | some (_, _, perms) => if bit perms 2 then s else s.closeDebug
  | none => s.closeDebug

/-- A programmed generation comes into force (R430, R436). -/
def State.generationInForce (s : State) : State :=
  if !s.sec.newGeneration then s
  else
    let n := { s with sec.inForce := s.genInUse, sec.newGeneration := false, sec.genReply := none }
    let n := ((State.closeChanged s n.secRefresh).debugRecheck).set1 F.SEC_IRQ.gen
    match s.sec.genReply with
    | none => n
    | some c =>
      n.vtkFinish c stOk 0 n.gs.chipFrame

/-- Changed user calibration takes effect (R439, R477). -/
def State.calibrationAtFrame (s : State) : State :=
  if !s.sec.calPending then s
  else
    let n := s.calApply
    if n.sec.calInForce = s.sec.calInForce then n else n.set1 F.SEC_IRQ.cal

/-- The states requested while parked, or held by an abandoned Park sequence, are requested now (R26, R456, R457). -/
def State.releaseStates (s : State) : State :=
  let held := s.clock.heldHeads
  let s := { s with clock.heldHeads := [] }
  held.foldl (fun s (p : Nat × Option Nat) => match p.2 with
    | some v => s.requestHead p.1 v
    | none => s) s

/-- A power request held during the Park sequence is acted on (R457). -/
def State.releasePower (s : State) : State :=
  match s.clock.heldPower with
  | none => s
  | some v => { s with clock.heldPower := none, clock.powerReq := some v, clock.powerAt := s.now }

/-- The wake ends: Run, cores resume, voices idle, the heads' states are requested, a Tandem member asks to rejoin (R26, R456). -/
def State.wakeEnds (s : State) : State :=
  let s := { s.setPower 0 with clock.waking := false, gs.parked := 0, gs.parkDue := 0, tandem.heartbeat := true,
                               tandem.rejoin := s.tandem.rejoin || s.rd F.TANDEM_STATUS.state == 4 }
  s.bellWake.releaseStates.releasePower.unitsResume

/-- A Run or Dim request that landed before this edge takes effect (R454, R457). -/
def State.powerAtFrame (s : State) : State :=
  match s.clock.powerReq with
  | some 2 => s
  | some v =>
    if s.clock.powerAt < s.now then
      let s := { s with clock.powerReq := none }.setPower v
      if s.clock.abandoned then
        { s with clock.abandoned := false, gs.parked := 0, gs.parkDue := 0 }.releaseStates.releasePower.unitsResume
      else s
    else s
  | none => s

/-- Chip frame n starts now, on a schedule that has been released; at any moment while no image gives a schedule (R67, R274, log 33). -/
def State.chipStarts (s : State) (n : Nat) : Bool := s.gs.chipTf == 0 || (s.on F.ODO_STATUS.released && s.now == s.chipStart n)

/-- CHIP_FRAME_START: chip frame n starts. None starts in reset, nor while the chip is parked and its PLL has not relocked. -/
def execChipFrameStart (t n : Nat) (s : State) : Result :=
  let s := s.at t
  .next (if s.clock.resetHeld || !s.chipStarts n then s
    else if s.power = 2 ∧ (s.clock.waking = false ∨ s.on F.CPR_STATUS.pll_locked = false) then s
    else
      let s := { s with gs.chipFrame := n, sb.keyFrames := s.sb.keyFrames + 1 }
      let s := if s.power = 2 then s.wakeEnds else s.powerAtFrame
      let s := s.generationInForce.calibrationAtFrame
      (s.swapRoles.applyAtFrame n).pelAtFrame n)

end Sys2Proof.Machine
end

