-- ==== Sys2Proof/Machine/Flags.lean ====
section
/-! DEFINITION. The flags and results of the Crank instructions (17: R345) and the division, bit-field and multiply functions of the
coprocessor slots (R358). -/

namespace Sys2Proof.Machine

/-- N and Z of a result. -/
def CoreS.setNZ (c : CoreS) (r : Word) : CoreS := (c.setFlag 3 r.msb).setFlag 2 (r == 0#32)

/-- A sum with its carry and signed overflow. -/
structure Sum where
  value : Word
  carry : Bool
  overflow : Bool
  deriving DecidableEq, Repr

/-- a + b + carry in. -/
def addWords (a b : Word) (cin : Bool) : Sum :=
  let n := a.toNat + b.toNat + b2n cin
  let r := BitVec.ofNat 32 n
  ⟨r, decide (2 ^ 32 ≤ n), a.msb == b.msb && r.msb != a.msb⟩

/-- a − b − (1 − carry in): carry is 1 when no borrow occurs (R339). -/
def subWords (a b : Word) (cin : Bool) : Sum := addWords a (~~~b) cin

/-- N, Z, C and V of a sum. -/
def CoreS.setSum (c : CoreS) (r : Sum) : CoreS := ((c.setNZ r.value).setFlag 0 r.carry).setFlag 1 r.overflow

/-- Write a register and set N and Z of it. -/
def CoreS.putNZ (c : CoreS) (r : CReg) (v : Word) : CoreS := (c.put r v).setNZ v

/-- A ← a sum, with its flags. -/
def CoreS.putSum (c : CoreS) (r : Sum) : CoreS := (c.put .a r.value).setSum r

/-- The shifts (R345). -/
inductive Shift where
  | left
  | right
  | arithmetic
  | rotate
  deriving DecidableEq, Repr

/-- Result of a shift of a by n < 32, and the carry after it. ROR: C is bit 31 of the result, for n = 0 as well (log 35). -/
def shiftWord (k : Shift) (a : Word) (n : Nat) (c : Bool) : Word × Bool :=
  match k with
  | .left => (a <<< n, if n = 0 then c else a.getLsbD (32 - n))
  | .right => (a >>> n, if n = 0 then c else a.getLsbD (n - 1))
  | .arithmetic => (a.sshiftRight n, if n = 0 then c else a.getLsbD (n - 1))
  | .rotate =>
    let r := a.rotateRight n
    (r, r.msb)

/-- A ← A shifted by n. -/
def CoreS.shiftA (c : CoreS) (k : Shift) (n : Nat) : CoreS :=
  let r := shiftWord k (c.get .a) n (c.flag 0)
  (c.putNZ .a r.1).setFlag 0 r.2

/-- A condition of a branch (R345). -/
def CoreS.holds (c : CoreS) : Cond → Bool
  | .al => true
  | .eq => c.flag 2
  | .ne => !c.flag 2
  | .cs => c.flag 0
  | .cc => !c.flag 0
  | .mi => c.flag 3
  | .pl => !c.flag 3
  | .vs => c.flag 1
  | .vc => !c.flag 1
  | .hi => c.flag 0 && !c.flag 2
  | .ls => !c.flag 0 || c.flag 2
  | .ge => c.flag 3 == c.flag 1
  | .lt => c.flag 3 != c.flag 1
  | .gt => !c.flag 2 && c.flag 3 == c.flag 1
  | .le => c.flag 2 || c.flag 3 != c.flag 1

/-! ## Coprocessor (R358) -/

/-- DIVU. -/
def CopRegs.divu (p : CopRegs) : CopRegs :=
  if p.den = 0#32 then { p with quo := 0xFFFFFFFF#32, rem := p.num }
  else { p with quo := p.num.udiv p.den, rem := p.num.umod p.den }

/-- DIVS: the quotient rounded toward zero, the remainder with the sign of NUM. -/
def CopRegs.divs (p : CopRegs) : CopRegs :=
  if p.den = 0#32 then { p with quo := 0xFFFFFFFF#32, rem := p.num }
  else { p with quo := p.num.sdiv p.den, rem := p.num.srem p.den }

/-- ACC, 64 bits. -/
def CopRegs.acc (p : CopRegs) : Int := ((p.accLo.toNat + 2 ^ 32 * p.accHi.toNat : Nat) : Int)

/-- ACC ← v modulo 2^64. -/
def CopRegs.setAcc (p : CopRegs) (v : Int) : CopRegs :=
  { p with accLo := BitVec.ofInt 32 v, accHi := BitVec.ofInt 32 (v / 2 ^ 32) }

/-- MACS, MACU, MSUS. -/
def CopRegs.macs (p : CopRegs) : CopRegs := p.setAcc (p.acc + p.m1.toInt * p.m2.toInt)
def CopRegs.macu (p : CopRegs) : CopRegs := p.setAcc (p.acc + ((p.m1.toNat * p.m2.toNat : Nat) : Int))
def CopRegs.msus (p : CopRegs) : CopRegs := p.setAcc (p.acc - p.m1.toInt * p.m2.toInt)

/-- Leading zeros of a 32-bit value: 32 for 0. -/
def leadingZeros (w : Word) : Nat := if w = 0#32 then 32 else 31 - Nat.log2 w.toNat

/-- Argument of the bit-field functions: lsb and w. -/
def fieldLsb (arg : Nat) : Nat := arg % 32
def fieldWidth (arg : Nat) : Nat := arg / 32 % 32 + 1

/-- The field lies in the word. -/
def fieldFits (arg : Nat) : Bool := decide (fieldLsb arg + fieldWidth arg ≤ 32)

/-- EXTU, EXTS, INS. -/
def CopRegs.extu (p : CopRegs) (arg : Nat) : CopRegs :=
  { p with dst := BitVec.ofNat 32 (getBits p.src (fieldLsb arg + fieldWidth arg - 1) (fieldLsb arg)) }
def CopRegs.exts (p : CopRegs) (arg : Nat) : CopRegs :=
  let v := getBits p.src (fieldLsb arg + fieldWidth arg - 1) (fieldLsb arg)
  { p with dst := BitVec.ofInt 32 (signed (fieldWidth arg) v) }
def CopRegs.ins (p : CopRegs) (arg : Nat) : CopRegs :=
  { p with dst := setBits p.dst (fieldLsb arg + fieldWidth arg - 1) (fieldLsb arg) p.src.toNat }

/-- A word with its bytes reversed. -/
def reverseBytes (w : Word) : Word := BitVec.ofNat 32 (beNat (natLe 4 w.toNat))

/-- A slot register: none is reserved. -/
def CopRegs.read (p : CopRegs) (slot r : Nat) : Option Word :=
  match slot, r with
  | 0, 0 => some p.num
  | 0, 1 => some p.den
  | 0, 2 => some p.quo
  | 0, 3 => some p.rem
  | 1, 0 => some p.accLo
  | 1, 1 => some p.accHi
  | 1, 2 => some p.m1
  | 1, 3 => some p.m2
  | 2, 0 => some p.src
  | 2, 1 => some p.dst
  | 3, 0 => some p.rootLo
  | 3, 1 => some p.rootHi
  | 3, 2 => some p.beam
  | 3, 3 => some p.frameLo
  | 3, 4 => some p.frameHi
  | 3, 5 => some p.untilLo
  | 3, 6 => some p.untilHi
  | _, _ => none

/-- Write a slot register; a write to an RO register is discarded (R357). -/
def CopRegs.write (p : CopRegs) (slot r : Nat) (v : Word) : CopRegs :=
  match slot, r with
  | 0, 0 => { p with num := v }
  | 0, 1 => { p with den := v }
  | 1, 0 => { p with accLo := v }
  | 1, 1 => { p with accHi := v }
  | 1, 2 => { p with m1 := v }
  | 1, 3 => { p with m2 := v }
  | 2, 0 => { p with src := v }
  | 2, 1 => { p with dst := v }
  | 3, 5 => { p with untilLo := v }
  | 3, 6 => { p with untilHi := v }
  | _, _ => p

/-- UNTIL, 64 bits. -/
def CopRegs.until64 (p : CopRegs) : Nat := p.untilLo.toNat + 2 ^ 32 * p.untilHi.toNat

end Sys2Proof.Machine
end

