-- ==== Sys2Proof/Machine/Dma.lean ====
section
/-! DEFINITION. The DMA engines: channel selection, descriptor fetch and checks, the halt (20: R390–R392, R395, R396). How a
descriptor's bytes move is in DmaRun. -/

namespace Sys2Proof.Machine

/-- Engine e beside its registers. -/
def State.dmaOf (s : State) (e : Nat) : DmaS := mget (fun _ => {}) s.dma e
def State.setDma (s : State) (e : Nat) (d : DmaS) : State := { s with dma := mset (fun _ => {}) s.dma e d }

/-- Hub requestor of engine e (R49), and base of its block (R31). -/
def dmaReq (e : Nat) : Nat := 56 + e
def dmaBase (e : Nat) : Nat := 0x4036_0000 + 0x1000 * e

/-- Channel running on engine e. -/
def State.dmaChannel (s : State) (e : Nat) : Option Nat :=
  if s.on (F.DMA_STATUS.busy e) then some (s.rd (F.DMA_STATUS.channel e)) else none

/-- The engine makes no progress: halted, or in a Stop, which holds it between elements (R396, R414). -/
def State.dmaHeld (s : State) (e : Nat) : Bool := s.on (F.DMA_STATUS.halted e) || s.clock.stopped

/-- Record a start request; one written while the channel runs is ignored and counted (R392). -/
def State.dmaStart (s : State) (e c : Nat) : State :=
  if s.dmaChannel e = some c then s.ignoreWrite (dmaBase e) (R.DMA_CH_CTRL e c - dmaBase e) 0
  else s.setDma e { s.dmaOf e with starts := setBit (s.dmaOf e).starts c true }

/-- DMA_CH_START (R392). -/
def execDmaChStart (t e c : Nat) (s : State) : Result := .next ((s.at t).dmaStart (e % 8) (c % 8))

/-- Channel c of engine e is ready: enabled and with a start request, of an engine the image has (R59, R392). -/
def State.dmaReady (s : State) (e c : Nat) : Bool :=
  s.enginePresent e && s.on (F.DMA_CH_CTRL.enable e c) && bit (s.dmaOf e).starts c

/-- The ready channel of highest priority, the lowest-numbered at equal priority (R392). -/
def State.dmaPick (s : State) (e : Nat) : Option Nat :=
  ((List.range 8).filter (s.dmaReady e)).foldl (fun best c => match best with
    | none => some c
    | some b => if s.rd (F.DMA_CH_CTRL.priority e b) < s.rd (F.DMA_CH_CTRL.priority e c) then some c else some b) none

/-- Channel c starts its chain. -/
def State.dmaBegin (s : State) (e c : Nat) : State :=
  let d := s.dmaOf e
  let a := 32 * s.rd (F.DMA_CH_DESC.addr e c)
  let s := s.setDma e { d with starts := setBit d.starts c false, next := a, desc := none }
  let s := (s.set1 (F.DMA_STATUS.busy e)).wr (F.DMA_STATUS.channel e) c
  (s.set1 (F.DMA_CH_STATUS.running e c)).wr (F.DMA_CH_CUR.addr e c) (a / 32)

/-- DMA_CHANNEL_TAKE: with no channel running and no swap waiting (R392, R395); a hold stops the engine here, between channels (R244,
R405, R455). -/
def execDmaChannelTake (t e : Nat) (s : State) : Result :=
  let s := s.at t
  .next (if s.dmaHeld e || s.unitsHeld || s.on (F.DMA_STATUS.busy e) || s.on (F.DMA_STATUS.swap_pending e) then s
    else
      match s.dmaPick e with
      | none => s
      | some c => s.dmaBegin e c)

/-- The channel of engine e runs no longer. -/
def State.dmaIdle (s : State) (e c : Nat) : State :=
  let s := s.setDma e { s.dmaOf e with desc := none }
  (s.wr (F.DMA_STATUS.busy e) 0).wr (F.DMA_CH_STATUS.running e c) 0

/-- The engine halts on a failed access or check (R396). -/
def State.dmaHalt (s : State) (e c status addr : Nat) (write : Bool) (phase : Nat) : State :=
  let s := (s.dmaIdle e c).set1 (F.DMA_STATUS.halted e)
  let s := (s.wr (F.DMA_ERR_ADDR.addr e) addr).wr (F.DMA_ERR_INFO.status e) status
  let s := ((s.wr (F.DMA_ERR_INFO.write e) (b2n write)).wr (F.DMA_ERR_INFO.phase e) phase).wr (F.DMA_ERR_INFO.channel e) c
  let s := (s.wr (F.DMA_CH_STATUS.status e c) status).wr (F.DMA_CH_CTRL.enable e c) 0
  (s.setDma e { s.dmaOf e with starts := setBit (s.dmaOf e).starts c false }).raise (206 + e)

/-- The DMA map (R28): scene memory, core local memory through the window, Boot ROM, unit registers, head arrays. -/
inductive DmaPlace where
  | scene (off : Nat)
  | loc (k off : Nat)
  | rom (off : Nat)
  | rim
  | nowhere
  deriving DecidableEq, Repr

/-- Where n bytes at an address lie. -/
def dmaPlace (a n : Nat) : DmaPlace :=
  if 0x1000_0000 ≤ a ∧ a + n ≤ 0x2000_0000 then .scene (a - 0x1000_0000)
  else if 0x6000_0000 ≤ a ∧ a + n ≤ 0x6040_0000 then .loc ((a - 0x6000_0000) / 0x2_0000) ((a - 0x6000_0000) % 0x2_0000)
  else if 0xF000_0000 ≤ a ∧ a + n ≤ 0xF002_0000 then .rom (a - 0xF000_0000)
  else if 0x4000_0000 ≤ a ∧ a + n ≤ 0x4130_0000 then .rim
  else .nowhere

/-- Words of a descriptor's bytes. -/
def descWords (b : List Byte) : List Nat := (List.range 8).map fun i => leAt b (4 * i) 4

/-- Fields of a descriptor (R390). -/
structure DmaDesc where
  last : Bool
  irq : Bool
  confirm : Bool
  srcFixed : Bool
  dstFixed : Bool
  srcW : Nat
  dstW : Nat
  src : Nat
  dst : Nat
  len : Nat
  next : Nat
  deriving DecidableEq, Repr

/-- Read the fields. -/
def dmaDesc (w : List Nat) : DmaDesc :=
  let c := w.getD 0 0
  { last := bit c 31, irq := bit c 30, confirm := bit c 29, srcFixed := bit c 28, dstFixed := bit c 27,
    srcW := 2 ^ bits c 26 25, dstW := 2 ^ bits c 24 23, src := w.getD 1 0, dst := w.getD 2 0,
    len := bits (w.getD 3 0) 23 0, next := bits (w.getD 4 0) 31 5 * 32 }

/-- Reserved bits are 0 and the length fits (R390). -/
def descWhole (w : List Nat) (d : DmaDesc) : Bool :=
  bits (w.getD 0 0) 22 0 == 0 && bits (w.getD 3 0) 31 24 == 0 && bits (w.getD 4 0) 4 0 == 0 && w.getD 6 0 == 0
    && w.getD 7 0 == 0 && decide (1 ≤ d.len) && d.len % d.srcW == 0 && d.len % d.dstW == 0

/-- The element address is a multiple of its width, and 4 bytes wide in registers and head arrays (R391). -/
def elemFits (a w : Nat) : Bool := a % w == 0 && (dmaPlace a w != .rim || w == 4)

/-- Every scene byte from lo to hi lies in a permitted region; `n` bounds the number of regions crossed. -/
def State.dmaPermits (s : State) (e lo hi : Nat) : Nat → Bool
  | 0 => decide (hi ≤ lo)
  | n + 1 =>
    if hi ≤ lo then true
    else
      match s.hub.regions.findIdx? (·.holds lo) with
      | none => false
      | some r =>
        match s.hub.regions[r]? with
        | none => false
        | some g => bit (s.rd64 (R.DMA_PERMIT e)) r && s.dmaPermits e (g.base + g.size) hi n

/-- Destination bytes in scene memory lie in regions set in DMA_PERMIT (R396). -/
def State.dmaAllowed (s : State) (e : Nat) (d : DmaDesc) : Bool :=
  let hi := d.dst + (if d.dstFixed then d.dstW else d.len)
  let lo := max d.dst 0x1000_0000
  let hi := min hi 0x2000_0000
  s.dmaPermits e (lo - 0x1000_0000) (hi - 0x1000_0000) (s.hub.regions.length + 1)

/-- The check of a descriptor at its fetch: the status of the first failure (R396). -/
def State.descFault (s : State) (e : Nat) (w : List Nat) : Option Nat :=
  let d := dmaDesc w
  if !descWhole w d then some 5
  else if !elemFits d.src d.srcW || !elemFits d.dst d.dstW then some 2
  else if !s.dmaAllowed e d then some 4
  else none

/-- Bytes of the descriptor at an address: in scene memory, or in local data memory through the window (R390). -/
def State.readDesc (s : State) (e a : Nat) : Except Nat (List Byte) × State :=
  match dmaPlace a 32 with
  | .scene off =>
    let (r, s) := s.memRead (dmaReq e) off 32
    (if r.bad.isEmpty then .ok r.bytes else .error 3, s)
  | .loc k off => (if 0x1_0000 ≤ off then .ok (s.localRead k off 32) else .error 1, s)
  | _ => (.error 1, s)

/-- DMA_DESCRIPTOR_FETCH: the descriptor is read whole and checked, and the engine halts on a failure (R390, R391, R396). -/
def execDmaDescriptorFetch (t e : Nat) (s : State) : Result :=
  let s := s.at t
  .next (match s.dmaChannel e with
    | none => s
    | some c =>
      if s.dmaHeld e || (s.dmaOf e).desc.isSome then s
      else
        let a := (s.dmaOf e).next
        let s := s.wr (F.DMA_CH_CUR.addr e c) (a / 32)
        match s.readDesc e a with
        | (.error st, s) => s.dmaHalt e c st a false 0
        | (.ok b, s) =>
          let w := descWords b
          match s.descFault e w with
          | some st => s.dmaHalt e c st a false 0
          | none => (s.setDma e { s.dmaOf e with desc := some w }).wr (F.DMA_CH_STATUS.remain e c) (dmaDesc w).len)

/-- A write of 1 to resume ends the halt (R396). -/
def State.dmaResume (s : State) (e : Nat) : State := s.wr (F.DMA_STATUS.halted e) 0

/-- DMA_RESUME (R396). -/
def execDmaResume (t e : Nat) (s : State) : Result := .next ((s.at t).dmaResume (e % 8))

/-! ## Disable (R395) -/

/-- Write word 5 of the descriptor at an address. -/
def State.dmaWord5 (s : State) (e a v : Nat) : State :=
  match dmaPlace (a + 20) 4 with
  | .scene off => s.memWrite (dmaReq e) off (natLe 4 v)
  | .loc k off => s.portWrite k off (natLe 4 v)
  | _ => s

/-- The running channel stops: word 5 with done 0 and STOPPED, its enable and start request cleared (R395). -/
def State.dmaStop (s : State) (e c : Nat) : State :=
  let s := s.dmaWord5 e (32 * s.rd (F.DMA_CH_CUR.addr e c)) 6
  let s := (s.wr (F.DMA_CH_STATUS.status e c) 6).wr (F.DMA_CH_CTRL.enable e c) 0
  (s.setDma e { s.dmaOf e with starts := setBit (s.dmaOf e).starts c false }).dmaIdle e c

end Sys2Proof.Machine
end

