-- ==== Sys2Proof/Machine/Ethernet.lean ====
section
/-! DEFINITION. Ethernet ports, PRP, PTP and the Odometer (13: R264–R282). What a delivered frame does is its unit's own
command. Frames are given from the destination address to the byte before the FCS. -/

namespace Sys2Proof.Machine

/-! ## Addresses and checks (R266) -/

/-- MAC address of a port, first wire byte most significant (ETH_ADDR). -/
def State.portMac (s : State) (p : Nat) : Nat :=
  beNat (natLe 4 (s.reg (R.ETH_ADDR p 0)).toNat ++ natLe 2 (s.reg (R.ETH_ADDR p 1)).toNat)

/-- IPv4 address, first octet most significant, and the 16 bytes of the IPv6 address. -/
def State.portIp4 (s : State) (p : Nat) : Nat := beNat (natLe 4 (s.reg (R.ETH_ADDR p 2)).toNat)
def State.portIp6 (s : State) (p : Nat) : List Byte := (List.range 4).flatMap fun k => natLe 4 (s.reg (R.ETH_ADDR p (3 + k))).toNat

/-- UDP ports of the Vertik engine, the Peloton and the mirror streams. -/
def State.vertikPort (s : State) (p : Nat) : Nat := bits (s.reg (R.ETH_ADDR p 7)).toNat 15 0
def State.pelotonPort (s : State) (p : Nat) : Nat := bits (s.reg (R.ETH_ADDR p 7)).toNat 31 16

/-- An entry of ETH_MCAST names the address. -/
def State.mcast (s : State) (p mac : Nat) : Bool :=
  (List.range 512).any fun i =>
    let v := s.rd64 (R.ETH_MCAST p i)
    bit v 63 && beNat (natLe 6 v) == mac

/-- Solicited-node MAC of the port's IPv6 address. -/
def State.solicited (s : State) (p : Nat) : Nat := 0x3333_FF00_0000 + beAt (s.portIp6 p) 13 3

/-- A parsed frame: destination, source, VLAN tag if any, doubly tagged, ethertype, payload. -/
structure EthFrame where
  dst : Nat
  src : Nat
  tag : Option Nat
  twoTags : Bool
  type : Nat
  payload : List Byte
  deriving DecidableEq, Repr

/-- Split a frame. -/
def parseFrame (b : List Byte) : EthFrame :=
  let t := beAt b 12 2
  if t = 0x8100 then
    let t2 := beAt b 16 2
    { dst := beAt b 0 6, src := beAt b 6 6, tag := some (beAt b 14 2 % 4096), twoTags := t2 == 0x8100 || t2 == 0x88A8,
      type := t2, payload := b.drop 18 }
  else { dst := beAt b 0 6, src := beAt b 6 6, tag := none, twoTags := t == 0x88A8, type := t, payload := b.drop 14 }

/-- Step 3: the destination is one the port takes. -/
def State.addressOk (s : State) (p : Nat) (f : EthFrame) : Bool :=
  f.dst == s.portMac p || (f.dst == 0xFFFF_FFFF_FFFF && f.type == 0x0806) || s.mcast p f.dst
    || f.dst == 0x011B_1900_0000 || f.dst == 0x0180_C200_000E || f.dst == 0x0115_4E00_0100 || f.dst == s.solicited p

/-- Step 4: the VLAN rule; VID 0 counts as untagged. -/
def State.vlanOk (s : State) (p : Nat) (f : EthFrame) : Bool :=
  if f.twoTags then false
  else
    match f.tag with
    | none => s.on (F.ETH_MODE.untagged_en p)
    | some v =>
      if v = 0 then s.on (F.ETH_MODE.untagged_en p)
      else (List.range 64).any fun i => s.on (F.ETH_VLAN.valid p i) && s.rd (F.ETH_VLAN.vid p i) == v

/-- Ones' complement sum of 16-bit words. -/
def onesSum : List Byte → Nat → Nat
  | a :: b :: bs, n => let m := n + 256 * a.toNat + b.toNat; onesSum bs (m % 65536 + m / 65536)
  | [a], n => let m := n + 256 * a.toNat; m % 65536 + m / 65536
  | [], n => n

/-- Where a frame goes (R266). -/
inductive Deliver where
  | goose | sv | ptp | supervision | arp | vertik | peloton | mirror | echo | drop (reason : Nat)
  deriving DecidableEq, Repr

/-- A UDP datagram: by its destination port; a wrong checksum is an IP discard. -/
def State.udpTo (s : State) (p : Nat) (pseudo : Nat) (u : List Byte) : Deliver :=
  let len := beAt u 4 2
  let sum := onesSum (u.take len) pseudo
  if len < 8 ∨ u.length < len ∨ (beAt u 6 2 ≠ 0 ∧ sum ≠ 0xFFFF) then .drop 5
  else
    let d := beAt u 2 2
    if d = s.vertikPort p then .vertik
    else if d = s.pelotonPort p then .peloton
    else if d = s.rd (F.ETH_MIRROR_PORT.mirror_port p) then .mirror
    else .drop 5

/-- An IPv4 packet: no options, no fragments, header checksum right. -/
def State.ip4To (s : State) (p : Nat) (b : List Byte) : Deliver :=
  let len := beAt b 2 2
  if beAt b 0 1 ≠ 0x45 ∨ beAt b 6 2 % 0x4000 ≠ 0 ∨ onesSum (b.take 20) 0 ≠ 0xFFFF ∨ beAt b 16 4 ≠ s.portIp4 p
      ∨ len < 20 ∨ b.length < len then .drop 5
  else
    let body := (b.take len).drop 20
    let proto := beAt b 9 1
    if proto = 17 then s.udpTo p (onesSum (slice b 12 8) (17 + (len - 20))) body
    else if proto = 1 ∧ beAt body 0 1 = 8 then .echo
    else .drop 5

/-- An IPv6 packet: no extension headers. -/
def State.ip6To (s : State) (p : Nat) (b : List Byte) : Deliver :=
  let len := beAt b 4 2
  if beAt b 0 1 / 16 ≠ 6 ∨ b.length < 40 + len then .drop 5
  else
    let body := (b.drop 40).take len
    let next := beAt b 6 1
    let pseudo := onesSum (slice b 8 32) (next + len)
    let mine := slice b 24 16 == s.portIp6 p
    if next = 17 then
      if mine = true ∧ beAt body 6 2 ≠ 0 then s.udpTo p pseudo body else .drop 5
    else if next = 58 ∧ onesSum body pseudo = 0xFFFF then
      if mine = true ∧ beAt body 0 1 = 128 then .echo
      else if beAt body 0 1 = 135 ∧ slice body 8 16 = s.portIp6 p then .echo
      else .drop 5
    else .drop 5

/-- Step 6: ethertype, protocol and port. -/
def State.classify (s : State) (p : Nat) (f : EthFrame) : Deliver :=
  if f.type = 0x88B8 then .goose
  else if f.type = 0x88BA then .sv
  else if f.type = 0x88F7 then .ptp
  else if f.type = 0x88FB then .supervision
  else if f.type = 0x0806 then
    if beAt f.payload 6 2 = 1 ∧ beAt f.payload 24 4 = s.portIp4 p then .arp else .drop 4
  else if f.type = 0x0800 then s.ip4To p f.payload
  else if f.type = 0x86DD then s.ip6To p f.payload
  else .drop 4

/-! ## PRP (R267, R268) -/

/-- The trailer of a frame: sequence number and LAN identifier. -/
def prpTrailer (b : List Byte) : Option (Nat × Nat) :=
  let o := b.length - 6
  let lan := beAt b (o + 2) 2 / 4096
  if b.length < 20 ∨ beAt b (o + 4) 2 ≠ 0x88FB ∨ (lan ≠ 0xA ∧ lan ≠ 0xB) then none else some (beAt b o 2, lan)

/-- The duplicate discard: whether the frame is a duplicate, and the table after it, in which an entry lives 400 ms after its last
frame. -/
def State.prpCheck (s : State) (p : Nat) (src : Nat) (b : List Byte) : Bool × State :=
  if !s.on (F.ETH_MODE.prp p) then (false, s)
  else
    match prpTrailer b with
    | none => (false, s)
    | some (q, lan) =>
      let s := { s with eth.prp := s.eth.prp.filter fun (e : PrpEntry) => decide (s.now < usRoot 400_000 + e.last) }
      if lan ≠ 0xA + p then (false, s.satInc (F.ETH_PRP.wrong_lan p))
      else
        match s.eth.prp.find? (·.mac == src) with
        | some e =>
          let dup := e.seqs.contains q
          let e' : PrpEntry := { e with last := s.now, seqs := if dup then e.seqs else (q :: e.seqs).take 128 }
          (dup, { s with eth.prp := s.eth.prp.map fun (x : PrpEntry) => if x.mac = src then e' else x })
        | none =>
          if 2048 ≤ s.eth.prp.length then (false, s.satInc (F.ETH_PRP.table_full p))
          else (false, { s with eth.prp := s.eth.prp ++ [(⟨src, s.now, [q]⟩ : PrpEntry)] })

/-- PRP_ENTRY_EXPIRE: 400 ms after its last frame (R268). -/
def execPrpEntryExpire (t mac : Nat) (s : State) : Result :=
  let s := s.at t
  .next { s with eth.prp := s.eth.prp.filter fun (e : PrpEntry) => !(e.mac == mac && decide (usRoot 400_000 + e.last ≤ s.now)) }

/-- PRP_SUPERVISION_SEND: every 2 s on both ports, with one sequence number; a Shadow sends none (R228, R267). -/
def execPrpSupervisionSend (t : Nat) (s : State) : Result :=
  let s := s.at t
  .next (if s.on (F.ETH_MODE.prp 0) ∧ s.isShadow = false ∧ usRoot 2_000_000 + s.eth.supervised ≤ s.now then
      { s with eth.supervised := s.now }.sendFrame 1 0 []
    else s)

/-! ## Receiving (R266) -/

/-- Discard with a reason. -/
def State.rxDrop (s : State) (p r : Nat) : State := s.satInc (F.ETH_RX_DROP.count p r)

/-- An echo or a neighbour solicitation is answered, at most 100 per second and port. -/
def State.answerEcho (s : State) (p : Nat) (b : List Byte) : State :=
  let sec := s.now / 5_940_000_000
  let a := mget (fun _ => (0, 0)) s.eth.answers p
  let n := if a.1 = sec then a.2 else 0
  if 100 ≤ n then s.rxDrop p 5
  else { s with eth.answers := mset (fun _ => (0, 0)) s.eth.answers p (sec, n + 1) }.sendFrame 3 p (b.map BitVec.toNat)

/-- Steps 6 and 7: the frame reaches its unit, is answered, or is discarded; a Shadow sends only peer-delay messages (R228). -/
def State.rxDeliver (s : State) (p : Nat) (f : EthFrame) (b : List Byte) (room : Bool) : State :=
  match s.classify p f with
  | .drop r => s.rxDrop p r
  | d =>
    if !room then s.rxDrop p 7
    else
      match d with
      | .arp => if s.isShadow then s else s.sendFrame 2 p (b.map BitVec.toNat)
      | .echo => if s.isShadow then s else s.answerEcho p b
      | _ => s

/-- A frame at port p passes the checks in order (R266). -/
def State.rxFrame (s : State) (p : Nat) (codeword fcs room : Bool) (b : List Byte) : State :=
  let s := if codeword then s.set1 (F.ETH_STATUS.fec_uncorr p) else s
  let f := parseFrame b
  let len := b.length + 4
  if codeword || !fcs then s.rxDrop p 0
  else if len < 64 ∨ s.rd (F.ETH_CTRL.mtu p) < len then s.rxDrop p 1
  else if !s.addressOk p f then s.rxDrop p 2
  else if !s.vlanOk p f then s.rxDrop p 3
  else
    let (dup, s) := if f.type = 0x88F7 then (false, s) else s.prpCheck p f.src b
    if dup then s.rxDrop p 6 else s.rxDeliver p f b room

/-- FRAME_RECEIVE: a frame at port p, unless the image has not the port (R59); `codeword` an uncorrectable RS-FEC codeword, `fcs` a
correct FCS, `room` a place in the receive buffer (R266). -/
def execFrameReceive (t p : Nat) (codeword fcs room : Bool) (b : List Byte) (s : State) : Result :=
  let s := s.at t
  .next (if s.portPresent p then s.rxFrame p codeword fcs room b else s)

/-- ETH_LINK_CHANGE (R59, R264). -/
def execEthLinkChange (t p : Nat) (up : Bool) (s : State) : Result :=
  let s := s.at t
  .next (if s.portPresent p = false ∨ s.on (F.ETH_STATUS.link_up p) = up then s
    else (s.wr (F.ETH_STATUS.link_up p) (b2n up)).set1 (F.ETH_STATUS.link_change p))

/-! ## PTP (R270–R272, R276–R278, R281) -/

/-- Base of the Odometer's block. -/
def odoBase : Nat := 0x4002_0000

/-- PTP state of a port. -/
def State.ptpState (s : State) (p v : Nat) (followed : Bool) : State :=
  if s.rd (F.ETH_STATUS.ptp_state p) = v ∧ s.on (F.ETH_STATUS.followed p) = followed then s
  else ((s.wr (F.ETH_STATUS.ptp_state p) v).wr (F.ETH_STATUS.followed p) (b2n followed)).set1 (F.ETH_STATUS.ptp_change p)

/-- The Odometer follows port p: the other port is passive when it was followed or qualified (R271). -/
def State.followPort (s : State) (p : Nat) : State :=
  let q := 1 - p
  let s := if s.on (F.ETH_STATUS.followed q) then s.ptpState q 4 false else s
  (s.ptpState p 3 true).wr F.ODO_STATUS.port p

/-- No grandmaster announces a UTC offset: the Groupset's is in force (R281). -/
def State.ownUtc (s : State) : State :=
  if s.on F.ODO_UTC.from_gm then (s.wr F.ODO_UTC.from_gm 0).wr F.ODO_UTC.utc_offset s.eth.utc else s

/-- Grandmaster data in the registers (R270, R281). -/
def State.takeMaster (s : State) (y : PtpSync) : State :=
  let s := if s.rd64 R.ODO_GM = y.gm then s else (s.wr64 R.ODO_GM y.gm).set1 F.ODO_STATUS.gm_change
  let s := s.wr F.ODO_GM_INACC.ns y.inaccuracy
  let s := (s.wr F.ODO_UTC.leap61 (b2n y.leap61)).wr F.ODO_UTC.leap59 (b2n y.leap59)
  match y.utc with
  | some u => (s.set1 F.ODO_UTC.from_gm).wr F.ODO_UTC.utc_offset (wrap 16 u)
  | none => s.ownUtc

/-- The measured offset is reported; 16 Syncs within 50 ns converge (R277). -/
def State.measure (s : State) (offset : Int) : State :=
  let s := s.wr F.ODO_OFFSET.offset (wrap 32 (clamp (-(2 ^ 31)) (2 ^ 31 - 1) offset))
  let good := if offset.natAbs ≤ 50 then s.eth.good + 1 else 0
  { s with eth.good := min good 16 }.wr F.ODO_STATUS.converged (b2n (decide (16 ≤ good)))

/-- Steering: base and slew within their limits; at ±200 ppm it saturates (R276). -/
def State.steer (s : State) (base slew : Int) : State :=
  let lim : Int := 1000 * (s.rd F.ODO_SERVO.slew_max : Int)
  let total := base + clamp (-lim) lim slew
  let s := s.wr F.ODO_FREQ.ppb (wrap 32 (clamp (-200_000) 200_000 total))
  if 200_000 ≤ total.natAbs then (s.set1 F.ODO_STATUS.saturated).raise 205 else s

/-- A Sync of the followed port after release: steered away, or the grandmaster is rejected beyond 1 s (R276, R278). -/
def State.discipline (s : State) (y : PtpSync) : State :=
  if 1_000_000_000 < y.offset.natAbs then ((s.set1 F.ODO_STATUS.gm_rejected).holdover.timeState 1).raise 205
  else
    let s := { s.noteLock with eth.base := some (s.now, y.base) }
    ((s.wr F.ODO_STATUS.gm_rejected 0).timeState 0).steer y.base y.slew

/-- A Shadow in lockstep, or a joiner, measures and does not steer by its ports (R280). -/
def State.twinSteers (s : State) : Bool := (s.locked && s.isShadow) || s.tandem.joining

/-- A Sync of a qualified master at port p (R271, R276, R278). -/
def State.syncAt (s : State) (p : Nat) (y : PtpSync) : State :=
  let none_ := !s.on (F.ETH_STATUS.followed 0) && !s.on (F.ETH_STATUS.followed 1)
  let s := if y.better || none_ then s.followPort p else s
  if !s.on (F.ETH_STATUS.followed p) then s.ptpState p 4 false
  else
    let s := (s.takeMaster y).measure y.offset
    if s.on F.ODO_STATUS.released && !s.twinSteers then s.discipline y else s

/-- PTP_SYNC: at a port the image has (R59, R271). -/
def execPtpSync (t : Nat) (y : PtpSync) (s : State) : Result :=
  let s := s.at t
  .next (if s.portPresent (y.port % 2) then s.syncAt (y.port % 2) y else s)

/-- Counts after a step to a target: a whole multiple of 2,048 root cycles from c (R275). -/
def stepTo (c target : Nat) : Nat :=
  let d : Int := (target : Int) - c
  let k := (d + 1024).fdiv 2048
  ((c : Int) + 2048 * k).toNat

/-- The count steps at the next slot-round boundary, and the schedule is released (R274, R275). -/
def State.release (s : State) (target state : Nat) : State :=
  let s := { s with now := stepTo (2048 * ceilDiv s.now 2048) target }
  ((s.set1 F.ODO_STATUS.released).set1 F.ODO_STATUS.kick_valid).timeState state

/-- FIRST_LOCK: the grandmaster's time as a root count (R275). -/
def execFirstLock (t target : Nat) (s : State) : Result :=
  let s := s.at t
  .next (if s.on F.ODO_STATUS.released then s else s.release target 0)

/-- The write of ODO_SET_HI with the whole value in ns (R275). -/
def State.odoSet (s : State) (ns : Nat) : State :=
  if s.on F.ODO_STATUS.released then s.ignoreWrite odoBase 0x14 0
  else (s.wr64 R.ODO_SET ns).release (ceilDiv (297 * ns) 50) 2

/-- ODO_SET (R275). -/
def execOdoSet (t ns : Nat) (s : State) : Result := .next ((s.at t).odoSet ns)

/-- A write of ODO_CTRL.forget (R278). -/
def State.odoForget (s : State) : State := s.wr F.ODO_STATUS.kick_valid 0

/-- ODO_FORGET (R278). -/
def execOdoForget (t : Nat) (s : State) : Result := .next (s.at t).odoForget

/-- A write of ODO_CTRL.snap at root edge `now` (R282). -/
def State.odoSnap (s : State) : State :=
  let ns := nsOf s.now
  let s := (s.wr64 R.ODO_SNAP_ROOT s.now).wr64 R.ODO_SNAP_NS ns
  (s.wr64 R.ODO_SNAP_SEC (ns / 1_000_000_000 % 2 ^ 48)).wr F.ODO_SNAP_SUB.nanoseconds (ns % 1_000_000_000)

/-- ODO_SNAP (R282). -/
def execOdoSnap (t : Nat) (s : State) : Result := .next (s.at t).odoSnap

/-- The UTC offset after the announced leap second, if one is announced (R281). -/
def State.leapOffset (s : State) : Option Int :=
  let o := signed 16 (s.rd F.ODO_UTC.utc_offset)
  if s.on F.ODO_UTC.leap61 then some (o + 1) else if s.on F.ODO_UTC.leap59 then some (o - 1) else none

/-- The present root edge begins the UTC day by the offset o (R281). -/
def State.dayBegins (s : State) (o : Int) : Bool :=
  s.now % 5_940_000_000 == 0 && (((s.now / 5_940_000_000 : Nat) : Int) - o) % 86400 == 0

/-- LEAP_SECOND: at the end of the announced UTC day (R281). -/
def execLeapSecond (t : Nat) (s : State) : Result :=
  let s := s.at t
  .next (match s.leapOffset with
    | none => s
    | some o => if s.dayBegins o then ((s.wr F.ODO_UTC.utc_offset (wrap 16 o)).wr F.ODO_UTC.leap61 0).wr F.ODO_UTC.leap59 0 else s)

/-- ANNOUNCE_TIMEOUT: the followed port misses 3 intervals; `other` says that the other port is qualified (R271). -/
def execAnnounceTimeout (t p : Nat) (other : Bool) (s : State) : Result :=
  let s := s.at t
  .next (if !s.on (F.ETH_STATUS.followed p) then s
    else
      let s := s.ptpState p 1 false
      if other then s.followPort (1 - p)
      else
        ({ s with eth.good := 0 }.wr F.ODO_STATUS.converged 0).holdover.ownUtc)

/-- Source address of peer-delay messages: a Shadow's is the factory MAC of the port (R228). -/
def State.pdelaySource (s : State) (p : Nat) : Nat := if s.isShadow then (Config.factoryMac p).toNat else s.portMac p

/-- The measured delay of a port with its asymmetry (R272). -/
def State.pdelayDone (s : State) (p : Nat) (d : Int) : State :=
  s.wr (F.ETH_PTP_DELAY.delay p) (wrap 32 (d + signed 32 (s.rd (F.ETH_PTP_ASYM.asym p))))

/-- PDELAY_REQ_SEND: a request leaves; `delay` is what its answer then measures in ps (R59, R270, R272). -/
def execPdelayReqSend (t p : Nat) (delay : Option Int) (s : State) : Result :=
  let s := s.at t
  .next (if s.portPresent p then
      let s := s.emit (.message 13 4 [p, s.pdelaySource p])
      match delay with
      | none => s
      | some d => s.pdelayDone p d
    else s)

/-- PDELAY_REQ_RECEIVE: answered two-step (R59, R270). -/
def execPdelayReqReceive (t p : Nat) (s : State) : Result :=
  let s := s.at t
  let m := [p, s.pdelaySource p, s.now]
  .next (if s.portPresent p then (s.emit (.message 13 5 m)).emit (.message 13 6 m) else s)

end Sys2Proof.Machine
end

