-- ==== Sys2Proof/Machine/Timers.lean ====
section
/-! DEFINITION. Timer channels and field lines (19: R372–R389). Their register reads are in Rim. -/

namespace Sys2Proof.Machine

/-! ## Timer channels (R372–R376, R379) -/

/-- Timer channel ch. -/
def State.timer (s : State) (ch : Nat) : Timer := mget (fun _ => {}) s.field.timers ch
def State.setTimer (s : State) (ch : Nat) (x : Timer) : State :=
  { s with field.timers := mset (fun _ => {}) s.field.timers ch x }

/-- Tick period of the ROOT source in root cycles (R373). -/
def State.tickPeriod (s : State) (ch : Nat) : Nat := 6 * (s.rd (F.TMR_CTRL.div ch) + 1)

/-- Ticks of a channel in (a, b]: ROOT and NS ones; those of CHAIN are counted as they fall (R373). -/
def State.ticks (s : State) (ch a b : Nat) : Nat :=
  match s.rd (F.TMR_CTRL.source ch) with
  | 0 => b / s.tickPeriod ch - a / s.tickPeriod ch
  | 1 => nsOf b - nsOf a
  | _ => 0

/-- The count at this moment (R372, R374). -/
def State.timerCount (s : State) (ch : Nat) : Nat :=
  ((s.timer ch).value + s.ticks ch (s.timer ch).since s.now) % 2 ^ 64

/-- A tick of the channel falls at this moment. -/
def State.tickNow (s : State) (ch : Nat) : Bool :=
  match s.rd (F.TMR_CTRL.source ch) with
  | 0 => s.now % s.tickPeriod ch == 0
  | 1 => decide (0 < s.now ∧ nsOf s.now ≠ nsOf (s.now - 1))
  | 2 => (s.timer (ch - 1)).matched == some s.now
  | _ => false

/-- The channel's compare is met at this tick: the count has passed it as a signed number, and it landed before (R375). -/
def State.timerDue (s : State) (ch : Nat) : Bool :=
  s.on (F.TMR_CTRL.cmp_en ch) && s.tickNow ch && decide ((s.timer ch).landed < s.now) && (s.timer ch).matched != some s.now
    && decide (0 ≤ signed 64 (s.timerCount ch + 2 ^ 64 - s.rd64 (R.TMR_COMPARE ch)))

/-- The timer source of every line that names the channel toggles (R380). -/
def State.toggleLines (s : State) (ch : Nat) : State :=
  (List.range 64).foldl (fun s n =>
    if s.rd (F.FL_CFG.timer n) = ch then { s with field.toggle := setBit s.field.toggle n (!bit s.field.toggle n) } else s) s

/-- Channel ch + 1 ticks when it is chained (R373). -/
def State.chainTick (s : State) (ch : Nat) : State :=
  if ch % 2 = 0 ∧ s.rd (F.TMR_CTRL.source (ch + 1)) = 2 then
    s.setTimer (ch + 1) { s.timer (ch + 1) with value := ((s.timer (ch + 1)).value + 1) % 2 ^ 64 }
  else s

/-- A match (R376): match or overrun is set, a periodic compare advances, sources toggle. -/
def State.timerMatch (s : State) (ch : Nat) : State :=
  let s := if s.on (F.TMR_STATUS.hit ch) then s.set1 (F.TMR_STATUS.overrun ch) else s.set1 (F.TMR_STATUS.hit ch)
  let s := if s.on (F.TMR_CTRL.reload ch) then
      s.wr64 (R.TMR_COMPARE ch) ((s.rd64 (R.TMR_COMPARE ch) + s.rd64 (R.TMR_PERIOD ch)) % 2 ^ 64)
    else s
  let s := s.setTimer ch { s.timer ch with matched := some s.now }
  (s.toggleLines ch).chainTick ch

/-- TIMER_MATCH: at a tick edge of channel ch; in Park only channel 31 is evaluated (R372, R375, R376). -/
def execTimerMatch (t ch : Nat) (s : State) : Result :=
  let s := s.at t
  .next (if decide (ch < 32) && (s.rd F.CPR_STATUS.power != 2 || ch == 31) && s.timerDue ch then s.timerMatch ch else s)

/-- A write of the count: it reads the written value and first increments at the next tick (R374). -/
def State.setCount (s : State) (ch v : Nat) : State := s.setTimer ch { s.timer ch with value := v % 2 ^ 64, since := s.now }

/-- TMR_COUNT_WRITE: the _HI write; `v` both words (R36, R374). -/
def execTmrCountWrite (t ch v : Nat) (s : State) : Result := .next ((s.at t).setCount (ch % 32) v)

/-- A write of the compare, first tested at the first tick after it lands (R375). -/
def State.setCompare (s : State) (ch v : Nat) : State :=
  (s.wr64 (R.TMR_COMPARE ch) v).setTimer ch { s.timer ch with landed := s.now }

/-- TMR_COMPARE_WRITE: the _HI write; `v` both words (R36, R375). -/
def execTmrCompareWrite (t ch v : Nat) (s : State) : Result := .next ((s.at t).setCompare (ch % 32) (v % 2 ^ 64))

/-- A write of TMRt_CTRL keeps the count it has at landing (R374). -/
def State.setTimerCtrl (s : State) (ch : Nat) (w : Word) : State :=
  let c := s.timerCount ch
  (s.setReg (R.TMR_CTRL ch) w).setTimer ch { s.timer ch with value := c, since := s.now }

/-- A capture of the named channels' counts and the time (R379). -/
def State.timerSnap (s : State) (channels : Nat) : State :=
  let s := (setBitsOf 32 channels).foldl (fun s ch => s.wr64 (R.TMR_CH_SNAP ch) (s.timerCount ch)) s
  s.wr64 R.TMR_SNAP_TIME (nsOf s.now)

/-- TMR_SNAP (R379). -/
def execTmrSnap (t channels : Nat) (s : State) : Result := .next ((s.at t).timerSnap channels)

/-! ## Field lines (R380–R388) -/

/-- The line is in the high impedance of a change of direction. -/
def State.lineChanging (s : State) (n : Nat) : Bool := mget (fun _ => 0) s.field.changing n != 0

/-- The line is an output in effect. -/
def State.lineOut (s : State) (n : Nat) : Bool := bit s.field.dirNow n && !s.lineChanging n

/-- The OR of the line's enabled sources, inverted after it (R380). -/
def State.lineLevel (s : State) (n : Nat) : Bool :=
  let v := (s.on (F.FL_CFG.src_reg n) && bit (s.rd64 R.FL_OUT) n) || (s.on (F.FL_CFG.src_der n) && bit s.der.lines n)
    || (s.on (F.FL_CFG.src_timer n) && bit s.field.toggle n)
  v != s.on (F.FL_CFG.invert n)

/-- What the line's driver is to do at this edge: none is high impedance; an open-drain 1 is driven low (R380). -/
def State.lineDrive (s : State) (n : Nat) : Option Bool :=
  if !s.lineOut n then none
  else if s.on (F.FL_CFG.od n) then (if s.lineLevel n then some false else none)
  else some (s.lineLevel n)

/-- The keeper of line n is off: after a loss of power until the set is applied, after a short, and in a Stop (R386, R388, R414). -/
def State.keeperOff (s : State) (n : Nat) : Bool := !s.field.keeper || bit s.field.shorted n || s.clock.stopped

/-- Level of the ball: what the net outside sets, else what the pad latch drives, else what the keeper holds (R380); with the keeper
off it is open (log 122). -/
def State.ballLevel (s : State) (ext lvl n : Nat) : Bool :=
  if bit ext n then bit lvl n
  else (mget (fun _ => none) s.field.pad n).getD (if s.keeperOff n then Config.floatLevel s.now n else bit s.field.balls n)

/-- A mask of the lines that satisfy a test. -/
def lineMask (p : Nat → Bool) : Nat := (List.range 64).foldl (fun m n => setBit m n (p n)) 0

/-- Keep the sample last seen on line n, and how often it was seen in a row (R383). -/
def State.setFilter (s : State) (n : Nat) (x : Bool × Nat) : State :=
  { s with field.filter := mset (fun _ => (false, 0)) s.field.filter n x }

/-- The filter of line n takes a sample (R383); one that comes into use starts at the level it finds (R382). -/
def State.filterLine (s : State) (n : Nat) (b : Bool) : State :=
  if bit s.field.fresh n then
    ({ s with field.fresh := setBit s.field.fresh n false }.wr (F.FL_STATUS.level n) (b2n b)).setFilter n (b, 1)
  else
    let (l, c) := mget (fun _ => (false, 0)) s.field.filter n
    s.setFilter n (b, if l = b then c + 1 else 1)

/-- The filters of the inputs take the levels of a sample edge (R383). -/
def State.filterLines (s : State) (edge levels : Nat) : State :=
  let s := { s with field.edge := edge }
  (List.range 64).foldl (fun s n => if s.lineOut n || s.lineChanging n then s else s.filterLine n (bit levels n)) s

/-- A line whose dir was changed goes to high impedance for one sample period (R382). -/
def State.startDirChange (s : State) (n : Nat) : State :=
  if s.lineChanging n ∨ s.before.on (F.FL_CFG.dir n) = bit s.field.dirNow n then s
  else { s with field.changing := mset (fun _ => 0) s.field.changing n (samplePeriod + s.now) }

/-- A change of direction whose sample period has passed. -/
def State.dirDue (s : State) (n : Nat) : Bool :=
  let e := mget (fun _ => 0) s.field.changing n
  e != 0 && decide (e ≤ s.now)

/-- The new direction of line n takes effect when its change is due (R382). -/
def State.endDirChange (s : State) (n : Nat) : State :=
  if s.dirDue n then
    let out := !bit s.field.dirNow n
    { s with field.changing := mset (fun _ => 0) s.field.changing n 0, field.dirNow := setBit s.field.dirNow n out,
             field.fresh := setBit s.field.fresh n (!out) }
  else s

/-- Drive every pad at the edge, and show it in the status (R380, R386, R387): a Shadow, a stopped chip and a shorted driver
hold the pad at high impedance. -/
def State.drivePads (s : State) : State :=
  (List.range 64).foldl (fun s n =>
    let d := s.before.lineDrive n
    let quiet := s.isShadow || s.clock.stopped || bit s.field.shorted n
    let s := { s with field.pad := mset (fun _ => none) s.field.pad n (if quiet then none else d) }
    let s := s.wr (F.FL_STATUS.driven n) (b2n (d == some true))
    if s.lineOut n then s.wr (F.FL_STATUS.level n) (b2n (bit s.field.balls n)) else s) s

/-- The pads keep the latched drive: the chip is parked, or the set has not been applied since reset (R386). -/
def State.padsHeld (s : State) : Bool := s.rd F.CPR_STATUS.power == 2 || !s.field.applied

/-- FIELD_LINE_SAMPLE_EDGE: `ext` marks the nets that something outside sets, to the level in `lvl`; `twin` is the output levels the
Primary computes; a source change reaches a pin when it landed strictly before the edge (R228, R236, R380–R383). -/
def execFieldLineSampleEdge (t ext lvl twin : Nat) (s : State) : Result :=
  let s := s.at t
  .next (if s.now % samplePeriod ≠ 0 then s
    else
      let now := s.now
      let s := ((List.range 64).foldl State.endDirChange s).decideLines
      let balls := lineMask (s.ballLevel ext lvl)
      let s := { s with field.balls := balls }
      let s := if s.isPrimary then s.journalIn (.fieldLines now balls) else if s.locked then s else s.filterLines now balls
      if s.padsHeld then s
      else
        let s := (List.range 64).foldl State.startDirChange s
        let drive := lineMask fun n => s.lineOut n && s.before.lineLevel n
        let s := s.drivePads
        if s.locked && s.isShadow && drive != twin then s.divergeAlone else s)

/-- Show the oldest entry and the depth of a capture queue (R384, R385). -/
def State.setCaps (s : State) (n : Nat) (q : List (Nat × Bool)) : State :=
  let s := { s with field.caps := mset (fun _ => []) s.field.caps n q }
  let s := s.wr (F.FL_STATUS.depth n) q.length
  match q with
  | [] => s
  | e :: _ => s.wr64 (R.FL_CAP_TIME n) e.1

/-- A capture (R384): dropped when its queue is full. -/
def State.capture (s : State) (n time : Nat) (rising : Bool) : State :=
  let q := mget (fun _ => []) s.field.caps n
  if q.length < 8 then s.setCaps n (q ++ [(time, rising)])
  else (s.set1 (F.FL_STATUS.overflow n)).satInc (F.FL_STATUS.dropped n)

/-- FILTER_ACCEPT: a level seen at 10 × debounce + 1 consecutive edges is accepted, handed to the archive with the levels and the
time of the edge, and captured when its edge matches (R383, R384, R402; log 42). -/
def execFilterAccept (t n : Nat) (s : State) : Result :=
  let s := s.at t
  let need := 10 * s.rd (F.FL_CFG.debounce n) + 1
  let (b, c) := mget (fun _ => (false, 0)) s.field.filter n
  .next (if 64 ≤ n ∨ s.lineOut n ∨ s.lineChanging n ∨ s.on (F.FL_STATUS.level n) = b ∨ c < need then s
    else
      let edge := s.field.edge - samplePeriod * (c - need)
      let s := s.wr (F.FL_STATUS.level n) (b2n b)
      let levels := lineMask fun j => s.on (F.FL_STATUS.level j)
      let s := s.archiveInput 3 (nsOf s.now) (natLe 8 levels ++ natLe 8 (nsOf edge - 50))
      if bit (s.rd (F.FL_CFG.edges n)) (if b then 0 else 1) then s.capture n (nsOf edge - 50) b else s)

/-- DIRECTION_CHANGE_END: one sample period after the edge at which it began (R382). -/
def execDirectionChangeEnd (t n : Nat) (s : State) : Result := .next ((s.at t).endDirChange n)

/-- A driver that stayed in current limit for 1 ms (R388). -/
def State.shortLine (s : State) (n : Nat) : State :=
  ({ s with field.shorted := setBit s.field.shorted n true, field.pad := mset (fun _ => none) s.field.pad n none }.set1
    (F.FL_STATUS.short n)).raise 216

/-- OUTPUT_SHORT (R388); a change of direction ends the limit count (R389). -/
def execOutputShort (t n : Nat) (s : State) : Result :=
  let s := s.at t
  .next (if s.lineOut n && (mget (fun _ => none) s.field.pad n).isSome then s.shortLine n else s)

/-- SHORT_RETRY: at a whole 100 ms the driver tries again; `ok` when the try ends out of current limit (R388). -/
def execShortRetry (t n : Nat) (ok : Bool) (s : State) : Result :=
  let s := s.at t
  .next (if !bit s.field.shorted n ∨ 1_000_000 < nsOf s.now % 100_000_000 then s
    else if ok then
      let s := { s with field.shorted := setBit s.field.shorted n false }.wr (F.FL_STATUS.short n) 0
      if s.field.shorted = 0 then s.clearFault 216 else s
    else s.shortLine n)

/-- A read of FL_CAP_POP removes the oldest entry; with none left FL_CAP_TIME shows no stated value (R385, log 8). -/
def State.popCap (s : State) (n : Nat) : Word × State :=
  match mget (fun _ => []) s.field.caps n with
  | [] => (0#32, s)
  | e :: q =>
    let s := s.setCaps n q
    let s := if q.isEmpty then
        let (i, s) := s.draw
        let (j, s) := s.draw
        (s.setReg (R.FL_CAP_TIME n) (Config.freeWord i)).setReg (R.FL_CAP_TIME n + 4) (Config.freeWord j)
      else s
    (if e.2 then 0xC0000000#32 else 0x80000000#32, s)

end Sys2Proof.Machine
end

