-- ==== Sys2Proof/Machine/RimRead.lean ====
section
/-! DEFINITION. Reads over the Rim: what each register shows, what a read clears, and the reads of several masters that meet in
one Rim cycle (02: R31, R33, R37, R40; 19: R377, R378; and the register tables of every chapter). -/

namespace Sys2Proof.Machine

/-- Number of a master in the holding words of R378. -/
def masterIndex : Master → Nat
  | .dma e => e % 8
  | .core k => 8 + k % 32
  | .vertik => 40

/-- Address of a register's first word. -/
def RegHit.addr (r : RegHit) : Nat := r.base + r.spec.off + r.i1 * r.spec.st1 + (if r.spec.n2 ≤ 1 then 0 else r.i2 * r.spec.st2)

/-- The registers of R377 that the Rim reaches. -/
def listed64 (id : RegId) : Bool :=
  match id with
  | .TMR_COUNT | .BEAM_FRAME | .ODO_TIME | .BELL_TICK | .SB_SEQ | .DER_EVALS | .DER_ACTIONS | .CHAIN_SIGNED | .BLT_PIXELS => true
  | _ => false

/-- The 64 bits a wide register shows. -/
def State.wideValue (s : State) (r : RegHit) : Nat :=
  match r.spec.id with
  | .ODO_TIME => nsOf s.now
  | .BEAM_FRAME => ((s.posOf r.inst s.now).map (·.1)).getD 0
  | .BELL_TICK => s.now / tickPeriodBell
  | .TMR_COUNT => s.timerCount r.i1
  | .FL_OUT_SET | .FL_OUT_CLR => s.rd64 R.FL_OUT
  | .FL_LEVEL => lineMask fun n => s.on (F.FL_STATUS.level n)
  | .FL_SHORT => lineMask fun n => s.on (F.FL_STATUS.short n)
  | _ => s.rd64 r.addr

/-- The image in force names the Forerunner profile. -/
def State.imageForerunner (s : State) : Bool := imgFld (secRegs s.activeSections 1 0) F.GS_MODE_SUMMARY.profile == 1

/-- GS_MODE_SUMMARY.forced: head, Tandem, Peloton and profile axes (R26). -/
def State.forcedAxes (s : State) : Nat :=
  let solo := s.forcedSolo
  let refused := s.rd F.TANDEM_STATUS.state == 0 && s.rd F.TANDEM_STATUS.refusal == 1
  b2n (s.clock.recovery || s.power == 2) * 64 + b2n (s.gs.paired && (solo || s.power == 2 || refused)) * 32
    + b2n (solo && s.gs.pelotonRole != 0) * 16 + b2n (s.clock.recovery && s.imageForerunner) * 8

/-- Line and pixel of a head now (R167). -/
def State.beamPos (s : State) (h : Nat) : Word :=
  match s.posOf h s.now with
  | none => 0#32
  | some (_, y, x) => BitVec.ofNat 32 (y % 4096 * 2 ^ 16 + x % 8192)

/-- The state of the selected voice. -/
def State.voiceState (s : State) : Word :=
  let v := s.voice (s.rd F.BELL_VOICE_SEL.voice)
  BitVec.ofNat 32 (v.phase * 2 ^ 29 + v.cue % 512 * 2 ^ 16 + v.env.1 / v.env.2 / 2 % 65536)

/-- The word a 32-bit register shows; reading has no part in it (R447). -/
def State.narrowValue (s : State) (r : RegHit) : Word :=
  let n := BitVec.ofNat 32
  match r.spec.id with
  | .U_UNIT_ID => n (r.unit.spec.code * 2 ^ 16 + r.inst * 2 ^ 8 + 1)
  | .HUB_STATUS => setBits (s.reg r.addr) 7 0 (s.now / 8)
  | .HUB_REPAIR_STATUS =>
    let n := fun c => (s.hub.spares.filter (·.column == c)).length
    setBits (setBits (s.reg r.addr) 31 16 (n false)) 15 8 (n true)
  | .INTC_CTRL => setBits (s.reg r.addr) 31 31 (b2n s.forerunner)
  | .HUB_SCHED_DATA => n (s.schedNow (s.rd F.HUB_SCHED_SEL.bank) (s.rd F.HUB_SCHED_SEL.entry))
  | .GS_MODE_SUMMARY => setBits (s.reg r.addr) 31 25 s.forcedAxes
  | .BEAM_POS => s.beamPos r.inst
  | .BELL_STATUS => n (((List.range 128).filter fun i => (s.voice i).phase != 0).length * 2 ^ 16 + s.bell.queue.length)
  | .BELL_VOICE_STATE => s.voiceState
  | .BELL_XP_DATA => n (mget (fun _ => {}) s.bell.xp (xpKey (s.rd F.BELL_XP_SEL.bus) (s.rd F.BELL_XP_SEL.input))).target
  | .WDOG_STATUS => setBits (s.reg r.addr) 19 0 (s.wdogRemain r.i1)
  | .SEC_FACTORY_DATA =>
    let w := s.rd F.SEC_FACTORY_SEL.word
    n (leNat ((List.range 4).map fun i => mget (fun _ => 0#8) s.sec.factory (4 * w + i)))
  | .INTC_CLAIM => n (((s.presented r.i1 false).map (·.1)).getD 1023)
  | .FL_CAP_POP =>
    match mget (fun _ => []) s.field.caps r.i1 with
    | [] => 0#32
    | e :: _ => if e.2 then 0xC0000000#32 else 0x80000000#32
  | _ => s.reg r.addr

/-- All bits a register shows, both words of a 64-bit one. -/
def State.fullValue (s : State) (r : RegHit) : Nat := if r.spec.wide then s.wideValue r else (s.narrowValue r).toNat

/-- The word of the register that a hit names. -/
def RegHit.word (r : RegHit) (v : Nat) : Word := BitVec.ofNat 32 (if r.high then v / 2 ^ 32 else v)

/-- The word at a register hit. -/
def State.regValue (s : State) (r : RegHit) : Word := r.word (s.fullValue r)

/-- Holding word of a listed register for a master (R378). -/
def State.heldWord (s : State) (r : RegHit) (m : Master) : Option Word := mget (fun _ => none) s.holding (64 * r.addr + masterIndex m)
def State.setHeld (s : State) (r : RegHit) (m : Master) (w : Option Word) : State :=
  { s with holding := mset (fun _ => none) s.holding (64 * r.addr + masterIndex m) w }

/-- The writes of the present Rim cycle (R39). -/
def State.rimCycle (s : State) : RimCycle := if s.cycle.number = s.now / 8 then s.cycle else { number := s.now / 8 }

/-- An address of the register. -/
def RegHit.owns (r : RegHit) (a : Nat) : Bool := a == r.addr || r.spec.wide && a == r.addr + 4

/-- What a register shows master m: as before the writes of other masters that reached it in the present Rim cycle (R40). -/
def State.shownTo (s : State) (m : Master) (r : RegHit) : Nat :=
  if s.rimCycle.writes.any (fun w => r.owns w.addr && w.master != m) then
    ((s.rimCycle.shown.find? (·.1 == r.addr)).map (·.2)).getD (s.fullValue r)
  else s.fullValue r

/-- The word master m reads at a register, before any effect of the read (R40, R364, R369, R378). -/
def State.answer (s : State) (m : Master) (r : RegHit) : Word :=
  let w := r.word (s.shownTo m r)
  match r.spec.id with
  | .INTC_CLAIM => if m = .core r.i1 then w else 1023#32
  | id => if listed64 id && r.high && s.forerunner then (s.heldWord r m).getD w else w

/-- Every RC field of the word cleared. -/
def clearRc (fs : List FSpec) (w : Word) : Word := fs.foldl (fun w f => if f.acc = .rc then setBits w f.hi f.lo 0 else w) w

/-- The highest valid reading and its sensor (R473). -/
def State.hottest (s : State) : Nat × Int :=
  ((List.range 8).filter fun i => s.on (F.CPR_TEMP.valid i)).foldl (fun (b : Option (Nat × Int)) i => match b with
    | none => some (i, s.tempOf i)
    | some x => if x.2 < s.tempOf i then some (i, s.tempOf i) else some x) none |>.getD (0, 0)

/-- What reads of a register by the masters `ms`, meeting in one Rim cycle, do to it: once (R40). -/
def State.readEffect (s : State) (ms : List Master) (r : RegHit) : State :=
  match r.spec.id with
  | .INTC_CLAIM => if ms.contains (.core r.i1) then (s.claim r.i1).2 else s
  | .FL_CAP_POP => (s.popCap r.i1).2
  | .HUB_HEAD_MARGIN => s.setReg r.addr 0x7FFF0000#32
  | .BELL_BUS => s.wr (F.BELL_BUS.min_gain r.i1) 0xFFFF
  | .CHAIN_QUEUE_PEAK => s.wr F.CHAIN_QUEUE_PEAK.peak s.records.length
  | .DER_QUEUE_PEAK => s.wr F.DER_QUEUE_PEAK.peak (s.rd F.DER_STATUS.queue_depth)
  | .CAD_BAD => (s.wr (F.CAD_BAD.count r.inst) 0).wr (F.CAD_BAD.queue_peak r.inst) (s.head r.inst).cadQueue.length
  | .CPR_TEMP_MAX => (s.wr F.CPR_TEMP_MAX.peak (wrap 16 s.hottest.2)).wr F.CPR_TEMP_MAX.sensor s.hottest.1
  | id =>
    if r.spec.wide then
      if listed64 id && s.forerunner then
        ms.foldl (fun s m => s.setHeld r m (if r.high then none else some (BitVec.ofNat 32 (s.shownTo m r / 2 ^ 32)))) s
      else s
    else s.setReg r.addr (clearRc r.spec.fields (s.reg r.addr))

/-- Where a Rim access goes: a register, a word of an array window, an offset of a block that names no register, an offset that
no unit has, or no Rim address. -/
inductive RimPlace where
  | reg (r : RegHit)
  | array (h off : Nat)
  | hole (base off : Nat)
  | noUnit
  | outside
  deriving DecidableEq, Repr

/-- Place of a byte address (R27, R29, R31). -/
def rimPlace (a : Nat) : RimPlace :=
  if 0x4100_0000 ≤ a ∧ a < 0x4130_0000 then .array ((a - 0x4100_0000) / 0x2_0000) ((a - 0x4100_0000) % 0x2_0000)
  else if a < 0x4000_0000 ∨ 0x4130_0000 ≤ a then .outside
  else
    match findReg a, blockOf a with
    | some r, _ => .reg r
    | none, some (_, _, b) => .hole b (a - b)
    | none, none => .noUnit

/-- Count an access to an offset that no unit has (R31). -/
def State.countUnmapped (s : State) (a : Nat) : State := (s.satInc F.RIM_UNMAPPED.count).wr F.RIM_UNMAPPED.word (a / 4)

/-- What master m reads at an address with an access of `size` bytes: none is an error (R31, R33). -/
def State.rimAnswer (s : State) (m : Master) (a size : Nat) : Option Word :=
  if size ≠ 4 ∨ a % 4 ≠ 0 then none
  else
    match rimPlace a with
    | .reg r => some (s.answer m r)
    | .array h off => if arrayMapped off then some (s.arr (arrayAddr h off)) else none
    | _ => none

/-- The effect of reads of one address that meet. -/
def State.rimReadEffect (s : State) (ms : List Master) (a size : Nat) : State :=
  match rimPlace a with
  | .noUnit => s.countUnmapped a
  | .reg r => if size ≠ 4 ∨ a % 4 ≠ 0 ∨ ms = [] then s else s.readEffect ms r
  | _ => s

/-- One master's read: its answer, and the state after it. -/
def State.rimRead (s : State) (m : Master) (a size : Nat) : Option Word × State :=
  (s.rimAnswer m a size, s.rimReadEffect [m] a size)

/-- Reads of the aligned word at `a` by several masters in one Rim cycle: each is answered from the state before (R40). -/
def State.rimReads (s : State) (a : Nat) (ms : List Master) : State :=
  let ans := ms.map fun m => (m, s.rimAnswer m a 4)
  ans.foldl (fun (s : State) (p : Master × Option Word) => s.emit (.rimRead p.1 a (p.2.getD 0#32) p.2.isNone))
    (s.rimReadEffect ms a 4)

end Sys2Proof.Machine
end

