-- ==== Sys2Proof/Machine/Saddlebag.lean ====
section
/-! DEFINITION. The Saddlebag: staging, segments, drives, keyframes, freezes and reads (21: R398–R408). -/

namespace Sys2Proof.Machine

/-- Base of the Saddlebag's block. -/
def sbBase : Nat := 0x4038_0000

/-- Set a status bit of the Saddlebag interrupt. -/
def State.sbIrq (s : State) (f : Fld) : State := s.set1 f

/-! ## Entries (R401, R402) -/

/-- One step of the CRC of a byte, bit by bit. -/
def crcBits : Nat → Nat → Nat
  | 0, c => c
  | n + 1, c => crcBits n (if c % 2 = 1 then (c / 2) ^^^ 0x82F63B78 else c / 2)

/-- CRC-32C (R401). -/
def crc32c (bs : List Byte) : Nat := bs.foldl (fun c b => crcBits 8 (c ^^^ b.toNat)) 0xFFFF_FFFF ^^^ 0xFFFF_FFFF

/-- Bytes of an entry on the drive (R401). -/
def SbEntry.bytes (e : SbEntry) : List Byte :=
  natLe 2 e.kind ++ natLe 1 e.chip ++ natLe 1 e.head ++ natLe 4 e.payload.length ++ natLe 8 e.seq ++ natLe 8 e.time
    ++ natLe 4 (crc32c e.payload) ++ natLe 4 0 ++ slice e.payload 0 (ceilDiv e.payload.length 32 * 32)

/-- Size of an entry. -/
def SbEntry.size (e : SbEntry) : Nat := 32 + ceilDiv e.payload.length 32 * 32

/-- Stage an entry with the chip's next seq. -/
def State.stage (s : State) (kind chip head time : Nat) (payload : List Byte) : State :=
  let e : SbEntry := { kind := kind, chip := chip, head := head, seq := s.sb.nextSeq, time := time, payload := payload }
  { s with sb.staging := s.sb.staging ++ [e], sb.nextSeq := s.sb.nextSeq + 1 }

/-- An entry is dropped: its seq is lost. -/
def State.loseEntry (s : State) : State :=
  let n := s.sb.nextSeq
  let lost := match s.sb.lost with
    | none => (n, 1, nsOf s.now)
    | some (a, c, t) => (a, c + 1, t)
  { s with sb.lost := some lost, sb.nextSeq := n + 1 }

/-- The first entry accepted after a loss is preceded by a GAP (R402). -/
def State.stageGap (s : State) : State :=
  match s.sb.lost with
  | none => s
  | some (a, c, t) =>
    let s := { s with sb.lost := none }.stage 10 (s.rd F.TANDEM_STATUS.index) 0xFF t (natLe 8 a ++ natLe 8 c)
    ((s.satInc F.SB_STATUS.gaps).sbIrq F.SB_IRQ.gap).raise 217

/-- An entry enters the staging ring when it has room and the archive is not full (R402). -/
def State.accept (s : State) (room : Bool) (chip : Nat) (e : Nat × Nat × Nat × List Byte) : State :=
  if !room || s.on F.SB_STATUS.full then s.loseEntry else s.stageGap.stage e.1 chip e.2.1 e.2.2.1 e.2.2.2

/-- ARCHIVE_ENTRY: the oldest entry handed over, or one of the Shadow's that the twin link brings, is staged; `room` says
whether the staging ring has room for it (log 27). A Shadow sends its RECORD and BANDS entries to the Primary (R402, R404). -/
def execArchiveEntry (t : Nat) (room : Bool) (twin : Option (Nat × Nat × Nat × List Byte)) (s : State) : Result :=
  let s := s.at t
  let me := s.rd F.TANDEM_STATUS.index
  .next (match twin with
    | some e => if s.isPrimary then s.accept room (1 - me) e else s
    | none =>
      match s.sb.handed with
      | [] => s
      | e :: rest =>
        let s := { s with sb.handed := rest }
        let s := if s.isShadow && decide (e.1 ≤ 2) then s.emit (.message 11 e.1 (e.2.1 :: e.2.2.1 :: e.2.2.2.map (·.toNat))) else s
        s.accept room me e)

/-! ## Segments (R400, R401, R403) -/

/-- Segment i of the ring. -/
def State.segment (s : State) (i : Nat) : Segment := mget (fun _ => {}) s.sb.segments i
def State.setSegment (s : State) (i : Nat) (g : Segment) : State :=
  { s with sb.segments := mset (fun _ => {}) s.sb.segments i g }

/-- Size of a segment with its header. -/
def Segment.size (g : Segment) : Nat := g.entries.foldl (fun n e => n + e.size) 4096

/-- Bytes of a segment that an entry and its SEAL entry need (R401). -/
def segmentBytes : Nat := 0x1000_0000
def sealSize : Nat := 160

/-- Open the next segment in ring order that is not frozen; none: the archive is full (R402, R403). -/
def State.openSegment (s : State) : State :=
  let n := s.segCount
  let spans := s.spanList
  let order := (List.range n).map fun i => (s.sb.nextIndex + i) % n
  match order.find? fun i => !s.segFrozen spans (s.segment i) with
  | none => { s with sb.current := none }.set1 F.SB_STATUS.full
  | some i =>
    let s := s.setSegment i { number := s.sb.nextNumber }
    { s with sb.current := some i, sb.nextNumber := s.sb.nextNumber + 1, sb.nextIndex := (i + 1) % n }.wr F.SB_STATUS.full 0

/-- The SEAL entry of a segment (R401). -/
def State.sealPayload (s : State) (g : Segment) : List Byte :=
  let first := g.entries.head?
  let head := Config.segmentHeader g.number (s.rd F.TANDEM_STATUS.index) ((first.map (·.seq)).getD 0) ((first.map (·.time)).getD 0)
  let d := sha512 (slice head 0 4096 ++ g.entries.flatMap SbEntry.bytes)
  let sig := if s.on F.CHAIN_STATUS.key_loaded then slice (ed25519Sign (s.recordSeed s.recordKey) d) 0 64
    else List.replicate 64 0
  d ++ sig

/-- The front of the staging ring does not fit into the segment. -/
def State.frontTooBig (s : State) (g : Segment) : Bool :=
  match s.sb.staging with
  | [] => false
  | e :: _ => decide (segmentBytes < g.size + e.size + sealSize)

/-- Close the open segment: SEAL entry, next segment, superblock (R400, R403). -/
def State.closeSegment (s : State) (i : Nat) : State :=
  let g := s.segment i
  let e : SbEntry := { kind := 12, chip := s.rd F.TANDEM_STATUS.index, head := 0xFF, seq := s.sb.nextSeq, time := nsOf s.now,
                       payload := s.sealPayload g }
  let s := s.setSegment i { g with entries := g.entries ++ [e], closed := true }
  let s := { s with sb.nextSeq := s.sb.nextSeq + 1, sb.superblocks := s.sb.superblocks + 1, sb.flush := false }
  (s.wr64 R.SB_SEQ e.seq).openSegment

/-- SEGMENT_CLOSE: the next entry does not fit, or a flush waits (R403). -/
def execSegmentClose (t : Nat) (s : State) : Result :=
  let s := s.at t
  .next (match s.sb.current with
    | none => s
    | some i => if s.sb.writing = [] ∧ (s.sb.flush = true ∨ s.frontTooBig (s.segment i) = true) then s.closeSegment i else s)

/-- A write of SB_CTRL.flush (R403). -/
def State.sbFlush (s : State) : State := { s with sb.flush := s.sb.current.isSome }

/-- SB_FLUSH (R403). -/
def execSbFlush (t : Nat) (s : State) : Result := .next (s.at t).sbFlush

/-- The first entries that together hold at most `left` bytes. -/
def takeBytes : Nat → List SbEntry → List SbEntry
  | _, [] => []
  | left, e :: es => if e.size ≤ left then e :: takeBytes (left - e.size) es else []

/-- Start a drive write of at most 1 MiB of staged entries that fit the segment (R402). -/
def State.drain (s : State) : State :=
  let s := if s.sb.current.isNone then s.openSegment else s
  match s.sb.current with
  | none => s
  | some i =>
    let w := takeBytes (min 0x10_0000 (segmentBytes - sealSize - (s.segment i).size)) s.sb.staging
    { s with sb.writing := w, sb.staging := s.sb.staging.drop w.length }

/-- STAGING_DRAIN: a Shadow writes nothing (R402, R404). -/
def execStagingDrain (t : Nat) (s : State) : Result :=
  let s := s.at t
  .next (if s.isShadow ∨ s.sb.writing ≠ [] then s else s.drain)

/-- A drive in use, or being rebuilt. -/
def State.driveUsed (s : State) (d : Nat) : Bool := s.rd (F.SB_DRIVE.state d) == 1 || s.rd (F.SB_DRIVE.state d) == 2

/-- DRIVE_WRITE_COMPLETE: the entries are on both drives, or on the surviving one; on a Shadow the Primary reports `n` entries
so (R399, R402, R404). -/
def execDriveWriteComplete (t n : Nat) (s : State) : Result :=
  let s := s.at t
  .next (if s.isShadow then { s with sb.staging := s.sb.staging.drop n }
    else
      match s.sb.current, s.sb.writing.getLast? with
      | some i, some e =>
        if s.driveUsed 0 || s.driveUsed 1 then
          let g := s.segment i
          let s := s.setSegment i { g with entries := g.entries ++ s.sb.writing }
          let s := { s with sb.writing := [], sb.drives := s.sb.drives.map fun (p : Nat × Drive) => (p.1, { p.2 with timeouts := 0 }) }
          s.wr64 R.SB_SEQ e.seq
        else s
      | _, _ => s)

/-! ## Drives (R398, R399) -/

def State.drive (s : State) (d : Nat) : Drive := mget (fun _ => {}) s.sb.drives d
def State.setDrive (s : State) (d : Nat) (v : Drive) : State := { s with sb.drives := mset (fun _ => {}) s.sb.drives d v }

/-- A drive changes state. -/
def State.driveState (s : State) (d st : Nat) : State :=
  if s.rd (F.SB_DRIVE.state d) = st then s else (s.wr (F.SB_DRIVE.state d) st).sbIrq F.SB_IRQ.drive_change

/-- A drive fails (R399). -/
def State.failDrive (s : State) (d : Nat) : State := (s.driveState d 3).raise 217

/-- DRIVE_TIMEOUT: three in a row fail the drive (R399). -/
def execDriveTimeout (t d : Nat) (s : State) : Result :=
  let s := s.at t
  let v := s.drive d
  .next (if !s.driveUsed d then s
    else
      let s := s.setDrive d { v with timeouts := v.timeouts + 1 }
      if 3 ≤ v.timeouts + 1 then s.failDrive d else s)

/-- DRIVE_REMOVE (R399). -/
def execDriveRemove (t d : Nat) (s : State) : Result :=
  let s := (s.at t).setDrive d {}
  .next (((s.wr (F.SB_DRIVE.link d) 0).wr (F.SB_DRIVE.width d) 0).failDrive d)

/-- A present drive that may carry this chip's archive comes into use: rebuilt from the other when that one is in use (R399). -/
def State.bringUp (s : State) (d : Nat) : State :=
  if (s.drive d).lbas = 0 ∨ s.driveUsed d = true ∨ ((s.drive d).own = false ∧ s.sb.adopt = false) then s
  else if s.rd (F.SB_DRIVE.state (1 - d)) = 1 then (s.wr (F.SB_DRIVE.rebuild d) 0).driveState d 2
  else s.driveState d 1

/-- DRIVE_INSERT: usable LBAs, LBA size, whether its superblock names this chip, and its link (R398, R399). -/
def execDriveInsert (t d lbas lbaSize : Nat) (own : Bool) (gen width : Nat) (s : State) : Result :=
  let s := s.at t
  let s := (s.wr (F.SB_DRIVE.link d) gen).wr (F.SB_DRIVE.width d) width
  .next (if d < 2 ∧ lbaSize = 4096 then (s.setDrive d { lbas := lbas, own := own }).bringUp d else s)

/-- A write of SB_CTRL.adopt (R399). -/
def State.sbAdopt (s : State) : State := ({ s with sb.adopt := true }.bringUp 0).bringUp 1

/-- SB_ADOPT (R399). -/
def execSbAdopt (t : Nat) (s : State) : Result := .next (s.at t).sbAdopt

/-- REBUILD_COMPLETE (R399). -/
def execRebuildComplete (t d : Nat) (s : State) : Result :=
  let s := s.at t
  .next (if s.rd (F.SB_DRIVE.state d) = 2 then
      ((s.setDrive d { s.drive d with own := true }).wr (F.SB_DRIVE.rebuild d) 0xFFFF).driveState d 1
    else s)

/-! ## Keyframes (R405) -/

/-- A block of a memory: its DMA-map address or scene offset, and 2 KiB. -/
def keyBlock (addr : Nat) (bytes : List Byte) : List Byte := natLe 8 addr ++ bytes

/-- Words of a head's array window, as bytes; unmapped words are 0. -/
def State.arrayBytes (s : State) (h off n : Nat) : List Byte :=
  (List.range (n / 4)).flatMap fun i => natLe 4 (s.arr (0x4100_0000 + 0x2_0000 * h + off + 4 * i)).toNat

/-- Every block of the head arrays and of the local memories of present cores, in address order (R28, R405; log 28). -/
def State.keyBlocks (s : State) : List (List Byte) :=
  (List.range 24).flatMap (fun h => (List.range 64).map fun i =>
        keyBlock (2 ^ 63 + 0x4100_0000 + 0x2_0000 * h + 2048 * i) (s.arrayBytes h (2048 * i) 2048))
    ++ ((List.range 32).filter s.corePresent).flatMap (fun k => (List.range 64).map fun i =>
        keyBlock (2 ^ 63 + 0x2_0000 * k + 2048 * i) (s.localRead k (2048 * i) 2048))

/-- A chunk of KEY_STATE (R401). -/
def keyChunk (code inst part : Nat) (d : List Byte) : List Byte := natLe 2 code ++ natLe 1 inst ++ natLe 1 part ++ natLe 4 d.length ++ d

/-- The word at an address as a debug read shows it (R32, R447). -/
def State.shownWord (s : State) (a : Nat) : Word :=
  match rimPlace a with
  | .reg r => s.regValue r
  | _ => 0

/-- Part 0 of a unit: (offset, value) pairs of every RW and RO register. -/
def State.keyRegs (s : State) (u : UnitKind) (base : Nat) : List Byte :=
  ((unitRegs u).filter fun r => r.fields.any fun f => f.acc == .rw || f.acc == .ro).flatMap fun r =>
    (List.range r.n1).flatMap fun i => (List.range (max r.n2 1)).flatMap fun j =>
      let off := r.off + i * r.st1 + j * r.st2
      let word := fun o => natLe 4 o ++ natLe 4 (s.shownWord (base + o)).toNat
      if r.wide then word off ++ word (off + 4) else word off

/-- Part 1 of the Derailleur queue, in queue order. -/
def State.keyDerQueue (s : State) : List Byte :=
  s.der.queue.flatMap fun e => (match e.copy with
      | some c => c.toBytes
      | none => List.replicate 32 0)
    ++ natLe 4 e.point ++ natLe 4 (b2n e.reeval + 2 * b2n e.valueChange + 4 * b2n e.qualityChange)

/-- Part 1 of ingest: each point write still to make, as the record it leaves, its point and its change class (R401; log 28). -/
def State.keyIngQueue (s : State) : List Byte :=
  s.ing.writes.flatMap fun w =>
    let old := PointRec.ofBytes (s.memBytes (s.pointOff w.1) 32)
    let new := old.update w.2
    new.toBytes ++ natLe 4 w.1 ++ natLe 4 (2 * b2n (old.valueChange new) + 4 * b2n (w.2.forced || old.qualityChange new))

/-- Part 2 of a core. -/
def State.keyCore (s : State) (k : Nat) : List Byte :=
  let c := s.core k
  let p := c.cop
  let link := match s.link k with
    | some a => BitVec.ofNat 32 (a / 4 * 4 + 1)
    | none => 0#32
  slice (([c.a, c.x, c.y, c.sp, c.pc, c.psWord, c.af, c.xf, c.yf, c.psf, c.fret, link, p.num, p.den, p.quo, p.rem, p.accLo, p.accHi,
    p.m1, p.m2, p.src, p.dst, p.rootLo, p.rootHi, p.beam, p.frameLo, p.frameHi, p.untilLo, p.untilHi] : List Word).flatMap
      fun w => natLe 4 w.toNat) 0 128

/-- The payload of KEY_STATE. -/
def State.keyState (s : State) : List Byte :=
  allUnits.flatMap (fun u => (List.range u.spec.count).flatMap fun i =>
      keyChunk u.spec.code i 0 (s.keyRegs u (u.spec.base + i * u.spec.stride)))
    ++ keyChunk (UnitKind.IngestU).spec.code 0 1 s.keyIngQueue ++ keyChunk (UnitKind.DerailleurU).spec.code 0 1 s.keyDerQueue
    ++ ((List.range 32).filter s.corePresent).flatMap fun k => keyChunk 0 k 2 (s.keyCore k)

/-- A keyframe starts (R405). -/
def State.keyStart (s : State) : State :=
  let s := { s with sb.keyFrames := 0, sb.keyCopied := false }.set1 F.SB_STATUS.keying
  s.archive 7 0xFF (nsOf s.now) (natLe 8 s.sb.keyNumber)

/-- A write of SB_CTRL.keyframe: ignored while one is running (R405). -/
def State.keyRequest (s : State) : State := if s.on F.SB_STATUS.keying then s.ignoreWrite sbBase 0 0 else s.keyStart

/-- KEYFRAME_START: a write, or key_period chip frames have passed (R405). -/
def execKeyframeStart (t : Nat) (write : Bool) (s : State) : Result :=
  let s := s.at t
  .next (if write then s.keyRequest
    else if !s.on F.SB_STATUS.keying ∧ s.rd F.SB_CTRL.key_period_k ≠ 0 ∧ 1000 * s.rd F.SB_CTRL.key_period_k ≤ s.sb.keyFrames then s.keyStart
    else s)

/-- Archive the KEY_BLOCK entries of a keyframe (R405). -/
def State.archiveBlocks (s : State) (bs : List (List Byte)) : State := bs.foldl (fun s b => s.archive 5 0xFF s.now b) s

/-- The end of a keyframe, with its number n in force (R405). -/
def State.keyEnd (s : State) (n : Nat) : State :=
  let s := s.archive 8 0xFF (nsOf s.now) (natLe 8 n)
  let s := { s with sb.keyHold := false, sb.keyNumber := n + 1 }.wr F.SB_STATUS.keying 0
  (s.wr F.SB_KEY.number n).sbIrq F.SB_IRQ.key_done

/-- Archive block i of scene memory, read through the check as requestor 70 (R32, R45). -/
def State.archiveScene (s : State) (i : Nat) : State :=
  let (m, s) := s.memRead 70 (2048 * i) 2048
  s.archive 5 0xFF s.now (keyBlock (2048 * i) m.bytes)

/-- The end of a keyframe's hold: blocks and state are captured (R405). -/
def State.keyCapture (s : State) : State :=
  let s := (List.range 131072).foldl State.archiveScene s
  let s := s.archiveBlocks s.keyBlocks
  ((s.archive 6 0xFF (nsOf s.now) s.keyState).keyEnd s.sb.keyNumber).unitsResume

/-- KEYFRAME_HOLD: the copy is complete and the hold begins at a latch edge of the chip schedule, or (`ends`) its end captures the state (R405). -/
def execKeyframeHold (t : Nat) (ends : Bool) (s : State) : Result :=
  let s := s.at t
  .next (if !s.on F.SB_STATUS.keying then s
    else if !ends then (if s.chipLatch then { s with sb.keyHold := true, sb.keyCopied := true } else s)
    else if !s.sb.keyHold then s
    else s.keyCapture)

/-! ## Freezes and reads (R406, R407) -/

/-- A write of SB_CTRL.freeze. -/
def State.sbFreeze (s : State) : State := s.freezeSpan (s.rd64 R.SB_FREEZE_START) (s.rd64 R.SB_FREEZE_END) s.segCount

/-- SB_FREEZE (R406). -/
def execSbFreeze (t : Nat) (s : State) : Result := .next (s.at t).sbFreeze

/-- A write of SB_CTRL.unfreeze names span i. -/
def State.sbUnfreeze (s : State) (i : Nat) : State :=
  if (mget (fun _ => none) s.sb.spans i).isNone then s
  else { s with sb.spans := mset (fun _ => none) s.sb.spans i none }.wr F.SB_STATUS.spans (s.rd F.SB_STATUS.spans - 1)

/-- SB_UNFREEZE (R406). -/
def execSbUnfreeze (t i : Nat) (s : State) : Result := .next ((s.at t).sbUnfreeze i)

/-- A write of SB_READ_CTRL (R407). -/
def State.sbRead (s : State) (w : Word) : State :=
  let c := getBits w 11 0
  if s.on F.SB_READ_CTRL.busy ∨ 2048 ≤ c then s.ignoreWrite sbBase 0x34 0
  else
    { s with sb.reading := some (s.rd64 R.SB_READ_LBA, c + 1, 4096 * s.rd F.SB_READ_DST.offset) }.set1 F.SB_READ_CTRL.busy

/-- SB_READ_START (R407). -/
def execSbReadStart (t : Nat) (w : Word) (s : State) : Result := .next ((s.at t).sbRead w)

/-- Every access of a write would be admitted. -/
def State.admitsAll (s : State) (req off len : Nat) : Bool :=
  (List.range ((off % 64 + len + 63) / 64)).all fun i => s.admits req (off / 64 * 64 + 64 * i)

/-- The read ends: its data reach the destination, whole or not at all, or none came from either drive (R43, R407). -/
def State.readArrives (s : State) (data : Option (List Byte)) : State :=
  match s.sb.reading, data with
  | none, _ => s
  | some _, none => ({ s with sb.reading := none }.wr F.SB_READ_CTRL.busy 0).sbIrq F.SB_IRQ.read_err
  | some (_, n, dst), some data =>
    let s := s.archiveInput 6 (nsOf s.now) data
    let d := slice data 0 (4096 * n)
    let s := if s.admitsAll 70 dst d.length then s.memWrite 70 dst d else s.denyWrite 70
    ({ s with sb.reading := none }.wr F.SB_READ_CTRL.busy 0).sbIrq F.SB_IRQ.read_done

/-- SB_READ_COMPLETE: the blocks, or none for an error on both drives; a Primary's completion goes through the journal (R230, R231,
R407). -/
def execSbReadComplete (t : Nat) (data : Option (List Byte)) (s : State) : Result :=
  let s := s.at t
  .next (if s.sb.reading.isNone then s
    else if s.isPrimary then s.journalIn (.readData data)
    else if s.locked then s
    else s.readArrives data)

end Sys2Proof.Machine
end

