-- ==== Sys2Proof/WellFormed.lean ====
section
/-! DEFINITION. Which commands are well formed: their operands lie in the ranges the spec gives what they name. A command that is not
well formed names nothing of the chip (log 1). -/

namespace Sys2Proof

/-- Engines 0–7, cores 0–31 (R13). -/
def Master.wf : Master → Bool
  | .dma e => decide (e < 8)
  | .core k => decide (k < 32)
  | .vertik => true

/-- One or more different masters (R40). -/
def readers (ms : List Master) : Bool := ms.all Master.wf && !ms.isEmpty && decide ms.Nodup

/-- A 32-bit address and a size of 1, 2 or 4 bytes (R28, R33). -/
def RimWrite.wf (w : RimWrite) : Bool := w.master.wf && decide (w.addr < 0x1_0000_0000) && [1, 2, 4].contains w.size

/-- Lane of a master, in the order in which writes that meet are applied (R38, R39). -/
def Master.lane : Master → Nat
  | .dma _ => 0
  | .core k => if k < 24 then 1 else 2
  | .vertik => 3

/-- A number of the unit, or the head's array window, that an address lies in (R29, R31). -/
def rimUnit (a : Nat) : Nat :=
  if 0x4100_0000 ≤ a then a / 0x2_0000 * 0x2_0000
  else if 0x4036_0000 ≤ a ∧ a < 0x4037_0000 then a / 0x1000 * 0x1000
  else if 0x4001_0000 ≤ a ∧ a < 0x4002_0000 then a / 0x8000 * 0x8000
  else a / 0x1_0000 * 0x1_0000

/-- A lane delivers at most one write to a unit in one Rim cycle (R38). -/
def oneEach (ws : List RimWrite) : Bool := decide (ws.map fun w => (w.master.lane, rimUnit w.addr)).Nodup

/-- A requestor and a range of scene memory inside one bank line (R14, R41). -/
def HubAccess.wf (a : HubAccess) : Bool :=
  let n := (a.data.map (·.length)).getD a.len
  decide (a.req < 128) && decide (a.off < 0x1000_0000) && decide (1 ≤ n) && decide (a.off % 64 + n ≤ 64)

/-- A, X or Y: the registers of loads, stores and counts (R344). -/
def ldReg (r : CReg) : Bool := r == .a || r == .x || r == .y

/-- The operands of a command lie in their ranges. -/
def Instr.wf : Instr → Bool
  | .registerWrite _ ws => ws.all RimWrite.wf && !ws.isEmpty && oneEach ws
  | .ignoredWritesRead _ b ms => b % 4 == 0 && readers ms
  | .rimCollisionsRead _ b ms => b % 4 == 0 && readers ms
  | .headArrayIgnoredRead _ h ms => decide (h < 24) && readers ms
  | .hubEccCorrRead _ ms => readers ms
  | .hubEccUncorrRead _ ms => readers ms
  | .hubWriteDeniedRead _ ms => readers ms
  | .rimUnmappedRead _ ms => readers ms
  | .hubHeadMarginRead _ h ms => decide (h < 24) && readers ms
  | .hubSlotAccess _ bank a => decide (bank < 32) && a.wf
  | .scrubRead _ bank => decide (bank < 32)
  | .eccWriteBack _ bank => decide (bank < 32)
  | .hardWordReread _ bank _ => decide (bank < 32)
  | .spareRepairCopy _ bank => decide (bank < 32)
  | .spareTakeover _ bank => decide (bank < 32)
  | .fetchLineStart _ h _ _ => decide (h < 24)
  | .fetchDataArrive _ h _ _ _ => decide (h < 24)
  | .fetchLineDrop _ h _ _ => decide (h < 24)
  | .traceBuildStart _ h tr _ => decide (h < 24) && decide (tr < 2)
  | .llErrsRead _ h l ms => decide (h < 24) && decide (l < 8) && readers ms
  | .ttStatusRead _ h tr ms => decide (h < 24) && decide (tr < 2) && readers ms
  | .sprLineStatusRead _ h ms => decide (h < 24) && readers ms
  | .sprErrsRead _ h ms => decide (h < 24) && readers ms
  | .sprIgnoredRead _ h ms => decide (h < 24) && readers ms
  | .pixelLookup _ h _ _ _ => decide (h < 24)
  | .pixelSend _ h _ _ _ _ _ => decide (h < 24)
  | .cmpMismatchRead _ h ms => decide (h < 24) && readers ms
  | .frameStart _ h _ _ => decide (h < 24)
  | .chipFrameStart _ _ => true
  | .latchPoint _ h _ => decide (h < 24)
  | .beamCommit _ h => decide (h < 24)
  | .beamCommitCancel _ h => decide (h < 24)
  | .commitFrameWrite _ h f => decide (h < 24) && decide (f < 2 ^ 64)
  | .beamStatusRead _ h ms => decide (h < 24) && readers ms
  | .lineEventFire _ h k => decide (h < 24) && decide (k < 2)
  | .beamEventMissedRead _ h ms => decide (h < 24) && readers ms
  | .cadenceEntryDue _ h => decide (h < 24)
  | .cadenceWrite _ h => decide (h < 24)
  | .cadErrsRead _ h ms => decide (h < 24) && readers ms
  | .cadBadRead _ h ms => decide (h < 24) && readers ms
  | .headStateRequest _ h _ => decide (h < 24)
  | .psrSdpSend _ h => decide (h < 24)
  | .hpdPlug _ h _ => decide (h < 24)
  | .hpdIrq _ h _ _ => decide (h < 24)
  | .hpdUnplug _ h => decide (h < 24)
  | .trainingAttemptEnd _ h _ => decide (h < 24)
  | .auxRequest _ h _ => decide (h < 24)
  | .auxComplete _ h _ => decide (h < 24)
  | .auxDeferRetry _ h => decide (h < 24)
  | .teEdge _ h => decide (h < 24)
  | .teSilent _ h => decide (h < 24)
  | .txUnderrunRead _ h ms => decide (h < 24) && readers ms
  | .mirrorPacketSend _ h _ _ => decide (h < 24)
  | .mirrorPacketReceive _ _ => true
  | .sourceAbsent _ h => decide (h < 24)
  | .txRemoteRingRead _ h ms => decide (h < 24) && readers ms
  | .lineDigestComplete _ h _ _ => decide (h < 24)
  | .bandSealComplete _ h _ k => decide (h < 24) && decide (k < 64)
  | .recordSigned _ => true
  | .chainQueuePeakRead _ ms => readers ms
  | .gooseFrame _ port _ => decide (port < 2)
  | .svAsdu _ port _ => decide (port < 2)
  | .supervisionCheck _ => true
  | .svStreamTimeout _ v => decide (v < 64)
  | .ingInit _ => true
  | .initFillComplete _ => true
  | .ingDiscardRead _ r ms => decide (r < 10) && readers ms
  | .ruleEvaluation _ => true
  | .actionWrite _ _ => true
  | .photonRecord _ _ => true
  | .fieldLineEffect _ _ => true
  | .derReeval _ p => decide (p < 0x10_0000)
  | .reevalAll _ => true
  | .derailleurDisable _ => true
  | .derSkippedRead _ ms => readers ms
  | .derArrayCollisionsRead _ ms => readers ms
  | .derQueuePeakRead _ ms => readers ms
  | .gsStagePtrWrite _ n => decide (n < 0x20_0000)
  | .gsStageDataWrite _ _ => true
  | .gsCtrlCheck _ => true
  | .gsCtrlAbort _ => true
  | .gsApplyFrameWrite _ frame => decide (frame < 2 ^ 64)
  | .gsCheckComplete _ => true
  | .unitSwap _ _ _ => true
  | .headSwapLoadDone _ h => decide (h < 24)
  | .corePark _ k => decide (k < 32)
  | .coreLoadDone _ k => decide (k < 32)
  | .gsClashRead _ ms => readers ms
  | .journalEntryRelease _ _ => true
  | .sealCompare _ h _ _ _ _ => decide (h < 24)
  | .takeNetChange _ h => decide (h < 24)
  | .takeNetDisagree _ h _ => decide (h < 24)
  | .tandemTakeReq _ heads => decide (heads < 2 ^ 24)
  | .twinLost _ => true
  | .twinLinkFail _ => true
  | .heldFrameExpire _ => true
  | .tandemStartRole _ _ => true
  | .tandemRejoin _ _ _ _ => true
  | .tandemHandover _ => true
  | .rejoinTimeTimeout _ => true
  | .stateCopyComplete _ _ _ => true
  | .cutoverHoldStart _ _ _ cores locals voices => cores.all (decide <| ·.1 < 32) && locals.all (decide <| ·.1 < 32) && voices.all (decide <| ·.1 < 128)
  | .cutoverHoldEnd _ => true
  | .tandemJournalRead _ ms => readers ms
  | .tandemDivergeRead _ ms => readers ms
  | .pelotonJoin _ _ => true
  | .joinAnswer _ _ _ _ _ _ => true
  | .pelotonLeave _ _ => true
  | .pelotonBeat _ _ => true
  | .leaderClaim _ i _ _ _ => decide (i < 1024)
  | .bundleClose _ _ => true
  | .prepareReceive _ _ => true
  | .ready _ m _ => decide (m < 1024)
  | .bundleDecide _ => true
  | .commitReceive _ m _ => decide (m < 1024)
  | .retargetReceive _ _ => true
  | .bundleArm _ _ => true
  | .ackDeadline _ => true
  | .returnRequest _ m _ _ _ _ _ => decide (m < 1024)
  | .memberFail _ m => decide (m < 1024)
  | .pelCommitStatsRead _ ms => readers ms
  | .pelSpriteOwnRead _ ms => readers ms
  | .frameReceive _ p _ _ _ _ => decide (p < 2)
  | .prpEntryExpire _ mac => decide (mac < 2 ^ 48)
  | .prpSupervisionSend _ => true
  | .ethLinkChange _ p _ => decide (p < 2)
  | .ethPrpRead _ p ms => decide (p < 2) && readers ms
  | .ethRxDropRead _ p r ms => decide (p < 2) && decide (r < 8) && readers ms
  | .ptpSync _ _ => true
  | .pdelayReqSend _ p _ => decide (p < 2)
  | .pdelayReqReceive _ p => decide (p < 2)
  | .announceTimeout _ p _ => decide (p < 2)
  | .firstLock _ _ => true
  | .odoSet _ ns => decide (ns < 2 ^ 64)
  | .odoForget _ => true
  | .odoSnap _ => true
  | .leapSecond _ => true
  | .hello _ p _ => decide (p < 2)
  | .auth _ p _ => decide (p < 2)
  | .authTimeout _ n => decide (n < 64)
  | .close _ p _ => decide (p < 2)
  | .sessionTimeout _ n => decide (n < 64)
  | .command _ p _ => decide (p < 2)
  | .vtkNop _ => true
  | .statusRead _ => true
  | .regRead _ => true
  | .regWrite _ => true
  | .regWriteMasked _ => true
  | .memRead _ => true
  | .memWrite _ => true
  | .memFill _ => true
  | .pointWrite _ => true
  | .pointForce _ => true
  | .pointRelease _ => true
  | .pointRead _ => true
  | .commit _ => true
  | .headState _ => true
  | .gsStage _ => true
  | .gsCheck _ => true
  | .gsApply _ => true
  | .gsAbort _ => true
  | .leaseTake _ => true
  | .leaseRenew _ => true
  | .leaseRelease _ => true
  | .leaseExpire _ => true
  | .unlock _ => true
  | .unlockTimeout _ n => decide (n < 64)
  | .restoreFactory _ => true
  | .deviceReset _ => true
  | .attest _ => true
  | .settingsWrite _ => true
  | .lock _ => true
  | .rollbackAdvance _ => true
  | .calWrite _ => true
  | .calRead _ => true
  | .vtkUnknownCommand _ => true
  | .framedApply _ => true
  | .vtkOrderRead _ ms => readers ms
  | .vtkIllegalRead _ r ms => decide (r < 5) && readers ms
  | .bltQueueWrWrite _ q v => decide (q < 4) && decide (v < 2 ^ 16)
  | .blitterCommandTake _ => true
  | .bltNop _ => true
  | .bltCopy _ => true
  | .bltFill _ => true
  | .blitterWaitEnd _ => true
  | .blitterComplete _ => true
  | .bltQueueCancel _ q => decide (q < 4)
  | .bltQueueResume _ q => decide (q < 4)
  | .audioTick _ _ => true
  | .cueCommand _ cue arg _ => decide (cue < 512) && decide (arg < 256)
  | .envelopeSegmentEnd _ v => decide (v < 128)
  | .envelopeHoldExpire _ v => decide (v < 128)
  | .clipEnd _ v => decide (v < 128)
  | .bellXpDataWrite _ gain mode => decide (gain < 2 ^ 16) && decide (mode < 4)
  | .bellSinkWrite _ k _ _ => decide (k < 256)
  | .bellBusGainWrite _ b gain => decide (b < 128) && decide (gain < 2 ^ 16)
  | .crossfadeEnd _ _ _ => true
  | .zeroCut _ _ _ => true
  | .tdmLock _ p _ => decide (p < 8)
  | .tdmUnlock _ p _ => decide (p < 8)
  | .bellErrsRead _ ms => readers ms
  | .bellBusRead _ b ms => decide (b < 128) && readers ms
  | .nop _ k => decide (k < 32)
  | .wait _ k => decide (k < 32)
  | .trap _ k code => decide (k < 32) && decide (code < 0x100_0000)
  | .iret _ k => decide (k < 32)
  | .disN _ k => decide (k < 32)
  | .enN _ k => decide (k < 32)
  | .disF _ k => decide (k < 32)
  | .enF _ k => decide (k < 32)
  | .clrC _ k => decide (k < 32)
  | .setC _ k => decide (k < 32)
  | .unlink _ k => decide (k < 32)
  | .fence _ k => decide (k < 32)
  | .dbgbrk _ k => decide (k < 32)
  | .ld _ k r _ v => decide (k < 32) && decide (v < 0x100_0000) && ldReg r
  | .ldu _ k r v => decide (k < 32) && decide (v < 0x100_0000) && ldReg r
  | .st _ k r m v => decide (k < 32) && decide (v < 0x100_0000) && ldReg r && m != .imm
  | .ldB _ k m v => decide (k < 32) && decide (v < 0x100_0000) && m != .imm
  | .ldH _ k m v => decide (k < 32) && decide (v < 0x100_0000) && m != .imm
  | .stB _ k m v => decide (k < 32) && decide (v < 0x100_0000) && m != .imm
  | .stH _ k m v => decide (k < 32) && decide (v < 0x100_0000) && m != .imm
  | .addA _ k _ v => decide (k < 32) && decide (v < 0x100_0000)
  | .addc _ k _ v => decide (k < 32) && decide (v < 0x100_0000)
  | .subA _ k _ v => decide (k < 32) && decide (v < 0x100_0000)
  | .subc _ k _ v => decide (k < 32) && decide (v < 0x100_0000)
  | .andA _ k _ v => decide (k < 32) && decide (v < 0x100_0000)
  | .orA _ k _ v => decide (k < 32) && decide (v < 0x100_0000)
  | .xorA _ k _ v => decide (k < 32) && decide (v < 0x100_0000)
  | .cmp _ k _ v => decide (k < 32) && decide (v < 0x100_0000)
  | .testA _ k v => decide (k < 32) && decide (v < 0x100_0000)
  | .mov _ k _ => decide (k < 32)
  | .inc _ k r => decide (k < 32) && ldReg r
  | .dec _ k r => decide (k < 32) && ldReg r
  | .neg _ k => decide (k < 32)
  | .notA _ k => decide (k < 32)
  | .shl _ k _ v => decide (k < 32) && decide (v < 0x100_0000)
  | .shr _ k _ v => decide (k < 32) && decide (v < 0x100_0000)
  | .sar _ k _ v => decide (k < 32) && decide (v < 0x100_0000)
  | .ror _ k _ v => decide (k < 32) && decide (v < 0x100_0000)
  | .mul _ k => decide (k < 32)
  | .mulhu _ k => decide (k < 32)
  | .mulhs _ k => decide (k < 32)
  | .cmpX _ k r v => decide (k < 32) && decide (v < 0x100_0000) && (r == .x || r == .y)
  | .addX _ k r v => decide (k < 32) && decide (v < 0x100_0000) && (r == .x || r == .y || r == .sp)
  | .br _ k _ v => decide (k < 32) && decide (v < 0x100_0000)
  | .loopX _ k v => decide (k < 32) && decide (v < 0x100_0000)
  | .jmp _ k _ v => decide (k < 32) && decide (v < 0x100_0000)
  | .call _ k _ v => decide (k < 32) && decide (v < 0x100_0000)
  | .ret _ k => decide (k < 32)
  | .push _ k r => decide (k < 32) && r != .sp
  | .pop _ k r => decide (k < 32) && r != .sp
  | .ll _ k _ v => decide (k < 32) && decide (v < 0x100_0000)
  | .sc _ k _ v => decide (k < 32) && decide (v < 0x100_0000)
  | .wralt _ k v => decide (k < 32) && decide (v < 0x100_0000)
  | .rdalt _ k v => decide (k < 32) && decide (v < 0x100_0000)
  | .cpwr _ k slot v => decide (k < 32) && decide (v < 0x100_0000) && decide (slot < 4)
  | .cprd _ k slot v => decide (k < 32) && decide (v < 0x100_0000) && decide (slot < 4)
  | .divu _ k v => decide (k < 32) && decide (v < 0x100_0000)
  | .divs _ k v => decide (k < 32) && decide (v < 0x100_0000)
  | .macs _ k v => decide (k < 32) && decide (v < 0x100_0000)
  | .macu _ k v => decide (k < 32) && decide (v < 0x100_0000)
  | .msus _ k v => decide (k < 32) && decide (v < 0x100_0000)
  | .clr _ k v => decide (k < 32) && decide (v < 0x100_0000)
  | .clz _ k v => decide (k < 32) && decide (v < 0x100_0000)
  | .popc _ k v => decide (k < 32) && decide (v < 0x100_0000)
  | .extu _ k v => decide (k < 32) && decide (v < 0x100_0000)
  | .exts _ k v => decide (k < 32) && decide (v < 0x100_0000)
  | .ins _ k v => decide (k < 32) && decide (v < 0x100_0000)
  | .rev _ k v => decide (k < 32) && decide (v < 0x100_0000)
  | .snap _ k v => decide (k < 32) && decide (v < 0x100_0000)
  | .waituntil _ k v => decide (k < 32) && decide (v < 0x100_0000)
  | .waituntilExpire _ k => decide (k < 32)
  | .illegalInstruction _ k _ => decide (k < 32)
  | .coreStoreDrain _ k => decide (k < 32)
  | .fastInterruptEntry _ k => decide (k < 32)
  | .normalInterruptEntry _ k => decide (k < 32)
  | .sourceEdge _ i => decide (i < 1024)
  | .sourceLevelChange _ i => decide (i < 1024)
  | .intcClaimRead _ k ms => decide (k < 32) && readers ms
  | .intcEoiWrite _ k id m => decide (k < 32) && decide (id < 1024) && m.wf
  | .intcFastEoiWrite _ k m => decide (k < 32) && m.wf
  | .intcDoorbellWrite _ k b => decide (k < 32) && decide (b < 32)
  | .intcMergedRead _ ms => readers ms
  | .intcEoiBadRead _ k ms => decide (k < 32) && readers ms
  | .timerMatch _ ch => decide (ch < 32)
  | .tmrCountWrite _ ch v => decide (ch < 32) && decide (v < 2 ^ 64)
  | .tmrCompareWrite _ ch v => decide (ch < 32) && decide (v < 2 ^ 64)
  | .tmrSnap _ channels => decide (channels < 2 ^ 32)
  | .counterLoRead _ a ms => a % 8 == 0 && readers ms
  | .filterAccept _ n => decide (n < 64)
  | .flCapPopRead _ n ms => decide (n < 64) && readers ms
  | .flStatusRead _ n ms => decide (n < 64) && readers ms
  | .directionChangeEnd _ n => decide (n < 64)
  | .outputShort _ n => decide (n < 64)
  | .shortRetry _ n _ => decide (n < 64)
  | .dmaChStart _ e c => decide (e < 8) && decide (c < 8)
  | .dmaChannelTake _ e => decide (e < 8)
  | .dmaDescriptorFetch _ e => decide (e < 8)
  | .dmaDescriptorComplete _ e => decide (e < 8)
  | .dmaChannelDisable _ e _ _ => decide (e < 8)
  | .dmaResume _ e => decide (e < 8)
  | .archiveEntry _ _ _ => true
  | .stagingDrain _ => true
  | .driveWriteComplete _ _ => true
  | .segmentClose _ => true
  | .sbFlush _ => true
  | .keyframeStart _ _ => true
  | .keyframeHold _ _ => true
  | .sbFreeze _ => true
  | .sbUnfreeze _ i => decide (i < 64)
  | .sbAdopt _ => true
  | .sbReadStart _ _ => true
  | .sbReadComplete _ _ => true
  | .driveTimeout _ d => decide (d < 2)
  | .driveInsert _ d _ _ _ _ _ => decide (d < 2)
  | .driveRemove _ d => decide (d < 2)
  | .rebuildComplete _ d => decide (d < 2)
  | .sbStatusRead _ ms => readers ms
  | .sbDriveRead _ d ms => decide (d < 2) && readers ms
  | .sbKeyRead _ ms => readers ms
  | .faultRaise _ i _ => decide (i < 448)
  | .faultActionComplete _ => true
  | .quietPeriodEnd _ c => decide (c < 4)
  | .faultRelease _ => true
  | .faultClearRecovery _ => true
  | .faultInjectWrite _ _ => true
  | .faultQueueRead _ ms => readers ms
  | .faultSrcRead _ j ms => decide (j < 448) && readers ms
  | .wdogKick _ k _ m => decide (k < 32) && m.wf
  | .watchdogBite _ k => decide (k < 32)
  | .watchdogHaltExpire _ k => decide (k < 32)
  | .bootStart _ _ => true
  | .bootSourceFail _ _ => true
  | .networkBootTimeout _ => true
  | .otpProgramComplete _ _ => true
  | .peerAuth _ _ _ _ _ _ => true
  | .secCalRead _ ms => readers ms
  | .extest _ => true
  | .samplePreload _ => true
  | .idcode _ => true
  | .bypass _ => true
  | .tapAuth _ _ => true
  | .debugSessionClose _ => true
  | .dbgNop _ => true
  | .dbgHalt _ k _ => decide (k < 32)
  | .dbgResume _ k _ => decide (k < 32)
  | .dbgStep _ k => decide (k < 32)
  | .dbgRead _ k _ => decide (k < 32)
  | .dbgWrite _ k _ _ => decide (k < 32)
  | .dbgRegRead _ k _ => decide (k < 32)
  | .dbgRegWrite _ k _ _ => decide (k < 32)
  | .compWrite _ k _ _ => decide (k < 32)
  | .groupWrite _ k _ => decide (k < 32)
  | .dbgReservedOp _ => true
  | .haltTaken _ k => decide (k < 32)
  | .crossTrigger _ => true
  | .tapReset _ => true
  | .powerRequest _ v => decide (v < 4)
  | .parkSequence _ _ => true
  | .wake _ id => decide (id < 1024)
  | .pllLock _ => true
  | .pllLoss _ _ => true
  | .powerUp _ => true
  | .porstAssert _ => true
  | .railOutOfRange _ _ => true
  | .resetRelease _ balls _ _ _ => decide (balls < 4)
  | .bistComplete _ _ _ => true
  | .sensorRead _ rs => rs.length == 8
  | .ageingMeasure _ margins _ => margins.length == 16
  | .cprTempMaxRead _ ms => readers ms
  | .fieldLineSampleEdge _ ext lvl twin => decide (ext < 2 ^ 64) && decide (lvl < 2 ^ 64) && decide (twin < 2 ^ 64)
  | .faultSourceNoFault _ i => decide (i < 448)
  | .twinLinkUp _ => true
  | .twinTimeTransfer _ _ => true
  | .bootImageDelivered _ _ _ => true
  | .userCalibrationWritten _ => true

end Sys2Proof
end

