-- ==== Sys2Proof/Machine/Rim.lean ====
section
/-! DEFINITION. Writes over the Rim: access codes, reserved encodings, host-only fields, staged 64-bit writes, the action of each
register, and the writes of several masters that meet in one Rim cycle (01: R11; 02: R30–R39, R486; 03: R63). -/

namespace Sys2Proof.Machine

/-- A write of DER_CTRL: enable cleared empties the queues, then reeval_all acts (R104). -/
def State.derCtrlWrite (s : State) (new v : Word) : State :=
  let was := s.derOn
  let s := s.setReg R.DER_CTRL new
  let s := if was && !s.derOn then s.derDisable else s
  if bit v.toNat 8 then s.reevalAll else s

/-- A write of BEAM_EVENT: a position beyond the frame is a reserved encoding (R180). -/
def State.beamEventWrite (s : State) (r : RegHit) (v new : Word) : State :=
  let f := getBits v
  let m := f 31 30
  let b := s.beam r.inst
  if (m = 1 ∨ m = 2) ∧ b.htotal ≤ f 12 0 ∨ m = 1 ∧ b.vtotal ≤ f 24 13 then s.ignoreWrite r.base (r.addr - r.base) 0
  else s.setReg r.addr new

/-- A write of BLT_Q_CTRL: a queue disabled takes its waiting command back; cancel acts last (R318, R319). -/
def State.bltCtrlWrite (s : State) (q : Nat) (new v : Word) : State :=
  let s := s.setReg (R.BLT_Q_CTRL q) new
  let s := match s.blt with
    | some c => if c.queue = q ∧ c.waiting = true ∧ s.on (F.BLT_Q_CTRL.enable q) = false then s.setBlt none else s
    | none => s
  if bit v.toNat 2 then s.bltCancel q else s

/-- A write of DMA_CH_CTRL: enable cleared stops a running channel, a start is requested (R392, R395). -/
def State.dmaCtrlWrite (s : State) (e c : Nat) (new v : Word) : State :=
  let run := s.dmaChannel e == some c && s.on (F.DMA_CH_CTRL.enable e c)
  let s := s.setReg (R.DMA_CH_CTRL e c) new
  let s := if run && !s.on (F.DMA_CH_CTRL.enable e c) then s.dmaStop e c else s
  if bit v.toNat 1 then s.dmaStart e c else s

/-- A write of TANDEM_CTRL: handover, and a rejoin, which TANDEM_REJOIN carries on (R241, R242). -/
def State.tandemCtrlWrite (s : State) (new v : Word) : State :=
  let s := s.setReg R.TANDEM_CTRL new
  let s := if bit v.toNat 1 && s.locked then { s with tandem.handover := true } else s
  if bit v.toNat 2 then { s with tandem.rejoin := true }.emit (.message 9 21 []) else s

/-- A write of PEL_CTRL: a join, or a leave that the leader answers (R246, R247). -/
def State.pelCtrlWrite (s : State) (v : Word) : State :=
  let s := if bit v.toNat 1 then s.pelJoin else s
  if !bit v.toNat 2 then s
  else if s.pelState = 0 then { s with pel.joinAsked := false }
  else if s.pelState = 1 then s.leavePeloton
  else s.pelSend 3 [s.selfIndex]

/-- A write of ODO_CTRL: forget, then snap (R278, R282). -/
def State.odoCtrlWrite (s : State) (new v : Word) : State :=
  let s := s.setReg R.ODO_CTRL new
  let s := if bit v.toNat 1 then s.odoForget else s
  if bit v.toNat 0 then s.odoSnap else s

/-- A write of SB_CTRL: each action in bit order (R399, R403, R405, R406). -/
def State.sbCtrlWrite (s : State) (new v : Word) : State :=
  let b := bit v.toNat
  let s := s.setReg R.SB_CTRL new
  let s := if b 1 then s.sbFlush else s
  let s := if b 2 then s.keyRequest else s
  let s := if b 3 then s.sbFreeze else s
  let s := if b 4 then s.sbUnfreeze (s.rd F.SB_CTRL.span) else s
  if b 5 then s.sbAdopt else s

/-- A write of FAULT_CTRL (R415). -/
def State.faultCtrlWrite (s : State) (new v : Word) : State :=
  let s := s.setReg R.FAULT_CTRL new
  let s := if bit v.toNat 1 then s.faultRelease else s
  if bit v.toNat 2 then s.clearRecovery else s

/-- A write of GS_CTRL: an abort, then a check (R64, R75). -/
def State.gsCtrlWrite (s : State) (new v : Word) : State :=
  let s := s.setReg R.GS_CTRL new
  let s := if bit v.toNat 1 then s.gsAbort else s
  if bit v.toNat 0 then s.gsCheck else s

/-- A write of a 32-bit register by master m: `v` is the written word with the fields m may not reach left as they are, `new` the
word its access codes leave (R11). -/
def State.narrowWrite (s : State) (m : Master) (r : RegHit) (v new : Word) : State :=
  let f := getBits v
  match r.spec.id with
  | .GS_CTRL => s.gsCtrlWrite new v
  | .GS_STAGE_PTR => s.stagePtr (f 22 2)
  | .GS_STAGE_DATA => s.stageData v
  | .ING_CTRL =>
    let s := s.setReg r.addr new
    if f 8 8 = 1 then s.ingInit else s
  | .DER_CTRL => s.derCtrlWrite new v
  | .DER_REEVAL => s.derReeval (f 19 0)
  | .BEAM_COMMIT =>
    let s := if f 1 1 = 1 then s.beamCancel r.inst else s
    if f 0 0 = 1 then s.beamCommit r.inst else s
  | .BEAM_EVENT => s.beamEventWrite r v new
  | .TX_CTRL => s.txCtrlWrite r.inst v
  | .TX_AUX_CTRL => s.auxRequest r.inst v
  | .TX_TEST => (s.setReg r.addr new).refreshPhy r.inst
  | .TANDEM_CTRL => s.tandemCtrlWrite new v
  | .TANDEM_TAKE_REQ => s.takeRequest (f 23 0)
  | .PEL_CTRL => s.pelCtrlWrite v
  | .ODO_CTRL => s.odoCtrlWrite new v
  | .BLT_Q_BASE =>
    if s.on (F.BLT_Q_CTRL.enable r.i1) then s.ignoreWrite r.base (r.addr - r.base) 0 else s.setReg r.addr new
  | .BLT_Q_CTRL => s.bltCtrlWrite r.i1 new v
  | .BLT_Q_WR => s.bltWr r.i1 (f 15 0)
  | .BELL_CUE_CMD => s.cueWrite (f 24 16) (f 7 0)
  | .BELL_XP_DATA => s.xpWrite (f 15 0) (f 17 16)
  | .BELL_SINK => s.sinkWrite r.i1 (f 7 0) (f 9 8)
  | .BELL_BUS_GAIN => s.busGainWrite r.i1 (f 15 0)
  | .INTC_DOORBELL => s.bellEdge (f 12 8) (f 4 0)
  | .INTC_EOI => if m = .core r.i1 then s.eoi r.i1 (f 9 0) else s.ignoreWrite r.base (r.addr - r.base) 0
  | .INTC_FAST_EOI => if m = .core r.i1 then s.fastEoi r.i1 else s.ignoreWrite r.base (r.addr - r.base) 0
  | .TMR_CTRL => s.setTimerCtrl r.i1 new
  | .TMR_SNAP => s.timerSnap v.toNat
  | .DMA_CTRL => if f 0 0 = 1 then s.dmaResume r.inst else s
  | .DMA_CH_CTRL => s.dmaCtrlWrite r.inst r.i1 new v
  | .SB_CTRL => s.sbCtrlWrite new v
  | .SB_READ_CTRL => s.sbRead v
  | .FAULT_CTRL => s.faultCtrlWrite new v
  | .FAULT_INJECT => s.faultInject v
  | .WDOG_KICK => s.wdogKick r.i1 v m
  | .CPR_CTRL => s.powerRequest (f 1 0)
  | _ => s.setReg r.addr new

/-- The _HI write of a 64-bit register applies both words (R36). -/
def State.wideWrite (s : State) (r : RegHit) (v : Nat) : State :=
  match r.spec.id with
  | .GS_APPLY_FRAME => s.applyRequest v
  | .BEAM_COMMIT_FRAME => s.commitFrame r.inst v
  | .ODO_SET => s.odoSet v
  | .TMR_COUNT => s.setCount r.i1 v
  | .TMR_COMPARE => s.setCompare r.i1 v
  | .FL_OUT_SET => s.wr64 R.FL_OUT (s.rd64 R.FL_OUT ||| v)
  | .FL_OUT_CLR => s.wr64 R.FL_OUT (s.rd64 R.FL_OUT &&& (2 ^ 64 - 1 - v))
  | .FL_SHORT => (setBitsOf 64 v).foldl (fun s n => s.wr (F.FL_STATUS.short n) 0) s
  | .SB_FREEZE_START =>
    if s.rd64 R.SB_FREEZE_END < v then s.ignoreWrite r.base (r.addr + 4 - r.base) 0 else s.wr64 r.addr v
  | .SB_FREEZE_END =>
    if v < s.rd64 R.SB_FREEZE_START then s.ignoreWrite r.base (r.addr + 4 - r.base) 0 else s.wr64 r.addr v
  | _ => s.wr64 r.addr v

/-- Word of a register as a write by any master but the host reaches it: host-only fields as held, or without action (R30). -/
def reachable (fs : List FSpec) (old v : Word) : Word :=
  fs.foldl (fun w f => if f.host then setBits w f.hi f.lo (if f.acc = .rw then getBits old f.hi f.lo else 0) else w) v

/-- The word a _LO write stages, or a _HI write completes: the staged _LO, else the one held (R36). -/
def State.wordWrite (s : State) (r : RegHit) (v : Word) : State :=
  if r.high then
    let lo := (mget (fun _ => none) s.staged r.addr).getD (BitVec.ofNat 32 (s.wideValue r))
    let s := { s with staged := mset (fun _ => none) s.staged r.addr none }
    s.wideWrite r (lo.toNat + 2 ^ 32 * v.toNat)
  else { s with staged := mset (fun _ => none) s.staged r.addr (some v) }

/-- A write to the head's blocks at 0x1000–0x4FFF is a wake event (R194). -/
def State.wakeWrite (s : State) (r : RegHit) : State :=
  if r.unit = .HeadU ∧ 0x1000 ≤ r.addr - r.base ∧ r.addr - r.base < 0x5000 then s.wake r.inst else s

/-- A write of an aligned word to a register. -/
def State.regWrite (s : State) (m : Master) (r : RegHit) (w : Word) : State :=
  if !r.writable then s
  else if r.spec.wide then (s.wordWrite r w).wakeWrite r
  else if writesReserved r.spec.id r.i1 w then s.ignoreWrite r.base (r.addr - r.base) 0
  else
    let host := m == .vertik
    let old := s.reg r.addr
    let s := if !host && hostBlocked r.spec.fields old w then s.ignoreWrite r.base (r.addr - r.base) 3 else s
    let v := if host then w else reachable r.spec.fields old w
    (s.narrowWrite m r v (applyWrite r.spec.fields host old w)).wakeWrite r

/-- One Rim write as its unit takes it (R31, R33, R35, R63, R486). -/
def State.rimApply (s : State) (m : Master) (a : Nat) (w : Word) (size : Nat) : State :=
  let bad := decide (size ≠ 4) || a % 4 != 0
  match rimPlace a with
  | .array h off =>
    if bad then s.ignoreArray h off 1 else if !arrayMapped off then s.ignoreArray h off 2 else s.rimArray h off w
  | .noUnit => s.countUnmapped a
  | .outside => s
  | .hole b off =>
    if s.unitLoading a then s.satInc F.GS_CLASH.count else if bad then s.ignoreWrite b off 1 else s.ignoreWrite b off 2
  | .reg r =>
    if s.unitLoading a then s.satInc F.GS_CLASH.count
    else if bad then s.ignoreWrite r.base (a - r.base) 1
    else s.regWrite m r w

/-- What a write reports to its master: none, 1 no register or array word there, 2 misaligned or not 4 bytes (R28, R33), 4 a
host-only field would have been acted on by another master (R30). -/
def State.rimFault (s : State) (m : Master) (a : Nat) (w : Word) (size : Nat) : Option Nat :=
  let bad := decide (size ≠ 4) || a % 4 != 0
  match rimPlace a with
  | .array _ off => if bad then some 2 else if arrayMapped off then none else some 1
  | .reg r =>
    if bad then some 2
    else if m != .vertik && r.writable && !r.spec.wide && !writesReserved r.spec.id r.i1 w
        && hostBlocked r.spec.fields (s.reg r.addr) w then some 4
    else none
  | _ => some 1

/-- Writes in lane order. -/
def byLane (ws : List RimWrite) : List RimWrite := (List.range 4).flatMap fun l => ws.filter fun w => w.master.lane == l

/-- Writes of more than one lane are among those to one register. -/
def lanesMeet (ws : List RimWrite) : Bool := 1 < ((ws.map fun w => w.master.lane).eraseDups).length

/-- A write that a later lane of the present Rim cycle has made already stands over one that comes after it: its RW fields, or its
staged word (R39). -/
def State.restand (s : State) (r : RegHit) (w : RimWrite) : State :=
  if r.spec.wide then
    if r.high then s else { s with staged := mset (fun _ => none) s.staged r.addr (some w.value) }
  else if writesReserved r.spec.id r.i1 w.value then s
  else s.setReg r.addr (applyWrite (r.spec.fields.filter (·.acc == .rw)) (w.master == .vertik) (s.reg r.addr) w.value)

/-- The write w of an aligned word reaches register r among the writes of the present Rim cycle: it is applied, those of later lanes
stand over it, and writes of several lanes that meet on one word address are counted (R39, log 97). -/
def State.regLands (s : State) (r : RegHit) (w : RimWrite) : State :=
  let c := s.rimCycle
  let mine := c.writes.filter (·.addr == w.addr)
  let shown := if c.shown.any (·.1 == r.addr) then c.shown else c.shown ++ [(r.addr, s.fullValue r)]
  let s := s.rimApply w.master w.addr w.value w.size
  let s := (mine.filter fun v => w.master.lane < v.master.lane).foldl (fun s v => s.restand r v) s
  let s := { s with cycle := { c with writes := c.writes ++ [w], shown := shown } }
  if lanesMeet (mine ++ [w]) then
    (s.satInc (F.U_RIM_COLLISIONS.count r.base) (if lanesMeet mine then 1 else mine.length + 1)).wr
      (F.U_RIM_COLLISIONS.last_offset r.base) ((w.addr - r.base) / 4)
  else s

/-- One Rim write that reaches its unit now (R39). -/
def State.rimWrite (s : State) (m : Master) (a : Nat) (v : Word) (size : Nat) : State :=
  match rimPlace a with
  | .reg r => if size = 4 ∧ a % 4 = 0 then s.regLands r ⟨m, a, v, size⟩ else s.rimApply m a v size
  | _ => s.rimApply m a v size

/-- The writes that reach the units in one Rim cycle (R39). -/
def State.rimWrites (s : State) (ws : List RimWrite) : State :=
  (byLane ws).foldl (fun s w => s.rimWrite w.master w.addr w.value w.size) s

/-- REGISTER_WRITE: the Rim writes of one Rim cycle (R11, R39). -/
def execRegisterWrite (t : Nat) (ws : List RimWrite) (s : State) : Result := .next ((s.at t).rimWrites ws)

end Sys2Proof.Machine
end

