-- ==== Sys2Proof/Machine/Operands.lean ====
section
/-! DEFINITION. What a core's accesses reach, its operand forms, its trap and interrupt entries and the issue of one instruction
(02: R27, R28, R33, R42, R45; 17: R342–R355; 24: R449). -/

namespace Sys2Proof.Machine

/-- A trap being raised: cause and detail of CORE_TRAP_CAUSE, the address of a BUS_ERROR, and whether the saved PC is the next
instruction (R353). -/
structure Trap where
  cause : Nat
  detail : Nat := 0
  addr : Option Nat := none
  next : Bool := false
  deriving DecidableEq, Repr

/-- ILLEGAL, COP_ABSENT, BUS_ERROR. -/
def Trap.illegal : Trap := { cause := 1 }
def Trap.copAbsent : Trap := { cause := 2 }
def Trap.bus (detail ea : Nat) : Trap := { cause := 3, detail := detail, addr := some ea }

/-- What one instruction does to the machine, and the trap it raises. -/
abbrev Body := State → State × Option Trap

/-! ## What an address reaches (R27) -/

/-- The rows of the core's map. -/
inductive CoreSpace where
  | code
  | data
  | scene (off : Nat)
  | rim
  | priv (off : Nat)
  | rom (off : Nat)
  | unmapped
  deriving DecidableEq, Repr

/-- Row of an address. -/
def coreSpace (a : Nat) : CoreSpace :=
  if a < 0x1_0000 then .code
  else if a < 0x2_0000 then .data
  else if 0x1000_0000 ≤ a ∧ a < 0x2000_0000 then .scene (a - 0x1000_0000)
  else if 0x4000_0000 ≤ a ∧ a < 0x4130_0000 then .rim
  else if 0x5000_0000 ≤ a ∧ a < 0x5000_1000 then .priv (a - 0x5000_0000)
  else if 0xF000_0000 ≤ a ∧ a < 0xF002_0000 then .rom (a - 0xF000_0000)
  else .unmapped

/-- Key of CORE_CYCLE among the holding words of core k (R378). -/
def cycleKey (k : Nat) : Nat := 0x5000_0008 * 64 + 8 + k

/-- A load from the private block: CORE_CYCLE latches and returns its held word in the Forerunner profile (R377, R378). -/
def State.privLoad (s : State) (k o : Nat) : Word × State :=
  let v := s.privRead k o
  if !s.forerunner then (v, s)
  else if o = 8 then (v, { s with holding := mset (fun _ => none) s.holding (cycleKey k) (some (s.privRead k 0xC)) })
  else if o = 0xC then
    ((mget (fun _ => none) s.holding (cycleKey k)).getD v,
      { s with holding := mset (fun _ => none) s.holding (cycleKey k) none })
  else (v, s)

/-- A load of `n` bytes at `ea` by core k; scene memory after the core's earlier stores (R42). -/
def State.loadAt (s : State) (k ea n : Nat) : Except Trap Word × State :=
  if ea % n ≠ 0 then (.error (.bus 2 ea), s)
  else
    match coreSpace ea with
    | .code | .data => (.ok (BitVec.ofNat 32 (leNat (s.localRead k ea n))), s)
    | .scene off =>
      let (r, s) := (s.drainAll k).memRead (coreReq k) off n
      (if r.bad.isEmpty then .ok (BitVec.ofNat 32 (leNat r.bytes)) else .error (.bus 4 ea), s)
    | .rim =>
      match s.rimRead (.core k) ea n with
      | (some w, s) => (.ok w, s)
      | (none, s) => (.error (.bus (if n = 4 then 0 else 3) ea), s)
    | .priv o =>
      if n ≠ 4 then (.error (.bus 3 ea), s)
      else if !privListed o then (.error (.bus 0 ea), s)
      else
        let (w, s) := s.privLoad k o
        (.ok w, s)
    | .rom off =>
      if isPool k then (.ok (BitVec.ofNat 32 (leNat ((List.range n).map fun i => Config.bootRom (off + i)))), s)
      else (.error (.bus 1 ea), s)
    | .unmapped => (.error (.bus 0 ea), s)

/-- A store of the low `n` bytes of w at `ea` by core k; a Rim write lands at its issue (R38, log 1), and a misaligned one is counted
by its unit too (R33, R486). -/
def State.storeAt (s : State) (k ea n : Nat) (w : Word) : State × Option Trap :=
  if ea % n ≠ 0 then (if coreSpace ea = .rim then s.rimWrite (.core k) ea w n else s, some (.bus 2 ea))
  else
    match coreSpace ea with
    | .code | .data => (s.ownWrite k ea (natLe n w.toNat), none)
    | .scene off => (s.queueStore k off (natLe n w.toNat), none)
    | .rim =>
      let f := s.rimFault (.core k) ea w n
      (s.rimWrite (.core k) ea w n, match f with
        | some 1 => some (.bus 0 ea)
        | some 2 => some (.bus 3 ea)
        | _ => none)
    | .priv o =>
      if n ≠ 4 then (s, some (.bus 3 ea))
      else if privListed o then (s.privWrite k o w, none)
      else (s, some (.bus 0 ea))
    | .rom _ => (s, some (.bus 1 ea))
    | .unmapped => (s, some (.bus 0 ea))

/-! ## Data comparators (R449) -/

/-- Comparator n of core k. -/
def State.comp (s : State) (k n : Nat) : Comparator := mget (fun _ => {}) s.dbg.comps (k * 8 + n)

/-- Comparator's test of an operand: enabled, and equal under its mask. -/
def Comparator.hits (c : Comparator) (a : Nat) : Bool :=
  bit c.control 0 && (BitVec.ofNat 32 a &&& ~~~ BitVec.ofNat 32 c.mask) == (BitVec.ofNat 32 c.value &&& ~~~ BitVec.ofNat 32 c.mask)

/-- A data comparator's test of an access: its kind, and the word moved (none: an SC that stored nothing). -/
def Comparator.sees (c : Comparator) (ea : Nat) (write : Bool) (moved : Option Word) : Bool :=
  let kind := bits c.control 7 6
  c.hits ea && (kind == 0 || kind == (if write then 2 else 1))
    && (!bit c.control 1 || moved == some (BitVec.ofNat 32 c.data))

/-- The comparators `first`…`first + 3` that match ask for a halt: the lowest one is recorded, the groups of all are triggered. -/
def State.compHalt (s : State) (k first reason : Nat) (p : Comparator → Bool) : State :=
  match (List.range 4).filter fun i => p (s.comp k (first + i)) with
  | [] => s
  | n :: ns =>
    s.askHalt k { reason, comparator := first + n, groups := (n :: ns).foldl (fun g i => g ||| bits (s.comp k (first + i)).control 5 2) 0 }

/-- The data comparators see an access (R449). -/
def State.dataSeen (s : State) (k ea : Nat) (write : Bool) (moved : Option Word) : State :=
  s.compHalt k 4 4 (·.sees ea write moved)

/-! ## Operands (R343) -/

/-- A 24-bit operand, sign-extended. -/
def sext24 (v : Nat) : Word := BitVec.ofInt 32 (signed 24 v)

/-- Effective address of a memory mode. -/
def CoreS.ea (c : CoreS) (m : CMode) (v : Nat) : Nat :=
  match m with
  | .imm | .d => 0x1_0000 + v % 0x1_0000
  | .x => (c.get .x + sext24 v).toNat
  | .y => (c.get .y + sext24 v).toNat
  | .s => (c.sp + sext24 v).toNat
  | .xy => (c.get .x + c.get .y).toNat

/-- A load that the data comparators see. -/
def State.loadSeen (s : State) (k ea n : Nat) : Except Trap Word × State :=
  match s.loadAt k ea n with
  | (.ok w, s) => (.ok w, s.dataSeen k ea false (some w))
  | (.error t, s) => (.error t, s)

/-- A store that the data comparators see. -/
def State.storeSeen (s : State) (k ea n : Nat) (w : Word) : State × Option Trap :=
  match s.storeAt k ea n w with
  | (s, none) => (s.dataSeen k ea true (some (BitVec.ofNat 32 (w.toNat % 2 ^ (8 * n)))), none)
  | (s, some t) => (s, some t)

/-- M: the immediate, or the memory word at EA (R345). -/
def State.operand (s : State) (k : Nat) (m : CMode) (v : Nat) : Except Trap Word × State :=
  if m = .imm then (.ok (sext24 v), s) else s.loadSeen k ((s.core k).ea m v) 4

/-- An instruction that reads M and then changes the core. -/
def withOperand (k : Nat) (m : CMode) (v : Nat) (f : Word → CoreS → CoreS) : Body := fun s =>
  match s.operand k m v with
  | (.ok w, s) => (s.modCore k (f w), none)
  | (.error t, s) => (s, some t)

/-- An instruction that only changes the core. -/
def onCore (k : Nat) (f : CoreS → CoreS) : Body := fun s => (s.modCore k f, none)

/-- A load of `n` bytes whose destination is written after the delay slot (R348). -/
def loadInto (k ea n : Nat) (r : CReg) (f : CoreS → CoreS) : Body := fun s =>
  match s.loadSeen k ea n with
  | (.ok w, s) => (s.modCore k fun c => f { c with load := some (c.dest r, w) }, none)
  | (.error t, s) => (s, some t)

/-- Push a word: SP moves only when the store is made. -/
def pushWord (k : Nat) (w : CoreS → Word) : Body := fun s =>
  let c := s.core k
  let sp := c.sp - 4#32
  match s.storeSeen k sp.toNat 4 (w c) with
  | (s, none) => (s.modCore k fun c => { c with sp := sp }, none)
  | (s, some t) => (s, some t)

/-! ## Entries (R350–R353) -/

/-- The stack writes of a normal entry: the return address at SP + 4, the PS in use at SP, SP moved by 8. False when a write
trapped, which is DOUBLE. -/
def State.stackEntry (s : State) (k : Nat) (ret : Word) : State × Bool :=
  let ps := (s.core k).psWord
  let s := s.modCore k fun c => { c with sp := c.sp - 8#32 }
  let sp := (s.core k).sp
  match s.storeAt k (sp + 4#32).toNat 4 ret with
  | (s, some _) => (s, false)
  | (s, none) =>
    match s.storeAt k sp.toNat 4 ps with
    | (s, some _) => (s, false)
    | (s, none) => (s, true)

/-- DOUBLE: the core issues nothing more and raises its source (R353). -/
def State.doubleTrap (s : State) (k : Nat) : State :=
  (s.modCore k fun c => { c with cause := 6, detail := 0, mode := .dead }).raise (32 + k)

/-- Every entry clears the link and ends a wait (R350). -/
def State.entryStart (s : State) (k : Nat) : State :=
  (s.clearLink k).modCore k fun c => { c with mode := .run, resumed := false }

/-- The handler runs in the normal bank with I set (R351, R353; log 36). -/
def CoreS.normalHandler (c : CoreS) (pc : Word) : CoreS := { c with fb := false, ps := c.ps ||| 0x10#32, pc := pc }

/-- Take a trap: `at_` is the address of the instruction that raised it (R353). -/
def State.takeTrap (s : State) (k : Nat) (at_ : Word) (t : Trap) : State :=
  let ret := if t.next then (s.core k).pc else at_
  let (s, ok) := (s.entryStart k).stackEntry k ret
  if !ok then s.doubleTrap k
  else
    s.modCore k fun c =>
      { c.normalHandler c.vecTrap with
        cause := t.cause, detail := t.detail, trapAddr := (t.addr.map (BitVec.ofNat 32 ·)).getD c.trapAddr }

/-- Something other than its own instructions keeps core k from issuing: absent, stopped by DOUBLE, parked, halted, held from its
boundary on, or kept in reset by the recovery profile, in which only core 24 runs (01 R26, R71, R353, R414, R448). -/
def State.coreStopped (s : State) (k : Nat) : Bool :=
  !s.corePresent k || (s.core k).mode == .dead || s.coreParked k || s.coreHalted k || (s.coresHeld && s.atBoundary k)
    || (s.clock.recovery && k != 24)

/-- A boundary of core k is owed to a halt or to its park (R71, R448). -/
def State.boundaryTaken (s : State) (k : Nat) : Bool := (s.haltReq k).isSome || bit s.gs.parkDue k

/-- The fast-class interrupt the core would take at a boundary: its source (R351). -/
def State.fastTakeable (s : State) (k : Nat) : Option Nat :=
  let c := s.core k
  if c.fb || c.flag 5 then none else (s.presented k true).map (·.1)

/-- A normal-class interrupt would be taken at a boundary (R351). -/
def State.normalTakeable (s : State) (k : Nat) : Bool :=
  let c := s.core k
  !c.fb && !c.flag 4 && (s.presented k false).isSome

/-- The fast entry, with its automatic claim (R351, R368). -/
def State.fastEntry (s : State) (k i : Nat) : State :=
  ((s.entryStart k).fastClaim k i).modCore k fun c =>
    { c with fret := c.pc, psf := (c.ps &&& 0x3F#32) ||| 0x30#32, fb := true, pc := c.vecFast }

/-- The normal entry (R351). -/
def State.normalEntry (s : State) (k : Nat) : State :=
  let (s, ok) := (s.entryStart k).stackEntry k (s.core k).pc
  if !ok then s.doubleTrap k else s.modCore k fun c => c.normalHandler c.vecNormal

/-- The core is at an interruptible boundary where an entry may be taken (R349, R350). -/
def State.mayEnter (s : State) (k : Nat) : Bool :=
  decide (k < 32) && !s.coreStopped k && s.atBoundary k && !s.boundaryTaken k

/-- FAST_INTERRUPT_ENTRY (18: R368; R350, R351). -/
def execFastInterruptEntry (t k : Nat) (s : State) : Result :=
  let s := s.at t
  .next (if !s.mayEnter k then s
    else match s.fastTakeable k with
      | some i => s.fastEntry k i
      | none => s)

/-- NORMAL_INTERRUPT_ENTRY: after a fast one presented at the same boundary (R350, R351). -/
def execNormalInterruptEntry (t k : Nat) (s : State) : Result :=
  let s := s.at t
  .next (if s.mayEnter k && (s.fastTakeable k).isNone && s.normalTakeable k then s.normalEntry k else s)

/-! ## Issue -/

/-- Operand bits that an opcode's entry does not use (R342, R345; log 37). -/
def unusedMask (op : Nat) : Nat :=
  let hi := op / 16
  let lo := op % 8
  if op = 0x02 then 0xFFFF00
  else if op < 0x10 then 0xFFFFFF
  else if hi < 0xA then
    if lo = 6 ∨ lo = 1 then 0xFF0000 else if lo = 5 then 0xFFFFFF else 0
  else if hi = 0xA then 0xFFFFFF
  else if op < 0xB4 then 0xFFFFE0
  else if op < 0xBB then 0xFFFFFF
  else if op = 0xD0 ∨ op = 0xD1 then 0xFF0003
  else if hi = 0xD then 0xFFFFFF
  else if op = 0xE5 ∨ op = 0xE6 then 0xFFFFFC
  else 0

/-- Core k may issue its next instruction now: it runs, nothing stops it, and at a boundary no halt, park or interrupt comes
first (R348–R351). -/
def State.canIssue (s : State) (k : Nat) : Bool :=
  decide (k < 32) && (s.core k).mode == .run && !s.coreStopped k
    && (!s.atBoundary k || (!s.boundaryTaken k && (s.fastTakeable k).isNone && !s.normalTakeable k))

/-- A fetch at pc reaches code memory, or the Boot ROM for a pool core (R27, R435). -/
def fetchTrap (k : Nat) (pc : Word) : Option Trap :=
  match coreSpace pc.toNat with
  | .code => none
  | .rom _ => if isPool k then none else some (.bus 1 pc.toNat)
  | _ => some (.bus 6 pc.toNat)

/-- An instruction comparator matches the PC (R449). -/
def State.pcMatch (s : State) (k : Nat) : Bool := (List.range 4).any fun i => (s.comp k i).hits (s.core k).pc.toNat

/-- Run an instruction whose fetch and encoding are good: the PC moves on, its effect, the pending load after its own writes; on a
trap the pending load comes first (R348, R349, R353). -/
def State.runBody (s : State) (k : Nat) (body : Body) : State :=
  let c := s.core k
  let r := body (s.modCore k fun c => { c with pc := c.pc + 4#32, load := none, resumed := false })
  let s := match c.load with
    | some p => r.1.modCore k (·.land p)
    | none => r.1
  match r.2 with
  | some t => s.takeTrap k c.pc t
  | none => s

/-- The trap that an instruction's fetch, its encoding or its place in a delay slot raises (R342, R348). -/
def State.encodingTrap (s : State) (k : Nat) (op : Option Nat) (v : Nat) (load : Bool) : Option Trap :=
  match fetchTrap k (s.core k).pc, op with
  | some t, _ => some t
  | none, none => some .illegal
  | none, some op => if v &&& unusedMask op ≠ 0 ∨ load = true ∧ s.atBoundary k = false then some .illegal else none

/-- Core k runs one instruction: opcode (none: an entry marked "—"), operand, load class, effect. -/
def State.runOne (s : State) (k : Nat) (op : Option Nat) (v : Nat) (load : Bool) (body : Body) : State :=
  match s.encodingTrap k op v load with
  | some t => s.runBody k fun s => (s, some t)
  | none => s.runBody k body

/-- Core k issues one instruction. An instruction comparator halts it first, or after a delay slot (R449). -/
def State.issue (s : State) (k : Nat) (op : Option Nat) (v : Nat) (load : Bool) (body : Body) : State :=
  if !s.canIssue k then s
  else if s.atBoundary k then
    if s.pcMatch k && !(s.core k).resumed then s.compHalt k 0 3 (·.hits (s.core k).pc.toNat) else s.runOne k op v load body
  else (s.compHalt k 0 7 (·.hits (s.core k).pc.toNat)).runOne k op v load body

/-- One instruction of core k issued at root count t (R342). -/
def crank (t k op v : Nat) (load : Bool) (body : Body) (s : State) : Result := .next ((s.at t).issue k (some op) v load body)

end Sys2Proof.Machine
end

