-- ==== Sys2Proof/Machine/Crank.lean ====
section
/-! DEFINITION. The Crank instructions (17: R342–R358): for each, its effect, and the row that issues it. The instruction is the
command's own; core k fetches it at its PC (log 1). -/

namespace Sys2Proof.Machine

/-! ## System instructions -/

/-- NOP. -/
def crankNop (k : Nat) : Body := onCore k id
def execNop (t k : Nat) (s : State) : Result := crank t k 0x00 0 false (crankNop k) s

/-- WAIT: the return address is the next instruction. -/
def crankWait (k : Nat) : Body := onCore k fun c => { c with mode := .wait }
def execWait (t k : Nat) (s : State) : Result := crank t k 0x01 0 false (crankWait k) s

/-- TRAP: SOFTWARE with the code in operand [7:0]. -/
def crankTrap (code : Nat) : Body := fun s => (s, some { cause := 4, detail := code % 256, next := true })
def execTrap (t k code : Nat) (s : State) : Result := crank t k 0x02 code false (crankTrap code) s

/-- PS and PC as IRET takes them from the stack (R352). -/
def CoreS.restore (c : CoreS) (ps pc : Word) : CoreS :=
  let c := { c with pc := pc &&& ~~~ 3#32, sp := c.sp + 8#32 }
  if bit ps.toNat 6 then { c with fb := true, psf := ps &&& 0x3F#32 } else { c with ps := ps &&& 0x3F#32 }

/-- IRET (R352). -/
def crankIret (k : Nat) : Body := fun s =>
  let c := s.core k
  if c.fb then (s.modCore k fun c => { c with pc := c.fret, fb := false }, none)
  else
    match s.loadAt k c.sp.toNat 4 with
    | (.error t, s) => (s, some t)
    | (.ok ps, s) =>
      match s.loadAt k (c.sp + 4#32).toNat 4 with
      | (.error t, s) => (s, some t)
      | (.ok pc, s) => (s.modCore k (·.restore ps pc), none)
def execIret (t k : Nat) (s : State) : Result := crank t k 0x03 0 false (crankIret k) s

/-- DIS.N: I ← 1. -/
def crankDisN (k : Nat) : Body := onCore k (·.setFlag 4 true)
def execDisN (t k : Nat) (s : State) : Result := crank t k 0x04 0 false (crankDisN k) s

/-- EN.N: I ← 0. -/
def crankEnN (k : Nat) : Body := onCore k (·.setFlag 4 false)
def execEnN (t k : Nat) (s : State) : Result := crank t k 0x05 0 false (crankEnN k) s

/-- DIS.F: FM ← 1. -/
def crankDisF (k : Nat) : Body := onCore k (·.setFlag 5 true)
def execDisF (t k : Nat) (s : State) : Result := crank t k 0x06 0 false (crankDisF k) s

/-- EN.F: FM ← 0. -/
def crankEnF (k : Nat) : Body := onCore k (·.setFlag 5 false)
def execEnF (t k : Nat) (s : State) : Result := crank t k 0x07 0 false (crankEnF k) s

/-- CLR.C: C ← 0. -/
def crankClrC (k : Nat) : Body := onCore k (·.setFlag 0 false)
def execClrC (t k : Nat) (s : State) : Result := crank t k 0x08 0 false (crankClrC k) s

/-- SET.C: C ← 1. -/
def crankSetC (k : Nat) : Body := onCore k (·.setFlag 0 true)
def execSetC (t k : Nat) (s : State) : Result := crank t k 0x09 0 false (crankSetC k) s

/-- UNLINK. -/
def crankUnlink (k : Nat) : Body := fun s => (s.clearLink k, none)
def execUnlink (t k : Nat) (s : State) : Result := crank t k 0x0A 0 false (crankUnlink k) s

/-- FENCE: the write queue is empty and every Rim write has landed. -/
def crankFence (k : Nat) : Body := fun s => (s.drainAll k, none)
def execFence (t k : Nat) (s : State) : Result := crank t k 0x0B 0 false (crankFence k) s

/-- DBGBRK: with a session open a halt at the boundary after it, with the groups of comparator 0's control; else trap BREAK
(R353, R444, R450). -/
def crankDbgbrk (k : Nat) : Body := fun s =>
  if s.debugOpen then (s.askHalt k { reason := 5, groups := bits (s.comp k 0).control 5 2 }, none)
  else (s, some { cause := 5, next := true })
def execDbgbrk (t k : Nat) (s : State) : Result := crank t k 0x0C 0 false (crankDbgbrk k) s

/-! ## Loads and stores -/

/-- Low three opcode bits of a mode (R343). -/
def modeCol : CMode → Nat
  | .imm => 0
  | .d => 1
  | .x => 2
  | .y => 3
  | .s => 4
  | .xy => 5

/-- First opcode of LD and ST of a register; LDU is at LD + 6 (R344). -/
def ldBase : CReg → Nat
  | .x => 0x20
  | .y => 0x28
  | _ => 0x10
def stBase : CReg → Nat
  | .x => 0x30
  | .y => 0x38
  | _ => 0x18

/-- LD.A, LD.X, LD.Y: the immediate at once, a memory word after the delay slot (R345, R348). -/
def crankLd (k : Nat) (r : CReg) (m : CMode) (v : Nat) : Body :=
  if m = .imm then onCore k (·.put r (sext24 v)) else fun s => loadInto k ((s.core k).ea m v) 4 r id s
def execLd (t k : Nat) (r : CReg) (m : CMode) (v : Nat) (s : State) : Result :=
  crank t k (ldBase r + modeCol m) v (m != .imm) (crankLd k r m v) s

/-- LDU: bits [31:16] ← operand [15:0]. -/
def crankLdu (k : Nat) (r : CReg) (v : Nat) : Body := onCore k fun c => c.put r (setBits (c.get r) 31 16 v)
def execLdu (t k : Nat) (r : CReg) (v : Nat) (s : State) : Result := crank t k (ldBase r + 6) v false (crankLdu k r v) s

/-- ST.A, ST.X, ST.Y. There is no immediate form. -/
def crankSt (k : Nat) (r : CReg) (m : CMode) (v : Nat) : Body := fun s =>
  let c := s.core k
  s.storeSeen k (c.ea m v) 4 (c.get r)
def execSt (t k : Nat) (r : CReg) (m : CMode) (v : Nat) (s : State) : Result :=
  .next ((s.at t).issue k (if m = .imm then none else some (stBase r + modeCol m)) v false (crankSt k r m v))

/-- LD.B: A ← the byte at EA, after the delay slot. -/
def crankLdB (k : Nat) (m : CMode) (v : Nat) : Body := fun s => loadInto k ((s.core k).ea m v) 1 .a id s
def execLdB (t k : Nat) (m : CMode) (v : Nat) (s : State) : Result :=
  .next ((s.at t).issue k (if m = .imm then none else some (0x80 + modeCol m)) v true (crankLdB k m v))

/-- LD.H: A ← the halfword at EA, after the delay slot. -/
def crankLdH (k : Nat) (m : CMode) (v : Nat) : Body := fun s => loadInto k ((s.core k).ea m v) 2 .a id s
def execLdH (t k : Nat) (m : CMode) (v : Nat) (s : State) : Result :=
  .next ((s.at t).issue k (if m = .imm then none else some (0x88 + modeCol m)) v true (crankLdH k m v))

/-- ST.B: the byte at EA ← A. -/
def crankStB (k : Nat) (m : CMode) (v : Nat) : Body := fun s =>
  let c := s.core k
  s.storeSeen k (c.ea m v) 1 (c.get .a)
def execStB (t k : Nat) (m : CMode) (v : Nat) (s : State) : Result :=
  .next ((s.at t).issue k (if m = .imm then none else some (0x90 + modeCol m)) v false (crankStB k m v))

/-- ST.H: the halfword at EA ← A. -/
def crankStH (k : Nat) (m : CMode) (v : Nat) : Body := fun s =>
  let c := s.core k
  s.storeSeen k (c.ea m v) 2 (c.get .a)
def execStH (t k : Nat) (m : CMode) (v : Nat) (s : State) : Result :=
  .next ((s.at t).issue k (if m = .imm then none else some (0x98 + modeCol m)) v false (crankStH k m v))

/-! ## Arithmetic and logic -/

/-- ADD. -/
def crankAdd (k : Nat) (m : CMode) (v : Nat) : Body := withOperand k m v fun w c => c.putSum (addWords (c.get .a) w false)
def execAddA (t k : Nat) (m : CMode) (v : Nat) (s : State) : Result := crank t k (0x40 + modeCol m) v false (crankAdd k m v) s

/-- ADDC. -/
def crankAddc (k : Nat) (m : CMode) (v : Nat) : Body := withOperand k m v fun w c => c.putSum (addWords (c.get .a) w (c.flag 0))
def execAddc (t k : Nat) (m : CMode) (v : Nat) (s : State) : Result := crank t k (0x48 + modeCol m) v false (crankAddc k m v) s

/-- SUB. -/
def crankSub (k : Nat) (m : CMode) (v : Nat) : Body := withOperand k m v fun w c => c.putSum (subWords (c.get .a) w true)
def execSubA (t k : Nat) (m : CMode) (v : Nat) (s : State) : Result := crank t k (0x50 + modeCol m) v false (crankSub k m v) s

/-- SUBC. -/
def crankSubc (k : Nat) (m : CMode) (v : Nat) : Body := withOperand k m v fun w c => c.putSum (subWords (c.get .a) w (c.flag 0))
def execSubc (t k : Nat) (m : CMode) (v : Nat) (s : State) : Result := crank t k (0x58 + modeCol m) v false (crankSubc k m v) s

/-- AND. -/
def crankAnd (k : Nat) (m : CMode) (v : Nat) : Body := withOperand k m v fun w c => c.putNZ .a (c.get .a &&& w)
def execAndA (t k : Nat) (m : CMode) (v : Nat) (s : State) : Result := crank t k (0x60 + modeCol m) v false (crankAnd k m v) s

/-- OR. -/
def crankOr (k : Nat) (m : CMode) (v : Nat) : Body := withOperand k m v fun w c => c.putNZ .a (c.get .a ||| w)
def execOrA (t k : Nat) (m : CMode) (v : Nat) (s : State) : Result := crank t k (0x68 + modeCol m) v false (crankOr k m v) s

/-- XOR. -/
def crankXor (k : Nat) (m : CMode) (v : Nat) : Body := withOperand k m v fun w c => c.putNZ .a (c.get .a ^^^ w)
def execXorA (t k : Nat) (m : CMode) (v : Nat) (s : State) : Result := crank t k (0x70 + modeCol m) v false (crankXor k m v) s

/-- CMP: the flags of A − M. -/
def crankCmp (k : Nat) (m : CMode) (v : Nat) : Body := withOperand k m v fun w c => c.setSum (subWords (c.get .a) w true)
def execCmp (t k : Nat) (m : CMode) (v : Nat) (s : State) : Result := crank t k (0x78 + modeCol m) v false (crankCmp k m v) s

/-- TEST: the flags of A AND M. -/
def crankTest (k v : Nat) : Body := onCore k fun c => c.setNZ (c.get .a &&& sext24 v)
def execTestA (t k v : Nat) (s : State) : Result := crank t k 0xE4 v false (crankTest k v) s

/-- Column of a form of MOV in row 0xA_, its destination and its source. -/
def movCol : MovForm → Nat
  | .xa => 0
  | .ax => 1
  | .ya => 2
  | .ay => 3
  | .xsp => 4
  | .spx => 5
  | .yx => 6
  | .xy => 7
def movRegs : MovForm → CReg × CReg
  | .xa => (.x, .a)
  | .ax => (.a, .x)
  | .ya => (.y, .a)
  | .ay => (.a, .y)
  | .xsp => (.x, .sp)
  | .spx => (.sp, .x)
  | .yx => (.y, .x)
  | .xy => (.x, .y)

/-- MOV: N and Z except for MOV SP,X. -/
def crankMov (k : Nat) (f : MovForm) : Body := onCore k fun c =>
  let v := c.get (movRegs f).2
  if f = .spx then c.put .sp v else c.putNZ (movRegs f).1 v
def execMov (t k : Nat) (f : MovForm) (s : State) : Result := crank t k (0xA0 + movCol f) 0 false (crankMov k f) s

/-- Column of INC of a register; DEC is the next. -/
def incCol : CReg → Nat
  | .x => 8
  | .y => 10
  | _ => 12

/-- INC. -/
def crankInc (k : Nat) (r : CReg) : Body := onCore k fun c => c.putNZ r (c.get r + 1#32)
def execInc (t k : Nat) (r : CReg) (s : State) : Result := crank t k (0xA0 + incCol r) 0 false (crankInc k r) s

/-- DEC. -/
def crankDec (k : Nat) (r : CReg) : Body := onCore k fun c => c.putNZ r (c.get r - 1#32)
def execDec (t k : Nat) (r : CReg) (s : State) : Result := crank t k (0xA1 + incCol r) 0 false (crankDec k r) s

/-- NEG: A ← 0 − A. -/
def crankNeg (k : Nat) : Body := onCore k fun c => c.putSum (subWords 0#32 (c.get .a) true)
def execNeg (t k : Nat) (s : State) : Result := crank t k 0xAE 0 false (crankNeg k) s

/-- NOT: A ← NOT A. -/
def crankNot (k : Nat) : Body := onCore k fun c => c.putNZ .a (~~~ c.get .a)
def execNotA (t k : Nat) (s : State) : Result := crank t k 0xAF 0 false (crankNot k) s

/-- Count of a shift: operand [4:0], or X [4:0]. -/
def CoreS.shiftCount (c : CoreS) (byX : Bool) (v : Nat) : Nat := if byX then (c.get .x).toNat % 32 else v % 32

/-- SHL. -/
def crankShl (k : Nat) (byX : Bool) (v : Nat) : Body := onCore k fun c => c.shiftA .left (c.shiftCount byX v)
def execShl (t k : Nat) (byX : Bool) (v : Nat) (s : State) : Result :=
  crank t k (if byX then 0xB4 else 0xB0) v false (crankShl k byX v) s

/-- SHR. -/
def crankShr (k : Nat) (byX : Bool) (v : Nat) : Body := onCore k fun c => c.shiftA .right (c.shiftCount byX v)
def execShr (t k : Nat) (byX : Bool) (v : Nat) (s : State) : Result :=
  crank t k (if byX then 0xB5 else 0xB1) v false (crankShr k byX v) s

/-- SAR. -/
def crankSar (k : Nat) (byX : Bool) (v : Nat) : Body := onCore k fun c => c.shiftA .arithmetic (c.shiftCount byX v)
def execSar (t k : Nat) (byX : Bool) (v : Nat) (s : State) : Result :=
  crank t k (if byX then 0xB6 else 0xB2) v false (crankSar k byX v) s

/-- ROR. -/
def crankRor (k : Nat) (byX : Bool) (v : Nat) : Body := onCore k fun c => c.shiftA .rotate (c.shiftCount byX v)
def execRor (t k : Nat) (byX : Bool) (v : Nat) (s : State) : Result :=
  crank t k (if byX then 0xB7 else 0xB3) v false (crankRor k byX v) s

/-- MUL: bits [31:0] of A × X. -/
def crankMul (k : Nat) : Body := onCore k fun c => c.putNZ .a (c.get .a * c.get .x)
def execMul (t k : Nat) (s : State) : Result := crank t k 0xB8 0 false (crankMul k) s

/-- MULHU: bits [63:32] of the unsigned product. -/
def crankMulhu (k : Nat) : Body := onCore k fun c =>
  c.putNZ .a (BitVec.ofNat 32 ((c.get .a).toNat * (c.get .x).toNat / 2 ^ 32))
def execMulhu (t k : Nat) (s : State) : Result := crank t k 0xB9 0 false (crankMulhu k) s

/-- MULHS: bits [63:32] of the signed product. -/
def crankMulhs (k : Nat) : Body := onCore k fun c => c.putNZ .a (BitVec.ofInt 32 ((c.get .a).toInt * (c.get .x).toInt / 2 ^ 32))
def execMulhs (t k : Nat) (s : State) : Result := crank t k 0xBA 0 false (crankMulhs k) s

/-- CMP.X #, CMP.Y #. -/
def crankCmpX (k : Nat) (r : CReg) (v : Nat) : Body := onCore k fun c => c.setSum (subWords (c.get r) (sext24 v) true)
def execCmpX (t k : Nat) (r : CReg) (v : Nat) (s : State) : Result :=
  crank t k (if r = .y then 0xBC else 0xBB) v false (crankCmpX k r v) s

/-- ADD.X #, ADD.Y #, ADD.SP #: no flags. -/
def crankAddX (k : Nat) (r : CReg) (v : Nat) : Body := onCore k fun c => c.put r (c.get r + sext24 v)
def execAddX (t k : Nat) (r : CReg) (v : Nat) (s : State) : Result :=
  crank t k (if r = .sp then 0xBF else if r = .y then 0xBE else 0xBD) v false (crankAddX k r v) s

/-! ## Control flow -/

/-- Column of a condition in row 0xC_. -/
def condCol : Cond → Nat
  | .al => 0
  | .eq => 1
  | .ne => 2
  | .cs => 3
  | .cc => 4
  | .mi => 5
  | .pl => 6
  | .vs => 7
  | .vc => 8
  | .hi => 9
  | .ls => 10
  | .ge => 11
  | .lt => 12
  | .gt => 13
  | .le => 14

/-- PC ← the next instruction's + 4 × the operand. -/
def CoreS.branch (c : CoreS) (v : Nat) : CoreS := { c with pc := c.pc + 4#32 * sext24 v }

/-- BR and BR.cc. -/
def crankBr (k : Nat) (q : Cond) (v : Nat) : Body := onCore k fun c => if c.holds q then c.branch v else c
def execBr (t k : Nat) (c : Cond) (v : Nat) (s : State) : Result := crank t k (0xC0 + condCol c) v false (crankBr k c v) s

/-- LOOP: X ← X − 1; branch if X ≠ 0. -/
def crankLoop (k v : Nat) : Body := onCore k fun c =>
  let x := c.get .x - 1#32
  let c := c.put .x x
  if x = 0#32 then c else c.branch v
def execLoopX (t k v : Nat) (s : State) : Result := crank t k 0xCF v false (crankLoop k v) s

/-- Target of JMP and CALL: operand [15:0], or X with bits [1:0] ignored. -/
def CoreS.target (c : CoreS) (byX : Bool) (v : Nat) : Word :=
  (if byX then c.get .x else BitVec.ofNat 32 (v % 0x1_0000)) &&& ~~~ 3#32

/-- JMP. -/
def crankJmp (k : Nat) (byX : Bool) (v : Nat) : Body := onCore k fun c => { c with pc := c.target byX v }
def execJmp (t k : Nat) (byX : Bool) (v : Nat) (s : State) : Result :=
  crank t k (if byX then 0xD2 else 0xD0) v false (crankJmp k byX v) s

/-- CALL: pushes the next PC first. -/
def crankCall (k : Nat) (byX : Bool) (v : Nat) : Body := fun s =>
  match pushWord k (·.pc) s with
  | (s, some t) => (s, some t)
  | (s, none) => (s.modCore k fun c => { c with pc := c.target byX v }, none)
def execCall (t k : Nat) (byX : Bool) (v : Nat) (s : State) : Result :=
  crank t k (if byX then 0xD3 else 0xD1) v false (crankCall k byX v) s

/-- RET: PC ← the word at SP, SP ← SP + 4; not load class. -/
def crankRet (k : Nat) : Body := fun s =>
  match s.loadAt k (s.core k).sp.toNat 4 with
  | (.ok w, s) => (s.modCore k fun c => { c with pc := w &&& ~~~ 3#32, sp := c.sp + 4#32 }, none)
  | (.error t, s) => (s, some t)
def execRet (t k : Nat) (s : State) : Result := crank t k 0xD4 0 false (crankRet k) s

/-- Opcode of PUSH of a register; POP is the next. -/
def pushOp : CReg → Nat
  | .x => 0xD7
  | .y => 0xD9
  | .ps => 0xDB
  | _ => 0xD5

/-- PUSH. -/
def crankPush (k : Nat) (r : CReg) : Body := pushWord k (·.get r)
def execPush (t k : Nat) (r : CReg) (s : State) : Result := crank t k (pushOp r) 0 false (crankPush k r) s

/-- POP: load class; POP PS leaves FB. -/
def crankPop (k : Nat) (r : CReg) : Body := fun s => loadInto k (s.core k).sp.toNat 4 r (fun c => { c with sp := c.sp + 4#32 }) s
def execPop (t k : Nat) (r : CReg) (s : State) : Result := crank t k (pushOp r + 1) 0 true (crankPop k r) s

/-! ## LL, SC, the other bank -/

/-- EA of LL and SC. -/
def CoreS.linkEa (c : CoreS) (y : Bool) (v : Nat) : Nat := c.ea (if y then .y else .x) v

/-- A target LL and SC allow: scene memory and the core's own data memory (R354). -/
def linkTarget (ea : Nat) : Bool :=
  match coreSpace ea with
  | .data | .scene _ => true
  | _ => false

/-- LL: A ← the word, and the link (R354). -/
def crankLl (k : Nat) (y : Bool) (v : Nat) : Body := fun s =>
  let ea := (s.core k).linkEa y v
  if ea % 4 ≠ 0 then (s, some (.bus 2 ea))
  else if !linkTarget ea then (s, some (.bus 5 ea))
  else
    match loadInto k ea 4 .a id s with
    | (s, some t) => (s, some t)
    | (s, none) => ({ s with links := mset (fun _ => none) s.links k (some ea) }, none)
def execLl (t k : Nat) (y : Bool) (v : Nat) (s : State) : Result :=
  crank t k (if y then 0xE1 else 0xE0) v true (crankLl k y v) s

/-- The store of an SC is made: local data at once; in scene memory after the earlier stores, by the region rule (R43, R355). -/
def State.scStore (s : State) (k ea : Nat) (w : Word) : State × Bool :=
  match coreSpace ea with
  | .scene off =>
    let s := s.drainAll k
    if s.link k = some ea then (s.memWrite (coreReq k) off (natLe 4 w.toNat), s.admits (coreReq k) off && !s.ingestOwned off)
    else (s, false)
  | _ => if s.link k = some ea then (s.ownWrite k ea (natLe 4 w.toNat), true) else (s, false)

/-- SC (R355). -/
def crankSc (k : Nat) (y : Bool) (v : Nat) : Body := fun s =>
  let c := s.core k
  let ea := c.linkEa y v
  if ea % 4 ≠ 0 then (s, some (.bus 2 ea))
  else if !linkTarget ea then (s, some (.bus 5 ea))
  else
    let (s, made) := s.scStore k ea (c.get .a)
    let s := s.dataSeen k ea true (if made then some (c.get .a) else none)
    ((s.clearLink k).modCore k (·.setFlag 0 made), none)
def execSc (t k : Nat) (y : Bool) (v : Nat) (s : State) : Result :=
  crank t k (if y then 0xE3 else 0xE2) v false (crankSc k y v) s

/-- Register that WRALT and RDALT name. -/
def altReg (v : Nat) : CReg :=
  match v % 4 with
  | 0 => .a
  | 1 => .x
  | 2 => .y
  | _ => .ps

/-- WRALT: the other bank's register ← A. -/
def crankWralt (k v : Nat) : Body := onCore k fun c => c.putAlt (altReg v) (c.get .a)
def execWralt (t k v : Nat) (s : State) : Result := crank t k 0xE5 v false (crankWralt k v) s

/-- RDALT: A ← the other bank's register. -/
def crankRdalt (k v : Nat) : Body := onCore k fun c => c.put .a (c.getAlt (altReg v))
def execRdalt (t k v : Nat) (s : State) : Result := crank t k 0xE6 v false (crankRdalt k v) s

/-! ## Coprocessor (R356–R358) -/

/-- A use of a slot: COP_ABSENT first, whatever the operand (R353); then ILLEGAL unless `legal`. -/
def onSlot (k slot : Nat) (legal : Bool) (f : Body) : Body := fun s =>
  if !bit (s.core k).slots slot then (s, some .copAbsent) else if legal then f s else (s, some .illegal)

/-- A function of a slot that changes its registers only. -/
def onCop (k slot : Nat) (legal : Bool) (f : CopRegs → CopRegs) : Body :=
  onSlot k slot legal (onCore k fun c => { c with cop := f c.cop })

/-- Operand of CPOP function f with an argument. -/
def copOperand (f arg : Nat) : Nat := 0x1_0000 * f + arg % 0x1_0000

/-- CPWR: slot register operand [7:0] ← A; operand [23:8] must be 0 (R342). -/
def crankCpwr (k slot v : Nat) : Body := fun s =>
  let a := (s.core k).get .a
  onCop k slot ((({} : CopRegs).read slot v).isSome) (·.write slot v a) s
def execCpwr (t k slot v : Nat) (s : State) : Result := crank t k (0xF1 + 3 * (slot % 4)) v false (crankCpwr k (slot % 4) v) s

/-- CPRD: A ← slot register operand [7:0]; not load class. -/
def crankCprd (k slot v : Nat) : Body := onSlot k slot ((({} : CopRegs).read slot v).isSome)
  (onCore k fun c => c.put .a ((c.cop.read slot v).getD 0#32))
def execCprd (t k slot v : Nat) (s : State) : Result := crank t k (0xF2 + 3 * (slot % 4)) v false (crankCprd k (slot % 4) v) s

/-- DIVU. -/
def crankDivu (k : Nat) : Body := onCop k 0 true CopRegs.divu
def execDivu (t k v : Nat) (s : State) : Result := crank t k 0xF0 (copOperand 0 v) false (crankDivu k) s

/-- DIVS. -/
def crankDivs (k : Nat) : Body := onCop k 0 true CopRegs.divs
def execDivs (t k v : Nat) (s : State) : Result := crank t k 0xF0 (copOperand 1 v) false (crankDivs k) s

/-- MACS. -/
def crankMacs (k : Nat) : Body := onCop k 1 true CopRegs.macs
def execMacs (t k v : Nat) (s : State) : Result := crank t k 0xF3 (copOperand 0 v) false (crankMacs k) s

/-- MACU. -/
def crankMacu (k : Nat) : Body := onCop k 1 true CopRegs.macu
def execMacu (t k v : Nat) (s : State) : Result := crank t k 0xF3 (copOperand 1 v) false (crankMacu k) s

/-- MSUS. -/
def crankMsus (k : Nat) : Body := onCop k 1 true CopRegs.msus
def execMsus (t k v : Nat) (s : State) : Result := crank t k 0xF3 (copOperand 2 v) false (crankMsus k) s

/-- CLR: ACC ← 0. -/
def crankClr (k : Nat) : Body := onCop k 1 true fun p => { p with accLo := 0#32, accHi := 0#32 }
def execClr (t k v : Nat) (s : State) : Result := crank t k 0xF3 (copOperand 3 v) false (crankClr k) s

/-- CLZ. -/
def crankClz (k : Nat) : Body := onCop k 2 true fun p => { p with dst := BitVec.ofNat 32 (leadingZeros p.src) }
def execClz (t k v : Nat) (s : State) : Result := crank t k 0xF6 (copOperand 0 v) false (crankClz k) s

/-- POPC. -/
def crankPopc (k : Nat) : Body := onCop k 2 true fun p => { p with dst := BitVec.ofNat 32 (popCount 32 p.src.toNat) }
def execPopc (t k v : Nat) (s : State) : Result := crank t k 0xF6 (copOperand 1 v) false (crankPopc k) s

/-- EXTU. -/
def crankExtu (k v : Nat) : Body := onCop k 2 (fieldFits v) (·.extu v)
def execExtu (t k v : Nat) (s : State) : Result := crank t k 0xF6 (copOperand 2 v) false (crankExtu k v) s

/-- EXTS. -/
def crankExts (k v : Nat) : Body := onCop k 2 (fieldFits v) (·.exts v)
def execExts (t k v : Nat) (s : State) : Result := crank t k 0xF6 (copOperand 3 v) false (crankExts k v) s

/-- INS. -/
def crankIns (k v : Nat) : Body := onCop k 2 (fieldFits v) (·.ins v)
def execIns (t k v : Nat) (s : State) : Result := crank t k 0xF6 (copOperand 4 v) false (crankIns k v) s

/-- REV. -/
def crankRev (k : Nat) : Body := onCop k 2 true fun p => { p with dst := reverseBytes p.src }
def execRev (t k v : Nat) (s : State) : Result := crank t k 0xF6 (copOperand 5 v) false (crankRev k) s

/-- Start of the core cycle in hand. -/
def State.cycleStart (s : State) : Nat := s.now / 6 * 6

/-- BEAM and FRAME of SNAP: the bound head's position and frame number; 0 on a pool core and on a head with no frame yet. -/
def State.snapBeam (s : State) (k : Nat) : Word × Nat :=
  if isPool k then (0#32, 0)
  else
    match s.posOf k s.cycleStart with
    | none => (0#32, 0)
    | some (n, y, x) => (BitVec.ofNat 32 (y % 4096 * 2 ^ 16 + x % 8192), n)

/-- SNAP: root count, beam position and frame number at the start of the issue cycle. -/
def crankSnap (k : Nat) : Body := fun s =>
  let c := s.cycleStart
  let b := s.snapBeam k
  onCop k 3 true (fun p => { p with
    rootLo := BitVec.ofNat 32 c, rootHi := BitVec.ofNat 32 (c / 2 ^ 32), beam := b.1, frameLo := BitVec.ofNat 32 b.2,
    frameHi := BitVec.ofNat 32 (b.2 / 2 ^ 32) }) s
def execSnap (t k v : Nat) (s : State) : Result := crank t k 0xF9 (copOperand 0 v) false (crankSnap k) s

/-- WAITUNTIL: the wait keeps the PC at the instruction (R358). -/
def crankWaituntil (k : Nat) : Body := fun s =>
  let past := decide ((s.core k).cop.until64 ≤ s.cycleStart)
  onSlot k 3 true (onCore k fun c => if past then c else { c with pc := c.pc - 4#32, mode := .waitUntil }) s
def execWaituntil (t k v : Nat) (s : State) : Result := crank t k 0xF9 (copOperand 1 v) false (crankWaituntil k) s

/-- WAITUNTIL_EXPIRE: the first core cycle at or after UNTIL ends the wait of a core that is not stopped. -/
def execWaituntilExpire (t k : Nat) (s : State) : Result :=
  let s := s.at t
  let c := s.core k
  .next (if k < 32 ∧ c.mode = .waitUntil ∧ s.coreStopped k = false ∧ s.boundaryTaken k = false ∧ c.cop.until64 ≤ s.cycleStart then
      s.modCore k fun c => { c with mode := .run, pc := c.pc + 4#32 }
    else s)

/-! ## Decoding a stored word, for the single step and for illegal words -/

/-- A decoded word: load class and effect. -/
structure Decoded where
  load : Bool
  body : Body

/-- Mode of a column 0–5. -/
def colMode : Nat → Option CMode
  | 0 => some .imm
  | 1 => some .d
  | 2 => some .x
  | 3 => some .y
  | 4 => some .s
  | 5 => some .xy
  | _ => none

/-- Rows 0x1_–0x9_: LD, LDU, ST and the arithmetic forms. -/
def decodeModes (k op v : Nat) : Option Decoded :=
  let hi := op / 16
  let up := op / 8 % 2 == 1
  let plain (b : CMode → Body) (m : CMode) : Option Decoded := some ⟨false, b m⟩
  match colMode (op % 8) with
  | none =>
    if op = 0x16 then some ⟨false, crankLdu k .a v⟩ else if op = 0x26 then some ⟨false, crankLdu k .x v⟩
    else if op = 0x2E then some ⟨false, crankLdu k .y v⟩ else none
  | some m =>
    let mem := m != .imm
    match hi, up with
    | 1, false => some ⟨mem, crankLd k .a m v⟩
    | 1, true => if mem then plain (crankSt k .a · v) m else none
    | 2, false => some ⟨mem, crankLd k .x m v⟩
    | 2, true => some ⟨mem, crankLd k .y m v⟩
    | 3, false => if mem then plain (crankSt k .x · v) m else none
    | 3, true => if mem then plain (crankSt k .y · v) m else none
    | 4, false => plain (crankAdd k · v) m
    | 4, true => plain (crankAddc k · v) m
    | 5, false => plain (crankSub k · v) m
    | 5, true => plain (crankSubc k · v) m
    | 6, false => plain (crankAnd k · v) m
    | 6, true => plain (crankOr k · v) m
    | 7, false => plain (crankXor k · v) m
    | 7, true => plain (crankCmp k · v) m
    | 8, false => if mem then some ⟨true, crankLdB k m v⟩ else none
    | 8, true => if mem then some ⟨true, crankLdH k m v⟩ else none
    | 9, false => if mem then plain (crankStB k · v) m else none
    | 9, true => if mem then plain (crankStH k · v) m else none
    | _, _ => none

/-- Functions of CPOP: slot, function, argument. -/
def decodeCop (k slot f arg : Nat) : Body :=
  match slot, f with
  | 0, 0 => crankDivu k
  | 0, 1 => crankDivs k
  | 1, 0 => crankMacs k
  | 1, 1 => crankMacu k
  | 1, 2 => crankMsus k
  | 1, 3 => crankClr k
  | 2, 0 => crankClz k
  | 2, 1 => crankPopc k
  | 2, 2 => crankExtu k arg
  | 2, 3 => crankExts k arg
  | 2, 4 => crankIns k arg
  | 2, 5 => crankRev k
  | 3, 0 => crankSnap k
  | 3, 1 => crankWaituntil k
  | _, _ => onSlot k slot false (onCore k id)

/-- Rows 0x0_ and 0xA_–0xF_. -/
def decodeRest (k op v : Nat) : Option Decoded :=
  let p (b : Body) : Option Decoded := some ⟨false, b⟩
  match op with
  | 0x00 => p (crankNop k)
  | 0x01 => p (crankWait k)
  | 0x02 => p (crankTrap v)
  | 0x03 => p (crankIret k)
  | 0x04 => p (crankDisN k)
  | 0x05 => p (crankEnN k)
  | 0x06 => p (crankDisF k)
  | 0x07 => p (crankEnF k)
  | 0x08 => p (crankClrC k)
  | 0x09 => p (crankSetC k)
  | 0x0A => p (crankUnlink k)
  | 0x0B => p (crankFence k)
  | 0x0C => p (crankDbgbrk k)
  | 0xA0 => p (crankMov k .xa)
  | 0xA1 => p (crankMov k .ax)
  | 0xA2 => p (crankMov k .ya)
  | 0xA3 => p (crankMov k .ay)
  | 0xA4 => p (crankMov k .xsp)
  | 0xA5 => p (crankMov k .spx)
  | 0xA6 => p (crankMov k .yx)
  | 0xA7 => p (crankMov k .xy)
  | 0xA8 => p (crankInc k .x)
  | 0xA9 => p (crankDec k .x)
  | 0xAA => p (crankInc k .y)
  | 0xAB => p (crankDec k .y)
  | 0xAC => p (crankInc k .a)
  | 0xAD => p (crankDec k .a)
  | 0xAE => p (crankNeg k)
  | 0xAF => p (crankNot k)
  | 0xB0 => p (crankShl k false v)
  | 0xB1 => p (crankShr k false v)
  | 0xB2 => p (crankSar k false v)
  | 0xB3 => p (crankRor k false v)
  | 0xB4 => p (crankShl k true v)
  | 0xB5 => p (crankShr k true v)
  | 0xB6 => p (crankSar k true v)
  | 0xB7 => p (crankRor k true v)
  | 0xB8 => p (crankMul k)
  | 0xB9 => p (crankMulhu k)
  | 0xBA => p (crankMulhs k)
  | 0xBB => p (crankCmpX k .x v)
  | 0xBC => p (crankCmpX k .y v)
  | 0xBD => p (crankAddX k .x v)
  | 0xBE => p (crankAddX k .y v)
  | 0xBF => p (crankAddX k .sp v)
  | 0xC0 => p (crankBr k .al v)
  | 0xC1 => p (crankBr k .eq v)
  | 0xC2 => p (crankBr k .ne v)
  | 0xC3 => p (crankBr k .cs v)
  | 0xC4 => p (crankBr k .cc v)
  | 0xC5 => p (crankBr k .mi v)
  | 0xC6 => p (crankBr k .pl v)
  | 0xC7 => p (crankBr k .vs v)
  | 0xC8 => p (crankBr k .vc v)
  | 0xC9 => p (crankBr k .hi v)
  | 0xCA => p (crankBr k .ls v)
  | 0xCB => p (crankBr k .ge v)
  | 0xCC => p (crankBr k .lt v)
  | 0xCD => p (crankBr k .gt v)
  | 0xCE => p (crankBr k .le v)
  | 0xCF => p (crankLoop k v)
  | 0xD0 => p (crankJmp k false v)
  | 0xD1 => p (crankCall k false v)
  | 0xD2 => p (crankJmp k true v)
  | 0xD3 => p (crankCall k true v)
  | 0xD4 => p (crankRet k)
  | 0xD5 => p (crankPush k .a)
  | 0xD6 => some ⟨true, crankPop k .a⟩
  | 0xD7 => p (crankPush k .x)
  | 0xD8 => some ⟨true, crankPop k .x⟩
  | 0xD9 => p (crankPush k .y)
  | 0xDA => some ⟨true, crankPop k .y⟩
  | 0xDB => p (crankPush k .ps)
  | 0xDC => some ⟨true, crankPop k .ps⟩
  | 0xE0 => some ⟨true, crankLl k false v⟩
  | 0xE1 => some ⟨true, crankLl k true v⟩
  | 0xE2 => p (crankSc k false v)
  | 0xE3 => p (crankSc k true v)
  | 0xE4 => p (crankTest k v)
  | 0xE5 => p (crankWralt k v)
  | 0xE6 => p (crankRdalt k v)
  | _ =>
    if op < 0xF0 ∨ 0xFB < op then none
    else
      let slot := (op - 0xF0) / 3
      match (op - 0xF0) % 3 with
      | 0 => p (decodeCop k slot (v / 0x1_0000) (v % 0x1_0000))
      | 1 => p (crankCpwr k slot v)
      | _ => p (crankCprd k slot v)

/-- Effect of a stored word: none for an entry marked "—" (R344). -/
def decodeCrank (k : Nat) (w : Word) : Option Decoded :=
  let op := w.toNat / 0x100_0000
  let v := w.toNat % 0x100_0000
  if 0x10 ≤ op ∧ op < 0xA0 then decodeModes k op v else decodeRest k op v

/-- Run one stored word. -/
def State.runWord (s : State) (k : Nat) (w : Word) : State :=
  let op := w.toNat / 0x100_0000
  let v := w.toNat % 0x100_0000
  match decodeCrank k w with
  | none => s.runOne k none v false (onCore k id)
  | some d => s.runOne k (some op) v d.load d.body

/-- A CPOP function of a slot that the table lists, with a bit field inside the word (R358). -/
def copListed (slot f arg : Nat) : Bool :=
  match slot with
  | 0 => decide (f < 2)
  | 1 => decide (f < 4)
  | 2 => if f = 2 ∨ f = 3 ∨ f = 4 then fieldFits arg else decide (f < 6)
  | _ => decide (f < 2)

/-- A word that is illegal wherever it stands: an entry marked "—", a non-zero unused bit, a reserved slot register or function
(R342, R358). -/
def illegalWord (w : Word) : Bool :=
  let op := w.toNat / 0x100_0000
  let v := w.toNat % 0x100_0000
  (decodeCrank 0 w).isNone || decide (v &&& unusedMask op ≠ 0)
    || (decide (0xF0 ≤ op ∧ op ≤ 0xFB) &&
      (let slot := (op - 0xF0) / 3
       if (op - 0xF0) % 3 = 0 then !copListed slot (v / 0x1_0000) (v % 0x1_0000)
       else (({} : CopRegs).read slot v).isNone))

/-- ILLEGAL_INSTRUCTION: core k issues an illegal word; an absent slot comes first (R342, R353). -/
def execIllegalInstruction (t k : Nat) (w : Word) (s : State) : Result :=
  let s := s.at t
  let op := w.toNat / 0x100_0000
  let v := w.toNat % 0x100_0000
  .next (if !illegalWord w then s
    else
      match decodeCrank k w with
      | none => s.issue k none v false (onCore k id)
      | some d => s.issue k (some op) v d.load d.body)

end Sys2Proof.Machine
end

