-- ==== Sys2Proof/Machine/Debug.lean ====
section
/-! DEFINITION. The debug port and run control (24: R442–R451): TAP instructions, authentication, the operations of DBG_ACCESS,
halts and cross-triggers. Every operation completes at its row: the 80 shifts of DBG_ACCESS at 50 MHz take longer than any of
them, so status BUSY is never met (log 39). -/

namespace Sys2Proof.Machine

/-! ## TAP (R442) -/

/-- Select a TAP instruction. -/
def State.tapSelect (s : State) (code : Nat) : State := { s with dbg.ir := code }

/-- EXTEST: in Factory; acts as BYPASS in any other state. -/
def execExtest (t : Nat) (s : State) : Result :=
  let s := s.at t
  .next (s.tapSelect (if s.secState = 0 then 0x00 else 0xFF))

/-- SAMPLE/PRELOAD. -/
def execSamplePreload (t : Nat) (s : State) : Result := .next ((s.at t).tapSelect 0x01)

/-- IDCODE: the 32-bit data register. -/
def execIdcode (t : Nat) (s : State) : Result := .next (((s.at t).tapSelect 0x02).emit (.debug 0 0x09624A6B))

/-- BYPASS: its own code, and every code the table does not list. -/
def execBypass (t : Nat) (s : State) : Result := .next ((s.at t).tapSelect 0xFF)

/-- TAP_RESET: TRST_B low (R444). -/
def execTapReset (t : Nat) (s : State) : Result := .next (((s.at t).tapSelect 0x02).closeDebug)

/-! ## Authentication (R443, R444) -/

/-- Message under the probe's signature. -/
def State.debugText (s : State) (nonce : List Byte) : List Byte := ascii "DBUG" ++ nonce ++ s.idPub

/-- What the probe shifted in opens a session: slot, 31 zero bytes, signature over the nonce. -/
def State.debugAccepts (s : State) (nonce body : List Byte) : Bool :=
  body.length == 96 && allZero (slice body 1 31) &&
    match s.debugKey (leAt body 0 1) with
    | some key => ed25519Verify key (s.debugText nonce) (slice body 32 64)
    | none => false

/-- TAP_AUTH: Capture-DR loads a fresh nonce, the probe shifts in `body`, Update-DR checks it (R443). -/
def execTapAuth (t : Nat) (body : List Byte) (s : State) : Result :=
  let (i, s) := ((s.at t).tapSelect 0x10).draw
  let nonce := (List.range 32).map (Config.freeByte i)
  let s := s.emit (.message 24 0 (nonce.map (·.toNat)))
  .next (if s.debugAccepts nonce body then
      let s := (s.set1 F.DBG_SESSION.opened).wr F.DBG_SESSION.slot (leAt body 0 1)
      { s with dbg.lastOp := s.now }
    else s.raise 387)

/-- DEBUG_SESSION_CLOSE: 600 s without an operation, or a slot without the permission (R444). -/
def execDebugSessionClose (t : Nat) (s : State) : Result :=
  let s := s.at t
  .next (if usRoot 600_000_000 + s.dbg.lastOp ≤ s.now then s.closeDebug else s.debugRecheck)

/-! ## Halting (R448, R451) -/

/-- Void every unlock challenge of the chip (R448). -/
def State.voidChallenges (s : State) : State :=
  { s with vtk.sessions := s.vtk.sessions.map fun (p : Nat × VSession) => (p.1, { p.2 with challenge := none }) }

/-- A trigger of groups leaves: it arrives 6 core cycles after the cycle in which its core is halted (R451). -/
def State.trigger (s : State) (groups : Nat) : State :=
  if groups = 0 then s else { s with dbg.triggers := s.dbg.triggers ++ [(s.now / 6 * 6 + 36, groups)] }

/-- Core k halts for a request (R448, R449). -/
def State.takeHalt (s : State) (k : Nat) (r : HaltReq) : State :=
  let s := s.wr F.DBG_HALTED.cores (setBit (s.rd F.DBG_HALTED.cores) k true)
  let s := (s.wr (F.DBG_CORE.reason k) r.reason).wr (F.DBG_CORE.comparator k) r.comparator
  let s := ((s.setHaltReq k none).clearLink k).voidChallenges
  let s := if s.locked then { s with tandem.haltDiverge := true } else s
  s.trigger r.groups

/-- HALT_TAKEN: the waiting request of core k, at its boundary (R349, R448). -/
def execHaltTaken (t k : Nat) (s : State) : Result :=
  let s := s.at t
  .next (match s.haltReq k with
    | some r => if k < 32 ∧ s.atBoundary k ∧ s.coreHalted k = false then s.takeHalt k r else s
    | none => s)

/-- CROSS_TRIGGER: every trigger that has arrived asks its members to halt (R451). -/
def execCrossTrigger (t : Nat) (s : State) : Result :=
  let s := s.at t
  let due := s.dbg.triggers.filter fun (p : Nat × Nat) => decide (p.1 ≤ s.now)
  let groups := due.foldl (fun (g : Nat) (p : Nat × Nat) => g ||| p.2) 0
  let s := { s with dbg.triggers := s.dbg.triggers.filter fun (p : Nat × Nat) => decide (s.now < p.1) }
  .next ((List.range 32).foldl (fun (s : State) k =>
    if s.rd (F.DBG_CORE.groups k) &&& groups = 0 then s else s.askHalt k { reason := 6 }) s)

/-! ## Operations of DBG_ACCESS (R445) -/

/-- Statuses. -/
def dbgOk := 0
def dbgNotHalted := 2
def dbgBusError := 3
def dbgMemError := 4
def dbgDenied := 5

/-- The next Capture-DR's status and result. -/
def State.dbgAnswer (s : State) (status result : Nat) : State :=
  { s with dbg.status := status, dbg.result := result }.emit (.debug status result)

/-- One operation: with an open session only. -/
def dbgOp (t : Nat) (f : State → State) (s : State) : Result :=
  let s := s.at t
  .next (if s.debugOpen then f { s.tapSelect 0x11 with dbg.lastOp := s.now } else s)

/-- An operation that needs core k halted. -/
def dbgHalted (t k : Nat) (f : State → State) (s : State) : Result :=
  dbgOp t (fun s => if s.coreHalted k then f s else s.dbgAnswer dbgNotHalted 0) s

/-- NOP. -/
def execDbgNop (t : Nat) (s : State) : Result := dbgOp t (fun s => s.dbgAnswer dbgOk 0) s

/-- HALT: a request, with the groups of data [3:0]; a core that is halted already triggers them at once. -/
def execDbgHalt (t k data : Nat) (s : State) : Result :=
  dbgOp t (fun s =>
    let k := k % 32
    let s := if s.coreHalted k then s.trigger (data % 16) else s.askHalt k { reason := 1, groups := data % 16 }
    s.dbgAnswer dbgOk 0) s

/-- RESUME: the core, or with data bit 4 every halted member of its groups. -/
def execDbgResume (t k data : Nat) (s : State) : Result :=
  dbgHalted t k (fun s =>
    let g := s.rd (F.DBG_CORE.groups k)
    let s' := s.resumeCore k
    let s' := if bit data 4 then
        (List.range 32).foldl (fun (s : State) j => if s.rd (F.DBG_CORE.groups j) &&& g = 0 then s else s.resumeCore j) s'
      else s'
    s'.dbgAnswer dbgOk 0) s

/-- The instruction word at the PC of core k. -/
def State.fetchWord (s : State) (k : Nat) : Word :=
  let pc := (s.core k).pc.toNat
  match coreSpace pc with
  | .code => BitVec.ofNat 32 (leNat (s.localRead k pc 4))
  | .rom off => BitVec.ofNat 32 (leNat ((List.range 4).map fun i => Config.bootRom (off + i)))
  | _ => 0#32

/-- A load steps together with its delay slot (R349, R448). -/
def State.stepSlot (s : State) (k : Nat) : State :=
  if s.atBoundary k then s else (s.compHalt k 0 7 (·.hits (s.core k).pc.toNat)).runWord k (s.fetchWord k)

/-- What a step runs: an interrupt entry due at the boundary, the end of a wait, or one instruction (R448). -/
def State.stepCore (s : State) (k : Nat) : State :=
  let c := s.core k
  if s.coreStopped k || bit s.gs.parkDue k then s
  else
    match s.fastTakeable k with
    | some i => s.fastEntry k i
    | none =>
      if s.normalTakeable k then s.normalEntry k
      else if c.mode = .run then (s.runWord k (s.fetchWord k)).stepSlot k
      else if c.mode = .waitUntil ∧ c.cop.until64 ≤ s.cycleStart then s.modCore k fun c => { c with mode := .run, pc := c.pc + 4#32 }
      else s

/-- STEP: a halt its instruction asked for keeps its own reason. -/
def execDbgStep (t k : Nat) (s : State) : Result :=
  dbgHalted t k (fun s =>
    let s := (s.resumeCore k).stepCore k
    let s := s.takeHalt k ((s.haltReq k).getD { reason := 2 })
    s.dbgAnswer dbgOk (s.core k).pc.toNat) s

/-- The word a debug read shows: no side effect beyond the Hub's own (R446, R447). -/
def State.debugRead (s : State) (k a : Nat) : Except Nat Word × State :=
  if a % 4 ≠ 0 then (.error dbgBusError, s)
  else
    match coreSpace a with
    | .rim =>
      (match s.rimAnswer (.core k) a 4 with
        | some w => .ok w
        | none => .error dbgBusError, s)
    | .priv o =>
      (if !privListed o then .error dbgBusError
        else if o = 0xC ∧ s.forerunner = true then
          .ok ((mget (fun _ => none) s.holding (cycleKey k)).getD (s.privRead k o))
        else .ok (s.privRead k o), s)
    | _ =>
      match s.loadAt k a 4 with
      | (.ok w, s) => (.ok w, s)
      | (.error t, s) => (.error (if t.detail = 4 then dbgMemError else dbgBusError), s)

/-- READ. -/
def execDbgRead (t k a : Nat) (s : State) : Result :=
  dbgHalted t k (fun s =>
    match s.debugRead k a with
    | (.ok w, s) => s.dbgAnswer dbgOk w.toNat
    | (.error st, s) => s.dbgAnswer st 0) s

/-- WRITE: through the core's ports; a host-only field is DENIED (R30, R446). -/
def execDbgWrite (t k a : Nat) (w : Word) (s : State) : Result :=
  dbgHalted t k (fun s =>
    let host := coreSpace a == .rim && s.rimFault (.core k) a w 4 == some 4
    match s.storeAt k a 4 w with
    | (s, some _) => s.dbgAnswer dbgBusError 0
    | (s, none) => (s.drainAll k).dbgAnswer (if host then dbgDenied else dbgOk) 0) s

/-- A core register by its debug index: A, X, Y, SP, PC, PS, AF, XF, YF, PSF. -/
def CoreS.debugReg (c : CoreS) (i : Nat) : Option Word :=
  match i with
  | 0 => some c.a
  | 1 => some c.x
  | 2 => some c.y
  | 3 => some c.sp
  | 4 => some c.pc
  | 5 => some (c.ps &&& 0x3F#32)
  | 6 => some c.af
  | 7 => some c.xf
  | 8 => some c.yf
  | 9 => some ((c.psf &&& 0x3F#32) ||| (if c.fb then 0x40#32 else 0#32))
  | _ => none

/-- Write one: PS and PSF leave FB (R445); a write of the PC ends a wait (log 40). -/
def CoreS.setDebugReg (c : CoreS) (i : Nat) (w : Word) : Option CoreS :=
  match i with
  | 0 => some { c with a := w }
  | 1 => some { c with x := w }
  | 2 => some { c with y := w }
  | 3 => some { c with sp := w }
  | 4 =>
    if w &&& 3#32 ≠ 0#32 then none
    else some { c with pc := w, mode := if c.mode = .dead then .dead else .run }
  | 5 => some { c with ps := w &&& 0x3F#32 }
  | 6 => some { c with af := w }
  | 7 => some { c with xf := w }
  | 8 => some { c with yf := w }
  | 9 => some { c with psf := w &&& 0x3F#32 }
  | _ => none

/-- REG_READ. -/
def execDbgRegRead (t k i : Nat) (s : State) : Result :=
  dbgHalted t k (fun s =>
    match (s.core k).debugReg i with
    | some w => s.dbgAnswer dbgOk w.toNat
    | none => s.dbgAnswer dbgBusError 0) s

/-- REG_WRITE. -/
def execDbgRegWrite (t k i : Nat) (w : Word) (s : State) : Result :=
  dbgHalted t k (fun s =>
    match (s.core k).setDebugReg i w with
    | some c => (s.setCore k c).dbgAnswer dbgOk 0
    | none => s.dbgAnswer dbgBusError 0) s

/-- A control word that the comparator admits (R449). -/
def compControlOk (n v : Nat) : Bool :=
  if n < 4 then v &&& 0xFFFFFFC2 == 0 else v &&& 0xFFFFFF00 == 0 && bits v 7 6 != 3

/-- One field of a comparator. -/
def Comparator.setField (c : Comparator) (field v : Nat) : Comparator :=
  match field with
  | 0 => { c with control := v }
  | 1 => { c with value := v }
  | 2 => { c with mask := v }
  | _ => { c with data := v }

/-- COMP_WRITE: address [2:0] the comparator, [5:4] the field (R449). -/
def execCompWrite (t k a data : Nat) (s : State) : Result :=
  dbgOp t (fun s =>
    let n := a % 8
    let field := a / 16 % 4
    if field = 0 ∧ compControlOk n data = false then s.dbgAnswer dbgDenied 0
    else
      let c := (s.comp (k % 32) n).setField field data
      { s with dbg.comps := mset (fun _ => {}) s.dbg.comps (k % 32 * 8 + n) c }.dbgAnswer dbgOk 0) s

/-- GROUP_WRITE: data [3:0] is the core's membership. -/
def execGroupWrite (t k data : Nat) (s : State) : Result :=
  dbgOp t (fun s => (s.wr (F.DBG_CORE.groups (k % 32)) (data % 16)).dbgAnswer dbgOk 0) s

/-- A reserved op. -/
def execDbgReservedOp (t : Nat) (s : State) : Result := dbgOp t (fun s => s.dbgAnswer dbgDenied 0) s

end Sys2Proof.Machine
end

