-- ==== Sys2Proof/Machine/DmaRun.lean ====
section
/-! DEFINITION. A descriptor's transfer, its read-back and completion, and the disable of a running channel (20: R393–R397). The
transfer takes place whole at the step in which it completes or stops (log 34). -/

namespace Sys2Proof.Machine

/-- What stops a transfer: status, address, direction and phase (R396). -/
structure DmaFail where
  status : Nat
  addr : Nat
  write : Bool
  phase : Nat
  deriving DecidableEq, Repr

/-- Scene address of the access that met an uncorrectable word: the bank line's part of the run. -/
def badAddr (a : Nat) (bad : List Nat) : Nat := max a (0x1000_0000 + bad.headD 0 / 8 * 64)

/-- Read `n` bytes at an address in one access (R28, R393). -/
def State.dmaGet (s : State) (e a n : Nat) : Except DmaFail (List Byte) × State :=
  match dmaPlace a n with
  | .scene off =>
    let (r, s) := s.memRead (dmaReq e) off n
    (if r.bad.isEmpty then .ok r.bytes else .error ⟨3, badAddr a r.bad, false, 1⟩, s)
  | .loc k off => (.ok (s.localRead k off n), s)
  | .rom off => (.ok ((List.range n).map fun i => Config.bootRom (off + i)), s)
  | .rim =>
    match s.rimRead (.dma e) a n with
    | (some w, s) => (.ok (natLe 4 w.toNat), s)
    | (none, s) => (.error ⟨if n = 4 then 1 else 2, a, false, 1⟩, s)
  | .nowhere => (.error ⟨1, a, false, 1⟩, s)

/-- Write bytes at an address in one access (R28, R393). -/
def State.dmaPut (s : State) (e a : Nat) (bs : List Byte) : Option DmaFail × State :=
  match dmaPlace a bs.length with
  | .scene off => (none, s.memWrite (dmaReq e) off bs)
  | .loc k off => (none, s.portWrite k off bs)
  | .rim =>
    let w := BitVec.ofNat 32 (leNat bs)
    ((s.rimFault (.dma e) a w bs.length).map fun st => ⟨st, a, true, 2⟩, s.rimWrite (.dma e) a w bs.length)
  | .rom _ | .nowhere => (some ⟨1, a, true, 2⟩, s)

/-- Read elements one by one. -/
def State.dmaGetEach (s : State) (e a step w : Nat) : Nat → Except DmaFail (List Byte) × State
  | 0 => (.ok [], s)
  | n + 1 =>
    match s.dmaGet e a w with
    | (.error f, s) => (.error f, s)
    | (.ok b, s) =>
      match s.dmaGetEach e (a + step) step w n with
      | (.error f, s) => (.error f, s)
      | (.ok bs, s) => (.ok (b ++ bs), s)

/-- Write elements one by one; the answer counts the bytes written. -/
def State.dmaPutEach (s : State) (e a step w : Nat) (bs : List Byte) : Nat → Option DmaFail × Nat × State
  | 0 => (none, 0, s)
  | n + 1 =>
    match s.dmaPut e a (bs.take w) with
    | (some f, s) => (some f, 0, s)
    | (none, s) =>
      let (f, k, s) := s.dmaPutEach e (a + step) step w (bs.drop w) n
      (f, w + k, s)

/-- An address run is moved in whole accesses: scene memory, or one of a core's local memories, not fixed. -/
def wholeRun (a n : Nat) (fixed : Bool) : Bool :=
  !fixed && match dmaPlace a n with
    | .scene _ => true
    | .loc _ off => decide (off % 0x1_0000 + n ≤ 0x1_0000)
    | _ => false

/-- Bytes pos to pos + n of the source, into the holding register. -/
def State.dmaFill (s : State) (e : Nat) (d : DmaDesc) (pos n : Nat) : Except DmaFail (List Byte) × State :=
  let a := if d.srcFixed then d.src else d.src + pos
  if wholeRun a n d.srcFixed then s.dmaGet e a n
  else s.dmaGetEach e a (if d.srcFixed then 0 else d.srcW) d.srcW (n / d.srcW)

/-- Bytes at position pos of the destination, out of the holding register; the answer counts the bytes written. -/
def State.dmaEmpty (s : State) (e : Nat) (d : DmaDesc) (pos : Nat) (bs : List Byte) : Option DmaFail × Nat × State :=
  let a := if d.dstFixed then d.dst else d.dst + pos
  if wholeRun a bs.length d.dstFixed then
    let (f, s) := s.dmaPut e a bs
    (f, bs.length, s)
  else s.dmaPutEach e a (if d.dstFixed then 0 else d.dstW) d.dstW bs (bs.length / d.dstW)

/-- Move bytes pos to stop, a holding register at a time; `n` bounds the number of times. The answer: the failure, and the
position reached. -/
def State.dmaMove (s : State) (e : Nat) (d : DmaDesc) (pos stop : Nat) : Nat → Option DmaFail × Nat × State
  | 0 => (none, pos, s)
  | n + 1 =>
    if stop ≤ pos then (none, pos, s)
    else
      let k := min 64 (stop - pos)
      match s.dmaFill e d pos k with
      | (.error f, s) => (some f, pos, s)
      | (.ok bs, s) =>
        match s.dmaEmpty e d pos bs with
        | (some f, j, s) => (some f, pos + j, s)
        | (none, _, s) => s.dmaMove e d (pos + k) stop n

/-- The halt that a failure brings (R396). -/
def State.dmaFails (s : State) (e c : Nat) (f : DmaFail) : State := s.dmaHalt e c f.status f.addr f.write f.phase

/-- The read-back of confirm (R394): the last bank line of scene memory goes through its check. -/
def State.dmaConfirm (s : State) (e : Nat) (d : DmaDesc) : Option DmaFail × State :=
  let a := if d.dstFixed then d.dst else d.dst + d.len - d.dstW
  if !d.confirm then (none, s)
  else
    match dmaPlace a d.dstW with
    | .scene off =>
      let (r, s) := s.memRead (dmaReq e) (off / 64 * 64) 64
      (if r.bad.isEmpty then none else some ⟨3, 0x1000_0000 + off / 64 * 64, false, 3⟩, s)
    | _ => (none, s)

/-- The descriptor is done: word 5, the channel's status, its interrupt, and the next descriptor or the end of the chain. -/
def State.dmaDone (s : State) (e c : Nat) (d : DmaDesc) : State :=
  let s := s.dmaWord5 e (32 * s.rd (F.DMA_CH_CUR.addr e c)) 0x8000_0000
  let s := (s.wr (F.DMA_CH_STATUS.status e c) 0).wr (F.DMA_CH_STATUS.remain e c) 0
  let s := if d.irq then s.set1 (F.DMA_CH_STATUS.done e c) else s
  if d.last then s.dmaIdle e c else s.setDma e { s.dmaOf e with desc := none, next := d.next }

/-- Run a fetched descriptor to its end. -/
def State.dmaRun (s : State) (e c : Nat) (d : DmaDesc) : State :=
  match s.dmaMove e d 0 d.len (d.len / 64 + 1) with
  | (some f, pos, s) => (s.wr (F.DMA_CH_STATUS.remain e c) (d.len - pos)).dmaFails e c f
  | (none, _, s) =>
    match s.dmaConfirm e d with
    | (some f, s) => (s.wr (F.DMA_CH_STATUS.remain e c) 0).dmaFails e c f
    | (none, s) => s.dmaDone e c d

/-- DMA_DESCRIPTOR_COMPLETE (R393, R394). -/
def execDmaDescriptorComplete (t e : Nat) (s : State) : Result :=
  let s := s.at t
  let e := e % 8
  .next (match s.dmaChannel e, (s.dmaOf e).desc with
    | some c, some w => if s.dmaHeld e then s else s.dmaRun e c (dmaDesc w)
    | _, _ => s)

/-- A running descriptor is stopped after `written` bytes, with `got` bytes read (R395, R397). -/
def State.dmaCut (s : State) (e c : Nat) (d : DmaDesc) (written got : Nat) : State :=
  let stop := min d.len (written / d.dstW * d.dstW)
  match s.dmaMove e d 0 stop (stop / 64 + 1) with
  | (some f, pos, s) => (s.wr (F.DMA_CH_STATUS.remain e c) (d.len - pos)).dmaFails e c f
  | (none, _, s) =>
    if stop = d.len then (({ d with last := true } : DmaDesc) |> s.dmaDone e c).wr (F.DMA_CH_CTRL.enable e c) 0
    else
      let extra := min (min 64 (d.len - stop)) (got - stop) / d.srcW * d.srcW
      match s.dmaFill e d stop extra with
      | (.error f, s) => (s.wr (F.DMA_CH_STATUS.remain e c) (d.len - stop)).dmaFails e c f
      | (.ok _, s) => (s.wr (F.DMA_CH_STATUS.remain e c) (d.len - stop)).dmaStop e c

/-- DMA_CHANNEL_DISABLE: a write clears enable of the running channel of engine e when `written` bytes of its descriptor are
written and `got` are read (R395). -/
def execDmaChannelDisable (t e written got : Nat) (s : State) : Result :=
  let s := s.at t
  let e := e % 8
  .next (match s.dmaChannel e with
    | none => s
    | some c =>
      match (s.dmaOf e).desc with
      | none => s.dmaStop e c
      | some w => s.dmaCut e c (dmaDesc w) written got)

end Sys2Proof.Machine
end

