-- ==== Sys2Proof/Machine/Vertik.lean ====
section
/-! DEFINITION. The Vertik engine: messages and their order of checks, session setup and closing, paths, leases, and what ends a
command at its acceptance (14: R283–R290, R295, R296, R302–R304; 23: R433). What an accepted command does is in VtkCommands and
VtkFramed. -/

namespace Sys2Proof.Machine

/-! ## Messages (R283, R284, R296) -/

/-- Header fields of a message. -/
def msgKind (m : List Byte) : Nat := leAt m 3 1
def msgSession (m : List Byte) : Nat := leAt m 4 2
def msgSeq (m : List Byte) : Nat := leAt m 8 8
def msgBodyLen (m : List Byte) : Nat := leAt m 16 4
def msgBody (m : List Byte) : List Byte := (m.drop 40).take (msgBodyLen m)
def msgTag (m : List Byte) : List Byte := m.drop (40 + msgBodyLen m)

/-- The body limit of a port: its mtu less 148 (R284). -/
def State.bodyLimit (s : State) (p : Nat) : Nat := s.rd (F.ETH_CTRL.mtu p) - 148

/-- Body lengths a kind of host message may have (R285, R288). -/
def bodyFits (kind len : Nat) : Bool :=
  match kind with
  | 0 => len == 64
  | 2 => len == 64 || len == 96
  | 4 => decide (48 ≤ len)
  | 7 => true
  | _ => false

/-- The header is good: magic, version, a host's kind, lengths, reserved fields. -/
def State.headerOk (s : State) (p : Nat) (m : List Byte) : Bool :=
  decide (72 ≤ m.length) && slice m 0 3 == [0x56#8, 0x4B#8, 1#8] && decide (leAt m 6 2 < 2) && leAt m 32 8 == 0
    && m.length == 72 + msgBodyLen m && decide (msgBodyLen m ≤ s.bodyLimit p) && bodyFits (msgKind m) (msgBodyLen m)
    && (msgKind m != 0 || (msgSession m == 0xFFFF && msgSeq m == 0 && allZero (msgTag m) && allZero (slice m 89 15)))

/-- State of a session: 0 FREE, 1 HANDSHAKE, 2 OPEN. -/
def State.sessState (s : State) (n : Nat) : Nat := if n < 64 then s.rd (F.VTK_SESSION.state n) else 0

/-- The tag is right under k_hd. -/
def State.tagOk (s : State) (m : List Byte) : Bool :=
  msgTag m == (hmac512 (s.sess (msgSession m)).kHd (m.take (40 + msgBodyLen m))).take 32

/-- Update session n. -/
def State.modSess (s : State) (n : Nat) (f : VSession → VSession) : State := s.setSess n (f (s.sess n))

/-- Count a broken unlock (R295). -/
def State.brokenUnlock (s : State) (n : Nat) : State :=
  (s.modSess n fun v => { v with challenge := none, brokenUnlock := min (v.brokenUnlock + 1) 0xFFFFFFFF }).vtkIllegal 4

/-- The checks that stand before a message is taken: header, session, tag. None: it passes. -/
def State.messageFault (s : State) (p : Nat) (m : List Byte) : Option Nat :=
  if !s.headerOk p m then some 0
  else if msgKind m = 0 then none
  else if s.sessState (msgSession m) ≠ (if msgKind m = 2 then 1 else 2) then some 1
  else if !s.tagOk m then some 2
  else none

/-- Count a discarded message. -/
def State.discardMessage (s : State) (n r : Nat) : State :=
  let s := if r = 2 then s.modSess n fun v => { v with badTag := min (v.badTag + 1) 0xFFFFFFFF } else s
  s.vtkIllegal r

/-! ## Session setup (R285–R287, R433) -/

/-- The engine accepts a HELLO: enabled, or in network boot. -/
def State.helloOpen (s : State) : Bool := s.on F.VTK_CTRL.enable || s.sec.booting == some 2

/-- A key slot that may open a session: occupied, with the session permission (R286, R424). -/
def State.sessionSlot (s : State) (i : Nat) : Option (Option (List Byte)) :=
  match s.hostSlot i with
  | some (k, _, perms) => if bit perms 0 then some k else none
  | none => none

/-- The number a new session takes: the lowest free one (log 44). -/
def State.freeSessionNumber (s : State) : Option Nat := (List.range 64).find? fun n => s.sessState n == 0

/-- Session n enters the handshake. -/
def State.openHandshake (s : State) (n slot : Nat) (v : VSession) : State :=
  let s := (s.setReg (R.VTK_SESSION n) 0).wr (F.VTK_SESSION.state n) 1
  (s.wr (F.VTK_SESSION.key_slot n) slot).setSess n v

/-- X25519 base point (RFC 7748). -/
def basePoint : List Byte := 9#8 :: List.replicate 31 0#8

/-- A HELLO is taken: keys are agreed and HELLO_REPLY sent; a Shadow holds no keys (R285, R287). -/
def State.takeHello (s : State) (p : Nat) (m : List Byte) : State :=
  let b := msgBody m
  let slot := leAt b 48 1
  match s.helloOpen, s.sessionSlot slot, s.freeSessionNumber with
  | true, some key, some n =>
    if s.isShadow then s.openHandshake n slot { helloAt := s.now, slotKey := key, port := p }
    else
      let (i, s) := s.draw
      let (j, s) := s.draw
      let priv := (List.range 32).map (Config.freeByte i)
      let nonce := (List.range 16).map (Config.freeByte j)
      let pub := x25519 priv basePoint
      let hostPub := slice b 0 32
      let z := x25519 priv hostPub
      let x := ascii "VTK1" ++ hostPub ++ pub ++ slice b 32 16 ++ nonce ++ natLe 2 n ++ natLe 1 slot ++ s.idPub
      let k := sha512 (z ++ x)
      if allZero z then s
      else
        let v : VSession := { kHd := k.take 32, kDh := k.drop 32, transcript := x, slotKey := key, helloAt := s.now, port := p }
        (s.openHandshake n slot v).vtkSend n 1 0 (pub ++ nonce ++ s.idPub ++ s.idSign x)
  | _, _, _ => s.vtkIllegal 1

/-- host_sig holds: under the slot's key, or under the key an open provisioning AUTH carries (R285, R433). -/
def State.hostSigned (s : State) (n : Nat) (b : List Byte) : Bool :=
  let v := s.sess n
  let text := v.transcript ++ ascii "HOST"
  match v.slotKey with
  | some k => b.length == 64 && ed25519Verify k text b
  | none => b.length == 96 && ed25519Verify (slice b 64 32) text (slice b 0 64)

/-- Priority and permissions of a slot. -/
def State.slotPrio (s : State) (i : Nat) : Nat := ((s.hostSlot i).map (·.2.1)).getD 0
def State.slotPerms (s : State) (i : Nat) : Nat := ((s.hostSlot i).map (·.2.2)).getD 0

/-- The session opens (R286). -/
def State.openSession (s : State) (n : Nat) : State :=
  let prio := s.slotPrio (s.rd (F.VTK_SESSION.key_slot n))
  let s := (s.wr (F.VTK_SESSION.state n) 2).wr (F.VTK_SESSION.priority n) prio
  let s := (s.setOpen n true).set1 F.VTK_IRQ.session
  let s := s.modSess n fun v => { v with next := 1, devSeq := 1, lastCommand := s.now }
  s.vtkSend n 3 0 (natLe 1 0 ++ natLe 1 prio ++ List.replicate 6 0#8)

/-- An AUTH is taken: a late or wrong one frees the session number (R286). The Primary has checked what the Shadow takes. -/
def State.takeAuth (s : State) (m : List Byte) : State :=
  let n := msgSession m
  if usRoot 1_000_000 + (s.sess n).helloAt < s.now then (s.freeSession n).vtkIllegal 1
  else if !s.isShadow && (msgSeq m != 0 || !s.hostSigned n (msgBody m)) then (s.freeSession n).vtkIllegal 2
  else s.openSession n

/-- AUTH_TIMEOUT: 1 s after the HELLO_REPLY (R286). -/
def execAuthTimeout (t n : Nat) (s : State) : Result :=
  let s := s.at t
  .next (if s.sessState n = 1 ∧ usRoot 1_000_000 + (s.sess n).helloAt ≤ s.now then (s.freeSession n).vtkIllegal 1 else s)

/-- SESSION_TIMEOUT: 10 s with no accepted COMMAND (R287). -/
def execSessionTimeout (t n : Nat) (s : State) : Result :=
  let s := s.at t
  .next (if s.sessState n = 2 ∧ usRoot 10_000_000 + (s.sess n).lastCommand ≤ s.now then s.freeSession n else s)

/-- UNLOCK_TIMEOUT: 100 ms after the UNLOCK's reply without a command at its next seq (R295). -/
def execUnlockTimeout (t n : Nat) (s : State) : Result :=
  let s := s.at t
  let v := s.sess n
  .next (if s.sessState n = 2 ∧ v.challenge.isSome = true ∧ v.next = v.unlockSeq + 1 ∧ usRoot 100_000 + v.unlockAt ≤ s.now then
      s.brokenUnlock n
    else s)

/-! ## Paths (R22, R24, R217, R249, R289) -/

/-- What a path names: a chip's own object (levels below the chip; whether a group address named the chip), an object above the
chip, an object of another member or the twin, or nothing. -/
inductive PathTo where
  | own (rel : List Nat) (group : Bool)
  | above (path : List Nat)
  | away
  | noRoute
  | badArg
  deriving DecidableEq, Repr

/-- The levels of the Peloton down to this member. -/
def State.groupPath (s : State) : List Nat := if s.pel.path.isEmpty then [0] else s.pel.path

/-- Codes of the maintenance commands, which name one chip of a Tandem (R24, R436). -/
def maintenance (code : Nat) : Bool := decide (0x71 ≤ code ∧ code ≤ 0x7F)

/-- A path level names a member index, or every member. -/
def levelMatches (g u : Nat) : Bool := u == g || u == 0xFFFE

/-- Below the chip: the chip, a present head, a layer of it. -/
def State.belowChip (s : State) (rel : List Nat) (group : Bool) : PathTo :=
  match rel with
  | [] => .own [] group
  | [h] => if h < 24 ∧ s.headPresent h then .own [h] group else .noRoute
  | [h, l] => if h < 24 ∧ s.headPresent h ∧ l < 12 then .own [h, l] group else .noRoute
  | _ => .noRoute

/-- Resolve the path of a command (an empty path is the chip, a used entry after an unused one is BAD_ARG, log 45). -/
def State.resolve (s : State) (code : Nat) (path : List Nat) : PathTo :=
  let u := path.takeWhile (· != 0xFFFF)
  let g := s.groupPath
  if (path.drop u.length).any (· != 0xFFFF) then .badArg
  else if u = [] ∧ s.pel.path = [] then .own [] false
  else if (u.drop g.length).contains 0xFFFE then .noRoute
  else if !((g.zip u).all fun p => levelMatches p.1 p.2) then
    if s.pel.members.any fun m => some m.index == u[1]? then .away else .noRoute
  else if u.length < g.length then .above u
  else
    let rel := u.drop g.length
    let group := u.contains 0xFFFE
    if maintenance code ∧ s.rd F.TANDEM_STATUS.role ≠ 0 then
      match rel with
      | [i] => if i = s.rd F.TANDEM_STATUS.index then .own [] group else if i < 2 then .away else .noRoute
      | _ => .badArg
    else s.belowChip rel group

/-- Head a command's path names on this chip. -/
def State.pathHead (s : State) (c : VtkCmd) : Option Nat :=
  match s.resolve c.code c.path with
  | .own (h :: _) _ => some h
  | _ => none

/-! ## Targets and leases (R302, R303) -/

/-- A command's targets: a space (0 register and array addresses, 1 scene bytes, 2 points, 3 head states, 4 Groupset) and a range in
it. -/
structure Targets where
  space : Nat
  lo : Nat
  hi : Nat
  deriving DecidableEq, Repr

/-- Targets of a command; none where it writes none that conflict or can be leased. -/
def State.targets (s : State) (c : VtkCmd) : Option Targets :=
  let a := leAt c.args 0 4
  match c.code with
  | 0x11 => some ⟨0, a, a + 4 * leAt c.args 4 4⟩
  | 0x12 => some ⟨0, a, a + 4⟩
  | 0x21 | 0x22 => some ⟨1, a, a + leAt c.args 4 4⟩
  | 0x30 | 0x31 | 0x32 => some ⟨2, a, a + 1⟩
  | 0x41 => (s.pathHead c).map fun h => ⟨3, h, h + 1⟩
  | 0x52 => some ⟨4, 0, 1⟩
  | _ => none

/-- Two target ranges meet. -/
def Targets.meets (a b : Targets) : Bool := a.space == b.space && decide (a.lo < b.hi ∧ b.lo < a.hi)

/-- The object below the chip that a register or array word belongs to (R303; the compositor belongs to its head, log 45). -/
def objectOf (a : Nat) : List Nat :=
  if 0x4100_0000 ≤ a then [(a - 0x4100_0000) / 0x2_0000]
  else if 0x4010_0000 ≤ a ∧ a < 0x4010_0000 + 24 * 0x1_0000 then
    let h := (a - 0x4010_0000) / 0x1_0000
    let o := a % 0x1_0000
    if 0x1000 ≤ o ∧ o < 0x2000 then [h, (o - 0x1000) / 0x200]
    else if 0x2000 ≤ o ∧ o < 0x2200 then [h, 8 + (o - 0x2000) / 0x100]
    else if 0x3000 ≤ o ∧ o < 0x4000 then [h, 10]
    else [h]
  else []

/-- Objects of a target range. -/
def targetObjects (x : Targets) : List (List Nat) :=
  match x.space with
  | 0 => ((List.range ((x.hi - x.lo) / 4)).map fun i => objectOf (x.lo + 4 * i)).eraseDups
  | 3 => [[x.lo]]
  | _ => [[]]

/-- Lease l covers one of the objects. -/
def State.leaseCovers (s : State) (l : Lease) (objs : List (List Nat)) : Bool :=
  decide (s.now < l.ends) && objs.any fun o => l.path.isPrefixOf (s.groupPath ++ o)

/-- An exclusive lease of another session covers a target of the command. -/
def State.leasedOut (s : State) (c : VtkCmd) : Bool :=
  match s.targets c with
  | none => false
  | some x =>
    if x.space = 4 then false
    else
      let objs := targetObjects x
      s.vtk.leases.any fun l => l.exclusive && l.session != c.session && s.leaseCovers l objs

/-- A lease of a session covers a target (R302 step 1). -/
def State.holdsLease (s : State) (session : Nat) (objs : List (List Nat)) : Bool :=
  s.vtk.leases.any fun l => l.session == session && s.leaseCovers l objs

/-- LEASE_EXPIRE: leases end at their duration (R303). -/
def execLeaseExpire (t : Nat) (s : State) : Result :=
  let s := s.at t
  .next (s.setLeases (s.vtk.leases.filter fun l => decide (s.now < l.ends)))

/-! ## What ends a command at its acceptance (R289, R291, R299, R303, R433) -/

/-- Codes of the catalogue; the others end with UNKNOWN_CMD. -/
def knownCode (c : Nat) : Bool :=
  [0x00, 0x01, 0x10, 0x11, 0x12, 0x20, 0x21, 0x22, 0x30, 0x31, 0x32, 0x33, 0x40, 0x41, 0x50, 0x51, 0x52, 0x53, 0x60, 0x61, 0x62,
    0x70, 0x71, 0x72, 0x74, 0x75, 0x76, 0x77, 0x78, 0x79].contains c

/-- Codes that accept framed = 1. -/
def framedCode (c : Nat) : Bool := [0x11, 0x12, 0x21, 0x30, 0x31, 0x32, 0x40, 0x41, 0x52].contains c

/-- Codes network boot accepts; UNLOCK goes with the security commands (R433, log 45). -/
def bootCode (c : Nat) : Bool := [0x00, 0x01, 0x50, 0x51, 0x52, 0x70].contains c || maintenance c

/-- The code applies to an object: a head for COMMIT and HEAD_STATE; the chip for the Groupset, unlock and security commands;
anything of the chip for the others (R289, R291). -/
def codeApplies (code : Nat) (rel : List Nat) : Bool :=
  if code = 0x40 ∨ code = 0x41 then rel.length == 1
  else if 0x50 ≤ code ∧ code ≤ 0x53 ∨ 0x70 ≤ code then rel.isEmpty
  else true

/-- A point's type and value as R76 gives them: no reserved type, BOOL and DBPOS within their codes, EMPTY 0 (R290, log 113). -/
def valueFits (ty v : Nat) : Bool :=
  match ty with
  | 0 => v == 0
  | 1 => decide (v < 2)
  | 2 => decide (v < 4)
  | _ => decide (ty < 8)

/-- Lengths and ranges of the arguments (R291, R436). -/
def argsOk (c : VtkCmd) : Bool :=
  let n := c.args.length
  let a := leAt c.args 0 4
  let b := leAt c.args 4 4
  match c.code with
  | 0x00 | 0x01 | 0x40 | 0x51 | 0x52 | 0x53 | 0x70 => n == 0
  | 0x10 => n == 8 && decide (1 ≤ b ∧ b ≤ 64)
  | 0x11 => decide (1 ≤ b ∧ b ≤ 64) && n == 8 + 4 * b
  | 0x12 => n == 12
  | 0x20 => n == 8 && decide (4 ≤ b ∧ b ≤ 8192) && b % 4 == 0 && decide (a + b ≤ sceneSize)
  | 0x21 => n == 8 + b && decide (1 ≤ b) && decide (a + b ≤ sceneSize)
  | 0x22 => n == 12 && b % 64 == 0 && decide (a + b ≤ sceneSize)
  | 0x30 | 0x31 =>
    n == 32 && decide (a < numPoints) && leAt c.args 5 3 == 0 && leAt c.args 18 6 == 0 && decide (leAt c.args 16 2 < 0x2000)
      && valueFits (leAt c.args 4 1) (leAt c.args 8 8)
  | 0x32 | 0x33 => n == 4 && decide (a < numPoints)
  | 0x41 => n == 4 && decide (a < 4)
  | 0x50 => decide (4 ≤ n) && n % 4 == 0 && a % 4 == 0
  | 0x60 => n == 8 && decide (1 ≤ a ∧ a ≤ 600000) && decide (leAt c.args 4 1 < 2) && leAt c.args 5 3 == 0
  | 0x61 => n == 8 && decide (1 ≤ b ∧ b ≤ 600000)
  | 0x62 => n == 4
  | 0x71 | 0x72 => n == 8
  | 0x74 => n == 40
  | 0x75 => n == 1032
  | 0x76 => n == 72
  | 0x77 => n == 76
  | 0x78 => let k := leAt c.args 8 4
            decide (1 ≤ k ∧ k ≤ 64) && n == 12 + 8 * k
  | 0x79 => n == 12 && leAt c.args 11 1 == 0
  | _ => true

/-- The words of a register-window command, as addresses. -/
def windowWords (c : VtkCmd) : List Nat :=
  let a := leAt c.args 0 4
  (List.range (if c.code = 0x12 then 1 else leAt c.args 4 4)).map fun i => a + 4 * i

/-- A word of the window is mapped: a register or an array word, aligned (R292). -/
def windowWord (a : Nat) : Bool :=
  a % 4 == 0 && match rimPlace a with
    | .reg _ => true
    | .array _ off => arrayMapped off
    | _ => false

/-- Index of the first word a register-window command fails on. -/
def windowFault (c : VtkCmd) : Option Nat := (windowWords c).findIdx? fun a => !windowWord a

/-- The address check of a register-window command (R292). -/
def addrFault (c : VtkCmd) : Option Nat := if c.code = 0x10 ∨ c.code = 0x11 ∨ c.code = 0x12 then windowFault c else none

/-- Bits that keep their value where the mask of a masked write is 0: those of RW fields; the other fields are written 0 there
(log 45). -/
def rwBits (r : RegHit) : Word :=
  if r.spec.wide then (if r.spec.fields.any (·.acc == .rw) then 0xFFFFFFFF#32 else 0)
  else (r.spec.fields.filter (·.acc == .rw)).foldl (fun m f => m ||| fieldMask f.hi f.lo) 0

/-- A word of a register with a programmed copy: an RW register of a head's layers, sprite plane, compositor or Cadence block (R298). -/
def programmedWord (a : Nat) : Bool :=
  decide (0x4010_0000 ≤ a ∧ a < 0x4010_0000 + 24 * 0x1_0000 ∧ 0x1000 ≤ a % 0x1_0000 ∧ a % 0x1_0000 < 0x6000) &&
    match rimPlace a with
    | .reg r => rwBits r != 0
    | _ => false

/-- Scene bytes, or array words as bytes, and register words that a framed command brings to head h: a programmed copy to its own head,
all else to the head its path names (R299). -/
def State.framedContent (s : State) (c : VtkCmd) (h : Nat) : Nat × Nat :=
  let named := s.pathHead c == some h
  if c.code = 0x21 then (if named then leAt c.args 4 4 else 0, 0)
  else if c.code = 0x11 ∨ c.code = 0x12 then
    let ws := windowWords c
    let here := fun a => if programmedWord a then (a - 0x4010_0000) / 0x1_0000 == h else named
    (if named then 4 * (ws.filter fun a => decide (0x4100_0000 ≤ a)).length else 0,
     (ws.filter fun a => decide (a < 0x4100_0000) && here a).length)
  else (0, 0)

/-- The head's blanking window is too short for framed content (R299). -/
def State.windowShort (s : State) (h : Nat) : Bool :=
  let b := s.beam h
  decide ((b.vtotal - b.vactive) * b.htotal * b.n < usRoot 14) || decide (((b.vtotal - b.vactive) * b.htotal - 64) * b.n < usRoot 14)

/-- Framed content or a framed point write whose path names a head with too short a window. -/
def State.windowRefused (s : State) (c : VtkCmd) : Bool :=
  match s.pathHead c with
  | none => false
  | some h => (0x30 ≤ c.code ∧ c.code ≤ 0x32 ∨ 0 < (s.framedContent c h).1) && s.windowShort h

/-- The framed content of a head and frame with this command passes a limit. -/
def State.tooLarge (s : State) (c : VtkCmd) : Bool :=
  let same := s.vtk.framed.filter fun f => f.cmd.frame == c.frame
  (List.range 24).any fun h =>
    let sum := fun g : Nat × Nat → Nat => g (s.framedContent c h) + (same.map fun f => g (s.framedContent f.cmd h)).sum
    s.framedContent c h != (0, 0) && (decide (4096 < sum (·.1)) || decide (256 < sum (·.2)))

/-- The status that ends a command at its acceptance, with its detail; none: it goes on. -/
def State.acceptFault (s : State) (c : VtkCmd) (flagsOk : Bool) : Option (Nat × Nat) :=
  if !flagsOk || (c.framed && !framedCode c.code) then some (stBadArg, 0)
  else if s.sec.booting = some 2 ∧ bootCode c.code = false then some (stDenied, 0)
  else
    let path : Option Nat :=
      match s.resolve c.code c.path with
      | .noRoute => some stNoRoute
      | .badArg => some stBadArg
      | .away => none
      | .above p =>
        if p.contains 0xFFFE then (if c.framed || c.code == 1 then none else some stBadArg)
        else if c.code = 1 ∨ 0x60 ≤ c.code ∧ c.code ≤ 0x62 then none else some stBadArg
      | .own rel group =>
        if group && !c.framed && c.code != 1 then some stBadArg else if codeApplies c.code rel then none else some stBadArg
    match path with
    | some st => some (st, 0)
    | none =>
      if !argsOk c then some (stBadArg, 0)
      else
        match addrFault c with
        | some i => some (stBusError, i)
        | none => if s.leasedOut c then some (stLeased, 0) else none

end Sys2Proof.Machine
end

