-- ==== Sys2Proof/Machine/VtkFramed.lean ====
section
/-! DEFINITION. Framed commands of the Vertik engine: their apply points, their acceptance, the settling of conflicts, and what they
do at each apply point (14: R298–R302). -/

namespace Sys2Proof.Machine

/-! ## Writes of register-window words (R292, R298) -/

/-- One word written through the Vertik lane: whether it was ignored under R35 (or is of a register without a writable field), and the
state after it. The unit's count is taken aside, so that its change shows even when it is full. -/
def State.vtkWord (s : State) (a : Nat) (w : Word) : Nat × State :=
  match rimPlace a with
  | .reg r =>
    let f := F.U_IGNORED_WRITES.count r.base
    let s' := (s.wr f 0).rimWrite .vertik a w 4
    let n := s'.rd f
    (if r.writable then min n 1 else 1, s'.wr f (min (s.rd f + n) f.max))
  | _ => (0, s.rimWrite .vertik a w 4)

/-- The word a masked write puts at an address (R291). -/
def State.maskedWord (s : State) (a : Nat) (mask v : Word) : Word :=
  match rimPlace a with
  | .reg r => (v &&& mask) ||| (s.regValue r &&& ~~~ mask &&& rwBits r)
  | .array h off => (v &&& mask) ||| (s.arr (arrayAddr h off) &&& ~~~ mask)
  | _ => v &&& mask

/-- Word i of a register-window command is written. -/
def State.windowWrite (s : State) (c : VtkCmd) (i : Nat) : Nat × State :=
  let a := leAt c.args 0 4 + 4 * i
  let w := BitVec.ofNat 32 (leAt c.args (8 + 4 * i) 4)
  s.vtkWord a (if c.code = 0x12 then s.maskedWord a (BitVec.ofNat 32 (leAt c.args 4 4)) w else w)

/-- The words of a command that `pick` names, in address order: how many were ignored, and the state after them. -/
def State.windowWrites (s : State) (c : VtkCmd) (pick : Nat → Bool) : Nat × State :=
  ((List.range (windowWords c).length).filter fun i => pick (leAt c.args 0 4 + 4 * i)).foldl
    (fun (a : Nat × State) i => let r := a.2.windowWrite c i
                                (a.1 + r.1, r.2)) (0, s)

/-! ## Apply points (R298) -/

/-- An apply point: its kind (0 a chip frame less 100 µs, 1 window start, 2 latch edge) and its head, as one number. -/
def pointOf (kind head : Nat) : Nat := kind + 3 * head

/-- Root count of an apply point for chip frame F. -/
def State.applyPoint (s : State) (f p : Nat) : Nat :=
  let h := p / 3
  let b := s.beam h
  let n := s.headFrameAt h (s.chipStart f)
  if p % 3 = 1 then b.time n (b.vactive - 2) 0 - b.tf
  else if p % 3 = 2 then b.time n b.vactive 0 - b.tf
  else s.chipStart f - usRoot 100

/-- The apply point of one word of a register-window command: programmed copies at the window start of their own head, array words
with a head's path at its window start (sprite descriptors) or latch edge (palettes and LUTs). -/
def State.wordPoint (s : State) (c : VtkCmd) (a : Nat) : Nat :=
  if 0x4100_0000 ≤ a then
    match s.pathHead c with
    | some h => pointOf (if 0x1_8000 ≤ (a - 0x4100_0000) % 0x2_0000 then 1 else 2) h
    | none => 0
  else if programmedWord a then pointOf 1 ((a - 0x4010_0000) / 0x1_0000)
  else 0

/-- The apply points of a command. -/
def State.applyPoints (s : State) (c : VtkCmd) : List Nat :=
  if c.code = 0x11 ∨ c.code = 0x12 then ((windowWords c).map (s.wordPoint c)).eraseDups
  else
    match s.pathHead c with
    | some h => [pointOf 1 h]
    | none => [0]

/-- Earliest apply point of a command for chip frame F. -/
def State.earliestPoint (s : State) (c : VtkCmd) (f : Nat) : Nat :=
  match (s.applyPoints c).map (s.applyPoint f) with
  | [] => s.chipStart f
  | p :: ps => ps.foldl min p

/-- Accepted at least 20 µs before its earliest apply point (R300). -/
def State.framedOnTime (s : State) (c : VtkCmd) (f : Nat) : Bool := decide (usRoot 20 + s.now ≤ s.earliestPoint c f)

/-- The first frame from F on whose apply points a command meets (R300); F itself while no chip frame schedule is in force (log 33). -/
def State.framedFrame (s : State) (c : VtkCmd) : Nat :=
  let tf := s.gs.chipTf
  if tf = 0 then c.frame
  else
    let first := max c.frame ((s.now - s.gs.chipT0) / tf)
    let longest := (List.range 24).foldl (fun m h => max m (s.beam h).tf) (usRoot 200)
    let span := longest / tf + 4
    first + ((List.range span).findIdx? fun i => s.framedOnTime c (first + i)).getD span

/-! ## Acceptance (R299–R301) -/

/-- A framed command of the Peloton goes into the bundle of its frame, or of the first one not yet closed; a member sends it to the
leader (R253, R301). -/
def State.acceptBundled (s : State) (c : VtkCmd) : State :=
  if s.pelLeads then
    let f := max c.frame (s.pel.lastClosed + 1)
    let group := c.code == 0x52
    let b : PelBundle := { frame := f, cmds := if group then [] else [c], apply := group, samples := [], owners := [], members := [] }
    let s := { s with pel.opened := s.pel.opened ++ [b] }
    if group then { s with vtk.gsWait := s.vtk.gsWait ++ [c] } else s
  else s.pelSend 30 [c.session, c.seq]

/-- A framed command is accepted: the frame it can meet, the limits on framed content, and its place among the framed commands. -/
def State.acceptFramed (s : State) (c : VtkCmd) : State :=
  if s.pelState = 2 then s.acceptBundled c
  else
    let f := s.framedFrame c
    let late := c.frame != 0 && decide (c.frame < f)
    let d := { c with frame := f }
    if s.tooLarge d then s.vtkFinish c stTooLarge 0 c.frame
    else if s.windowRefused d then s.vtkFinish c stWindow 0 c.frame
    else
      let prio := s.rd (F.VTK_SESSION.priority c.session)
      { s with vtk.framed := s.vtk.framed ++ [({ cmd := d, accepted := s.now, late := late, prio := prio } : Framed)] }

/-! ## Conflicts (R302) -/

/-- The part two targets share. -/
def Targets.common (a b : Targets) : Targets := { space := a.space, lo := max a.lo b.lo, hi := min a.hi b.hi }

/-- The first of two commands wins the targets they share: by a lease, then by priority, then by session number. -/
def State.beats (s : State) (c d : VtkCmd) (pc pd : Nat) (x : Targets) : Bool :=
  let objs := targetObjects x
  let lc := s.holdsLease c.session objs
  let ld := s.holdsLease d.session objs
  if lc != ld then lc
  else if pc ≠ pd then decide (pd < pc)
  else decide (c.session % 64 < d.session % 64)

/-- Two framed commands of different sessions conflict, and the first loses. -/
def State.losesTo (s : State) (c d : VtkCmd) (pc pd : Nat) : Bool :=
  c.session != d.session && c.frame == d.frame &&
    match s.targets c, s.targets d with
    | some a, some b => a.meets b && !s.beats c d pc pd (a.common b)
    | _, _ => false

/-- A framed command loses a pairing with one of the same frame that waits or is settled (log 41). -/
def State.superseded (s : State) (f : Framed) : Bool :=
  (s.vtk.framed.any fun g => s.losesTo f.cmd g.cmd f.prio g.prio)
    || s.vtk.applied.any fun d => s.losesTo f.cmd d f.prio (if d.session < 64 then s.rd (F.VTK_SESSION.priority d.session) else 0)

/-! ## What happens at an apply point (R298) -/

/-- Status of a framed command that takes effect. -/
def Framed.status (f : Framed) : Nat := if f.late then stLate else stOk

/-- The head frame whose commit a command of frame F requests. -/
def State.commitFor (s : State) (h f : Nat) : Nat := s.headFrameAt h (s.chipStart f)

/-- A write of programmed copies, or a COMMIT, requests the commit of the head frame (R170, R298). -/
def State.requestCommit (s : State) (h f : Nat) : State := s.commitFrame h (s.commitFor h f)

/-- Replace a framed command in its place. -/
def State.setFramed (s : State) (f g : Framed) : State := { s with vtk.framed := s.vtk.framed.map fun x => if x = f then g else x }

/-- Take a framed command off the list, as one that has taken effect. -/
def State.dropFramed (s : State) (f : Framed) : State := { s with vtk.framed := s.vtk.framed.erase f }

/-- Words of a command at one apply point: written, and for programmed copies their commit requested. -/
def State.framedWords (s : State) (f : Framed) (p : Nat) : Framed × State :=
  let c := f.cmd
  let regs := (windowWords c).any fun a => decide (a < 0x4100_0000) && s.wordPoint c a == p
  let (n, s) := s.windowWrites c fun a => s.wordPoint c a == p
  let f := { f with dropped := f.dropped + n }
  if p % 3 = 1 ∧ regs = true then
    ({ f with waitsCommit := some (p / 3, s.commitFor (p / 3) c.frame) }, s.requestCommit (p / 3) c.frame)
  else (f, s)

/-- Every byte lies in a region that admits the Vertik engine (R43, R293). -/
def State.vtkAdmits (s : State) (off len : Nat) : Bool := len = 0 || s.admitsAll 71 off len

/-- Bytes written to scene memory by the Vertik engine, or DENIED (R293). -/
def State.vtkMemWrite (s : State) (off : Nat) (bs : List Byte) : Option State :=
  if s.vtkAdmits off bs.length then some (s.memWrite 71 off bs) else none

/-- A framed command at one of its apply points: what remains of it (none: its reply is given or comes from ingest), and the state. -/
def State.framedAt (s : State) (f : Framed) (p : Nat) : Option Framed × State :=
  let c := f.cmd
  match c.code with
  | 0x11 | 0x12 => let r := s.framedWords f p
                   (some r.1, r.2)
  | 0x21 =>
    match s.vtkMemWrite (leAt c.args 0 4) (c.args.drop 8) with
    | some s => (some f, s)
    | none => (none, s.vtkFinish c stDenied 0 c.frame)
  | 0x30 | 0x31 | 0x32 => (none, s.ingEnter (.vertik c f.status))
  | 0x40 =>
    let h := (s.pathHead c).getD 0
    (some { f with waitsCommit := some (h, s.commitFor h c.frame) }, s.requestCommit h c.frame)
  | 0x41 =>
    let h := (s.pathHead c).getD 0
    let w := setBits (s.reg (R.TX_CTRL h)) 1 0 (leAt c.args 0 4)
    (some f, s.txCtrlWrite h w)
  | _ => (some f, s)

/-- The apply points of a framed command still to come: all of them before it has written anything. -/
def State.stagesLeft (s : State) (f : Framed) : List Nat := f.stages.getD (s.applyPoints f.cmd)

/-- A command of a bundle acts on this chip. -/
def State.actsHere (s : State) (c : VtkCmd) : Bool :=
  match s.resolve c.code c.path with
  | .own _ _ => true
  | .above p => (s.groupPath.zip p).all fun q => levelMatches q.1 q.2
  | _ => false

/-- The due points of a framed command, one after another. -/
def State.framedRun (s : State) (f : Framed) : List Nat → Option Framed × State
  | [] => (some f, s)
  | p :: ps =>
    match s.framedAt f p with
    | (some g, t) => t.framedRun g ps
    | (none, t) => (none, t)

/-- A framed command has passed its last apply point: its reply is sent now, or at the commit it requested (R300). -/
def State.framedEnd (s : State) (f : Framed) : State :=
  match f.waitsCommit with
  | some _ => { s with vtk.framed := s.vtk.framed ++ [{ f with stages := some [] }] }
  | none => s.vtkFinish f.cmd f.status f.dropped f.cmd.frame

/-- A framed command whose conflicts are settled stays in the pairings of the others (log 41). -/
def State.settled (s : State) (f : Framed) : State := { s with vtk.applied := s.vtk.applied ++ [f.cmd] }

/-- One framed command meets the moment: its conflicts are settled before its first write, then it acts at the points that are due. -/
def State.framedStep (s : State) (f : Framed) : State :=
  let all := s.stagesLeft f
  let due := all.filter fun p => decide (s.applyPoint f.cmd.frame p ≤ s.now)
  if due = [] ∨ s.vtk.framed.contains f = false then s
  else if f.stages = none ∧ s.actsHere f.cmd = false then (s.dropFramed f).vtkFinish f.cmd f.status 0 f.cmd.frame
  else if f.stages = none ∧ s.superseded f = true then ((s.settled f).dropFramed f).vtkFinish f.cmd stSuperseded 0 f.cmd.frame
  else
    let s := if f.stages = none then s.settled f else s
    let rest := all.filter fun p => !due.contains p
    match s.framedRun f due with
    | (none, t) => t.dropFramed f
    | (some g, t) => if rest = [] then (t.dropFramed f).framedEnd g else t.setFramed f { g with stages := some rest }

/-- Settled commands are remembered for conflicts until 1 s after their frame (log 41). -/
def State.pruneApplied (s : State) : State :=
  { s with vtk.applied := s.vtk.applied.filter fun c => decide (s.now < usRoot 1_000_000 + s.chipStart c.frame) }

/-- FRAMED_APPLY: every framed command with an apply point due, in acceptance order (R298, R302). -/
def execFramedApply (t : Nat) (s : State) : Result :=
  let s := s.at t
  .next (s.vtk.framed.foldl State.framedStep s).pruneApplied

end Sys2Proof.Machine
end

