-- ==== Sys2Proof/Machine/VtkMessages.lean ====
section
/-! DEFINITION. Messages to the Vertik engine: HELLO, AUTH, CLOSE and COMMAND, with the order of acceptance of R296 and the journal of
a Tandem (14: R283–R290, R295, R296, R304). -/

namespace Sys2Proof.Machine

/-! ## Acceptance (R288, R290, R295, R296) -/

/-- A COMMAND body as a command (R288). -/
def parseCommand (n seq arrival : Nat) (b : List Byte) : VtkCmd :=
  { session := n, seq := seq, code := leAt b 0 1, framed := bit (leAt b 1 1) 0, frame := leAt b 8 8,
    path := (List.range 16).map fun i => leAt b (16 + 2 * i) 2, args := b.drop 48, arrival := arrival }

/-- The reserved bits are 0, and apply_frame is where the command is unframed. -/
def commandBitsOk (b : List Byte) : Bool :=
  decide (leAt b 1 1 < 2) && leAt b 2 6 == 0 && (leAt b 1 1 == 1 || leAt b 8 8 == 0)

/-- A REPLY that is not final. -/
def State.vtkInterim (s : State) (n code status seq : Nat) : State :=
  s.vtkSendNext n 5 (vtkReplyBody code status 0 seq 0 (nsOf s.now) [])

/-- A seq already accepted: its stored reply again, PENDING, or REPLY_GONE (R290). -/
def State.resendReply (s : State) (n seq code : Nat) : State :=
  let v := s.sess n
  match v.stored.find? (·.1 == seq) with
  | some p => s.vtkSendNext n 5 p.2
  | none => s.vtkInterim n code (if v.outstanding.contains seq then stPending else stReplyGone) seq

/-- A seq beyond the next: discarded, with a NOTICE at most once in 100 µs (R296). -/
def State.outOfOrder (s : State) (n : Nat) : State :=
  let s := (s.modSess n fun v => { v with outOfOrder := min (v.outOfOrder + 1) 0xFFFFFFFF }).vtkIllegal 3
  let quiet := match (s.sess n).noticeAt with
    | some a => decide (s.now < usRoot 100 + a)
    | none => false
  if quiet then s else (s.modSess n fun v => { v with noticeAt := some s.now }).vtkSendNext n 6 []

/-- The seq is consumed and the command counts as outstanding (R296, R304). -/
def State.consumeSeq (s : State) (n seq : Nat) : State :=
  let s := s.modSess n fun v => { v with next := v.next + 1, outstanding := v.outstanding ++ [seq], lastCommand := s.now }
  let s := s.wr (F.VTK_SESSION.outstanding n) (s.rd (F.VTK_SESSION.outstanding n) + 1)
  s.wr F.VTK_STATUS.outstanding (s.rd F.VTK_STATUS.outstanding + 1)

/-- The challenge of an UNLOCK is spent at the next seq: another command, or one that is not protected, breaks it (R295, R436). -/
def State.spendChallenge (s : State) (c : VtkCmd) : State :=
  if (s.sess c.session).challenge.isNone then s
  else if 0x71 ≤ c.code ∧ c.code ≤ 0x7F then s.modSess c.session fun v => { v with challenge := none }
  else s.brokenUnlock c.session

/-- A protected command carries the challenge of the UNLOCK before it, within 100 ms of its reply (R295). -/
def unlocked (v : VSession) (c : VtkCmd) : Bool :=
  v.challenge == some (c.args.take 8) && c.seq == v.unlockSeq + 1 && decide (c.arrival ≤ nsOf v.unlockAt + 100_000_000)

/-- Permission bit a security command needs (R436). -/
def permOf (code : Nat) : Nat := if code = 0x74 ∨ code = 0x79 then 0 else if code = 0x71 ∨ code = 0x72 then 1 else 3

/-- A DENIED security command: its detail stays in SEC_PROG (R436). -/
def State.secDenied (s : State) (c : VtkCmd) (detail : Nat) : State :=
  (s.wr F.SEC_PROG.last detail).vtkFinish c stDenied detail 0

/-- A protected command: its unlock, then its slot's permission (R295, R436); `v` is the session before the command. -/
def State.acceptProtected (s : State) (c : VtkCmd) (v : VSession) : State :=
  if !unlocked v c then (s.brokenUnlock c.session).vtkFinish c stUnlockBroken 0 0
  else if bit (s.slotPerms (s.rd (F.VTK_SESSION.key_slot c.session))) (permOf c.code) = false then s.secDenied c 1
  else { s with vtk.ready := s.vtk.ready ++ [c] }

/-- A command of this chip goes where it runs: at its frame, or at acceptance (R297, R298). -/
def State.placeCommand (s : State) (c : VtkCmd) (group : Bool) (v : VSession) : State :=
  if maintenance c.code then s.acceptProtected c v
  else if c.framed && (c.code != 0x52 || group) then s.acceptFramed c
  else { s with vtk.ready := s.vtk.ready ++ [c] }

/-- A command that another chip of the Tandem or Peloton carries out is passed on; its reply comes from there (R249). -/
def State.passOn (s : State) (c : VtkCmd) (twin : Bool) : State :=
  if s.isShadow then s else s.emit (.message (if twin then 9 else 10) 31 [c.session, c.seq])

/-- A command goes by its path. -/
def State.routeCommand (s : State) (c : VtkCmd) (v : VSession) : State :=
  match s.resolve c.code c.path with
  | .own _ group => s.placeCommand c group v
  | .above _ => if s.pelLeads then s.placeCommand c true v else s.passOn c false
  | .away => s.passOn c (maintenance c.code && s.rd F.TANDEM_STATUS.role != 0)
  | _ => s

/-- A COMMAND at the next expected seq is accepted. -/
def State.acceptCommand (s : State) (n seq arrival : Nat) (b : List Byte) : State :=
  let c := parseCommand n seq arrival b
  let v := s.sess n
  let s := (s.consumeSeq n seq).spendChallenge c
  if !knownCode c.code then { s with vtk.ready := s.vtk.ready ++ [c] }
  else
    match s.acceptFault c (commandBitsOk b) with
    | some (st, d) => s.vtkFinish c st d c.frame
    | none => s.routeCommand c v

/-- A COMMAND of an OPEN session with a right tag, by its seq (R296). -/
def State.takeCommand (s : State) (arrival : Nat) (m : List Byte) : State :=
  let n := msgSession m
  let seq := msgSeq m
  let b := msgBody m
  let next := (s.sess n).next
  if seq < next then s.resendReply n seq (leAt b 0 1)
  else if next < seq then s.outOfOrder n
  else if s.credit n = 0 then (s.satInc F.VTK_ORDER.busy).vtkInterim n (leAt b 0 1) stBusy seq
  else s.acceptCommand n seq arrival b

/-! ## The messages (R285–R287, R296) -/

/-- A message that has passed its checks reaches the engine: at its arrival_time, in a Tandem at its journal time (R230, R296). -/
def State.vtkTake (s : State) (p arrival : Nat) (m : List Byte) : State :=
  let kind := msgKind m
  if kind ≠ 0 ∧ s.sessState (msgSession m) ≠ (if kind = 2 then 1 else 2) then s.vtkIllegal 1
  else
    let s := s.archiveInput 2 (nsOf s.now) (msgBody m)
    match kind with
    | 0 => s.takeHello p m
    | 2 => s.takeAuth m
    | 7 => s.freeSession (msgSession m)
    | _ => s.takeCommand arrival m

/-- A message is checked, then taken (R287, R296). -/
def State.vtkCheckTake (s : State) (p : Nat) (m : List Byte) (f : State → State) : State :=
  match s.messageFault p m with
  | some r => s.discardMessage (msgSession m) r
  | none => f s

/-- A message arrives at a port: a Shadow in lockstep holds it, any other chip checks it; then a Primary journals it, and a chip in no
Tandem takes it (R230, R231, R233, R287, R296). -/
def State.vtkMessage (s : State) (p : Nat) (m : List Byte) : State :=
  if s.locked && s.isShadow then { s with tandem.held := s.tandem.held ++ [(s.now, .vertik p (nsOf s.now) m)] }
  else
    s.vtkCheckTake p m fun s =>
      if s.isPrimary then s.journalIn (.vertik p (nsOf s.now) m) else s.vtkTake p (nsOf s.now) m

/-- A row takes the messages of its kind only; COMMAND takes those of every other kind, and malformed ones. -/
def kindRow (m : List Byte) : Nat :=
  if m.length < 40 then 4 else if msgKind m = 0 ∨ msgKind m = 2 ∨ msgKind m = 7 then msgKind m else 4

/-- HELLO (R285, R286). -/
def execHello (t p : Nat) (m : List Byte) (s : State) : Result :=
  let s := s.at t
  .next (if kindRow m = 0 then s.vtkMessage p m else s)

/-- AUTH (R285, R286). -/
def execAuth (t p : Nat) (m : List Byte) (s : State) : Result :=
  let s := s.at t
  .next (if kindRow m = 2 then s.vtkMessage p m else s)

/-- CLOSE (R287). -/
def execClose (t p : Nat) (m : List Byte) (s : State) : Result :=
  let s := s.at t
  .next (if kindRow m = 7 then s.vtkMessage p m else s)

/-- COMMAND (R296). -/
def execCommand (t p : Nat) (m : List Byte) (s : State) : Result :=
  let s := s.at t
  .next (if kindRow m = 4 then s.vtkMessage p m else s)

end Sys2Proof.Machine
end

