-- ==== Sys2Proof/Machine/Journal.lean ====
section
/-! DEFINITION. The input journal of a Tandem: an entry reaches its unit at its journal time on both chips (11: R230–R232;
22: R417). -/

namespace Sys2Proof.Machine

/-- A fault reported through the journal: both chips latch it, and both decide the takeovers of one of class Takeover or above; a
mismatch of the twin is noted (R239, R417). -/
def State.journalFault (s : State) (chip source cls : Nat) (broken : Bool) : State :=
  let s := s.latchFault chip source cls broken
  let s :=
    if chip ≠ s.twinIndex ∧ 64 ≤ source ∧ source < 88 then
      { s with tandem.twinMismatch := setBit s.tandem.twinMismatch (source - 64) true }
    else s
  if 2 ≤ cls then s.faultTakeovers source chip else s

/-- A journalled input reaches its unit (R231). -/
def State.journalInput (s : State) : JInput → State
  | .goose p a g => (s.archiveInput p (nsOf s.now) g.raw).ingFrame (.goose p a g)
  | .sv p a x => (s.archiveInput p (nsOf s.now) x.raw).ingFrame (.sv p a x)
  | .vertik p a m => s.vtkTake p a m
  | .fieldLines edge levels => s.filterLines edge levels
  | .tdm _ samples => { s.archiveInput 4 (nsOf s.now) (samples.flatMap fun x => natLe 4 (wrap 32 x)) with bell.tdmIn := samples }
  | .sink h e => s.applySink h e
  | .readData d => s.readArrives d
  | .fault chip source cls broken => s.journalFault chip source cls broken
  | .apply f => s.applyNow f
  | .peloton m => s.pelAct m
  | .diverged => s.diverge

/-- Entries of the own journal that are due, in order. -/
def State.releaseDue (s : State) : State :=
  let due := s.tandem.journal.takeWhile fun e => decide (e.time ≤ s.now)
  let s := { s with tandem.journal := s.tandem.journal.drop due.length }
  due.foldl (fun s e => s.journalInput e.input) s

/-- A fault or a sink event of the Shadow reaches the Primary, which journals it; a divergence acts at once (R230, R236, R417). -/
def State.fromShadow (s : State) (i : JInput) : State :=
  match i with
  | .fault .. | .sink .. => s.journalIn i
  | .diverged => s.diverge
  | _ => s

/-- JOURNAL_ENTRY_RELEASE: the own journal's due entries; or the entry `e`, with its journal time, that the twin link brought: at a
Shadow an entry that comes after its journal time is late, so that the Shadow leaves lockstep (R230–R232, R417). -/
def execJournalEntryRelease (t : Nat) (e : Option (Nat × JInput)) (s : State) : Result :=
  .next (match e with
    | none => (s.at t).releaseDue
    | some (time, i) =>
      if !s.locked then s.at t
      else if s.isPrimary then (s.at t).fromShadow i
      else if time < t then ((s.at t).satInc F.TANDEM_JOURNAL.late).divergeAlone
      else (s.at time).journalInput i)

/-! ## Loss of the twin (R240) -/

/-- An input held from the Shadow's own ports is taken at its promotion (R240). -/
def State.takeHeld (s : State) (j : JInput) : State :=
  match j with
  | .goose p a g => (s.archiveInput p a g.raw).ingFrame (.goose p a g)
  | .sv p a x => (s.archiveInput p a x.raw).ingFrame (.sv p a x)
  | .vertik p a m => s.vtkCheckTake p m fun s => s.vtkTake p a m
  | _ => s

/-- The survivor takes every head it does not own and that is not Off: chip 0 drives the nets low, and those of a dead chip 0
rise (R238, R240). -/
def State.takeAll (s : State) : State :=
  (List.range 24).foldl (fun s h =>
    if s.netOwns h || s.headState h == 0 then s
    else
      let p := (s.posOf h s.now).getD (0, 0, 0)
      (s.moveNet h s.twinIndex).lastTake h 3 p.2.1 p.1) s

/-- A LOCKED chip has lost its twin: it is Primary, no takeover to the twin is left, it takes the heads, and a promoted Shadow takes
what it held in arrival order (R240). -/
def State.survive (s : State) : State :=
  let held := s.tandem.held
  let promoted := s.isShadow
  let s := { s with tandem.held := [], tandem.haltDiverge := false, tandem.decided := [], tandem.armed := [], tandem.handover := false }
  let s := (s.setTandem 1 1).takeAll
  let s := if promoted then { s with sb.current := none } else s
  held.foldl (fun s j => s.takeHeld j.2) s

/-- A copy in progress ends with its twin: the source goes on alone, the joiner Solo (R242). -/
def State.copyLost (s : State) : State :=
  let s := { s with tandem.hold := false, tandem.copyDone := false }
  if s.tandem.joining then { s with tandem.joining := false }.setTandem 0 0 else s.setTandem 1 1

/-- TWIN_LOST: no twin traffic and no heartbeat for 4 µs (R240, R242). -/
def execTwinLost (t : Nat) (s : State) : Result :=
  let s := { s.at t with tandem.hbLost := true }
  let s := (s.wr F.TANDEM_STATUS.link_up 0).wr F.TANDEM_STATUS.twin_alive 0
  .next (if s.rd F.TANDEM_STATUS.state = 2 then s.copyLost else if s.locked then s.survive else s)

/-- TWIN_LINK_FAIL: the link fails while the heartbeat toggles (R240). -/
def execTwinLinkFail (t : Nat) (s : State) : Result :=
  let s := (s.at t).wr F.TANDEM_STATUS.link_up 0
  .next (if s.rd F.TANDEM_STATUS.state = 2 then s.copyLost
    else if s.locked then (if s.isPrimary then s.setTandem 1 1 else s.setTandem 4 2)
    else s)

end Sys2Proof.Machine
end

