-- ==== Sys2Proof/Machine/Reads.lean ====
section
/-! DEFINITION. The reads whose effect is a step of its own: each reads one register for the masters whose reads meet in one Rim
cycle (02: R40). What a read clears is in RimRead. -/

namespace Sys2Proof.Machine

/-- Base of the unit block that holds an address; the Groupset controller's for an address in none. -/
def unitBase (a : Nat) : Nat := ((blockOf a).map (·.2.2)).getD 0x4000_0000

/-- First word of the listed 64-bit register that holds an address (R377); the first timer's count for any other. -/
def counterLo (a : Nat) : Nat :=
  match findReg a with
  | some r => if listed64 r.spec.id then r.addr else R.TMR_COUNT 0
  | none => R.TMR_COUNT 0

/-- IGNORED_WRITES_READ of the block that holds address b (R37). -/
def execIgnoredWritesRead (t b : Nat) (ms : List Master) (s : State) : Result := .next ((s.at t).rimReads (R.U_IGNORED_WRITES (unitBase b)) ms)

/-- RIM_COLLISIONS_READ of the block that holds address b (R39). -/
def execRimCollisionsRead (t b : Nat) (ms : List Master) (s : State) : Result := .next ((s.at t).rimReads (R.U_RIM_COLLISIONS (unitBase b)) ms)

/-- HEAD_ARRAY_IGNORED_READ of head h (R486). -/
def execHeadArrayIgnoredRead (t h : Nat) (ms : List Master) (s : State) : Result := .next ((s.at t).rimReads (R.ARRAY_IGNORED (h % 24)) ms)

/-- HUB_ECC_CORR_READ (R44). -/
def execHubEccCorrRead (t : Nat) (ms : List Master) (s : State) : Result := .next ((s.at t).rimReads R.HUB_ECC_CORR ms)

/-- HUB_ECC_UNCORR_READ (R45). -/
def execHubEccUncorrRead (t : Nat) (ms : List Master) (s : State) : Result := .next ((s.at t).rimReads R.HUB_ECC_UNCORR ms)

/-- HUB_WRITE_DENIED_READ (R43). -/
def execHubWriteDeniedRead (t : Nat) (ms : List Master) (s : State) : Result := .next ((s.at t).rimReads R.HUB_WRITE_DENIED ms)

/-- RIM_UNMAPPED_READ (R31). -/
def execRimUnmappedRead (t : Nat) (ms : List Master) (s : State) : Result := .next ((s.at t).rimReads R.RIM_UNMAPPED ms)

/-- HUB_HEAD_MARGIN_READ of head h (R55). -/
def execHubHeadMarginRead (t h : Nat) (ms : List Master) (s : State) : Result := .next ((s.at t).rimReads (R.HUB_HEAD_MARGIN (h % 24)) ms)

/-- LL_ERRS_READ of layer l of head h (R119). -/
def execLlErrsRead (t h l : Nat) (ms : List Master) (s : State) : Result := .next ((s.at t).rimReads (R.LL_ERRS (h % 24) (l % 8)) ms)

/-- TT_STATUS_READ of trace layer tr of head h (R126). -/
def execTtStatusRead (t h tr : Nat) (ms : List Master) (s : State) : Result := .next ((s.at t).rimReads (R.TT_STATUS (h % 24) (tr % 2)) ms)

/-- SPR_LINE_STATUS_READ of head h (R140). -/
def execSprLineStatusRead (t h : Nat) (ms : List Master) (s : State) : Result := .next ((s.at t).rimReads (R.SPR_LINE_STATUS (h % 24)) ms)

/-- SPR_ERRS_READ of head h (R140). -/
def execSprErrsRead (t h : Nat) (ms : List Master) (s : State) : Result := .next ((s.at t).rimReads (R.SPR_ERRS (h % 24)) ms)

/-- SPR_IGNORED_READ of head h (R147). -/
def execSprIgnoredRead (t h : Nat) (ms : List Master) (s : State) : Result := .next ((s.at t).rimReads (R.SPR_IGNORED (h % 24)) ms)

/-- CMP_MISMATCH_READ of head h (R161). -/
def execCmpMismatchRead (t h : Nat) (ms : List Master) (s : State) : Result := .next ((s.at t).rimReads (R.CMP_MISMATCH (h % 24)) ms)

/-- BEAM_STATUS_READ of head h (R170). -/
def execBeamStatusRead (t h : Nat) (ms : List Master) (s : State) : Result := .next ((s.at t).rimReads (R.BEAM_STATUS (h % 24)) ms)

/-- BEAM_EVENT_MISSED_READ of head h (R180). -/
def execBeamEventMissedRead (t h : Nat) (ms : List Master) (s : State) : Result := .next ((s.at t).rimReads (R.BEAM_EVENT_MISSED (h % 24)) ms)

/-- CAD_ERRS_READ of head h (R176). -/
def execCadErrsRead (t h : Nat) (ms : List Master) (s : State) : Result := .next ((s.at t).rimReads (R.CAD_ERRS (h % 24)) ms)

/-- CAD_BAD_READ of head h (R174). -/
def execCadBadRead (t h : Nat) (ms : List Master) (s : State) : Result := .next ((s.at t).rimReads (R.CAD_BAD (h % 24)) ms)

/-- TX_UNDERRUN_READ of head h (R196). -/
def execTxUnderrunRead (t h : Nat) (ms : List Master) (s : State) : Result := .next ((s.at t).rimReads (R.TX_UNDERRUN (h % 24)) ms)

/-- TX_REMOTE_RING_READ of head h (R202). -/
def execTxRemoteRingRead (t h : Nat) (ms : List Master) (s : State) : Result := .next ((s.at t).rimReads (R.TX_REMOTE_RING (h % 24)) ms)

/-- CHAIN_QUEUE_PEAK_READ (R219). -/
def execChainQueuePeakRead (t : Nat) (ms : List Master) (s : State) : Result := .next ((s.at t).rimReads R.CHAIN_QUEUE_PEAK ms)

/-- ING_DISCARD_READ of reason r (R87). -/
def execIngDiscardRead (t r : Nat) (ms : List Master) (s : State) : Result := .next ((s.at t).rimReads (R.ING_DISCARD (r % 10)) ms)

/-- DER_SKIPPED_READ (R99). -/
def execDerSkippedRead (t : Nat) (ms : List Master) (s : State) : Result := .next ((s.at t).rimReads R.DER_SKIPPED ms)

/-- DER_ARRAY_COLLISIONS_READ (R15). -/
def execDerArrayCollisionsRead (t : Nat) (ms : List Master) (s : State) : Result := .next ((s.at t).rimReads R.DER_ARRAY_COLLISIONS ms)

/-- DER_QUEUE_PEAK_READ (R82). -/
def execDerQueuePeakRead (t : Nat) (ms : List Master) (s : State) : Result := .next ((s.at t).rimReads R.DER_QUEUE_PEAK ms)

/-- GS_CLASH_READ (R63). -/
def execGsClashRead (t : Nat) (ms : List Master) (s : State) : Result := .next ((s.at t).rimReads R.GS_CLASH ms)

/-- TANDEM_JOURNAL_READ (R232). -/
def execTandemJournalRead (t : Nat) (ms : List Master) (s : State) : Result := .next ((s.at t).rimReads R.TANDEM_JOURNAL ms)

/-- TANDEM_DIVERGE_READ (R236). -/
def execTandemDivergeRead (t : Nat) (ms : List Master) (s : State) : Result := .next ((s.at t).rimReads R.TANDEM_DIVERGE ms)

/-- PEL_COMMIT_STATS_READ (R255). -/
def execPelCommitStatsRead (t : Nat) (ms : List Master) (s : State) : Result := .next ((s.at t).rimReads R.PEL_COMMIT_STATS ms)

/-- PEL_SPRITE_OWN_READ (R262). -/
def execPelSpriteOwnRead (t : Nat) (ms : List Master) (s : State) : Result := .next ((s.at t).rimReads R.PEL_SPRITE_OWN ms)

/-- ETH_PRP_READ of port p (R268). -/
def execEthPrpRead (t p : Nat) (ms : List Master) (s : State) : Result := .next ((s.at t).rimReads (R.ETH_PRP (p % 2)) ms)

/-- ETH_RX_DROP_READ of port p and reason r (R266). -/
def execEthRxDropRead (t p r : Nat) (ms : List Master) (s : State) : Result := .next ((s.at t).rimReads (R.ETH_RX_DROP (p % 2) (r % 8)) ms)

/-- VTK_ORDER_READ (R302). -/
def execVtkOrderRead (t : Nat) (ms : List Master) (s : State) : Result := .next ((s.at t).rimReads R.VTK_ORDER ms)

/-- VTK_ILLEGAL_READ of reason r (R296). -/
def execVtkIllegalRead (t r : Nat) (ms : List Master) (s : State) : Result := .next ((s.at t).rimReads (R.VTK_ILLEGAL (r % 5)) ms)

/-- BELL_ERRS_READ (R326). -/
def execBellErrsRead (t : Nat) (ms : List Master) (s : State) : Result := .next ((s.at t).rimReads R.BELL_ERRS ms)

/-- BELL_BUS_READ of bus b (R329). -/
def execBellBusRead (t b : Nat) (ms : List Master) (s : State) : Result := .next ((s.at t).rimReads (R.BELL_BUS (b % 128)) ms)

/-- INTC_MERGED_READ (R361). -/
def execIntcMergedRead (t : Nat) (ms : List Master) (s : State) : Result := .next ((s.at t).rimReads R.INTC_MERGED ms)

/-- INTC_EOI_BAD_READ of core k (R365). -/
def execIntcEoiBadRead (t k : Nat) (ms : List Master) (s : State) : Result := .next ((s.at t).rimReads (R.INTC_EOI_BAD (k % 32)) ms)

/-- COUNTER_LO_READ of the listed register that holds address a (R378). -/
def execCounterLoRead (t a : Nat) (ms : List Master) (s : State) : Result := .next ((s.at t).rimReads (counterLo a) ms)

/-- FL_CAP_POP_READ of line n (R385). -/
def execFlCapPopRead (t n : Nat) (ms : List Master) (s : State) : Result := .next ((s.at t).rimReads (R.FL_CAP_POP (n % 64)) ms)

/-- FL_STATUS_READ of line n (R384). -/
def execFlStatusRead (t n : Nat) (ms : List Master) (s : State) : Result := .next ((s.at t).rimReads (R.FL_STATUS (n % 64)) ms)

/-- SB_STATUS_READ (R402). -/
def execSbStatusRead (t : Nat) (ms : List Master) (s : State) : Result := .next ((s.at t).rimReads R.SB_STATUS ms)

/-- SB_DRIVE_READ of drive d (R398). -/
def execSbDriveRead (t d : Nat) (ms : List Master) (s : State) : Result := .next ((s.at t).rimReads (R.SB_DRIVE (d % 2)) ms)

/-- SB_KEY_READ (R405). -/
def execSbKeyRead (t : Nat) (ms : List Master) (s : State) : Result := .next ((s.at t).rimReads R.SB_KEY ms)

/-- FAULT_QUEUE_READ (R416). -/
def execFaultQueueRead (t : Nat) (ms : List Master) (s : State) : Result := .next ((s.at t).rimReads R.FAULT_QUEUE ms)

/-- FAULT_SRC_READ of source j (R411). -/
def execFaultSrcRead (t j : Nat) (ms : List Master) (s : State) : Result := .next ((s.at t).rimReads (R.FAULT_SRC (j % 512)) ms)

/-- SEC_CAL_READ (R439). -/
def execSecCalRead (t : Nat) (ms : List Master) (s : State) : Result := .next ((s.at t).rimReads R.SEC_CAL ms)

/-- CPR_TEMP_MAX_READ (R473). -/
def execCprTempMaxRead (t : Nat) (ms : List Master) (s : State) : Result := .next ((s.at t).rimReads R.CPR_TEMP_MAX ms)

end Sys2Proof.Machine
end

