-- ==== Sys2Proof/Machine/VtkCommands.lean ====
section
/-! DEFINITION. What each accepted Vertik command does at its turn (14: R291–R297, R303; 23: R434–R440; 25: R460). -/

namespace Sys2Proof.Machine

/-! ## The order of accepted commands (R297, R441) -/

/-- A write of the OTP or of the user calibration waits for the one in progress (R441). -/
def State.mustWait (s : State) (c : VtkCmd) : Bool := s.sec.job.isSome && (c.code == 0x71 || decide (0x75 ≤ c.code ∧ c.code ≤ 0x78))

/-- The accepted command that runs next. -/
def State.frontReady (s : State) : Option VtkCmd := s.vtk.ready.find? fun c => !s.mustWait c

/-- A row runs the next command when it is one of its codes. -/
def State.vtkRow (s : State) (mine : Nat → Bool) (run : State → VtkCmd → State) : State :=
  match s.frontReady with
  | some c => if mine c.code then run { s with vtk.ready := s.vtk.ready.erase c } c else s
  | none => s

/-- Finish an unframed command. -/
def State.vtkDone (s : State) (c : VtkCmd) (status : Nat) (results : List Byte := []) : State := s.vtkFinish c status 0 0 results

/-! ## Queries (R291) -/

/-- VTK_NOP: the session counters (R291). -/
def execVtkNop (t : Nat) (s : State) : Result :=
  .next ((s.at t).vtkRow (· == 0x00) fun s c =>
    let v := s.sess c.session
    s.vtkDone c stOk (natLe 4 v.outOfOrder ++ natLe 4 v.badTag ++ natLe 4 v.brokenUnlock))

/-- STATUS_READ: the status summary, whose layout is not stated (R291, log 43). -/
def execStatusRead (t : Nat) (s : State) : Result :=
  .next ((s.at t).vtkRow (· == 0x01) fun s c =>
    let (i, s) := s.draw
    s.vtkDone c stOk (Config.statusSummary i))

/-! ## The register window (R292) -/

/-- Words read one after another by the Vertik engine. -/
def State.readWords (s : State) (as : List Nat) : List Byte × State :=
  as.foldl (fun (r : List Byte × State) a =>
    let q := r.2.rimRead .vertik a 4
    (r.1 ++ natLe 4 (q.1.getD 0#32).toNat, q.2)) ([], s)

/-- REG_READ (R292). -/
def execRegRead (t : Nat) (s : State) : Result :=
  .next ((s.at t).vtkRow (· == 0x10) fun s c =>
    let r := s.readWords (windowWords c)
    r.2.vtkDone c stOk r.1)

/-- All words of a window write; detail counts the ignored ones (R290, R292). -/
def State.windowRun (s : State) (c : VtkCmd) : State :=
  let r := s.windowWrites c fun _ => true
  r.2.vtkFinish c stOk r.1 0

/-- REG_WRITE (R292). -/
def execRegWrite (t : Nat) (s : State) : Result := .next ((s.at t).vtkRow (· == 0x11) State.windowRun)

/-- REG_WRITE_MASKED (R291, R292). -/
def execRegWriteMasked (t : Nat) (s : State) : Result := .next ((s.at t).vtkRow (· == 0x12) State.windowRun)

/-! ## Scene memory (R293) -/

/-- Whole lines are read; a reply beyond the body limit of the session's port is refused (R284, R293, log 45). -/
def State.memReadRun (s : State) (c : VtkCmd) : State :=
  let a := leAt c.args 0 4
  let n := leAt c.args 4 4
  if s.bodyLimit (s.sess c.session).port < 32 + n then s.vtkDone c stBadArg
  else
    let lo := a / 64 * 64
    let (r, s) := s.memRead 71 lo ((a + n + 63) / 64 * 64 - lo)
    if r.bad.isEmpty then s.vtkDone c stOk (slice r.bytes (a - lo) n) else s.vtkDone c stMemError

/-- MEM_READ (R293). -/
def execMemRead (t : Nat) (s : State) : Result := .next ((s.at t).vtkRow (· == 0x20) State.memReadRun)

/-- Bytes to scene memory, all or none (R43, R293). -/
def State.memPut (s : State) (c : VtkCmd) (bs : List Byte) : State :=
  match s.vtkMemWrite (leAt c.args 0 4) bs with
  | some s => s.vtkDone c stOk
  | none => s.vtkDone c stDenied

/-- MEM_WRITE (R293). -/
def execMemWrite (t : Nat) (s : State) : Result :=
  .next ((s.at t).vtkRow (· == 0x21) fun s c => s.memPut c (c.args.drop 8))

/-- MEM_FILL (R293). -/
def execMemFill (t : Nat) (s : State) : Result :=
  .next ((s.at t).vtkRow (· == 0x22) fun s c =>
    s.memPut c (List.replicate (leAt c.args 4 4 / 4) (slice c.args 8 4)).flatten)

/-! ## Points (R94, R95, R293) -/

/-- A point command enters ingest, which gives its reply. -/
def State.pointRun (s : State) (c : VtkCmd) : State := s.ingEnter (.vertik c stOk)

/-- POINT_WRITE (R94). -/
def execPointWrite (t : Nat) (s : State) : Result := .next ((s.at t).vtkRow (· == 0x30) State.pointRun)

/-- POINT_FORCE (R95). -/
def execPointForce (t : Nat) (s : State) : Result := .next ((s.at t).vtkRow (· == 0x31) State.pointRun)

/-- POINT_RELEASE (R95). -/
def execPointRelease (t : Nat) (s : State) : Result := .next ((s.at t).vtkRow (· == 0x32) State.pointRun)

/-- POINT_READ: the record as it stands (R77, R291). -/
def execPointRead (t : Nat) (s : State) : Result :=
  .next ((s.at t).vtkRow (· == 0x33) fun s c =>
    let (r, s) := s.memRead 71 (s.pointOff (leAt c.args 0 4)) 32
    if r.bad.isEmpty then s.vtkDone c stOk r.bytes else s.vtkDone c stMemError)

/-! ## Heads (R169, R190) -/

/-- COMMIT of the head the path names (R169, R291). -/
def execCommit (t : Nat) (s : State) : Result :=
  .next ((s.at t).vtkRow (· == 0x40) fun s c => (s.beamCommit ((s.pathHead c).getD 0)).vtkDone c stOk)

/-- req_state of a head, the register's other fields as they are. -/
def State.headStateRun (s : State) (c : VtkCmd) : State :=
  let h := (s.pathHead c).getD 0
  (s.txCtrlWrite h (setBits (s.reg (R.TX_CTRL h)) 1 0 (leAt c.args 0 4))).vtkDone c stOk

/-- HEAD_STATE (R190, R291). -/
def execHeadState (t : Nat) (s : State) : Result := .next ((s.at t).vtkRow (· == 0x41) State.headStateRun)

/-! ## The Groupset (R61–R75, R294) -/

/-- Words of image data at their offset; a busy controller or an end beyond the staging store ends with DENIED (R61, R62, R293). -/
def State.stageRun (s : State) (c : VtkCmd) : State :=
  let at_ := leAt c.args 0 4 / 4
  let n := (c.args.length - 4) / 4
  if s.gsBusy ∨ stageWords < at_ + n ∨ stageWords ≤ at_ then s.vtkDone c stDenied
  else
    ((List.range n).foldl (fun (s : State) i => s.stageData (BitVec.ofNat 32 (leAt c.args (4 + 4 * i) 4))) (s.stagePtr at_)).vtkDone c
      stOk

/-- GS_STAGE (R294). -/
def execGsStage (t : Nat) (s : State) : Result := .next ((s.at t).vtkRow (· == 0x50) State.stageRun)

/-- A check starts, or runs, and is waited for; with nothing to check the command ends with BAD_ARG (log 46). -/
def State.checkRun (s : State) (c : VtkCmd) : State :=
  let s := s.gsCheck
  if s.gsState = 2 then { s with vtk.gsWait := s.vtk.gsWait ++ [c] } else s.vtkDone c stBadArg

/-- GS_CHECK (R294). -/
def execGsCheck (t : Nat) (s : State) : Result := .next ((s.at t).vtkRow (· == 0x51) State.checkRun)

/-- A framed GS_APPLY of another session for the same frame, which waits (R302). -/
def State.applyRival (s : State) (c : VtkCmd) : Option VtkCmd :=
  s.vtk.gsWait.find? fun d => c.framed && d.framed && d.code == 0x52 && d.session != c.session && d.frame == c.frame && c.frame != 0

/-- Priority of a session that has not closed. -/
def State.prioOf (s : State) (n : Nat) : Nat := if n < 64 then s.rd (F.VTK_SESSION.priority n) else 0

/-- The request as the controller takes it: in an ACTIVE member of a Peloton a group commit (R67). -/
def State.takeApply (s : State) (frame : Nat) : State := if s.pelState = 2 then s.applyGroup frame else s.applyNow frame

/-- An apply is requested for its frame, the next one where none is named, and waited for; with no image that it could apply it is
rejected (R67, R294, log 46). -/
def State.applyRun (s : State) (c : VtkCmd) : State :=
  if s.gsState = 0 ∨ s.gsState = 5 then s.vtkFinish c stGsRejected 0 0
  else
    match s.applyRival c with
    | some d =>
      if s.beats c d (s.prioOf c.session) (s.prioOf d.session) ⟨4, 0, 1⟩ then
        let s := { s with vtk.gsWait := s.vtk.gsWait.erase d ++ [c] }
        (s.vtkFinish d stSuperseded 0 d.frame).takeApply c.frame
      else s.vtkFinish c stSuperseded 0 c.frame
    | none =>
      { s with vtk.gsWait := s.vtk.gsWait ++ [c] }.takeApply (if c.frame = 0 then s.gs.chipFrame + 1 else c.frame)

/-- GS_APPLY (R67, R294). -/
def execGsApply (t : Nat) (s : State) : Result := .next ((s.at t).vtkRow (· == 0x52) State.applyRun)

/-- An abort that comes too late ends with DENIED (R75). -/
def State.abortRun (s : State) (c : VtkCmd) : State :=
  if s.gsState ≠ 0 ∧ (s.gsState = 5 ∧ s.gs.swapped ≠ [] ∨ s.gs.rollback = true) then s.vtkDone c stDenied
  else s.gsAbort.vtkDone c stOk

/-- GS_ABORT (R75, R294). -/
def execGsAbort (t : Nat) (s : State) : Result := .next ((s.at t).vtkRow (· == 0x53) State.abortRun)

/-! ## Leases (R303) -/

/-- The object a lease command names, as a path from the Peloton's root; none where the path is a group address. -/
def State.leasePath (s : State) (c : VtkCmd) : Option (List Nat) :=
  match s.resolve c.code c.path with
  | .own rel false => some (s.groupPath ++ rel)
  | .above p => if p.contains 0xFFFE then none else some p
  | _ => none

/-- One path names the other's object, or one above or below it. -/
def pathsMeet (a b : List Nat) : Bool := a.isPrefixOf b || b.isPrefixOf a

/-- A lease is granted, held by another, or beyond the number of leases. -/
def State.leaseTake (s : State) (c : VtkCmd) : State :=
  match s.leasePath c with
  | none => s.vtkDone c stBadArg
  | some p =>
    let live := s.vtk.leases.filter fun l => decide (s.now < l.ends)
    if live.any fun l => l.session != c.session && pathsMeet l.path p then s.vtkDone c stLeaseHeld
    else if 256 ≤ live.length ∨ 16 ≤ (live.filter (·.session == c.session)).length then s.vtkDone c stBadArg
    else
      let id := s.vtk.nextLease
      let l : Lease := { id := id, session := c.session, path := p, exclusive := leAt c.args 4 1 == 1,
                         ends := usRoot (1000 * leAt c.args 0 4) + s.now }
      ({ s with vtk.nextLease := (id + 1) % 2 ^ 32 }.setLeases (live ++ [l])).vtkDone c stOk (natLe 4 id)

/-- LEASE_TAKE (R303). -/
def execLeaseTake (t : Nat) (s : State) : Result := .next ((s.at t).vtkRow (· == 0x60) State.leaseTake)

/-- The session's own lease of that id, while it lasts. -/
def State.ownLease (s : State) (c : VtkCmd) : Option Lease :=
  s.vtk.leases.find? fun l => l.id == leAt c.args 0 4 && l.session == c.session && decide (s.now < l.ends)

/-- A lease's duration starts again. -/
def State.leaseRenew (s : State) (c : VtkCmd) : State :=
  match s.ownLease c with
  | none => s.vtkDone c stBadArg
  | some l =>
    let ends := usRoot (1000 * leAt c.args 4 4) + s.now
    (s.setLeases (s.vtk.leases.map fun m => if m = l then { m with ends := ends } else m)).vtkDone c stOk

/-- LEASE_RENEW (R303). -/
def execLeaseRenew (t : Nat) (s : State) : Result := .next ((s.at t).vtkRow (· == 0x61) State.leaseRenew)

/-- A lease ends. -/
def State.leaseRelease (s : State) (c : VtkCmd) : State :=
  match s.ownLease c with
  | none => s.vtkDone c stBadArg
  | some l => (s.setLeases (s.vtk.leases.erase l)).vtkDone c stOk

/-- LEASE_RELEASE (R303). -/
def execLeaseRelease (t : Nat) (s : State) : Result := .next ((s.at t).vtkRow (· == 0x62) State.leaseRelease)

/-! ## Unlock and reset (R295, R460) -/

/-- A fresh challenge of 8 random bytes (R295, log 8). -/
def State.unlockRun (s : State) (c : VtkCmd) : State :=
  let (i, s) := s.draw
  let ch := (List.range 8).map (Config.freeByte i)
  let s := if c.session < 64 then
      s.modSess c.session fun v => { v with challenge := some ch, unlockSeq := c.seq, unlockAt := s.now }
    else s
  s.vtkDone c stOk ch

/-- UNLOCK (R295). -/
def execUnlock (t : Nat) (s : State) : Result := .next ((s.at t).vtkRow (· == 0x70) State.unlockRun)

/-- A protected command takes effect: its interrupt, and the result the registers show (R295, R436). -/
def State.protectedRun (s : State) : State := (s.set1 F.VTK_IRQ.unlock).wr F.SEC_PROG.last 0

/-- DEVICE_RESET: its reply, then the device reset with cause command (R436, R460). -/
def execDeviceReset (t : Nat) (s : State) : Result :=
  .next ((s.at t).vtkRow (· == 0x72) fun s c => ((s.protectedRun).vtkDone c stOk).deviceReset 4)

/-! ## Security commands (R434–R440) -/

/-- A write of the OTP or of the flash begins. -/
def State.startJob (s : State) (j : OtpJob) (c : VtkCmd) : State := { s with sec.job := some (j, c) }.wr F.SEC_PROG.busy 1

/-- Sequence number of the next calibration record. -/
def State.calNext (s : State) : Nat := (s.calCurrent.seq + 1) % 2 ^ 32

/-- RESTORE_FACTORY: an empty record over the copy that is not current (R440). -/
def execRestoreFactory (t : Nat) (s : State) : Result :=
  .next ((s.at t).vtkRow (· == 0x71) fun s c =>
    (s.protectedRun).startJob (.calibration { seq := s.calNext, items := [], valid := true }) c)

/-- The contents of the Boot ROM (R435, log 10). -/
def bootRomBytes : List Byte := (List.range 0x2_0000).map Config.bootRom

/-- The attestation report (R437). -/
def State.attestation (s : State) (nonce : List Byte) : List Byte :=
  let pad := fun (n : Nat) (b : List Byte) => (b ++ List.replicate n 0#8).take n
  let body := ascii "ATST" ++ [1#8, 0#8] ++ natLe 1 s.secState ++ natLe 1 (s.sec.inForce.getD 0xFF) ++ natLe 1 s.sec.rollback
    ++ natLe 1 s.recordKey ++ natLe 6 0 ++ nonce ++ s.idPub
    ++ (if s.recordKey = 0 then List.replicate 32 0#8 else ed25519Public (s.recordSeed s.recordKey))
    ++ first32 bootRomBytes ++ pad 32 (s.gs.digest.take 32) ++ natLe 8 (nsOf s.now) ++ natLe 4 (s.reg R.GS_SECURITY_VERSION).toNat
    ++ natLe 4 0
  body ++ s.idSign body

/-- ATTEST (R437). -/
def execAttest (t : Nat) (s : State) : Result :=
  .next ((s.at t).vtkRow (· == 0x74) fun s c => (s.protectedRun).vtkDone c stOk (s.attestation (slice c.args 8 32)))

/-- A sensor shows a temperature outside 0 °C to 85 °C (R425). -/
def State.tooHotToProgram (s : State) : Bool :=
  (List.range 8).any fun i => s.on (F.CPR_TEMP.valid i) && (decide (s.tempOf i < 0) || decide (85 * 16 < s.tempOf i))

/-- The generation a SETTINGS_WRITE programs: the lowest one whose begin bit is clear (R425). -/
def State.freeGen (s : State) : Option Nat := (List.range 4).find? fun g => !bit s.sec.begun g

/-- A new generation: its fields, its owner's signature but in Factory, a free generation, the temperature; then the begin bit is
programmed and the rest follows (R425, R436). -/
def State.settingsRun (s : State) (c : VtkCmd) : State :=
  let sig := slice c.args 8 64
  let b := slice c.args 72 960
  let factory := s.secState == 0
  if !genFieldsOk b then s.vtkDone c stBadArg
  else if !factory && !s.ownerSigned b sig then s.secDenied c 2
  else
    match s.freeGen with
    | none => s.secDenied c 3
    | some g =>
      if s.tooHotToProgram then s.secDenied c 4
      else
        let s := s.protectedRun
        let s := { s with sec.begun := setBit s.sec.begun g true }
        let s := (s.startJob (.settings g (b ++ sha512 b)) c).secRefresh
        if factory then s.securityChanged else s

/-- SETTINGS_WRITE (R436). -/
def execSettingsWrite (t : Nat) (s : State) : Result := .next ((s.at t).vtkRow (· == 0x75) State.settingsRun)

/-- The lock bit: refused in Factory; signed by the owner (R436). -/
def State.lockRun (s : State) (c : VtkCmd) : State :=
  if s.secState = 0 then s.secDenied c 6
  else if !s.ownerSigned (ascii "LOCK" ++ s.idPub) (slice c.args 8 64) then s.secDenied c 2
  else if s.tooHotToProgram then s.secDenied c 4
  else (s.protectedRun).startJob .lock c

/-- LOCK (R436). -/
def execLock (t : Nat) (s : State) : Result := .next ((s.at t).vtkRow (· == 0x76) State.lockRun)

/-- The anti-rollback counter, up to the target, the image in force and 128 (R434, R436). -/
def State.rollbackRun (s : State) (c : VtkCmd) : State :=
  let target := leAt c.args 8 4
  let n := min (min target (s.reg R.GS_SECURITY_VERSION).toNat) 128
  if !s.ownerSigned (ascii "ROLL" ++ s.idPub ++ natLe 4 target) (slice c.args 12 64) then s.secDenied c 2
  else if n ≤ s.sec.rollback then (s.protectedRun).vtkDone c stOk (natLe 1 s.sec.rollback)
  else if s.tooHotToProgram then s.secDenied c 4
  else (s.protectedRun).startJob (.rollback n) c

/-- ROLLBACK_ADVANCE (R434, R436). -/
def execRollbackAdvance (t : Nat) (s : State) : Result := .next ((s.at t).vtkRow (· == 0x77) State.rollbackRun)

/-- Items of a CAL_WRITE (R439). -/
def calItems (c : VtkCmd) : List CalItem :=
  (List.range (leAt c.args 8 4)).map fun i =>
    { id := leAt c.args (12 + 8 * i) 2, inst := leAt c.args (14 + 8 * i) 1, value := leAt c.args (16 + 8 * i) 4 }

/-- Put an item into a record's items: over its old value, or behind the others. -/
def mergeItem (is : List CalItem) (i : CalItem) : List CalItem :=
  if is.any fun j => j.id == i.id && j.inst == i.inst then is.map fun j => if j.id == i.id && j.inst == i.inst then i else j
  else is ++ [i]

/-- Items are merged into the current record and written over the other copy; those no unit owns are counted (R439, R477). -/
def State.calWriteRun (s : State) (c : VtkCmd) : State :=
  let is := calItems c
  let own := is.filter calOwned
  let s := (s.protectedRun).satInc F.SEC_CAL.unknown (is.length - own.length)
  s.startJob (.calibration { seq := s.calNext, items := own.foldl mergeItem s.calCurrent.items, valid := true }) c

/-- CAL_WRITE (R439). -/
def execCalWrite (t : Nat) (s : State) : Result := .next ((s.at t).vtkRow (· == 0x78) State.calWriteRun)

/-- Factory value of a calibration item (R438, R477). -/
def State.calFactory (s : State) (id inst : Nat) : Nat :=
  mget (fun k => if k = 0x0C02 * 256 then 100 else 0) s.sec.factoryCal (256 * id + inst)

/-- An item's value in force and its factory value; an item that no unit owns is BAD_ARG (R436, log 46). -/
def State.calReadRun (s : State) (c : VtkCmd) : State :=
  let id := leAt c.args 8 2
  let i := leAt c.args 10 1
  if (id = 0x0C01 ∧ i < 8) ∨ (id = 0x0C02 ∧ i = 0) then
    (s.protectedRun).vtkDone c stOk (natLe 4 (s.calValue id i) ++ natLe 4 (s.calFactory id i))
  else s.vtkDone c stBadArg

/-- CAL_READ (R436). -/
def execCalRead (t : Nat) (s : State) : Result := .next ((s.at t).vtkRow (· == 0x79) State.calReadRun)

/-- VTK_UNKNOWN_COMMAND: a reserved code (R291). -/
def execVtkUnknownCommand (t : Nat) (s : State) : Result :=
  .next ((s.at t).vtkRow (fun c => !knownCode c) fun s c => s.vtkDone c stUnknown)

end Sys2Proof.Machine
end

