-- ==== Sys2Proof/Machine/Dispatch.lean ====
section
/-! DEFINITION. One arm per command: each a direct call of its meaning. -/

namespace Sys2Proof.Machine

def exec (i : Instr) (s : State) : Host.Outcome State Fault Refusal :=
  match i with
  | .registerWrite t ws => Sys2Proof.Machine.execRegisterWrite t ws s
  | .ignoredWritesRead t b ms => Sys2Proof.Machine.execIgnoredWritesRead t b ms s
  | .rimCollisionsRead t b ms => Sys2Proof.Machine.execRimCollisionsRead t b ms s
  | .headArrayIgnoredRead t h ms => Sys2Proof.Machine.execHeadArrayIgnoredRead t h ms s
  | .hubEccCorrRead t ms => Sys2Proof.Machine.execHubEccCorrRead t ms s
  | .hubEccUncorrRead t ms => Sys2Proof.Machine.execHubEccUncorrRead t ms s
  | .hubWriteDeniedRead t ms => Sys2Proof.Machine.execHubWriteDeniedRead t ms s
  | .rimUnmappedRead t ms => Sys2Proof.Machine.execRimUnmappedRead t ms s
  | .hubHeadMarginRead t h ms => Sys2Proof.Machine.execHubHeadMarginRead t h ms s
  | .hubSlotAccess k bank a => Sys2Proof.Machine.execHubSlotAccess k bank a s
  | .scrubRead t bank => Sys2Proof.Machine.execScrubRead t bank s
  | .eccWriteBack t bank => Sys2Proof.Machine.execEccWriteBack t bank s
  | .hardWordReread t bank again => Sys2Proof.Machine.execHardWordReread t bank again s
  | .spareRepairCopy t bank => Sys2Proof.Machine.execSpareRepairCopy t bank s
  | .spareTakeover t bank => Sys2Proof.Machine.execSpareTakeover t bank s
  | .fetchLineStart t h n y => Sys2Proof.Machine.execFetchLineStart t h n y s
  | .fetchDataArrive t h n y off => Sys2Proof.Machine.execFetchDataArrive t h n y off s
  | .fetchLineDrop t h n y => Sys2Proof.Machine.execFetchLineDrop t h n y s
  | .traceBuildStart t h tr n => Sys2Proof.Machine.execTraceBuildStart t h tr n s
  | .llErrsRead t h l ms => Sys2Proof.Machine.execLlErrsRead t h l ms s
  | .ttStatusRead t h tr ms => Sys2Proof.Machine.execTtStatusRead t h tr ms s
  | .sprLineStatusRead t h ms => Sys2Proof.Machine.execSprLineStatusRead t h ms s
  | .sprErrsRead t h ms => Sys2Proof.Machine.execSprErrsRead t h ms s
  | .sprIgnoredRead t h ms => Sys2Proof.Machine.execSprIgnoredRead t h ms s
  | .pixelLookup t h n y x => Sys2Proof.Machine.execPixelLookup t h n y x s
  | .pixelSend t h n y x a b => Sys2Proof.Machine.execPixelSend t h n y x a b s
  | .cmpMismatchRead t h ms => Sys2Proof.Machine.execCmpMismatchRead t h ms s
  | .frameStart t h n take => Sys2Proof.Machine.execFrameStart t h n take s
  | .chipFrameStart t n => Sys2Proof.Machine.execChipFrameStart t n s
  | .latchPoint t h n => Sys2Proof.Machine.execLatchPoint t h n s
  | .beamCommit t h => Sys2Proof.Machine.execBeamCommit t h s
  | .beamCommitCancel t h => Sys2Proof.Machine.execBeamCommitCancel t h s
  | .commitFrameWrite t h f => Sys2Proof.Machine.execCommitFrameWrite t h f s
  | .beamStatusRead t h ms => Sys2Proof.Machine.execBeamStatusRead t h ms s
  | .lineEventFire t h k => Sys2Proof.Machine.execLineEventFire t h k s
  | .beamEventMissedRead t h ms => Sys2Proof.Machine.execBeamEventMissedRead t h ms s
  | .cadenceEntryDue t h => Sys2Proof.Machine.execCadenceEntryDue t h s
  | .cadenceWrite t h => Sys2Proof.Machine.execCadenceWrite t h s
  | .cadErrsRead t h ms => Sys2Proof.Machine.execCadErrsRead t h ms s
  | .cadBadRead t h ms => Sys2Proof.Machine.execCadBadRead t h ms s
  | .headStateRequest t h w => Sys2Proof.Machine.execHeadStateRequest t h w s
  | .psrSdpSend t h => Sys2Proof.Machine.execPsrSdpSend t h s
  | .hpdPlug t h c => Sys2Proof.Machine.execHpdPlug t h c s
  | .hpdIrq t h lost psrError => Sys2Proof.Machine.execHpdIrq t h lost psrError s
  | .hpdUnplug t h => Sys2Proof.Machine.execHpdUnplug t h s
  | .trainingAttemptEnd t h ok => Sys2Proof.Machine.execTrainingAttemptEnd t h ok s
  | .auxRequest t h w => Sys2Proof.Machine.execAuxRequest t h w s
  | .auxComplete t h r => Sys2Proof.Machine.execAuxComplete t h r s
  | .auxDeferRetry t h => Sys2Proof.Machine.execAuxDeferRetry t h s
  | .teEdge t h => Sys2Proof.Machine.execTeEdge t h s
  | .teSilent t h => Sys2Proof.Machine.execTeSilent t h s
  | .txUnderrunRead t h ms => Sys2Proof.Machine.execTxUnderrunRead t h ms s
  | .mirrorPacketSend t h n seg => Sys2Proof.Machine.execMirrorPacketSend t h n seg s
  | .mirrorPacketReceive t bytes => Sys2Proof.Machine.execMirrorPacketReceive t bytes s
  | .sourceAbsent t h => Sys2Proof.Machine.execSourceAbsent t h s
  | .txRemoteRingRead t h ms => Sys2Proof.Machine.execTxRemoteRingRead t h ms s
  | .lineDigestComplete t h n y => Sys2Proof.Machine.execLineDigestComplete t h n y s
  | .bandSealComplete t h n k => Sys2Proof.Machine.execBandSealComplete t h n k s
  | .recordSigned t => Sys2Proof.Machine.execRecordSigned t s
  | .chainQueuePeakRead t ms => Sys2Proof.Machine.execChainQueuePeakRead t ms s
  | .gooseFrame t port g => Sys2Proof.Machine.execGooseFrame t port g s
  | .svAsdu t port a => Sys2Proof.Machine.execSvAsdu t port a s
  | .supervisionCheck t => Sys2Proof.Machine.execSupervisionCheck t s
  | .svStreamTimeout t v => Sys2Proof.Machine.execSvStreamTimeout t v s
  | .ingInit t => Sys2Proof.Machine.execIngInit t s
  | .initFillComplete t => Sys2Proof.Machine.execInitFillComplete t s
  | .ingDiscardRead t r ms => Sys2Proof.Machine.execIngDiscardRead t r ms s
  | .ruleEvaluation t => Sys2Proof.Machine.execRuleEvaluation t s
  | .actionWrite t n => Sys2Proof.Machine.execActionWrite t n s
  | .photonRecord t i1 => Sys2Proof.Machine.execPhotonRecord t i1 s
  | .fieldLineEffect t i1 => Sys2Proof.Machine.execFieldLineEffect t i1 s
  | .derReeval t p => Sys2Proof.Machine.execDerReeval t p s
  | .reevalAll t => Sys2Proof.Machine.execReevalAll t s
  | .derailleurDisable t => Sys2Proof.Machine.execDerailleurDisable t s
  | .derSkippedRead t ms => Sys2Proof.Machine.execDerSkippedRead t ms s
  | .derArrayCollisionsRead t ms => Sys2Proof.Machine.execDerArrayCollisionsRead t ms s
  | .derQueuePeakRead t ms => Sys2Proof.Machine.execDerQueuePeakRead t ms s
  | .gsStagePtrWrite t n => Sys2Proof.Machine.execGsStagePtrWrite t n s
  | .gsStageDataWrite t w => Sys2Proof.Machine.execGsStageDataWrite t w s
  | .gsCtrlCheck t => Sys2Proof.Machine.execGsCtrlCheck t s
  | .gsCtrlAbort t => Sys2Proof.Machine.execGsCtrlAbort t s
  | .gsApplyFrameWrite t frame => Sys2Proof.Machine.execGsApplyFrameWrite t frame s
  | .gsCheckComplete t => Sys2Proof.Machine.execGsCheckComplete t s
  | .unitSwap t type num => Sys2Proof.Machine.execUnitSwap t type num s
  | .headSwapLoadDone t h => Sys2Proof.Machine.execHeadSwapLoadDone t h s
  | .corePark t k => Sys2Proof.Machine.execCorePark t k s
  | .coreLoadDone t k => Sys2Proof.Machine.execCoreLoadDone t k s
  | .gsClashRead t ms => Sys2Proof.Machine.execGsClashRead t ms s
  | .journalEntryRelease t e => Sys2Proof.Machine.execJournalEntryRelease t e s
  | .sealCompare t h twin twinMis twinBist twinHalt => Sys2Proof.Machine.execSealCompare t h twin twinMis twinBist twinHalt s
  | .takeNetChange t h => Sys2Proof.Machine.execTakeNetChange t h s
  | .takeNetDisagree t h high => Sys2Proof.Machine.execTakeNetDisagree t h high s
  | .tandemTakeReq t heads => Sys2Proof.Machine.execTandemTakeReq t heads s
  | .twinLost t => Sys2Proof.Machine.execTwinLost t s
  | .twinLinkFail t => Sys2Proof.Machine.execTwinLinkFail t s
  | .heldFrameExpire t => Sys2Proof.Machine.execHeldFrameExpire t s
  | .tandemStartRole t twin => Sys2Proof.Machine.execTandemStartRole t twin s
  | .tandemRejoin t fromTwin digest auth => Sys2Proof.Machine.execTandemRejoin t fromTwin digest auth s
  | .tandemHandover t => Sys2Proof.Machine.execTandemHandover t s
  | .rejoinTimeTimeout t => Sys2Proof.Machine.execRejoinTimeTimeout t s
  | .stateCopyComplete t blocks words => Sys2Proof.Machine.execStateCopyComplete t blocks words s
  | .cutoverHoldStart t words queue cores locals voices => Sys2Proof.Machine.execCutoverHoldStart t words queue cores locals voices s
  | .cutoverHoldEnd t => Sys2Proof.Machine.execCutoverHoldEnd t s
  | .tandemJournalRead t ms => Sys2Proof.Machine.execTandemJournalRead t ms s
  | .tandemDivergeRead t ms => Sys2Proof.Machine.execTandemDivergeRead t ms s
  | .pelotonJoin t req => Sys2Proof.Machine.execPelotonJoin t req s
  | .joinAnswer t reason frame number leader path => Sys2Proof.Machine.execJoinAnswer t reason frame number leader path s
  | .pelotonLeave t frame => Sys2Proof.Machine.execPelotonLeave t frame s
  | .pelotonBeat t answers => Sys2Proof.Machine.execPelotonBeat t answers s
  | .leaderClaim t i1 held handed view => Sys2Proof.Machine.execLeaderClaim t i1 held handed view s
  | .bundleClose t b => Sys2Proof.Machine.execBundleClose t b s
  | .prepareReceive t b => Sys2Proof.Machine.execPrepareReceive t b s
  | .ready t m f => Sys2Proof.Machine.execReady t m f s
  | .bundleDecide t => Sys2Proof.Machine.execBundleDecide t s
  | .commitReceive t m f => Sys2Proof.Machine.execCommitReceive t m f s
  | .retargetReceive t f => Sys2Proof.Machine.execRetargetReceive t f s
  | .bundleArm t f => Sys2Proof.Machine.execBundleArm t f s
  | .ackDeadline t => Sys2Proof.Machine.execAckDeadline t s
  | .returnRequest t m r missed words owners resync => Sys2Proof.Machine.execReturnRequest t m r missed words owners resync s
  | .memberFail t m => Sys2Proof.Machine.execMemberFail t m s
  | .pelCommitStatsRead t ms => Sys2Proof.Machine.execPelCommitStatsRead t ms s
  | .pelSpriteOwnRead t ms => Sys2Proof.Machine.execPelSpriteOwnRead t ms s
  | .frameReceive t p codeword fcs room b => Sys2Proof.Machine.execFrameReceive t p codeword fcs room b s
  | .prpEntryExpire t mac => Sys2Proof.Machine.execPrpEntryExpire t mac s
  | .prpSupervisionSend t => Sys2Proof.Machine.execPrpSupervisionSend t s
  | .ethLinkChange t p up => Sys2Proof.Machine.execEthLinkChange t p up s
  | .ethPrpRead t p ms => Sys2Proof.Machine.execEthPrpRead t p ms s
  | .ethRxDropRead t p r ms => Sys2Proof.Machine.execEthRxDropRead t p r ms s
  | .ptpSync t y => Sys2Proof.Machine.execPtpSync t y s
  | .pdelayReqSend t p delay => Sys2Proof.Machine.execPdelayReqSend t p delay s
  | .pdelayReqReceive t p => Sys2Proof.Machine.execPdelayReqReceive t p s
  | .announceTimeout t p other => Sys2Proof.Machine.execAnnounceTimeout t p other s
  | .firstLock t target => Sys2Proof.Machine.execFirstLock t target s
  | .odoSet t ns => Sys2Proof.Machine.execOdoSet t ns s
  | .odoForget t => Sys2Proof.Machine.execOdoForget t s
  | .odoSnap t => Sys2Proof.Machine.execOdoSnap t s
  | .leapSecond t => Sys2Proof.Machine.execLeapSecond t s
  | .hello t p msg => Sys2Proof.Machine.execHello t p msg s
  | .auth t p msg => Sys2Proof.Machine.execAuth t p msg s
  | .authTimeout t n => Sys2Proof.Machine.execAuthTimeout t n s
  | .close t p msg => Sys2Proof.Machine.execClose t p msg s
  | .sessionTimeout t n => Sys2Proof.Machine.execSessionTimeout t n s
  | .command t p msg => Sys2Proof.Machine.execCommand t p msg s
  | .vtkNop t => Sys2Proof.Machine.execVtkNop t s
  | .statusRead t => Sys2Proof.Machine.execStatusRead t s
  | .regRead t => Sys2Proof.Machine.execRegRead t s
  | .regWrite t => Sys2Proof.Machine.execRegWrite t s
  | .regWriteMasked t => Sys2Proof.Machine.execRegWriteMasked t s
  | .memRead t => Sys2Proof.Machine.execMemRead t s
  | .memWrite t => Sys2Proof.Machine.execMemWrite t s
  | .memFill t => Sys2Proof.Machine.execMemFill t s
  | .pointWrite t => Sys2Proof.Machine.execPointWrite t s
  | .pointForce t => Sys2Proof.Machine.execPointForce t s
  | .pointRelease t => Sys2Proof.Machine.execPointRelease t s
  | .pointRead t => Sys2Proof.Machine.execPointRead t s
  | .commit t => Sys2Proof.Machine.execCommit t s
  | .headState t => Sys2Proof.Machine.execHeadState t s
  | .gsStage t => Sys2Proof.Machine.execGsStage t s
  | .gsCheck t => Sys2Proof.Machine.execGsCheck t s
  | .gsApply t => Sys2Proof.Machine.execGsApply t s
  | .gsAbort t => Sys2Proof.Machine.execGsAbort t s
  | .leaseTake t => Sys2Proof.Machine.execLeaseTake t s
  | .leaseRenew t => Sys2Proof.Machine.execLeaseRenew t s
  | .leaseRelease t => Sys2Proof.Machine.execLeaseRelease t s
  | .leaseExpire t => Sys2Proof.Machine.execLeaseExpire t s
  | .unlock t => Sys2Proof.Machine.execUnlock t s
  | .unlockTimeout t n => Sys2Proof.Machine.execUnlockTimeout t n s
  | .restoreFactory t => Sys2Proof.Machine.execRestoreFactory t s
  | .deviceReset t => Sys2Proof.Machine.execDeviceReset t s
  | .attest t => Sys2Proof.Machine.execAttest t s
  | .settingsWrite t => Sys2Proof.Machine.execSettingsWrite t s
  | .lock t => Sys2Proof.Machine.execLock t s
  | .rollbackAdvance t => Sys2Proof.Machine.execRollbackAdvance t s
  | .calWrite t => Sys2Proof.Machine.execCalWrite t s
  | .calRead t => Sys2Proof.Machine.execCalRead t s
  | .vtkUnknownCommand t => Sys2Proof.Machine.execVtkUnknownCommand t s
  | .framedApply t => Sys2Proof.Machine.execFramedApply t s
  | .vtkOrderRead t ms => Sys2Proof.Machine.execVtkOrderRead t ms s
  | .vtkIllegalRead t r ms => Sys2Proof.Machine.execVtkIllegalRead t r ms s
  | .bltQueueWrWrite t q v => Sys2Proof.Machine.execBltQueueWrWrite t q v s
  | .blitterCommandTake t => Sys2Proof.Machine.execBlitterCommandTake t s
  | .bltNop t => Sys2Proof.Machine.execBltNop t s
  | .bltCopy t => Sys2Proof.Machine.execBltCopy t s
  | .bltFill t => Sys2Proof.Machine.execBltFill t s
  | .blitterWaitEnd t => Sys2Proof.Machine.execBlitterWaitEnd t s
  | .blitterComplete t => Sys2Proof.Machine.execBlitterComplete t s
  | .bltQueueCancel t q => Sys2Proof.Machine.execBltQueueCancel t q s
  | .bltQueueResume t q => Sys2Proof.Machine.execBltQueueResume t q s
  | .audioTick t ins => Sys2Proof.Machine.execAudioTick t ins s
  | .cueCommand t cue arg action => Sys2Proof.Machine.execCueCommand t cue arg action s
  | .envelopeSegmentEnd t v => Sys2Proof.Machine.execEnvelopeSegmentEnd t v s
  | .envelopeHoldExpire t v => Sys2Proof.Machine.execEnvelopeHoldExpire t v s
  | .clipEnd t v => Sys2Proof.Machine.execClipEnd t v s
  | .bellXpDataWrite t gain mode => Sys2Proof.Machine.execBellXpDataWrite t gain mode s
  | .bellSinkWrite t k bus mode => Sys2Proof.Machine.execBellSinkWrite t k bus mode s
  | .bellBusGainWrite t b gain => Sys2Proof.Machine.execBellBusGainWrite t b gain s
  | .crossfadeEnd t kind n => Sys2Proof.Machine.execCrossfadeEnd t kind n s
  | .zeroCut t kind n => Sys2Proof.Machine.execZeroCut t kind n s
  | .tdmLock t p rate => Sys2Proof.Machine.execTdmLock t p rate s
  | .tdmUnlock t p rate => Sys2Proof.Machine.execTdmUnlock t p rate s
  | .bellErrsRead t ms => Sys2Proof.Machine.execBellErrsRead t ms s
  | .bellBusRead t b ms => Sys2Proof.Machine.execBellBusRead t b ms s
  | .nop t k => Sys2Proof.Machine.execNop t k s
  | .wait t k => Sys2Proof.Machine.execWait t k s
  | .trap t k code => Sys2Proof.Machine.execTrap t k code s
  | .iret t k => Sys2Proof.Machine.execIret t k s
  | .disN t k => Sys2Proof.Machine.execDisN t k s
  | .enN t k => Sys2Proof.Machine.execEnN t k s
  | .disF t k => Sys2Proof.Machine.execDisF t k s
  | .enF t k => Sys2Proof.Machine.execEnF t k s
  | .clrC t k => Sys2Proof.Machine.execClrC t k s
  | .setC t k => Sys2Proof.Machine.execSetC t k s
  | .unlink t k => Sys2Proof.Machine.execUnlink t k s
  | .fence t k => Sys2Proof.Machine.execFence t k s
  | .dbgbrk t k => Sys2Proof.Machine.execDbgbrk t k s
  | .ld t k r m v => Sys2Proof.Machine.execLd t k r m v s
  | .ldu t k r v => Sys2Proof.Machine.execLdu t k r v s
  | .st t k r m v => Sys2Proof.Machine.execSt t k r m v s
  | .ldB t k m v => Sys2Proof.Machine.execLdB t k m v s
  | .ldH t k m v => Sys2Proof.Machine.execLdH t k m v s
  | .stB t k m v => Sys2Proof.Machine.execStB t k m v s
  | .stH t k m v => Sys2Proof.Machine.execStH t k m v s
  | .addA t k m v => Sys2Proof.Machine.execAddA t k m v s
  | .addc t k m v => Sys2Proof.Machine.execAddc t k m v s
  | .subA t k m v => Sys2Proof.Machine.execSubA t k m v s
  | .subc t k m v => Sys2Proof.Machine.execSubc t k m v s
  | .andA t k m v => Sys2Proof.Machine.execAndA t k m v s
  | .orA t k m v => Sys2Proof.Machine.execOrA t k m v s
  | .xorA t k m v => Sys2Proof.Machine.execXorA t k m v s
  | .cmp t k m v => Sys2Proof.Machine.execCmp t k m v s
  | .testA t k v => Sys2Proof.Machine.execTestA t k v s
  | .mov t k f => Sys2Proof.Machine.execMov t k f s
  | .inc t k r => Sys2Proof.Machine.execInc t k r s
  | .dec t k r => Sys2Proof.Machine.execDec t k r s
  | .neg t k => Sys2Proof.Machine.execNeg t k s
  | .notA t k => Sys2Proof.Machine.execNotA t k s
  | .shl t k byX v => Sys2Proof.Machine.execShl t k byX v s
  | .shr t k byX v => Sys2Proof.Machine.execShr t k byX v s
  | .sar t k byX v => Sys2Proof.Machine.execSar t k byX v s
  | .ror t k byX v => Sys2Proof.Machine.execRor t k byX v s
  | .mul t k => Sys2Proof.Machine.execMul t k s
  | .mulhu t k => Sys2Proof.Machine.execMulhu t k s
  | .mulhs t k => Sys2Proof.Machine.execMulhs t k s
  | .cmpX t k r v => Sys2Proof.Machine.execCmpX t k r v s
  | .addX t k r v => Sys2Proof.Machine.execAddX t k r v s
  | .br t k c v => Sys2Proof.Machine.execBr t k c v s
  | .loopX t k v => Sys2Proof.Machine.execLoopX t k v s
  | .jmp t k byX v => Sys2Proof.Machine.execJmp t k byX v s
  | .call t k byX v => Sys2Proof.Machine.execCall t k byX v s
  | .ret t k => Sys2Proof.Machine.execRet t k s
  | .push t k r => Sys2Proof.Machine.execPush t k r s
  | .pop t k r => Sys2Proof.Machine.execPop t k r s
  | .ll t k y v => Sys2Proof.Machine.execLl t k y v s
  | .sc t k y v => Sys2Proof.Machine.execSc t k y v s
  | .wralt t k v => Sys2Proof.Machine.execWralt t k v s
  | .rdalt t k v => Sys2Proof.Machine.execRdalt t k v s
  | .cpwr t k slot v => Sys2Proof.Machine.execCpwr t k slot v s
  | .cprd t k slot v => Sys2Proof.Machine.execCprd t k slot v s
  | .divu t k v => Sys2Proof.Machine.execDivu t k v s
  | .divs t k v => Sys2Proof.Machine.execDivs t k v s
  | .macs t k v => Sys2Proof.Machine.execMacs t k v s
  | .macu t k v => Sys2Proof.Machine.execMacu t k v s
  | .msus t k v => Sys2Proof.Machine.execMsus t k v s
  | .clr t k v => Sys2Proof.Machine.execClr t k v s
  | .clz t k v => Sys2Proof.Machine.execClz t k v s
  | .popc t k v => Sys2Proof.Machine.execPopc t k v s
  | .extu t k v => Sys2Proof.Machine.execExtu t k v s
  | .exts t k v => Sys2Proof.Machine.execExts t k v s
  | .ins t k v => Sys2Proof.Machine.execIns t k v s
  | .rev t k v => Sys2Proof.Machine.execRev t k v s
  | .snap t k v => Sys2Proof.Machine.execSnap t k v s
  | .waituntil t k v => Sys2Proof.Machine.execWaituntil t k v s
  | .waituntilExpire t k => Sys2Proof.Machine.execWaituntilExpire t k s
  | .illegalInstruction t k w => Sys2Proof.Machine.execIllegalInstruction t k w s
  | .coreStoreDrain t k => Sys2Proof.Machine.execCoreStoreDrain t k s
  | .fastInterruptEntry t k => Sys2Proof.Machine.execFastInterruptEntry t k s
  | .normalInterruptEntry t k => Sys2Proof.Machine.execNormalInterruptEntry t k s
  | .sourceEdge t i1 => Sys2Proof.Machine.execSourceEdge t i1 s
  | .sourceLevelChange t i1 => Sys2Proof.Machine.execSourceLevelChange t i1 s
  | .intcClaimRead t k ms => Sys2Proof.Machine.execIntcClaimRead t k ms s
  | .intcEoiWrite t k id m => Sys2Proof.Machine.execIntcEoiWrite t k id m s
  | .intcFastEoiWrite t k m => Sys2Proof.Machine.execIntcFastEoiWrite t k m s
  | .intcDoorbellWrite t k b => Sys2Proof.Machine.execIntcDoorbellWrite t k b s
  | .intcMergedRead t ms => Sys2Proof.Machine.execIntcMergedRead t ms s
  | .intcEoiBadRead t k ms => Sys2Proof.Machine.execIntcEoiBadRead t k ms s
  | .timerMatch t ch => Sys2Proof.Machine.execTimerMatch t ch s
  | .tmrCountWrite t ch v => Sys2Proof.Machine.execTmrCountWrite t ch v s
  | .tmrCompareWrite t ch v => Sys2Proof.Machine.execTmrCompareWrite t ch v s
  | .tmrSnap t channels => Sys2Proof.Machine.execTmrSnap t channels s
  | .counterLoRead t a ms => Sys2Proof.Machine.execCounterLoRead t a ms s
  | .filterAccept t n => Sys2Proof.Machine.execFilterAccept t n s
  | .flCapPopRead t n ms => Sys2Proof.Machine.execFlCapPopRead t n ms s
  | .flStatusRead t n ms => Sys2Proof.Machine.execFlStatusRead t n ms s
  | .directionChangeEnd t n => Sys2Proof.Machine.execDirectionChangeEnd t n s
  | .outputShort t n => Sys2Proof.Machine.execOutputShort t n s
  | .shortRetry t n ok => Sys2Proof.Machine.execShortRetry t n ok s
  | .dmaChStart t e c => Sys2Proof.Machine.execDmaChStart t e c s
  | .dmaChannelTake t e => Sys2Proof.Machine.execDmaChannelTake t e s
  | .dmaDescriptorFetch t e => Sys2Proof.Machine.execDmaDescriptorFetch t e s
  | .dmaDescriptorComplete t e => Sys2Proof.Machine.execDmaDescriptorComplete t e s
  | .dmaChannelDisable t e written got => Sys2Proof.Machine.execDmaChannelDisable t e written got s
  | .dmaResume t e => Sys2Proof.Machine.execDmaResume t e s
  | .archiveEntry t room twin => Sys2Proof.Machine.execArchiveEntry t room twin s
  | .stagingDrain t => Sys2Proof.Machine.execStagingDrain t s
  | .driveWriteComplete t n => Sys2Proof.Machine.execDriveWriteComplete t n s
  | .segmentClose t => Sys2Proof.Machine.execSegmentClose t s
  | .sbFlush t => Sys2Proof.Machine.execSbFlush t s
  | .keyframeStart t write => Sys2Proof.Machine.execKeyframeStart t write s
  | .keyframeHold t ends => Sys2Proof.Machine.execKeyframeHold t ends s
  | .sbFreeze t => Sys2Proof.Machine.execSbFreeze t s
  | .sbUnfreeze t i1 => Sys2Proof.Machine.execSbUnfreeze t i1 s
  | .sbAdopt t => Sys2Proof.Machine.execSbAdopt t s
  | .sbReadStart t w => Sys2Proof.Machine.execSbReadStart t w s
  | .sbReadComplete t data => Sys2Proof.Machine.execSbReadComplete t data s
  | .driveTimeout t d => Sys2Proof.Machine.execDriveTimeout t d s
  | .driveInsert t d lbas lbaSize own gen width => Sys2Proof.Machine.execDriveInsert t d lbas lbaSize own gen width s
  | .driveRemove t d => Sys2Proof.Machine.execDriveRemove t d s
  | .rebuildComplete t d => Sys2Proof.Machine.execRebuildComplete t d s
  | .sbStatusRead t ms => Sys2Proof.Machine.execSbStatusRead t ms s
  | .sbDriveRead t d ms => Sys2Proof.Machine.execSbDriveRead t d ms s
  | .sbKeyRead t ms => Sys2Proof.Machine.execSbKeyRead t ms s
  | .faultRaise t i1 broken => Sys2Proof.Machine.execFaultRaise t i1 broken s
  | .faultActionComplete t => Sys2Proof.Machine.execFaultActionComplete t s
  | .quietPeriodEnd t c => Sys2Proof.Machine.execQuietPeriodEnd t c s
  | .faultRelease t => Sys2Proof.Machine.execFaultRelease t s
  | .faultClearRecovery t => Sys2Proof.Machine.execFaultClearRecovery t s
  | .faultInjectWrite t w => Sys2Proof.Machine.execFaultInjectWrite t w s
  | .faultQueueRead t ms => Sys2Proof.Machine.execFaultQueueRead t ms s
  | .faultSrcRead t j ms => Sys2Proof.Machine.execFaultSrcRead t j ms s
  | .wdogKick t k key m => Sys2Proof.Machine.execWdogKick t k key m s
  | .watchdogBite t k => Sys2Proof.Machine.execWatchdogBite t k s
  | .watchdogHaltExpire t k => Sys2Proof.Machine.execWatchdogHaltExpire t k s
  | .bootStart t wraps => Sys2Proof.Machine.execBootStart t wraps s
  | .bootSourceFail t unreadable => Sys2Proof.Machine.execBootSourceFail t unreadable s
  | .networkBootTimeout t => Sys2Proof.Machine.execNetworkBootTimeout t s
  | .otpProgramComplete t ok => Sys2Proof.Machine.execOtpProgramComplete t ok s
  | .peerAuth t twin peerKey endorsement peerNonce sig => Sys2Proof.Machine.execPeerAuth t twin peerKey endorsement peerNonce sig s
  | .secCalRead t ms => Sys2Proof.Machine.execSecCalRead t ms s
  | .extest t => Sys2Proof.Machine.execExtest t s
  | .samplePreload t => Sys2Proof.Machine.execSamplePreload t s
  | .idcode t => Sys2Proof.Machine.execIdcode t s
  | .bypass t => Sys2Proof.Machine.execBypass t s
  | .tapAuth t body => Sys2Proof.Machine.execTapAuth t body s
  | .debugSessionClose t => Sys2Proof.Machine.execDebugSessionClose t s
  | .dbgNop t => Sys2Proof.Machine.execDbgNop t s
  | .dbgHalt t k data => Sys2Proof.Machine.execDbgHalt t k data s
  | .dbgResume t k data => Sys2Proof.Machine.execDbgResume t k data s
  | .dbgStep t k => Sys2Proof.Machine.execDbgStep t k s
  | .dbgRead t k a => Sys2Proof.Machine.execDbgRead t k a s
  | .dbgWrite t k a w => Sys2Proof.Machine.execDbgWrite t k a w s
  | .dbgRegRead t k j => Sys2Proof.Machine.execDbgRegRead t k j s
  | .dbgRegWrite t k j w => Sys2Proof.Machine.execDbgRegWrite t k j w s
  | .compWrite t k a data => Sys2Proof.Machine.execCompWrite t k a data s
  | .groupWrite t k data => Sys2Proof.Machine.execGroupWrite t k data s
  | .dbgReservedOp t => Sys2Proof.Machine.execDbgReservedOp t s
  | .haltTaken t k => Sys2Proof.Machine.execHaltTaken t k s
  | .crossTrigger t => Sys2Proof.Machine.execCrossTrigger t s
  | .tapReset t => Sys2Proof.Machine.execTapReset t s
  | .powerRequest t v => Sys2Proof.Machine.execPowerRequest t v s
  | .parkSequence t frame => Sys2Proof.Machine.execParkSequence t frame s
  | .wake t id => Sys2Proof.Machine.execWake t id s
  | .pllLock t => Sys2Proof.Machine.execPllLock t s
  | .pllLoss t reference => Sys2Proof.Machine.execPllLoss t reference s
  | .powerUp t => Sys2Proof.Machine.execPowerUp t s
  | .porstAssert t => Sys2Proof.Machine.execPorstAssert t s
  | .railOutOfRange t lost => Sys2Proof.Machine.execRailOutOfRange t lost s
  | .resetRelease t balls twin fails ms => Sys2Proof.Machine.execResetRelease t balls twin fails ms s
  | .bistComplete t fails ms => Sys2Proof.Machine.execBistComplete t fails ms s
  | .sensorRead t rs => Sys2Proof.Machine.execSensorRead t rs s
  | .ageingMeasure t margins hourly => Sys2Proof.Machine.execAgeingMeasure t margins hourly s
  | .cprTempMaxRead t ms => Sys2Proof.Machine.execCprTempMaxRead t ms s
  | .fieldLineSampleEdge t ext lvl twin => Sys2Proof.Machine.execFieldLineSampleEdge t ext lvl twin s
  | .faultSourceNoFault t i1 => Sys2Proof.Machine.execFaultSourceNoFault t i1 s
  | .twinLinkUp t => Sys2Proof.Machine.execTwinLinkUp t s
  | .twinTimeTransfer t offset => Sys2Proof.Machine.execTwinTimeTransfer t offset s
  | .bootImageDelivered t image key => Sys2Proof.Machine.execBootImageDelivered t image key s
  | .userCalibrationWritten t => Sys2Proof.Machine.execUserCalibrationWritten t s

end Sys2Proof.Machine
end

