-- ==== Sys2Proof/Safety.lean ====
section
/-! DEFINITION. The terms the statements use: a safe state's step answers a next state; what a step may never lose; when a core
carries out the instruction it fetches; and what an instruction leaves as it was. -/

namespace Sys2Proof.Machine

/-- The step of a state answers a next state. -/
def Completes (s : State) : Prop := ∃ t, step s = .next t

/-- The command answers a next state of which P holds. -/
def Answers (r : Host.Outcome State Fault Refusal) (P : State → Prop) : Prop := ∃ u, r = .next u ∧ P u

/-- The invariant of the machine: scene memory is in its canonical form (addresses strictly rising, no byte listed that an unlisted
address reads as). -/
def State.Inv (s : State) : Prop := Memory.wf s.hub.mem = true

/-- Bits of the OTP that are programmed in `s` are programmed in `u`, the identity it was made with is the same (R422), and the
rollback count has not gone back. -/
def OtpKept (s u : State) : Prop :=
  u.sec.seed = s.sec.seed ∧ u.sec.factory = s.sec.factory
    ∧ (∀ i, bit s.sec.begun i = true → bit u.sec.begun i = true)
    ∧ (∀ i, bit s.sec.retired i = true → bit u.sec.retired i = true)
    ∧ (s.sec.lock = true → u.sec.lock = true) ∧ s.sec.rollback ≤ u.sec.rollback

/-- Every byte of scene memory reads as before. -/
def MemSame (s u : State) : Prop := ∀ a, u.memByte a = s.memByte a

/-- Scene memory at `off` holds the bytes, and every other byte of it reads as before. -/
def Wrote (s u : State) (off : Nat) (bs : List Byte) : Prop :=
  ∀ a, u.memByte a = if off ≤ a ∧ a < off + bs.length then bs.getD (a - off) 0#8 else s.memByte a

/-- Every word of scene memory that the bytes touch holds no error. -/
def State.Clean (s : State) (off len : Nat) : Prop := ∀ w, 8 * w < off + len → off < 8 * w + 8 → s.flips w = 0#72

/-- Every register word other than those of the list reads as before. -/
def RegsSame (s u : State) (except : List Nat) : Prop := ∀ a, a ∉ except → u.reg a = s.reg a

/-- Core k carries out, now, the instruction of opcode `op` and operand `v`: it issues, no instruction comparator stops it, and
neither its fetch, nor its encoding, nor its place in a delay slot (`load`: load class) raises a trap (R342, R348–R351, R449). -/
def State.Issues (s : State) (k op v : Nat) (load : Bool) : Prop :=
  s.canIssue k = true ∧ (s.pcMatch k = false ∨ s.atBoundary k = true ∧ (s.core k).resumed = true)
    ∧ s.encodingTrap k (some op) v load = none

/-- A core as its instruction begins: the PC names the next one. -/
def CoreS.next (c : CoreS) : CoreS := { c with pc := c.pc + 4#32, load := none, resumed := false }

/-- A core after what a load before brought, if anything, is written to its destination (R348). -/
def CoreS.landed (c : CoreS) (p : Option (LoadDest × Word)) : CoreS :=
  match p with
  | some p => c.land p
  | none => c

/-- The machine after what a load of core k before brought, if anything, is written to its destination (R348). -/
def State.afterLoad (s : State) (k : Nat) (p : Option (LoadDest × Word)) : State :=
  match p with
  | some p => s.modCore k (·.land p)
  | none => s

/-- Nothing but core k differs. -/
def OnlyCore (s u : State) (k : Nat) : Prop := (∀ j, j ≠ k → u.core j = s.core j) ∧ { u with cores := s.cores } = s

/-- From `s`, core k becomes `f` of the core as its instruction began, with the load before it landed, and nothing else changes. -/
def CoreDoes (s : State) (k : Nat) (r : Host.Outcome State Fault Refusal) (f : CoreS → CoreS) : Prop :=
  ∃ u, r = .next u ∧ u.core k = (f (s.core k).next).landed (s.core k).load ∧ OnlyCore s u k

/-- As CoreDoes for an instruction that reads M: where reading M of mode m and operand v answers the word w and the state s', core k
becomes `f w` of itself; the rest is as reading M left it (R345). -/
def OperandDoes (s : State) (k : Nat) (m : CMode) (v : Nat) (r : Host.Outcome State Fault Refusal) (f : Word → CoreS → CoreS) : Prop :=
  ∀ w s', (s.modCore k CoreS.next).operand k m v = (.ok w, s') →
    ∃ u, r = .next u ∧ u.core k = (f w (s'.core k)).landed (s.core k).load ∧ OnlyCore s' u k

/-- A core with register A and the flags C, V, Z and N given a value, a carry and an overflow (R339). -/
def CoreS.setResult (c : CoreS) (w : Word) (carry overflow : Bool) : CoreS :=
  (((c.setFlag 3 w.msb).setFlag 2 (w == 0#32)).setFlag 0 carry).setFlag 1 overflow

/-- A write of the register does more than store its word, or may refuse it. -/
def RegId.acts : RegId → Bool
  | .GS_CTRL | .GS_STAGE_PTR | .GS_STAGE_DATA | .ING_CTRL | .DER_CTRL | .DER_REEVAL | .BEAM_COMMIT | .BEAM_EVENT | .TX_CTRL | .TX_AUX_CTRL | .TX_TEST
  | .TANDEM_CTRL | .TANDEM_TAKE_REQ | .PEL_CTRL | .ODO_CTRL | .BLT_Q_BASE | .BLT_Q_CTRL | .BLT_Q_WR | .BELL_CUE_CMD | .BELL_XP_DATA
  | .BELL_SINK | .BELL_BUS_GAIN | .INTC_DOORBELL | .INTC_EOI | .INTC_FAST_EOI | .TMR_CTRL | .TMR_SNAP | .DMA_CTRL | .DMA_CH_CTRL
  | .SB_CTRL | .SB_READ_CTRL | .FAULT_CTRL | .FAULT_INJECT | .WDOG_KICK | .CPR_CTRL | .GS_APPLY_FRAME | .BEAM_COMMIT_FRAME | .ODO_SET
  | .TMR_COUNT | .TMR_COMPARE | .FL_OUT_SET | .FL_OUT_CLR | .FL_SHORT | .SB_FREEZE_START | .SB_FREEZE_END => true
  | _ => false

/-- What a write that reaches a field leaves in it, from what it held and the bits written (R11). -/
def FSpec.after (f : FSpec) (old new : Nat) : Nat :=
  match f.acc with
  | .rw => new
  | .w1c => old &&& (2 ^ (f.hi + 1 - f.lo) - 1 - new)
  | .w1s => old ||| new
  | _ => old

end Sys2Proof.Machine
end

