-- ==== Sys2Proof/Certificates/Slice0/Obligations.lean ====
section
/-! DEFINITION. The statements for the provers. Each says, of commands and of every state and operands that meet its hypotheses, that the command
answers a next state and what that state holds; `Answers`, `RegsSame`, `MemSame` and the other terms they share stand in Safety. -/

open Sys2Proof Sys2Proof.Machine

/-- One step: the command at the front of the queue takes its effect on the rest of the machine and leaves the queue; with none waiting the
block idles (the idling is the model's choice, log 2). -/
def Obligations.StepTakesFrontCommand : Prop :=
  ∀ (s : State) (c : Instr) (rest : List Instr), (s.pending = c :: rest → step s = exec c { s with pending := rest })
    ∧ (s.pending = [] → step s = .next s)

/-- After reset: no command waits, every core is held, every head is Off, the device is in Factory and Solo, the registers hold their tables'
reset values, the internal reset is held, and scene memory is in its canonical form. -/
def Obligations.ResetState : Prop :=
  State.reset.Inv ∧ State.reset.pending = [] ∧ State.reset.out = [] ∧ State.reset.clock.resetHeld = true ∧ State.reset.secState = 0
    ∧ State.reset.gsState = 0 ∧ State.reset.rd F.TANDEM_STATUS.state = 0 ∧ State.reset.pelState = 0 ∧ State.reset.power = 0
    ∧ (∀ h, h < 24 → State.reset.headState h = 0) ∧ (∀ k, k < 32 → State.reset.corePresent k = false)
    ∧ State.reset.reg R.HUB_CTRL = 0x100#32 ∧ (∀ h, h < 24 → State.reset.reg (R.HUB_HEAD_MARGIN h) = 0x7FFF_0000#32)
    ∧ (∀ k, k < 32 → State.reset.reg (R.INTC_FAST_ID k) = 0x3FF#32) ∧ (∀ b, b < 128 → State.reset.reg (R.BELL_BUS b) = 0xFFFF#32)
    ∧ State.reset.rd F.ODO_STATUS.time_state = 2
    ∧ ∀ i, i < 448 → State.reset.rd (F.FAULT_SRC.state i) = 0 ∧ State.reset.rd (F.FAULT_SRC.floor i) = (faultFloor i).getD 0

/-- Every step of every state answers a next state; it keeps scene memory in its canonical form, takes the front command off the queue and
leaves the rest, and loses no bit of the OTP that is programmed. -/
def Obligations.EveryStepKeepsInv : Prop :=
  ∀ s : State, s.Inv → ∃ u, step s = .next u ∧ u.Inv ∧ u.pending = s.pending.tail ∧ OtpKept s u

/-- Every command of the table, with any operands and in any state, completes: it answers a next state, in which the commands that wait are
those that waited before. -/
def Obligations.EveryCommandCompletes : Prop :=
  ∀ (c : Instr) (s : State), ∃ u, exec c s = .next u ∧ u.pending = s.pending

/-- R153: a component c8 widens to (c8 << 2) | (c8 >> 6), so that 0x00, 0xFF and 0x80 become 0, 1,023 and 514; an alpha a weighs a + (a >> 7),
from 0 to 256. -/
def Obligations.WidenedComponents : Prop :=
  (∀ c, c < 256 → widen8 c = (c <<< 2) ||| (c >>> 6)) ∧ widen8 0x00 = 0 ∧ widen8 0xFF = 1023 ∧ widen8 0x80 = 514
    ∧ (∀ w : Word, widen w.toNat = (widen8 (bits w.toNat 7 0), widen8 (bits w.toNat 15 8), widen8 (bits w.toNat 23 16)))
    ∧ ∀ a, a < 256 → weight a = a + (a >>> 7) ∧ weight a ≤ 256

/-- R369: the claim and the two end registers of core k act only for core k. Every other master reads 1023 from the claim register, and its
read does nothing; its write to either end register ends nothing, and is counted as an ignored write with reason encoding. -/
def Obligations.ClaimsOfAnotherCore : Prop :=
  ∀ (s : State) (t k id : Nat) (m : Master) (ms : List Master), k < 32 → m ≠ .core k →
    let ignored := fun (e : Host.Outcome State Fault Refusal) (a : Nat) => Answers e fun u =>
      u.rd (F.U_IGNORED_WRITES.count 0x4035_0000) = min (s.rd (F.U_IGNORED_WRITES.count 0x4035_0000) + 1) 0xFFFF
        ∧ u.rd (F.U_IGNORED_WRITES.last_reason 0x4035_0000) = 0
        ∧ u.rd (F.U_IGNORED_WRITES.last_offset 0x4035_0000) = (a - 0x4035_0000) / 4
        ∧ u.intc = s.intc ∧ (∀ i, i < 1024 → u.reg (R.INTC_SRC i) = s.reg (R.INTC_SRC i)) ∧ u.reg (R.INTC_FAST_ID k) = s.reg (R.INTC_FAST_ID k)
    ignored (exec (.intcEoiWrite t k id m) s) (R.INTC_EOI k)
    ∧ ignored (exec (.intcFastEoiWrite t k m) s) (R.INTC_FAST_EOI k)
    ∧ (Master.core k ∉ ms → Answers (exec (.intcClaimRead t k ms) s) fun u =>
      (∀ n ∈ ms, Output.rimRead n (R.INTC_CLAIM k) 1023#32 false ∈ u.out) ∧ { u with out := s.out } = s.at t)
    ∧ (Master.core k ∈ ms → m ∈ ms → Answers (exec (.intcClaimRead t k ms) s) fun u =>
      Output.rimRead m (R.INTC_CLAIM k) 1023#32 false ∈ u.out ∧ { u with out := s.out } = ((s.at t).claim k).2)

/-- ADD, ADDC, SUB, SUBC and CMP with every form of M: A becomes the sum or difference (CMP leaves it), C is the carry out, or 1 when no
borrow occurs, V the signed overflow, Z and N those of the result; everything else is as reading M left it. -/
def Obligations.CrankSumsAndDifferences : Prop :=
  ∀ (s : State) (t k v : Nat) (m : CMode),
    ((s.at t).Issues k (0x40 + modeCol m) v false → OperandDoes (s.at t) k m v (exec (.addA t k m v) s) fun w c =>
      let a := c.get .a
      (c.put .a (a + w)).setResult (a + w) (decide (2 ^ 32 ≤ a.toNat + w.toNat)) (decide ((a + w).toInt ≠ a.toInt + w.toInt)))
    ∧ ((s.at t).Issues k (0x48 + modeCol m) v false → OperandDoes (s.at t) k m v (exec (.addc t k m v) s) fun w c =>
      let a := c.get .a
      let i := b2n (c.flag 0)
      let r := a + w + BitVec.ofNat 32 i
      (c.put .a r).setResult r (decide (2 ^ 32 ≤ a.toNat + w.toNat + i)) (decide (r.toInt ≠ a.toInt + w.toInt + i)))
    ∧ ((s.at t).Issues k (0x50 + modeCol m) v false → OperandDoes (s.at t) k m v (exec (.subA t k m v) s) fun w c =>
      let a := c.get .a
      (c.put .a (a - w)).setResult (a - w) (decide (w.toNat ≤ a.toNat)) (decide ((a - w).toInt ≠ a.toInt - w.toInt)))
    ∧ ((s.at t).Issues k (0x58 + modeCol m) v false → OperandDoes (s.at t) k m v (exec (.subc t k m v) s) fun w c =>
      let a := c.get .a
      let i := b2n (!c.flag 0)
      let r := a - w - BitVec.ofNat 32 i
      (c.put .a r).setResult r (decide (w.toNat + i ≤ a.toNat)) (decide (r.toInt ≠ a.toInt - w.toInt - i)))
    ∧ ((s.at t).Issues k (0x78 + modeCol m) v false → OperandDoes (s.at t) k m v (exec (.cmp t k m v) s) fun w c =>
      let a := c.get .a
      c.setResult (a - w) (decide (w.toNat ≤ a.toNat)) (decide ((a - w).toInt ≠ a.toInt - w.toInt)))

/-- AND, OR and XOR with every form of M, TEST, NOT, NEG, INC, DEC, MOV, LDU, ADD and CMP of X, Y and SP with an immediate: the register
named takes the value, Z and N are those of it where the entry writes them, and nothing else changes. -/
def Obligations.CrankLogicAndMoves : Prop :=
  ∀ (s : State) (t k v : Nat) (m : CMode) (r : CReg) (f : MovForm),
    ((s.at t).Issues k (0x60 + modeCol m) v false → OperandDoes (s.at t) k m v (exec (.andA t k m v) s) fun w c =>
      (c.put .a (c.get .a &&& w)).setNZ (c.get .a &&& w))
    ∧ ((s.at t).Issues k (0x68 + modeCol m) v false → OperandDoes (s.at t) k m v (exec (.orA t k m v) s) fun w c =>
      (c.put .a (c.get .a ||| w)).setNZ (c.get .a ||| w))
    ∧ ((s.at t).Issues k (0x70 + modeCol m) v false → OperandDoes (s.at t) k m v (exec (.xorA t k m v) s) fun w c =>
      (c.put .a (c.get .a ^^^ w)).setNZ (c.get .a ^^^ w))
    ∧ ((s.at t).Issues k 0xE4 v false → CoreDoes (s.at t) k (exec (.testA t k v) s) fun c => c.setNZ (c.get .a &&& sext24 v))
    ∧ ((s.at t).Issues k 0xAF 0 false → CoreDoes (s.at t) k (exec (.notA t k) s) fun c => (c.put .a (~~~c.get .a)).setNZ (~~~c.get .a))
    ∧ ((s.at t).Issues k 0xAE 0 false → CoreDoes (s.at t) k (exec (.neg t k) s) fun c =>
      let n := 0#32 - c.get .a
      (c.put .a n).setResult n (decide (c.get .a = 0#32)) (decide (n.toInt ≠ -(c.get .a).toInt)))
    ∧ (r ∈ [.a, .x, .y] → (s.at t).Issues k (0xA0 + incCol r) 0 false → CoreDoes (s.at t) k (exec (.inc t k r) s) fun c =>
      (c.put r (c.get r + 1#32)).setNZ (c.get r + 1#32))
    ∧ (r ∈ [.a, .x, .y] → (s.at t).Issues k (0xA1 + incCol r) 0 false → CoreDoes (s.at t) k (exec (.dec t k r) s) fun c =>
      (c.put r (c.get r - 1#32)).setNZ (c.get r - 1#32))
    ∧ ((s.at t).Issues k (0xA0 + movCol f) 0 false → CoreDoes (s.at t) k (exec (.mov t k f) s) fun c =>
      let w := c.get (movRegs f).2
      if f = .spx then c.put .sp w else (c.put (movRegs f).1 w).setNZ w)
    ∧ (r ∈ [.a, .x, .y] → (s.at t).Issues k (ldBase r + 6) v false → CoreDoes (s.at t) k (exec (.ldu t k r v) s) fun c =>
      c.put r (BitVec.ofNat 32 (v % 2 ^ 16 * 2 ^ 16 + (c.get r).toNat % 2 ^ 16)))
    ∧ (r ∈ [.x, .y] → (s.at t).Issues k (if r = .y then 0xBC else 0xBB) v false → CoreDoes (s.at t) k (exec (.cmpX t k r v) s) fun c =>
      let a := c.get r
      let w := sext24 v
      c.setResult (a - w) (decide (w.toNat ≤ a.toNat)) (decide ((a - w).toInt ≠ a.toInt - w.toInt)))
    ∧ (r ∈ [.x, .y, .sp] → (s.at t).Issues k (if r = .sp then 0xBF else if r = .y then 0xBE else 0xBD) v false →
      CoreDoes (s.at t) k (exec (.addX t k r v) s) fun c => c.put r (c.get r + sext24 v))

/-- SHL, SHR, SAR and ROR by an immediate or by X, and the products: A becomes the shifted value or the part of the product, Z and N are
those of it, C is the last bit shifted out (kept for a count of 0; bit 31 of the result for ROR), and nothing else changes. -/
def Obligations.CrankShiftsAndProducts : Prop :=
  ∀ (s : State) (t k v : Nat) (byX : Bool),
    ((s.at t).Issues k (if byX then 0xB4 else 0xB0) v false → CoreDoes (s.at t) k (exec (.shl t k byX v) s) fun c =>
      let a := c.get .a
      let n := if byX then (c.get .x).toNat % 32 else v % 32
      let r := BitVec.ofNat 32 (a.toNat * 2 ^ n)
      ((c.put .a r).setNZ r).setFlag 0 (if n = 0 then c.flag 0 else a.toNat.testBit (32 - n)))
    ∧ ((s.at t).Issues k (if byX then 0xB5 else 0xB1) v false → CoreDoes (s.at t) k (exec (.shr t k byX v) s) fun c =>
      let a := c.get .a
      let n := if byX then (c.get .x).toNat % 32 else v % 32
      let r := BitVec.ofNat 32 (a.toNat / 2 ^ n)
      ((c.put .a r).setNZ r).setFlag 0 (if n = 0 then c.flag 0 else a.toNat.testBit (n - 1)))
    ∧ ((s.at t).Issues k (if byX then 0xB6 else 0xB2) v false → CoreDoes (s.at t) k (exec (.sar t k byX v) s) fun c =>
      let a := c.get .a
      let n := if byX then (c.get .x).toNat % 32 else v % 32
      let r := BitVec.ofInt 32 (a.toInt / 2 ^ n)
      ((c.put .a r).setNZ r).setFlag 0 (if n = 0 then c.flag 0 else a.toNat.testBit (n - 1)))
    ∧ ((s.at t).Issues k (if byX then 0xB7 else 0xB3) v false → CoreDoes (s.at t) k (exec (.ror t k byX v) s) fun c =>
      let a := c.get .a
      let n := if byX then (c.get .x).toNat % 32 else v % 32
      let r := BitVec.ofNat 32 (a.toNat / 2 ^ n + a.toNat % 2 ^ n * 2 ^ (32 - n))
      ((c.put .a r).setNZ r).setFlag 0 r.msb)
    ∧ ((s.at t).Issues k 0xB8 0 false → CoreDoes (s.at t) k (exec (.mul t k) s) fun c =>
      let r := BitVec.ofNat 32 ((c.get .a).toNat * (c.get .x).toNat)
      (c.put .a r).setNZ r)
    ∧ ((s.at t).Issues k 0xB9 0 false → CoreDoes (s.at t) k (exec (.mulhu t k) s) fun c =>
      let r := BitVec.ofNat 32 ((c.get .a).toNat * (c.get .x).toNat / 2 ^ 32)
      (c.put .a r).setNZ r)
    ∧ ((s.at t).Issues k 0xBA 0 false → CoreDoes (s.at t) k (exec (.mulhs t k) s) fun c =>
      let r := BitVec.ofInt 32 ((c.get .a).toInt * (c.get .x).toInt / 2 ^ 32)
      (c.put .a r).setNZ r)

/-- The flag instructions, the branches, the jumps, WAIT, NOP and the moves to and from the other bank: the flag, PC, mode or register named
takes its value, and nothing else changes. -/
def Obligations.CrankFlagsAndControl : Prop :=
  ∀ (s : State) (t k v : Nat) (byX : Bool) (q : Cond),
    ((s.at t).Issues k 0x00 0 false → CoreDoes (s.at t) k (exec (.nop t k) s) id)
    ∧ ((s.at t).Issues k 0x01 0 false → CoreDoes (s.at t) k (exec (.wait t k) s) fun c => { c with mode := .wait })
    ∧ ((s.at t).Issues k 0x04 0 false → CoreDoes (s.at t) k (exec (.disN t k) s) (·.setFlag 4 true))
    ∧ ((s.at t).Issues k 0x05 0 false → CoreDoes (s.at t) k (exec (.enN t k) s) (·.setFlag 4 false))
    ∧ ((s.at t).Issues k 0x06 0 false → CoreDoes (s.at t) k (exec (.disF t k) s) (·.setFlag 5 true))
    ∧ ((s.at t).Issues k 0x07 0 false → CoreDoes (s.at t) k (exec (.enF t k) s) (·.setFlag 5 false))
    ∧ ((s.at t).Issues k 0x08 0 false → CoreDoes (s.at t) k (exec (.clrC t k) s) (·.setFlag 0 false))
    ∧ ((s.at t).Issues k 0x09 0 false → CoreDoes (s.at t) k (exec (.setC t k) s) (·.setFlag 0 true))
    ∧ ((s.at t).Issues k (0xC0 + condCol q) v false → CoreDoes (s.at t) k (exec (.br t k q v) s) fun c =>
      if c.holds q then { c with pc := c.pc + BitVec.ofInt 32 (4 * signed 24 v) } else c)
    ∧ ((s.at t).Issues k 0xCF v false → CoreDoes (s.at t) k (exec (.loopX t k v) s) fun c =>
      let x := c.get .x - 1#32
      let c := c.put .x x
      if x = 0#32 then c else { c with pc := c.pc + BitVec.ofInt 32 (4 * signed 24 v) })
    ∧ ((s.at t).Issues k (if byX then 0xD2 else 0xD0) v false → CoreDoes (s.at t) k (exec (.jmp t k byX v) s) fun c =>
      { c with pc := BitVec.ofNat 32 ((if byX then (c.get .x).toNat else v % 2 ^ 16) / 4 * 4) })
    ∧ ((s.at t).Issues k 0xE5 v false → CoreDoes (s.at t) k (exec (.wralt t k v) s) fun c => c.putAlt (altReg v) (c.get .a))
    ∧ ((s.at t).Issues k 0xE6 v false → CoreDoes (s.at t) k (exec (.rdalt t k v) s) fun c => c.put .a (c.getAlt (altReg v)))

/-- The functions of the present coprocessor slots: division, multiply-accumulate over 64 bits, counts, bit fields, byte reversal, and the
moves between A and the slot registers; every other register of the core and everything else is unchanged. CPWR and CPRD on a slot register that the table lists, SNAP, and the start and the end of a WAITUNTIL. A write to a register that
only reads is discarded; past an UNTIL that is not in the future WAITUNTIL goes on at once, otherwise the core waits at it. -/
def Obligations.CrankCoprocessorSlots : Prop :=
  (∀ (s : State) (t k v : Nat),
    let acc : CopRegs → Nat := fun p => p.accLo.toNat + 2 ^ 32 * p.accHi.toNat
    let put : CopRegs → Int → CopRegs := fun p n => { p with accLo := BitVec.ofInt 32 n, accHi := BitVec.ofInt 32 (n / 2 ^ 32) }
    let slot := fun i => bit ((s.at t).core k).slots i = true
    (slot 0 → (s.at t).Issues k 0xF0 (copOperand 0 v) false → CoreDoes (s.at t) k (exec (.divu t k v) s) fun c =>
      let p := c.cop
      { c with cop := if p.den = 0#32 then { p with quo := 0xFFFFFFFF#32, rem := p.num }
        else { p with quo := BitVec.ofNat 32 (p.num.toNat / p.den.toNat), rem := BitVec.ofNat 32 (p.num.toNat % p.den.toNat) } })
    ∧ (slot 0 → (s.at t).Issues k 0xF0 (copOperand 1 v) false → CoreDoes (s.at t) k (exec (.divs t k v) s) fun c =>
      let p := c.cop
      { c with cop := if p.den = 0#32 then { p with quo := 0xFFFFFFFF#32, rem := p.num }
        else { p with quo := BitVec.ofInt 32 (p.num.toInt.tdiv p.den.toInt), rem := BitVec.ofInt 32 (p.num.toInt.tmod p.den.toInt) } })
    ∧ (slot 1 → (s.at t).Issues k 0xF3 (copOperand 0 v) false → CoreDoes (s.at t) k (exec (.macs t k v) s) fun c =>
      { c with cop := put c.cop ((acc c.cop : Int) + c.cop.m1.toInt * c.cop.m2.toInt) })
    ∧ (slot 1 → (s.at t).Issues k 0xF3 (copOperand 1 v) false → CoreDoes (s.at t) k (exec (.macu t k v) s) fun c =>
      { c with cop := put c.cop ((acc c.cop + c.cop.m1.toNat * c.cop.m2.toNat : Nat) : Int) })
    ∧ (slot 1 → (s.at t).Issues k 0xF3 (copOperand 2 v) false → CoreDoes (s.at t) k (exec (.msus t k v) s) fun c =>
      { c with cop := put c.cop ((acc c.cop : Int) - c.cop.m1.toInt * c.cop.m2.toInt) })
    ∧ (slot 1 → (s.at t).Issues k 0xF3 (copOperand 3 v) false → CoreDoes (s.at t) k (exec (.clr t k v) s) fun c =>
      { c with cop := { c.cop with accLo := 0#32, accHi := 0#32 } })
    ∧ (slot 2 → (s.at t).Issues k 0xF6 (copOperand 0 v) false → CoreDoes (s.at t) k (exec (.clz t k v) s) fun c =>
      { c with cop := { c.cop with dst := BitVec.ofNat 32 (leadingZeros c.cop.src) } })
    ∧ (slot 2 → (s.at t).Issues k 0xF6 (copOperand 1 v) false → CoreDoes (s.at t) k (exec (.popc t k v) s) fun c =>
      { c with cop := { c.cop with dst := BitVec.ofNat 32 (((List.range 32).filter (c.cop.src.toNat.testBit ·)).length) } })
    ∧ (slot 2 → fieldFits v = true → (s.at t).Issues k 0xF6 (copOperand 2 v) false → CoreDoes (s.at t) k (exec (.extu t k v) s) fun c =>
      { c with cop := { c.cop with dst := BitVec.ofNat 32 (c.cop.src.toNat / 2 ^ fieldLsb v % 2 ^ fieldWidth v) } })
    ∧ (slot 2 → fieldFits v = true → (s.at t).Issues k 0xF6 (copOperand 3 v) false → CoreDoes (s.at t) k (exec (.exts t k v) s) fun c =>
      { c with cop := { c.cop with dst := BitVec.ofInt 32 (signed (fieldWidth v) (c.cop.src.toNat / 2 ^ fieldLsb v)) } })
    ∧ (slot 2 → fieldFits v = true → (s.at t).Issues k 0xF6 (copOperand 4 v) false → CoreDoes (s.at t) k (exec (.ins t k v) s) fun c =>
      { c with cop := { c.cop with dst := setBits c.cop.dst (fieldLsb v + fieldWidth v - 1) (fieldLsb v) c.cop.src.toNat } })
    ∧ (slot 2 → (s.at t).Issues k 0xF6 (copOperand 5 v) false → CoreDoes (s.at t) k (exec (.rev t k v) s) fun c =>
      let n := c.cop.src.toNat
      { c with cop := { c.cop with dst := BitVec.ofNat 32 (n % 256 * 2 ^ 24 + n / 2 ^ 8 % 256 * 2 ^ 16 + n / 2 ^ 16 % 256 * 2 ^ 8 + n / 2 ^ 24) } }))
  ∧ (∀ (s : State) (t k v i : Nat),
    let slot := fun i => bit ((s.at t).core k).slots i = true
    let listed := (({} : CopRegs).read (i % 4) v).isSome = true
    (slot (i % 4) → listed → (s.at t).Issues k (0xF1 + 3 * (i % 4)) v false → CoreDoes (s.at t) k (exec (.cpwr t k i v) s) fun c =>
      { c with cop := c.cop.write (i % 4) v (c.get .a) })
    ∧ (slot (i % 4) → listed → (s.at t).Issues k (0xF2 + 3 * (i % 4)) v false → CoreDoes (s.at t) k (exec (.cprd t k i v) s) fun c =>
      c.put .a ((c.cop.read (i % 4) v).getD 0#32))
    ∧ (slot 3 → (s.at t).Issues k 0xF9 (copOperand 0 v) false → CoreDoes (s.at t) k (exec (.snap t k v) s) fun c =>
      let n := max s.now t / 6 * 6
      let b := (s.at t).snapBeam k
      { c with cop := { c.cop with rootLo := BitVec.ofNat 32 n, rootHi := BitVec.ofNat 32 (n / 2 ^ 32), beam := b.1,
                                   frameLo := BitVec.ofNat 32 b.2, frameHi := BitVec.ofNat 32 (b.2 / 2 ^ 32) } })
    ∧ (slot 3 → (s.at t).Issues k 0xF9 (copOperand 1 v) false → CoreDoes (s.at t) k (exec (.waituntil t k v) s) fun c =>
      if c.cop.until64 ≤ max s.now t / 6 * 6 then c else { c with mode := .waitUntil, pc := c.pc - 4#32 })
    ∧ (k < 32 → (s.core k).mode = .waitUntil → (s.at t).coreStopped k = false → (s.at t).boundaryTaken k = false →
      (s.core k).cop.until64 ≤ max s.now t / 6 * 6 →
      ∃ u, exec (.waituntilExpire t k) s = .next u ∧ u.core k = { s.core k with mode := .run, pc := (s.core k).pc + 4#32 }
        ∧ OnlyCore (s.at t) u k))

/-- The loads, the stores, PUSH, POP, CALL and RET, where the access they make succeeds: a load's register is written after the delay slot
(an immediate at once), a store's bytes are those the access stores, SP moves by 4 with the push or the pop, CALL and RET move the PC;
beside the access, with its own effect, only the core changes. LL and SC on an aligned word that they allow: LL brings the word to A after the delay slot and sets the link; SC stores A only where
the link names the word, sets C to whether it stored, and clears the link. -/
def Obligations.CrankMemoryAndLinks : Prop :=
  (∀ (s : State) (t k v : Nat) (m : CMode) (r : CReg) (byX : Bool),
    let b := (s.at t).modCore k CoreS.next
    let c := b.core k
    let old := (s.core k).load
    let ends := fun (e : Host.Outcome State Fault Refusal) (s' : State) (f : CoreS → CoreS) =>
      ∃ u, e = .next u ∧ u.core k = (f (s'.core k)).landed old ∧ OnlyCore s' u k
    (r ∈ [.a, .x, .y] → (s.at t).Issues k (ldBase r) v false → CoreDoes (s.at t) k (exec (.ld t k r .imm v) s) (·.put r (sext24 v)))
    ∧ (r ∈ [.a, .x, .y] → m ≠ .imm → (s.at t).Issues k (ldBase r + modeCol m) v true → ∀ w s', b.loadSeen k (c.ea m v) 4 = (.ok w, s') →
      ends (exec (.ld t k r m v) s) s' fun c => { c with load := some (c.dest r, w) })
    ∧ (m ≠ .imm → (s.at t).Issues k (0x80 + modeCol m) v true → ∀ w s', b.loadSeen k (c.ea m v) 1 = (.ok w, s') →
      ends (exec (.ldB t k m v) s) s' fun c => { c with load := some (c.dest .a, w) })
    ∧ (m ≠ .imm → (s.at t).Issues k (0x88 + modeCol m) v true → ∀ w s', b.loadSeen k (c.ea m v) 2 = (.ok w, s') →
      ends (exec (.ldH t k m v) s) s' fun c => { c with load := some (c.dest .a, w) })
    ∧ (r ∈ [.a, .x, .y] → m ≠ .imm → (s.at t).Issues k (stBase r + modeCol m) v false →
      ∀ s', b.storeSeen k (c.ea m v) 4 (c.get r) = (s', none) → ends (exec (.st t k r m v) s) s' id)
    ∧ (m ≠ .imm → (s.at t).Issues k (0x90 + modeCol m) v false →
      ∀ s', b.storeSeen k (c.ea m v) 1 (c.get .a) = (s', none) → ends (exec (.stB t k m v) s) s' id)
    ∧ (m ≠ .imm → (s.at t).Issues k (0x98 + modeCol m) v false →
      ∀ s', b.storeSeen k (c.ea m v) 2 (c.get .a) = (s', none) → ends (exec (.stH t k m v) s) s' id)
    ∧ (r ∈ [.a, .x, .y, .ps] → (s.at t).Issues k (pushOp r) 0 false →
      ∀ s', b.storeSeen k (c.sp - 4#32).toNat 4 (c.get r) = (s', none) →
      ends (exec (.push t k r) s) s' fun x => { x with sp := c.sp - 4#32 })
    ∧ (r ∈ [.a, .x, .y, .ps] → (s.at t).Issues k (pushOp r + 1) 0 true → ∀ w s', b.loadSeen k c.sp.toNat 4 = (.ok w, s') →
      ends (exec (.pop t k r) s) s' fun x => { x with load := some (x.dest r, w), sp := x.sp + 4#32 })
    ∧ ((s.at t).Issues k (if byX then 0xD3 else 0xD1) v false → ∀ s', b.storeSeen k (c.sp - 4#32).toNat 4 c.pc = (s', none) →
      ends (exec (.call t k byX v) s) s' fun x => { x with sp := c.sp - 4#32, pc := x.target byX v })
    ∧ ((s.at t).Issues k 0xD4 0 false → ∀ w s', b.loadAt k c.sp.toNat 4 = (.ok w, s') →
      ends (exec (.ret t k) s) s' fun x => { x with pc := w &&& ~~~3#32, sp := x.sp + 4#32 }))
  ∧ (∀ (s : State) (t k v : Nat) (y : Bool),
    let b := (s.at t).modCore k CoreS.next
    let c := b.core k
    let ea := c.linkEa y v
    ea % 4 = 0 → linkTarget ea = true →
    ((s.at t).Issues k (if y then 0xE1 else 0xE0) v true → ∀ w s', b.loadSeen k ea 4 = (.ok w, s') →
      ∃ u, exec (.ll t k y v) s = .next u ∧ u.link k = some ea
        ∧ u.core k = ({ s'.core k with load := some ((s'.core k).dest .a, w) } : CoreS).landed (s.core k).load)
    ∧ ((s.at t).Issues k (if y then 0xE3 else 0xE2) v false → coreSpace ea = .data →
      ∃ u, exec (.sc t k y v) s = .next u ∧ u.link k = none ∧
        (s.link k = some ea → u.localRead k ea 4 = natLe 4 (c.get .a).toNat) ∧
        (s.link k ≠ some ea → (u.core k).data = (s.core k).data) ∧
        ((s.core k).load = none → (u.core k).flag 0 = decide (s.link k = some ea)))
    ∧ ((s.at t).Issues k (if y then 0xE3 else 0xE2) v false → ∀ off, coreSpace ea = .scene off → ((s.at t).drainAll k).link k ≠ some ea →
      ∃ u, exec (.sc t k y v) s = .next u ∧ u.link k = none ∧ (∀ a, u.memByte a = (b.drainAll k).memByte a)
        ∧ ((s.core k).load = none → (u.core k).flag 0 = false)))

/-- TRAP, IRET, UNLINK, FENCE and DBGBRK. TRAP pushes the address of the next instruction and the PS, sets I, records SOFTWARE with its
code and goes to the trap vector; DBGBRK does so as BREAK where no debug session is open and asks for a halt where one is; IRET ends the
fast handler, or takes the PS and the PC off the stack; UNLINK clears the link; FENCE drains the core's stores. -/
def Obligations.CrankSystem : Prop :=
  ∀ (s : State) (t k code : Nat),
    let b := (s.at t).modCore k CoreS.next
    let c := b.core k
    let old := (s.core k).load
    let traps := fun (e : Host.Outcome State Fault Refusal) (cause detail : Nat) =>
      ∀ s', ((b.afterLoad k old).entryStart k).stackEntry k (c.landed old).pc = (s', true) →
        ∃ u, e = .next u ∧ OnlyCore s' u k ∧ u.core k = { s'.core k with
          fb := false, ps := (s'.core k).ps ||| 0x10#32, pc := (s'.core k).vecTrap, cause := cause, detail := detail }
    ((s.at t).Issues k 0x02 code false → traps (exec (.trap t k code) s) 4 (code % 256))
    ∧ ((s.at t).Issues k 0x03 0 false → (s.core k).fb = true →
      CoreDoes (s.at t) k (exec (.iret t k) s) fun c => { c with pc := c.fret, fb := false })
    ∧ ((s.at t).Issues k 0x03 0 false → (s.core k).fb = false → ∀ ps pc s1 s2, b.loadAt k c.sp.toNat 4 = (.ok ps, s1) →
      s1.loadAt k (c.sp + 4#32).toNat 4 = (.ok pc, s2) →
      ∃ u, exec (.iret t k) s = .next u ∧ OnlyCore s2 u k ∧ u.core k =
        (let c := { s2.core k with pc := pc &&& ~~~3#32, sp := (s2.core k).sp + 8#32 }
         if ps.toNat.testBit 6 then { c with fb := true, psf := ps &&& 0x3F#32 } else { c with ps := ps &&& 0x3F#32 }).landed old)
    ∧ ((s.at t).Issues k 0x0A 0 false → ∃ u, exec (.unlink t k) s = .next u ∧ u.link k = none ∧ (∀ j, j ≠ k → u.link j = s.link j)
      ∧ u.core k = c.landed old ∧ OnlyCore { s.at t with links := u.links } u k)
    ∧ ((s.at t).Issues k 0x0B 0 false → ∃ u, exec (.fence t k) s = .next u ∧ (u.core k).queue = []
      ∧ u.core k = ((b.drainAll k).core k).landed old ∧ OnlyCore (b.drainAll k) u k)
    ∧ ((s.at t).Issues k 0x0C 0 false → s.debugOpen = false → traps (exec (.dbgbrk t k) s) 5 0)
    ∧ ((s.at t).Issues k 0x0C 0 false → s.debugOpen = true → s.haltReq k = none →
      ∃ u, exec (.dbgbrk t k) s = .next u ∧ u.haltReq k = some { reason := 5, groups := bits (s.comp k 0).control 5 2 }
        ∧ u.core k = c.landed old ∧ OnlyCore { s.at t with dbg := u.dbg } u k)

/-- The entries. A stack in the core's own data memory takes the PS at SP − 8 and the return address above it, and no other byte of it
changes; a fast entry saves the PC and the PS in FRET and PSF, switches bank and claims its source; a normal entry pushes; an illegal
opcode is the trap ILLEGAL with the instruction's own address. Where an instruction traps instead: a misaligned load or store is BUS_ERROR with the effective address, a use of an absent coprocessor
slot is COP_ABSENT, an unused operand bit or a load in a delay slot is ILLEGAL; each saves the instruction's own address, and neither the
access nor the function happens. -/
def Obligations.CrankEntriesAndTraps : Prop :=
  (∀ (s : State) (t k i : Nat) (ret w : Word),
    let sp := (s.core k).sp - 8#32
    (sp.toNat % 4 = 0 → 0x1_0000 ≤ sp.toNat → sp.toNat + 8 ≤ 0x2_0000 →
      ∃ u, s.stackEntry k ret = (u, true) ∧ (u.core k).sp = sp ∧ u.localRead k sp.toNat 4 = natLe 4 (s.core k).psWord.toNat
        ∧ u.localRead k (sp.toNat + 4) 4 = natLe 4 ret.toNat
        ∧ ∀ a, 0x1_0000 ≤ a → a < sp.toNat ∨ sp.toNat + 8 ≤ a → u.localRead k a 1 = s.localRead k a 1)
    ∧ ((s.at t).mayEnter k = true → (s.at t).fastTakeable k = some i →
      ∃ u, exec (.fastInterruptEntry t k) s = .next u ∧ u.link k = none
        ∧ u.core k = { s.core k with mode := .run, resumed := false, fret := (s.core k).pc, fb := true, pc := (s.core k).vecFast,
                                     psf := ((s.core k).ps &&& 0x3F#32) ||| 0x30#32 }
        ∧ OnlyCore (((s.at t).entryStart k).fastClaim k i) u k)
    ∧ ((s.at t).mayEnter k = true → (s.at t).fastTakeable k = none → (s.at t).normalTakeable k = true →
      ∀ s', ((s.at t).entryStart k).stackEntry k (s.core k).pc = (s', true) →
      ∃ u, exec (.normalInterruptEntry t k) s = .next u ∧ OnlyCore s' u k ∧ u.core k = { s'.core k with
        fb := false, ps := (s'.core k).ps ||| 0x10#32, pc := (s'.core k).vecNormal })
    ∧ ((s.at t).canIssue k = true → (s.at t).pcMatch k = false → fetchTrap k (s.core k).pc = none → illegalWord w = true →
      decodeCrank k w = none →
      ∀ s', ((((s.at t).modCore k CoreS.next).afterLoad k (s.core k).load).entryStart k).stackEntry k (s.core k).pc = (s', true) →
      ∃ u, exec (.illegalInstruction t k w) s = .next u ∧ OnlyCore s' u k ∧ u.core k = { s'.core k with
        fb := false, ps := (s'.core k).ps ||| 0x10#32, pc := (s'.core k).vecTrap, cause := 1, detail := 0 }))
  ∧ (∀ (s : State) (t k v op : Nat) (m : CMode) (r : CReg) (load : Bool) (body : Body),
    let b := (s.at t).modCore k CoreS.next
    let ea := (b.core k).ea m v
    let traps := fun (b : State) (e : Host.Outcome State Fault Refusal) (cause detail : Nat) (addr : Option Word) =>
      ∀ s', ((b.afterLoad k (s.core k).load).entryStart k).stackEntry k (s.core k).pc = (s', true) →
        ∃ u, e = .next u ∧ OnlyCore s' u k ∧ u.core k = { s'.core k with
          fb := false, ps := (s'.core k).ps ||| 0x10#32, pc := (s'.core k).vecTrap, cause := cause, detail := detail,
          trapAddr := addr.getD (s'.core k).trapAddr }
    (r ∈ [.a, .x, .y] → m ≠ .imm → (s.at t).Issues k (ldBase r + modeCol m) v true → ea % 4 ≠ 0 →
      traps b (exec (.ld t k r m v) s) 3 2 (some (BitVec.ofNat 32 ea)))
    ∧ (r ∈ [.a, .x, .y] → m ≠ .imm → (s.at t).Issues k (stBase r + modeCol m) v false → ea % 4 ≠ 0 →
      traps (if coreSpace ea = .rim then b.rimWrite (.core k) ea ((b.core k).get r) 4 else b) (exec (.st t k r m v) s) 3 2 (some (BitVec.ofNat 32 ea)))
    ∧ ((s.at t).Issues k 0xF0 (copOperand 0 v) false → (s.core k).slots.testBit 0 = false → traps b (exec (.divu t k v) s) 2 0 none)
    ∧ ((s.at t).canIssue k = true → (s.at t).pcMatch k = false → fetchTrap k (s.core k).pc = none →
      (v &&& unusedMask op ≠ 0 ∨ load = true ∧ (s.core k).load ≠ none) → traps b (crank t k op v load body s) 1 0 none))

/-- The TAP: which instruction each event selects; IDCODE's word; a signature that is accepted opens the session for its slot; TRST_B and
600 s without an operation close it, clear comparators, requests and triggers, and let every halted core go on. Run control: the halts, their requests, cross-triggers and the operations that halt, step and resume a core. Every operation leaves its
status and result for the next Capture-DR. -/
def Obligations.DebugTapAndRunControl : Prop :=
  (∀ (s : State) (t : Nat) (body : List Byte),
    let ir := fun (code : Nat) => ({ s.at t with dbg.ir := code } : State)
    let closed := fun (u : State) => u.debugOpen = false ∧ u.dbg.comps = [] ∧ u.dbg.haltReq = [] ∧ u.dbg.triggers = []
      ∧ (∀ k, k < 32 → u.coreHalted k = false) ∧ MemSame s u
    Answers (exec (.extest t) s) (· = ir (if s.secState = 0 then 0x00 else 0xFF))
    ∧ Answers (exec (.samplePreload t) s) (· = ir 0x01)
    ∧ Answers (exec (.idcode t) s) (· = (ir 0x02).emit (.debug 0 0x0962_4A6B))
    ∧ Answers (exec (.bypass t) s) (· = ir 0xFF)
    ∧ (s.debugOpen = true → Answers (exec (.tapReset t) s) fun u => u.dbg.ir = 0x02 ∧ closed u)
    ∧ Answers (exec (.tapAuth t body) s) (fun u => u.dbg.ir = 0x10 ∧ u.freeCtr = s.freeCtr + 1 ∧ u.cores = s.cores ∧ MemSame s u
      ∧ if s.debugAccepts ((List.range 32).map (Config.freeByte s.freeCtr)) body = true
        then u.debugOpen = true ∧ u.rd F.DBG_SESSION.slot = leAt body 0 1 ∧ u.dbg.lastOp = u.now ∧ RegsSame s u [R.DBG_SESSION]
        else u.debugOpen = s.debugOpen ∧ u.rd (F.FAULT_SRC.state 387) ≠ 0)
    ∧ (s.debugOpen = true → usRoot 600_000_000 + s.dbg.lastOp ≤ max s.now t → Answers (exec (.debugSessionClose t) s) closed))
  ∧ (∀ (s : State) (t k data : Nat) (r : HaltReq),
    let ends := fun (u : State) (status result : Nat) => u.dbg.status = status ∧ u.dbg.result = result ∧ u.dbg.lastOp = u.now
    (s.haltReq k = some r → k < 32 → (s.core k).load = none → s.coreHalted k = false →
      Answers (exec (.haltTaken t k) s) fun u => u.coreHalted k = true ∧ u.rd (F.DBG_CORE.reason k) = r.reason % 8
        ∧ u.rd (F.DBG_CORE.comparator k) = r.comparator % 8 ∧ u.haltReq k = none ∧ u.link k = none
        ∧ (∀ p ∈ u.vtk.sessions, p.2.challenge = none) ∧ u.cores = s.cores
        ∧ u.dbg.triggers = s.dbg.triggers ++ (if r.groups = 0 then [] else [(max s.now t / 6 * 6 + 36, r.groups)]))
    ∧ (k < 32 → s.coreHalted k = false → (∃ p ∈ s.dbg.triggers, p.1 ≤ max s.now t ∧ s.rd (F.DBG_CORE.groups k) &&& p.2 ≠ 0) →
      Answers (exec (.crossTrigger t) s) fun u => (u.haltReq k).isSome = true ∧ u.cores = s.cores
        ∧ u.dbg.triggers = s.dbg.triggers.filter fun p => decide (max s.now t < p.1))
    ∧ (s.debugOpen = true → s.coreHalted (k % 32) = false → s.haltReq (k % 32) = none →
      Answers (exec (.dbgHalt t k data) s) fun u => u.haltReq (k % 32) = some { reason := 1, groups := data % 16 } ∧ ends u 0 0)
    ∧ (s.debugOpen = true → s.coreHalted k = true → data.testBit 4 = false →
      Answers (exec (.dbgResume t k data) s) fun u => u.coreHalted k = false ∧ u.core k = { s.core k with resumed := true }
        ∧ (∀ j, j ≠ k → u.core j = s.core j ∧ u.coreHalted j = s.coreHalted j) ∧ ends u 0 0)
    ∧ (s.debugOpen = true → s.coreHalted k = true →
      Answers (exec (.dbgStep t k) s) fun u => u.coreHalted k = true ∧ u.haltReq k = none ∧ u.link k = none
        ∧ u.dbg.status = 0 ∧ u.dbg.result = (u.core k).pc.toNat)
    ∧ (s.debugOpen = true → Answers (exec (.dbgNop t) s) fun u => ends u 0 0 ∧ u.regs = s.regs ∧ u.cores = s.cores)
    ∧ (s.debugOpen = true → Answers (exec (.dbgReservedOp t) s) fun u => ends u 5 0 ∧ u.regs = s.regs ∧ u.cores = s.cores)
    ∧ (s.debugOpen = true → Answers (exec (.groupWrite t k data) s) fun u => u.rd (F.DBG_CORE.groups (k % 32)) = data % 16 ∧ ends u 0 0
      ∧ RegsSame s u [R.DBG_CORE (k % 32)]))

/-- The accesses of a debug session: comparators, and a halted core's registers and local memory; a PC that is not aligned and an index
past the registers are BUS_ERROR, and a core that runs answers NOT_HALTED. -/
def Obligations.DebugAccess : Prop :=
  ∀ (s : State) (t k a data : Nat) (w : Word),
    let ends := fun (u : State) (status result : Nat) => u.dbg.status = status ∧ u.dbg.result = result ∧ u.dbg.lastOp = u.now
    let c := s.core k
    let regs := [c.a, c.x, c.y, c.sp, c.pc, c.ps &&& 0x3F#32, c.af, c.xf, c.yf, (c.psf &&& 0x3F#32) ||| (if c.fb then 0x40#32 else 0#32)]
    (s.debugOpen = true → a / 16 % 4 ≠ 0 → Answers (exec (.compWrite t k a data) s) fun u => ends u 0 0
      ∧ u.comp (k % 32) (a % 8) = (s.comp (k % 32) (a % 8)).setField (a / 16 % 4) data
      ∧ (∀ j n, (j, n) ≠ (k % 32, a % 8) → n < 8 → u.comp j n = s.comp j n) ∧ u.regs = s.regs ∧ u.cores = s.cores)
    ∧ (s.debugOpen = true → a / 16 % 4 = 0 → Answers (exec (.compWrite t k a data) s) fun u =>
      if compControlOk (a % 8) data = true
      then ends u 0 0 ∧ (u.comp (k % 32) (a % 8)).control = data
      else ends u 5 0 ∧ u.comp (k % 32) (a % 8) = s.comp (k % 32) (a % 8))
    ∧ (s.debugOpen = true → s.coreHalted k = true → a % 4 = 0 → a < 0x2_0000 → Answers (exec (.dbgRead t k a) s) fun u =>
      ends u 0 (leNat (s.localRead k a 4)) ∧ u.regs = s.regs ∧ u.cores = s.cores ∧ MemSame s u)
    ∧ (s.debugOpen = true → s.coreHalted k = true → a % 4 = 0 → a < 0x2_0000 → c.queue = [] →
      Answers (exec (.dbgWrite t k a w) s) fun u => ends u 0 0 ∧ u.localRead k a 4 = natLe 4 w.toNat
        ∧ (∀ j, j ≠ k → u.core j = s.core j) ∧ u.regs = s.regs ∧ MemSame s u)
    ∧ (s.debugOpen = true → s.coreHalted k = true → ∀ h : a < regs.length, Answers (exec (.dbgRegRead t k a) s) fun u =>
      ends u 0 (regs[a]).toNat ∧ u.cores = s.cores)
    ∧ (s.debugOpen = true → s.coreHalted k = true → a < 4 ∨ 6 ≤ a ∧ a < 9 ∨ a = 4 ∧ w &&& 3#32 = 0#32 →
      Answers (exec (.dbgRegWrite t k a w) s) fun u => (u.core k).debugReg a = some w ∧ ends u 0 0 ∧ ∀ j, j ≠ k → u.core j = s.core j)
    ∧ (s.debugOpen = true → s.coreHalted k = true → a = 5 ∨ a = 9 → Answers (exec (.dbgRegWrite t k a w) s) fun u =>
      (u.core k).fb = c.fb ∧ (if a = 5 then (u.core k).ps else (u.core k).psf) = w &&& 0x3F#32 ∧ ends u 0 0)
    ∧ (s.debugOpen = true → s.coreHalted k = true → 10 ≤ a ∨ a = 4 ∧ w &&& 3#32 ≠ 0#32 →
      Answers (exec (.dbgRegWrite t k a w) s) fun u => u.cores = s.cores ∧ ends u 3 0)
    ∧ (s.debugOpen = true → s.coreHalted k = false → Answers (exec (.dbgRead t k a) s) fun u => ends u 2 0 ∧ u.cores = s.cores)

/-- Rim writes: what a register, a 64-bit register, a head array word, a unit being loaded, a hole and an address of no unit make of a write;
and writes of two masters that meet in one Rim cycle, which are applied in lane order and counted. -/
def Obligations.RegisterWrites : Prop :=
  ∀ (s : State) (t a size e h off base : Nat) (v w : Word) (m : Master) (r : RegHit),
    let bad := size ≠ 4 ∨ a % 4 ≠ 0
    let counts := fun (u : State) (b n why : Nat) => u.rd (F.U_IGNORED_WRITES.count b) = min (s.rd (F.U_IGNORED_WRITES.count b) + 1) 0xFFFF
      ∧ u.rd (F.U_IGNORED_WRITES.last_reason b) = why ∧ u.rd (F.U_IGNORED_WRITES.last_offset b) = n / 4 % 2 ^ 14
    let only := fun (u : State) (as : List Nat) => RegsSame s u as ∧ { u with regs := s.regs, cycle := s.cycle } = s.at t
    let alone := (s.at t).rimCycle.writes.any (·.addr == a) = false
    let noticed := fun (u : State) (b : Nat) => u.rd (F.FAULT_SRC.state (256 + bits b 21 16)) ≠ 0 ∧ u.cores = s.cores ∧ MemSame s u
    let held := fun (f : FSpec) => getBits (s.reg r.addr) f.hi f.lo
    let put := fun (f : FSpec) (x : Word) => getBits x f.hi f.lo
    let counted := fun (u : State) => u.rd (F.ARRAY_IGNORED.count h) = min (s.rd (F.ARRAY_IGNORED.count h) + 1) 0xFF
      ∧ u.rd (F.ARRAY_IGNORED.last_word h) = off / 4 % 2 ^ 15 ∧ u.arrays = s.arrays
    let plain := alone ∧ s.unitLoading a = false ∧ ¬ bad ∧ r.writable = true ∧ r.spec.wide = false ∧ writesReserved r.spec.id r.i1 w = false
    let woken := fun (u : State) => { u with regs := s.regs, cycle := s.cycle, was := (s.at t).was } = s.at t
    (rimPlace a = .reg r → alone → s.unitLoading a = true → Answers (exec (.registerWrite t [⟨m, a, w, size⟩]) s) fun u => u.rd F.GS_CLASH.count = min (s.rd F.GS_CLASH.count + 1) 0xFFFF
      ∧ only u [R.GS_CLASH])
    ∧ (rimPlace a = .reg r → alone → s.unitLoading a = false →
      (bad → Answers (exec (.registerWrite t [⟨m, a, w, size⟩]) s) fun u => counts u r.base (a - r.base) 1 ∧ only u [R.U_IGNORED_WRITES r.base])
      ∧ (¬ bad → r.writable = false → Answers (exec (.registerWrite t [⟨m, a, w, size⟩]) s) (only · []))
      ∧ (¬ bad → r.writable = true → r.spec.wide = false → writesReserved r.spec.id r.i1 w = true → Answers (exec (.registerWrite t [⟨m, a, w, size⟩]) s) fun u =>
        counts u r.base (r.addr - r.base) 0 ∧ noticed u r.base)
      ∧ (¬ bad → r.writable = true → r.spec.wide = true → r.high = false → Answers (exec (.registerWrite t [⟨m, a, w, size⟩]) s) fun u =>
        mget (fun _ => none) u.staged r.addr = some w ∧ (∀ b, b ≠ r.addr → mget (fun _ => none) u.staged b = mget (fun _ => none) s.staged b)
          ∧ { u with staged := s.staged, cycle := s.cycle, was := (s.at t).was } = s.at t)
      ∧ (¬ bad → r.writable = true → r.spec.wide = true → r.high = true → r.spec.id.acts = false → Answers (exec (.registerWrite t [⟨m, a, w, size⟩]) s) fun u =>
        u.reg r.addr = (mget (fun _ => none) s.staged r.addr).getD (s.reg r.addr) ∧ u.reg (r.addr + 4) = w
          ∧ mget (fun _ => none) u.staged r.addr = none ∧ RegsSame s u [r.addr, r.addr + 4]
          ∧ { u with regs := s.regs, staged := s.staged, cycle := s.cycle, was := (s.at t).was } = s.at t))
    ∧ (rimPlace a = .reg r → plain → r.spec.id.acts = false → (m = .vertik ∨ hostBlocked r.spec.fields (s.reg r.addr) w = false) →
      Answers (exec (.registerWrite t [⟨m, a, w, size⟩]) s) fun u => (∀ f ∈ r.spec.fields, getBits (u.reg r.addr) f.hi f.lo = if f.host = true ∧ m ≠ .vertik then held f else f.after (held f) (put f w))
        ∧ RegsSame s u [r.addr] ∧ woken u)
    ∧ (rimPlace a = .reg r → plain → r.spec.id.acts = false → m ≠ .vertik → hostBlocked r.spec.fields (s.reg r.addr) w = true →
      Answers (exec (.registerWrite t [⟨m, a, w, size⟩]) s) fun u => (∀ f ∈ r.spec.fields, getBits (u.reg r.addr) f.hi f.lo = if f.host = true then held f else f.after (held f) (put f w))
        ∧ counts u r.base (r.addr - r.base) 3 ∧ RegsSame s u [r.addr, R.U_IGNORED_WRITES r.base] ∧ woken u)
    ∧ (rimPlace a = .hole base off → s.unitLoading a = false → (bad → Answers (exec (.registerWrite t [⟨m, a, w, size⟩]) s) fun u => counts u base off 1 ∧ only u [R.U_IGNORED_WRITES base])
      ∧ (¬ bad → Answers (exec (.registerWrite t [⟨m, a, w, size⟩]) s) fun u => counts u base off 2 ∧ noticed u base))
    ∧ (rimPlace a = .noUnit → Answers (exec (.registerWrite t [⟨m, a, w, size⟩]) s) fun u => u.rd F.RIM_UNMAPPED.count = min (s.rd F.RIM_UNMAPPED.count + 1) 0xFF
      ∧ u.rd F.RIM_UNMAPPED.word = a / 4 % 2 ^ 22 ∧ only u [R.RIM_UNMAPPED])
    ∧ (rimPlace a = .outside → Answers (exec (.registerWrite t [⟨m, a, w, size⟩]) s) (· = s.at t))
    ∧ (rimPlace a = .array h off → (bad → Answers (exec (.registerWrite t [⟨m, a, w, size⟩]) s) fun u => counted u ∧ u.rd (F.ARRAY_IGNORED.last_reason h) = 1 ∧ only u [R.ARRAY_IGNORED h])
      ∧ (¬ bad → arrayMapped off = false → Answers (exec (.registerWrite t [⟨m, a, w, size⟩]) s) fun u => counted u ∧ u.rd (F.ARRAY_IGNORED.last_reason h) = 2
        ∧ u.rd (F.FAULT_SRC.state (256 + 0x10 + h)) ≠ 0)
      ∧ (¬ bad → arrayMapped off = true → s.inWall h off = true → Answers (exec (.registerWrite t [⟨m, a, w, size⟩]) s) fun u =>
        u.rd (F.SPR_IGNORED.wall_write h) = min (s.rd (F.SPR_IGNORED.wall_write h) + 1) 0xFFFF ∧ only u [R.SPR_IGNORED h])
      ∧ (¬ bad → arrayMapped off = true → s.inWall h off = false → mget (fun _ => none) (s.at t).was.edges (arrayAddr h off) = none →
        Answers (exec (.registerWrite t [⟨m, a, w, size⟩]) s) fun u => u.arr (arrayAddr h off) = w &&& arrayBits off ∧ (∀ b, b ≠ arrayAddr h off → u.arr b = s.arr b)
          ∧ bit u.was.woke h = true ∧ u.regs = s.regs
          ∧ u.cores = s.cores ∧ MemSame s u))
    ∧ (rimPlace a = .reg r → plain → r.spec.id.acts = false → (∀ f ∈ r.spec.fields, f.host = false) → writesReserved r.spec.id r.i1 v = false → size = 4 →
      Answers (exec (.registerWrite t [⟨.vertik, a, w, 4⟩, ⟨.dma e, a, v, 4⟩]) s) fun u =>
        (∀ f ∈ r.spec.fields, getBits (u.reg r.addr) f.hi f.lo = f.after (f.after (held f) (put f v)) (put f w))
          ∧ u.rd (F.U_RIM_COLLISIONS.count r.base) = min (s.rd (F.U_RIM_COLLISIONS.count r.base) + 2) 0xFFFF
          ∧ u.rd (F.U_RIM_COLLISIONS.last_offset r.base) = (a - r.base) / 4 % 2 ^ 14
          ∧ RegsSame s u [r.addr, R.U_RIM_COLLISIONS r.base] ∧ woken u)

/-- Reads that clear on read: every master of the Rim cycle reads the word as it stood, then the RC fields of the register are 0, the rest
of it stands, and nothing else changes. -/
def Obligations.ReadsThatClear : Prop :=
  ∀ (s : State) (t i j : Nat) (ms : List Master), ms ≠ [] →
    ∀ row ∈ ([
      (.ignoredWritesRead t i ms, R.U_IGNORED_WRITES (unitBase i), 0x0000_FFFF#32), (.rimCollisionsRead t i ms, R.U_RIM_COLLISIONS (unitBase i), 0x0000_FFFF#32),
      (.headArrayIgnoredRead t i ms, R.ARRAY_IGNORED (i % 24), 0x00FF_FFFF#32), (.hubEccCorrRead t ms, R.HUB_ECC_CORR, 0#32),
      (.hubEccUncorrRead t ms, R.HUB_ECC_UNCORR, 0#32), (.hubWriteDeniedRead t ms, R.HUB_WRITE_DENIED, 0x0000_FFFF#32),
      (.rimUnmappedRead t ms, R.RIM_UNMAPPED, 0x00FF_FFFF#32), (.llErrsRead t i j ms, R.LL_ERRS (i % 24) (j % 8), 0#32),
      (.ttStatusRead t i j ms, R.TT_STATUS (i % 24) (j % 2), 0xF000_E000#32), (.sprLineStatusRead t i ms, R.SPR_LINE_STATUS (i % 24), 0xFF00_0000#32),
      (.sprErrsRead t i ms, R.SPR_ERRS (i % 24), 0#32), (.sprIgnoredRead t i ms, R.SPR_IGNORED (i % 24), 0#32),
      (.cmpMismatchRead t i ms, R.CMP_MISMATCH (i % 24), 0x0000_FFFF#32), (.beamStatusRead t i ms, R.BEAM_STATUS (i % 24), 0xFFFF_0000#32),
      (.beamEventMissedRead t i ms, R.BEAM_EVENT_MISSED (i % 24), 0#32), (.cadErrsRead t i ms, R.CAD_ERRS (i % 24), 0#32),
      (.txUnderrunRead t i ms, R.TX_UNDERRUN (i % 24), 0x0000_FFFF#32), (.txRemoteRingRead t i ms, R.TX_REMOTE_RING (i % 24), 0xFFFF_0000#32),
      (.ingDiscardRead t i ms, R.ING_DISCARD (i % 10), 0#32), (.derSkippedRead t ms, R.DER_SKIPPED, 0#32),
      (.derArrayCollisionsRead t ms, R.DER_ARRAY_COLLISIONS, 0x0000_FFFF#32), (.gsClashRead t ms, R.GS_CLASH, 0#32),
      (.tandemJournalRead t ms, R.TANDEM_JOURNAL, 0#32), (.tandemDivergeRead t ms, R.TANDEM_DIVERGE, 0x0000_00FF#32),
      (.pelCommitStatsRead t ms, R.PEL_COMMIT_STATS, 0#32), (.pelSpriteOwnRead t ms, R.PEL_SPRITE_OWN, 0x0000_FFFF#32),
      (.ethPrpRead t i ms, R.ETH_PRP (i % 2), 0#32), (.ethRxDropRead t i j ms, R.ETH_RX_DROP (i % 2) (j % 8), 0#32),
      (.vtkOrderRead t ms, R.VTK_ORDER, 0#32), (.vtkIllegalRead t i ms, R.VTK_ILLEGAL (i % 5), 0#32), (.bellErrsRead t ms, R.BELL_ERRS, 0#32),
      (.intcMergedRead t ms, R.INTC_MERGED, 0x0000_FFFF#32), (.intcEoiBadRead t i ms, R.INTC_EOI_BAD (i % 32), 0x0000_FFFF#32),
      (.flStatusRead t i ms, R.FL_STATUS (i % 64), 0xFFFF_0000#32), (.sbStatusRead t ms, R.SB_STATUS, 0xFFFF_0000#32),
      (.sbDriveRead t i ms, R.SB_DRIVE (i % 2), 0xFF00_FFFF#32), (.sbKeyRead t ms, R.SB_KEY, 0x0000_FFFF#32),
      (.faultQueueRead t ms, R.FAULT_QUEUE, 0#32), (.faultSrcRead t i ms, R.FAULT_SRC (i % 512), 0xFFFF_FF00#32),
      (.secCalRead t ms, R.SEC_CAL, 0x0000_FFFF#32)] : List (Instr × Nat × Word)),
    (s.at t).rimCycle.writes.all (·.addr != row.2.1) = true →
    Answers (exec row.1 s) fun u => u.reg row.2.1 = s.reg row.2.1 &&& row.2.2 ∧ RegsSame s u [row.2.1]
      ∧ (∀ m ∈ ms, Output.rimRead m row.2.1 (s.reg row.2.1) false ∈ u.out) ∧ { u with regs := s.regs, out := s.out } = s.at t

/-- Reads with a rule of their own: the margin, the least gain and the peaks start again from where they stand, the oldest capture leaves its
queue, and in the Forerunner profile a low word of a counter holds the high word for the master that read it. -/
def Obligations.ReadsThatRestart : Prop :=
  ∀ (s : State) (t i : Nat) (ms : List Master), ms ≠ [] →
    let now := max s.now t
    let quiet := fun (a : Nat) => (s.at t).rimCycle.writes.all (fun w => w.addr != a && w.addr != a + 4) = true
    let read := fun (u : State) (a : Nat) (w : Word) => ∀ m ∈ ms, Output.rimRead m a w false ∈ u.out
    (quiet (R.HUB_HEAD_MARGIN (i % 24)) → Answers (exec (.hubHeadMarginRead t i ms) s) fun u => u.reg (R.HUB_HEAD_MARGIN (i % 24)) = 0x7FFF_0000#32
      ∧ RegsSame s u [R.HUB_HEAD_MARGIN (i % 24)] ∧ read u (R.HUB_HEAD_MARGIN (i % 24)) (s.reg (R.HUB_HEAD_MARGIN (i % 24))))
    ∧ (quiet (R.BELL_BUS (i % 128)) → Answers (exec (.bellBusRead t i ms) s) fun u => u.rd (F.BELL_BUS.min_gain (i % 128)) = 0xFFFF
      ∧ RegsSame s u [R.BELL_BUS (i % 128)] ∧ read u (R.BELL_BUS (i % 128)) (s.reg (R.BELL_BUS (i % 128))))
    ∧ (∀ m w x, (s.at t).rimCycle.writes = [w] → w.addr = R.BELL_BUS (i % 128) → w.master ≠ m → (s.at t).rimCycle.shown = [(R.BELL_BUS (i % 128), x)] →
      Answers (exec (.bellBusRead t i [m]) s) fun u => Output.rimRead m (R.BELL_BUS (i % 128)) (BitVec.ofNat 32 x) false ∈ u.out)
    ∧ (s.records.length < 128 → quiet R.CHAIN_QUEUE_PEAK → Answers (exec (.chainQueuePeakRead t ms) s) fun u => u.rd F.CHAIN_QUEUE_PEAK.peak = s.records.length
      ∧ RegsSame s u [R.CHAIN_QUEUE_PEAK] ∧ read u R.CHAIN_QUEUE_PEAK (s.reg R.CHAIN_QUEUE_PEAK))
    ∧ (quiet R.DER_QUEUE_PEAK → Answers (exec (.derQueuePeakRead t ms) s) fun u => u.rd F.DER_QUEUE_PEAK.peak = s.rd F.DER_STATUS.queue_depth
      ∧ RegsSame s u [R.DER_QUEUE_PEAK] ∧ read u R.DER_QUEUE_PEAK (s.reg R.DER_QUEUE_PEAK))
    ∧ ((s.head (i % 24)).cadQueue.length ≤ 8 → quiet (R.CAD_BAD (i % 24)) → Answers (exec (.cadBadRead t i ms) s) fun u => u.rd (F.CAD_BAD.count (i % 24)) = 0
      ∧ u.rd (F.CAD_BAD.queue_peak (i % 24)) = (s.head (i % 24)).cadQueue.length ∧ RegsSame s u [R.CAD_BAD (i % 24)]
      ∧ read u (R.CAD_BAD (i % 24)) (s.reg (R.CAD_BAD (i % 24))))
    ∧ (quiet R.CPR_TEMP_MAX → Answers (exec (.cprTempMaxRead t ms) s) fun u => u.rd F.CPR_TEMP_MAX.peak = wrap 16 s.hottest.2
      ∧ RegsSame s u [R.CPR_TEMP_MAX] ∧ read u R.CPR_TEMP_MAX (s.reg R.CPR_TEMP_MAX))
    ∧ (∀ e q, mget (fun _ => []) s.field.caps (i % 64) = e :: q → q.length < 16 → quiet (R.FL_CAP_POP (i % 64)) → Answers (exec (.flCapPopRead t i ms) s) fun u =>
      mget (fun _ => []) u.field.caps (i % 64) = q ∧ u.rd (F.FL_STATUS.depth (i % 64)) = q.length
      ∧ (∀ e', q.head? = some e' → u.rd64 (R.FL_CAP_TIME (i % 64)) = e'.1 % 2 ^ 64)
      ∧ read u (R.FL_CAP_POP (i % 64)) (if e.2 then 0xC000_0000#32 else 0x8000_0000#32))
    ∧ (mget (fun _ => []) s.field.caps (i % 64) = [] → quiet (R.FL_CAP_POP (i % 64)) → Answers (exec (.flCapPopRead t i ms) s) fun u =>
      read u (R.FL_CAP_POP (i % 64)) 0#32 ∧ { u with out := s.out } = s.at t)
    ∧ (i < 32 → ∀ p ∈ ([(R.TMR_COUNT i, (s.at t).timerCount i), (R.ODO_TIME, 50 * now / 297), (R.BELL_TICK, now / tickPeriodBell),
        (R.BEAM_FRAME (i % 24), ((s.posOf (i % 24) now).map (·.1)).getD 0), (R.SB_SEQ, s.rd64 R.SB_SEQ),
        (R.DER_EVALS, s.rd64 R.DER_EVALS), (R.DER_ACTIONS, s.rd64 R.DER_ACTIONS), (R.CHAIN_SIGNED, s.rd64 R.CHAIN_SIGNED),
        (R.BLT_PIXELS, s.rd64 R.BLT_PIXELS)] : List (Nat × Nat)),
      quiet p.1 → Answers (exec (.counterLoRead t p.1 ms) s) fun u => read u p.1 (BitVec.ofNat 32 p.2)
        ∧ { u with out := s.out, holding := s.holding } = s.at t
        ∧ if s.forerunner = true
          then ∀ m ∈ ms, mget (fun _ => none) u.holding (64 * p.1 + masterIndex m) = some (BitVec.ofNat 32 (p.2 / 2 ^ 32))
          else u.holding = s.holding)

/-- An access in a slot of its own requestor that its bank has not used, and a core's store at its slot: a write the regions admit stores
exactly its bytes, a write they do not admit stores nothing and is counted; a read of clean words answers their bytes, of a word with one
error the corrected bytes, of a word with two errors says so; a head's slot serves the request at the front of its queue of the bank. In any
other Hub cycle nothing is served, so a bank grants one requestor at a time. -/
def Obligations.HubAccesses : Prop :=
  ∀ (s : State) (t k bank : Nat) (a : HubAccess) (bs : List Byte),
    let mine := hubInLine a bank = true ∧ a.req < 72 ∧ max s.now (8 * k) / 8 = k ∧ (s.at (8 * k)).slotFor bank a.req = true
    ((s.at (8 * k)).slotFor bank a.req = false → Answers (exec (.hubSlotAccess k bank a) s) (· = s.at (8 * k)))
    ∧ (mine → 24 ≤ a.req → Answers (exec (.hubSlotAccess k bank a) s) fun u => u.bankFree bank = false ∧ ∀ r, u.slotFor bank r = false)
    ∧ (mine → 24 ≤ a.req → a.data = some bs → s.admits a.req a.off = true → (∀ i, i < bs.length → s.ingestOwned (a.off + i) = false) →
      s.Clean a.off bs.length → Answers (exec (.hubSlotAccess k bank a) s) fun u => Wrote s u a.off bs ∧ u.Clean a.off bs.length ∧ u.regs = s.regs ∧ u.cores = s.cores)
    ∧ (mine → 24 ≤ a.req → a.data = some bs → s.admits a.req a.off = false → Answers (exec (.hubSlotAccess k bank a) s) fun u => MemSame s u
      ∧ u.rd F.HUB_WRITE_DENIED.count = min (s.rd F.HUB_WRITE_DENIED.count + 1) 0xFFFF ∧ u.rd F.HUB_WRITE_DENIED.requestor = a.req)
    ∧ (mine → 24 ≤ a.req → a.data = none → s.Clean a.off a.len → Answers (exec (.hubSlotAccess k bank a) s) fun u =>
      u = ((s.at (8 * k)).grant bank).emit (.hubRead a.req a.off (s.memBytes a.off a.len) false))
    ∧ (mine → 24 ≤ a.req → a.data = none → a.off % 8 = 0 → a.len = 8 → popCount 72 (s.flips (a.off / 8)).toNat = 1 → Answers (exec (.hubSlotAccess k bank a) s) fun u =>
      u.out = .hubRead a.req a.off (s.memBytes a.off 8) false :: s.out ∧ MemSame s u ∧ u.rd F.HUB_ECC_LAST_ADDR.word = a.off / 8
        ∧ u.rd F.HUB_ECC_LAST_SRC.uncorrectable = 0 ∧ a.off / 8 ∈ u.hub.writeBacks.map (·.1))
    ∧ (mine → 24 ≤ a.req → a.data = none → a.off % 8 = 0 → a.len = 8 → popCount 72 (s.flips (a.off / 8)).toNat = 2 → Answers (exec (.hubSlotAccess k bank a) s) fun u =>
      u.out.head? = some (.hubRead a.req a.off (s.memBytes a.off 8) true) ∧ MemSame s u ∧ u.rd (F.FAULT_SRC.state (136 + bank)) ≠ 0)
    ∧ (∀ j w, mine → a.req < 24 → a.data = none → (s.head a.req).lines = [j] → j.waiting = [w] → w.req.off = a.off → a.off % 64 = 0 →
      s.Clean a.off 64 → Answers (exec (.hubSlotAccess k bank a) s) fun u =>
        (u.head a.req).lines = [{ j with waiting := [], flying := j.flying ++ [⟨w.req, max s.now (8 * k), s.memBytes a.off 64, 0⟩] }] ∧ MemSame s u)
    ∧ (∀ n q off, (s.core n).queue = (off, bs) :: q → bs.length = 1 ∨ bs.length = 2 ∨ bs.length = 4 → off % bs.length = 0 →
      (s.at t).slotFor (bankOf off) (24 + n) = true → s.admits (24 + n) off = true → (∀ i, i < bs.length → s.ingestOwned (off + i) = false) →
      s.Clean off bs.length →
      Answers (exec (.coreStoreDrain t n) s) fun u => (u.core n).queue = q ∧ Wrote s u off bs ∧ u.regs = s.regs ∧ ∀ j, j ≠ n → u.core j = s.core j)

/-- The maintenance of scene memory, each item at a maintenance slot of its bank that serves nothing else: the scrub, write-backs, the second
read of a corrected word, and the spares. None of it changes a byte that a read answers, but where a word with three or more errors is written
back as the code delivers it. -/
def Obligations.HubMaintenance : Prop :=
  ∀ (s : State) (t bank : Nat) (p : Nat × Nat) (sp : Spare), bank < 32 → (s.at t).maintSlot bank = true →
    (s.parkedPower = false → s.hasWriteBack bank = false → s.hasCopy bank = false → Answers (exec (.scrubRead t bank) s) fun u =>
      u.scrubs bank = s.scrubs bank + 1 ∧ (∀ b, b ≠ bank → u.scrubs b = s.scrubs b) ∧ MemSame s u ∧ u.maintSlot bank = false
        ∧ (∀ w, popCount 72 (s.flips w).toNat = 1 → w ∈ (List.range 8).map (lineWord bank (s.scrubs bank % 131072) + ·) →
          w ∈ u.hub.writeBacks.map (·.1)))
    ∧ (s.hub.writeBacks.find? (fun q => wordBank q.1 == bank) = some p → Answers (exec (.eccWriteBack t bank) s) fun u =>
      u.flips p.1 = 0#72 ∧ (∀ w, w ≠ p.1 → u.flips w = s.flips w) ∧ u.memBytes (8 * p.1) 8 = s.fixedWord p.1
        ∧ u.hub.writeBacks = s.hub.writeBacks.erase p ∧ u.hub.rereads = s.hub.rereads ++ [p] ∧ u.maintSlot bank = false ∧ u.regs = s.regs
        ∧ (popCount 72 (s.flips p.1).toNat ≤ 2 → MemSame s u))
    ∧ (s.hasWriteBack bank = false → s.hasCopy bank = false → s.hub.rereads.find? (fun q => wordBank q.1 == bank) = some p →
      Answers (exec (.hardWordReread t bank false) s) fun u => u = { (s.at t).grant bank with hub.rereads := s.hub.rereads.erase p })
    ∧ (s.hasWriteBack bank = false → s.hasCopy bank = false → s.hub.rereads.find? (fun q => wordBank q.1 == bank) = some p →
      Answers (exec (.hardWordReread t bank true) s) fun u => p ∈ u.hub.hard ∧ p ∈ u.hub.writeBacks ∧ u.hub.rereads = s.hub.rereads.erase p
        ∧ MemSame s u ∧ u.maintSlot bank = false ∧ (s.on F.HUB_CTRL.repair_auto = false → u.hub.copying = s.hub.copying))
    ∧ (s.hasWriteBack bank = false → s.hub.copying.find? (·.bank == bank) = some sp → Answers (exec (.spareRepairCopy t bank) s) fun u =>
      u = { (s.at t).grant bank with hub.copying := s.hub.copying.erase sp, hub.filled := s.hub.filled ++ [sp] })
    ∧ (s.hub.filled.find? (·.bank == bank) = some sp → Answers (exec (.spareTakeover t bank) s) fun u =>
      u.hub.spares = s.hub.spares ++ [sp] ∧ u.hub.filled = s.hub.filled.erase sp ∧ u.hub.hard = s.hub.hard ∧ MemSame s u
        ∧ ∀ q ∈ s.hub.hard, sp.covers q = true → u.flips q.1 = 0#72 ∧ q.1 ∉ u.hub.writeBacks.map (·.1))

/-- Staging, the check, an abort and the request of an apply: the pointer and the staged words, each ignored while the controller is busy;
a check that fails rejects the image whole and raises its fault, one that passes leaves it checked, or pending where an apply was requested. In a Peloton the request is a group commit, in a Tandem a journal
entry. -/
def Obligations.GroupsetStagingAndCheck : Prop :=
  ∀ (s : State) (t n frame : Nat) (w : Word),
    let ptr := s.rd F.GS_STAGE_PTR.word
    let moved := fun (u : State) (x : Nat) => u.gsState = x ∧ u.on F.GS_STATUS.busy = (x == 2 || x == 5)
    let ignored := fun (u : State) => u.rd (F.U_IGNORED_WRITES.count gsBase) = min (s.rd (F.U_IGNORED_WRITES.count gsBase) + 1) 0xFFFF
      ∧ u.gs.staging = s.gs.staging ∧ u.rd F.GS_STAGE_PTR.word = ptr
    let own := s.rd F.PEL_STATUS.state ≠ 2
    let emptied := fun (u : State) => u.gs.staging = [] ∧ u.gs.staged = false ∧ u.rd F.GS_STAGE_PTR.word = 0 ∧ moved u 0 ∧ u.gs.active = s.gs.active
    (s.gsBusy = false → 0 < n → n < stageWords → Answers (exec (.gsStagePtrWrite t n) s) fun u =>
      u.rd F.GS_STAGE_PTR.word = n ∧ RegsSame s u [R.GS_STAGE_PTR] ∧ { u with regs := s.regs } = s.at t)
    ∧ (s.gsBusy = false → Answers (exec (.gsStagePtrWrite t 0) s) emptied)
    ∧ (s.gsBusy = true ∨ stageWords ≤ n → Answers (exec (.gsStagePtrWrite t n) s) ignored)
    ∧ (s.gsBusy = false → ptr < stageWords → Answers (exec (.gsStageDataWrite t w) s) fun u =>
      mget (fun _ => 0#32) u.gs.staging ptr = w ∧ (∀ i, i ≠ ptr → mget (fun _ => 0#32) u.gs.staging i = mget (fun _ => 0#32) s.gs.staging i)
        ∧ u.rd F.GS_STAGE_PTR.word = ptr + 1 ∧ moved u 1 ∧ u.gs.staged = true ∧ RegsSame s u [R.GS_STAGE_PTR, R.GS_STATUS])
    ∧ (s.gsBusy = true → Answers (exec (.gsStageDataWrite t w) s) ignored)
    ∧ (s.gs.staged = true → s.gsState = 1 ∨ s.gsState = 3 → Answers (exec (.gsCtrlCheck t) s) fun u =>
      moved u 2 ∧ RegsSame s u [R.GS_STATUS] ∧ { u with regs := s.regs } = s.at t)
    ∧ (s.gsState ≠ 0 → s.gs.rollback = false → s.gsState = 5 → s.gs.swapped = [] → Answers (exec (.gsCtrlAbort t) s) fun u => emptied u
      ∧ u.gs.loading = [] ∧ u.gs.toSwap = [] ∧ u.gs.parked = 0 ∧ u.gs.parkDue = 0)
    ∧ (s.gsState ≠ 0 → s.gs.rollback = false → s.gsState ≠ 5 → Answers (exec (.gsCtrlAbort t) s) emptied)
    ∧ (s.gsState = 5 → s.gs.swapped ≠ [] ∨ s.gs.rollback = true → Answers (exec (.gsCtrlAbort t) s) ignored)
    ∧ (own → s.isPrimary = false → s.locked = false → s.gsState = 3 ∨ s.gsState = 4 → s.gs.chipTf ≠ 0 → frame < 2 ^ 64 → Answers (exec (.gsApplyFrameWrite t frame) s) fun u =>
      u.rd64 R.GS_APPLY_FRAME = frame ∧ moved u 4 ∧ RegsSame s u [R.GS_APPLY_FRAME, R.GS_APPLY_FRAME + 4, R.GS_STATUS]
        ∧ { u with regs := s.regs } = s.at t)
    ∧ (own → s.isPrimary = false → s.locked = false → s.gsState = 1 → s.gs.staged = true → frame < 2 ^ 64 → Answers (exec (.gsApplyFrameWrite t frame) s) fun u =>
      u.rd64 R.GS_APPLY_FRAME = frame ∧ moved u 2 ∧ u.gs.applyWanted = true)
    ∧ (own → s.isPrimary = false → s.locked = false → s.gsState = 5 → Answers (exec (.gsApplyFrameWrite t frame) s) ignored)
    ∧ (own → s.isPrimary = true → Answers (exec (.gsApplyFrameWrite t frame) s) fun u => u.gsState = s.gsState
      ∧ u.tandem.journal = s.tandem.journal ++ [⟨11880 + max s.now t, .apply frame⟩] ∧ u.gs = s.gs)
    ∧ (¬ own → s.gsState ≠ 1 → s.rd F.PEL_STATUS.role = 2 → Answers (exec (.gsApplyFrameWrite t frame) s) fun u => u.gs = s.gs
      ∧ u.pel.opened = s.pel.opened ++ [⟨frame, [], true, [], [], []⟩])
    ∧ (¬ own → s.gsState ≠ 1 → s.rd F.PEL_STATUS.role ≠ 2 → s.isShadow = false → Answers (exec (.gsApplyFrameWrite t frame) s) fun u => u.gs = s.gs
      ∧ u.out = .message 10 13 [s.rd F.PEL_SELF.member_index, frame] :: s.out)
    ∧ (s.gsState = 2 → Answers (exec (.gsCheckComplete t) s) fun u =>
      (∀ f, (s.at t).gsDeviceCheck = .error f → emptied u ∧ u.rd F.GS_STATUS.last_result = 2 ∧ u.rd F.GS_REJECT.reason = f.reason % 16
          ∧ u.rd F.GS_REJECT.sect = f.sect % 256 ∧ u.rd F.GS_REJECT.record = f.record % 65536 ∧ u.rd (F.FAULT_SRC.state 218) ≠ 0)
        ∧ (∀ secs, (s.at t).gsDeviceCheck = .ok secs → u.gs.passedAt = max s.now t ∧ u.gs.staging = s.gs.staging ∧ u.gs.active = s.gs.active
          ∧ (s.gs.applyWanted = false → moved u 3) ∧ (s.gs.applyWanted = true → s.gs.chipTf ≠ 0 → moved u 4)))

/-- The units of an apply at their atomic points: a unit whose turn has come takes its section whole, a Hub its schedule and regions; a head
and a core start a load and take their sections at its end; a core due to park does so between instructions, and resumes from its new
entry. A unit swaps in its turn, at its atomic point, and at no other moment. -/
def Obligations.GroupsetSwaps : Prop :=
  ∀ (s : State) (t type n h k : Nat) (g : GsSec),
    let turn := (s.at t).swapTurn ⟨type, n⟩ = true ∧ (s.at t).atomicPoint ⟨type, n⟩ = true
    let plain := type = 5 ∨ type = 6 ∨ type = 10 ∧ s.derOn = false ∨ type = 11 ∧ g.absent = false
    let more := s.gs.toSwap.erase ⟨type, n⟩ ≠ []
    let done := fun (u : State) => u.gs.toSwap = s.gs.toSwap.erase ⟨type, n⟩ ∧ u.gs.swapped = s.gs.swapped ++ [⟨type, n⟩] ∧ u.gsState = 5
    (¬ turn → Answers (exec (.unitSwap t type n) s) (· = s.at t))
    ∧ (turn → secOf s.nextSections type n = some g → plain → Answers (exec (.unitSwap t type n) s) fun u =>
      (more → ∀ a, ownerOf a = (type, n) → (a = R.ODO_UTC → s.on F.ODO_UTC.from_gm = false) → u.reg a = (s.reg a &&& ~~~ gsMask a) ||| (imgReg g.regs a &&& gsMask a))
        ∧ (more → s.gs.rollback = false → done u)
        ∧ (¬ more → s.gs.rollback = false → u.gsState = 0 ∧ u.rd F.GS_STATUS.last_result = 1 ∧ u.gs.staging = []
          ∧ u.rd F.GS_STATUS.applies = (s.rd F.GS_STATUS.applies + 1) % 65536))
    ∧ (turn → secOf s.nextSections 10 n = some g → type = 10 → s.derOn = true → more → Answers (exec (.unitSwap t type n) s) fun u => u.derOn = false →
      u.der.queue = [] ∧ u.der.holding = [] ∧ u.der.reevalNext = none)
    ∧ (turn → secOf s.nextSections 11 n = some g → type = 11 → g.absent = true → more → Answers (exec (.unitSwap t type n) s) fun u =>
      u.rd (F.ETH_STATUS.link_up n) = 0 ∧ u.rd (F.ETH_STATUS.ptp_state n) = 0)
    ∧ (turn → secOf s.nextSections 1 n = some g → type = 1 → more → s.gs.rollback = false → Answers (exec (.unitSwap t type n) s) fun u => done u
      ∧ u.gs.chipT0 = (imgReg g.regs 0x4000_0080).toNat + 2 ^ 32 * (imgReg g.regs 0x4000_0084).toNat
      ∧ u.gs.chipTf = (imgReg g.regs 0x4000_0088).toNat + 2 ^ 32 * (imgReg g.regs 0x4000_008C).toNat
      ∧ u.gs.paired = (imgFld g.regs F.GS_MODE_SUMMARY.tandem != 0))
    ∧ (turn → secOf s.nextSections 2 n = some g → type = 2 → (s.at t).hubMaySwap = true → Answers (exec (.unitSwap t type n) s) fun u =>
      (∀ b j, b < 32 → j < 256 → u.schedNow b j = imgSched g.recs b j) ∧ u.hub.regions.length = 64
        ∧ (more → s.gs.rollback = false → done u))
    ∧ (turn → secOf s.nextSections 2 n = some g → type = 2 → (s.at t).hubMaySwap = false → Answers (exec (.unitSwap t type n) s) (· = s.at t))
    ∧ (turn → secOf s.nextSections 3 n = some g → type = 3 → (s.headSwap n).inSwap = true ∨ s.headState n = 0 → ⟨3, n⟩ ∉ s.gs.loading →
      Answers (exec (.unitSwap t type n) s) (· = { s.at t with
        gs.loading := s.gs.loading ++ [⟨3, n⟩],
        gs.parkDue := if ⟨4, n⟩ ∈ s.gs.toSwap ∧ s.gs.whole = false ∧ s.coreParked n = false then setBit s.gs.parkDue n true else s.gs.parkDue }))
    ∧ (turn → secOf s.nextSections 4 n = some g → type = 4 → s.coreParked n = true → ⟨4, n⟩ ∉ s.gs.loading →
      Answers (exec (.unitSwap t type n) s) (· = { s.at t with gs.loading := s.gs.loading ++ [⟨4, n⟩] }))
    ∧ (turn → secOf s.nextSections 8 n = some g → type = 8 → n < 8 → s.on (F.DMA_STATUS.busy n) = true → Answers (exec (.unitSwap t type n) s) fun u =>
      u.on (F.DMA_STATUS.swap_pending n) = true ∧ u.gs = s.gs ∧ RegsSame s u [R.DMA_STATUS n])
    ∧ (turn → secOf s.nextSections 8 n = some g → type = 8 → n < 8 → s.on (F.DMA_STATUS.busy n) = false → more → s.gs.rollback = false →
      Answers (exec (.unitSwap t type n) s) fun u => done u ∧ u.on (F.DMA_STATUS.swap_pending n) = false)
    ∧ (turn → secOf s.nextSections type n = some g → type = 7 ∨ type = 9 → more → s.gs.rollback = false → Answers (exec (.unitSwap t type n) s) fun u => done u
      ∧ (type = 9 → u.field.toggle = 0 ∧ u.der.lines = 0 ∧ u.field.applied = true ∧ u.field.keeper = true))
    ∧ (h < 24 → ⟨3, h⟩ ∈ s.gs.loading → secOf s.nextSections 3 h = some g → Answers (exec (.headSwapLoadDone t h) s) fun u =>
      (g.absent = true → (u.headSwap h).back = 0) ∧ u.headState h = s.headState h ∧ u.fwCapable h = u.judgeCapable h
        ∧ u.rd64 (R.BEAM_TF h) = u.rd (F.BEAM_H.htotal h) * u.rd (F.BEAM_V.vtotal h) * u.rd (F.BEAM_N.n_div h)
        ∧ u.gs.loading = s.gs.loading.erase ⟨3, h⟩ ∧ (u.headSwap h).loaded = true ∧ ∀ j, j ≠ h → u.headSwap j = s.headSwap j)
    ∧ (⟨3, h⟩ ∉ s.gs.loading → Answers (exec (.headSwapLoadDone t h) s) (· = s.at t))
    ∧ (bit s.gs.parkDue k = true → s.atBoundary k = true ∨ s.corePresent k = false → Answers (exec (.corePark t k) s) (· =
      { s.at t with gs.parked := setBit s.gs.parked k true, gs.parkDue := setBit s.gs.parkDue k false }))
    ∧ (bit s.gs.parkDue k = true → s.atBoundary k = false → s.corePresent k = true → Answers (exec (.corePark t k) s) (· = s.at t))
    ∧ (k < 32 → ⟨4, k⟩ ∈ s.gs.loading → secOf s.nextSections 4 k = some g → g.absent = false → Answers (exec (.coreLoadDone t k) s) fun u =>
      u.coreParked k = false ∧ u.gs.loading = s.gs.loading.erase ⟨4, k⟩ ∧ (u.core k).queue = [] ∧ u.link k = none ∧ (u.wdog k).reload = max s.now t
        ∧ (u.core k).pc = BitVec.ofNat 32 (bits (((g.recs.find? (·.kind == 6)).map (·.words.getD 0 0)).getD 0) 15 0))

/-- Inputs of ingest: a frame that agrees with a subscription and meets no discard condition is counted and its writes are made; in lockstep
a Primary journals it and a Shadow in lockstep holds it; with 512 waiting it is discarded; a subscription overdue becomes stale and its points are
written so; the fill leaves the initial record. -/
def Obligations.IngestInputs : Prop :=
  ∀ (s s2 s3 : State) (t port n v : Nat) (g : Goose) (a : SvAsdu) (e : List Byte) (m : MemRead),
    let now := max s.now t
    let idle := s.ing.queue = [] ∧ s.ing.writes = [] ∧ s.on F.ING_STATUS.init_busy = false ∧ s.unitsHeld = false ∧ s.derOn = false
    let es := (List.range (leAt e 16 1)).map (mapEntry m.bytes)
    (idle → s.isPrimary = false → s.locked = false → s.on F.ING_CTRL.enable = true →
      ((s.at t).archiveInput port (nsOf now) g.raw).findGoose port g 0 4096 = (some (n, e, false), s2) → gooseOutside g = false →
      s2.memRead 66 (leAt e 20 4) (8 * leAt e 16 1) = (m, s3) → m.bad = [] → es.any MapEntry.bad = false → g.confRev = leAt e 12 4 →
      g.entries = leAt e 16 1 → g.leaves.length = leAt e 16 1 → g.ndsCom = false →
      (es.zip g.leaves).any (fun p => (p.1.ltype, p.1.size) != leafCode p.2) = false → g.security = false → g.test = false →
      g.stNum ≠ leAt e 88 4 → Answers (exec (.gooseFrame t port g) s) fun u =>
        u.rd F.ING_RX_GOOSE.count = (s.rd F.ING_RX_GOOSE.count + 1) % 2 ^ 32 ∧ u.ing.sub = n ∧ u.ing.queue = [] ∧ u.ing.writes = [])
    ∧ (idle → s.isPrimary = false → s.locked = false → s.on F.ING_CTRL.enable = true →
      ((s.at t).archiveInput port (nsOf now) a.raw).findSv port a 0 64 = (some (v, e, false), s2) → a.malformed = false → a.values.length = 8 →
      a.qualities.length = 8 → a.smpCnt < svPerSecond (leAt e 10 2) → a.confRev = leAt e 12 4 → a.security = false → a.test = false →
      leAt e 80 1 = 0 → Answers (exec (.svAsdu t port a) s) fun u =>
        u.rd F.ING_RX_SV.count = (s.rd F.ING_RX_SV.count + 1) % 2 ^ 32 ∧ u.ing.sub = 4096 + v ∧ u.ing.queue = [] ∧ u.ing.writes = [])
    ∧ (s.isPrimary = true → Answers (exec (.gooseFrame t port g) s) (· =
        { s.at t with tandem.journal := s.tandem.journal ++ [⟨11880 + now, .goose port (nsOf t) g⟩] })
      ∧ Answers (exec (.svAsdu t port a) s) (· = { s.at t with tandem.journal := s.tandem.journal ++ [⟨11880 + now, .sv port (nsOf t) a⟩] }))
    ∧ (s.locked = true → s.isPrimary = false → Answers (exec (.gooseFrame t port g) s) (· =
        { s.at t with tandem.held := s.tandem.held ++ [(now, .goose port (nsOf t) g)] }))
    ∧ (s.isPrimary = false → s.locked = false → s.on F.ING_STATUS.init_busy = false → 512 ≤ s.ing.queue.length → Answers (exec (.gooseFrame t port g) s) fun u =>
      u.rd (F.ING_DISCARD.count 6) = min (s.rd (F.ING_DISCARD.count 6) + 1) (F.ING_DISCARD.count 6).max
        ∧ u.rd (F.FAULT_SRC.state 200) ≠ 0 ∧ u.ing.queue = s.ing.queue ∧ MemSame s u)
    ∧ (Answers (exec (.supervisionCheck t) s) (· = (List.range 4096).foldl State.superviseGoose (s.at t))
      ∧ ∀ k, k < 4096 → s.Clean (s.gooseOff k) 128 → leAt (s.memBytes (s.gooseOff k) 128) 104 1 = 1 →
        leAt (s.memBytes (s.gooseOff k) 128) 96 8 < nsOf s.now → s.unitsHeld = true → s.ing.queue.length < 512 →
        (s.superviseGoose k).rd F.ING_SUB_STATE.goose_stale = (s.rd F.ING_SUB_STATE.goose_stale + 1) % 2 ^ 13
        ∧ ∃ ws, (s.superviseGoose k).ing.queue = s.ing.queue ++ [.supervision (nsOf s.now) k ws] ∧ ∀ w ∈ ws, w.2 = staleUpd)
    ∧ (v < 64 → s.Clean (s.svOff v) 128 → leAt (s.memBytes (s.svOff v) 128) 80 1 = 1 →
      leAt (s.memBytes (s.svOff v) 128) 72 8 + leAt (s.memBytes (s.svOff v) 128) 50 2 * 1000000 ≤ nsOf now → s.unitsHeld = true →
      s.ing.queue.length < 512 → Answers (exec (.svStreamTimeout t v) s) fun u =>
        u.rd F.ING_SUB_STATE.sv_stale = (s.rd F.ING_SUB_STATE.sv_stale + 1) % 2 ^ 7
        ∧ ∃ ws, u.ing.queue = s.ing.queue ++ [.supervision (nsOf now) (4096 + v) ws] ∧ ∀ w ∈ ws, w.2 = staleUpd)
    ∧ Answers (exec (.ingInit t) s) (fun u => u.on F.ING_STATUS.init_busy = true ∧ RegsSame s u [R.ING_STATUS] ∧ { u with regs := s.regs } = s.at t)
    ∧ (s.on F.ING_STATUS.init_busy = true → s.unitsHeld = true → Answers (exec (.initFillComplete t) s) fun u =>
      u.on F.ING_STATUS.init_busy = false ∧ u.ing = s.ing
        ∧ u = ((List.range numPoints).foldl (fun (x : State) p => x.memWrite 66 (x.pointOff p) PointRec.initial.toBytes) (s.at t)).wr
          F.ING_STATUS.init_busy 0)

/-- One point write on a clean record of a region that ingest may write: the record takes the fields supplied and its count moves by one, and
it is queued for evaluation by its change class, of which a force or a release is a quality change; a source does not write a frozen point, nor Vertik a subscribed one. -/
def Obligations.PointWrites : Prop :=
  ∀ (s : State) (p : Nat) (u : PtUpd),
    let off := s.pointOff p
    let old := PointRec.ofBytes (s.memBytes off 32)
    let new := old.update u
    let w := s.writePoint p u
    let quality := u.forced || old.qualityChange new
    let changed := old.valueChange new = true ∨ quality = true
    let entry : DerEntry := { point := p, copy := some new, valueChange := old.valueChange new, qualityChange := quality }
    s.Clean off 32 → off % 32 = 0 → s.ing.answer = none →
    ((old.frozen && u.fromSource) = false → (u.ownCheck && old.subscribed && !old.frozen) = false → s.admits 66 off = true →
      Wrote s w off new.toBytes ∧ new.count = (old.count + 1) % 2 ^ 16
        ∧ w.rd F.ING_POINT_WRITES.count = (s.rd F.ING_POINT_WRITES.count + 1) % 2 ^ 32
        ∧ (s.derOn = false → w.der = s.der) ∧ (s.derOn = true → changed → w.der.queue = s.der.queue ++ [entry])
        ∧ (s.derOn = true → ¬ changed → s.Clean (s.trigOff p) 4 → (∀ r, s.Clean (s.ruleOff r) 4) →
          w.der.queue = s.der.queue ++ if (w.wantsRefresh p).1 = true then [entry] else []))
    ∧ ((old.frozen && u.fromSource) = true → MemSame s w ∧ w.der = s.der
      ∧ w.rd (F.ING_DISCARD.count 7) = min (s.rd (F.ING_DISCARD.count 7) + 1) (F.ING_DISCARD.count 7).max)
    ∧ (old.frozen = false → (u.ownCheck && old.subscribed) = true → MemSame s w ∧ w.der = s.der
      ∧ w.rd (F.ING_DISCARD.count 8) = min (s.rd (F.ING_DISCARD.count 8) + 1) (F.ING_DISCARD.count 8).max)

/-- The Derailleur's queue: one issue reads one rule and, where it fires, queues its action; the last rule frees the entry's place; requests to
evaluate again take a place, and read their record at the head of the queue, or are ignored while it is off; disabling empties the queue. -/
def Obligations.DerailleurQueue : Prop :=
  ∀ (s : State) (t p r : Nat) (rs : List Nat) (e : DerEntry) (q : List DerEntry) (c : PointRec),
    let rule := Rule.ofBytes (s.memBytes (s.ruleOff r) 32)
    let runs := s.unitsHeld = false ∧ s.derOn = true ∧ s.der.queue = e :: q ∧ e.chain = some (r :: rs) ∧ s.Clean (s.ruleOff r) 32
    let depth := fun (u : State) => u.rd F.DER_STATUS.queue_depth
    let asked := fun (p : Nat) => ({ point := p, reeval := true, copy := if s.der.queue = [] then some (PointRec.ofBytes (s.memBytes (s.pointOff p) 32)) else none } : DerEntry)
    (runs → rs ≠ [] → e.copy = some c → rule.fires e = true → rule.valid s.forerunner c = true → rule.action ≠ 0 →
      Answers (exec (.ruleEvaluation t) s) fun u => u.rd64 R.DER_EVALS = (s.rd64 R.DER_EVALS + 1) % 2 ^ 64
        ∧ u.der.queue = { e with chain := some rs } :: q
        ∧ u.der.actions = s.der.actions
          ++ [⟨e.point, r, rule.action, rule.target, rule.lsb, rule.width, rule.out c, c.count, c.arrival, max s.now t⟩] ∧ MemSame s u)
    ∧ (runs → rs ≠ [] → e.copy = some c → rule.fires e = false → Answers (exec (.ruleEvaluation t) s) fun u =>
      u.rd64 R.DER_EVALS = (s.rd64 R.DER_EVALS + 1) % 2 ^ 64 ∧ u.der.actions = s.der.actions
        ∧ u.der.queue = { e with chain := some rs } :: q ∧ RegsSame s u [R.DER_EVALS, R.DER_EVALS + 4])
    ∧ (runs → rs ≠ [] → e.copy = some c → rule.fires e = true → rule.valid s.forerunner c = false → Answers (exec (.ruleEvaluation t) s) fun u =>
      u.der.actions = s.der.actions ∧ u.rd F.DER_LAST_SKIP.rule = r % 2 ^ 18
        ∧ u.rd F.DER_SKIPPED.encoding = min (s.rd F.DER_SKIPPED.encoding + 1) F.DER_SKIPPED.encoding.max)
    ∧ (runs → rs = [] → s.ing.heldSince = none → s.der.holding = [] → s.der.reevalNext = none → q.length < 4096 →
      Answers (exec (.ruleEvaluation t) s) fun u => depth u = q.length ∧ ((q.head?.map (·.reeval)) ≠ some true → u.der.queue = q))
    ∧ (s.derOn = true → s.der.queue.length < 4096 → (s.der.queue = [] → s.Clean (s.pointOff p) 32) → Answers (exec (.derReeval t p) s) fun u =>
      u.der.queue = s.der.queue ++ [asked p] ∧ depth u = s.der.queue.length + 1)
    ∧ (s.derOn = false → Answers (exec (.derReeval t p) s) fun u => u.der = s.der)
    ∧ (s.derOn = true → s.on F.DER_STATUS.reeval_busy = false → s.der.queue.length < 4096 → (s.der.queue = [] → s.Clean (s.pointOff 0) 32) →
      Answers (exec (.reevalAll t) s) fun u => u.der.queue = s.der.queue ++ [asked 0] ∧ u.on F.DER_STATUS.reeval_busy = true
        ∧ u.der.reevalNext = some (1, max s.now t))
    ∧ (s.ing.writes = [] → s.ing.queue = [] → Answers (exec (.derailleurDisable t) s) fun u => u.derOn = false ∧ u.der.queue = []
      ∧ u.der.holding = [] ∧ u.der.reevalNext = none ∧ depth u = 0 ∧ u.on F.DER_STATUS.reeval_busy = false ∧ u.der.actions = s.der.actions)

/-- Actions and their records: an action lands at its word, no sooner than 4 Rim cycles after its issue nor before an earlier one of the same
word; a record is written once its first affected pixel has left, or a sample edge has
decided it, and without a place when every head has passed its frames. -/
def Obligations.ActionsAndRecords : Prop :=
  ∀ (s : State) (t n i : Nat) (a : DerAction) (p : Photon) (e : PhotonEnd),
    let now := max s.now t
    let lands := s.der.actions[n]? = some a ∧ s.clock.stopped = false ∧ a.issued + 32 ≤ now ∧ (s.der.actions.take n).any (·.wordOf == a.wordOf) = false
    let off := a.target / 4 * 4
    let addr := arrayAddr (bits a.target 28 24) (bits a.target 16 0)
    let written := fun (u : State) (status head line pixel time : Nat) => u.rd F.DER_PHOTON_WR.count = (s.rd F.DER_PHOTON_WR.count + 1) % 2 ^ 32
      ∧ u.sb.handed.getLast? = some (3, if p.kind ≤ 1 ∧ status = 0 then head else 0xFF, p.arrival, photonBytes p status head line pixel time)
      ∧ u.der.photons = s.der.photons.erase p
    (lands → a.action = 1 → s.forerunner = false → s.admits 65 off = true → s.ingestOwned off = false → s.Clean off 4 → s.der.photons = [] → s.on F.DER_CTRL.photon_en = false →
      Answers (exec (.actionWrite t n) s) fun u => u.der.actions = s.der.actions.eraseIdx n
        ∧ Wrote s u off (natLe 4 ((leNat (s.memBytes off 4) &&& (2 ^ 32 - 1 - (a.mask ||| 2 ^ 27))) ||| ((a.bits ||| 2 ^ 27) &&& (a.mask ||| 2 ^ 27))))
        ∧ u.rd64 R.DER_ACTIONS = (s.rd64 R.DER_ACTIONS + 1) % 2 ^ 64)
    ∧ (lands → a.action = 2 → s.inWall (bits a.target 28 24) (bits a.target 16 0) = false → mget (fun _ => none) (s.at t).was.edges addr = none →
      Answers (exec (.actionWrite t n) s) fun u =>
      u.arr addr = ((s.arr addr &&& ~~~BitVec.ofNat 32 a.mask) ||| (BitVec.ofNat 32 a.bits &&& BitVec.ofNat 32 a.mask)) &&& arrayBits (bits a.target 16 0)
        ∧ (∀ b, b ≠ addr → u.arr b = s.arr b) ∧ u.der.actions = s.der.actions.eraseIdx n)
    ∧ (lands → a.action = 4 → Answers (exec (.actionWrite t n) s) fun u => bit u.der.lines a.target = bit a.out 0
      ∧ (∀ j, j ≠ a.target → bit u.der.lines j = bit s.der.lines j) ∧ u.der.actions = s.der.actions.eraseIdx n)
    ∧ (s.der.actions[n]? = some a → now < a.issued + 32 → Answers (exec (.actionWrite t n) s) (· = s.at t))
    ∧ (lands → a.action = 4 → s.on F.DER_CTRL.photon_en = true → bit s.der.lines a.target ≠ bit a.out 0 →
      (∀ q ∈ s.der.photons, q.kind = 3 → q.target ≠ a.target) → Answers (exec (.actionWrite t n) s) fun u =>
        u.der.photons = s.der.photons ++ [a.photon now])
    ∧ (s.der.photons[i]? = some p → p.kind ≤ 1 → p.ending = some e → e.time < now → Answers (exec (.photonRecord t i) s) fun u =>
      if e.status = 0 then written u 0 e.head e.line e.pixel (nsOf e.time) else written u e.status 0 0 0 0)
    ∧ (s.der.photons[i]? = some p → p.kind ≤ 1 → p.ending = some e → now ≤ e.time → Answers (exec (.photonRecord t i) s) (· = s.at t))
    ∧ (s.der.photons[i]? = some p → p.kind ≤ 1 → p.ending = none → Answers (exec (.photonRecord t i) s) fun u =>
      if s.photonPassed p = true then written u 1 0 0 0 0 else u = s.at t)
    ∧ (s.der.photons[i]? = some p → p.kind = 3 → p.ending = some e → e.time ≤ now → Answers (exec (.fieldLineEffect t i) s) fun u =>
      if e.status = 0 then written u 0 e.head e.line e.pixel (nsOf e.time) else written u e.status 0 0 0 0)
    ∧ (s.der.photons[i]? = some p → p.kind = 3 → p.ending = none → Answers (exec (.fieldLineEffect t i) s) (· = s.at t))

/-- The fetch of a line: at its start the line joins the head's with what it sampled and asks for (its own layers, or the ring in Remote);
data reaches the line it was asked for; what is not served in time is dropped and counts one late line; a trace build samples its
settings. Each happens at its own root count and at no other. -/
def Obligations.HeadFetch : Prop :=
  ∀ (s : State) (t h n y off tr : Nat), s.headPresent h = true →
    let z := s.at t
    let now := max s.now t
    let sampled := z.before.liveOf h 0x1000 0x4000 ++ (s.head h).cadRegs
    let before := (s.head h).lines.drop ((s.head h).lines.length - 7)
    let starts := z.fetchStarts h n y = true ∧ y < (s.beam h).vtotal ∧ s.job h n y = none
    (z.fetchStarts h n y = false → Answers (exec (.fetchLineStart t h n y) s) (· = z))
    ∧ (starts → 0 < y → s.fetchMode h n y = 1 → Answers (exec (.fetchLineStart t h n y) s) fun u =>
      ∃ j, (u.head h).lines = before ++ [j] ∧ j.head = h ∧ j.frame = n ∧ j.y = y ∧ j.remote = false ∧ j.regs = sampled ∧ j.got = []
        ∧ (y < (s.beam h).vactive → ∀ r ∈ j.layerReqs s.forerunner (s.beam h).hactive, ⟨r, now⟩ ∈ j.waiting)
        ∧ (∀ p ∈ j.sprites, ∀ o ∈ j.sprLines p.2, ⟨⟨.sprite p.1, o⟩, now⟩ ∈ j.waiting)
        ∧ (∀ r ∈ j.cadReqs, ⟨r, now⟩ ∈ j.waiting) ∧ MemSame s u)
    ∧ (starts → 0 < y → y < (s.beam h).vactive → s.fetchMode h n y = 2 → Answers (exec (.fetchLineStart t h n y) s) fun u =>
      u.regs = s.regs ∧ MemSame s u ∧ (u.head h).lines = before
        ++ [{ head := h, frame := n, y := y, remote := true, regs := sampled, waiting := (s.ringReqs h y).map (Waiting.mk · now) }])
    ∧ (starts → 0 < y → s.fetchMode h n y = 0 → Answers (exec (.fetchLineStart t h n y) s) (· = z))
    ∧ (∀ j f, s.job h n y = some j → j.head = h →
      j.flying.find? (fun f => f.req.off == off && decide (f.slot + 192 ≤ now)) = some f →
      Answers (exec (.fetchDataArrive t h n y off) s) fun u => ∃ more : List FetchReq,
        (j.closed = false → u.job h n y = some { j with
          flying := j.flying.erase f, got := j.got ++ [f], waiting := j.waiting ++ more.map (Waiting.mk · now) })
        ∧ (j.closed = true → u.job h n y = some { j with
          flying := j.flying.erase f, got := j.got ++ [f], dropped := j.dropped ++ more, late := j.late || !more.isEmpty })
        ∧ ((∃ l x, f.req.what = .pattern l x) ∨ (∃ d, f.req.what = .sprite d) ∨ (∃ c, f.req.what = .entry c) ∨ f.req.what = .ring → more = []))
    ∧ (∀ j, s.job h n y = some j → j.head = h → z.beamAt h n y 0 = true → j.waiting ≠ [] → j.late = false →
      Answers (exec (.fetchLineDrop t h n y) s) fun u =>
        u.job h n y = some { j with waiting := [], closed := true, dropped := j.dropped ++ j.waiting.map (·.req), late := true }
        ∧ u.rd (F.HUB_HEAD_MARGIN.late_lines h) = min (s.rd (F.HUB_HEAD_MARGIN.late_lines h) + 1) 0xFFFF
        ∧ (∀ b, b < 32 → mget (fun _ => 0) u.hub.used (32 * h + b) = 0))
    ∧ (z.beamAt h n y 0 = false → Answers (exec (.fetchLineDrop t h n y) s) (· = z))
    ∧ (0 < n → z.beamAt h (n - 1) 0 0 = true → z.before.lv (F.TT_CTRL.enable h tr) = 1 → s.Clean (s.svOff (z.before.lv (F.TT_CTRL.stream h tr))) 128 →
      Answers (exec (.traceBuildStart t h tr n) s) fun u => ∃ b, (u.head h).build tr = some b ∧ b.frame = n
        ∧ b.channels = z.before.lv (F.TT_CTRL.channels h tr) ∧ b.k = z.before.lv (F.TT_SHAPE.spc_m1 h tr) + 1
        ∧ b.lag = z.before.lv (F.TT_LAG.lag h tr) ∧ b.width = z.before.lv (F.TT_WIN_X.width_m1 h tr) + 1 ∧ b.issued = 0 ∧ b.samples = []
        ∧ MemSame s u)
    ∧ (z.beamAt h (n - 1) 0 0 = false → Answers (exec (.traceBuildStart t h tr n) s) (· = z))

/-- Pixels: a lookup samples the compositor at the first pixel and leaves one pixel in the line's pipe; a pixel is sent at its place in the line,
an underrun pixel as the last one, counted; the earliest affected pixel of a record takes its place; a difference of the copies is counted. A
pixel is looked up and sent at its own root count and at no other. -/
def Obligations.HeadPixels : Prop :=
  ∀ (s : State) (t h n y x : Nat) (j : LineJob) (a b : Option (Nat × Nat × Nat)), s.job h n y = some j → j.head = h → j.frame = n → j.y = y →
    let z := s.at t
    let taken := j.pipe.filter (·.1 != x)
    let sends := fun (c : Option (Nat × Nat × Nat)) => z.sendsNow j x = true ∧ j.pipe.find? (·.1 == x) = some (x, c)
    (z.looksUp h n y x = true → 0 < x → Answers (exec (.pixelLookup t h n y x) s) fun u =>
      ∃ c, u.job h n y = some { j with pipe := j.pipe ++ [(x, c)] } ∧ MemSame s u ∧ u.regs = s.regs)
    ∧ (z.looksUp h n y 0 = true → Answers (exec (.pixelLookup t h n y 0) s) fun u =>
      ∃ c, u.job h n y = some { j with cmp := z.before.liveOf h 0x4000 0x5000, pipe := j.pipe ++ [(0, c)] })
    ∧ (z.looksUp h n y x = false → Answers (exec (.pixelLookup t h n y x) s) (· = z))
    ∧ (∀ c q, sends c → z.finishPixel j x c = some q → Answers (exec (.pixelSend t h n y x none none) s) fun u =>
      u.job h n y = some { j with pipe := taken, sent := pixelCut j.bpc10 q :: j.sent } ∧ (u.head h).last = pixelCut j.bpc10 q ∧ u.regs = s.regs
        ∧ u.der.photons = s.der.photons.map fun p => if z.affects j x p = true then p.leaves (max s.now t) h y x else p)
    ∧ (∀ c, sends c → (s.head h).testPat = 3 → j.bpc10 = true → x < s.rd (F.BEAM_H.hactive h) →
      Answers (exec (.pixelSend t h n y x none none) s) fun u =>
        let v := 1024 * x / s.rd (F.BEAM_H.hactive h)
        u.job h n y = some { j with pipe := taken, sent := (v, v, v) :: j.sent })
    ∧ (sends none → (s.head h).testPat = 0 → j.underrun = [] → Answers (exec (.pixelSend t h n y x a b) s) fun u =>
      u.job h n y = some { j with pipe := taken, sent := (s.head h).last :: j.sent, underrun := [x] }
        ∧ (u.head h).underrun = (s.head h).underrun + 1 ∧ (u.head h).last = (s.head h).last
        ∧ u.rd (F.TX_UNDERRUN.lines h) = min (s.rd (F.TX_UNDERRUN.lines h) + 1) 0xFFFF)
    ∧ (∀ c q, sends c → z.finishPixel j x c = some q → pixelCut j.bpc10 (a.getD q) ≠ pixelCut j.bpc10 (b.getD q) → j.mismatch = none →
      Answers (exec (.pixelSend t h n y x a b) s) fun u =>
        u.job h n y = some { j with pipe := taken, sent := pixelCut j.bpc10 (a.getD q) :: j.sent, mismatch := some x }
        ∧ (u.head h).mismatch = (s.head h).mismatch + 1
        ∧ u.rd (F.CMP_MISMATCH.lines h) = min (s.rd (F.CMP_MISMATCH.lines h) + 1) 0xFFFF)
    ∧ (z.sendsNow j x = false → Answers (exec (.pixelSend t h n y x a b) s) (· = z))

/-- Commits and the latch point: a request is held, cancelled, or held for its frame; a frame named too late is counted and applied at the
next edge; at the latch edge, and at no other root count, a commit that is due makes every live copy of the head equal the programmed one as held before
the edge, and a state request that has
landed is armed. The frame start and the line events: a frame opens with its number and empty counts, its record takes the frame before, and the armed
state is entered; an event reaches the interrupt controller 24 core cycles after it fires, and one that meets its source pending is
merged. -/
def Obligations.BeamCommitsFramesAndEvents : Prop :=
  (∀ (s : State) (t h n f v landed : Nat),
    let now := max s.now t
    let z := s.at t
    let latches := s.headPresent h = true ∧ z.latchAt h n = true
    (s.groupArmed h = none → Answers (exec (.beamCommit t h) s) fun u => (u.head h).commit = some (now, none)
      ∧ u.rd (F.BEAM_STATUS.commit_state h) = 1 ∧ RegsSame s u [R.BEAM_STATUS h] ∧ { u with regs := s.regs, heads := s.heads } = s.at t)
    ∧ Answers (exec (.beamCommitCancel t h) s) (fun u => (u.head h).commit = none ∧ u.rd (F.BEAM_STATUS.commit_state h) = 0
      ∧ RegsSame s u [R.BEAM_STATUS h] ∧ { u with regs := s.regs, heads := s.heads } = s.at t)
    ∧ (s.groupArmed h = none → now + (s.beam h).tf < (s.beam h).time f (s.beam h).vactive 0 → Answers (exec (.commitFrameWrite t h f) s) fun u =>
      (u.head h).commit = some (now, some f) ∧ u.rd (F.BEAM_STATUS.commit_state h) = 2 ∧ u.rd64 (R.BEAM_COMMIT_FRAME h) = f % 2 ^ 64
        ∧ RegsSame s u [R.BEAM_STATUS h, R.BEAM_COMMIT_FRAME h, R.BEAM_COMMIT_FRAME h + 4])
    ∧ (s.groupArmed h = none → (s.beam h).time f (s.beam h).vactive 0 ≤ now + (s.beam h).tf → Answers (exec (.commitFrameWrite t h f) s) fun u =>
      (u.head h).commit = some (now, none) ∧ u.rd (F.BEAM_STATUS.commit_state h) = 1 ∧ u.on (F.BEAM_IRQ.late h) = true
        ∧ u.rd (F.BEAM_STATUS.late_commits h) = min (s.rd (F.BEAM_STATUS.late_commits h) + 1) (F.BEAM_STATUS.late_commits h).max)
    ∧ (latches → z.commitDue h n = true → z.was.cad = [] → Answers (exec (.latchPoint t h n) s) fun u =>
      (∀ a, headBase h + 0x1000 ≤ a → a < headBase h + 0x6000 → u.liveReg a = z.before.reg a) ∧ (u.head h).commit = none
        ∧ u.on (F.BEAM_IRQ.latch h) = true)
    ∧ (latches → z.commitDue h n = false → Answers (exec (.latchPoint t h n) s) fun u =>
      u.live = s.live ∧ (u.head h).commit = (s.head h).commit ∧ u.on (F.BEAM_IRQ.latch h) = true)
    ∧ (latches → (s.head h).request = some (v, landed) → landed < now → v = 0 ∨ v = 1 ∨ v = 3 → s.clock.recovery = false →
      bit s.clock.failedHeads h = false → (s.headSwap h).inSwap = false → s.swapComes h n = false → s.tandem.decided = [] →
      Answers (exec (.latchPoint t h n) s) fun u => (u.head h).armed = some v ∧ (u.head h).request = none)
    ∧ (z.latchAt h n = false → Answers (exec (.latchPoint t h n) s) (· = z)))
  ∧ (∀ (s : State) (t h n k : Nat) (take : Bool), s.headPresent h = true →
    let now := max s.now t
    let z := s.at t
    let starts := z.beamAt h n 0 0 = true
    (starts → Answers (exec (.frameStart t h n take) s) fun u => (u.head h).frame = n ∧ (u.head h).started = true ∧ (u.head h).underrun = 0
      ∧ (u.head h).mismatch = 0 ∧ (u.head h).digests = [] ∧ (u.head h).seals = [] ∧ (u.head h).armed = none ∧ u.cores = s.cores)
    ∧ (starts → (s.head h).started = true → Answers (exec (.frameStart t h n take) s) fun u => u.records.length = s.records.length + 1
      ∧ ∃ r ∈ u.records, r.head = h ∧ r.frame = (s.head h).frame ∧ r.made = now)
    ∧ (starts → (s.head h).started = false → Answers (exec (.frameStart t h n take) s) fun u => u.records = s.records)
    ∧ (∀ v, starts → (s.head h).armed = some v → v < 4 → (s.headSwap h).inSwap = false → (s.headSwap h).armed = false →
      Answers (exec (.frameStart t h n take) s) fun u => u.headState h = v)
    ∧ (z.beamAt h n 0 0 = false → Answers (exec (.frameStart t h n take) s) (· = z))
    ∧ (∀ f y x, s.posOf h now = some (f, y, x) → z.beamAt h f y x = true → k < 2 → h < 24 → z.before.eventAt h k y x = true → s.corePresent h = true → s.coreParked h = false →
      s.tandem.hold = false → s.sb.keyHold = false → s.on (F.INTC_SRC.pending (64 + 4 * h + k)) = false →
      Answers (exec (.lineEventFire t h k) s) (· = { z with
        intc.inFlight := s.intc.inFlight ++ [(64 + 4 * h + k, 6 * ((now + 5) / 6 + 24))] }))
    ∧ (∀ f y x, s.posOf h now = some (f, y, x) → z.beamAt h f y x = true → z.before.eventAt h 0 y x = true → h < 24 → s.corePresent h = false →
      Answers (exec (.lineEventFire t h 0) s) fun u =>
        u.rd (F.BEAM_EVENT_MISSED.event0 h) = min (s.rd (F.BEAM_EVENT_MISSED.event0 h) + 1) 0xFFFF ∧ RegsSame s u [R.BEAM_EVENT_MISSED h]))

/-- Cadence: entries whose beam position has come join the queue of their head, those of two lists in order of due time, list 0 first at
equal times; the oldest write of the queue lands, at its due time or later, 4 pixel clocks after the one before: a register's live copy takes
the masked bits of its RW fields, the programmed copy stands. -/
def Obligations.CadenceWrites : Prop :=
  ∀ (s : State) (t h n y c px px' : Nat) (j : LineJob) (w w' : CadWrite) (rest : List CadWrite) (hit : RegHit),
    let now := max s.now t
    let z := s.at t
    let free := ∀ e, (s.head h).cadLast = some e → e + 4 * s.rd (F.BEAM_N.n_div h) ≤ now
    let reg := headBase h + w.off
    let cell := arrayAddr h w.off
    let laid := fun (old : Word) (mask : Word) => (old &&& ~~~mask) ||| (BitVec.ofNat 32 w.data &&& mask)
    let mixed := laid (s.liveReg reg) (BitVec.ofNat 32 w.mask)
    let single := fun (c : Nat) (w : CadWrite) (px : Nat) => ∃ word, j.index c = some word ∧ indexBad word = false ∧ bits word 24 16 = 1
      ∧ mget (fun _ => 0) j.cadNext c = 0 ∧ z.cadJudge j c (bits word 13 0) = .queued w px
    let line := (s.head h).lines = [j] ∧ j.head = h ∧ j.frame = n ∧ j.y = y
    let lands := (s.head h).cadQueue = w :: rest ∧ free ∧ w.due ≤ now
    (line → c < 2 → single c w px → j.index (1 - c) = none → Answers (exec (.cadenceEntryDue t h) s) fun u =>
      (u.head h).cadQueue = (s.head h).cadQueue ++ [w] ∧ u.job h n y = some (j.cadPast c 0 (some px)) ∧ RegsSame s u [R.CAD_BAD h]
        ∧ u.live = s.live)
    ∧ (line → single 0 w px → single 1 w' px' → (s.head h).cadQueue.length ≤ 6 → Answers (exec (.cadenceEntryDue t h) s) fun u =>
      (u.head h).cadQueue = (s.head h).cadQueue ++ if w'.due < w.due then [w', w] else [w, w'])
    ∧ (line → j.index 0 = none → j.index 1 = none → Answers (exec (.cadenceEntryDue t h) s) (· = z))
    ∧ (lands → w.array = false → cadReg h w.off = some hit → writesReserved hit.spec.id hit.i1 mixed = false →
      Answers (exec (.cadenceWrite t h) s) fun u => u.liveReg reg = laid (s.liveReg reg) (BitVec.ofNat 32 w.mask &&& hit.rwBits)
        ∧ (∀ a, a ≠ reg → u.liveReg a = s.liveReg a) ∧ RegsSame s u [R.CAD_ERRS h]
        ∧ (u.head h).cadQueue = rest ∧ (u.head h).cadLast = some now ∧ (w.due = now → u.regs = s.regs))
    ∧ (lands → w.array = false → cadReg h w.off = some hit → writesReserved hit.spec.id hit.i1 mixed = true →
      Answers (exec (.cadenceWrite t h) s) fun u => u.live = s.live ∧ (u.head h).cadQueue = rest
        ∧ u.rd (F.U_IGNORED_WRITES.count (headBase h)) = min (s.rd (F.U_IGNORED_WRITES.count (headBase h)) + 1) 0xFFFF)
    ∧ (lands → w.array = true → Answers (exec (.cadenceWrite t h) s) fun u =>
      (u.head h).cadQueue = rest ∧ (u.head h).cadLast = some now ∧ u.live = s.live
        ∧ (s.inWall h w.off = false → mget (fun _ => none) z.was.edges cell = none →
          u.arr cell = if arrayReserved w.off (laid (s.arr cell) (BitVec.ofNat 32 w.mask)) = true then s.arr cell
            else laid (s.arr cell) (BitVec.ofNat 32 w.mask) &&& arrayBits w.off))
    ∧ ((s.head h).cadQueue = w :: rest → ¬ free ∨ now < w.due → Answers (exec (.cadenceWrite t h) s) (· = z))

/-- The link and the AUX channel of a head outside lockstep: state requests, plug, interrupt and unplug of the sink, the end of a training
attempt, and an AUX transaction from its request to its result. -/
def Obligations.HeadLinks : Prop :=
  ∀ (s : State) (t h : Nat) (w : Word) (c : SinkCaps) (r : AuxReply) (a : AuxReq), s.locked = false → s.isPrimary = false → h < 24 →
    let now := max s.now t
    let z := s.at t
    let link := fun (u : State) => u.rd (F.TX_STATUS.link_state h)
    let v := w.toNat % 4
    let asked : AuxReq := { cmd := getBits w 27 24, addr := getBits w 19 0, bytes := (s.auxData h).take (getBits w 23 20 + 1) }
    let field := fun (f : Fld) (x : Nat) => x % (f.max + 1)
    (s.power ≠ 2 → v ≠ s.rd (F.TX_CTRL.req_state h) → Answers (exec (.headStateRequest t h w) s) fun u => (u.head h).request = some (v, now)
      ∧ u.rd (F.TX_CTRL.req_state h) = v ∧ RegsSame s u [R.TX_CTRL h, R.TX_STATUS h]
      ∧ (s.headState h ≠ 0 → link u = link s ∧ { u with regs := s.regs, heads := s.heads } = z))
    ∧ (s.power = 2 → v ≠ s.rd (F.TX_CTRL.req_state h) → Answers (exec (.headStateRequest t h w) s) fun u =>
      mget (fun _ => none) u.clock.heldHeads h = some v ∧ (u.head h).request = (s.head h).request)
    ∧ (s.headState h = 0 → Answers (exec (.headStateRequest t h w) s) fun u => link u =
      if u.on (F.TX_CTRL.link_keep h) = true then (if s.on (F.TX_STATUS.hpd h) = true ∧ link s = 0 then 1 else link s) else 0)
    ∧ Answers (exec (.hpdPlug t h c) s) (fun u => u.on (F.TX_STATUS.hpd h) = true ∧ u.on (F.TX_IRQ.plug h) = true
      ∧ (u.head h).psrVersion = c.psrVersion ∧ (u.head h).psrExitTrain = c.exitTrain ∧ (u.head h).psrSetup = c.setup ∧ (u.head h).assr = c.assr
      ∧ u.fwCapable h = u.judgeCapable h ∧ link u = (if s.needsLink h = true then 1 else 0) ∧ RegsSame s u [R.TX_STATUS h, R.TX_IRQ h]
      ∧ Output.display h 7 [0, 16] ∈ u.out ∧ Output.display h 7 [0x70, 2] ∈ u.out
      ∧ (s.on (F.TX_LINK.edp h) = false → Output.display h 9 [0] ∈ u.out))
    ∧ (link s = 2 → Answers (exec (.hpdIrq t h true false) s) fun u => link u = 1 ∧ u.on (F.TX_IRQ.irq_hpd h) = true
      ∧ u.on (F.TX_IRQ.link_lost h) = true ∧ (u.head h).attempts = 0 ∧ (u.head h).config = 0 ∧ (u.head h).scan = false)
    ∧ (link s ≠ 3 → Answers (exec (.hpdIrq t h false false) s) fun u => u.on (F.TX_IRQ.irq_hpd h) = true ∧ RegsSame s u [R.TX_IRQ h]
      ∧ u.heads = s.heads ∧ Output.display h 7 [0x200, 6] ∈ u.out)
    ∧ (link s = 3 → s.needsLink h = true → Answers (exec (.hpdIrq t h false false) s) fun u => link u = 1)
    ∧ Answers (exec (.hpdUnplug t h) s) (fun u => u.on (F.TX_STATUS.hpd h) = false ∧ link u = 0 ∧ u.on (F.TX_IRQ.plug h) = true)
    ∧ (∀ lanes rate, link s = 1 → (s.linkConfigs h)[(s.head h).config]? = some (lanes, rate) →
      Answers (exec (.trainingAttemptEnd t h true) s) fun u => link u = 2 ∧ u.rd (F.TX_STATUS.lanes h) = lanes ∧ u.rd (F.TX_STATUS.rate h) = rate
        ∧ u.on (F.TX_IRQ.trained h) = true ∧ (u.head h).trainedAt = now
        ∧ u.rd (F.TX_MVID.value h) = field (F.TX_MVID.value h) (mvidNvid (s.rd (F.BEAM_N.n_div h)) rate).1
        ∧ u.rd (F.TX_NVID.value h) = field (F.TX_NVID.value h) (mvidNvid (s.rd (F.BEAM_N.n_div h)) rate).2
        ∧ (s.fwCapable h = true → (s.head h).psrOn = false → (u.head h).psrOn = true ∧ Output.display h 1 [0x170, 3] ∈ u.out))
    ∧ (link s = 1 → (s.head h).attempts < 2 → Answers (exec (.trainingAttemptEnd t h false) s) fun u => link u = 1
      ∧ (u.head h).attempts = (s.head h).attempts + 1 ∧ u.regs = s.regs)
    ∧ (link s = 1 → (s.head h).attempts = 2 → s.on (F.TX_LINK.fallback_en h) = true → (s.head h).config + 1 < (s.linkConfigs h).length →
      Answers (exec (.trainingAttemptEnd t h false) s) fun u => link u = 1 ∧ (u.head h).attempts = 0
        ∧ (u.head h).config = (s.head h).config + 1 ∧ u.regs = s.regs)
    ∧ (link s = 1 → (s.head h).attempts = 2 → s.on (F.TX_LINK.fallback_en h) = false → Answers (exec (.trainingAttemptEnd t h false) s) fun u =>
      link u = 3 ∧ u.rd (F.FAULT_SRC.state (88 + h)) ≠ 0)
    ∧ (s.on (F.TX_AUX_CTRL.aux_busy h) = false → link s ≠ 1 → Answers (exec (.auxRequest t h w) s) fun u =>
      u.on (F.TX_AUX_CTRL.aux_busy h) = true ∧ (u.head h).aux = some { asked with sent := true }
        ∧ u.out = .display h 3 ([asked.cmd, asked.addr] ++ asked.bytes.map (·.toNat)) :: s.out)
    ∧ (s.on (F.TX_AUX_CTRL.aux_busy h) = false → link s = 1 → Answers (exec (.auxRequest t h w) s) fun u =>
      u.on (F.TX_AUX_CTRL.aux_busy h) = true ∧ (u.head h).aux = some asked ∧ u.out = s.out)
    ∧ (s.on (F.TX_AUX_CTRL.aux_busy h) = true → Answers (exec (.auxRequest t h w) s) fun u => u.heads = s.heads
      ∧ u.rd (F.U_IGNORED_WRITES.count (headBase h)) = min (s.rd (F.U_IGNORED_WRITES.count (headBase h)) + 1) 0xFFFF)
    ∧ ((s.head h).aux = some a → a.sent = true → a.retries < 7 → Answers (exec (.auxDeferRetry t h) s) fun u =>
      (u.head h).aux = some { a with retries := a.retries + 1 } ∧ u.out.length = s.out.length + 1 ∧ u.regs = s.regs)
    ∧ ((s.head h).aux = some a → a.sent = true → a.retries = 7 → s.on (F.TX_AUX_CTRL.aux_busy h) = true →
      Answers (exec (.auxDeferRetry t h) s) fun u => (u.head h).aux = none ∧ u.on (F.TX_AUX_CTRL.aux_busy h) = false
        ∧ u.rd (F.TX_AUX_CTRL.result h) = 2)
    ∧ ((s.head h).aux = some a → a.sent = false → Answers (exec (.auxDeferRetry t h) s) (· = z))
    ∧ (s.on (F.TX_AUX_CTRL.aux_busy h) = true → (s.head h).aux = some a → a.ends r = true → Answers (exec (.auxComplete t h r) s) fun u =>
      u.on (F.TX_AUX_CTRL.aux_busy h) = false ∧ (u.head h).aux = none ∧ u.on (F.TX_IRQ.aux_done h) = true
      ∧ u.rd (F.TX_AUX_CTRL.result h) = (match r with | .ack _ => 0 | .nack => 1 | .deferred => 2 | .timeout => 3))
    ∧ ((s.head h).aux = some a → a.ends r = false → Answers (exec (.auxComplete t h r) s) fun u => u.regs = s.regs ∧ u.heads = s.heads)

/-- Panel self refresh, the tearing-effect input and the mirror: the SDP waiting goes out; a TE edge is timestamped; silence of the panel, and
absence of a source, raise their faults; a head's segment or hold packet leaves it but from a Shadow, and a hold packet names the frame to
hold. -/
def Obligations.HeadPanelsAndMirrors : Prop :=
  ∀ (s : State) (t h n y first : Nat) (b : Bool) (p : List Byte), h < 24 →
    let now := max s.now t
    let z := s.at t
    let src := 256 * s.rd F.PEL_SELF.chip_number + h
    let taps := s.on (F.TX_MIRROR.tap_en h) = true ∧ s.headPresent h = true ∧ s.ringHeads src = []
    let sent := fun (b : List Byte) =>
      z.sendFrame 8 (b2n (Config.mirrorPortB s.gs.digest h)) ((Config.mirrorDest s.gs.digest h ++ b).map (·.toNat))
    ((s.head h).psr = some b → Answers (exec (.psrSdpSend t h) s) fun u => (u.head h).psr = none ∧ u.out = .display h 2 [b2n b] :: s.out
      ∧ u.regs = s.regs)
    ∧ (s.locked = false → s.isPrimary = false → s.on (F.TX_TE.te_en h) = true → s.headState h ≠ 0 → s.now ≤ t →
      Answers (exec (.teEdge t h) s) fun u => u.rd64 (R.TX_TE_TIME h) = nsOf t % 2 ^ 64 ∧ (u.head h).teFrames = 0
        ∧ u.rd (F.TX_TE_PHASE.phase h) = wrap 32 ((nsOf t : Int) - nsOf (s.teNearest h t))
        ∧ (100 * s.rd (F.TX_TE.te_window h) < ((nsOf t : Int) - nsOf (s.teNearest h t)).natAbs → u.on (F.TX_STATUS.te_phase h) = true))
    ∧ (s.on (F.TX_TE.te_en h) = true → s.headState h ≠ 0 → s.rd (F.TX_TE.te_timeout h) ≤ (s.head h).teFrames → Answers (exec (.teSilent t h) s) fun u =>
      u.on (F.TX_STATUS.te_silent h) = true ∧ u.on (F.TX_IRQ.te_fault h) = true ∧ (u.head h).teFrames = 0 ∧ u.rd (F.FAULT_SRC.state (88 + h)) ≠ 0)
    ∧ (s.headState h = 3 → s.rd (F.TX_REMOTE.absent_frames h) ≤ (s.head h).absent → s.on (F.TX_STATUS.source_absent h) = false →
      Answers (exec (.sourceAbsent t h) s) fun u => u.on (F.TX_STATUS.source_absent h) = true ∧ u.on (F.TX_IRQ.source_change h) = true
        ∧ u.rd (F.FAULT_SRC.state 221) ≠ 0)
    ∧ (taps → s.isShadow = false → (s.job h n y).bind (fun j => s.mirrorSegment j first) = some p →
      Answers (exec (.mirrorPacketSend t h n (some (y, first))) s) (· = sent p))
    ∧ (taps → s.isShadow = false → s.headState h = 0 ∨ s.headState h = 2 → Answers (exec (.mirrorPacketSend t h n none) s)
      (· = sent (mirrorPacket 1 (4 * b2n (s.bpc10 h)) src n 0 0 0 (nsOf ((s.beam h).time n 0 0)) [])))
    ∧ (taps → s.isShadow = true → Answers (exec (.mirrorPacketSend t h n none) s) (· = z)
      ∧ Answers (exec (.mirrorPacketSend t h n (some (y, first))) s) (· = z))
    ∧ (leAt p 0 2 = 1 → leAt p 2 1 = 1 → s.ringHeads (leAt p 4 4) = [h] → now + (s.beam h).tf < (s.beam h).time (leAt p 8 8) (s.beam h).vactive 0 →
      Answers (exec (.mirrorPacketReceive t p) s) fun u => leAt p 8 8 ∈ (u.head h).holds ∧ (u.head h).packet = true
        ∧ (u.head h).absent = 0 ∧ u.on (F.TX_STATUS.source_absent h) = false ∧ MemSame s u
        ∧ (s.on (F.TX_STATUS.source_absent h) = true → (u.head h).mirrorFrom = leAt p 8 8 + 1))
    ∧ (leAt p 0 2 = 1 → leAt p 2 1 = 0 → s.ringHeads (leAt p 4 4) = [h] → bit (leAt p 3 1) 2 ≠ s.bpc10 h →
      Answers (exec (.mirrorPacketReceive t p) s) fun u => u.rd (F.TX_REMOTE_RING.discarded h)
        = min (s.rd (F.TX_REMOTE_RING.discarded h) + 1) (F.TX_REMOTE_RING.discarded h).max ∧ MemSame s u ∧ u.heads = s.heads)

/-- Seals and records: the digest of a line sent whole, the seal of a band, and the record at the front of the signing queue, which leaves it
for the ring and the archive. -/
def Obligations.SealsAndRecords : Prop :=
  ∀ (s : State) (t h n y k : Nat),
    (∀ j, s.job h n y = some j → j.head = h → j.sent.length = s.rd (F.BEAM_H.hactive h) → (s.head h).frame = n →
      Answers (exec (.lineDigestComplete t h n y) s) fun u =>
        mget (fun _ => ([], 0)) (u.head h).digests y = (sha512 (s.lineMessage j), s.lineFlags j)
        ∧ (∀ i, i ≠ y → mget (fun _ => ([], 0)) (u.head h).digests i = mget (fun _ => ([], 0)) (s.head h).digests i)
        ∧ (∀ g, g ≠ h → u.head g = s.head g) ∧ { u with heads := s.heads } = s.at t)
    ∧ ((s.head h).frame = n → (s.head h).started = true → k < s.bands h → Answers (exec (.bandSealComplete t h n k) s) fun u =>
      mget (fun _ => []) (u.head h).seals k = s.bandSeal h n k ∧ (u.head h).digests = (s.head h).digests ∧ { u with heads := s.heads } = s.at t)
    ∧ (∀ r rest, s.records = r :: rest → rest.length < 128 → Answers (exec (.recordSigned t) s) fun u =>
      let signed := !bit (leAt r.body 6 2) 11
      let b := r.body ++ (if signed then slice (ed25519Sign (s.recordSeed (leAt r.body 63 1)) r.body) 0 64 else List.replicate 64 0#8)
      u.records = rest ∧ u.rd F.CHAIN_STATUS.queue_depth = rest.length
        ∧ u.rd F.CHAIN_REC_WR.count = (s.rd F.CHAIN_REC_WR.count + 1) % (F.CHAIN_REC_WR.count.max + 1)
        ∧ u.rd64 R.CHAIN_SIGNED = (s.rd64 R.CHAIN_SIGNED + if signed then 1 else 0) % 2 ^ 64
        ∧ u.sb.handed.getLast? = some (1, r.head, nsOf r.start, b) ∧ u.heads = s.heads)

/-- A Tandem starts, a chip joins its twin, and the copy and the cutover that bring both into lockstep: which controller state and role each
input leads to, what a joiner receives, and why a joiner is refused. -/
def Obligations.TandemJoin : Prop :=
  ∀ (s : State) (t twin : Nat) (fromTwin auth : Bool) (digest : List Byte) (blocks : List (Nat × List Byte)) (words : List (Nat × Word)) (o : Int)
    (queue : List (List Byte)) (cores : List (Nat × List Byte)) (locals : List (Nat × Nat × List Byte))
    (voices : List (Nat × List Int)),
    let st := s.rd F.TANDEM_STATUS.state
    let now := max s.now t
    let at_ := fun (u : State) (x role : Nat) => u.rd F.TANDEM_STATUS.state = x ∧ u.rd F.TANDEM_STATUS.role = role
    let refused := fun (u : State) (r : Nat) => at_ u 0 0 ∧ u.rd F.TANDEM_STATUS.refusal = r ∧ u.tandem.joining = false
    let free := s.gs.paired = true ∧ s.forcedSolo = false
    let asked := st = 0 ∧ s.tandem.rejoin = true ∨ st = 4 ∧ (s.tandem.rejoin = true ∨ s.on F.TANDEM_CTRL.auto_rejoin = true)
    (free → st = 0 → twin = 0 ∨ twin = 1 ∧ s.twinIndex = 0 → Answers (exec (.tandemStartRole t twin) s) fun u => at_ u 1 1
      ∧ (s.twinIndex = 0 → ∀ h, h < 24 → u.netOwns h = true) ∧ (s.twinIndex ≠ 0 → u.tandem = s.tandem))
    ∧ (free → st = 0 → twin = 2 ∨ twin = 1 ∧ s.twinIndex = 1 →
      Answers (exec (.tandemStartRole t twin) s) (· = { s.at t with tandem.rejoin := true }))
    ∧ (¬ free ∨ st ≠ 0 → Answers (exec (.tandemStartRole t twin) s) (· = s.at t))
    ∧ (free → asked → digest ≠ s.gs.digest → Answers (exec (.tandemRejoin t false digest auth) s) (refused · 1))
    ∧ (free → asked → Answers (exec (.tandemRejoin t false s.gs.digest false) s) (refused · 2))
    ∧ (free → asked → Answers (exec (.tandemRejoin t false s.gs.digest true) s) fun u => at_ u 2 (s.rd F.TANDEM_STATUS.role)
      ∧ u.rd F.TANDEM_STATUS.refusal = 0 ∧ u.tandem.joining = true ∧ u.tandem.joinStart = now ∧ u.tandem.rejoin = false)
    ∧ (free → ¬ asked → Answers (exec (.tandemRejoin t false digest auth) s) (· = s.at t))
    ∧ (free → st = 1 → s.isPrimary = true → Answers (exec (.tandemRejoin t true s.gs.digest true) s) fun u => at_ u 2 1 ∧ u.tandem.joining = false)
    ∧ (free → st ≠ 1 ∨ digest ≠ s.gs.digest ∨ auth = false → Answers (exec (.tandemRejoin t true digest auth) s) (· = s.at t))
    ∧ (¬ free → Answers (exec (.tandemRejoin t fromTwin digest auth) s) (· = s.at t))
    ∧ (s.tandem.joining = true → st = 2 → 5940 * 2000000 + s.tandem.joinStart ≤ now → s.tandem.follows = false →
      Answers (exec (.rejoinTimeTimeout t) s) (refused · 3))
    ∧ (s.tandem.follows = true → Answers (exec (.rejoinTimeTimeout t) s) (· = s.at t))
    ∧ (st = 2 → s.tandem.joining = false → Answers (exec (.stateCopyComplete t blocks words) s) (· = { s.at t with tandem.copyDone := true }))
    ∧ (st = 2 → s.tandem.joining = true → Answers (exec (.stateCopyComplete t blocks words) s) fun u =>
      u.tandem = { s.tandem with copyDone := true } ∧ u.regs = s.regs ∧ u.cores = s.cores
        ∧ (∀ a, (∀ b ∈ blocks, a < b.1 ∨ b.1 + b.2.length ≤ a) → u.memByte a = s.memByte a)
        ∧ (∀ bs b i, blocks = bs ++ [b] → i < b.2.length → u.memByte (b.1 + i) = b.2.getD i 0#8)
        ∧ (∀ b ∈ blocks, ∀ w, b.1 ≤ 8 * w → 8 * w < b.1 + b.2.length → u.flips w = 0#72)
        ∧ (∀ a, a ∉ words.map (·.1) → u.arr a = s.arr a) ∧ ∀ ws w, words = ws ++ [w] → u.arr w.1 = w.2)
    ∧ (st = 2 → s.tandem.copyDone = true → (s.at t).chipLatch = true → s.tandem.joining = false →
      Answers (exec (.cutoverHoldStart t words queue cores locals voices) s) (· = { s.at t with tandem.hold := true }))
    ∧ (st = 2 → s.tandem.copyDone = true → (s.at t).chipLatch = true → s.tandem.joining = true → Answers (exec (.cutoverHoldStart t words queue cores locals voices) s) fun u => u.tandem = { s.tandem with hold := true }
      ∧ RegsSame s u (words.map (·.1)) ∧ (∀ ws w, words = ws ++ [w] → u.reg w.1 = w.2) ∧ u.der.queue = queue.map derEntryOf
      ∧ (∀ cs c, cores = cs ++ [c] → (u.core c.1).pc = coreWord c.2 4 ∧ (u.core c.1).a = coreWord c.2 0 ∧ (u.core c.1).x = coreWord c.2 1
        ∧ (u.core c.1).y = coreWord c.2 2 ∧ (u.core c.1).sp = coreWord c.2 3 ∧ (u.core c.1).cop = copOf c.2)
      ∧ (∀ k, k ∉ cores.map (·.1) → k ∉ locals.map (·.1) → u.core k = s.core k)
      ∧ (∀ ls k a bs, locals = ls ++ [(k, a, bs)] → a + bs.length ≤ 0x1_0000 ∨ 0x1_0000 ≤ a → u.localRead k a bs.length = bs)
      ∧ (∀ vs v, voices = vs ++ [v] → mget (fun _ => {}) u.bell.voices v.1 = voiceOf v.2) ∧ (voices = [] → u.bell = s.bell))
    ∧ (st ≠ 2 ∨ s.tandem.copyDone = false ∨ (s.at t).chipLatch = false → Answers (exec (.cutoverHoldStart t words queue cores locals voices) s) (· = s.at t))
    ∧ (s.tandem.hold = true → s.ing.queue = [] → s.ing.writes = [] → Answers (exec (.cutoverHoldEnd t) s) fun u => at_ u 3 (if s.tandem.joining = true then 2 else 1)
      ∧ u.rd F.TANDEM_STATUS.rejoins = (s.rd F.TANDEM_STATUS.rejoins + 1) % 65536 ∧ u.tandem.hold = false ∧ u.tandem.joining = false
      ∧ u.tandem.lockedAt = now ∧ u.tandem.held = [] ∧ ∀ k, k < 32 → (u.wdog k).reload = now)
    ∧ (s.tandem.hold = false → Answers (exec (.cutoverHoldEnd t) s) (· = s.at t))
    ∧ Answers (exec (.twinLinkUp t) s) (fun u => u.on F.TANDEM_STATUS.link_up = true ∧ u.on F.TANDEM_STATUS.twin_alive = true
      ∧ u.tandem = { s.tandem with hbLost := false } ∧ at_ u st (s.rd F.TANDEM_STATUS.role) ∧ RegsSame s u [R.TANDEM_STATUS])
    ∧ (s.locked = true → s.isShadow = true → 20 < o.natAbs → Answers (exec (.twinTimeTransfer t o) s) fun u => at_ u 4 2
      ∧ u.tandem.offset = o ∧ Output.message 9 3 [] ∈ u.out ∧ u.rd F.TANDEM_DIVERGE.events = min (s.rd F.TANDEM_DIVERGE.events + 1) 255 ∧ u.rd (F.FAULT_SRC.state 201) ≠ 0)
    ∧ (s.locked = false ∨ s.isShadow = false ∨ o.natAbs ≤ 20 → Answers (exec (.twinTimeTransfer t o) s) fun u => u.regs = s.regs
      ∧ u.tandem = { s.tandem with offset := o, follows := if s.tandem.joining = true then decide (o.natAbs ≤ 10) else s.tandem.follows })

/-- Lockstep at work and its end: seals compared, takeovers asked for and their nets, the loss of the twin or of its link, held frames,
a handover, and what the journal releases. -/
def Obligations.TandemLockstep : Prop :=
  ∀ (s : State) (t h heads time : Nat) (twin : List Byte) (mis high twinBist twinHalt : Bool) (d : Takeover) (i : JInput),
    let st := s.rd F.TANDEM_STATUS.state
    let now := max s.now t
    let at_ := fun (u : State) (x role : Nat) => u.rd F.TANDEM_STATUS.state = x ∧ u.rd F.TANDEM_STATUS.role = role
    let split := fun (u : State) => (if s.isPrimary = true then at_ u 1 1 else at_ u 4 2) ∧ u.rd (F.FAULT_SRC.state 201) ≠ 0
      ∧ u.rd F.TANDEM_DIVERGE.events = min (s.rd F.TANDEM_DIVERGE.events + 1) 255
      ∧ ∀ j, j < 24 → s.headPresent j = true → s.netOwns j = s.isShadow → s.headState j ≠ 0 →
        (⟨j, 5, 0, now⟩ : Takeover) ∈ u.tandem.decided
    let compared := s.locked = true ∧ s.headPresent h = true ∧ (s.at t).comparable h = true
    let unhalted := s.tandem.haltDiverge = false ∧ twinHalt = false
    (¬ compared → Answers (exec (.sealCompare t h twin mis twinBist twinHalt) s) (· = s.at t))
    ∧ (compared → unhalted → s.lastSeal h = twin → Answers (exec (.sealCompare t h twin mis twinBist twinHalt) s) fun u => u.locked = true
      ∧ bit u.tandem.equalHeads h = true ∧ u.tandem.twinBist = twinBist ∧ RegsSame s u [R.TANDEM_STATUS]
      ∧ ((∀ j, j < 24 → s.headPresent j = true → s.headState j ≠ 3 → bit u.tandem.equalHeads j = true) →
        (if s.isShadow = true then s.ownUnproven else twinBist) = false → u.on F.TANDEM_STATUS.eligible = true))
    ∧ (compared → h < 24 → unhalted → s.lastSeal h ≠ twin → s.lastRemote h = true → Answers (exec (.sealCompare t h twin mis twinBist twinHalt) s) fun u => u.locked = true
      ∧ u.rd F.TANDEM_DIVERGE.remote = min (s.rd F.TANDEM_DIVERGE.remote + 1) 65535 ∧ u.rd F.TANDEM_DIVERGE.head = h
      ∧ u.rd (F.FAULT_SRC.state 222) ≠ 0)
    ∧ (compared → h < 24 → unhalted → s.lastSeal h ≠ twin → s.lastRemote h = false → s.lastMismatch h ≠ mis → Answers (exec (.sealCompare t h twin mis twinBist twinHalt) s) fun u =>
      u.rd F.TANDEM_DIVERGE.head = h ∧ RegsSame s u [R.TANDEM_DIVERGE] ∧ { u with regs := s.regs } = { s.at t with tandem.twinBist := twinBist })
    ∧ (compared → s.tandem.haltDiverge = true ∨ twinHalt = true ∨ s.lastSeal h ≠ twin ∧ s.lastRemote h = false ∧ s.lastMismatch h = mis → Answers (exec (.sealCompare t h twin mis twinBist twinHalt) s) split)
    ∧ (s.rd F.TANDEM_STATUS.role ≠ 0 → Answers (exec (.tandemTakeReq t heads) s) fun u => u.regs = s.regs ∧ s.tandem.decided <+: u.tandem.decided
      ∧ ∀ j, j < 24 → bit heads j = true → if s.headState j ≠ 0 then (⟨j, 2, 0, now⟩ : Takeover) ∈ u.tandem.decided
        else u.tandem.decided.filter (·.head == j) = s.tandem.decided.filter (·.head == j))
    ∧ (s.rd F.TANDEM_STATUS.role = 0 → Answers (exec (.tandemTakeReq t heads) s) (· = s.at t))
    ∧ (s.tandem.armed.find? (·.head == h) = some d → Answers (exec (.takeNetChange t h) s) fun u => u.tandem.armed = s.tandem.armed.erase d
      ∧ u.netOwns h = (!s.netOwns h) ∧ (∀ j, j ≠ h → u.netOwns j = s.netOwns j) ∧ u.rd F.TANDEM_LAST_TAKE.cause = d.cause % 8
      ∧ u.rd F.TANDEM_LAST_TAKE.head = h % 32 ∧ u.rd64 R.TANDEM_LAST_TAKE_FRAME = d.frame % 2 ^ 64)
    ∧ (s.tandem.armed.find? (·.head == h) = none → Answers (exec (.takeNetChange t h) s) (· = s.at t))
    ∧ (bit s.tandem.expected h = high → Answers (exec (.takeNetDisagree t h high) s) (· = { s.at t with tandem.net := setBit s.tandem.net h high }))
    ∧ (bit s.tandem.expected h ≠ high → Answers (exec (.takeNetDisagree t h high) s) fun u => u.rd (F.FAULT_SRC.state 201) ≠ 0
      ∧ u.tandem.net = setBit s.tandem.net h high)
    ∧ (s.locked = true → Answers (exec (.twinLost t) s) fun u => ∃ v, u = s.tandem.held.foldl (fun x j => x.takeHeld j.2) v ∧ at_ v 1 1
      ∧ v.tandem.decided = [] ∧ v.tandem.armed = [] ∧ v.tandem.handover = false ∧ (s.isShadow = true → v.sb.current = none)
      ∧ v.on F.TANDEM_STATUS.link_up = false ∧ v.on F.TANDEM_STATUS.twin_alive = false ∧ v.tandem.held = []
      ∧ ∀ j, j < 24 → if s.headState j = 0 then v.netOwns j = s.netOwns j else v.netOwns j = true)
    ∧ (st = 2 → Answers (exec (.twinLost t) s) fun u => (if s.tandem.joining = true then at_ u 0 0 else at_ u 1 1) ∧ u.tandem.hold = false)
    ∧ (st ≠ 2 → st ≠ 3 → Answers (exec (.twinLost t) s) fun u => at_ u st (s.rd F.TANDEM_STATUS.role) ∧ u.tandem = { s.tandem with hbLost := true })
    ∧ Answers (exec (.twinLinkFail t) s) (fun u => u.on F.TANDEM_STATUS.link_up = false
      ∧ (if st = 2 then (if s.tandem.joining = true then at_ u 0 0 else at_ u 1 1) ∧ u.tandem.hold = false
         else if st = 3 then if s.isPrimary = true then at_ u 1 1 else at_ u 4 2
         else at_ u st (s.rd F.TANDEM_STATUS.role) ∧ u.tandem = s.tandem))
    ∧ Answers (exec (.heldFrameExpire t) s) (fun u => (∀ p, p ∈ u.tandem.held ↔ p ∈ s.tandem.held ∧ now < 594000 + p.1)
      ∧ { u with tandem := s.tandem } = s.at t)
    ∧ Answers (exec (.tandemHandover t) s) (fun u => u = { s.at t with tandem.handover := s.tandem.handover || s.locked })
    ∧ (∀ e q, s.tandem.journal = e :: q → e.time ≤ now → (∀ x ∈ q, now < x.time) →
      Answers (exec (.journalEntryRelease t none) s) (· = { s.at t with tandem.journal := q }.journalInput e.input))
    ∧ ((∀ x ∈ s.tandem.journal, now < x.time) → Answers (exec (.journalEntryRelease t none) s) (· = s.at t))
    ∧ (s.locked = true → s.isPrimary = true → Answers (exec (.journalEntryRelease t (some (time, i))) s) (· = (s.at t).fromShadow i))
    ∧ (s.locked = true → s.isPrimary = false → t ≤ time → Answers (exec (.journalEntryRelease t (some (time, i))) s) (· = (s.at time).journalInput i))
    ∧ (s.locked = true → s.isPrimary = false → time < t → Answers (exec (.journalEntryRelease t (some (time, i))) s) fun u => at_ u 4 2
      ∧ u.rd F.TANDEM_JOURNAL.late = min (s.rd F.TANDEM_JOURNAL.late + 1) 65535)
    ∧ (s.locked = false → Answers (exec (.journalEntryRelease t (some (time, i))) s) (· = s.at t))

/-- Membership of a Peloton: joins and their answers, a leave, beats, claims of leadership, a member that fails and one that returns. A
message of another chip acts at once, or in lockstep through the Primary's journal. -/
def Obligations.PelotonMembership : Prop :=
  ∀ (s : State) (t i m f r n : Nat) (held handed resync : Bool) (view : List (Nat × Nat × Nat)) (path : List Nat) (q : JoinReq) (answers : List (Nat × Int)) (b : PelBundle)
    (missed : List PelBundle) (words : List (Nat × List Nat)) (owners : List (Nat × Nat)),
    let in_ := fun (u : State) (st role : Nat) => u.pelState = st ∧ u.pelRole = role
    let free := s.gs.pelotonRole ≠ 0 ∧ s.forcedSolo = false ∧ s.pelState < 2
    let acts := s.isPrimary = false ∧ s.locked = false
    let now := max s.now t
    let beats := s.on F.ODO_STATUS.released = true ∧ s.gs.chipT0 ≤ now ∧ (now - s.gs.chipT0) % s.gs.chipTf = 0
    let close := 594000 * s.rd F.PEL_GUARD.close_guard
    let stands := if s.pelLeads = true then s.mayLead = true ∧ s.selfIndex < i
      else handed = false ∧ s.pel.missedBeats < 3 ∧ s.rd F.PEL_STATUS.leader < i
    let passed := fun k => s.pel.owners.filterMap fun p => if p.2 = some k then some (p.1, s.selfIndex) else none
    let journalled := fun (c : Host.Outcome State Fault Refusal) (x : PelMsg) =>
      if s.isPrimary = true then Answers c (· = { s.at t with tandem.journal := s.tandem.journal ++ [⟨11880 + now, .peloton x⟩] })
      else s.locked = true → Answers c (· = s.at t)
    (s.gs.pelotonRole = 0 ∨ s.forcedSolo = true ∨ s.pelLeads = false ∧ 1 < s.pelState → Answers (exec (.pelotonJoin t none) s) (· = s.at t))
    ∧ (s.gs.pelotonRole ≠ 0 → s.forcedSolo = false → s.pelLeads = true → s.isShadow = false → Answers (exec (.pelotonJoin t none) s) (· =
      { s.at t with out := .message 10 1 [s.selfIndex, s.gs.chipT0, s.gs.chipTf] :: s.out }))
    ∧ (free → s.gs.pelotonRole = 2 → Answers (exec (.pelotonJoin t none) s) fun u => in_ u 2 2 ∧ u.rd F.PEL_STATUS.leader = s.selfIndex
      ∧ u.rd F.PEL_SELF.chip_number = 0 ∧ u.rd F.PEL_STATUS.depth = 2 ∧ u.pel.members.map (fun x => (x.index, x.chips)) = [(s.selfIndex, if s.rd F.TANDEM_STATUS.role = 0 then 1 else 2)]
      ∧ u.pel.path = [0, s.selfIndex])
    ∧ (free → s.gs.pelotonRole ≠ 2 → s.isShadow = false → Answers (exec (.pelotonJoin t none) s) fun u => in_ u 1 0 ∧ u.pel.joinAsked = true
      ∧ u.out = .message 10 1 [s.selfIndex, s.gs.chipT0, s.gs.chipTf] :: s.out)
    ∧ (s.pelLeads = true → s.joinReason q = 0 → Answers (exec (.pelotonJoin t (some q)) s) fun u =>
      u.pel.members = s.pel.members ++ [{ index := q.index, number := s.freeNumber, chips := q.chips, inSet := false }]
        ∧ u.pel.opened = s.pel.opened ++ [⟨s.pel.lastClosed + 1, [], false, [], [], [(q.index, 0)]⟩] ∧ u.regs = s.regs)
    ∧ (s.pelLeads = true → s.joinReason q ≠ 0 → Answers (exec (.pelotonJoin t (some q)) s) fun u => u.pel = s.pel ∧ u.regs = s.regs
      ∧ (s.isShadow = false → u.out = .message 10 2 [q.index, s.joinReason q] :: s.out))
    ∧ (s.pelLeads = false → Answers (exec (.pelotonJoin t (some q)) s) (· = s.at t))
    ∧ (acts → s.pelState = 1 → path.length + (if s.rd F.TANDEM_STATUS.role = 0 then 2 else 3) ≤ 16 →
      Answers (exec (.joinAnswer t 0 f n i path) s) fun u => u.pel = { s.pel with joinFrame := some f, joinPath := path, joinNumber := n }
        ∧ u.rd F.PEL_STATUS.leader = i % 1024 ∧ in_ u 1 s.pelRole ∧ RegsSame s u [R.PEL_STATUS])
    ∧ (acts → s.pelState = 1 → 16 < path.length + (if s.rd F.TANDEM_STATUS.role = 0 then 2 else 3) →
      Answers (exec (.joinAnswer t 0 f n i path) s) fun u => in_ u 0 0 ∧ u.rd F.PEL_STATUS.refusal = 3 ∧ u.pel = s.pel)
    ∧ (acts → s.pelLeads = true → path.length + (if s.rd F.TANDEM_STATUS.role = 0 then 3 else 4) ≤ 16 →
      Answers (exec (.joinAnswer t 0 f n i path) s) (· = { s.at t with pel.joinFrame := some f, pel.joinPath := path, pel.joinNumber := n }))
    ∧ (acts → s.pelLeads = true → r ≠ 0 → Answers (exec (.joinAnswer t r f n i path) s) fun u => u.rd F.PEL_STATUS.refusal = r % 16 ∧ u.pel = s.pel
      ∧ in_ u 2 2)
    ∧ (acts → s.pelState = 1 → r ≠ 0 → Answers (exec (.joinAnswer t r f n i path) s) fun u => in_ u 0 0
      ∧ u.rd F.PEL_STATUS.refusal = r % 16 ∧ u.pel = s.pel)
    ∧ (acts → s.pelState ≠ 1 → s.pelLeads = false → Answers (exec (.joinAnswer t r f n i path) s) (· = s.at t))
    ∧ (s.pelState = 0 → Answers (exec (.pelotonLeave t f) s) (· = { s.at t with pel.joinAsked := false }))
    ∧ (s.pelState = 1 → Answers (exec (.pelotonLeave t f) s) fun u => in_ u 0 0 ∧ u.rd F.PEL_STATUS.depth = 0 ∧ u.pel.members = [])
    ∧ (2 ≤ s.pelState → Answers (exec (.pelotonLeave t f) s) fun u => u.pel = { s.pel with leaveFrame := some f } ∧ u.regs = s.regs)
    ∧ (beats → s.mayLead = true → s.pelLeads = true → Answers (exec (.pelotonBeat t answers) s) fun u => u.pel.members.length = s.pel.members.length ∧ ∀ x ∈ s.pel.members,
      (∀ a, answers.find? (·.1 == x.index) = some a → { x with missed := 0, offset := a.2 } ∈ u.pel.members)
        ∧ (x.index ≠ s.selfIndex → answers.any (·.1 == x.index) = false → { x with missed := x.missed + 1 } ∈ u.pel.members))
    ∧ (s.pelLeads = false → 2 ≤ s.pelState → Answers (exec (.pelotonBeat t answers) s) fun u => u.pel = { s.pel with missedBeats := 0 } ∧ u.regs = s.regs)
    ∧ (s.pelState < 2 ∨ (s.pelLeads = true ∧ (s.mayLead = false ∨ ¬ beats)) → Answers (exec (.pelotonBeat t answers) s) (· = s.at t))
    ∧ (s.mayLead = true → handed = true ∨ 3 ≤ s.pel.missedBeats → Answers (exec (.leaderClaim t s.selfIndex held handed view) s) fun u => in_ u 2 2
      ∧ u.rd F.PEL_STATUS.leader = s.selfIndex ∧ u.pel.missedBeats = 0
      ∧ (∃ x, x.index = s.selfIndex ∧ u.pel.members.head? = some x) ∧ u.pel.members = s.viewMembers view
      ∧ (s.pel.prepared = some b → held = false → u.pel.prepared = none ∧ ∃ g, u.pel.opened = { b with frame := g } :: s.pel.opened
        ∧ (s.gs.chipT0 ≤ now → 0 < s.gs.chipTf → now + close < s.chipStart g ∧ s.chipStart g ≤ now + close + s.gs.chipTf))
      ∧ (s.pel.prepared = some b → held = true → now < s.armAt b.frame → u.pel.decided = some b ∧ u.pel.waiting = some b))
    ∧ (s.mayLead = false ∨ handed = false ∧ s.pel.missedBeats < 3 → Answers (exec (.leaderClaim t s.selfIndex held handed view) s) (· = s.at t))
    ∧ (acts → s.pelState = 2 → i ≠ s.selfIndex → ¬ stands → Answers (exec (.leaderClaim t i held handed view) s) fun u =>
      in_ u 2 1 ∧ u.rd F.PEL_STATUS.leader = i % 1024 ∧ u.pel = { s.pel with missedBeats := 0 })
    ∧ (acts → s.pelState = 2 → i ≠ s.selfIndex → stands → Answers (exec (.leaderClaim t i held handed view) s) (· = s.at t))
    ∧ (s.pelLeads = true → (∃ x ∈ s.pel.members, x.index = m ∧ 3 ≤ x.missed) → Answers (exec (.memberFail t m) s) fun u =>
      (∀ x ∈ u.pel.members, x.index = m → x.inSet = false) ∧ u.regs = s.regs
        ∧ u.pel.opened = s.pel.opened ++ [⟨s.pel.lastClosed + 1, [], false, [], passed m, [(m, 2)]⟩])
    ∧ (s.pelLeads = false ∨ (∀ x ∈ s.pel.members, x.index = m → x.missed < 3) → Answers (exec (.memberFail t m) s) (· = s.at t))
    ∧ (acts → s.pelState = 3 → Answers (exec (.returnRequest t s.selfIndex r missed words owners resync) s) fun u =>
      u.pel.returnAsked = true ∧ u.pel.returnFrame = some r ∧ (resync = true → u.on F.PEL_STATUS.resync_needed = true)
        ∧ s.vtk.framed <+: u.vtk.framed ∧ u.vtk.framed.length = s.vtk.framed.length + (missed.map (·.cmds.length)).sum
        ∧ (∀ ws w, words = ws ++ [w] → mget (fun _ => []) u.pel.words w.1 = w.2)
        ∧ ∀ os o, owners = os ++ [o] → mget (fun _ => none) u.pel.owners o.1 = some o.2)
    ∧ (acts → s.pelState ≠ 3 → Answers (exec (.returnRequest t s.selfIndex r missed words owners resync) s) (· = s.at t))
    ∧ (acts → s.pelLeads = true → m ≠ s.selfIndex → Answers (exec (.returnRequest t m r missed words owners resync) s) fun u =>
      (∀ x ∈ u.pel.members, x.index = m → x.missed = 0) ∧ u.pel.members.map (·.inSet) = s.pel.members.map (·.inSet)
        ∧ (s.isShadow = false → ∀ x ∈ s.pel.members, s.pel.members.length = 1 → x.index = m →
          u.out = .message 10 12 ([m, r, if 64 < x.behind then 1 else 0] ++
            if 64 < x.behind then [] else (s.pel.history.drop (s.pel.history.length - x.behind)).map (·.frame)) :: s.out)
        ∧ u.pel.opened = s.pel.opened ++ [⟨s.pel.lastClosed + 1, [], false, [], [], [(m, 3)]⟩] ∧ u.regs = s.regs)
    ∧ journalled (exec (.joinAnswer t r f n i path) s) (.joinAnswer r f n i path)
    ∧ (i ≠ s.selfIndex → journalled (exec (.leaderClaim t i held handed view) s) (.claim i held handed view))
    ∧ journalled (exec (.returnRequest t m r missed words owners resync) s) (.returned m r missed words owners resync)

/-- Group commit: a bundle is closed with what came before, staged, answered READY, committed or sent back to the next frame as a whole,
and armed; what a member without a decision, and a leader without acknowledgements, then do. -/
def Obligations.PelotonBundles : Prop :=
  ∀ (s : State) (t m f w : Nat) (b : PelBundle),
    let now := max s.now t
    let self := s.selfIndex
    let due := s.pel.opened.filter fun o => decide (o.frame ≤ b.frame)
    let sample := (List.range 8).map fun k => leAt (s.memBytes (s.wallSrc w) 32) (4 * k) 4
    let ready := fun (x : PelMember) => x.inSet = false ∨ x.index ∈ s.pel.readySet
    let retargeted := fun (u : State) => u.rd F.PEL_COMMIT_STATS.retargets = min (s.rd F.PEL_COMMIT_STATS.retargets + 1) 255
      ∧ u.on F.PEL_IRQ.retarget = true
    let acts := s.isPrimary = false ∧ s.locked = false
    let journalled := fun (c : Host.Outcome State Fault Refusal) (x : PelMsg) =>
      if s.isPrimary = true then Answers c (· = { s.at t with tandem.journal := s.tandem.journal ++ [⟨11880 + now, .peloton x⟩] })
      else s.locked = true → Answers c (· = s.at t)
    (s.pelLeads = true → now = s.closeAt b.frame → Answers (exec (.bundleClose t b) s) fun u => u.regs = s.regs ∧ u.pel.lastClosed = b.frame ∧ u.pel.readySet = []
      ∧ u.pel.prepared = u.pel.closed ∧ u.pel.samples = [] ∧ (∀ o ∈ u.pel.opened, b.frame < o.frame)
      ∧ ∃ x, u.pel.closed = some x ∧ x.frame = b.frame ∧ x.cmds = due.flatMap (·.cmds) ++ b.cmds ∧ x.members = due.flatMap (·.members) ++ b.members
        ∧ x.apply = (due.any (·.apply) || b.apply) ∧ b.samples <:+ x.samples ∧ b.owners <:+ x.owners)
    ∧ (s.pelLeads = false ∨ now ≠ s.closeAt b.frame → Answers (exec (.bundleClose t b) s) (· = s.at t))
    ∧ (acts → s.pelState = 2 → s.pelRole = 1 → Answers (exec (.prepareReceive t b) s) (· =
      { s.at t with pel.prepared := some b, pel.ready := false, pel.samples := [] }))
    ∧ (acts → s.pelState ≠ 2 ∨ s.pelRole ≠ 1 → Answers (exec (.prepareReceive t b) s) (· = s.at t))
    ∧ (s.pel.prepared = some b → s.partReady b = true → now < s.decideAt b.frame → Answers (exec (.ready t self b.frame) s) fun u =>
      u.pel.ready = true ∧ u.regs = s.regs ∧ (s.pelLeads = true → s.pel.closed.map (·.frame) = some b.frame → u.pel.readySet = self :: s.pel.readySet))
    ∧ (s.pel.prepared = some b → s.partReady b = true → s.decideAt b.frame ≤ now → Answers (exec (.ready t self b.frame) s) fun u =>
      u.rd F.PEL_COMMIT_STATS.late_ready = min (s.rd F.PEL_COMMIT_STATS.late_ready + 1) 255 ∧ u.pel = s.pel)
    ∧ (s.pel.prepared = none → 2 ≤ s.pelState → s.decideAt f ≤ now → Answers (exec (.ready t self f) s) fun u =>
      u.rd F.PEL_COMMIT_STATS.late_ready = min (s.rd F.PEL_COMMIT_STATS.late_ready + 1) 255 ∧ u.pel = s.pel)
    ∧ (s.pel.prepared = some b → s.partReady b = false → s.pel.ready = false → Answers (exec (.ready t self b.frame) s) (· = s.at t))
    ∧ (acts → m ≠ self → s.pelLeads = true → s.pel.closed.map (·.frame) = some f → now < s.decideAt f →
      Answers (exec (.ready t m f) s) (· = { s.at t with pel.readySet := m :: s.pel.readySet }))
    ∧ (acts → m ≠ self → s.pelLeads = false ∨ s.decideAt f ≤ now → Answers (exec (.ready t m f) s) (· = s.at t))
    ∧ (s.pelLeads = true → s.pel.closed = some b → now = s.decideAt b.frame → (∀ x ∈ s.pel.members, ready x) → Answers (exec (.bundleDecide t) s) fun u =>
      u.pel.closed = none ∧ u.pel.waiting = some b ∧ u.pel.decided = some b ∧ u.pel.acked = [] ∧ u.pel.history.getLast? = some b
        ∧ u.pel.opened = s.pel.opened ∧ u.regs = s.regs
        ∧ u.pel.members.map (·.behind) = s.pel.members.map fun x => if x.inSet = true then 0 else x.behind + 1)
    ∧ (s.pelLeads = true → s.pel.closed = some b → now = s.decideAt b.frame → (∃ x ∈ s.pel.members, ¬ ready x) → Answers (exec (.bundleDecide t) s) fun u =>
      u.pel.closed = none ∧ u.pel.waiting = s.pel.waiting ∧ u.pel.decided = s.pel.decided ∧ u.pel.prepared = none
        ∧ { b with frame := b.frame + 1 } ∈ u.pel.opened ∧ retargeted u
        ∧ ∀ x ∈ s.pel.members, ¬ ready x → s.rd F.PEL_GUARD.max_retarget ≤ x.retargets + 1 → ∀ y ∈ u.pel.members, y.index = x.index → y.inSet = false)
    ∧ (s.pelLeads = false ∨ s.pel.closed = none ∨ (s.pel.closed = some b ∧ now ≠ s.decideAt b.frame) →
      Answers (exec (.bundleDecide t) s) (· = s.at t))
    ∧ (acts → s.pel.prepared = some b → s.pel.ready = true → Answers (exec (.commitReceive t self b.frame) s) fun u =>
      u.pel = { s.pel with decided := some b } ∧ u.regs = s.regs ∧ (s.isShadow = false → u.out = .message 10 11 [self, b.frame] :: s.out))
    ∧ (acts → s.pel.ready = false → Answers (exec (.commitReceive t self f) s) (· = s.at t))
    ∧ (acts → m ≠ self → s.pelLeads = true → s.pel.waiting.map (·.frame) = some f →
      Answers (exec (.commitReceive t m f) s) (· = { s.at t with pel.acked := m :: s.pel.acked }))
    ∧ (acts → 2 ≤ s.pelState → s.pelRole = 1 → Answers (exec (.retargetReceive t f) s) fun u => retargeted u
      ∧ RegsSame s u [R.PEL_COMMIT_STATS, R.PEL_IRQ]
      ∧ (if s.pel.prepared.map (·.frame) = some f then u.pel = { s.pel with prepared := none, ready := false } else u.pel = s.pel))
    ∧ (acts → s.pelState < 2 ∨ s.pelRole ≠ 1 → Answers (exec (.retargetReceive t f) s) (· = s.at t))
    ∧ (s.pelState = 2 → now = s.armAt b.frame → s.pel.decided = some b → Answers (exec (.bundleArm t b.frame) s) fun u => u.pel.decided = none ∧ u.pel.prepared = none
      ∧ s.vtk.framed <+: u.vtk.framed
      ∧ ∀ h, h < 24 → s.headPresent h = true → ∃ a ∈ u.pel.armed, a.head = h ∧ a.bundle = b.frame ∧ a.frame = s.headFrameAt h (s.pelStart b.frame))
    ∧ (s.pelState = 2 → now = s.armAt b.frame → s.pel.decided = none → s.pel.prepared = some b → s.pel.ready = true → Answers (exec (.bundleArm t b.frame) s) fun u =>
      u.pelState = 3 ∧ u.pel.prepared = none ∧ u.rd (F.FAULT_SRC.state 203) ≠ 0 ∧ u.on F.PEL_IRQ.withdrawn = true
        ∧ u.rd F.PEL_COMMIT_STATS.withdrawals = min (s.rd F.PEL_COMMIT_STATS.withdrawals + 1) 255)
    ∧ (s.pelState = 2 → now = s.armAt f → s.pel.decided = none → s.pel.prepared = none → s.ownedSprites = [w] → s.Clean (s.wallSrc w) 32 →
      Answers (exec (.bundleArm t f) s) (· = { s.at t with
        pel.samples := (s.pel.samples.filter (·.1 != w)) ++ [(w, sample)]
        out := if s.pelLeads = true ∨ s.isShadow = true then s.out else .message 10 16 (w :: sample) :: s.out }))
    ∧ (s.pelState ≠ 2 ∨ now ≠ s.armAt f → Answers (exec (.bundleArm t f) s) (· = s.at t))
    ∧ (s.pelLeads = true → s.pel.waiting = some b → now = s.pelStart b.frame → Answers (exec (.ackDeadline t) s) fun u => u.pel.waiting = none ∧ u.regs = s.regs
      ∧ ∀ x ∈ s.pel.members, x.inSet = true → x.index ≠ self → x.index ∉ s.pel.acked →
        (∀ y ∈ u.pel.members, y.index = x.index → y.inSet = false) ∧ ∃ o ∈ u.pel.opened, o.members = [(x.index, 2)] ∧ o.owners = s.passedSprites x.index)
    ∧ (s.pelLeads = false → s.pel.waiting = some b → now = s.pelStart b.frame → Answers (exec (.ackDeadline t) s) (· = { s.at t with pel.waiting := none }))
    ∧ (s.pel.waiting = none ∨ (s.pel.waiting = some b ∧ now ≠ s.pelStart b.frame) → Answers (exec (.ackDeadline t) s) (· = s.at t))
    ∧ journalled (exec (.prepareReceive t b) s) (.prepare b)
    ∧ (m ≠ self → journalled (exec (.ready t m f) s) (.ready m f))
    ∧ journalled (exec (.commitReceive t m f) s) (.commit m f)
    ∧ journalled (exec (.retargetReceive t f) s) (.retarget f)

/-- The Ethernet ports: a frame passes the steps of reception in order or is discarded at the first it fails, with its reason counted; the
PRP table, supervision frames, link changes and peer-delay messages. -/
def Obligations.EthernetFrames : Prop :=
  ∀ (s : State) (t p q lan mac r : Nat) (codeword fcs room up : Bool) (b : List Byte) (e : PrpEntry) (d : Int), p < 2 →
    let now := max s.now t
    let f := parseFrame b
    let dropped := fun (r : Nat) (u : State) => u.rd (F.ETH_RX_DROP.count p r) = min (s.rd (F.ETH_RX_DROP.count p r) + 1) (2 ^ 32 - 1)
      ∧ u.on (F.ETH_STATUS.fec_uncorr p) = (codeword || s.on (F.ETH_STATUS.fec_uncorr p))
      ∧ RegsSame s u [R.ETH_RX_DROP p r, R.ETH_STATUS p] ∧ { u with regs := s.regs } = s.at t
    let here := s.portPresent p = true
    let sized := here ∧ codeword = false ∧ fcs = true ∧ 60 ≤ b.length ∧ b.length + 4 ≤ s.rd (F.ETH_CTRL.mtu p)
    let taken := sized ∧ s.addressOk p f = true ∧ s.vlanOk p f = true
    let plain := taken ∧ (s.on (F.ETH_MODE.prp p) = false ∨ f.type = 0x88F7 ∨ prpTrailer b = none)
    let tagged := taken ∧ s.on (F.ETH_MODE.prp p) = true ∧ f.type ≠ 0x88F7 ∧ prpTrailer b = some (q, lan)
    let known := s.eth.prp.filter fun x => decide (now < 5940 * 400000 + x.last)
    let sent := fun (kind : Nat) (fields : List Nat) =>
      if s.on (F.ETH_MODE.prp 0) = true then
        .message 13 kind (1 :: (s.eth.prpSeq + 1) :: fields) :: .message 13 kind (0 :: (s.eth.prpSeq + 1) :: fields) :: s.out
      else .message 13 kind (p :: 0 :: fields) :: s.out
    let numbered := if s.on (F.ETH_MODE.prp 0) = true then (s.eth.prpSeq + 1) % 65536 else s.eth.prpSeq
    let source := if s.isShadow = true then (Config.factoryMac p).toNat else s.portMac p
    (here → codeword = true ∨ fcs = false → Answers (exec (.frameReceive t p codeword fcs room b) s) (dropped 0))
    ∧ (here → codeword = false → fcs = true → b.length < 60 ∨ s.rd (F.ETH_CTRL.mtu p) < b.length + 4 → Answers (exec (.frameReceive t p codeword fcs room b) s) (dropped 1))
    ∧ (sized → s.addressOk p f = false → Answers (exec (.frameReceive t p codeword fcs room b) s) (dropped 2))
    ∧ (sized → s.addressOk p f = true → s.vlanOk p f = false → Answers (exec (.frameReceive t p codeword fcs room b) s) (dropped 3))
    ∧ (plain → s.classify p f = .drop r → Answers (exec (.frameReceive t p codeword fcs room b) s) (dropped r))
    ∧ (plain → room = false → (∀ r, s.classify p f ≠ .drop r) → Answers (exec (.frameReceive t p codeword fcs room b) s) (dropped 7))
    ∧ (plain → room = true → (∀ r, s.classify p f ≠ .drop r) → s.classify p f ≠ .arp → s.classify p f ≠ .echo → Answers (exec (.frameReceive t p codeword fcs room b) s) (· = s.at t))
    ∧ (plain → room = true → s.classify p f = .arp → s.isShadow = false → Answers (exec (.frameReceive t p codeword fcs room b) s) fun u =>
      u.out = sent 2 (b.map (·.toNat)) ∧ u.eth = { s.eth with prpSeq := numbered } ∧ u.regs = s.regs)
    ∧ (plain → room = true → s.classify p f = .arp ∨ s.classify p f = .echo → s.isShadow = true → Answers (exec (.frameReceive t p codeword fcs room b) s) (· = s.at t))
    ∧ (plain → room = true → s.classify p f = .echo → s.isShadow = false → (mget (fun _ => (0, 0)) s.eth.answers p).1 = now / 5940000000 →
      if 100 ≤ (mget (fun _ => (0, 0)) s.eth.answers p).2 then Answers (exec (.frameReceive t p codeword fcs room b) s) (dropped 5)
      else Answers (exec (.frameReceive t p codeword fcs room b) s) fun u => u.out = sent 3 (b.map (·.toNat)) ∧ u.eth.prpSeq = numbered
        ∧ mget (fun _ => (0, 0)) u.eth.answers p = (now / 5940000000, (mget (fun _ => (0, 0)) s.eth.answers p).2 + 1) ∧ u.regs = s.regs)
    ∧ (tagged → lan = 0xA + p → known.find? (·.mac == f.src) = some e → e.seqs.contains q = true → Answers (exec (.frameReceive t p codeword fcs room b) s) fun u =>
      u.rd (F.ETH_RX_DROP.count p 6) = min (s.rd (F.ETH_RX_DROP.count p 6) + 1) (2 ^ 32 - 1) ∧ { e with last := now } ∈ u.eth.prp)
    ∧ (tagged → lan = 0xA + p → known.find? (·.mac == f.src) = some e → e.seqs.contains q = false → Answers (exec (.frameReceive t p codeword fcs room b) s) fun u =>
      { e with last := now, seqs := (q :: e.seqs).take 128 } ∈ u.eth.prp)
    ∧ (tagged → lan = 0xA + p → known.find? (·.mac == f.src) = none → known.length < 2048 → Answers (exec (.frameReceive t p codeword fcs room b) s) fun u =>
      u.eth.prp = known ++ [⟨f.src, now, [q]⟩])
    ∧ (tagged → lan = 0xA + p → known.find? (·.mac == f.src) = none → 2048 ≤ known.length → Answers (exec (.frameReceive t p codeword fcs room b) s) fun u =>
      u.rd (F.ETH_PRP.table_full p) = min (s.rd (F.ETH_PRP.table_full p) + 1) 65535 ∧ u.eth.prp = known)
    ∧ (tagged → lan ≠ 0xA + p → Answers (exec (.frameReceive t p codeword fcs room b) s) fun u =>
      u.rd (F.ETH_PRP.wrong_lan p) = min (s.rd (F.ETH_PRP.wrong_lan p) + 1) 65535 ∧ u.eth.prp = known)
    ∧ Answers (exec (.prpEntryExpire t mac) s) (fun u => (∀ x, x ∈ u.eth.prp ↔ x ∈ s.eth.prp ∧ (x.mac = mac → now < 5940 * 400000 + x.last))
      ∧ { u with eth := s.eth } = s.at t)
    ∧ (s.on (F.ETH_MODE.prp 0) = true → s.isShadow = false → 5940 * 2000000 + s.eth.supervised ≤ now →
      Answers (exec (.prpSupervisionSend t) s) fun u => u.out = sent 1 []
        ∧ u.eth = { s.eth with supervised := now, prpSeq := (s.eth.prpSeq + 1) % 65536 } ∧ u.regs = s.regs)
    ∧ (s.on (F.ETH_MODE.prp 0) = false ∨ s.isShadow = true ∨ now < 5940 * 2000000 + s.eth.supervised →
      Answers (exec (.prpSupervisionSend t) s) (· = s.at t))
    ∧ (s.on (F.ETH_STATUS.link_up p) = up → Answers (exec (.ethLinkChange t p up) s) (· = s.at t))
    ∧ (here → s.on (F.ETH_STATUS.link_up p) ≠ up → Answers (exec (.ethLinkChange t p up) s) fun u => u.on (F.ETH_STATUS.link_up p) = up
      ∧ u.on (F.ETH_STATUS.link_change p) = true ∧ RegsSame s u [R.ETH_STATUS p] ∧ { u with regs := s.regs } = s.at t)
    ∧ (here → Answers (exec (.pdelayReqSend t p none) s) (· = (s.at t).emit (.message 13 4 [p, source])))
    ∧ (here → Answers (exec (.pdelayReqSend t p (some d)) s) fun u => u.out = .message 13 4 [p, source] :: s.out
      ∧ u.rd (F.ETH_PTP_DELAY.delay p) = wrap 32 (d + signed 32 (s.rd (F.ETH_PTP_ASYM.asym p))) ∧ RegsSame s u [R.ETH_PTP_DELAY p])
    ∧ (here → Answers (exec (.pdelayReqReceive t p) s) (· = ((s.at t).emit (.message 13 5 [p, source, now])).emit (.message 13 6 [p, source, now])))
    ∧ (¬ here → Answers (exec (.frameReceive t p codeword fcs room b) s) (· = s.at t) ∧ Answers (exec (.ethLinkChange t p up) s) (· = s.at t)
      ∧ Answers (exec (.pdelayReqSend t p (some d)) s) (· = s.at t) ∧ Answers (exec (.pdelayReqReceive t p) s) (· = s.at t))

/-- The Odometer: what a Sync of the port it follows reports and how it steers, the first lock and the set that release the schedule, the
snapshot, the leap second, and a master that falls silent. -/
def Obligations.OdometerTime : Prop :=
  ∀ (s : State) (t p target ns sec : Nat) (other : Bool) (y : PtpSync), p < 2 →
    let now := max s.now t
    let here := s.portPresent p = true
    let lim : Int := 1000 * (s.rd F.ODO_SERVO.slew_max : Int)
    let total := y.base + max (-lim) (min lim y.slew)
    let follows := y.better = true ∨ (s.on (F.ETH_STATUS.followed 0) = false ∧ s.on (F.ETH_STATUS.followed 1) = false)
    let reported := fun (u : State) => u.on (F.ETH_STATUS.followed p) = true ∧ u.rd64 R.ODO_GM = y.gm % 2 ^ 64
      ∧ u.rd F.ODO_GM_INACC.ns = y.inaccuracy % 2 ^ 32 ∧ u.on F.ODO_UTC.leap61 = y.leap61 ∧ u.on F.ODO_UTC.leap59 = y.leap59
      ∧ u.rd F.ODO_OFFSET.offset = wrap 32 (clamp (-(2 ^ 31)) (2 ^ 31 - 1) y.offset)
      ∧ u.eth.good = min (if y.offset.natAbs ≤ 50 then s.eth.good + 1 else 0) 16
      ∧ (y.utc = none → u.on F.ODO_UTC.from_gm = false ∧ (s.on F.ODO_UTC.from_gm = true → u.rd F.ODO_UTC.utc_offset = s.eth.utc % 65536))
      ∧ (∀ o, y.utc = some o → u.on F.ODO_UTC.from_gm = true ∧ u.rd F.ODO_UTC.utc_offset = wrap 16 o)
      ∧ (follows → u.rd F.ODO_STATUS.port = p ∧ u.on (F.ETH_STATUS.followed (1 - p)) = false)
    let leaps := s.on F.ODO_UTC.leap61 = true ∨ s.on F.ODO_UTC.leap59 = true
    let goes : Int := signed 16 (s.rd F.ODO_UTC.utc_offset) + if s.on F.ODO_UTC.leap61 = true then 1 else -1
    let moved := fun (u : State) (goal : Nat) => u.on F.ODO_STATUS.released = true ∧ u.on F.ODO_STATUS.kick_valid = true
      ∧ (1024 ≤ goal → u.now % 2048 = 0 ∧ ((u.now : Int) - goal).natAbs ≤ 1024)
    (here → y.port = p → ¬ follows → s.on (F.ETH_STATUS.followed p) = false → Answers (exec (.ptpSync t y) s) fun u => u.rd (F.ETH_STATUS.ptp_state p) = 4
      ∧ u.on (F.ETH_STATUS.followed p) = false ∧ RegsSame s u [R.ETH_STATUS p] ∧ { u with regs := s.regs } = s.at t)
    ∧ (here → y.port = p → follows ∨ s.on (F.ETH_STATUS.followed p) = true → s.on F.ODO_STATUS.released = false ∨ s.twinSteers = true → Answers (exec (.ptpSync t y) s) fun u =>
      reported u ∧ u.rd F.ODO_STATUS.time_state = s.rd F.ODO_STATUS.time_state ∧ u.rd F.ODO_FREQ.ppb = s.rd F.ODO_FREQ.ppb)
    ∧ (here → y.port = p → follows ∨ s.on (F.ETH_STATUS.followed p) = true → s.on F.ODO_STATUS.released = true → s.twinSteers = false →
      y.offset.natAbs ≤ 1000000000 → Answers (exec (.ptpSync t y) s) fun u => reported u ∧ u.rd F.ODO_STATUS.time_state = 0 ∧ u.on F.ODO_STATUS.gm_rejected = false
        ∧ u.rd F.ODO_FREQ.ppb = wrap 32 (clamp (-200000) 200000 total) ∧ u.eth.base = some (now, y.base)
        ∧ (200000 ≤ total.natAbs → u.on F.ODO_STATUS.saturated = true ∧ u.rd (F.FAULT_SRC.state 205) ≠ 0))
    ∧ (here → y.port = p → follows ∨ s.on (F.ETH_STATUS.followed p) = true → s.on F.ODO_STATUS.released = true → s.twinSteers = false →
      1000000000 < y.offset.natAbs → Answers (exec (.ptpSync t y) s) fun u => reported u ∧ u.rd F.ODO_STATUS.time_state = 1 ∧ u.on F.ODO_STATUS.gm_rejected = true
        ∧ (s.rd F.ODO_STATUS.time_state ≠ 0 → u.rd F.ODO_FREQ.ppb = s.rd F.ODO_FREQ.ppb) ∧ u.rd (F.FAULT_SRC.state 205) ≠ 0)
    ∧ (y.port = p → ¬ here → Answers (exec (.ptpSync t y) s) (· = s.at t))
    ∧ (s.on F.ODO_STATUS.released = false → Answers (exec (.firstLock t target) s) fun u => moved u target ∧ u.rd F.ODO_STATUS.time_state = 0
      ∧ RegsSame s u [R.ODO_STATUS])
    ∧ (s.on F.ODO_STATUS.released = true → Answers (exec (.firstLock t target) s) (· = s.at t))
    ∧ (s.on F.ODO_STATUS.released = false → Answers (exec (.odoSet t ns) s) fun u => moved u ((297 * ns + 49) / 50)
      ∧ u.rd F.ODO_STATUS.time_state = 2 ∧ u.rd64 R.ODO_SET = ns % 2 ^ 64 ∧ RegsSame s u [R.ODO_STATUS, R.ODO_SET, R.ODO_SET + 4])
    ∧ (s.on F.ODO_STATUS.released = true → Answers (exec (.odoSet t ns) s) fun u => u.now = now ∧ u.rd64 R.ODO_SET = s.rd64 R.ODO_SET
      ∧ u.rd (F.U_IGNORED_WRITES.count odoBase) = min (s.rd (F.U_IGNORED_WRITES.count odoBase) + 1) 65535)
    ∧ Answers (exec (.odoForget t) s) (fun u => u.on F.ODO_STATUS.kick_valid = false
      ∧ u.rd F.ODO_STATUS.time_state = s.rd F.ODO_STATUS.time_state ∧ RegsSame s u [R.ODO_STATUS] ∧ { u with regs := s.regs } = s.at t)
    ∧ Answers (exec (.odoSnap t) s) (fun u => u.rd64 R.ODO_SNAP_ROOT = now % 2 ^ 64 ∧ u.rd64 R.ODO_SNAP_NS = 50 * now / 297 % 2 ^ 64
      ∧ u.rd64 R.ODO_SNAP_SEC = 50 * now / 297 / 1000000000 % 2 ^ 48 ∧ u.rd F.ODO_SNAP_SUB.nanoseconds = 50 * now / 297 % 1000000000
      ∧ RegsSame s u [R.ODO_SNAP_ROOT, R.ODO_SNAP_ROOT + 4, R.ODO_SNAP_NS, R.ODO_SNAP_NS + 4, R.ODO_SNAP_SEC, R.ODO_SNAP_SEC + 4, R.ODO_SNAP_SUB]
      ∧ { u with regs := s.regs } = s.at t)
    ∧ (leaps → now = 5940000000 * sec → ((sec : Int) - goes) % 86400 = 0 → Answers (exec (.leapSecond t) s) fun u =>
      u.rd F.ODO_UTC.utc_offset = wrap 16 goes
      ∧ u.on F.ODO_UTC.leap61 = false ∧ u.on F.ODO_UTC.leap59 = false ∧ RegsSame s u [R.ODO_UTC] ∧ { u with regs := s.regs } = s.at t)
    ∧ (¬ leaps ∨ now % 5940000000 ≠ 0 ∨ (now = 5940000000 * sec ∧ ((sec : Int) - goes) % 86400 ≠ 0) → Answers (exec (.leapSecond t) s) (· = s.at t))
    ∧ (s.on (F.ETH_STATUS.followed p) = true → Answers (exec (.announceTimeout t p true) s) fun u =>
      u.rd (F.ETH_STATUS.ptp_state p) = 1 ∧ u.on (F.ETH_STATUS.followed p) = false ∧ u.rd (F.ETH_STATUS.ptp_state (1 - p)) = 3
        ∧ u.on (F.ETH_STATUS.followed (1 - p)) = true ∧ u.rd F.ODO_STATUS.port = 1 - p ∧ u.eth = s.eth)
    ∧ (s.on (F.ETH_STATUS.followed p) = true → Answers (exec (.announceTimeout t p false) s) fun u =>
      u.rd (F.ETH_STATUS.ptp_state p) = 1 ∧ u.on (F.ETH_STATUS.followed p) = false ∧ u.eth.good = 0 ∧ u.on F.ODO_STATUS.converged = false
        ∧ u.rd F.ODO_STATUS.time_state = (if s.rd F.ODO_STATUS.time_state = 0 then 1 else s.rd F.ODO_STATUS.time_state)
        ∧ (s.rd F.ODO_STATUS.time_state = 0 → s.eth.base = none → ∀ x ∈ s.eth.spans, s.eth.spans.length = 1 → 0 < x.1 → u.rd F.ODO_FREQ.ppb = wrap 32 x.2)
        ∧ (s.on F.ODO_UTC.from_gm = true → u.on F.ODO_UTC.from_gm = false ∧ u.rd F.ODO_UTC.utc_offset = s.eth.utc % 65536))
    ∧ (s.on (F.ETH_STATUS.followed p) = false → Answers (exec (.announceTimeout t p other) s) (· = s.at t))

/-- Queries, the register window and scene memory: each command, at its turn, does what its code says and gets its final reply; what that
reply is: sent once with its tag, kept for a repeat, and its place in the session's credit given back. -/
def Obligations.VertikRegistersAndMemory : Prop :=
  ∀ (s : State) (t : Nat) (c : VtkCmd), s.frontReady = some c →
    let s0 := { s.at t with vtk.ready := s.vtk.ready.erase c }
    let v := s.sess c.session
    let a := leAt c.args 0 4
    let n := leAt c.args 4 4
    let bytes := c.args.drop 8
    let filled := (List.replicate (n / 4) (slice c.args 8 4)).flatten
    let stored := fun (bs : List Byte) (x : State) => Wrote s x a bs ∧ x.regs = s.regs ∧ x.cores = s.cores ∧ x.vtk = s0.vtk ∧ x.now = s0.now
    let free := fun (k : Nat) => (∀ i, i < k → s.admits 71 (a + i) = true ∧ s.ingestOwned (a + i) = false) ∧ s.vtkAdmits a k = true ∧ s.Clean a k
    (knownCode c.code = false → Answers (exec (.vtkUnknownCommand t) s) fun u => u = s0.vtkFinish c 0x10 0 0
      ∧ (s.sessOpen c.session = true → v.outstanding.contains c.seq = true →
        let body := vtkReplyBody c.code 0x10 0 c.seq 0 (nsOf s0.now) []
        (u.sess c.session).stored = ((c.seq, body) :: v.stored).take 256 ∧ (u.sess c.session).outstanding = v.outstanding.erase c.seq
          ∧ u.rd (F.VTK_SESSION.outstanding c.session) = s.rd (F.VTK_SESSION.outstanding c.session) - 1
          ∧ u.rd F.VTK_STATUS.outstanding = s.rd F.VTK_STATUS.outstanding - 1 ∧ (u.sess c.session).next = v.next
          ∧ (s.isShadow = false → ∃ m, m.drop 40 = body
            ∧ u.out = .vertik c.session 5 v.devSeq (m ++ (hmac512 v.kDh m).take 32) :: s.out ∧ (u.sess c.session).devSeq = v.devSeq + 1)
          ∧ (s.isShadow = true → u.out = s.out))
      ∧ (s.sessOpen c.session = false → u = s0))
    ∧ (c.code = 0x00 → Answers (exec (.vtkNop t) s) (· =
      s0.vtkFinish c 0 0 0 (natLe 4 v.outOfOrder ++ natLe 4 v.badTag ++ natLe 4 v.brokenUnlock)))
    ∧ (c.code = 0x01 → Answers (exec (.statusRead t) s) fun u => u = { s0 with freeCtr := s.freeCtr + 1 }.vtkFinish c 0 0 0
        (Config.statusSummary s.freeCtr))
    ∧ (c.code = 0x10 → Answers (exec (.regRead t) s) fun u => u = (s0.readWords (windowWords c)).2.vtkFinish c 0 0 0 (s0.readWords (windowWords c)).1
      ∧ (s0.readWords (windowWords c)).1.length = 4 * n)
    ∧ (c.code = 0x11 → Answers (exec (.regWrite t) s) fun u => u = (s0.windowWrites c fun _ => true).2.vtkFinish c 0 (s0.windowWrites c fun _ => true).1 0)
    ∧ (c.code = 0x12 → Answers (exec (.regWriteMasked t) s) fun u => ∃ x, x = s0.vtkWord a (s0.maskedWord a (BitVec.ofNat 32 n)
        (BitVec.ofNat 32 (leAt c.args 8 4))) ∧ u = x.2.vtkFinish c 0 x.1 0)
    ∧ (c.code = 0x20 → 32 + n ≤ s.bodyLimit v.port → s.Clean (a / 64 * 64) ((a + n + 63) / 64 * 64 - a / 64 * 64) →
      Answers (exec (.memRead t) s) (· = s0.vtkFinish c 0 0 0 (s.memBytes a n)))
    ∧ (c.code = 0x20 → s.bodyLimit v.port < 32 + n → Answers (exec (.memRead t) s) (· = s0.vtkFinish c 0x07 0 0))
    ∧ (c.code = 0x21 → free bytes.length → Answers (exec (.memWrite t) s) fun u => ∃ x : State, u = x.vtkFinish c 0 0 0 ∧ stored bytes x)
    ∧ (c.code = 0x21 → s.vtkAdmits a bytes.length = false → Answers (exec (.memWrite t) s) (· = s0.vtkFinish c 0x0A 0 0))
    ∧ (c.code = 0x22 → free filled.length → Answers (exec (.memFill t) s) fun u => ∃ x : State, u = x.vtkFinish c 0 0 0 ∧ stored filled x)
    ∧ (c.code = 0x22 → s.vtkAdmits a filled.length = false → Answers (exec (.memFill t) s) (· = s0.vtkFinish c 0x0A 0 0))

/-- Points, heads and the Groupset through Vertik: a point command enters ingest, or is told that it is full; a point's record, a head's
commit and state; staging, check, apply and abort, with what waits for the controller, and the rival applies of one frame. -/
def Obligations.VertikPointsHeadsGroupset : Prop :=
  ∀ (s : State) (t h : Nat) (c d : VtkCmd), s.frontReady = some c →
    let s0 := { s.at t with vtk.ready := s.vtk.ready.erase c }
    let take := fun (x : State) (f : Nat) => if s.pelState = 2 then x.applyGroup f else x.applyNow f
    let a := leAt c.args 0 4
    let n := (c.args.length - 4) / 4
    let late := s.gsState ≠ 0 ∧ (s.gsState = 5 ∧ s.gs.swapped ≠ [] ∨ s.gs.rollback = true)
    let entered := fun (r : Host.Outcome State Fault Refusal) =>
      (s.ing.queue.length < 512 → s.unitsHeld = true → Answers r fun u => u = { s0 with ing.queue := inOrder s.ing.queue (.vertik c 0) }
        ∧ ((∀ i ∈ s.ing.queue, i.place ≤ 4 * c.arrival + 2) → u.ing.queue = s.ing.queue ++ [.vertik c 0]))
      ∧ (512 ≤ s.ing.queue.length → Answers r fun u => ∃ x : State, u = x.vtkFinish c 0x13 0 (if c.framed then c.frame else 0)
        ∧ x.rd (F.ING_DISCARD.count 6) = min (s.rd (F.ING_DISCARD.count 6) + 1) (F.ING_DISCARD.count 6).max ∧ x.ing = s.ing
        ∧ x.rd (F.FAULT_SRC.state 200) ≠ 0)
    (c.code = 0x30 → entered (exec (.pointWrite t) s))
    ∧ (c.code = 0x31 → entered (exec (.pointForce t) s))
    ∧ (c.code = 0x32 → entered (exec (.pointRelease t) s))
    ∧ (c.code = 0x33 → s.Clean (s.pointOff a) 32 → s.pointOff a % 8 = 0 →
      Answers (exec (.pointRead t) s) (· = s0.vtkFinish c 0 0 0 (s.memBytes (s.pointOff a) 32)))
    ∧ (c.code = 0x40 → s.pathHead c = some h → Answers (exec (.commit t) s) (· = (s0.beamCommit h).vtkFinish c 0 0 0))
    ∧ (c.code = 0x41 → s.pathHead c = some h → Answers (exec (.headState t) s) (· =
      (s0.txCtrlWrite h (setBits (s.reg (R.TX_CTRL h)) 1 0 a)).vtkFinish c 0 0 0))
    ∧ (c.code = 0x50 → s.gsBusy = false → a / 4 + n ≤ stageWords → 0 < n → Answers (exec (.gsStage t) s) fun u => ∃ x : State, u = x.vtkFinish c 0 0 0
      ∧ x.rd F.GS_STAGE_PTR.word = a / 4 + n ∧ x.gsState = 1
      ∧ ∀ i, mget (fun _ => 0#32) x.gs.staging i = if a / 4 ≤ i ∧ i < a / 4 + n then BitVec.ofNat 32 (leAt c.args (4 + 4 * (i - a / 4)) 4)
          else if a / 4 = 0 then 0#32 else mget (fun _ => 0#32) s.gs.staging i)
    ∧ (c.code = 0x50 → s.gsBusy = true ∨ stageWords < a / 4 + n ∨ stageWords ≤ a / 4 → Answers (exec (.gsStage t) s) (· = s0.vtkFinish c 0x0A 0 0))
    ∧ (c.code = 0x51 → s.gs.staged = true → s.gsState = 1 ∨ s.gsState = 3 → Answers (exec (.gsCheck t) s) fun u => u.gsState = 2
      ∧ u.vtk.gsWait = s.vtk.gsWait ++ [c] ∧ u.gs = s.gs)
    ∧ (c.code = 0x51 → s.gsState = 2 → Answers (exec (.gsCheck t) s) (· = { s0 with vtk.gsWait := s.vtk.gsWait ++ [c] }))
    ∧ (c.code = 0x51 → s.gsState ≠ 2 → s.gs.staged = false ∨ s.gsState ≠ 1 ∧ s.gsState ≠ 3 →
      Answers (exec (.gsCheck t) s) (· = s0.vtkFinish c 0x07 0 0))
    ∧ (c.code = 0x52 → s.gsState = 0 ∨ s.gsState = 5 → Answers (exec (.gsApply t) s) (· = s0.vtkFinish c 0x0F 0 0))
    ∧ (c.code = 0x52 → s.gsState ≠ 0 → s.gsState ≠ 5 → s.applyRival c = none → Answers (exec (.gsApply t) s) fun u =>
      u.vtk.gsWait = s.vtk.gsWait ++ [c] ∧ u = take { s0 with vtk.gsWait := s.vtk.gsWait ++ [c] } (if c.frame = 0 then s.gs.chipFrame + 1 else c.frame))
    ∧ (c.code = 0x52 → s.gsState ≠ 0 → s.gsState ≠ 5 → s.applyRival c = some d →
      if s0.beats c d (s.prioOf c.session) (s.prioOf d.session) ⟨4, 0, 1⟩ = true then Answers (exec (.gsApply t) s) fun u =>
        u = take ({ s0 with vtk.gsWait := s.vtk.gsWait.erase d ++ [c] }.vtkFinish d 0x03 0 d.frame) c.frame
      else Answers (exec (.gsApply t) s) (· = s0.vtkFinish c 0x03 0 c.frame))
    ∧ (c.code = 0x53 → late → Answers (exec (.gsAbort t) s) (· = s0.vtkFinish c 0x0A 0 0))
    ∧ (c.code = 0x53 → ¬ late → Answers (exec (.gsAbort t) s) fun u => u = (s0.gsAbort).vtkFinish c 0 0 0 ∧ (s.gsState ≠ 0 → u.gs.staging = []) ∧ u.gsState = 0)

/-- Leases and the life of a session: a lease granted, refused, renewed, released or at its end; a challenge, and the times at which an
unlock, a handshake or a silent session ends. -/
def Obligations.VertikLeasesAndSessions : Prop :=
  ∀ (s : State) (t n : Nat) (c : VtkCmd) (p : List Nat) (l : Lease),
    let now := max s.now t
    let s0 := { s.at t with vtk.ready := s.vtk.ready.erase c }
    let live := s.vtk.leases.filter fun l => decide (now < l.ends)
    let mine := fun (code : Nat) => s.frontReady = some c ∧ c.code = code
    let held := live.any (fun l => l.session != c.session && pathsMeet l.path p) = true
    let full := 256 ≤ live.length ∨ 16 ≤ (live.filter (·.session == c.session)).length
    let leased := fun (u x : State) (ls : List Lease) => x.vtk.leases = ls ∧ x.rd F.VTK_STATUS.leases = ls.length % 512
      ∧ RegsSame s x [R.VTK_STATUS] ∧ u.vtk.leases = ls
    let illegal := fun (u : State) (r : Nat) => u.rd (F.VTK_ILLEGAL.count r) = min (s.rd (F.VTK_ILLEGAL.count r) + 1) (2 ^ 32 - 1)
      ∧ u.on F.VTK_IRQ.illegal = true ∧ u.rd (F.FAULT_SRC.state 219) ≠ 0
    let freed := fun (u : State) => u.sessState n = 0 ∧ u.sess n = {} ∧ (∀ l ∈ u.vtk.leases, l.session ≠ n) ∧ (∀ x ∈ u.vtk.ready, x.session ≠ n)
    (mine 0x60 → s.leasePath c = some p → ¬ held → ¬ full → Answers (exec (.leaseTake t) s) fun u => ∃ x : State, u = x.vtkFinish c 0 0 0 (natLe 4 s.vtk.nextLease)
      ∧ leased u x (live ++ [⟨s.vtk.nextLease, c.session, p, leAt c.args 4 1 == 1, 5940000 * leAt c.args 0 4 + now⟩]))
    ∧ (mine 0x60 → s.leasePath c = some p → held → Answers (exec (.leaseTake t) s) (· = s0.vtkFinish c 0x05 0 0))
    ∧ (mine 0x60 → s.leasePath c = some p → ¬ held → full → Answers (exec (.leaseTake t) s) (· = s0.vtkFinish c 0x07 0 0))
    ∧ (mine 0x60 → s.leasePath c = none → Answers (exec (.leaseTake t) s) (· = s0.vtkFinish c 0x07 0 0))
    ∧ (mine 0x61 → s0.ownLease c = some l → Answers (exec (.leaseRenew t) s) fun u => ∃ x : State, u = x.vtkFinish c 0 0 0
      ∧ leased u x (s.vtk.leases.map fun m => if m = l then { m with ends := 5940000 * leAt c.args 4 4 + now } else m))
    ∧ (mine 0x61 → s0.ownLease c = none → Answers (exec (.leaseRenew t) s) (· = s0.vtkFinish c 0x07 0 0))
    ∧ (mine 0x62 → s0.ownLease c = some l → Answers (exec (.leaseRelease t) s) fun u => ∃ x : State, u = x.vtkFinish c 0 0 0 ∧ leased u x (s.vtk.leases.erase l))
    ∧ (mine 0x62 → s0.ownLease c = none → Answers (exec (.leaseRelease t) s) (· = s0.vtkFinish c 0x07 0 0))
    ∧ Answers (exec (.leaseExpire t) s) (fun u => leased u u live ∧ u.out = s.out)
    ∧ (mine 0x70 → c.session < 64 → Answers (exec (.unlock t) s) fun u => ∃ (x : State) (ch : List Byte), ch = (List.range 8).map (Config.freeByte s.freeCtr)
      ∧ u = x.vtkFinish c 0 0 0 ch ∧ (x.sess c.session).challenge = some ch ∧ (x.sess c.session).unlockSeq = c.seq
      ∧ (x.sess c.session).unlockAt = now ∧ x.regs = s.regs ∧ ∀ j, j ≠ c.session → x.sess j = s.sess j)
    ∧ (s.sessState n = 2 → (s.sess n).challenge.isSome = true → (s.sess n).next = (s.sess n).unlockSeq + 1 →
      5940 * 100000 + (s.sess n).unlockAt ≤ now → Answers (exec (.unlockTimeout t n) s) fun u => (u.sess n).challenge = none
        ∧ (u.sess n).brokenUnlock = min ((s.sess n).brokenUnlock + 1) (2 ^ 32 - 1) ∧ illegal u 4 ∧ u.sessState n = 2)
    ∧ ((s.sess n).challenge = none ∨ now < 5940 * 100000 + (s.sess n).unlockAt → Answers (exec (.unlockTimeout t n) s) (· = s.at t))
    ∧ (s.sessState n = 1 → 5940 * 1000000 + (s.sess n).helloAt ≤ now → Answers (exec (.authTimeout t n) s) fun u => freed u ∧ illegal u 1)
    ∧ (s.sessState n ≠ 1 ∨ now < 5940 * 1000000 + (s.sess n).helloAt → Answers (exec (.authTimeout t n) s) (· = s.at t))
    ∧ (s.sessState n = 2 → 5940 * 10000000 + (s.sess n).lastCommand ≤ now → Answers (exec (.sessionTimeout t n) s) fun u => freed u
      ∧ u.on F.VTK_IRQ.session = true ∧ u.rd F.VTK_STATUS.outstanding = s.rd F.VTK_STATUS.outstanding - s.rd (F.VTK_SESSION.outstanding n))
    ∧ (s.sessState n ≠ 2 ∨ now < 5940 * 10000000 + (s.sess n).lastCommand → Answers (exec (.sessionTimeout t n) s) (· = s.at t))

/-- Messages to the Vertik engine: what is discarded and counted; a handshake that starts, opens or fails; a session that closes; a command
taken once, in the order of its numbers. -/
def Obligations.VertikMessages : Prop :=
  ∀ (s : State) (t p r st d : Nat) (m : List Byte) (key : Option (List Byte)) (q : Nat × List Byte) (rel : List Nat) (group : Bool),
    let now := max s.now t
    let n := msgSession m
    let seq := msgSeq m
    let b := msgBody m
    let v := s.sess n
    let kept := (s.at t).archiveInput 2 (nsOf now) b
    let c := parseCommand n seq (nsOf now) b
    let x := (kept.consumeSeq n seq).spendChallenge c
    let counted := fun (u : State) (r : Nat) => u.rd (F.VTK_ILLEGAL.count r) = min (s.rd (F.VTK_ILLEGAL.count r) + 1) (2 ^ 32 - 1)
      ∧ u.on F.VTK_IRQ.illegal = true ∧ u.rd (F.FAULT_SRC.state 219) ≠ 0
    let freed := fun (u : State) => u.sessState n = 0 ∧ u.sess n = {} ∧ ∀ l ∈ u.vtk.leases, l.session ≠ n
    let holds := s.locked = true ∧ s.isShadow = true
    let good := s.messageFault p m = none ∧ s.isPrimary = false ∧ ¬ holds
    let shared := fun (k : Nat) (res : Host.Outcome State Fault Refusal) =>
      (kindRow m ≠ k → Answers res (· = s.at t))
      ∧ (kindRow m = k → holds → Answers res (· = { s.at t with tandem.held := s.tandem.held ++ [(now, .vertik p (nsOf now) m)] }))
      ∧ (kindRow m = k → s.isPrimary = true → s.messageFault p m = none → Answers res (· =
          { s.at t with tandem.journal := s.tandem.journal ++ [⟨11880 + now, .vertik p (nsOf now) m⟩] }))
      ∧ (kindRow m = k → ¬ holds → s.messageFault p m = some r → Answers res fun u => counted u r ∧ u.vtk.ready = s.vtk.ready
          ∧ (r = 2 → (u.sess n).badTag = min (v.badTag + 1) (2 ^ 32 - 1)) ∧ (u.sess n).next = v.next ∧ u.out = s.out)
    shared 0 (exec (.hello t p m) s) ∧ shared 2 (exec (.auth t p m) s) ∧ shared 7 (exec (.close t p m) s) ∧ shared 4 (exec (.command t p m) s)
    ∧ (kindRow m = 0 → good → s.helloOpen = true → s.isShadow = false → s.sessionSlot (leAt b 48 1) = some key → ∀ k, s.freeSessionNumber = some k →
      if allZero (x25519 ((List.range 32).map (Config.freeByte s.freeCtr)) (slice b 0 32)) = true
      then Answers (exec (.hello t p m) s) fun u => u.vtk = s.vtk ∧ u.regs = s.regs ∧ u.out = s.out
      else Answers (exec (.hello t p m) s) fun u => u.sessState k = 1 ∧ u.rd (F.VTK_SESSION.key_slot k) = leAt b 48 1 ∧ (u.sess k).helloAt = now
        ∧ (u.sess k).slotKey = key ∧ ∃ reply, u.out = .vertik k 1 0 reply :: s.out)
    ∧ (kindRow m = 0 → good → s.helloOpen = false ∨ s.sessionSlot (leAt b 48 1) = none ∨ s.freeSessionNumber = none →
      Answers (exec (.hello t p m) s) fun u => counted u 1 ∧ u.vtk.sessions = s.vtk.sessions ∧ u.out = s.out)
    ∧ (kindRow m = 2 → good → 5940 * 1000000 + v.helloAt < now → Answers (exec (.auth t p m) s) fun u => freed u ∧ counted u 1)
    ∧ (kindRow m = 2 → good → now ≤ 5940 * 1000000 + v.helloAt → s.isShadow = false →
      if seq = 0 ∧ s.hostSigned n b = true then Answers (exec (.auth t p m) s) fun u => u.sessState n = 2 ∧ (u.sess n).next = 1
        ∧ u.rd (F.VTK_SESSION.priority n) = s.slotPrio (s.rd (F.VTK_SESSION.key_slot n)) % 8 ∧ bit (u.rd64 R.VTK_OPEN) n = true
        ∧ u.on F.VTK_IRQ.session = true ∧ ∃ reply, u.out = .vertik n 3 0 reply :: s.out
      else Answers (exec (.auth t p m) s) fun u => freed u ∧ counted u 2)
    ∧ (kindRow m = 7 → good → Answers (exec (.close t p m) s) fun u => freed u ∧ bit (u.rd64 R.VTK_OPEN) n = false ∧ u.on F.VTK_IRQ.session = true
      ∧ u.out = s.out)
    ∧ (kindRow m = 4 → good → seq < v.next → v.stored.find? (·.1 == seq) = some q → s.isShadow = false → Answers (exec (.command t p m) s) fun u =>
      u.vtk.ready = s.vtk.ready ∧ (u.sess n).next = v.next ∧ ∃ h, h.drop 40 = q.2
        ∧ u.out = .vertik n 5 v.devSeq (h ++ (hmac512 v.kDh h).take 32) :: s.out)
    ∧ (kindRow m = 4 → good → seq < v.next → v.stored.find? (·.1 == seq) = none → Answers (exec (.command t p m) s) fun u =>
      u = kept.vtkInterim n (leAt b 0 1) (if v.outstanding.contains seq then 0x01 else 0x12) seq ∧ u.vtk.ready = s.vtk.ready ∧ (u.sess n).next = v.next)
    ∧ (kindRow m = 4 → good → v.next < seq → Answers (exec (.command t p m) s) fun u => counted u 3 ∧ u.vtk.ready = s.vtk.ready
      ∧ (u.sess n).next = v.next ∧ (u.sess n).outOfOrder = min (v.outOfOrder + 1) (2 ^ 32 - 1))
    ∧ (kindRow m = 4 → good → seq = v.next → s.credit n = 0 → Answers (exec (.command t p m) s) fun u =>
      u.rd F.VTK_ORDER.busy = min (s.rd F.VTK_ORDER.busy + 1) 255 ∧ u.vtk.ready = s.vtk.ready ∧ (u.sess n).next = v.next)
    ∧ (kindRow m = 4 → good → seq = v.next → s.credit n ≠ 0 → (x.sess n).next = seq + 1 ∧ (x.sess n).outstanding = v.outstanding ++ [seq]
      ∧ x.rd F.VTK_STATUS.outstanding = s.rd F.VTK_STATUS.outstanding + 1 ∧ x.vtk.ready = s.vtk.ready
      ∧ (knownCode c.code = false → Answers (exec (.command t p m) s) (· = { x with vtk.ready := s.vtk.ready ++ [c] }))
      ∧ (knownCode c.code = true → x.acceptFault c (commandBitsOk b) = some (st, d) → Answers (exec (.command t p m) s) (· = x.vtkFinish c st d c.frame))
      ∧ (knownCode c.code = true → x.acceptFault c (commandBitsOk b) = none → x.resolve c.code c.path = .own rel group →
        (maintenance c.code = true → Answers (exec (.command t p m) s) (· = x.acceptProtected c v))
        ∧ (maintenance c.code = false → c.framed = false → Answers (exec (.command t p m) s) (· = { x with vtk.ready := s.vtk.ready ++ [c] }))
        ∧ (maintenance c.code = false → c.framed = true → c.code ≠ 0x52 → Answers (exec (.command t p m) s) (· = x.acceptFramed c))))

/-- A framed command at its apply point: nothing before it is due; then it does its work, ends as superseded, or ends as one that names
another chip. -/
def Obligations.VertikFramedCommands : Prop :=
  ∀ (s : State) (t h : Nat) (f : Framed), s.vtk.framed = [f] → f.stages = none →
    let now := max s.now t
    let c := f.cmd
    let a := leAt c.args 0 4
    let bs := c.args.drop 8
    let due := s.applyPoints c ≠ [] ∧ ∀ p ∈ s.applyPoints c, s.applyPoint c.frame p ≤ now
    let s1 := { s.at t with vtk.framed := [] }
    let s2 := { s.at t with vtk.applied := s.vtk.applied ++ [c] }
    let s3 := { s2 with vtk.framed := [] }
    ((∀ p ∈ s.applyPoints c, now < s.applyPoint c.frame p) → Answers (exec (.framedApply t) s) fun u => u.vtk.framed = [f] ∧ u.regs = s.regs ∧ u.out = s.out ∧ MemSame s u)
    ∧ (due → s.actsHere c = false → Answers (exec (.framedApply t) s) (· = (s1.vtkFinish c f.status 0 c.frame).pruneApplied))
    ∧ (due → s.actsHere c = true → (s.at t).superseded f = true → Answers (exec (.framedApply t) s) (· = (s3.vtkFinish c 0x03 0 c.frame).pruneApplied))
    ∧ (due → s.actsHere c = true → (s.at t).superseded f = false →
      (c.code = 0x21 → (∀ i, i < bs.length → s.admits 71 (a + i) = true ∧ s.ingestOwned (a + i) = false) → s.vtkAdmits a bs.length = true →
        s.Clean a bs.length → f.waitsCommit = none → Answers (exec (.framedApply t) s) fun u => ∃ x : State, u = (x.vtkFinish c f.status f.dropped c.frame).pruneApplied
          ∧ Wrote s x a bs ∧ x.vtk = s3.vtk ∧ x.regs = s.regs)
      ∧ (c.code = 0x21 → s.vtkAdmits a bs.length = false → Answers (exec (.framedApply t) s) fun u => u.vtk.framed = [] ∧ MemSame s u
        ∧ ∃ x : State, u = ({ x with vtk.framed := x.vtk.framed.erase f } : State).pruneApplied ∧ x = s2.vtkFinish c 0x0A 0 c.frame)
      ∧ (c.code = 0x41 → s.pathHead c = some h → f.waitsCommit = none → Answers (exec (.framedApply t) s) fun u =>
        u = (({ s2.txCtrlWrite h (setBits (s.reg (R.TX_CTRL h)) 1 0 a) with vtk.framed := [] } : State).vtkFinish c f.status f.dropped c.frame).pruneApplied)
      ∧ (c.code = 0x40 → s.pathHead c = some h → Answers (exec (.framedApply t) s) (· =
        ({ s2.requestCommit h c.frame with vtk.framed := [{ f with waitsCommit := some (h, s.commitFor h c.frame), stages := some [] }] } : State).pruneApplied))
      ∧ (∀ p, c.code = 0x11 ∨ c.code = 0x12 → s.applyPoints c = [p] → p % 3 ≠ 1 → f.waitsCommit = none → Answers (exec (.framedApply t) s) fun u =>
        ∃ x, x = s2.windowWrites c (fun w => s.wordPoint c w == p)
          ∧ u = ((x.2.dropFramed f).vtkFinish c f.status (f.dropped + x.1) c.frame).pruneApplied)
      ∧ (0x30 ≤ c.code → c.code ≤ 0x32 → s.unitsHeld = true → s.ing.queue.length < 512 → Answers (exec (.framedApply t) s) fun u =>
        u.ing.queue = inOrder s.ing.queue (.vertik c f.status) ∧ u.vtk.framed = [] ∧ u.regs = s.regs))

/-- The protected commands: each starts its write or gives its result with its unlock noted, or is denied with the reason that SEC_PROG
keeps; the device reset leaves the Kickstand's cause. -/
def Obligations.VertikSecurityCommands : Prop :=
  ∀ (s : State) (t g : Nat) (c : VtkCmd), s.frontReady = some c →
    let s0 := { s.at t with vtk.ready := s.vtk.ready.erase c }
    let begins := fun (u : State) (j : OtpJob) => u.sec.job.map (·.1) = some j ∧ u.on F.SEC_PROG.busy = true ∧ u.rd F.SEC_PROG.last = 0
      ∧ u.on F.VTK_IRQ.unlock = true
    let gives := fun (u : State) (r : List Byte) => ∃ x : State, u = x.vtkFinish c 0 0 0 r ∧ x.on F.VTK_IRQ.unlock = true
      ∧ x.rd F.SEC_PROG.last = 0 ∧ RegsSame s x [R.VTK_IRQ, R.SEC_PROG] ∧ { x with regs := s.regs } = s0
    let denied := fun (r : Host.Outcome State Fault Refusal) (k : Nat) => Answers r (· = (s0.wr F.SEC_PROG.last k).vtkFinish c 0x0A k 0)
    let factory := s.secState = 0
    let b := slice c.args 72 960
    let target := leAt c.args 8 4
    let n := min (min target (s.reg R.GS_SECURITY_VERSION).toNat) 128
    let id := leAt c.args 8 2
    let i := leAt c.args 10 1
    let known := (id = 0x0C01 ∧ i < 8) ∨ (id = 0x0C02 ∧ i = 0)
    let own := (calItems c).filter calOwned
    (c.code = 0x71 → Answers (exec (.restoreFactory t) s) fun u => begins u (.calibration ⟨(s.calCurrent.seq + 1) % 2 ^ 32, [], true⟩)
      ∧ RegsSame s u [R.VTK_IRQ, R.SEC_PROG])
    ∧ (c.code = 0x72 → Answers (exec (.deviceReset t) s) fun u => u = ((s0.protectedRun).vtkFinish c 0 0 0).deviceReset 4
      ∧ u.rd F.KICK_RESET_CAUSE.cause = 4 ∧ u.cores = [] ∧ u.hub.mem = [] ∧ u.vtk = {} ∧ u.sec.begun = s.sec.begun ∧ u.pending = s.pending)
    ∧ (c.code = 0x74 → Answers (exec (.attest t) s) fun u => gives u (s0.attestation (slice c.args 8 32)))
    ∧ (c.code = 0x75 → genFieldsOk b = false → Answers (exec (.settingsWrite t) s) (· = s0.vtkFinish c 0x07 0 0))
    ∧ (c.code = 0x75 → genFieldsOk b = true → ¬ factory → s.ownerSigned b (slice c.args 8 64) = false → denied (exec (.settingsWrite t) s) 2)
    ∧ (c.code = 0x75 → genFieldsOk b = true → factory ∨ s.ownerSigned b (slice c.args 8 64) = true →
      (s.freeGen = none → denied (exec (.settingsWrite t) s) 3)
      ∧ (s.freeGen = some g → s.tooHotToProgram = true → denied (exec (.settingsWrite t) s) 4)
      ∧ (s.freeGen = some g → s.tooHotToProgram = false → Answers (exec (.settingsWrite t) s) fun u =>
        begins u (.settings g (b ++ sha512 b)) ∧ bit u.sec.begun g = true ∧ (factory → ∀ j, j < 64 → u.sessState j = 0)))
    ∧ (c.code = 0x76 → factory → denied (exec (.lock t) s) 6)
    ∧ (c.code = 0x76 → ¬ factory → if s.ownerSigned (ascii "LOCK" ++ s.idPub) (slice c.args 8 64) = false then denied (exec (.lock t) s) 2
      else if s.tooHotToProgram = true then denied (exec (.lock t) s) 4 else Answers (exec (.lock t) s) fun u => begins u .lock ∧ u.sec.lock = s.sec.lock)
    ∧ (c.code = 0x77 → if s.ownerSigned (ascii "ROLL" ++ s.idPub ++ natLe 4 target) (slice c.args 12 64) = false then
        denied (exec (.rollbackAdvance t) s) 2
      else if n ≤ s.sec.rollback then Answers (exec (.rollbackAdvance t) s) fun u => gives u (natLe 1 s.sec.rollback)
      else if s.tooHotToProgram = true then denied (exec (.rollbackAdvance t) s) 4
      else Answers (exec (.rollbackAdvance t) s) fun u => begins u (.rollback n) ∧ u.sec.rollback = s.sec.rollback)
    ∧ (c.code = 0x78 → Answers (exec (.calWrite t) s) fun u =>
      begins u (.calibration ⟨(s.calCurrent.seq + 1) % 2 ^ 32, own.foldl mergeItem s.calCurrent.items, true⟩)
        ∧ u.rd F.SEC_CAL.unknown = min (s.rd F.SEC_CAL.unknown + ((calItems c).length - own.length)) 65535)
    ∧ (c.code = 0x79 → known → Answers (exec (.calRead t) s) fun u => gives u (natLe 4 (s.calValue id i) ++ natLe 4 (s.calFactory id i)))
    ∧ (c.code = 0x79 → ¬ known → Answers (exec (.calRead t) s) (· = s0.vtkFinish c 0x07 0 0))

/-- The Blitter: a queue's write pointer, the command taken and checked, a NOP, a copy and a fill, the end of a wait, the completion with its
status, a cancel and a resume. Copy and fill write the words of their written pixels and no others. -/
def Obligations.BlitterCommands : Prop :=
  ∀ (s : State) (t q v st : Nat) (c : BltCmd) (p : Nat × Nat),
    let rd := s.rd (F.BLT_Q_RD.rd q)
    let desc := s.bltDesc q rd
    let taken : BltCmd := { queue := q, index := rd, words := (List.range 16).map fun k => leAt (s.memBytes desc 64) (4 * k) 4 }
    let fits := (65536 + v % 65536 - rd) % 65536 ≤ 2 ^ s.rd (F.BLT_Q_BASE.log2 q)
    let now := max s.now t
    let from_ := c.src.bitOf (c.sourceOf p).1 (c.sourceOf p).2 / 8
    let to_ := c.dst.bitOf p.1 p.2 / 8
    let outside := fun (u : State) => ∀ a, (∀ p ∈ c.written.pixels, c.dst.bitOf p.1 p.2 / 64 ≠ a / 8) → u.memByte a = s.memByte a
    let open_ := s.Clean to_ 4 ∧ s.admits 67 (to_ / 8 * 8) = true ∧ ∀ i, i < 4 → s.ingestOwned (to_ + i) = false
    let waits := s.blt = some c ∧ c.waiting = true ∧ s.unitsHeld = false
    q < 4 →
    (fits → Answers (exec (.bltQueueWrWrite t q v) s) fun u => u.rd (F.BLT_Q_WR.wr q) = v % 65536 ∧ RegsSame s u [R.BLT_Q_WR q]
      ∧ { u with regs := s.regs } = s.at t)
    ∧ (¬ fits → Answers (exec (.bltQueueWrWrite t q v) s) fun u => u.rd (F.BLT_Q_WR.wr q) = s.rd (F.BLT_Q_WR.wr q)
      ∧ u.rd (F.U_IGNORED_WRITES.count bltBase) = min (s.rd (F.U_IGNORED_WRITES.count bltBase) + 1) 65535)
    ∧ (s.unitsHeld = false → (List.range 4).find? s.bltSupplies = some q → s.bltFree q = true → s.Clean desc 64 →
      Answers (exec (.blitterCommandTake t) s) fun u => RegsSame s u [R.BLT_STATUS] ∧ MemSame s u
        ∧ u.blt = some { taken with result := s.bltCheck taken, waiting := taken.waitEn && (s.bltCheck taken).isNone, since := now })
    ∧ (s.unitsHeld = true ∨ (List.range 4).find? s.bltSupplies = none ∨ (List.range 4).find? s.bltSupplies = some q ∧ s.bltFree q = false →
      Answers (exec (.blitterCommandTake t) s) (· = s.at t))
    ∧ (s.bltRuns 0 = some c → Answers (exec (.bltNop t) s) fun u => u.blt = some { c with result := some 0 } ∧ RegsSame s u [R.BLT_STATUS] ∧ MemSame s u)
    ∧ (s.bltRuns 0 = none → Answers (exec (.bltNop t) s) (· = s.at t))
    ∧ (s.bltRuns 1 = some c → Answers (exec (.bltCopy t) s) fun u => outside u ∧ u.rd (F.BLT_Q_RD.rd q) = rd
      ∧ u.blt = some { c with result := some ((s.at t).copyAll c c.batches).1 })
    ∧ (s.bltRuns 1 = some c → c.written.pixels = [p] → c.src.bpp = 32 → c.dst.bpp = 32 → s.Clean from_ 4 → open_ →
      c.keyEn = false ∨ leNat (s.memBytes from_ 4) ≠ c.w 12 → Answers (exec (.bltCopy t) s) fun u => Wrote s u to_ (s.memBytes from_ 4)
        ∧ u.blt = some { c with result := some 0 } ∧ u.rd64 R.BLT_PIXELS = (s.rd64 R.BLT_PIXELS + 1) % 2 ^ 64)
    ∧ (s.bltRuns 1 = some c → c.written.pixels = [p] → c.src.bpp = 32 → popCount 72 (s.flips (from_ / 8)).toNat = 2 →
      Answers (exec (.bltCopy t) s) fun u => MemSame s u ∧ u.blt = some { c with result := some 3 } ∧ u.rd64 R.BLT_PIXELS = s.rd64 R.BLT_PIXELS)
    ∧ (s.bltRuns 1 = none → Answers (exec (.bltCopy t) s) (· = s.at t))
    ∧ (s.bltRuns 2 = some c → Answers (exec (.bltFill t) s) fun u => outside u ∧ u.blt = some { c with result := some 0 }
      ∧ u.rd64 R.BLT_PIXELS = (s.rd64 R.BLT_PIXELS + (c.written.x1 - c.written.x0) * (c.written.y1 - c.written.y0)) % 2 ^ 64)
    ∧ (s.bltRuns 2 = some c → c.written.pixels = [p] → c.dst.bpp = 32 → open_ → Answers (exec (.bltFill t) s) fun u =>
      Wrote s u to_ (natLe 4 (c.w 12)))
    ∧ (s.bltRuns 2 = none → Answers (exec (.bltFill t) s) (· = s.at t))
    ∧ (waits → s.bltSupplies c.queue = false → Answers (exec (.blitterWaitEnd t) s) fun u => u.blt = none ∧ RegsSame s u [R.BLT_STATUS])
    ∧ (waits → s.bltSupplies c.queue = true → s.headPresent c.waitHead = false → Answers (exec (.blitterWaitEnd t) s) fun u =>
      u.blt = some { c with waiting := false, result := some 4 } ∧ RegsSame s u [R.BLT_STATUS])
    ∧ (waits → s.bltSupplies c.queue = true → s.headPresent c.waitHead = true →
      if (s.at t).bltWaitMet c = true then Answers (exec (.blitterWaitEnd t) s) fun u =>
        u.blt = some { c with waiting := false, result := s.bltRecheck c } ∧ RegsSame s u [R.BLT_STATUS]
      else Answers (exec (.blitterWaitEnd t) s) (· = s.at t))
    ∧ (s.blt = some c → c.result = some st → c.queue = q → c.index = rd → Answers (exec (.blitterComplete t) s) fun u => u.blt = none
      ∧ u.rd (F.BLT_Q_RD.rd q) = (rd + 1) % 65536 ∧ (bit (u.rd F.BLT_IRQ.done) q = (c.irq || bit (s.rd F.BLT_IRQ.done) q))
      ∧ (st = 0 → u.rd (F.BLT_Q_CTRL.halted q) = s.rd (F.BLT_Q_CTRL.halted q))
      ∧ (st ≠ 0 → u.on (F.BLT_Q_CTRL.halted q) = true ∧ bit (u.rd F.BLT_IRQ.error) q = true ∧ u.rd F.BLT_LAST_ERR.status = st % 16
        ∧ u.rd F.BLT_LAST_ERR.queue = q ∧ u.rd F.BLT_LAST_ERR.index = rd ∧ u.rd (F.FAULT_SRC.state 214) ≠ 0)
      ∧ (s.Clean (desc + 56) 4 → s.admits 67 (desc + 56) = true → (∀ i, i < 4 → s.ingestOwned (desc + 56 + i) = false) →
        Wrote s u (desc + 56) (natLe 4 (2 ^ 31 + st))))
    ∧ (s.blt.bind (·.result) = none → Answers (exec (.blitterComplete t) s) (· = s.at t))
    ∧ Answers (exec (.bltQueueCancel t q) s) (fun u => u.on (F.BLT_Q_CTRL.halted q) = false
      ∧ u.rd (F.BLT_Q_RD.rd q) = (rd + (s.bltCount q - if s.bltRunning q = true then 1 else 0)) % 65536
      ∧ (u.blt = if (s.blt.map fun c => c.queue == q && c.waiting) = some true then none else s.blt))
    ∧ Answers (exec (.bltQueueResume t q) s) (fun u => u.on (F.BLT_Q_CTRL.halted q) = false
      ∧ u.rd (F.BLT_Q_CTRL.enable q) = s.rd (F.BLT_Q_CTRL.enable q) ∧ RegsSame s u [R.BLT_Q_CTRL q] ∧ { u with regs := s.regs } = s.at t)

/-- Bell: changes of crosspoints, sinks and bus gains and how they come to rest, cue commands, a voice's envelope and clip, the TDM clocks,
and the audio tick's use of the commands that landed before it and the samples it sends the heads. -/
def Obligations.BellCommands : Prop :=
  ∀ (s : State) (t gain mode k bus b cue arg i p rate n h : Nat) (ins : List Int),
    let now := max s.now t
    let v := s.voice i
    let x := 256 * s.rd F.BELL_XP_SEL.bus + s.rd F.BELL_XP_SEL.input
    let way := if mode = 0 then (if s.rd F.BELL_CTRL.default_mode = 0 then 3 else s.rd F.BELL_CTRL.default_mode) else mode
    let route := fun (m : SMap Route) (j : Nat) => mget (fun _ => {}) m j
    let sink := fun (u : State) (j : Nat) => (mget (fun _ => {}) u.bell.sinks j : SinkRoute)
    let voiceIs := fun (u : State) (y : Voice) => u.voice i = y ∧ (∀ j, j ≠ i → u.voice j = s.voice j) ∧ u.regs = s.regs
    let landed := (s.bell.queue.takeWhile fun c => decide (c.landed < now)).take 64
    let ticks := now % 123750 = 0 ∧ s.rd F.CPR_STATUS.power ≠ 2
    (gain < 65536 → mode < 4 → Answers (exec (.bellXpDataWrite t gain mode) s) fun u => (route u.bell.xp x).target = gain ∧ (route u.bell.xp x).mode = way
      ∧ (route u.bell.xp x).landed = now ∧ (∀ j, j ≠ x → route u.bell.xp j = route s.bell.xp j) ∧ u.regs = s.regs ∧ MemSame s u)
    ∧ (k < 256 → bus < 0x80 ∨ bus = 0xFF → mode < 4 → Answers (exec (.bellSinkWrite t k bus mode) s) fun u => (sink u k).target = bus
      ∧ (sink u k).mode = way ∧ (sink u k).landed = now ∧ u.rd (F.BELL_SINK.bus k) = bus ∧ (∀ j, j ≠ k → sink u j = sink s j)
      ∧ RegsSame s u [R.BELL_SINK k])
    ∧ (k < 256 → 0x80 ≤ bus → bus < 0xFF → Answers (exec (.bellSinkWrite t k bus mode) s) fun u => u.bell = s.bell
      ∧ u.rd (F.BELL_SINK.bus k) = s.rd (F.BELL_SINK.bus k)
      ∧ u.rd (F.U_IGNORED_WRITES.count bellBase) = min (s.rd (F.U_IGNORED_WRITES.count bellBase) + 1) 65535)
    ∧ (b < 128 → gain < 65536 → Answers (exec (.bellBusGainWrite t b gain) s) fun u => (route u.bell.busGain b).target = gain
      ∧ (route u.bell.busGain b).mode = 1 ∧ (route u.bell.busGain b).landed = now ∧ u.rd (F.BELL_BUS_GAIN.gain b) = gain
      ∧ (∀ j, j ≠ b → route u.bell.busGain j = route s.bell.busGain j) ∧ RegsSame s u [R.BELL_BUS_GAIN b])
    ∧ (s.bell.queue.length < 256 → cue < 512 → arg < 256 → Answers (exec (.cueCommand t cue arg false) s) fun u =>
      ⟨cue, arg, true, now, none⟩ ∈ u.bell.queue ∧ u.bell.queue.length = s.bell.queue.length + 1 ∧ u.regs = s.regs)
    ∧ (256 ≤ s.bell.queue.length → Answers (exec (.cueCommand t cue arg false) s) fun u => u.bell = s.bell ∧ u.on F.BELL_IRQ.refused = true
      ∧ u.rd F.BELL_ERRS.refused = min (s.rd F.BELL_ERRS.refused + 1) 65535 ∧ RegsSame s u [R.BELL_ERRS, R.BELL_IRQ])
    ∧ (s.der.actions.findIdx? (·.action == 3) = none → Answers (exec (.cueCommand t cue arg true) s) (· = s.at t))
    ∧ (s.der.actions.findIdx? (·.action == 3) = some n → Answers (exec (.cueCommand t cue arg true) s) (· = (s.at t).landAction n))
    ∧ (v.segTicks ≤ v.count → v.phase = 1 → Answers (exec (.envelopeSegmentEnd t i) s) (voiceIs · (v.enter 2)))
    ∧ (v.segTicks ≤ v.count → v.phase = 2 → Answers (exec (.envelopeSegmentEnd t i) s) (voiceIs · { v with phase := 3, count := 0 }))
    ∧ (v.segTicks ≤ v.count → v.phase = 4 → Answers (exec (.envelopeSegmentEnd t i) s) (voiceIs · { ramp := v.ramp, rampLeft := v.rampLeft, last := v.last }))
    ∧ (v.count < v.segTicks ∨ v.phase = 0 ∨ v.phase = 3 → Answers (exec (.envelopeSegmentEnd t i) s) (· = s.at t))
    ∧ (1 ≤ v.phase → v.phase ≤ 3 → bits (v.words.getD 7 0) 15 0 ≠ 0 → 48 * bits (v.words.getD 7 0) 15 0 ≤ v.age →
      Answers (exec (.envelopeHoldExpire t i) s) (voiceIs · (if cueEnv v.words 7 0 = 0 then { ramp := v.ramp, rampLeft := v.rampLeft, last := v.last }
        else { v with num := v.env.1, den := v.env.2, phase := 4, count := 0 })))
    ∧ (v.phase = 0 ∨ 4 ≤ v.phase ∨ bits (v.words.getD 7 0) 15 0 = 0 ∨ v.age < 48 * bits (v.words.getD 7 0) 15 0 →
      Answers (exec (.envelopeHoldExpire t i) s) (· = s.at t))
    ∧ (v.phase ≠ 0 → 2 ≤ cueSource v.words → cueLength v.words * 65536 ≤ v.pos → Answers (exec (.clipEnd t i) s) (voiceIs · (if cueLoop v.words = true
        then { v with pos := (cueLoopStart v.words * 65536 + (v.pos - cueLength v.words * 65536)) % 2 ^ 32, dec := {} }
        else { ramp := v.ramp, rampLeft := v.rampLeft, last := v.last })))
    ∧ (v.phase = 0 ∨ cueSource v.words < 2 ∨ v.pos < cueLength v.words * 65536 → Answers (exec (.clipEnd t i) s) (· = s.at t))
    ∧ ((route s.bell.xp i).mode = 1 → 64 < (route s.bell.xp i).age → Answers (exec (.crossfadeEnd t 0 i) s) fun u => u.regs = s.regs
      ∧ route u.bell.xp i = (route s.bell.xp i).rest ∧ ∀ j, j ≠ i → route u.bell.xp j = route s.bell.xp j)
    ∧ ((route s.bell.busGain i).mode = 1 → 64 < (route s.bell.busGain i).age → Answers (exec (.crossfadeEnd t 1 i) s) fun u =>
      u.regs = s.regs ∧ route u.bell.busGain i = (route s.bell.busGain i).rest)
    ∧ ((sink s i).mode = 1 → 64 < (sink s i).age → Answers (exec (.crossfadeEnd t 2 i) s) fun u => u.regs = s.regs
      ∧ sink u i = { old := .bus (sink s i).target, target := (sink s i).target })
    ∧ ((route s.bell.xp i).mode ≠ 1 ∨ (route s.bell.xp i).age ≤ 64 → Answers (exec (.crossfadeEnd t 0 i) s) (· = s.at t))
    ∧ ((route s.bell.xp i).mode = 2 → (route s.bell.xp i).done = true → Answers (exec (.zeroCut t 0 i) s) fun u => u.regs = s.regs
      ∧ route u.bell.xp i = (route s.bell.xp i).rest ∧ ∀ j, j ≠ i → route u.bell.xp j = route s.bell.xp j)
    ∧ ((sink s i).mode = 2 → (sink s i).done = true → Answers (exec (.zeroCut t 2 i) s) fun u => u.regs = s.regs
      ∧ sink u i = { old := .bus (sink s i).target, target := (sink s i).target })
    ∧ ((route s.bell.xp i).mode ≠ 2 ∨ (route s.bell.xp i).done = false → Answers (exec (.zeroCut t 0 i) s) (· = s.at t))
    ∧ (p < 8 → s.on (F.BELL_TDM.enable p) = true → s.on (F.BELL_TDM.master p) = false → 1600000 ≤ rate → rate ≤ 9600000 →
      Answers (exec (.tdmLock t p rate) s) fun u => u.on (F.BELL_TDM_STATUS.locked p) = true ∧ u.rd (F.BELL_TDM_STATUS.rate p) = rate
        ∧ RegsSame s u [R.BELL_TDM_STATUS p] ∧ { u with regs := s.regs } = s.at t)
    ∧ (s.on (F.BELL_TDM.enable p) = false ∨ s.on (F.BELL_TDM.master p) = true ∨ rate < 1600000 ∨ 9600000 < rate →
      Answers (exec (.tdmLock t p rate) s) (· = s.at t))
    ∧ (p < 8 → s.on (F.BELL_TDM_STATUS.locked p) = true → s.on (F.BELL_TDM.master p) = false → Answers (exec (.tdmUnlock t p rate) s) fun u =>
      u.on (F.BELL_TDM_STATUS.locked p) = false ∧ u.rd (F.BELL_TDM_STATUS.rate p) = rate % 2 ^ 24 ∧ u.on F.BELL_IRQ.unlock = true
        ∧ u.rd (F.FAULT_SRC.state 215) ≠ 0 ∧ u.bell = s.bell)
    ∧ (s.on (F.BELL_TDM_STATUS.locked p) = false ∨ s.on (F.BELL_TDM.master p) = true → Answers (exec (.tdmUnlock t p rate) s) (· = s.at t))
    ∧ (ticks → Answers (exec (.audioTick t ins) s) fun u => u.bell.queue = s.bell.queue.drop landed.length
      ∧ (h < 24 → s.on (F.TX_CTRL.audio_en h) = true → s.headPresent h = true → s.headState h ≠ 0 → s.rd (F.TX_STATUS.link_state h) = 2 →
        ∃ xs, xs.length = [2, 6, 8, 8].getD ((s.head h).audio % 4) 8 ∧ Output.audio (64 + 8 * h) xs ∈ u.out))
    ∧ (¬ ticks → Answers (exec (.audioTick t ins) s) (· = s.at t))

/-- Sources and doorbells at the interrupt controller: an edge or a ring makes its source pending, or is counted as merged where it is
pending already; a level source is pending while it is asserted and not active. Claims and ends of interrupt: a core's read of its claim register takes the highest source presented, which becomes active on it; another
master reads 1023 and claims nothing; the end of an active source makes it inactive, an end that names none is counted; in the Forerunner
profile claims stack. -/
def Obligations.InterruptSourcesAndClaims : Prop :=
  (∀ (s : State) (t i k b : Nat),
    (64 ≤ i → i < 704 → lineEvent i = none → s.on (F.INTC_SRC.edge i) = false → Answers (exec (.sourceLevelChange t i) s) fun u =>
      u.on (F.INTC_SRC.asserted i) = (s.at t).sourceLevel i
      ∧ u.on (F.INTC_SRC.pending i) = ((s.at t).sourceLevel i && !s.on (F.INTC_SRC.active i))
      ∧ RegsSame s u [R.INTC_SRC i] ∧ { u with regs := s.regs } = s.at t)
    ∧ (∀ at_, (i, at_) ∈ s.intc.inFlight → at_ = max s.now t → s.on (F.INTC_SRC.pending i) = false →
      Answers (exec (.sourceEdge t i) s) fun u => u.on (F.INTC_SRC.pending i) = true
        ∧ u.intc.inFlight.length + 1 = s.intc.inFlight.length ∧ RegsSame s u [R.INTC_SRC i])
    ∧ (∀ h at_, (64 + 4 * h, at_) ∈ s.intc.inFlight → h < 24 → at_ = max s.now t → s.on (F.INTC_SRC.pending (64 + 4 * h)) = true →
      Answers (exec (.sourceEdge t (64 + 4 * h)) s) fun u => u.on (F.INTC_SRC.pending (64 + 4 * h)) = true
        ∧ u.rd (F.BEAM_EVENT_MISSED.event0 h) = min (s.rd (F.BEAM_EVENT_MISSED.event0 h) + 1) 0xFFFF
        ∧ RegsSame s u [R.BEAM_EVENT_MISSED h])
    ∧ (k < 32 → b < 32 → bit (s.rd (F.INTC_PRIV_PEND.bells k)) b = false → Answers (exec (.intcDoorbellWrite t k b) s) fun u =>
      bit (u.rd (F.INTC_PRIV_PEND.bells k)) b = true
      ∧ (∀ j, j < 32 → j ≠ b → bit (u.rd (F.INTC_PRIV_PEND.bells k)) j = bit (s.rd (F.INTC_PRIV_PEND.bells k)) j)
      ∧ RegsSame s u [R.INTC_PRIV_PEND k] ∧ { u with regs := s.regs } = s.at t)
    ∧ (k < 32 → b < 32 → bit (s.rd (F.INTC_PRIV_PEND.bells k)) b = true → Answers (exec (.intcDoorbellWrite t k b) s) fun u =>
      u.rd F.INTC_MERGED.count = min (s.rd F.INTC_MERGED.count + 1) 0xFFFF ∧ u.rd F.INTC_MERGED.last_id = b
      ∧ RegsSame s u [R.INTC_MERGED]))
  ∧ (∀ (s : State) (t k i p id : Nat) (ms : List Master) (m : Master), k < 32 →
    let claimed := fun (u : State) => u.activeFor k i = true ∧ Output.rimRead (.core k) (R.INTC_CLAIM k) (BitVec.ofNat 32 i) false ∈ u.out
    ((s.at t).presented k false = some (i, p) → Master.core k ∈ ms → s.intcForerunner = false →
      Answers (exec (.intcClaimRead t k ms) s) fun u => claimed u ∧ u.intc.stack = s.intc.stack)
    ∧ ((s.at t).presented k false = some (i, p) → Master.core k ∈ ms → s.intcForerunner = true →
      Answers (exec (.intcClaimRead t k ms) s) fun u => claimed u
        ∧ mget (fun _ => []) u.intc.stack k = (i, p) :: mget (fun _ => []) s.intc.stack k)
    ∧ (Master.core k ∉ ms → Answers (exec (.intcClaimRead t k ms) s) fun u =>
      (∀ n ∈ ms, Output.rimRead n (R.INTC_CLAIM k) 1023#32 false ∈ u.out) ∧ { u with out := s.out } = s.at t)
    ∧ (s.intcForerunner = false → id < 1023 → s.activeFor k id = true → Answers (exec (.intcEoiWrite t k id (.core k)) s) fun u =>
      u.activeFor k id = false ∧ u.cores = s.cores ∧ MemSame s u)
    ∧ (s.intcForerunner = false → id < 1023 → s.activeFor k id = false → Answers (exec (.intcEoiWrite t k id (.core k)) s) fun u =>
      u.rd (F.INTC_EOI_BAD.count k) = min (s.rd (F.INTC_EOI_BAD.count k) + 1) 0xFFFF ∧ u.rd (F.INTC_EOI_BAD.last k) = id
      ∧ RegsSame s u [R.INTC_EOI_BAD k] ∧ { u with regs := s.regs } = s.at t)
    ∧ (s.intcForerunner = true → id < 1023 → ∀ q st, mget (fun _ => []) s.intc.stack k = q :: st →
      Answers (exec (.intcEoiWrite t k id (.core k)) s) fun u => mget (fun _ => []) u.intc.stack k = st ∧ u.activeFor k q.1 = false)
    ∧ (m ≠ .core k → Answers (exec (.intcEoiWrite t k id m) s) fun u => u.intc = s.intc)
    ∧ (s.rd (F.INTC_FAST_ID.id k) = i → i ≠ 1023 → Answers (exec (.intcFastEoiWrite t k (.core k)) s) fun u =>
      u.rd (F.INTC_FAST_ID.id k) = 1023 ∧ u.activeFor k i = false ∧ u.cores = s.cores))

/-- Timer channels: a write of the count or of the compare, the match at a tick, and the capture of several counts at one moment. -/
def Obligations.TimerChannels : Prop :=
  ∀ (s : State) (t ch v channels : Nat), ch < 32 →
    let now := max s.now t
    Answers (exec (.tmrCountWrite t ch v) s) (fun u => u.timerCount ch = v % 2 ^ 64 ∧ (∀ j, j ≠ ch → u.timer j = s.timer j)
      ∧ u.regs = s.regs ∧ { u with field := s.field } = s.at t)
    ∧ Answers (exec (.tmrCompareWrite t ch v) s) (fun u => u.rd64 (R.TMR_COMPARE ch) = v % 2 ^ 64 ∧ (u.timer ch).landed = now
      ∧ u.timerCount ch = (s.at t).timerCount ch ∧ RegsSame s u [R.TMR_COMPARE ch, R.TMR_COMPARE ch + 4])
    ∧ (s.rd F.CPR_STATUS.power ≠ 2 ∨ ch = 31 → (s.at t).timerDue ch = true → Answers (exec (.timerMatch t ch) s) fun u =>
      u.on (F.TMR_STATUS.hit ch) = true ∧ (s.on (F.TMR_STATUS.hit ch) = true → u.on (F.TMR_STATUS.overrun ch) = true)
      ∧ (u.timer ch).matched = some now
      ∧ u.rd64 (R.TMR_COMPARE ch) = (if s.on (F.TMR_CTRL.reload ch) = true
          then (s.rd64 (R.TMR_COMPARE ch) + s.rd64 (R.TMR_PERIOD ch)) % 2 ^ 64 else s.rd64 (R.TMR_COMPARE ch))
      ∧ (∀ n, n < 64 → bit u.field.toggle n = (bit s.field.toggle n != (s.rd (F.FL_CFG.timer n) == ch)))
      ∧ RegsSame s u [R.TMR_STATUS ch, R.TMR_COMPARE ch, R.TMR_COMPARE ch + 4])
    ∧ Answers (exec (.tmrSnap t channels) s) (fun u => u.rd64 R.TMR_SNAP_TIME = 50 * now / 297 % 2 ^ 64
      ∧ (∀ j, j < 32 → channels.testBit j = true → u.rd64 (R.TMR_CH_SNAP j) = (s.at t).timerCount j)
      ∧ (∀ j, j < 32 → channels.testBit j = false → u.rd64 (R.TMR_CH_SNAP j) = s.rd64 (R.TMR_CH_SNAP j)) ∧ u.field = s.field)

/-- Field lines: the level a filter accepts and its capture, the end of a change of direction, a shorted driver and its retry, and the
sample edge, which takes the balls' levels, drives every output from its enabled sources as held strictly before it, and decides the
records of Derailleur output bits whose level reaches the pin at it. -/
def Obligations.FieldLines : Prop :=
  ∀ (s : State) (t n ext lvl twin : Nat) (b : Bool) (c : Nat) (p : Photon), n < 64 →
    let now := max s.now t
    let held := (s.at t).before
    let need := 10 * s.rd (F.FL_CFG.debounce n) + 1
    let caps := fun (u : State) => mget (fun _ => []) u.field.caps n
    (mget (fun _ => (false, 0)) s.field.filter n = (b, c) → s.lineOut n = false → s.lineChanging n = false →
      s.on (F.FL_STATUS.level n) ≠ b → need ≤ c → Answers (exec (.filterAccept t n) s) fun u => u.on (F.FL_STATUS.level n) = b
        ∧ (bit (s.rd (F.FL_CFG.edges n)) (if b then 0 else 1) = true → (caps s).length < 8 →
          caps u = caps s ++ [(nsOf (s.field.edge - samplePeriod * (c - need)) - 50, b)])
        ∧ (bit (s.rd (F.FL_CFG.edges n)) (if b then 0 else 1) = true → 8 ≤ (caps s).length →
          caps u = caps s ∧ u.on (F.FL_STATUS.overflow n) = true)
        ∧ (∀ j, j ≠ n → mget (fun _ => []) u.field.caps j = mget (fun _ => []) s.field.caps j) ∧ u.sb.handed.length = s.sb.handed.length + 1)
    ∧ (mget (fun _ => 0) s.field.changing n ≠ 0 → mget (fun _ => 0) s.field.changing n ≤ now →
      Answers (exec (.directionChangeEnd t n) s) fun u => u.lineChanging n = false ∧ bit u.field.dirNow n = !bit s.field.dirNow n
        ∧ (∀ j, j ≠ n → bit u.field.dirNow j = bit s.field.dirNow j) ∧ { u with field := s.field } = s.at t)
    ∧ (s.lineOut n = true → mget (fun _ => none) s.field.pad n ≠ none → Answers (exec (.outputShort t n) s) fun u =>
      bit u.field.shorted n = true ∧ mget (fun _ => none) u.field.pad n = none ∧ u.on (F.FL_STATUS.short n) = true
        ∧ u.rd (F.FAULT_SRC.state 216) ≠ 0)
    ∧ (bit s.field.shorted n = true → nsOf now % 100_000_000 ≤ 1_000_000 → Answers (exec (.shortRetry t n true) s) fun u =>
      bit u.field.shorted n = false ∧ u.on (F.FL_STATUS.short n) = false ∧ (∀ j, j ≠ n → bit u.field.shorted j = bit s.field.shorted j)
        ∧ (u.field.shorted = 0 → u.rd (F.FAULT_SRC.state 216) = 0) ∧ RegsSame s u [R.FL_STATUS n, R.FAULT_SRC 216])
    ∧ (bit s.field.shorted n = true → nsOf now % 100_000_000 ≤ 1_000_000 → Answers (exec (.shortRetry t n false) s) fun u =>
      bit u.field.shorted n = true ∧ mget (fun _ => none) u.field.pad n = none)
    ∧ (now % samplePeriod = 0 → s.locked = false → s.padsHeld = false → s.lineChanging n = false →
      held.on (F.FL_CFG.dir n) = bit s.field.dirNow n → s.clock.stopped = false → s.isShadow = false → bit s.field.shorted n = false →
      Answers (exec (.fieldLineSampleEdge t ext lvl twin) s) fun u =>
        bit u.field.balls n = (if bit ext n = true then bit lvl n else (mget (fun _ => none) s.field.pad n).getD (bit s.field.balls n))
        ∧ mget (fun _ => none) u.field.pad n = (if s.lineOut n = false then none
            else if held.on (F.FL_CFG.od n) = true then (if held.lineLevel n = true then some false else none) else some (held.lineLevel n))
        ∧ u.cores = s.cores ∧ MemSame s u)
    ∧ (now % samplePeriod = 0 → s.locked = false → p ∈ s.der.photons → p.kind = 3 → p.ending = none → p.edge ≤ now →
      Answers (exec (.fieldLineSampleEdge t ext lvl twin) s) fun u => { p with ending := some ⟨if bit s.field.dirNow p.target = true
        ∧ held.on (F.FL_CFG.src_der p.target) = true then 0 else 1, p.edge, 0, 0, 0⟩ } ∈ u.der.photons)
    ∧ (now % samplePeriod ≠ 0 → Answers (exec (.fieldLineSampleEdge t ext lvl twin) s) (· = s.at t))

/-- A DMA engine: a start request, the channel taken, a descriptor fetched and checked, a transfer in scene memory carried out and completed,
the halt on a failure and its end, and a channel that is disabled. -/
def Obligations.DmaEngines : Prop :=
  ∀ (s : State) (t e c off so dO st written got : Nat) (w : List Nat), e < 8 → c < 8 →
    let dma := s.dmaOf e
    let d := dmaDesc w
    let runs := s.on (F.DMA_STATUS.busy e) = true ∧ s.rd (F.DMA_STATUS.channel e) = c ∧ s.dmaHeld e = false
    let idle := fun (u : State) => u.on (F.DMA_STATUS.busy e) = false ∧ u.on (F.DMA_CH_STATUS.running e c) = false ∧ (u.dmaOf e).desc = none
    let ended := fun (u : State) (st : Nat) => idle u ∧ u.rd (F.DMA_CH_STATUS.status e c) = st % 16 ∧ u.on (F.DMA_CH_CTRL.enable e c) = false
      ∧ bit (u.dmaOf e).starts c = false
    let halts := fun (u : State) (st a : Nat) (write : Bool) (phase : Nat) => ended u st ∧ u.on (F.DMA_STATUS.halted e) = true
      ∧ u.rd (F.DMA_ERR_ADDR.addr e) = a % 2 ^ 32 ∧ u.rd (F.DMA_ERR_INFO.status e) = st % 16 ∧ u.on (F.DMA_ERR_INFO.write e) = write
      ∧ u.rd (F.DMA_ERR_INFO.phase e) = phase ∧ u.rd (F.DMA_ERR_INFO.channel e) = c ∧ u.rd (F.FAULT_SRC.state (206 + e)) ≠ 0
    let bytes := s.memBytes so d.len
    (s.dmaChannel e ≠ some c → Answers (exec (.dmaChStart t e c) s) fun u => bit (u.dmaOf e).starts c = true
      ∧ (∀ j, j ≠ c → bit (u.dmaOf e).starts j = bit dma.starts j) ∧ (∀ j, j ≠ e → u.dmaOf j = s.dmaOf j) ∧ u.regs = s.regs)
    ∧ (s.dmaChannel e = some c → Answers (exec (.dmaChStart t e c) s) fun u => u.dma = s.dma
      ∧ u.rd (F.U_IGNORED_WRITES.count (dmaBase e)) = min (s.rd (F.U_IGNORED_WRITES.count (dmaBase e)) + 1) 65535)
    ∧ (s.dmaPick e = some c → s.dmaReady e c = true ∧ ∀ j, j < 8 → s.dmaReady e j = true →
      s.rd (F.DMA_CH_CTRL.priority e j) < s.rd (F.DMA_CH_CTRL.priority e c)
        ∨ (s.rd (F.DMA_CH_CTRL.priority e j) = s.rd (F.DMA_CH_CTRL.priority e c) ∧ c ≤ j))
    ∧ (s.dmaHeld e = false → s.unitsHeld = false → s.on (F.DMA_STATUS.busy e) = false → s.on (F.DMA_STATUS.swap_pending e) = false → s.dmaPick e = some c →
      Answers (exec (.dmaChannelTake t e) s) fun u => u.dmaChannel e = some c ∧ bit (u.dmaOf e).starts c = false
        ∧ (u.dmaOf e).next = 32 * s.rd (F.DMA_CH_DESC.addr e c) ∧ (u.dmaOf e).desc = none ∧ u.on (F.DMA_CH_STATUS.running e c) = true)
    ∧ (s.dmaHeld e = true ∨ s.unitsHeld = true ∨ s.on (F.DMA_STATUS.busy e) = true ∨ s.on (F.DMA_STATUS.swap_pending e) = true ∨ s.dmaPick e = none →
      Answers (exec (.dmaChannelTake t e) s) (· = s.at t))
    ∧ (runs → dma.desc = none → dmaPlace dma.next 32 = .scene off → s.Clean off 32 → w = descWords (s.memBytes off 32) →
      (s.descFault e w = none → Answers (exec (.dmaDescriptorFetch t e) s) fun u => u.dmaOf e = { dma with desc := some w }
        ∧ u.rd (F.DMA_CH_STATUS.remain e c) = d.len ∧ MemSame s u)
      ∧ (s.descFault e w = some st → Answers (exec (.dmaDescriptorFetch t e) s) fun u => halts u st dma.next false 0 ∧ MemSame s u))
    ∧ (runs → dma.desc = none → dmaPlace dma.next 32 = .nowhere → Answers (exec (.dmaDescriptorFetch t e) s) fun u => halts u 1 dma.next false 0 ∧ MemSame s u)
    ∧ (s.dmaChannel e = none ∨ s.dmaHeld e = true ∨ dma.desc.isSome = true → Answers (exec (.dmaDescriptorFetch t e) s) (· = s.at t))
    ∧ (runs → dma.desc = some w → Answers (exec (.dmaDescriptorComplete t e) s) (· = (s.at t).dmaRun e c d))
    ∧ (runs → dma.desc = some w → d.srcFixed = false → d.dstFixed = false → d.confirm = false → d.src = 0x1000_0000 + so → d.dst = 0x1000_0000 + dO →
      so + d.len ≤ 0x1000_0000 → dO + d.len ≤ 0x1000_0000 → so + d.len ≤ dO ∨ dO + d.len ≤ so → s.Clean so d.len → s.Clean dO d.len →
      (∀ i, i < d.len → s.admits (56 + e) (dO + i) = true ∧ s.ingestOwned (dO + i) = false) →
      Answers (exec (.dmaDescriptorComplete t e) s) fun u => (∃ x : State, Wrote s x dO bytes ∧ x.regs = s.regs ∧ u = x.dmaDone e c d)
        ∧ u.rd (F.DMA_CH_STATUS.status e c) = 0 ∧ u.rd (F.DMA_CH_STATUS.remain e c) = 0
        ∧ (u.on (F.DMA_CH_STATUS.done e c) = (d.irq || s.on (F.DMA_CH_STATUS.done e c)))
        ∧ (d.last = true → idle u) ∧ (d.last = false → u.dmaOf e = { dma with desc := none, next := d.next } ∧ u.dmaChannel e = some c))
    ∧ (runs → dma.desc = some w → 0 < d.len → d.len < 2 ^ 24 → d.srcW ≤ d.len → d.src % d.srcW = 0 → (∀ n, dmaPlace d.src n = .nowhere) →
      Answers (exec (.dmaDescriptorComplete t e) s) fun u => halts u 1 d.src false 1 ∧ u.rd (F.DMA_CH_STATUS.remain e c) = d.len ∧ MemSame s u)
    ∧ (s.dmaChannel e = none ∨ dma.desc = none ∨ s.dmaHeld e = true → Answers (exec (.dmaDescriptorComplete t e) s) (· = s.at t))
    ∧ (s.dmaChannel e = some c → dma.desc = none → Answers (exec (.dmaChannelDisable t e written got) s) fun u => ended u 6)
    ∧ (s.dmaChannel e = some c → dma.desc = some w → 0 < d.len → d.len < 2 ^ 24 → Answers (exec (.dmaChannelDisable t e 0 0) s) fun u => ended u 6
      ∧ u.rd (F.DMA_CH_STATUS.remain e c) = d.len)
    ∧ (s.dmaChannel e = some c → dma.desc = some w → Answers (exec (.dmaChannelDisable t e written got) s) (· = (s.at t).dmaCut e c d written got))
    ∧ (s.dmaChannel e = none → Answers (exec (.dmaChannelDisable t e written got) s) (· = s.at t))
    ∧ Answers (exec (.dmaResume t e) s) (fun u => u.on (F.DMA_STATUS.halted e) = false ∧ u.on (F.DMA_STATUS.busy e) = s.on (F.DMA_STATUS.busy e)
      ∧ RegsSame s u [R.DMA_STATUS e] ∧ { u with regs := s.regs } = s.at t)

/-- The archive: entries staged or lost, written and confirmed, segments closed and opened, keyframes begun, held and ended, and spans frozen and released. -/
def Obligations.SaddlebagEntriesAndSegments : Prop :=
  ∀ (s : State) (t i n : Nat) (room own : Bool) (e : Nat × Nat × Nat × List Byte) (rest : List (Nat × Nat × Nat × List Byte)) (x : SbEntry),
    let now := max s.now t
    let me := s.rd F.TANDEM_STATUS.index
    let state := fun (u : State) (d : Nat) => u.rd (F.SB_DRIVE.state d)
    let entry := fun (chip : Nat) (e : Nat × Nat × Nat × List Byte) => SbEntry.mk e.1 chip e.2.1 s.sb.nextSeq e.2.2.1 e.2.2.2
    let staged := fun (u : State) (chip : Nat) (e : Nat × Nat × Nat × List Byte) =>
      u.sb.staging = s.sb.staging ++ [entry chip e] ∧ u.sb.nextSeq = s.sb.nextSeq + 1
    let lost := fun (u : State) => u.sb.staging = s.sb.staging ∧ u.sb.nextSeq = s.sb.nextSeq + 1
      ∧ u.sb.lost = (match s.sb.lost with | none => some (s.sb.nextSeq, 1, 50 * now / 297) | some (a, c, y) => some (a, c + 1, y))
    let handed := fun (r : Host.Outcome State Fault Refusal) (kind : Nat) (body : List Byte) => Answers r fun u =>
      u.sb.handed = s.sb.handed ++ [(kind, 0xFF, 50 * now / 297, body)] ∧ MemSame s u
    let start := s.rd64 R.SB_FREEZE_START
    let stop := s.rd64 R.SB_FREEZE_END
    let frozen := (s.sb.segments.filter fun p => s.segFrozen (s.spanList ++ [(start, stop)]) p.2).length
    let span := fun (u : State) (j : Nat) => (mget (fun _ => none) u.sb.spans j : Option (Nat × Nat))
    (s.sb.handed = e :: rest → room = true → s.on F.SB_STATUS.full = false → s.sb.lost = none → s.isShadow = false →
      Answers (exec (.archiveEntry t room none) s) fun u => staged u me e ∧ u.sb.handed = rest ∧ u.regs = s.regs)
    ∧ (s.sb.handed = e :: rest → room = false ∨ s.on F.SB_STATUS.full = true → s.isShadow = false →
      Answers (exec (.archiveEntry t room none) s) fun u => lost u ∧ u.sb.handed = rest ∧ u.regs = s.regs)
    ∧ (∀ a c y, s.sb.handed = e :: rest → room = true → s.on F.SB_STATUS.full = false → s.sb.lost = some (a, c, y) →
      Answers (exec (.archiveEntry t room none) s) fun u => u.sb.lost = none ∧ u.sb.nextSeq = s.sb.nextSeq + 2
        ∧ u.sb.staging = s.sb.staging ++ [⟨10, me, 0xFF, s.sb.nextSeq, y, natLe 8 a ++ natLe 8 c⟩, { entry me e with seq := s.sb.nextSeq + 1 }]
        ∧ u.rd F.SB_STATUS.gaps = min (s.rd F.SB_STATUS.gaps + 1) 65535 ∧ u.on F.SB_IRQ.gap = true ∧ u.rd (F.FAULT_SRC.state 217) ≠ 0)
    ∧ (s.sb.handed = [] → Answers (exec (.archiveEntry t room none) s) (· = s.at t))
    ∧ (s.isPrimary = true → room = true → s.on F.SB_STATUS.full = false → s.sb.lost = none → Answers (exec (.archiveEntry t room (some e)) s) fun u =>
      staged u (1 - me) e ∧ u.sb.handed = s.sb.handed ∧ u.regs = s.regs)
    ∧ (s.isPrimary = false → Answers (exec (.archiveEntry t room (some e)) s) (· = s.at t))
    ∧ (s.isShadow = false → s.sb.writing = [] → s.sb.current = some i → Answers (exec (.stagingDrain t) s) fun u =>
      u.sb.writing ++ u.sb.staging = s.sb.staging ∧ (u.sb.writing.map (·.size)).sum ≤ 0x10_0000
        ∧ (s.segment i).size + (u.sb.writing.map (·.size)).sum ≤ max (s.segment i).size (segmentBytes - sealSize) ∧ u.regs = s.regs
        ∧ u.sb.segments = s.sb.segments)
    ∧ (s.isShadow = true ∨ s.sb.writing ≠ [] → Answers (exec (.stagingDrain t) s) (· = s.at t))
    ∧ (s.isShadow = false → s.sb.current = some i → s.sb.writing.getLast? = some x → state s 0 = 1 ∨ state s 0 = 2 ∨ state s 1 = 1 ∨ state s 1 = 2 →
      Answers (exec (.driveWriteComplete t n) s) fun u => (u.segment i).entries = (s.segment i).entries ++ s.sb.writing ∧ u.sb.writing = []
        ∧ u.rd64 R.SB_SEQ = x.seq % 2 ^ 64 ∧ ∀ j, j ≠ i → u.segment j = s.segment j)
    ∧ (s.isShadow = true → Answers (exec (.driveWriteComplete t n) s) (· = { s.at t with sb.staging := s.sb.staging.drop n }))
    ∧ (s.sb.current = some i → s.sb.writing = [] → s.sb.flush = true ∨ s.frontTooBig (s.segment i) = true → Answers (exec (.segmentClose t) s) fun u =>
      u.sb.nextSeq = s.sb.nextSeq + 1 ∧ u.sb.superblocks = s.sb.superblocks + 1 ∧ u.sb.flush = false ∧ u.rd64 R.SB_SEQ = s.sb.nextSeq % 2 ^ 64
        ∧ (u.sb.current ≠ some i → (u.segment i).closed = true ∧ ∃ y, (u.segment i).entries = (s.segment i).entries ++ [y] ∧ y.kind = 12
          ∧ y.seq = s.sb.nextSeq)
        ∧ (u.sb.current = none → u.on F.SB_STATUS.full = true) ∧ (∀ j, u.sb.current = some j → (u.segment j).number = s.sb.nextNumber ∧
          (u.segment j).entries = [] ∧ u.on F.SB_STATUS.full = false))
    ∧ (s.sb.current = none ∨ s.sb.writing ≠ [] → Answers (exec (.segmentClose t) s) (· = s.at t))
    ∧ Answers (exec (.sbFlush t) s) (· = { s.at t with sb.flush := s.sb.current.isSome })
    ∧ (s.on F.SB_STATUS.keying = false → handed (exec (.keyframeStart t true) s) 7 (natLe 8 s.sb.keyNumber)
      ∧ Answers (exec (.keyframeStart t true) s) fun u => u.on F.SB_STATUS.keying = true ∧ RegsSame s u [R.SB_STATUS])
    ∧ (s.on F.SB_STATUS.keying = true → Answers (exec (.keyframeStart t true) s) fun u => u.sb.keyNumber = s.sb.keyNumber
      ∧ u.on F.SB_STATUS.keying = true ∧ u.rd (F.U_IGNORED_WRITES.count sbBase) = min (s.rd (F.U_IGNORED_WRITES.count sbBase) + 1) 65535)
    ∧ (s.on F.SB_STATUS.keying = false → s.rd F.SB_CTRL.key_period_k ≠ 0 → 1000 * s.rd F.SB_CTRL.key_period_k ≤ s.sb.keyFrames →
      handed (exec (.keyframeStart t false) s) 7 (natLe 8 s.sb.keyNumber))
    ∧ (s.on F.SB_STATUS.keying = true → if (s.at t).chipLatch = true
      then Answers (exec (.keyframeHold t false) s) (· = { s.at t with sb.keyHold := true, sb.keyCopied := true })
      else Answers (exec (.keyframeHold t false) s) (· = s.at t))
    ∧ (s.on F.SB_STATUS.keying = true → s.sb.keyHold = true → s.Clean 0 0x1000_0000 → s.ing.queue = [] → s.ing.writes = [] →
      Answers (exec (.keyframeHold t true) s) fun u => u.sb.keyHold = false ∧ (∀ k, k < 32 → (u.wdog k).reload = now)
      ∧ u.on F.SB_STATUS.keying = false ∧ u.rd F.SB_KEY.number = s.sb.keyNumber % 65536 ∧ u.sb.keyNumber = s.sb.keyNumber + 1
      ∧ u.on F.SB_IRQ.key_done = true ∧ MemSame s u
      ∧ ∃ blocks y, u.sb.handed = s.sb.handed ++ blocks ++ [(6, 0xFF, 50 * now / 297, y), (8, 0xFF, 50 * now / 297, natLe 8 s.sb.keyNumber)]
        ∧ ∀ z ∈ blocks, z.1 = 5 ∧ z.2.2.1 = now)
    ∧ (s.on F.SB_STATUS.keying = false → Answers (exec (.keyframeHold t own) s) (· = s.at t))
    ∧ ((List.range 64).find? (fun j => (span s j).isNone) = some i → 2 * frozen ≤ s.segCount → Answers (exec (.sbFreeze t) s) fun u =>
      span u i = some (start, stop) ∧ (∀ j, j ≠ i → span u j = span s j)
        ∧ u.rd F.SB_STATUS.spans = (s.rd F.SB_STATUS.spans + 1) % 128
        ∧ u.sb.handed = s.sb.handed ++ [(11, 0xFF, 50 * now / 297, natLe 8 start ++ natLe 8 stop ++ natLe 8 i)])
    ∧ ((List.range 64).find? (fun j => (span s j).isNone) = none ∨ s.segCount < 2 * frozen → Answers (exec (.sbFreeze t) s) fun u =>
      u.on F.SB_STATUS.freeze_refused = true ∧ u.sb = s.sb)
    ∧ ((span s i).isSome = true → Answers (exec (.sbUnfreeze t i) s) fun u => span u i = none ∧ (∀ j, j ≠ i → span u j = span s j)
      ∧ u.rd F.SB_STATUS.spans = s.rd F.SB_STATUS.spans - 1)
    ∧ (span s i = none → Answers (exec (.sbUnfreeze t i) s) (· = s.at t))

/-- Reads of the archive into scene memory, their start, end and failure; and drives that time out, go, come, are adopted and are rebuilt. -/
def Obligations.SaddlebagReadsAndDrives : Prop :=
  ∀ (s : State) (t d n lbas gen width : Nat) (own : Bool) (w : Word) (data : List Byte) (got : Option (List Byte)), d < 2 →
    let now := max s.now t
    let state := fun (u : State) (d : Nat) => u.rd (F.SB_DRIVE.state d)
    let block := slice data 0 (4096 * n)
    let drive := s.drive d
    (s.on F.SB_READ_CTRL.busy = false → getBits w 11 0 < 2048 → Answers (exec (.sbReadStart t w) s) fun u =>
      u.sb.reading = some (s.rd64 R.SB_READ_LBA, getBits w 11 0 + 1, 4096 * s.rd F.SB_READ_DST.offset) ∧ u.on F.SB_READ_CTRL.busy = true
        ∧ RegsSame s u [R.SB_READ_CTRL])
    ∧ (s.on F.SB_READ_CTRL.busy = true ∨ 2048 ≤ getBits w 11 0 → Answers (exec (.sbReadStart t w) s) fun u => u.sb.reading = s.sb.reading
      ∧ u.rd (F.U_IGNORED_WRITES.count sbBase) = min (s.rd (F.U_IGNORED_WRITES.count sbBase) + 1) 65535)
    ∧ (∀ lba dst, s.sb.reading = some (lba, n, dst) → s.isPrimary = false → s.locked = false →
      (s.admitsAll 70 dst block.length = true → (∀ j, j < block.length → s.admits 70 (dst + j) = true ∧ s.ingestOwned (dst + j) = false) →
        s.Clean dst block.length → Answers (exec (.sbReadComplete t (some data)) s) fun u => Wrote s u dst block ∧ u.sb.reading = none
          ∧ u.on F.SB_READ_CTRL.busy = false ∧ u.on F.SB_IRQ.read_done = true ∧ RegsSame s u [R.SB_READ_CTRL, R.SB_IRQ])
      ∧ (s.admitsAll 70 dst block.length = false → Answers (exec (.sbReadComplete t (some data)) s) fun u => MemSame s u ∧ u.sb.reading = none
          ∧ u.on F.SB_READ_CTRL.busy = false ∧ u.rd F.HUB_WRITE_DENIED.requestor = 70))
    ∧ (s.sb.reading.isSome = true → s.isPrimary = false → s.locked = false → Answers (exec (.sbReadComplete t none) s) fun u => u.sb.reading = none ∧ u.on F.SB_READ_CTRL.busy = false
      ∧ u.on F.SB_IRQ.read_err = true ∧ MemSame s u)
    ∧ (s.sb.reading.isSome = true → s.isPrimary = true → Answers (exec (.sbReadComplete t got) s) (· =
      { s.at t with tandem.journal := s.tandem.journal ++ [⟨11880 + now, .readData got⟩] }))
    ∧ (s.sb.reading = none ∨ (s.isPrimary = false ∧ s.locked = true) → Answers (exec (.sbReadComplete t got) s) (· = s.at t))
    ∧ (state s d = 1 ∨ state s d = 2 → drive.timeouts < 2 → Answers (exec (.driveTimeout t d) s) fun u => u.regs = s.regs
      ∧ u.drive d = { drive with timeouts := drive.timeouts + 1 } ∧ u.drive (1 - d) = s.drive (1 - d))
    ∧ (state s d = 1 ∨ state s d = 2 → 2 ≤ drive.timeouts → Answers (exec (.driveTimeout t d) s) fun u => state u d = 3
      ∧ u.on F.SB_IRQ.drive_change = true ∧ u.rd (F.FAULT_SRC.state 217) ≠ 0)
    ∧ (state s d = 0 ∨ state s d = 3 → Answers (exec (.driveTimeout t d) s) (· = s.at t))
    ∧ Answers (exec (.driveRemove t d) s) (fun u => state u d = 3 ∧ u.drive d = {} ∧ u.rd (F.SB_DRIVE.link d) = 0 ∧ u.rd (F.FAULT_SRC.state 217) ≠ 0)
    ∧ (lbas ≠ 0 → state s d = 0 ∨ state s d = 3 → own = true ∨ s.sb.adopt = true → Answers (exec (.driveInsert t d lbas 4096 own gen width) s) fun u =>
      u.drive d = ⟨lbas, own, 0⟩ ∧ state u d = (if state s (1 - d) = 1 then 2 else 1) ∧ u.on F.SB_IRQ.drive_change = true
        ∧ u.rd (F.SB_DRIVE.link d) = gen % 8 ∧ u.rd (F.SB_DRIVE.width d) = width % 8)
    ∧ (own = false → s.sb.adopt = false → Answers (exec (.driveInsert t d lbas 4096 own gen width) s) fun u => state u d = state s d
      ∧ u.drive d = ⟨lbas, own, 0⟩)
    ∧ (∀ size, size ≠ 4096 → Answers (exec (.driveInsert t d lbas size own gen width) s) fun u => u.drive d = drive ∧ state u d = state s d)
    ∧ ((s.drive 0).lbas ≠ 0 → state s 0 = 0 → state s 1 = 0 → (s.drive 1).lbas = 0 → Answers (exec (.sbAdopt t) s) fun u => u.sb.adopt = true
      ∧ state u 0 = 1 ∧ state u 1 = 0)
    ∧ (state s 0 = 1 → state s 1 = 3 → (s.drive 1).lbas ≠ 0 → Answers (exec (.sbAdopt t) s) fun u => u.sb.adopt = true ∧ state u 0 = 1 ∧ state u 1 = 2)
    ∧ (state s d = 2 → Answers (exec (.rebuildComplete t d) s) fun u => state u d = 1 ∧ (u.drive d).own = true
      ∧ u.rd (F.SB_DRIVE.rebuild d) = 65535 ∧ u.on F.SB_IRQ.drive_change = true)
    ∧ (state s d ≠ 2 → Answers (exec (.rebuildComplete t d) s) (· = s.at t))

/-- Raising a source and ending its fault, and the actions: from No fault a source is latched, counted and acted on with its class, never
below its floor; a source that stands already does nothing more; a completed action starts its class's quiet period and the next queued
fault; a quiet period ends in recovery, in a held class, or starts again while a source of its class stands. -/
def Obligations.FaultActions : Prop :=
  ∀ (s : State) (t i c floor e : Nat) (broken : Bool) (a : FaultAct),
    let cls := s.faultClass i broken
    (i < 512 → faultFloor i = some floor → s.rd (F.FAULT_SRC.state i) = 0 → s.locked = false → Answers (exec (.faultRaise t i broken) s) fun u =>
      u.rd (F.FAULT_SRC.state i) = (if broken = true then 2 else 1) ∧ u.on (F.FAULT_SRC.latched i) = true
        ∧ u.rd (F.FAULT_SRC.count i) = min (s.rd (F.FAULT_SRC.count i) + 1) 255 ∧ floor ≤ cls
        ∧ u.rd F.FAULT_LAST.source = i ∧ u.rd F.FAULT_LAST.cls = cls ∧ u.rd64 R.FAULT_LAST_TIME = nsOf (max s.now t) % 2 ^ 64
        ∧ (s.fault.running = none → u.fault.running = some { source := i, cls := cls, started := true })
        ∧ (1 ≤ cls → s.fault.running = none → u.on F.FAULT_STATUS.degraded = true) ∧ u.cores = s.cores ∧ MemSame s u)
    ∧ (s.rd (F.FAULT_SRC.state i) ≠ 0 → Answers (exec (.faultRaise t i broken) s) (· = s.at t))
    ∧ ((s.at t).forced i = false → Answers (exec (.faultSourceNoFault t i) s) fun u => u.rd (F.FAULT_SRC.state i) = 0
      ∧ RegsSame s u [R.FAULT_SRC i] ∧ u.fault.running = s.fault.running)
    ∧ (s.fault.running = some a → s.fault.queue = [] → Answers (exec (.faultActionComplete t) s) fun u => u.fault.running = none
      ∧ u.quietOf a.cls = some ((s.at t).quietEnd a.cls) ∧ u.regs = s.regs)
    ∧ (∀ b q, s.fault.running = some a → s.fault.queue = b :: q → Answers (exec (.faultActionComplete t) s) fun u =>
      u.fault.running = some { b with started := true } ∧ u.fault.queue = q)
    ∧ (s.quietOf c = some e → e ≤ max s.now t → (∃ j, j < 448 ∧ s.faultStands j (· == c) = true) →
      Answers (exec (.quietPeriodEnd t c) s) fun u => u.quietOf c = some ((s.at t).quietEnd c) ∧ u.regs = s.regs)
    ∧ (c < 3 → s.quietOf c = some e → e ≤ max s.now t → (∀ j, j < 448 → s.faultStands j (· == c) = false) →
      Answers (exec (.quietPeriodEnd t c) s) fun u => u.quietOf c = none
        ∧ let limit := s.rd (F.FAULT_RECOVERY.limit c)
          if limit ≠ 0 ∧ limit ≤ s.rd (F.FAULT_RECOVERY.count c)
          then bit (u.rd F.FAULT_STATUS.held) c = true ∧ u.rd F.FAULT_STATUS.classes = s.rd F.FAULT_STATUS.classes
          else bit (u.rd F.FAULT_STATUS.classes) c = false
            ∧ u.rd (F.FAULT_RECOVERY.count c) = min (s.rd (F.FAULT_RECOVERY.count c) + 1) (F.FAULT_RECOVERY.count c).max)

/-- The rest of the fault collector: the release of held classes, the clearing of recovery counts, forced lines in Factory, and the
watchdogs' kick, bite and expiry during a halt. -/
def Obligations.FaultControlsAndWatchdogs : Prop :=
  ∀ (s : State) (t k i cycles : Nat) (w : Word),
    let now := max s.now t
    let late := usRoot (s.rd (F.WDOG_CTRL.period k)) + (s.wdog k).reload ≤ now
    (s.rd F.FAULT_STATUS.held < 8 → Answers (exec (.faultRelease t) s) fun u => u.rd F.FAULT_STATUS.held = 0
      ∧ (∀ c, c < 3 → bit (s.rd F.FAULT_STATUS.held) c = true → bit (u.rd F.FAULT_STATUS.classes) c = false ∧ u.quietOf c = none)
      ∧ RegsSame s u [R.FAULT_STATUS])
    ∧ Answers (exec (.faultClearRecovery t) s) (fun u => (∀ c, c < 4 → u.rd (F.FAULT_RECOVERY.count c) = 0)
      ∧ (∀ c, c < 4 → u.rd (F.FAULT_RECOVERY.limit c) = s.rd (F.FAULT_RECOVERY.limit c))
      ∧ RegsSame s u ((List.range 4).map R.FAULT_RECOVERY) ∧ u.fault = s.fault)
    ∧ (s.rd F.SEC_STATE.state = 0 → getBits w 8 0 = i → getBits w 24 9 = cycles → 2 ≤ cycles → faultFloor i ≠ none →
      Answers (exec (.faultInjectWrite t w) s) fun u => u.rd (F.FAULT_SRC.state i) ≠ 0
        ∧ ⟨i, getBits w 31 31 == 1, now + 8 * (cycles + 1)⟩ ∈ u.fault.injections)
    ∧ (s.rd F.SEC_STATE.state ≠ 0 → Answers (exec (.faultInjectWrite t w) s) fun u => u.fault.injections = s.fault.injections)
    ∧ (s.wdogCounts k = true → late → s.coreHalted k = false → k < 32 → Answers (exec (.watchdogBite t k) s) fun u =>
      u.on (F.WDOG_STATUS.bite k) = true ∧ u.rd (F.FAULT_SRC.state k) ≠ 0 ∧ (u.wdog k).reload = now)
    ∧ (s.wdogCounts k = true → late → s.coreHalted k = true → (s.wdog k).expired = false → Answers (exec (.watchdogHaltExpire t k) s) fun u =>
      u.on (F.WDOG_STATUS.halt_bite k) = true ∧ (u.wdog k).expired = true ∧ RegsSame s u [R.WDOG_STATUS k])
    ∧ (s.rd (F.WDOG_CTRL.window k) = 0 → Answers (exec (.wdogKick t k 0x4B1C#32 (.core k)) s) fun u =>
      (u.wdog k).reload = now ∧ (u.wdog k).expired = false ∧ (∀ j, j ≠ k → u.wdog j = s.wdog j) ∧ u.regs = s.regs)
    ∧ (k < 32 → s.rd (F.WDOG_CTRL.window k) ≠ 0 → s.wdogCounts k = true → now < usRoot (s.rd (F.WDOG_CTRL.window k)) + (s.wdog k).reload →
      Answers (exec (.wdogKick t k 0x4B1C#32 (.core k)) s) fun u => u.on (F.WDOG_STATUS.bite k) = true ∧ u.rd (F.FAULT_SRC.state k) ≠ 0)
    ∧ (w ≠ 0x4B1C#32 → Answers (exec (.wdogKick t k w (.core k)) s) fun u => u.fault.wdog = s.fault.wdog)

/-- Boot: the Boot ROM checks the generations, takes the user calibration and tries the sources of boot_order in turn; an image delivered is
checked, to be applied; a source that fails leaves its reason and gives way to the next, and after the last to the recovery slot and then to
network boot with no limit. -/
def Obligations.BootSources : Prop :=
  ∀ (s : State) (t : Nat) (wraps : List (Option (List Byte))) (image : List Word) (key : Option (List Byte)) (unreadable : Bool),
    let now := max s.now t
    let usable := fun g => s.genValid g && !bit s.sec.retired g
    let tried := fun (u : State) (k : Nat) => u.sec.booting = some k ∧ u.sec.delivered = false ∧ u.sec.srcKey = none ∧ (k = 2 → u.sec.netStart = now)
    let fails := fun (u : State) => u.rd (F.FAULT_SRC.state 384) ≠ 0 ∧ u.cores = s.cores
      ∧ (∀ k rest, s.sec.bootLeft = k :: rest → tried u k ∧ u.sec.bootLeft = rest)
      ∧ (s.sec.bootLeft = [] → s.sec.booting ≠ some 3 → tried u 3 ∧ u.clock.recovery = true ∧ u.rd F.GS_MODE_SUMMARY.startup = 2)
      ∧ (s.sec.bootLeft = [] → s.sec.booting = some 3 → tried u 2 ∧ u.sec.bootForever = true)
    (s.clock.resetHeld = true ∨ s.sec.booted = true → Answers (exec (.bootStart t wraps) s) (· = s.at t))
    ∧ (s.clock.resetHeld = false → s.sec.booted = false → Answers (exec (.bootStart t wraps) s) fun u => u.sec.booted = true
      ∧ u.sec.inForce = (List.range 4).reverse.find? usable
      ∧ (∀ g, g < 4 → bit u.sec.retired g = (bit s.sec.retired g || usable g && (List.range 4).any fun h => decide (g < h) && usable h))
      ∧ u.sec.calInForce = s.calCurrent.items.filter calOwned ∧ u.sec.calPending = false
      ∧ u.rd F.SEC_CAL.items = min 0xFFFF s.calCurrent.items.length ∧ u.rd F.SEC_CAL.unknown = s.rd F.SEC_CAL.unknown
      ∧ (s.sec.begun ≠ 0 → (∀ g, g < 4 → usable g = false) → u.sec.booting = s.sec.booting ∧ u.rd (F.FAULT_SRC.state 385) ≠ 0)
      ∧ ((∃ g, g < 4 ∧ bit s.sec.wasValid g = true ∧ s.genDamaged g = true) → u.rd (F.FAULT_SRC.state 385) ≠ 0)
      ∧ (s.sec.begun = 0 → s.clock.recovery = false → tried u 0 ∧ u.sec.bootLeft = [1, 2])
      ∧ (s.sec.begun = 0 → s.clock.recovery = true → tried u 3 ∧ u.sec.bootLeft = [])
      ∧ (s.sec.begun = 0 → u.sec.wrapper = (wraps.take 2).findSome? id))
    ∧ (∀ k, s.sec.booting = some k → s.gsBusy = false → Answers (exec (.bootImageDelivered t image key) s) fun u =>
      u.sec.delivered = true ∧ u.sec.srcKey = key ∧ u.gs.applyWanted = true
        ∧ (k ≠ 2 → u.gsState = 2 ∧ u.gs.staged = true ∧ u.rd F.GS_STAGE_PTR.word = min image.length stageWords
          ∧ ∀ i, i < stageWords → mget (fun _ => 0#32) u.gs.staging i = image.getD i 0#32)
        ∧ (k = 2 → u.gs.staging = s.gs.staging ∧ (s.gs.staged = true → s.gsState = 1 ∨ s.gsState = 3 → u.gsState = 2)))
    ∧ (s.sec.booting = none → Answers (exec (.bootImageDelivered t image key) s) (· = s.at t))
    ∧ (s.sec.booting ≠ none → s.sec.bootForever = false → Answers (exec (.bootSourceFail t true) s) fun u => fails u
      ∧ (s.sec.booting = some 0 → u.rd F.SEC_BOOT.reason_a = 0xE) ∧ (s.sec.booting = some 1 → u.rd F.SEC_BOOT.reason_b = 0xE))
    ∧ (s.sec.booting ≠ none → s.sec.bootForever = false → s.sec.delivered = true → s.gsState = 0 → s.rd F.GS_STATUS.last_result = 2 →
      Answers (exec (.bootSourceFail t false) s) fun u => fails u ∧ (s.sec.booting = some 0 → u.rd F.SEC_BOOT.reason_a = s.rd F.GS_REJECT.reason)
        ∧ (s.sec.booting = some 1 → u.rd F.SEC_BOOT.reason_b = s.rd F.GS_REJECT.reason))
    ∧ (s.sec.booting = none ∨ s.sec.bootForever = true → Answers (exec (.bootSourceFail t unreadable) s) (· = s.at t))
    ∧ (s.sec.booting = some 2 → s.sec.bootForever = false → s.gsState ≠ 5 → usRoot (1_000_000 * s.bootWait) + s.sec.netStart ≤ now →
      Answers (exec (.networkBootTimeout t) s) fails)
    ∧ (now < usRoot (1_000_000 * s.bootWait) + s.sec.netStart ∨ s.gsState = 5 → Answers (exec (.networkBootTimeout t) s) (· = s.at t))

/-- What the OTP and the calibration store come to hold: a generation verified waits for a chip frame start and retires the one before; the
lock closes every session; the rollback count only rises; a failed write raises its fault; a calibration record goes over the older copy. A
peer counts as authenticated exactly when its endorsement and its signature hold. -/
def Obligations.OtpWritesAndPeers : Prop :=
  ∀ (s : State) (t g n : Nat) (bytes : List Byte) (r : CalRecord) (c : VtkCmd) (twin : Bool) (pk endo pn sig : List Byte),
    let ended := fun (u : State) (k : Nat) => u.sec.job = none ∧ u.on F.SEC_PROG.busy = false ∧ u.rd F.SEC_PROG.last = k
    let nonce := (List.range 16).map (Config.freeByte s.freeCtr)
    let holds := s.secState != 0 && s.ownerSigned (ascii "ENDO" ++ pk) endo && ed25519Verify pk (peerText nonce pn s.idPub pk) sig
    (s.sec.job = some (.settings g bytes, c) → g < 4 → Answers (exec (.otpProgramComplete t true) s) fun u => ended u 0 ∧ u.on F.SEC_IRQ.prog = true
      ∧ mget (fun _ => []) u.sec.gens g = bytes ∧ (∀ h, h ≠ g → mget (fun _ => []) u.sec.gens h = mget (fun _ => []) s.sec.gens h)
      ∧ u.sec.newGeneration = true ∧ u.sec.genReply = some c ∧ u.sec.inForce = s.sec.inForce
      ∧ (∀ h, bit u.sec.retired h = (bit s.sec.retired h || decide (s.genInUse = some h))) ∧ u.sec.begun = s.sec.begun
      ∧ u.cores = s.cores ∧ MemSame s u ∧ u.vtk = s.vtk)
    ∧ (s.sec.job = some (.lock, c) → Answers (exec (.otpProgramComplete t true) s) fun u => ended u 0 ∧ u.sec.lock = true
      ∧ u.rd F.SEC_STATE.state = 2 ∧ (∀ j, j < 64 → u.sessState j = 0) ∧ u.sec.gens = s.sec.gens ∧ u.sec.begun = s.sec.begun)
    ∧ (s.sec.job = some (.rollback n, c) → Answers (exec (.otpProgramComplete t true) s) fun u => ended u 0
      ∧ u.sec.rollback = max s.sec.rollback n ∧ u.sec.lock = s.sec.lock ∧ u.sec.gens = s.sec.gens)
    ∧ (∀ j, s.sec.job = some (j, c) → j = .settings g bytes ∨ j = .lock ∨ j = .rollback n → Answers (exec (.otpProgramComplete t false) s) fun u =>
      ended u 5 ∧ u.rd (F.FAULT_SRC.state 386) ≠ 0 ∧ u.sec.gens = s.sec.gens ∧ u.sec.lock = s.sec.lock ∧ u.sec.rollback = s.sec.rollback
        ∧ u.sec.retired = s.sec.retired ∧ u.sec.newGeneration = s.sec.newGeneration)
    ∧ (s.sec.job = none → Answers (exec (.otpProgramComplete t true) s) (· = s.at t) ∧ Answers (exec (.userCalibrationWritten t) s) (· = s.at t))
    ∧ (s.sec.job = some (.calibration r, c) → Answers (exec (.userCalibrationWritten t) s) fun u => ended u 0 ∧ u.sec.calPending = true
      ∧ u.rd F.SEC_CAL.items = min 0xFFFF r.items.length ∧ u.sec.calInForce = s.sec.calInForce
      ∧ (if s.calBCurrent = true then u.sec.calA = r ∧ u.sec.calB = s.sec.calB
        else if s.sec.calA.valid = true then u.sec.calA = s.sec.calA ∧ u.sec.calB = r else u.sec.calA = r ∧ u.sec.calB = s.sec.calB)
      ∧ (s.calCurrent.seq < r.seq → r.valid = true → u.calCurrent = r) ∧ u.cores = s.cores ∧ MemSame s u)
    ∧ (if holds = true then Answers (exec (.peerAuth t twin pk endo pn sig) s) fun u => (if twin = true then u.tandem.authenticated = true ∧ u.sec.peerOk = s.sec.peerOk
        else u.sec.peerOk = true ∧ u.tandem.authenticated = s.tandem.authenticated)
      ∧ u.out = .message (if twin then 9 else 10) 20 ((s.idPub ++ s.endorsement ++ nonce
        ++ s.idSign (peerText nonce pn s.idPub pk)).map (·.toNat)) :: s.out ∧ u.freeCtr = s.freeCtr + 1 ∧ u.regs = s.regs
      else Answers (exec (.peerAuth t twin pk endo pn sig) s) fun u => (if twin = true then u.tandem.authenticated = false else u.sec.peerOk = false)
      ∧ u.rd (F.FAULT_SRC.state 387) ≠ 0 ∧ u.cores = s.cores)

/-- Resets, starts and the self-test, the PLL, the sensors and the ageing monitors: what a device reset keeps and latches, the profile a start
takes, and what each measurement shows and raises. -/
def Obligations.ResetsStartsAndSensors : Prop :=
  ∀ (s : State) (t balls twin ms : Nat) (fails : List (Nat × Nat)) (lost hourly : Bool) (rs : List (Option Int)) (margins : List Nat),
    let now := max s.now t
    let fresh := fun (u : State) (cause : Nat) => u.rd F.KICK_RESET_CAUSE.cause = cause ∧ u.clock.resetHeld = true ∧ u.cores = [] ∧ u.hub.mem = []
      ∧ u.vtk = {} ∧ (∀ h, h < 24 → u.headState h = 0) ∧ u.tandem.drive = 0 ∧ u.sec.gens = s.sec.gens ∧ u.sec.begun = s.sec.begun
      ∧ u.sec.retired = s.sec.retired ∧ u.sec.lock = s.sec.lock ∧ u.sec.rollback = s.sec.rollback ∧ u.hub.spares = s.hub.spares
      ∧ u.pending = s.pending ∧ u.out = s.out
    let armed := s.on F.KICK_NEXT_START.armed
    let cause := s.rd F.KICK_RESET_CAUSE.cause
    let began := fun (u : State) (p : Nat) => u.clock.resetHeld = false ∧ u.clock.balls = balls ∧ u.rd F.GS_MODE_SUMMARY.startup = p
      ∧ u.on F.KICK_NEXT_START.armed = false ∧ u.rd F.TANDEM_STATUS.index = twin % 2 ∧ (u.clock.recovery = true ↔ p = 2)
      ∧ (p = 0 → u.on F.CPR_STATUS.bist_busy = true ∧ MemSame s u) ∧ (p = 1 → u.hub.mem = [] ∧ (u.clock.proofHold = true ↔ ∃ f ∈ fails, f.1 ≠ 2))
      ∧ u.cores = s.cores
    let found := fun (u : State) => u.rd F.CPR_BIST.ms = min ms 0xFFFF ∧ (∀ i x rest, fails = (i, x) :: rest →
      u.rd F.CPR_BIST.fail_item = i % 256 ∧ u.rd F.CPR_BIST.fail_index = x % 256 ∧ u.on F.CPR_STATUS.bist_fail = true
        ∧ u.rd (F.FAULT_SRC.state 322) ≠ 0 ∧ ∀ h, (2, h) ∈ fails → bit u.clock.failedHeads h = true)
    let shown := fun (i : Nat) (v : Int) => v + signed 32 (s.calValue 0x0C01 i)
    let free := s.fault.injections = []
    let threshold : Int := s.calValue 0x0C02 0
    Answers (exec (.powerUp t) s) (fun u => fresh u 0 ∧ u.rd F.KICK_RESET_CAUSE.resets = 0 ∧ u.now = 0)
    ∧ Answers (exec (.porstAssert t) s) (fun u => fresh u 1
      ∧ u.rd F.KICK_RESET_CAUSE.resets = min (s.rd F.KICK_RESET_CAUSE.resets + 1) 0xFFFF ∧ u.reg R.KICK_NEXT_START = s.reg R.KICK_NEXT_START
      ∧ (s.on F.ODO_STATUS.kick_valid = true → u.now = now) ∧ (s.on F.ODO_STATUS.kick_valid = false → u.now = 0))
    ∧ Answers (exec (.railOutOfRange t lost) s) (fun u => fresh u 2 ∧ (lost = true → u.rd F.KICK_RESET_CAUSE.resets = 1 ∧ u.now = 0)
      ∧ (lost = false → u.rd F.KICK_RESET_CAUSE.resets = min (s.rd F.KICK_RESET_CAUSE.resets + 1) 0xFFFF))
    ∧ (s.clock.resetHeld = false → Answers (exec (.resetRelease t balls twin fails ms) s) (· = s.at t))
    ∧ (s.clock.resetHeld = true → armed = true → Answers (exec (.resetRelease t balls twin fails ms) s) fun u => began u (s.rd F.KICK_NEXT_START.profile))
    ∧ (s.clock.resetHeld = true → armed = false → balls = 3 → Answers (exec (.resetRelease t balls twin fails ms) s) fun u => began u 2)
    ∧ (s.clock.resetHeld = true → armed = false → balls < 3 → cause = 3 ∨ balls ≠ 0 → Answers (exec (.resetRelease t balls twin fails ms) s) fun u => began u 1 ∧ found u)
    ∧ (s.clock.resetHeld = true → armed = false → balls = 0 → cause ≠ 3 → Answers (exec (.resetRelease t balls twin fails ms) s) fun u => began u 0)
    ∧ (s.on F.CPR_STATUS.bist_busy = true → Answers (exec (.bistComplete t fails ms) s) fun u => u.on F.CPR_STATUS.bist_busy = false ∧ found u
      ∧ (fails = [] → s.locked = false → RegsSame s u [R.CPR_STATUS, R.CPR_BIST] ∧ { u with regs := s.regs } = s.at t) ∧ MemSame s u ∧ u.cores = s.cores)
    ∧ Answers (exec (.pllLock t) s) (fun u => u.on F.CPR_STATUS.pll_locked = true ∧ (s.clock.waking = true → u.on F.CPR_STATUS.serdes_off = false)
      ∧ RegsSame s u [R.CPR_STATUS] ∧ { u with regs := s.regs } = s.at t)
    ∧ Answers (exec (.pllLoss t true) s) (fun u => u.rd (F.FAULT_SRC.state 321) ≠ 0 ∧ u.on F.CPR_STATUS.pll_locked = s.on F.CPR_STATUS.pll_locked)
    ∧ Answers (exec (.pllLoss t false) s) (fun u => u.rd (F.FAULT_SRC.state 320) ≠ 0 ∧ u.on F.CPR_STATUS.pll_locked = false)
    ∧ Answers (exec (.sensorRead t rs) s) (fun u => (∀ i, i < 8 →
        (rs.getD i none = none → u.on (F.CPR_TEMP.valid i) = false ∧ u.rd (F.CPR_TEMP.temp i) = s.rd (F.CPR_TEMP.temp i) ∧ u.rd (F.FAULT_SRC.state 361) ≠ 0)
        ∧ (∀ v, rs.getD i none = some v → u.on (F.CPR_TEMP.valid i) = true ∧ u.rd (F.CPR_TEMP.temp i) = wrap 16 (shown i v)
          ∧ (16 * threshold ≤ shown i v → u.rd (F.FAULT_SRC.state (352 + i)) ≠ 0)
          ∧ (shown i v ≤ 16 * (threshold - 5) → free → u.rd (F.FAULT_SRC.state (352 + i)) = 0)
          ∧ ((∀ j w, j < 8 → rs.getD j none = some w → -32768 ≤ shown j w ∧ shown j w < 32768) →
            shown i v ≤ signed 16 (u.rd F.CPR_TEMP_MAX.peak)))
        ∧ (1920 ≤ signed 16 (u.rd (F.CPR_TEMP.temp i)) → u.rd (F.FAULT_SRC.state 360) ≠ 0))
      ∧ ((∀ i, i < 8 → rs.getD i none ≠ none) → free → u.rd (F.FAULT_SRC.state 361) = 0)
      ∧ ((∀ i, i < 8 → signed 16 (u.rd (F.CPR_TEMP.temp i)) ≤ 1840) → free → u.rd (F.FAULT_SRC.state 360) = 0) ∧ u.cores = s.cores ∧ MemSame s u)
    ∧ (s.power = 2 → Answers (exec (.ageingMeasure t margins hourly) s) (· = s.at t))
    ∧ (s.power ≠ 2 → Answers (exec (.ageingMeasure t margins hourly) s) fun u =>
      (∀ i, i < 16 → u.rd (F.CPR_AGE.margin i) = margins.getD i 0 % 65536)
        ∧ u.clock.hours = s.clock.hours + (if hourly = true then 1 else 0) ∧ u.rd F.CPR_AGE_SUMMARY.kilohours = min 0xFFFF (u.clock.hours / 1000)
        ∧ ((∃ i, i < 16 ∧ margins.getD i 0 < 200) → u.rd (F.FAULT_SRC.state 362) ≠ 0)
        ∧ ((∃ i, i < 16 ∧ margins.getD i 0 < 100) → u.rd (F.FAULT_SRC.state 363) ≠ 0)
        ∧ ((∀ i, i < 16 → 200 ≤ margins.getD i 0) → free → u.rd (F.FAULT_SRC.state 362) = 0 ∧ u.rd (F.FAULT_SRC.state 363) = 0)
        ∧ ((∀ i, i < 16 → margins.getD i 0 < 65536) → (∀ i, i < 16 → u.rd F.CPR_AGE_SUMMARY.min_margin ≤ margins.getD i 0)
          ∧ ∃ i, i < 16 ∧ u.rd F.CPR_AGE_SUMMARY.min_margin = margins.getD i 0))

/-- The power states: a request, the five steps of the Park sequence each when the one before it has completed, its abandoning, the wake, and
what the start of a chip frame brings into force. -/
def Obligations.PowerStatesAndChipFrames : Prop :=
  ∀ (s : State) (t v n id h : Nat) (frame : Bool),
    let now := max s.now t
    let k := s.rd F.CPR_STATUS.park_step
    let goes := fun (u : State) (j : Nat) => u.rd F.CPR_STATUS.park_step = j ∧ u.power = s.power
    let on := s.clock.stopped = false ∧ s.clock.wakePending = false
    let starts := s.gs.chipTf = 0 ∨ (s.on F.ODO_STATUS.released = true ∧ max s.now t = s.chipStart n)
    let runs := s.clock.resetHeld = false ∧ starts ∧ (s.power ≠ 2 ∨ s.clock.waking = true ∧ s.on F.CPR_STATUS.pll_locked = true)
    let calm := s.gs.rollback = false ∧ s.tandem.handover = false ∧ s.pelState = 0 ∧ s.pel.joinAsked = false ∧ s.pel.joinFrame = none ∧ s.pel.leaveFrame = none
      ∧ s.pel.handLead = false
      ∧ s.sec.newGeneration = false ∧ s.sec.calPending = false
    let counted := { s.at t with gs.chipFrame := n, sb.keyFrames := s.sb.keyFrames + 1 }
    (v < 3 → Answers (exec (.powerRequest t v) s) fun u => u.rd F.CPR_CTRL.power_req = v ∧ RegsSame s u [R.CPR_CTRL]
      ∧ (k ≠ 0 ∨ s.power = 2 → u.clock = { s.clock with heldPower := some v })
      ∧ (k = 0 → s.power ≠ 2 → u.clock = { s.clock with powerReq := some v, powerAt := now }))
    ∧ Answers (exec (.powerRequest t 3) s) (fun u => u.rd (F.U_IGNORED_WRITES.count cprBase) = min (s.rd (F.U_IGNORED_WRITES.count cprBase) + 1) 0xFFFF
      ∧ u.reg R.CPR_CTRL = s.reg R.CPR_CTRL ∧ u.clock.powerReq = s.clock.powerReq ∧ u.clock.heldPower = s.clock.heldPower)
    ∧ (s.clock.stopped = true → Answers (exec (.parkSequence t frame) s) (· = s.at t))
    ∧ (on → k = 0 → s.clock.powerReq = some 2 → s.gsState ≠ 5 → Answers (exec (.parkSequence t frame) s) fun u => goes u 1
      ∧ (s.locked = true → s.isPrimary = true → u.tandem.handover = true)
      ∧ (s.pelLeads = true → s.nextLeader.isSome = true → u.pel.handLead = true))
    ∧ (s.clock.stopped = false → k = 0 → s.clock.powerReq ≠ some 2 ∨ s.gsState = 5 → Answers (exec (.parkSequence t frame) s) (· = s.at t))
    ∧ (k = 1 → s.pel.handLead = true ∨ (s.locked = true ∧ s.isShadow = false) → Answers (exec (.parkSequence t frame) s) (· = s.at t))
    ∧ (on → k = 1 → s.locked = false → s.pel.handLead = false → Answers (exec (.parkSequence t frame) s) fun u => goes u 2 ∧ ∀ j, j < 24 → s.headState j ≠ 0 →
      (u.head j).request = some (0, now) ∧ mget (fun _ => none) u.clock.heldHeads j = some (s.rd (F.TX_CTRL.req_state j)))
    ∧ (on → k = 2 → (∀ j, j < 24 → s.headState j = 0) → Answers (exec (.parkSequence t frame) s) fun u => goes u 3 ∧ u.sb.flush = s.sb.current.isSome)
    ∧ (k = 2 → h < 24 → s.headState h ≠ 0 → Answers (exec (.parkSequence t frame) s) (· = s.at t))
    ∧ (on → k = 3 → s.sb.flush = false → if frame = true ∧ (s.at t).chipLatch = true
      then Answers (exec (.parkSequence t frame) s) fun u => goes u 4 ∧ ∀ j, j < 32 → bit u.gs.parkDue j = (s.corePresent j && !s.coreParked j)
      else Answers (exec (.parkSequence t frame) s) (· = s.at t))
    ∧ (on → k = 4 → s.gs.parkDue = 0 → s.enginesIdle = true → Answers (exec (.parkSequence t frame) s) fun u => u.rd F.CPR_STATUS.park_step = 0 ∧ u.power = 2 ∧ u.rd F.GS_MODE_SUMMARY.power = 2
      ∧ u.on F.CPR_STATUS.serdes_off = true ∧ u.on F.CPR_STATUS.pll_locked = false ∧ u.tandem.heartbeat = false
      ∧ u.rd F.TANDEM_STATUS.state = (if s.rd F.TANDEM_STATUS.state = 0 then 0 else 4)
      ∧ (∀ j, j < 24 → s.headPresent j = true → (u.head j).started = false ∧ (u.head j).parked = true)
      ∧ u.clock.powerReq = none ∧ u.cores = s.cores ∧ MemSame s u)
    ∧ (k = 4 → s.gs.parkDue ≠ 0 ∨ s.enginesIdle = false → Answers (exec (.parkSequence t frame) s) (· = s.at t))
    ∧ (s.clock.stopped = false → s.clock.wakePending = true → 1 ≤ k → s.parkStepDone k = true → Answers (exec (.parkSequence t frame) s) fun u => goes u 0
      ∧ u.clock.powerReq = some 0 ∧ u.clock.wakePending = false ∧ u.gs = s.gs)
    ∧ (160 ≤ id → id < 224 → bit (s.rd64 R.INTC_WAKE_FIELD) (id - 160) = true → Answers (exec (.wake t id) s) fun u =>
      (s.power = 2 ∨ k ≠ 0 → u.on F.INTC_WAKE_CAUSE.valid = true ∧ (s.on F.INTC_WAKE_CAUSE.valid = false → u.rd F.INTC_WAKE_CAUSE.id = id))
        ∧ (s.on F.INTC_WAKE_CAUSE.valid = true → u.rd F.INTC_WAKE_CAUSE.id = s.rd F.INTC_WAKE_CAUSE.id) ∧ RegsSame s u [R.INTC_WAKE_CAUSE]
        ∧ (s.power = 2 → u.clock.waking = true) ∧ (s.power ≠ 2 → k ≠ 0 → u.clock.wakePending = true)
        ∧ (s.power ≠ 2 → k = 0 → u = s.at t))
    ∧ (160 ≤ id → id < 224 → bit (s.rd64 R.INTC_WAKE_FIELD) (id - 160) = false → Answers (exec (.wake t id) s) (· = s.at t))
    ∧ (¬ runs → Answers (exec (.chipFrameStart t n) s) (· = s.at t))
    ∧ (runs → Answers (exec (.chipFrameStart t n) s) fun u => u.gs.chipFrame = n ∧ (s.sec.newGeneration = true → u.sec.inForce = s.genInUse ∧ u.sec.newGeneration = false
        ∧ u.on F.SEC_IRQ.gen = true) ∧ (s.sec.newGeneration = false → u.sec.inForce = s.sec.inForce)
      ∧ (s.sec.calPending = true → u.sec.calInForce = s.calCurrent.items.filter calOwned ∧ u.sec.calPending = false))
    ∧ (runs → s.power ≠ 2 → s.clock.powerReq = some v → v < 2 → s.clock.abandoned = false → calm → s.gsState ≠ 4 → s.clock.powerAt < now →
      Answers (exec (.chipFrameStart t n) s) fun u => u.power = v ∧ u.rd F.GS_MODE_SUMMARY.power = v ∧ RegsSame s u [R.CPR_STATUS, R.GS_MODE_SUMMARY]
        ∧ { u with regs := s.regs } = { counted with clock.powerReq := none })
    ∧ (runs → s.power ≠ 2 → s.clock.powerReq = some v → calm → s.gsState ≠ 4 → now ≤ s.clock.powerAt → Answers (exec (.chipFrameStart t n) s) (· = counted))
    ∧ (runs → s.power ≠ 2 → s.clock.powerReq = none ∨ s.clock.powerReq = some 2 → calm → (s.gsState ≠ 4 ∨ n < s.rd64 R.GS_APPLY_FRAME → Answers (exec (.chipFrameStart t n) s) (· = counted))
      ∧ (s.gsState = 4 → s.rd64 R.GS_APPLY_FRAME ≤ n → if counted.onTime (s.rd64 R.GS_APPLY_FRAME) = true then Answers (exec (.chipFrameStart t n) s) fun u =>
          (s.locked = false ∨ s.gs.partialImage = true → u = counted.startApply)
            ∧ (s.locked = true → s.gs.partialImage = false → s.gs.handing = false → if s.isPrimary = true
              then u.gs.handing = true ∧ u.tandem.handover = true ∧ u.gsState = 4 else u.gsState = 3)
        else Answers (exec (.chipFrameStart t n) s) fun u => u.rd64 R.GS_APPLY_FRAME = (n + 1) % 2 ^ 64 ∧ u.gsState = 4 ∧ { u with regs := s.regs } = counted))
    ∧ (runs → s.power = 2 → calm → s.gsState ≠ 4 → s.clock.heldHeads = [(h, some v)] → s.ing.queue = [] → s.ing.writes = [] → Answers (exec (.chipFrameStart t n) s) fun u => u.power = 0 ∧ u.clock.waking = false
      ∧ u.gs.parked = 0 ∧ u.bell.voices = [] ∧ (u.head h).request = some (v, now) ∧ u.clock.heldHeads = [] ∧ u.clock.heldPower = none ∧ (∀ k, k < 32 → (u.wdog k).reload = now)
      ∧ u.clock.powerReq = (match s.clock.heldPower with | some w => some w | none => s.clock.powerReq) ∧ MemSame s u)
end

