-- ==== Sys2Proof/Laws/Bits.lean ====
section
/-! SUPPORT. Single bits of naturals, and the fields of register words. -/

namespace Sys2Proof.Machine

theorem bit_eq_testBit (n b : Nat) : bit n b = n.testBit b := by
  rw [bit, Nat.testBit_eq_decide_div_mod_eq]
  by_cases h : n / 2 ^ b % 2 = 1 <;> simp [h]

/-- A set bit stays set when another, or itself, is set. -/
theorem bit_setBit_true {n b i : Nat} (h : bit n i = true) : bit (setBit n b true) i = true := by
  unfold setBit
  by_cases hb : bit n b = true
  · simpa [hb] using h
  · simp only [hb, Bool.false_eq_true, if_false, if_true]
    rw [bit_eq_testBit] at hb h ⊢
    have hb' : n.testBit b = false := by simpa using hb
    rw [Nat.add_comm]
    rcases Nat.lt_trichotomy i b with lt | rfl | gt
    · rw [Nat.testBit_two_pow_add_gt lt]; exact h
    · rw [Nat.testBit_two_pow_add_eq, hb']; rfl
    · have e : (2 ^ b + n) / 2 ^ (b + 1) = n / 2 ^ (b + 1) := by
        have m : n / 2 ^ b % 2 = 0 := by
          rw [Nat.testBit_eq_decide_div_mod_eq, decide_eq_false_iff_not] at hb'; omega
        rw [Nat.pow_succ, ← Nat.div_div_eq_div_mul, ← Nat.div_div_eq_div_mul, Nat.add_div_left _ (Nat.two_pow_pos b)]
        omega
      obtain ⟨k, rfl⟩ := Nat.exists_eq_add_of_le (Nat.succ_le_of_lt gt)
      rw [Nat.succ_eq_add_one, Nat.add_comm (b + 1) k, Nat.testBit_add, e, ← Nat.testBit_add, Nat.add_comm k]
      exact h

/-- Setting several bits keeps the set ones. -/
theorem bit_foldl_setBit {l : List Nat} {n i : Nat} (h : bit n i = true) : bit (l.foldl (fun m g => setBit m g true) n) i = true := by
  induction l generalizing n with
  | nil => exact h
  | cons g l ih => exact ih (bit_setBit_true h)

theorem testBit_bits (n hi lo i : Nat) : (bits n hi lo).testBit i = (decide (i < hi + 1 - lo) && n.testBit (i + lo)) := by
  rw [bits, Nat.testBit_mod_two_pow, Nat.testBit_add]

theorem getBits_lt (w : Word) (hi lo : Nat) : getBits w hi lo < 2 ^ (hi + 1 - lo) := Nat.mod_lt _ (Nat.two_pow_pos _)

/-- Bit j of a word after a field of it was set. -/
theorem testBit_setBits (w : Word) (hi lo v j : Nat) (hj : j < 32) :
    (setBits w hi lo v).toNat.testBit j = if lo ≤ j ∧ j ≤ hi then v.testBit (j - lo) else w.toNat.testBit j := by
  have key : (setBits w hi lo v).getLsbD j = if lo ≤ j ∧ j ≤ hi then v.testBit (j - lo) else w.getLsbD j := by
    have m : (fieldMask hi lo).getLsbD j = decide (lo ≤ j ∧ j ≤ hi) := by
      simp only [fieldMask, BitVec.getLsbD_shiftLeft, hj, decide_true, Bool.true_and, BitVec.getLsbD_ofNat, Nat.testBit_two_pow_sub_one]
      by_cases a : j < lo
      · simp [a, Nat.not_le.mpr a]
      · have : j - lo < 32 := by omega
        simp only [a, decide_false, Bool.not_false, Bool.true_and, this, decide_true, decide_eq_decide]
        omega
    simp only [setBits, BitVec.getLsbD_or, BitVec.getLsbD_and, BitVec.getLsbD_not, hj, decide_true, Bool.true_and, m,
      BitVec.getLsbD_shiftLeft, BitVec.getLsbD_ofNat]
    by_cases a : lo ≤ j ∧ j ≤ hi
    · have b : ¬ j < lo := by omega
      have c : j - lo < 32 := by omega
      simp [a, b, c]
    · simp [a]
  simpa [BitVec.testBit_toNat] using key

/-- A field set to a value reads as that value, cut to its width. -/
theorem getBits_setBits (w : Word) {hi lo v : Nat} (h : hi < 32) : getBits (setBits w hi lo v) hi lo = v % 2 ^ (hi + 1 - lo) := by
  apply Nat.eq_of_testBit_eq
  intro i
  rw [getBits, testBit_bits, Nat.testBit_mod_two_pow]
  by_cases a : i < hi + 1 - lo
  · rw [testBit_setBits _ _ _ _ _ (by omega), if_pos (by omega), Nat.add_sub_cancel]
  · simp [a]

/-- A field set leaves a field apart from it as it was. -/
theorem getBits_setBits_apart (w : Word) {hi lo v hi' lo' : Nat} (h : hi' < 32) (a : hi < lo' ∨ hi' < lo) :
    getBits (setBits w hi lo v) hi' lo' = getBits w hi' lo' := by
  apply Nat.eq_of_testBit_eq
  intro i
  rw [getBits, getBits, testBit_bits, testBit_bits]
  by_cases b : i < hi' + 1 - lo'
  · rw [testBit_setBits _ _ _ _ _ (by omega), if_neg (by omega)]
  · simp [b]

end Sys2Proof.Machine
end

