-- ==== Sys2Proof/Laws/SMap.lean ====
section
/-! SUPPORT. The sparse arrays: a read after a write, and the canonical form that every write keeps. -/

namespace Sys2Proof.Machine

section
variable {α : Type} {d : Nat → α}

theorem mget_mdrop_le {m : SMap α} {k j : Nat} (h : j ≤ k) : mget d (mdrop k m) j = d j := by
  induction m with
  | nil => rfl
  | cons p m ih =>
    obtain ⟨i, a⟩ := p
    simp only [mdrop]
    split
    · exact ih
    · rw [mget, if_neg (by omega), if_pos (by omega)]

theorem mget_mdrop_gt {m : SMap α} {k j : Nat} (h : k < j) : mget d (mdrop k m) j = mget d m j := by
  induction m with
  | nil => rfl
  | cons p m ih =>
    obtain ⟨i, a⟩ := p
    simp only [mdrop]
    split
    · rw [mget, if_neg (by omega), if_neg (by omega)]; exact ih
    · rfl

end

variable {α : Type} [DecidableEq α] {d : Nat → α}

/-- A read of the index written gives the value written. -/
@[simp] theorem mget_mset_same {m : SMap α} {k : Nat} {v : α} : mget d (mset d m k v) k = v := by
  induction m with
  | nil => simp only [mset]; split <;> simp_all [mget]
  | cons p m ih =>
    obtain ⟨i, a⟩ := p
    simp only [mset]
    split
    · split
      · rw [mget, if_neg (by omega), if_pos (by omega)]; simp_all
      · simp [mget]
    · split
      · subst k; split
        · rw [mget_mdrop_le (Nat.le_refl _)]; simp_all
        · simp [mget]
      · rw [mget, if_neg (by omega), if_neg (by omega)]; exact ih

/-- A read of another index gives what it gave. -/
theorem mget_mset_other {m : SMap α} {k j : Nat} {v : α} (h : j ≠ k) : mget d (mset d m k v) j = mget d m j := by
  induction m with
  | nil => simp only [mset]; split <;> simp [mget, h]
  | cons p m ih =>
    obtain ⟨i, a⟩ := p
    simp only [mset]
    split
    · split
      · rfl
      · rw [mget, if_neg h]
        split
        · rw [mget, if_neg (by omega), if_pos (by omega)]
        · rfl
    · split
      · subst k; split
        · rcases Nat.lt_or_gt_of_ne h with g | g
          · rw [mget_mdrop_le (Nat.le_of_lt g), mget, if_neg h, if_pos g]
          · rw [mget_mdrop_gt g, mget, if_neg h, if_neg (by omega)]
        · rw [mget, mget, if_neg h, if_neg h]
      · rw [mget, mget, ih]

theorem mget_mset {m : SMap α} {k j : Nat} {v : α} : mget d (mset d m k v) j = if j = k then v else mget d m j := by
  split
  · subst j; exact mget_mset_same
  · exact mget_mset_other ‹_›

theorem SMap.wfFrom_mono {m : SMap α} {lo hi : Nat} (h : lo ≤ hi) (hm : SMap.wfFrom d hi m = true) : SMap.wfFrom d lo m = true := by
  cases m with
  | nil => rfl
  | cons p m =>
    obtain ⟨i, a⟩ := p; simp only [SMap.wfFrom, Bool.and_eq_true, decide_eq_true_eq] at hm ⊢; exact ⟨⟨by omega, hm.1.2⟩, hm.2⟩

theorem SMap.wfFrom_mdrop {m : SMap α} {lo k : Nat} (hm : SMap.wfFrom d lo m = true) : SMap.wfFrom d lo (mdrop k m) = true := by
  induction m generalizing lo with
  | nil => rfl
  | cons p m ih =>
    obtain ⟨i, a⟩ := p
    simp only [mdrop]
    split
    · simp only [SMap.wfFrom, Bool.and_eq_true, decide_eq_true_eq] at hm
      exact SMap.wfFrom_mono (by omega) (ih hm.2)
    · exact hm

/-- A write keeps the canonical form. -/
theorem SMap.wfFrom_mset {m : SMap α} {lo k : Nat} {v : α} (hm : SMap.wfFrom d lo m = true) (h : lo ≤ k) :
    SMap.wfFrom d lo (mset d m k v) = true := by
  induction m generalizing lo with
  | nil => simp only [mset]; split <;> simp_all [SMap.wfFrom]
  | cons p m ih =>
    obtain ⟨i, a⟩ := p
    simp only [SMap.wfFrom, Bool.and_eq_true, decide_eq_true_eq] at hm
    obtain ⟨⟨h1, h2⟩, h3⟩ := hm
    simp only [mset]
    split
    · split
      · simp [SMap.wfFrom, h1, h3]; simpa using h2
      · simp_all [SMap.wfFrom]
    · split
      · subst k; split
        · exact SMap.wfFrom_mono (by omega) (SMap.wfFrom_mdrop h3)
        · simp [SMap.wfFrom, *]
      · simp only [SMap.wfFrom, Bool.and_eq_true, decide_eq_true_eq]
        exact ⟨⟨h1, h2⟩, ih h3 (by omega)⟩

end Sys2Proof.Machine
end

