-- ==== Sys2Proof/Laws/State.lean ====
section
/-! SUPPORT. What each primitive update of the state leaves as it was, one lemma per field, and what a register, a field, a byte,
a core, a head or a session reads as after its update. -/

namespace Sys2Proof.Machine

variable (s : State)

@[simp] theorem State.setReg_pending (a : Nat) (w : Word) : (s.setReg a w).pending = s.pending := rfl
@[simp] theorem State.setReg_now (a : Nat) (w : Word) : (s.setReg a w).now = s.now := rfl
@[simp] theorem State.setReg_live (a : Nat) (w : Word) : (s.setReg a w).live = s.live := rfl
@[simp] theorem State.setReg_staged (a : Nat) (w : Word) : (s.setReg a w).staged = s.staged := rfl
@[simp] theorem State.setReg_arrays (a : Nat) (w : Word) : (s.setReg a w).arrays = s.arrays := rfl
@[simp] theorem State.setReg_was (a : Nat) (w : Word) : (s.setReg a w).was = s.was := rfl
@[simp] theorem State.setReg_cycle (a : Nat) (w : Word) : (s.setReg a w).cycle = s.cycle := rfl
@[simp] theorem State.setReg_holding (a : Nat) (w : Word) : (s.setReg a w).holding = s.holding := rfl
@[simp] theorem State.setReg_freeCtr (a : Nat) (w : Word) : (s.setReg a w).freeCtr = s.freeCtr := rfl
@[simp] theorem State.setReg_out (a : Nat) (w : Word) : (s.setReg a w).out = s.out := rfl
@[simp] theorem State.setReg_links (a : Nat) (w : Word) : (s.setReg a w).links = s.links := rfl
@[simp] theorem State.setReg_cores (a : Nat) (w : Word) : (s.setReg a w).cores = s.cores := rfl
@[simp] theorem State.setReg_woke (a : Nat) (w : Word) : (s.setReg a w).woke = s.woke := rfl
@[simp] theorem State.setReg_heads (a : Nat) (w : Word) : (s.setReg a w).heads = s.heads := rfl
@[simp] theorem State.setReg_records (a : Nat) (w : Word) : (s.setReg a w).records = s.records := rfl
@[simp] theorem State.setReg_field (a : Nat) (w : Word) : (s.setReg a w).field = s.field := rfl
@[simp] theorem State.setReg_dma (a : Nat) (w : Word) : (s.setReg a w).dma = s.dma := rfl
@[simp] theorem State.setReg_blt (a : Nat) (w : Word) : (s.setReg a w).blt = s.blt := rfl
@[simp] theorem State.setReg_bell (a : Nat) (w : Word) : (s.setReg a w).bell = s.bell := rfl
@[simp] theorem State.setReg_pel (a : Nat) (w : Word) : (s.setReg a w).pel = s.pel := rfl
@[simp] theorem State.setReg_eth (a : Nat) (w : Word) : (s.setReg a w).eth = s.eth := rfl
@[simp] theorem State.setReg_hub (a : Nat) (w : Word) : (s.setReg a w).hub = s.hub := rfl
@[simp] theorem State.setReg_fault (a : Nat) (w : Word) : (s.setReg a w).fault = s.fault := rfl
@[simp] theorem State.setReg_gs (a : Nat) (w : Word) : (s.setReg a w).gs = s.gs := rfl
@[simp] theorem State.setReg_tandem (a : Nat) (w : Word) : (s.setReg a w).tandem = s.tandem := rfl
@[simp] theorem State.setReg_intc (a : Nat) (w : Word) : (s.setReg a w).intc = s.intc := rfl
@[simp] theorem State.setReg_sec (a : Nat) (w : Word) : (s.setReg a w).sec = s.sec := rfl
@[simp] theorem State.setReg_dbg (a : Nat) (w : Word) : (s.setReg a w).dbg = s.dbg := rfl
@[simp] theorem State.setReg_clock (a : Nat) (w : Word) : (s.setReg a w).clock = s.clock := rfl
@[simp] theorem State.setReg_ing (a : Nat) (w : Word) : (s.setReg a w).ing = s.ing := rfl
@[simp] theorem State.setReg_der (a : Nat) (w : Word) : (s.setReg a w).der = s.der := rfl
@[simp] theorem State.setReg_vtk (a : Nat) (w : Word) : (s.setReg a w).vtk = s.vtk := rfl
@[simp] theorem State.setReg_sb (a : Nat) (w : Word) : (s.setReg a w).sb = s.sb := rfl

@[simp] theorem State.wr_pending (f : Fld) (v : Nat) : (s.wr f v).pending = s.pending := rfl
@[simp] theorem State.wr_now (f : Fld) (v : Nat) : (s.wr f v).now = s.now := rfl
@[simp] theorem State.wr_live (f : Fld) (v : Nat) : (s.wr f v).live = s.live := rfl
@[simp] theorem State.wr_staged (f : Fld) (v : Nat) : (s.wr f v).staged = s.staged := rfl
@[simp] theorem State.wr_arrays (f : Fld) (v : Nat) : (s.wr f v).arrays = s.arrays := rfl
@[simp] theorem State.wr_was (f : Fld) (v : Nat) : (s.wr f v).was = s.was := rfl
@[simp] theorem State.wr_cycle (f : Fld) (v : Nat) : (s.wr f v).cycle = s.cycle := rfl
@[simp] theorem State.wr_holding (f : Fld) (v : Nat) : (s.wr f v).holding = s.holding := rfl
@[simp] theorem State.wr_freeCtr (f : Fld) (v : Nat) : (s.wr f v).freeCtr = s.freeCtr := rfl
@[simp] theorem State.wr_out (f : Fld) (v : Nat) : (s.wr f v).out = s.out := rfl
@[simp] theorem State.wr_links (f : Fld) (v : Nat) : (s.wr f v).links = s.links := rfl
@[simp] theorem State.wr_cores (f : Fld) (v : Nat) : (s.wr f v).cores = s.cores := rfl
@[simp] theorem State.wr_woke (f : Fld) (v : Nat) : (s.wr f v).woke = s.woke := rfl
@[simp] theorem State.wr_heads (f : Fld) (v : Nat) : (s.wr f v).heads = s.heads := rfl
@[simp] theorem State.wr_records (f : Fld) (v : Nat) : (s.wr f v).records = s.records := rfl
@[simp] theorem State.wr_field (f : Fld) (v : Nat) : (s.wr f v).field = s.field := rfl
@[simp] theorem State.wr_dma (f : Fld) (v : Nat) : (s.wr f v).dma = s.dma := rfl
@[simp] theorem State.wr_blt (f : Fld) (v : Nat) : (s.wr f v).blt = s.blt := rfl
@[simp] theorem State.wr_bell (f : Fld) (v : Nat) : (s.wr f v).bell = s.bell := rfl
@[simp] theorem State.wr_pel (f : Fld) (v : Nat) : (s.wr f v).pel = s.pel := rfl
@[simp] theorem State.wr_eth (f : Fld) (v : Nat) : (s.wr f v).eth = s.eth := rfl
@[simp] theorem State.wr_hub (f : Fld) (v : Nat) : (s.wr f v).hub = s.hub := rfl
@[simp] theorem State.wr_fault (f : Fld) (v : Nat) : (s.wr f v).fault = s.fault := rfl
@[simp] theorem State.wr_gs (f : Fld) (v : Nat) : (s.wr f v).gs = s.gs := rfl
@[simp] theorem State.wr_tandem (f : Fld) (v : Nat) : (s.wr f v).tandem = s.tandem := rfl
@[simp] theorem State.wr_intc (f : Fld) (v : Nat) : (s.wr f v).intc = s.intc := rfl
@[simp] theorem State.wr_sec (f : Fld) (v : Nat) : (s.wr f v).sec = s.sec := rfl
@[simp] theorem State.wr_dbg (f : Fld) (v : Nat) : (s.wr f v).dbg = s.dbg := rfl
@[simp] theorem State.wr_clock (f : Fld) (v : Nat) : (s.wr f v).clock = s.clock := rfl
@[simp] theorem State.wr_ing (f : Fld) (v : Nat) : (s.wr f v).ing = s.ing := rfl
@[simp] theorem State.wr_der (f : Fld) (v : Nat) : (s.wr f v).der = s.der := rfl
@[simp] theorem State.wr_vtk (f : Fld) (v : Nat) : (s.wr f v).vtk = s.vtk := rfl
@[simp] theorem State.wr_sb (f : Fld) (v : Nat) : (s.wr f v).sb = s.sb := rfl

@[simp] theorem State.set1_pending (f : Fld) : (s.set1 f).pending = s.pending := rfl
@[simp] theorem State.set1_now (f : Fld) : (s.set1 f).now = s.now := rfl
@[simp] theorem State.set1_live (f : Fld) : (s.set1 f).live = s.live := rfl
@[simp] theorem State.set1_staged (f : Fld) : (s.set1 f).staged = s.staged := rfl
@[simp] theorem State.set1_arrays (f : Fld) : (s.set1 f).arrays = s.arrays := rfl
@[simp] theorem State.set1_was (f : Fld) : (s.set1 f).was = s.was := rfl
@[simp] theorem State.set1_cycle (f : Fld) : (s.set1 f).cycle = s.cycle := rfl
@[simp] theorem State.set1_holding (f : Fld) : (s.set1 f).holding = s.holding := rfl
@[simp] theorem State.set1_freeCtr (f : Fld) : (s.set1 f).freeCtr = s.freeCtr := rfl
@[simp] theorem State.set1_out (f : Fld) : (s.set1 f).out = s.out := rfl
@[simp] theorem State.set1_links (f : Fld) : (s.set1 f).links = s.links := rfl
@[simp] theorem State.set1_cores (f : Fld) : (s.set1 f).cores = s.cores := rfl
@[simp] theorem State.set1_woke (f : Fld) : (s.set1 f).woke = s.woke := rfl
@[simp] theorem State.set1_heads (f : Fld) : (s.set1 f).heads = s.heads := rfl
@[simp] theorem State.set1_records (f : Fld) : (s.set1 f).records = s.records := rfl
@[simp] theorem State.set1_field (f : Fld) : (s.set1 f).field = s.field := rfl
@[simp] theorem State.set1_dma (f : Fld) : (s.set1 f).dma = s.dma := rfl
@[simp] theorem State.set1_blt (f : Fld) : (s.set1 f).blt = s.blt := rfl
@[simp] theorem State.set1_bell (f : Fld) : (s.set1 f).bell = s.bell := rfl
@[simp] theorem State.set1_pel (f : Fld) : (s.set1 f).pel = s.pel := rfl
@[simp] theorem State.set1_eth (f : Fld) : (s.set1 f).eth = s.eth := rfl
@[simp] theorem State.set1_hub (f : Fld) : (s.set1 f).hub = s.hub := rfl
@[simp] theorem State.set1_fault (f : Fld) : (s.set1 f).fault = s.fault := rfl
@[simp] theorem State.set1_gs (f : Fld) : (s.set1 f).gs = s.gs := rfl
@[simp] theorem State.set1_tandem (f : Fld) : (s.set1 f).tandem = s.tandem := rfl
@[simp] theorem State.set1_intc (f : Fld) : (s.set1 f).intc = s.intc := rfl
@[simp] theorem State.set1_sec (f : Fld) : (s.set1 f).sec = s.sec := rfl
@[simp] theorem State.set1_dbg (f : Fld) : (s.set1 f).dbg = s.dbg := rfl
@[simp] theorem State.set1_clock (f : Fld) : (s.set1 f).clock = s.clock := rfl
@[simp] theorem State.set1_ing (f : Fld) : (s.set1 f).ing = s.ing := rfl
@[simp] theorem State.set1_der (f : Fld) : (s.set1 f).der = s.der := rfl
@[simp] theorem State.set1_vtk (f : Fld) : (s.set1 f).vtk = s.vtk := rfl
@[simp] theorem State.set1_sb (f : Fld) : (s.set1 f).sb = s.sb := rfl

@[simp] theorem State.satInc_pending (f : Fld) (n : Nat) : (s.satInc f n).pending = s.pending := rfl
@[simp] theorem State.satInc_now (f : Fld) (n : Nat) : (s.satInc f n).now = s.now := rfl
@[simp] theorem State.satInc_live (f : Fld) (n : Nat) : (s.satInc f n).live = s.live := rfl
@[simp] theorem State.satInc_staged (f : Fld) (n : Nat) : (s.satInc f n).staged = s.staged := rfl
@[simp] theorem State.satInc_arrays (f : Fld) (n : Nat) : (s.satInc f n).arrays = s.arrays := rfl
@[simp] theorem State.satInc_was (f : Fld) (n : Nat) : (s.satInc f n).was = s.was := rfl
@[simp] theorem State.satInc_cycle (f : Fld) (n : Nat) : (s.satInc f n).cycle = s.cycle := rfl
@[simp] theorem State.satInc_holding (f : Fld) (n : Nat) : (s.satInc f n).holding = s.holding := rfl
@[simp] theorem State.satInc_freeCtr (f : Fld) (n : Nat) : (s.satInc f n).freeCtr = s.freeCtr := rfl
@[simp] theorem State.satInc_out (f : Fld) (n : Nat) : (s.satInc f n).out = s.out := rfl
@[simp] theorem State.satInc_links (f : Fld) (n : Nat) : (s.satInc f n).links = s.links := rfl
@[simp] theorem State.satInc_cores (f : Fld) (n : Nat) : (s.satInc f n).cores = s.cores := rfl
@[simp] theorem State.satInc_woke (f : Fld) (n : Nat) : (s.satInc f n).woke = s.woke := rfl
@[simp] theorem State.satInc_heads (f : Fld) (n : Nat) : (s.satInc f n).heads = s.heads := rfl
@[simp] theorem State.satInc_records (f : Fld) (n : Nat) : (s.satInc f n).records = s.records := rfl
@[simp] theorem State.satInc_field (f : Fld) (n : Nat) : (s.satInc f n).field = s.field := rfl
@[simp] theorem State.satInc_dma (f : Fld) (n : Nat) : (s.satInc f n).dma = s.dma := rfl
@[simp] theorem State.satInc_blt (f : Fld) (n : Nat) : (s.satInc f n).blt = s.blt := rfl
@[simp] theorem State.satInc_bell (f : Fld) (n : Nat) : (s.satInc f n).bell = s.bell := rfl
@[simp] theorem State.satInc_pel (f : Fld) (n : Nat) : (s.satInc f n).pel = s.pel := rfl
@[simp] theorem State.satInc_eth (f : Fld) (n : Nat) : (s.satInc f n).eth = s.eth := rfl
@[simp] theorem State.satInc_hub (f : Fld) (n : Nat) : (s.satInc f n).hub = s.hub := rfl
@[simp] theorem State.satInc_fault (f : Fld) (n : Nat) : (s.satInc f n).fault = s.fault := rfl
@[simp] theorem State.satInc_gs (f : Fld) (n : Nat) : (s.satInc f n).gs = s.gs := rfl
@[simp] theorem State.satInc_tandem (f : Fld) (n : Nat) : (s.satInc f n).tandem = s.tandem := rfl
@[simp] theorem State.satInc_intc (f : Fld) (n : Nat) : (s.satInc f n).intc = s.intc := rfl
@[simp] theorem State.satInc_sec (f : Fld) (n : Nat) : (s.satInc f n).sec = s.sec := rfl
@[simp] theorem State.satInc_dbg (f : Fld) (n : Nat) : (s.satInc f n).dbg = s.dbg := rfl
@[simp] theorem State.satInc_clock (f : Fld) (n : Nat) : (s.satInc f n).clock = s.clock := rfl
@[simp] theorem State.satInc_ing (f : Fld) (n : Nat) : (s.satInc f n).ing = s.ing := rfl
@[simp] theorem State.satInc_der (f : Fld) (n : Nat) : (s.satInc f n).der = s.der := rfl
@[simp] theorem State.satInc_vtk (f : Fld) (n : Nat) : (s.satInc f n).vtk = s.vtk := rfl
@[simp] theorem State.satInc_sb (f : Fld) (n : Nat) : (s.satInc f n).sb = s.sb := rfl

@[simp] theorem State.wrapInc_pending (f : Fld) (n : Nat) : (s.wrapInc f n).pending = s.pending := rfl
@[simp] theorem State.wrapInc_now (f : Fld) (n : Nat) : (s.wrapInc f n).now = s.now := rfl
@[simp] theorem State.wrapInc_live (f : Fld) (n : Nat) : (s.wrapInc f n).live = s.live := rfl
@[simp] theorem State.wrapInc_staged (f : Fld) (n : Nat) : (s.wrapInc f n).staged = s.staged := rfl
@[simp] theorem State.wrapInc_arrays (f : Fld) (n : Nat) : (s.wrapInc f n).arrays = s.arrays := rfl
@[simp] theorem State.wrapInc_was (f : Fld) (n : Nat) : (s.wrapInc f n).was = s.was := rfl
@[simp] theorem State.wrapInc_cycle (f : Fld) (n : Nat) : (s.wrapInc f n).cycle = s.cycle := rfl
@[simp] theorem State.wrapInc_holding (f : Fld) (n : Nat) : (s.wrapInc f n).holding = s.holding := rfl
@[simp] theorem State.wrapInc_freeCtr (f : Fld) (n : Nat) : (s.wrapInc f n).freeCtr = s.freeCtr := rfl
@[simp] theorem State.wrapInc_out (f : Fld) (n : Nat) : (s.wrapInc f n).out = s.out := rfl
@[simp] theorem State.wrapInc_links (f : Fld) (n : Nat) : (s.wrapInc f n).links = s.links := rfl
@[simp] theorem State.wrapInc_cores (f : Fld) (n : Nat) : (s.wrapInc f n).cores = s.cores := rfl
@[simp] theorem State.wrapInc_woke (f : Fld) (n : Nat) : (s.wrapInc f n).woke = s.woke := rfl
@[simp] theorem State.wrapInc_heads (f : Fld) (n : Nat) : (s.wrapInc f n).heads = s.heads := rfl
@[simp] theorem State.wrapInc_records (f : Fld) (n : Nat) : (s.wrapInc f n).records = s.records := rfl
@[simp] theorem State.wrapInc_field (f : Fld) (n : Nat) : (s.wrapInc f n).field = s.field := rfl
@[simp] theorem State.wrapInc_dma (f : Fld) (n : Nat) : (s.wrapInc f n).dma = s.dma := rfl
@[simp] theorem State.wrapInc_blt (f : Fld) (n : Nat) : (s.wrapInc f n).blt = s.blt := rfl
@[simp] theorem State.wrapInc_bell (f : Fld) (n : Nat) : (s.wrapInc f n).bell = s.bell := rfl
@[simp] theorem State.wrapInc_pel (f : Fld) (n : Nat) : (s.wrapInc f n).pel = s.pel := rfl
@[simp] theorem State.wrapInc_eth (f : Fld) (n : Nat) : (s.wrapInc f n).eth = s.eth := rfl
@[simp] theorem State.wrapInc_hub (f : Fld) (n : Nat) : (s.wrapInc f n).hub = s.hub := rfl
@[simp] theorem State.wrapInc_fault (f : Fld) (n : Nat) : (s.wrapInc f n).fault = s.fault := rfl
@[simp] theorem State.wrapInc_gs (f : Fld) (n : Nat) : (s.wrapInc f n).gs = s.gs := rfl
@[simp] theorem State.wrapInc_tandem (f : Fld) (n : Nat) : (s.wrapInc f n).tandem = s.tandem := rfl
@[simp] theorem State.wrapInc_intc (f : Fld) (n : Nat) : (s.wrapInc f n).intc = s.intc := rfl
@[simp] theorem State.wrapInc_sec (f : Fld) (n : Nat) : (s.wrapInc f n).sec = s.sec := rfl
@[simp] theorem State.wrapInc_dbg (f : Fld) (n : Nat) : (s.wrapInc f n).dbg = s.dbg := rfl
@[simp] theorem State.wrapInc_clock (f : Fld) (n : Nat) : (s.wrapInc f n).clock = s.clock := rfl
@[simp] theorem State.wrapInc_ing (f : Fld) (n : Nat) : (s.wrapInc f n).ing = s.ing := rfl
@[simp] theorem State.wrapInc_der (f : Fld) (n : Nat) : (s.wrapInc f n).der = s.der := rfl
@[simp] theorem State.wrapInc_vtk (f : Fld) (n : Nat) : (s.wrapInc f n).vtk = s.vtk := rfl
@[simp] theorem State.wrapInc_sb (f : Fld) (n : Nat) : (s.wrapInc f n).sb = s.sb := rfl

@[simp] theorem State.wr64_pending (a v : Nat) : (s.wr64 a v).pending = s.pending := rfl
@[simp] theorem State.wr64_now (a v : Nat) : (s.wr64 a v).now = s.now := rfl
@[simp] theorem State.wr64_live (a v : Nat) : (s.wr64 a v).live = s.live := rfl
@[simp] theorem State.wr64_staged (a v : Nat) : (s.wr64 a v).staged = s.staged := rfl
@[simp] theorem State.wr64_arrays (a v : Nat) : (s.wr64 a v).arrays = s.arrays := rfl
@[simp] theorem State.wr64_was (a v : Nat) : (s.wr64 a v).was = s.was := rfl
@[simp] theorem State.wr64_cycle (a v : Nat) : (s.wr64 a v).cycle = s.cycle := rfl
@[simp] theorem State.wr64_holding (a v : Nat) : (s.wr64 a v).holding = s.holding := rfl
@[simp] theorem State.wr64_freeCtr (a v : Nat) : (s.wr64 a v).freeCtr = s.freeCtr := rfl
@[simp] theorem State.wr64_out (a v : Nat) : (s.wr64 a v).out = s.out := rfl
@[simp] theorem State.wr64_links (a v : Nat) : (s.wr64 a v).links = s.links := rfl
@[simp] theorem State.wr64_cores (a v : Nat) : (s.wr64 a v).cores = s.cores := rfl
@[simp] theorem State.wr64_woke (a v : Nat) : (s.wr64 a v).woke = s.woke := rfl
@[simp] theorem State.wr64_heads (a v : Nat) : (s.wr64 a v).heads = s.heads := rfl
@[simp] theorem State.wr64_records (a v : Nat) : (s.wr64 a v).records = s.records := rfl
@[simp] theorem State.wr64_field (a v : Nat) : (s.wr64 a v).field = s.field := rfl
@[simp] theorem State.wr64_dma (a v : Nat) : (s.wr64 a v).dma = s.dma := rfl
@[simp] theorem State.wr64_blt (a v : Nat) : (s.wr64 a v).blt = s.blt := rfl
@[simp] theorem State.wr64_bell (a v : Nat) : (s.wr64 a v).bell = s.bell := rfl
@[simp] theorem State.wr64_pel (a v : Nat) : (s.wr64 a v).pel = s.pel := rfl
@[simp] theorem State.wr64_eth (a v : Nat) : (s.wr64 a v).eth = s.eth := rfl
@[simp] theorem State.wr64_hub (a v : Nat) : (s.wr64 a v).hub = s.hub := rfl
@[simp] theorem State.wr64_fault (a v : Nat) : (s.wr64 a v).fault = s.fault := rfl
@[simp] theorem State.wr64_gs (a v : Nat) : (s.wr64 a v).gs = s.gs := rfl
@[simp] theorem State.wr64_tandem (a v : Nat) : (s.wr64 a v).tandem = s.tandem := rfl
@[simp] theorem State.wr64_intc (a v : Nat) : (s.wr64 a v).intc = s.intc := rfl
@[simp] theorem State.wr64_sec (a v : Nat) : (s.wr64 a v).sec = s.sec := rfl
@[simp] theorem State.wr64_dbg (a v : Nat) : (s.wr64 a v).dbg = s.dbg := rfl
@[simp] theorem State.wr64_clock (a v : Nat) : (s.wr64 a v).clock = s.clock := rfl
@[simp] theorem State.wr64_ing (a v : Nat) : (s.wr64 a v).ing = s.ing := rfl
@[simp] theorem State.wr64_der (a v : Nat) : (s.wr64 a v).der = s.der := rfl
@[simp] theorem State.wr64_vtk (a v : Nat) : (s.wr64 a v).vtk = s.vtk := rfl
@[simp] theorem State.wr64_sb (a v : Nat) : (s.wr64 a v).sb = s.sb := rfl

@[simp] theorem State.setLive_pending (a : Nat) (w : Word) : (s.setLive a w).pending = s.pending := rfl
@[simp] theorem State.setLive_now (a : Nat) (w : Word) : (s.setLive a w).now = s.now := rfl
@[simp] theorem State.setLive_regs (a : Nat) (w : Word) : (s.setLive a w).regs = s.regs := rfl
@[simp] theorem State.setLive_staged (a : Nat) (w : Word) : (s.setLive a w).staged = s.staged := rfl
@[simp] theorem State.setLive_arrays (a : Nat) (w : Word) : (s.setLive a w).arrays = s.arrays := rfl
@[simp] theorem State.setLive_was (a : Nat) (w : Word) : (s.setLive a w).was = s.was := rfl
@[simp] theorem State.setLive_cycle (a : Nat) (w : Word) : (s.setLive a w).cycle = s.cycle := rfl
@[simp] theorem State.setLive_holding (a : Nat) (w : Word) : (s.setLive a w).holding = s.holding := rfl
@[simp] theorem State.setLive_freeCtr (a : Nat) (w : Word) : (s.setLive a w).freeCtr = s.freeCtr := rfl
@[simp] theorem State.setLive_out (a : Nat) (w : Word) : (s.setLive a w).out = s.out := rfl
@[simp] theorem State.setLive_links (a : Nat) (w : Word) : (s.setLive a w).links = s.links := rfl
@[simp] theorem State.setLive_cores (a : Nat) (w : Word) : (s.setLive a w).cores = s.cores := rfl
@[simp] theorem State.setLive_woke (a : Nat) (w : Word) : (s.setLive a w).woke = s.woke := rfl
@[simp] theorem State.setLive_heads (a : Nat) (w : Word) : (s.setLive a w).heads = s.heads := rfl
@[simp] theorem State.setLive_records (a : Nat) (w : Word) : (s.setLive a w).records = s.records := rfl
@[simp] theorem State.setLive_field (a : Nat) (w : Word) : (s.setLive a w).field = s.field := rfl
@[simp] theorem State.setLive_dma (a : Nat) (w : Word) : (s.setLive a w).dma = s.dma := rfl
@[simp] theorem State.setLive_blt (a : Nat) (w : Word) : (s.setLive a w).blt = s.blt := rfl
@[simp] theorem State.setLive_bell (a : Nat) (w : Word) : (s.setLive a w).bell = s.bell := rfl
@[simp] theorem State.setLive_pel (a : Nat) (w : Word) : (s.setLive a w).pel = s.pel := rfl
@[simp] theorem State.setLive_eth (a : Nat) (w : Word) : (s.setLive a w).eth = s.eth := rfl
@[simp] theorem State.setLive_hub (a : Nat) (w : Word) : (s.setLive a w).hub = s.hub := rfl
@[simp] theorem State.setLive_fault (a : Nat) (w : Word) : (s.setLive a w).fault = s.fault := rfl
@[simp] theorem State.setLive_gs (a : Nat) (w : Word) : (s.setLive a w).gs = s.gs := rfl
@[simp] theorem State.setLive_tandem (a : Nat) (w : Word) : (s.setLive a w).tandem = s.tandem := rfl
@[simp] theorem State.setLive_intc (a : Nat) (w : Word) : (s.setLive a w).intc = s.intc := rfl
@[simp] theorem State.setLive_sec (a : Nat) (w : Word) : (s.setLive a w).sec = s.sec := rfl
@[simp] theorem State.setLive_dbg (a : Nat) (w : Word) : (s.setLive a w).dbg = s.dbg := rfl
@[simp] theorem State.setLive_clock (a : Nat) (w : Word) : (s.setLive a w).clock = s.clock := rfl
@[simp] theorem State.setLive_ing (a : Nat) (w : Word) : (s.setLive a w).ing = s.ing := rfl
@[simp] theorem State.setLive_der (a : Nat) (w : Word) : (s.setLive a w).der = s.der := rfl
@[simp] theorem State.setLive_vtk (a : Nat) (w : Word) : (s.setLive a w).vtk = s.vtk := rfl
@[simp] theorem State.setLive_sb (a : Nat) (w : Word) : (s.setLive a w).sb = s.sb := rfl

@[simp] theorem State.setArr_pending (a : Nat) (w : Word) : (s.setArr a w).pending = s.pending := rfl
@[simp] theorem State.setArr_now (a : Nat) (w : Word) : (s.setArr a w).now = s.now := rfl
@[simp] theorem State.setArr_regs (a : Nat) (w : Word) : (s.setArr a w).regs = s.regs := rfl
@[simp] theorem State.setArr_live (a : Nat) (w : Word) : (s.setArr a w).live = s.live := rfl
@[simp] theorem State.setArr_staged (a : Nat) (w : Word) : (s.setArr a w).staged = s.staged := rfl
@[simp] theorem State.setArr_was (a : Nat) (w : Word) : (s.setArr a w).was = s.was := rfl
@[simp] theorem State.setArr_cycle (a : Nat) (w : Word) : (s.setArr a w).cycle = s.cycle := rfl
@[simp] theorem State.setArr_holding (a : Nat) (w : Word) : (s.setArr a w).holding = s.holding := rfl
@[simp] theorem State.setArr_freeCtr (a : Nat) (w : Word) : (s.setArr a w).freeCtr = s.freeCtr := rfl
@[simp] theorem State.setArr_out (a : Nat) (w : Word) : (s.setArr a w).out = s.out := rfl
@[simp] theorem State.setArr_links (a : Nat) (w : Word) : (s.setArr a w).links = s.links := rfl
@[simp] theorem State.setArr_cores (a : Nat) (w : Word) : (s.setArr a w).cores = s.cores := rfl
@[simp] theorem State.setArr_woke (a : Nat) (w : Word) : (s.setArr a w).woke = s.woke := rfl
@[simp] theorem State.setArr_heads (a : Nat) (w : Word) : (s.setArr a w).heads = s.heads := rfl
@[simp] theorem State.setArr_records (a : Nat) (w : Word) : (s.setArr a w).records = s.records := rfl
@[simp] theorem State.setArr_field (a : Nat) (w : Word) : (s.setArr a w).field = s.field := rfl
@[simp] theorem State.setArr_dma (a : Nat) (w : Word) : (s.setArr a w).dma = s.dma := rfl
@[simp] theorem State.setArr_blt (a : Nat) (w : Word) : (s.setArr a w).blt = s.blt := rfl
@[simp] theorem State.setArr_bell (a : Nat) (w : Word) : (s.setArr a w).bell = s.bell := rfl
@[simp] theorem State.setArr_pel (a : Nat) (w : Word) : (s.setArr a w).pel = s.pel := rfl
@[simp] theorem State.setArr_eth (a : Nat) (w : Word) : (s.setArr a w).eth = s.eth := rfl
@[simp] theorem State.setArr_hub (a : Nat) (w : Word) : (s.setArr a w).hub = s.hub := rfl
@[simp] theorem State.setArr_fault (a : Nat) (w : Word) : (s.setArr a w).fault = s.fault := rfl
@[simp] theorem State.setArr_gs (a : Nat) (w : Word) : (s.setArr a w).gs = s.gs := rfl
@[simp] theorem State.setArr_tandem (a : Nat) (w : Word) : (s.setArr a w).tandem = s.tandem := rfl
@[simp] theorem State.setArr_intc (a : Nat) (w : Word) : (s.setArr a w).intc = s.intc := rfl
@[simp] theorem State.setArr_sec (a : Nat) (w : Word) : (s.setArr a w).sec = s.sec := rfl
@[simp] theorem State.setArr_dbg (a : Nat) (w : Word) : (s.setArr a w).dbg = s.dbg := rfl
@[simp] theorem State.setArr_clock (a : Nat) (w : Word) : (s.setArr a w).clock = s.clock := rfl
@[simp] theorem State.setArr_ing (a : Nat) (w : Word) : (s.setArr a w).ing = s.ing := rfl
@[simp] theorem State.setArr_der (a : Nat) (w : Word) : (s.setArr a w).der = s.der := rfl
@[simp] theorem State.setArr_vtk (a : Nat) (w : Word) : (s.setArr a w).vtk = s.vtk := rfl
@[simp] theorem State.setArr_sb (a : Nat) (w : Word) : (s.setArr a w).sb = s.sb := rfl

@[simp] theorem State.emit_pending (o : Output) : (s.emit o).pending = s.pending := rfl
@[simp] theorem State.emit_now (o : Output) : (s.emit o).now = s.now := rfl
@[simp] theorem State.emit_regs (o : Output) : (s.emit o).regs = s.regs := rfl
@[simp] theorem State.emit_live (o : Output) : (s.emit o).live = s.live := rfl
@[simp] theorem State.emit_staged (o : Output) : (s.emit o).staged = s.staged := rfl
@[simp] theorem State.emit_arrays (o : Output) : (s.emit o).arrays = s.arrays := rfl
@[simp] theorem State.emit_was (o : Output) : (s.emit o).was = s.was := rfl
@[simp] theorem State.emit_cycle (o : Output) : (s.emit o).cycle = s.cycle := rfl
@[simp] theorem State.emit_holding (o : Output) : (s.emit o).holding = s.holding := rfl
@[simp] theorem State.emit_freeCtr (o : Output) : (s.emit o).freeCtr = s.freeCtr := rfl
@[simp] theorem State.emit_links (o : Output) : (s.emit o).links = s.links := rfl
@[simp] theorem State.emit_cores (o : Output) : (s.emit o).cores = s.cores := rfl
@[simp] theorem State.emit_woke (o : Output) : (s.emit o).woke = s.woke := rfl
@[simp] theorem State.emit_heads (o : Output) : (s.emit o).heads = s.heads := rfl
@[simp] theorem State.emit_records (o : Output) : (s.emit o).records = s.records := rfl
@[simp] theorem State.emit_field (o : Output) : (s.emit o).field = s.field := rfl
@[simp] theorem State.emit_dma (o : Output) : (s.emit o).dma = s.dma := rfl
@[simp] theorem State.emit_blt (o : Output) : (s.emit o).blt = s.blt := rfl
@[simp] theorem State.emit_bell (o : Output) : (s.emit o).bell = s.bell := rfl
@[simp] theorem State.emit_pel (o : Output) : (s.emit o).pel = s.pel := rfl
@[simp] theorem State.emit_eth (o : Output) : (s.emit o).eth = s.eth := rfl
@[simp] theorem State.emit_hub (o : Output) : (s.emit o).hub = s.hub := rfl
@[simp] theorem State.emit_fault (o : Output) : (s.emit o).fault = s.fault := rfl
@[simp] theorem State.emit_gs (o : Output) : (s.emit o).gs = s.gs := rfl
@[simp] theorem State.emit_tandem (o : Output) : (s.emit o).tandem = s.tandem := rfl
@[simp] theorem State.emit_intc (o : Output) : (s.emit o).intc = s.intc := rfl
@[simp] theorem State.emit_sec (o : Output) : (s.emit o).sec = s.sec := rfl
@[simp] theorem State.emit_dbg (o : Output) : (s.emit o).dbg = s.dbg := rfl
@[simp] theorem State.emit_clock (o : Output) : (s.emit o).clock = s.clock := rfl
@[simp] theorem State.emit_ing (o : Output) : (s.emit o).ing = s.ing := rfl
@[simp] theorem State.emit_der (o : Output) : (s.emit o).der = s.der := rfl
@[simp] theorem State.emit_vtk (o : Output) : (s.emit o).vtk = s.vtk := rfl
@[simp] theorem State.emit_sb (o : Output) : (s.emit o).sb = s.sb := rfl

@[simp] theorem State.at_pending (t : Nat) : (s.at t).pending = s.pending := by unfold State.at; split <;> rfl
@[simp] theorem State.at_regs (t : Nat) : (s.at t).regs = s.regs := by unfold State.at; split <;> rfl
@[simp] theorem State.at_live (t : Nat) : (s.at t).live = s.live := by unfold State.at; split <;> rfl
@[simp] theorem State.at_staged (t : Nat) : (s.at t).staged = s.staged := by unfold State.at; split <;> rfl
@[simp] theorem State.at_arrays (t : Nat) : (s.at t).arrays = s.arrays := by unfold State.at; split <;> rfl
@[simp] theorem State.at_cycle (t : Nat) : (s.at t).cycle = s.cycle := by unfold State.at; split <;> rfl
@[simp] theorem State.at_holding (t : Nat) : (s.at t).holding = s.holding := by unfold State.at; split <;> rfl
@[simp] theorem State.at_freeCtr (t : Nat) : (s.at t).freeCtr = s.freeCtr := by unfold State.at; split <;> rfl
@[simp] theorem State.at_out (t : Nat) : (s.at t).out = s.out := by unfold State.at; split <;> rfl
@[simp] theorem State.at_links (t : Nat) : (s.at t).links = s.links := by unfold State.at; split <;> rfl
@[simp] theorem State.at_cores (t : Nat) : (s.at t).cores = s.cores := by unfold State.at; split <;> rfl
@[simp] theorem State.at_heads (t : Nat) : (s.at t).heads = s.heads := by unfold State.at; split <;> rfl
@[simp] theorem State.at_records (t : Nat) : (s.at t).records = s.records := by unfold State.at; split <;> rfl
@[simp] theorem State.at_field (t : Nat) : (s.at t).field = s.field := by unfold State.at; split <;> rfl
@[simp] theorem State.at_dma (t : Nat) : (s.at t).dma = s.dma := by unfold State.at; split <;> rfl
@[simp] theorem State.at_blt (t : Nat) : (s.at t).blt = s.blt := by unfold State.at; split <;> rfl
@[simp] theorem State.at_bell (t : Nat) : (s.at t).bell = s.bell := by unfold State.at; split <;> rfl
@[simp] theorem State.at_pel (t : Nat) : (s.at t).pel = s.pel := by unfold State.at; split <;> rfl
@[simp] theorem State.at_eth (t : Nat) : (s.at t).eth = s.eth := by unfold State.at; split <;> rfl
@[simp] theorem State.at_hub (t : Nat) : (s.at t).hub = s.hub := by unfold State.at; split <;> rfl
@[simp] theorem State.at_fault (t : Nat) : (s.at t).fault = s.fault := by unfold State.at; split <;> rfl
@[simp] theorem State.at_gs (t : Nat) : (s.at t).gs = s.gs := by unfold State.at; split <;> rfl
@[simp] theorem State.at_tandem (t : Nat) : (s.at t).tandem = s.tandem := by unfold State.at; split <;> rfl
@[simp] theorem State.at_intc (t : Nat) : (s.at t).intc = s.intc := by unfold State.at; split <;> rfl
@[simp] theorem State.at_sec (t : Nat) : (s.at t).sec = s.sec := by unfold State.at; split <;> rfl
@[simp] theorem State.at_dbg (t : Nat) : (s.at t).dbg = s.dbg := by unfold State.at; split <;> rfl
@[simp] theorem State.at_clock (t : Nat) : (s.at t).clock = s.clock := by unfold State.at; split <;> rfl
@[simp] theorem State.at_ing (t : Nat) : (s.at t).ing = s.ing := by unfold State.at; split <;> rfl
@[simp] theorem State.at_der (t : Nat) : (s.at t).der = s.der := by unfold State.at; split <;> rfl
@[simp] theorem State.at_vtk (t : Nat) : (s.at t).vtk = s.vtk := by unfold State.at; split <;> rfl
@[simp] theorem State.at_sb (t : Nat) : (s.at t).sb = s.sb := by unfold State.at; split <;> rfl

@[simp] theorem State.setMemByte_pending (off : Nat) (b : Byte) : (s.setMemByte off b).pending = s.pending := rfl
@[simp] theorem State.setMemByte_now (off : Nat) (b : Byte) : (s.setMemByte off b).now = s.now := rfl
@[simp] theorem State.setMemByte_regs (off : Nat) (b : Byte) : (s.setMemByte off b).regs = s.regs := rfl
@[simp] theorem State.setMemByte_live (off : Nat) (b : Byte) : (s.setMemByte off b).live = s.live := rfl
@[simp] theorem State.setMemByte_staged (off : Nat) (b : Byte) : (s.setMemByte off b).staged = s.staged := rfl
@[simp] theorem State.setMemByte_arrays (off : Nat) (b : Byte) : (s.setMemByte off b).arrays = s.arrays := rfl
@[simp] theorem State.setMemByte_was (off : Nat) (b : Byte) : (s.setMemByte off b).was = s.was := rfl
@[simp] theorem State.setMemByte_cycle (off : Nat) (b : Byte) : (s.setMemByte off b).cycle = s.cycle := rfl
@[simp] theorem State.setMemByte_holding (off : Nat) (b : Byte) : (s.setMemByte off b).holding = s.holding := rfl
@[simp] theorem State.setMemByte_freeCtr (off : Nat) (b : Byte) : (s.setMemByte off b).freeCtr = s.freeCtr := rfl
@[simp] theorem State.setMemByte_out (off : Nat) (b : Byte) : (s.setMemByte off b).out = s.out := rfl
@[simp] theorem State.setMemByte_links (off : Nat) (b : Byte) : (s.setMemByte off b).links = s.links := rfl
@[simp] theorem State.setMemByte_cores (off : Nat) (b : Byte) : (s.setMemByte off b).cores = s.cores := rfl
@[simp] theorem State.setMemByte_woke (off : Nat) (b : Byte) : (s.setMemByte off b).woke = s.woke := rfl
@[simp] theorem State.setMemByte_heads (off : Nat) (b : Byte) : (s.setMemByte off b).heads = s.heads := rfl
@[simp] theorem State.setMemByte_records (off : Nat) (b : Byte) : (s.setMemByte off b).records = s.records := rfl
@[simp] theorem State.setMemByte_field (off : Nat) (b : Byte) : (s.setMemByte off b).field = s.field := rfl
@[simp] theorem State.setMemByte_dma (off : Nat) (b : Byte) : (s.setMemByte off b).dma = s.dma := rfl
@[simp] theorem State.setMemByte_blt (off : Nat) (b : Byte) : (s.setMemByte off b).blt = s.blt := rfl
@[simp] theorem State.setMemByte_bell (off : Nat) (b : Byte) : (s.setMemByte off b).bell = s.bell := rfl
@[simp] theorem State.setMemByte_pel (off : Nat) (b : Byte) : (s.setMemByte off b).pel = s.pel := rfl
@[simp] theorem State.setMemByte_eth (off : Nat) (b : Byte) : (s.setMemByte off b).eth = s.eth := rfl
@[simp] theorem State.setMemByte_fault (off : Nat) (b : Byte) : (s.setMemByte off b).fault = s.fault := rfl
@[simp] theorem State.setMemByte_gs (off : Nat) (b : Byte) : (s.setMemByte off b).gs = s.gs := rfl
@[simp] theorem State.setMemByte_tandem (off : Nat) (b : Byte) : (s.setMemByte off b).tandem = s.tandem := rfl
@[simp] theorem State.setMemByte_intc (off : Nat) (b : Byte) : (s.setMemByte off b).intc = s.intc := rfl
@[simp] theorem State.setMemByte_sec (off : Nat) (b : Byte) : (s.setMemByte off b).sec = s.sec := rfl
@[simp] theorem State.setMemByte_dbg (off : Nat) (b : Byte) : (s.setMemByte off b).dbg = s.dbg := rfl
@[simp] theorem State.setMemByte_clock (off : Nat) (b : Byte) : (s.setMemByte off b).clock = s.clock := rfl
@[simp] theorem State.setMemByte_ing (off : Nat) (b : Byte) : (s.setMemByte off b).ing = s.ing := rfl
@[simp] theorem State.setMemByte_der (off : Nat) (b : Byte) : (s.setMemByte off b).der = s.der := rfl
@[simp] theorem State.setMemByte_vtk (off : Nat) (b : Byte) : (s.setMemByte off b).vtk = s.vtk := rfl
@[simp] theorem State.setMemByte_sb (off : Nat) (b : Byte) : (s.setMemByte off b).sb = s.sb := rfl

@[simp] theorem State.setFlips_pending (wi : Nat) (f : BitVec 72) : (s.setFlips wi f).pending = s.pending := rfl
@[simp] theorem State.setFlips_now (wi : Nat) (f : BitVec 72) : (s.setFlips wi f).now = s.now := rfl
@[simp] theorem State.setFlips_regs (wi : Nat) (f : BitVec 72) : (s.setFlips wi f).regs = s.regs := rfl
@[simp] theorem State.setFlips_live (wi : Nat) (f : BitVec 72) : (s.setFlips wi f).live = s.live := rfl
@[simp] theorem State.setFlips_staged (wi : Nat) (f : BitVec 72) : (s.setFlips wi f).staged = s.staged := rfl
@[simp] theorem State.setFlips_arrays (wi : Nat) (f : BitVec 72) : (s.setFlips wi f).arrays = s.arrays := rfl
@[simp] theorem State.setFlips_was (wi : Nat) (f : BitVec 72) : (s.setFlips wi f).was = s.was := rfl
@[simp] theorem State.setFlips_cycle (wi : Nat) (f : BitVec 72) : (s.setFlips wi f).cycle = s.cycle := rfl
@[simp] theorem State.setFlips_holding (wi : Nat) (f : BitVec 72) : (s.setFlips wi f).holding = s.holding := rfl
@[simp] theorem State.setFlips_freeCtr (wi : Nat) (f : BitVec 72) : (s.setFlips wi f).freeCtr = s.freeCtr := rfl
@[simp] theorem State.setFlips_out (wi : Nat) (f : BitVec 72) : (s.setFlips wi f).out = s.out := rfl
@[simp] theorem State.setFlips_links (wi : Nat) (f : BitVec 72) : (s.setFlips wi f).links = s.links := rfl
@[simp] theorem State.setFlips_cores (wi : Nat) (f : BitVec 72) : (s.setFlips wi f).cores = s.cores := rfl
@[simp] theorem State.setFlips_woke (wi : Nat) (f : BitVec 72) : (s.setFlips wi f).woke = s.woke := rfl
@[simp] theorem State.setFlips_heads (wi : Nat) (f : BitVec 72) : (s.setFlips wi f).heads = s.heads := rfl
@[simp] theorem State.setFlips_records (wi : Nat) (f : BitVec 72) : (s.setFlips wi f).records = s.records := rfl
@[simp] theorem State.setFlips_field (wi : Nat) (f : BitVec 72) : (s.setFlips wi f).field = s.field := rfl
@[simp] theorem State.setFlips_dma (wi : Nat) (f : BitVec 72) : (s.setFlips wi f).dma = s.dma := rfl
@[simp] theorem State.setFlips_blt (wi : Nat) (f : BitVec 72) : (s.setFlips wi f).blt = s.blt := rfl
@[simp] theorem State.setFlips_bell (wi : Nat) (f : BitVec 72) : (s.setFlips wi f).bell = s.bell := rfl
@[simp] theorem State.setFlips_pel (wi : Nat) (f : BitVec 72) : (s.setFlips wi f).pel = s.pel := rfl
@[simp] theorem State.setFlips_eth (wi : Nat) (f : BitVec 72) : (s.setFlips wi f).eth = s.eth := rfl
@[simp] theorem State.setFlips_fault (wi : Nat) (f : BitVec 72) : (s.setFlips wi f).fault = s.fault := rfl
@[simp] theorem State.setFlips_gs (wi : Nat) (f : BitVec 72) : (s.setFlips wi f).gs = s.gs := rfl
@[simp] theorem State.setFlips_tandem (wi : Nat) (f : BitVec 72) : (s.setFlips wi f).tandem = s.tandem := rfl
@[simp] theorem State.setFlips_intc (wi : Nat) (f : BitVec 72) : (s.setFlips wi f).intc = s.intc := rfl
@[simp] theorem State.setFlips_sec (wi : Nat) (f : BitVec 72) : (s.setFlips wi f).sec = s.sec := rfl
@[simp] theorem State.setFlips_dbg (wi : Nat) (f : BitVec 72) : (s.setFlips wi f).dbg = s.dbg := rfl
@[simp] theorem State.setFlips_clock (wi : Nat) (f : BitVec 72) : (s.setFlips wi f).clock = s.clock := rfl
@[simp] theorem State.setFlips_ing (wi : Nat) (f : BitVec 72) : (s.setFlips wi f).ing = s.ing := rfl
@[simp] theorem State.setFlips_der (wi : Nat) (f : BitVec 72) : (s.setFlips wi f).der = s.der := rfl
@[simp] theorem State.setFlips_vtk (wi : Nat) (f : BitVec 72) : (s.setFlips wi f).vtk = s.vtk := rfl
@[simp] theorem State.setFlips_sb (wi : Nat) (f : BitVec 72) : (s.setFlips wi f).sb = s.sb := rfl

@[simp] theorem State.setCore_pending (k : Nat) (c : CoreS) : (s.setCore k c).pending = s.pending := rfl
@[simp] theorem State.setCore_now (k : Nat) (c : CoreS) : (s.setCore k c).now = s.now := rfl
@[simp] theorem State.setCore_regs (k : Nat) (c : CoreS) : (s.setCore k c).regs = s.regs := rfl
@[simp] theorem State.setCore_live (k : Nat) (c : CoreS) : (s.setCore k c).live = s.live := rfl
@[simp] theorem State.setCore_staged (k : Nat) (c : CoreS) : (s.setCore k c).staged = s.staged := rfl
@[simp] theorem State.setCore_arrays (k : Nat) (c : CoreS) : (s.setCore k c).arrays = s.arrays := rfl
@[simp] theorem State.setCore_was (k : Nat) (c : CoreS) : (s.setCore k c).was = s.was := rfl
@[simp] theorem State.setCore_cycle (k : Nat) (c : CoreS) : (s.setCore k c).cycle = s.cycle := rfl
@[simp] theorem State.setCore_holding (k : Nat) (c : CoreS) : (s.setCore k c).holding = s.holding := rfl
@[simp] theorem State.setCore_freeCtr (k : Nat) (c : CoreS) : (s.setCore k c).freeCtr = s.freeCtr := rfl
@[simp] theorem State.setCore_out (k : Nat) (c : CoreS) : (s.setCore k c).out = s.out := rfl
@[simp] theorem State.setCore_links (k : Nat) (c : CoreS) : (s.setCore k c).links = s.links := rfl
@[simp] theorem State.setCore_woke (k : Nat) (c : CoreS) : (s.setCore k c).woke = s.woke := rfl
@[simp] theorem State.setCore_heads (k : Nat) (c : CoreS) : (s.setCore k c).heads = s.heads := rfl
@[simp] theorem State.setCore_records (k : Nat) (c : CoreS) : (s.setCore k c).records = s.records := rfl
@[simp] theorem State.setCore_field (k : Nat) (c : CoreS) : (s.setCore k c).field = s.field := rfl
@[simp] theorem State.setCore_dma (k : Nat) (c : CoreS) : (s.setCore k c).dma = s.dma := rfl
@[simp] theorem State.setCore_blt (k : Nat) (c : CoreS) : (s.setCore k c).blt = s.blt := rfl
@[simp] theorem State.setCore_bell (k : Nat) (c : CoreS) : (s.setCore k c).bell = s.bell := rfl
@[simp] theorem State.setCore_pel (k : Nat) (c : CoreS) : (s.setCore k c).pel = s.pel := rfl
@[simp] theorem State.setCore_eth (k : Nat) (c : CoreS) : (s.setCore k c).eth = s.eth := rfl
@[simp] theorem State.setCore_hub (k : Nat) (c : CoreS) : (s.setCore k c).hub = s.hub := rfl
@[simp] theorem State.setCore_fault (k : Nat) (c : CoreS) : (s.setCore k c).fault = s.fault := rfl
@[simp] theorem State.setCore_gs (k : Nat) (c : CoreS) : (s.setCore k c).gs = s.gs := rfl
@[simp] theorem State.setCore_tandem (k : Nat) (c : CoreS) : (s.setCore k c).tandem = s.tandem := rfl
@[simp] theorem State.setCore_intc (k : Nat) (c : CoreS) : (s.setCore k c).intc = s.intc := rfl
@[simp] theorem State.setCore_sec (k : Nat) (c : CoreS) : (s.setCore k c).sec = s.sec := rfl
@[simp] theorem State.setCore_dbg (k : Nat) (c : CoreS) : (s.setCore k c).dbg = s.dbg := rfl
@[simp] theorem State.setCore_clock (k : Nat) (c : CoreS) : (s.setCore k c).clock = s.clock := rfl
@[simp] theorem State.setCore_ing (k : Nat) (c : CoreS) : (s.setCore k c).ing = s.ing := rfl
@[simp] theorem State.setCore_der (k : Nat) (c : CoreS) : (s.setCore k c).der = s.der := rfl
@[simp] theorem State.setCore_vtk (k : Nat) (c : CoreS) : (s.setCore k c).vtk = s.vtk := rfl
@[simp] theorem State.setCore_sb (k : Nat) (c : CoreS) : (s.setCore k c).sb = s.sb := rfl

@[simp] theorem State.modCore_pending (k : Nat) (f : CoreS → CoreS) : (s.modCore k f).pending = s.pending := rfl
@[simp] theorem State.modCore_now (k : Nat) (f : CoreS → CoreS) : (s.modCore k f).now = s.now := rfl
@[simp] theorem State.modCore_regs (k : Nat) (f : CoreS → CoreS) : (s.modCore k f).regs = s.regs := rfl
@[simp] theorem State.modCore_live (k : Nat) (f : CoreS → CoreS) : (s.modCore k f).live = s.live := rfl
@[simp] theorem State.modCore_staged (k : Nat) (f : CoreS → CoreS) : (s.modCore k f).staged = s.staged := rfl
@[simp] theorem State.modCore_arrays (k : Nat) (f : CoreS → CoreS) : (s.modCore k f).arrays = s.arrays := rfl
@[simp] theorem State.modCore_was (k : Nat) (f : CoreS → CoreS) : (s.modCore k f).was = s.was := rfl
@[simp] theorem State.modCore_cycle (k : Nat) (f : CoreS → CoreS) : (s.modCore k f).cycle = s.cycle := rfl
@[simp] theorem State.modCore_holding (k : Nat) (f : CoreS → CoreS) : (s.modCore k f).holding = s.holding := rfl
@[simp] theorem State.modCore_freeCtr (k : Nat) (f : CoreS → CoreS) : (s.modCore k f).freeCtr = s.freeCtr := rfl
@[simp] theorem State.modCore_out (k : Nat) (f : CoreS → CoreS) : (s.modCore k f).out = s.out := rfl
@[simp] theorem State.modCore_links (k : Nat) (f : CoreS → CoreS) : (s.modCore k f).links = s.links := rfl
@[simp] theorem State.modCore_woke (k : Nat) (f : CoreS → CoreS) : (s.modCore k f).woke = s.woke := rfl
@[simp] theorem State.modCore_heads (k : Nat) (f : CoreS → CoreS) : (s.modCore k f).heads = s.heads := rfl
@[simp] theorem State.modCore_records (k : Nat) (f : CoreS → CoreS) : (s.modCore k f).records = s.records := rfl
@[simp] theorem State.modCore_field (k : Nat) (f : CoreS → CoreS) : (s.modCore k f).field = s.field := rfl
@[simp] theorem State.modCore_dma (k : Nat) (f : CoreS → CoreS) : (s.modCore k f).dma = s.dma := rfl
@[simp] theorem State.modCore_blt (k : Nat) (f : CoreS → CoreS) : (s.modCore k f).blt = s.blt := rfl
@[simp] theorem State.modCore_bell (k : Nat) (f : CoreS → CoreS) : (s.modCore k f).bell = s.bell := rfl
@[simp] theorem State.modCore_pel (k : Nat) (f : CoreS → CoreS) : (s.modCore k f).pel = s.pel := rfl
@[simp] theorem State.modCore_eth (k : Nat) (f : CoreS → CoreS) : (s.modCore k f).eth = s.eth := rfl
@[simp] theorem State.modCore_hub (k : Nat) (f : CoreS → CoreS) : (s.modCore k f).hub = s.hub := rfl
@[simp] theorem State.modCore_fault (k : Nat) (f : CoreS → CoreS) : (s.modCore k f).fault = s.fault := rfl
@[simp] theorem State.modCore_gs (k : Nat) (f : CoreS → CoreS) : (s.modCore k f).gs = s.gs := rfl
@[simp] theorem State.modCore_tandem (k : Nat) (f : CoreS → CoreS) : (s.modCore k f).tandem = s.tandem := rfl
@[simp] theorem State.modCore_intc (k : Nat) (f : CoreS → CoreS) : (s.modCore k f).intc = s.intc := rfl
@[simp] theorem State.modCore_sec (k : Nat) (f : CoreS → CoreS) : (s.modCore k f).sec = s.sec := rfl
@[simp] theorem State.modCore_dbg (k : Nat) (f : CoreS → CoreS) : (s.modCore k f).dbg = s.dbg := rfl
@[simp] theorem State.modCore_clock (k : Nat) (f : CoreS → CoreS) : (s.modCore k f).clock = s.clock := rfl
@[simp] theorem State.modCore_ing (k : Nat) (f : CoreS → CoreS) : (s.modCore k f).ing = s.ing := rfl
@[simp] theorem State.modCore_der (k : Nat) (f : CoreS → CoreS) : (s.modCore k f).der = s.der := rfl
@[simp] theorem State.modCore_vtk (k : Nat) (f : CoreS → CoreS) : (s.modCore k f).vtk = s.vtk := rfl
@[simp] theorem State.modCore_sb (k : Nat) (f : CoreS → CoreS) : (s.modCore k f).sb = s.sb := rfl

@[simp] theorem State.setHead_pending (h : Nat) (x : HeadS) : (s.setHead h x).pending = s.pending := rfl
@[simp] theorem State.setHead_now (h : Nat) (x : HeadS) : (s.setHead h x).now = s.now := rfl
@[simp] theorem State.setHead_regs (h : Nat) (x : HeadS) : (s.setHead h x).regs = s.regs := rfl
@[simp] theorem State.setHead_live (h : Nat) (x : HeadS) : (s.setHead h x).live = s.live := rfl
@[simp] theorem State.setHead_staged (h : Nat) (x : HeadS) : (s.setHead h x).staged = s.staged := rfl
@[simp] theorem State.setHead_arrays (h : Nat) (x : HeadS) : (s.setHead h x).arrays = s.arrays := rfl
@[simp] theorem State.setHead_was (h : Nat) (x : HeadS) : (s.setHead h x).was = s.was := rfl
@[simp] theorem State.setHead_cycle (h : Nat) (x : HeadS) : (s.setHead h x).cycle = s.cycle := rfl
@[simp] theorem State.setHead_holding (h : Nat) (x : HeadS) : (s.setHead h x).holding = s.holding := rfl
@[simp] theorem State.setHead_freeCtr (h : Nat) (x : HeadS) : (s.setHead h x).freeCtr = s.freeCtr := rfl
@[simp] theorem State.setHead_out (h : Nat) (x : HeadS) : (s.setHead h x).out = s.out := rfl
@[simp] theorem State.setHead_links (h : Nat) (x : HeadS) : (s.setHead h x).links = s.links := rfl
@[simp] theorem State.setHead_cores (h : Nat) (x : HeadS) : (s.setHead h x).cores = s.cores := rfl
@[simp] theorem State.setHead_woke (h : Nat) (x : HeadS) : (s.setHead h x).woke = s.woke := rfl
@[simp] theorem State.setHead_records (h : Nat) (x : HeadS) : (s.setHead h x).records = s.records := rfl
@[simp] theorem State.setHead_field (h : Nat) (x : HeadS) : (s.setHead h x).field = s.field := rfl
@[simp] theorem State.setHead_dma (h : Nat) (x : HeadS) : (s.setHead h x).dma = s.dma := rfl
@[simp] theorem State.setHead_blt (h : Nat) (x : HeadS) : (s.setHead h x).blt = s.blt := rfl
@[simp] theorem State.setHead_bell (h : Nat) (x : HeadS) : (s.setHead h x).bell = s.bell := rfl
@[simp] theorem State.setHead_pel (h : Nat) (x : HeadS) : (s.setHead h x).pel = s.pel := rfl
@[simp] theorem State.setHead_eth (h : Nat) (x : HeadS) : (s.setHead h x).eth = s.eth := rfl
@[simp] theorem State.setHead_hub (h : Nat) (x : HeadS) : (s.setHead h x).hub = s.hub := rfl
@[simp] theorem State.setHead_fault (h : Nat) (x : HeadS) : (s.setHead h x).fault = s.fault := rfl
@[simp] theorem State.setHead_gs (h : Nat) (x : HeadS) : (s.setHead h x).gs = s.gs := rfl
@[simp] theorem State.setHead_tandem (h : Nat) (x : HeadS) : (s.setHead h x).tandem = s.tandem := rfl
@[simp] theorem State.setHead_intc (h : Nat) (x : HeadS) : (s.setHead h x).intc = s.intc := rfl
@[simp] theorem State.setHead_sec (h : Nat) (x : HeadS) : (s.setHead h x).sec = s.sec := rfl
@[simp] theorem State.setHead_dbg (h : Nat) (x : HeadS) : (s.setHead h x).dbg = s.dbg := rfl
@[simp] theorem State.setHead_clock (h : Nat) (x : HeadS) : (s.setHead h x).clock = s.clock := rfl
@[simp] theorem State.setHead_ing (h : Nat) (x : HeadS) : (s.setHead h x).ing = s.ing := rfl
@[simp] theorem State.setHead_der (h : Nat) (x : HeadS) : (s.setHead h x).der = s.der := rfl
@[simp] theorem State.setHead_vtk (h : Nat) (x : HeadS) : (s.setHead h x).vtk = s.vtk := rfl
@[simp] theorem State.setHead_sb (h : Nat) (x : HeadS) : (s.setHead h x).sb = s.sb := rfl

@[simp] theorem State.modHead_pending (h : Nat) (f : HeadS → HeadS) : (s.modHead h f).pending = s.pending := rfl
@[simp] theorem State.modHead_now (h : Nat) (f : HeadS → HeadS) : (s.modHead h f).now = s.now := rfl
@[simp] theorem State.modHead_regs (h : Nat) (f : HeadS → HeadS) : (s.modHead h f).regs = s.regs := rfl
@[simp] theorem State.modHead_live (h : Nat) (f : HeadS → HeadS) : (s.modHead h f).live = s.live := rfl
@[simp] theorem State.modHead_staged (h : Nat) (f : HeadS → HeadS) : (s.modHead h f).staged = s.staged := rfl
@[simp] theorem State.modHead_arrays (h : Nat) (f : HeadS → HeadS) : (s.modHead h f).arrays = s.arrays := rfl
@[simp] theorem State.modHead_was (h : Nat) (f : HeadS → HeadS) : (s.modHead h f).was = s.was := rfl
@[simp] theorem State.modHead_cycle (h : Nat) (f : HeadS → HeadS) : (s.modHead h f).cycle = s.cycle := rfl
@[simp] theorem State.modHead_holding (h : Nat) (f : HeadS → HeadS) : (s.modHead h f).holding = s.holding := rfl
@[simp] theorem State.modHead_freeCtr (h : Nat) (f : HeadS → HeadS) : (s.modHead h f).freeCtr = s.freeCtr := rfl
@[simp] theorem State.modHead_out (h : Nat) (f : HeadS → HeadS) : (s.modHead h f).out = s.out := rfl
@[simp] theorem State.modHead_links (h : Nat) (f : HeadS → HeadS) : (s.modHead h f).links = s.links := rfl
@[simp] theorem State.modHead_cores (h : Nat) (f : HeadS → HeadS) : (s.modHead h f).cores = s.cores := rfl
@[simp] theorem State.modHead_woke (h : Nat) (f : HeadS → HeadS) : (s.modHead h f).woke = s.woke := rfl
@[simp] theorem State.modHead_records (h : Nat) (f : HeadS → HeadS) : (s.modHead h f).records = s.records := rfl
@[simp] theorem State.modHead_field (h : Nat) (f : HeadS → HeadS) : (s.modHead h f).field = s.field := rfl
@[simp] theorem State.modHead_dma (h : Nat) (f : HeadS → HeadS) : (s.modHead h f).dma = s.dma := rfl
@[simp] theorem State.modHead_blt (h : Nat) (f : HeadS → HeadS) : (s.modHead h f).blt = s.blt := rfl
@[simp] theorem State.modHead_bell (h : Nat) (f : HeadS → HeadS) : (s.modHead h f).bell = s.bell := rfl
@[simp] theorem State.modHead_pel (h : Nat) (f : HeadS → HeadS) : (s.modHead h f).pel = s.pel := rfl
@[simp] theorem State.modHead_eth (h : Nat) (f : HeadS → HeadS) : (s.modHead h f).eth = s.eth := rfl
@[simp] theorem State.modHead_hub (h : Nat) (f : HeadS → HeadS) : (s.modHead h f).hub = s.hub := rfl
@[simp] theorem State.modHead_fault (h : Nat) (f : HeadS → HeadS) : (s.modHead h f).fault = s.fault := rfl
@[simp] theorem State.modHead_gs (h : Nat) (f : HeadS → HeadS) : (s.modHead h f).gs = s.gs := rfl
@[simp] theorem State.modHead_tandem (h : Nat) (f : HeadS → HeadS) : (s.modHead h f).tandem = s.tandem := rfl
@[simp] theorem State.modHead_intc (h : Nat) (f : HeadS → HeadS) : (s.modHead h f).intc = s.intc := rfl
@[simp] theorem State.modHead_sec (h : Nat) (f : HeadS → HeadS) : (s.modHead h f).sec = s.sec := rfl
@[simp] theorem State.modHead_dbg (h : Nat) (f : HeadS → HeadS) : (s.modHead h f).dbg = s.dbg := rfl
@[simp] theorem State.modHead_clock (h : Nat) (f : HeadS → HeadS) : (s.modHead h f).clock = s.clock := rfl
@[simp] theorem State.modHead_ing (h : Nat) (f : HeadS → HeadS) : (s.modHead h f).ing = s.ing := rfl
@[simp] theorem State.modHead_der (h : Nat) (f : HeadS → HeadS) : (s.modHead h f).der = s.der := rfl
@[simp] theorem State.modHead_vtk (h : Nat) (f : HeadS → HeadS) : (s.modHead h f).vtk = s.vtk := rfl
@[simp] theorem State.modHead_sb (h : Nat) (f : HeadS → HeadS) : (s.modHead h f).sb = s.sb := rfl

@[simp] theorem State.setSess_pending (n : Nat) (v : VSession) : (s.setSess n v).pending = s.pending := rfl
@[simp] theorem State.setSess_now (n : Nat) (v : VSession) : (s.setSess n v).now = s.now := rfl
@[simp] theorem State.setSess_regs (n : Nat) (v : VSession) : (s.setSess n v).regs = s.regs := rfl
@[simp] theorem State.setSess_live (n : Nat) (v : VSession) : (s.setSess n v).live = s.live := rfl
@[simp] theorem State.setSess_staged (n : Nat) (v : VSession) : (s.setSess n v).staged = s.staged := rfl
@[simp] theorem State.setSess_arrays (n : Nat) (v : VSession) : (s.setSess n v).arrays = s.arrays := rfl
@[simp] theorem State.setSess_was (n : Nat) (v : VSession) : (s.setSess n v).was = s.was := rfl
@[simp] theorem State.setSess_cycle (n : Nat) (v : VSession) : (s.setSess n v).cycle = s.cycle := rfl
@[simp] theorem State.setSess_holding (n : Nat) (v : VSession) : (s.setSess n v).holding = s.holding := rfl
@[simp] theorem State.setSess_freeCtr (n : Nat) (v : VSession) : (s.setSess n v).freeCtr = s.freeCtr := rfl
@[simp] theorem State.setSess_out (n : Nat) (v : VSession) : (s.setSess n v).out = s.out := rfl
@[simp] theorem State.setSess_links (n : Nat) (v : VSession) : (s.setSess n v).links = s.links := rfl
@[simp] theorem State.setSess_cores (n : Nat) (v : VSession) : (s.setSess n v).cores = s.cores := rfl
@[simp] theorem State.setSess_woke (n : Nat) (v : VSession) : (s.setSess n v).woke = s.woke := rfl
@[simp] theorem State.setSess_heads (n : Nat) (v : VSession) : (s.setSess n v).heads = s.heads := rfl
@[simp] theorem State.setSess_records (n : Nat) (v : VSession) : (s.setSess n v).records = s.records := rfl
@[simp] theorem State.setSess_field (n : Nat) (v : VSession) : (s.setSess n v).field = s.field := rfl
@[simp] theorem State.setSess_dma (n : Nat) (v : VSession) : (s.setSess n v).dma = s.dma := rfl
@[simp] theorem State.setSess_blt (n : Nat) (v : VSession) : (s.setSess n v).blt = s.blt := rfl
@[simp] theorem State.setSess_bell (n : Nat) (v : VSession) : (s.setSess n v).bell = s.bell := rfl
@[simp] theorem State.setSess_pel (n : Nat) (v : VSession) : (s.setSess n v).pel = s.pel := rfl
@[simp] theorem State.setSess_eth (n : Nat) (v : VSession) : (s.setSess n v).eth = s.eth := rfl
@[simp] theorem State.setSess_hub (n : Nat) (v : VSession) : (s.setSess n v).hub = s.hub := rfl
@[simp] theorem State.setSess_fault (n : Nat) (v : VSession) : (s.setSess n v).fault = s.fault := rfl
@[simp] theorem State.setSess_gs (n : Nat) (v : VSession) : (s.setSess n v).gs = s.gs := rfl
@[simp] theorem State.setSess_tandem (n : Nat) (v : VSession) : (s.setSess n v).tandem = s.tandem := rfl
@[simp] theorem State.setSess_intc (n : Nat) (v : VSession) : (s.setSess n v).intc = s.intc := rfl
@[simp] theorem State.setSess_sec (n : Nat) (v : VSession) : (s.setSess n v).sec = s.sec := rfl
@[simp] theorem State.setSess_dbg (n : Nat) (v : VSession) : (s.setSess n v).dbg = s.dbg := rfl
@[simp] theorem State.setSess_clock (n : Nat) (v : VSession) : (s.setSess n v).clock = s.clock := rfl
@[simp] theorem State.setSess_ing (n : Nat) (v : VSession) : (s.setSess n v).ing = s.ing := rfl
@[simp] theorem State.setSess_der (n : Nat) (v : VSession) : (s.setSess n v).der = s.der := rfl
@[simp] theorem State.setSess_sb (n : Nat) (v : VSession) : (s.setSess n v).sb = s.sb := rfl

@[simp] theorem State.modSess_pending (n : Nat) (f : VSession → VSession) : (s.modSess n f).pending = s.pending := rfl
@[simp] theorem State.modSess_now (n : Nat) (f : VSession → VSession) : (s.modSess n f).now = s.now := rfl
@[simp] theorem State.modSess_regs (n : Nat) (f : VSession → VSession) : (s.modSess n f).regs = s.regs := rfl
@[simp] theorem State.modSess_live (n : Nat) (f : VSession → VSession) : (s.modSess n f).live = s.live := rfl
@[simp] theorem State.modSess_staged (n : Nat) (f : VSession → VSession) : (s.modSess n f).staged = s.staged := rfl
@[simp] theorem State.modSess_arrays (n : Nat) (f : VSession → VSession) : (s.modSess n f).arrays = s.arrays := rfl
@[simp] theorem State.modSess_was (n : Nat) (f : VSession → VSession) : (s.modSess n f).was = s.was := rfl
@[simp] theorem State.modSess_cycle (n : Nat) (f : VSession → VSession) : (s.modSess n f).cycle = s.cycle := rfl
@[simp] theorem State.modSess_holding (n : Nat) (f : VSession → VSession) : (s.modSess n f).holding = s.holding := rfl
@[simp] theorem State.modSess_freeCtr (n : Nat) (f : VSession → VSession) : (s.modSess n f).freeCtr = s.freeCtr := rfl
@[simp] theorem State.modSess_out (n : Nat) (f : VSession → VSession) : (s.modSess n f).out = s.out := rfl
@[simp] theorem State.modSess_links (n : Nat) (f : VSession → VSession) : (s.modSess n f).links = s.links := rfl
@[simp] theorem State.modSess_cores (n : Nat) (f : VSession → VSession) : (s.modSess n f).cores = s.cores := rfl
@[simp] theorem State.modSess_woke (n : Nat) (f : VSession → VSession) : (s.modSess n f).woke = s.woke := rfl
@[simp] theorem State.modSess_heads (n : Nat) (f : VSession → VSession) : (s.modSess n f).heads = s.heads := rfl
@[simp] theorem State.modSess_records (n : Nat) (f : VSession → VSession) : (s.modSess n f).records = s.records := rfl
@[simp] theorem State.modSess_field (n : Nat) (f : VSession → VSession) : (s.modSess n f).field = s.field := rfl
@[simp] theorem State.modSess_dma (n : Nat) (f : VSession → VSession) : (s.modSess n f).dma = s.dma := rfl
@[simp] theorem State.modSess_blt (n : Nat) (f : VSession → VSession) : (s.modSess n f).blt = s.blt := rfl
@[simp] theorem State.modSess_bell (n : Nat) (f : VSession → VSession) : (s.modSess n f).bell = s.bell := rfl
@[simp] theorem State.modSess_pel (n : Nat) (f : VSession → VSession) : (s.modSess n f).pel = s.pel := rfl
@[simp] theorem State.modSess_eth (n : Nat) (f : VSession → VSession) : (s.modSess n f).eth = s.eth := rfl
@[simp] theorem State.modSess_hub (n : Nat) (f : VSession → VSession) : (s.modSess n f).hub = s.hub := rfl
@[simp] theorem State.modSess_fault (n : Nat) (f : VSession → VSession) : (s.modSess n f).fault = s.fault := rfl
@[simp] theorem State.modSess_gs (n : Nat) (f : VSession → VSession) : (s.modSess n f).gs = s.gs := rfl
@[simp] theorem State.modSess_tandem (n : Nat) (f : VSession → VSession) : (s.modSess n f).tandem = s.tandem := rfl
@[simp] theorem State.modSess_intc (n : Nat) (f : VSession → VSession) : (s.modSess n f).intc = s.intc := rfl
@[simp] theorem State.modSess_sec (n : Nat) (f : VSession → VSession) : (s.modSess n f).sec = s.sec := rfl
@[simp] theorem State.modSess_dbg (n : Nat) (f : VSession → VSession) : (s.modSess n f).dbg = s.dbg := rfl
@[simp] theorem State.modSess_clock (n : Nat) (f : VSession → VSession) : (s.modSess n f).clock = s.clock := rfl
@[simp] theorem State.modSess_ing (n : Nat) (f : VSession → VSession) : (s.modSess n f).ing = s.ing := rfl
@[simp] theorem State.modSess_der (n : Nat) (f : VSession → VSession) : (s.modSess n f).der = s.der := rfl
@[simp] theorem State.modSess_sb (n : Nat) (f : VSession → VSession) : (s.modSess n f).sb = s.sb := rfl

@[simp] theorem State.at_now (t : Nat) : (s.at t).now = max s.now t := by
  unfold State.at; split
  · exact (Nat.max_eq_right (Nat.le_of_lt ‹_›)).symm
  · exact (Nat.max_eq_left (Nat.le_of_not_lt ‹_›)).symm
/-- A moment that has come changes nothing; a later one keeps the words as they stand before it. -/
theorem State.at_of_le {t : Nat} (h : t ≤ s.now) : s.at t = s := if_neg (Nat.not_lt.mpr h)
theorem State.before_at_of_lt {t : Nat} (h : s.now < t) (a : Nat) : (s.at t).before.reg a = s.reg a := by
  unfold State.at; rw [if_pos h]; rfl
@[simp] theorem State.emit_out (o : Output) : (s.emit o).out = o :: s.out := rfl
@[simp] theorem State.setMemByte_flips (off : Nat) (b : Byte) : (s.setMemByte off b).hub.flips = s.hub.flips := rfl
@[simp] theorem State.setFlips_mem (wi : Nat) (f : BitVec 72) : (s.setFlips wi f).hub.mem = s.hub.mem := rfl

/-! Register words and fields. -/

@[simp] theorem State.reg_setReg_same (a : Nat) (w : Word) : (s.setReg a w).reg a = w := mget_mset_same
theorem State.reg_setReg_other {a b : Nat} (w : Word) (h : b ≠ a) : (s.setReg a w).reg b = s.reg b := mget_mset_other h
theorem State.reg_setReg (a b : Nat) (w : Word) : (s.setReg a w).reg b = if b = a then w else s.reg b := mget_mset
theorem State.reg_wr (f : Fld) (v b : Nat) :
    (s.wr f v).reg b = if b = f.reg then setBits (s.reg b) f.hi f.lo v else s.reg b := by
  rw [State.wr, State.reg_setReg]; split
  · subst b; rfl
  · rfl

/-- A field written reads as its value, cut to its width. -/
theorem State.rd_wr_same (f : Fld) (v : Nat) (h : f.hi < 32) : (s.wr f v).rd f = v % 2 ^ (f.hi + 1 - f.lo) := by
  rw [State.rd, State.reg_wr, if_pos rfl, getBits_setBits _ h]

/-- A field of another register reads as before. -/
theorem State.rd_wr_other (f g : Fld) (v : Nat) (h : g.reg ≠ f.reg) : (s.wr f v).rd g = s.rd g := by
  rw [State.rd, State.reg_wr, if_neg h, State.rd]

/-- Another field of the same register reads as before. -/
theorem State.rd_wr_apart (f g : Fld) (v : Nat) (h : g.hi < 32) (a : f.hi < g.lo ∨ g.hi < f.lo) : (s.wr f v).rd g = s.rd g := by
  rw [State.rd, State.rd, State.reg_wr]
  split
  · exact getBits_setBits_apart _ h a
  · rfl

theorem State.rd_set1_same (f : Fld) (h : f.hi < 32) (k : f.hi = f.lo) : (s.set1 f).rd f = 1 := by
  rw [State.set1, State.rd_wr_same _ _ _ h, k]; simp

theorem State.on_set1_same (f : Fld) (h : f.hi < 32) (k : f.hi = f.lo) : (s.set1 f).on f = true := by
  rw [State.on, State.rd_set1_same _ _ h k]; rfl

theorem State.rd_lt (f : Fld) : s.rd f < 2 ^ (f.hi + 1 - f.lo) := getBits_lt _ _ _

/-- States with the same register words read the same in every field. -/
theorem State.rd_congr {s u : State} (h : u.regs = s.regs) (f : Fld) : u.rd f = s.rd f := by
  simp only [State.rd, State.reg, h]
theorem State.reg_congr {s u : State} (h : u.regs = s.regs) (a : Nat) : u.reg a = s.reg a := by
  simp only [State.reg, h]

@[simp] theorem State.rd_setLive (a : Nat) (w : Word) (g : Fld) : (s.setLive a w).rd g = s.rd g := rfl
@[simp] theorem State.on_setLive (a : Nat) (w : Word) (g : Fld) : (s.setLive a w).on g = s.on g := rfl
@[simp] theorem State.reg_setLive (a : Nat) (w : Word) (r : Nat) : (s.setLive a w).reg r = s.reg r := rfl
@[simp] theorem State.rd_setArr (a : Nat) (w : Word) (g : Fld) : (s.setArr a w).rd g = s.rd g := rfl
@[simp] theorem State.on_setArr (a : Nat) (w : Word) (g : Fld) : (s.setArr a w).on g = s.on g := rfl
@[simp] theorem State.reg_setArr (a : Nat) (w : Word) (r : Nat) : (s.setArr a w).reg r = s.reg r := rfl
@[simp] theorem State.rd_emit (o : Output) (g : Fld) : (s.emit o).rd g = s.rd g := rfl
@[simp] theorem State.on_emit (o : Output) (g : Fld) : (s.emit o).on g = s.on g := rfl
@[simp] theorem State.reg_emit (o : Output) (r : Nat) : (s.emit o).reg r = s.reg r := rfl
@[simp] theorem State.rd_at (t : Nat) (g : Fld) : (s.at t).rd g = s.rd g := by unfold State.at; split <;> rfl
@[simp] theorem State.on_at (t : Nat) (g : Fld) : (s.at t).on g = s.on g := by unfold State.at; split <;> rfl
@[simp] theorem State.reg_at (t : Nat) (r : Nat) : (s.at t).reg r = s.reg r := by unfold State.at; split <;> rfl
@[simp] theorem State.rd_setMemByte (off : Nat) (b : Byte) (g : Fld) : (s.setMemByte off b).rd g = s.rd g := rfl
@[simp] theorem State.on_setMemByte (off : Nat) (b : Byte) (g : Fld) : (s.setMemByte off b).on g = s.on g := rfl
@[simp] theorem State.reg_setMemByte (off : Nat) (b : Byte) (r : Nat) : (s.setMemByte off b).reg r = s.reg r := rfl
@[simp] theorem State.rd_setFlips (wi : Nat) (f : BitVec 72) (g : Fld) : (s.setFlips wi f).rd g = s.rd g := rfl
@[simp] theorem State.on_setFlips (wi : Nat) (f : BitVec 72) (g : Fld) : (s.setFlips wi f).on g = s.on g := rfl
@[simp] theorem State.reg_setFlips (wi : Nat) (f : BitVec 72) (r : Nat) : (s.setFlips wi f).reg r = s.reg r := rfl
@[simp] theorem State.rd_setCore (k : Nat) (c : CoreS) (g : Fld) : (s.setCore k c).rd g = s.rd g := rfl
@[simp] theorem State.on_setCore (k : Nat) (c : CoreS) (g : Fld) : (s.setCore k c).on g = s.on g := rfl
@[simp] theorem State.reg_setCore (k : Nat) (c : CoreS) (r : Nat) : (s.setCore k c).reg r = s.reg r := rfl
@[simp] theorem State.rd_modCore (k : Nat) (f : CoreS → CoreS) (g : Fld) : (s.modCore k f).rd g = s.rd g := rfl
@[simp] theorem State.on_modCore (k : Nat) (f : CoreS → CoreS) (g : Fld) : (s.modCore k f).on g = s.on g := rfl
@[simp] theorem State.reg_modCore (k : Nat) (f : CoreS → CoreS) (r : Nat) : (s.modCore k f).reg r = s.reg r := rfl
@[simp] theorem State.rd_setHead (h : Nat) (x : HeadS) (g : Fld) : (s.setHead h x).rd g = s.rd g := rfl
@[simp] theorem State.on_setHead (h : Nat) (x : HeadS) (g : Fld) : (s.setHead h x).on g = s.on g := rfl
@[simp] theorem State.reg_setHead (h : Nat) (x : HeadS) (r : Nat) : (s.setHead h x).reg r = s.reg r := rfl
@[simp] theorem State.rd_modHead (h : Nat) (f : HeadS → HeadS) (g : Fld) : (s.modHead h f).rd g = s.rd g := rfl
@[simp] theorem State.on_modHead (h : Nat) (f : HeadS → HeadS) (g : Fld) : (s.modHead h f).on g = s.on g := rfl
@[simp] theorem State.reg_modHead (h : Nat) (f : HeadS → HeadS) (r : Nat) : (s.modHead h f).reg r = s.reg r := rfl
@[simp] theorem State.rd_setSess (n : Nat) (v : VSession) (g : Fld) : (s.setSess n v).rd g = s.rd g := rfl
@[simp] theorem State.on_setSess (n : Nat) (v : VSession) (g : Fld) : (s.setSess n v).on g = s.on g := rfl
@[simp] theorem State.reg_setSess (n : Nat) (v : VSession) (r : Nat) : (s.setSess n v).reg r = s.reg r := rfl
@[simp] theorem State.rd_modSess (n : Nat) (f : VSession → VSession) (g : Fld) : (s.modSess n f).rd g = s.rd g := rfl
@[simp] theorem State.on_modSess (n : Nat) (f : VSession → VSession) (g : Fld) : (s.modSess n f).on g = s.on g := rfl
@[simp] theorem State.reg_modSess (n : Nat) (f : VSession → VSession) (r : Nat) : (s.modSess n f).reg r = s.reg r := rfl
@[simp] theorem State.core_setReg (a : Nat) (w : Word) (j : Nat) : (s.setReg a w).core j = s.core j := rfl
@[simp] theorem State.head_setReg (a : Nat) (w : Word) (j : Nat) : (s.setReg a w).head j = s.head j := rfl
@[simp] theorem State.sess_setReg (a : Nat) (w : Word) (j : Nat) : (s.setReg a w).sess j = s.sess j := rfl
@[simp] theorem State.memByte_setReg (a : Nat) (w : Word) (j : Nat) : (s.setReg a w).memByte j = s.memByte j := rfl
@[simp] theorem State.arr_setReg (a : Nat) (w : Word) (j : Nat) : (s.setReg a w).arr j = s.arr j := rfl
@[simp] theorem State.liveReg_setReg (a : Nat) (w : Word) (j : Nat) : (s.setReg a w).liveReg j = s.liveReg j := rfl
@[simp] theorem State.core_wr (f : Fld) (v : Nat) (j : Nat) : (s.wr f v).core j = s.core j := rfl
@[simp] theorem State.head_wr (f : Fld) (v : Nat) (j : Nat) : (s.wr f v).head j = s.head j := rfl
@[simp] theorem State.sess_wr (f : Fld) (v : Nat) (j : Nat) : (s.wr f v).sess j = s.sess j := rfl
@[simp] theorem State.memByte_wr (f : Fld) (v : Nat) (j : Nat) : (s.wr f v).memByte j = s.memByte j := rfl
@[simp] theorem State.arr_wr (f : Fld) (v : Nat) (j : Nat) : (s.wr f v).arr j = s.arr j := rfl
@[simp] theorem State.liveReg_wr (f : Fld) (v : Nat) (j : Nat) : (s.wr f v).liveReg j = s.liveReg j := rfl
@[simp] theorem State.core_set1 (f : Fld) (j : Nat) : (s.set1 f).core j = s.core j := rfl
@[simp] theorem State.head_set1 (f : Fld) (j : Nat) : (s.set1 f).head j = s.head j := rfl
@[simp] theorem State.sess_set1 (f : Fld) (j : Nat) : (s.set1 f).sess j = s.sess j := rfl
@[simp] theorem State.memByte_set1 (f : Fld) (j : Nat) : (s.set1 f).memByte j = s.memByte j := rfl
@[simp] theorem State.arr_set1 (f : Fld) (j : Nat) : (s.set1 f).arr j = s.arr j := rfl
@[simp] theorem State.liveReg_set1 (f : Fld) (j : Nat) : (s.set1 f).liveReg j = s.liveReg j := rfl
@[simp] theorem State.core_satInc (f : Fld) (n : Nat) (j : Nat) : (s.satInc f n).core j = s.core j := rfl
@[simp] theorem State.head_satInc (f : Fld) (n : Nat) (j : Nat) : (s.satInc f n).head j = s.head j := rfl
@[simp] theorem State.sess_satInc (f : Fld) (n : Nat) (j : Nat) : (s.satInc f n).sess j = s.sess j := rfl
@[simp] theorem State.memByte_satInc (f : Fld) (n : Nat) (j : Nat) : (s.satInc f n).memByte j = s.memByte j := rfl
@[simp] theorem State.arr_satInc (f : Fld) (n : Nat) (j : Nat) : (s.satInc f n).arr j = s.arr j := rfl
@[simp] theorem State.liveReg_satInc (f : Fld) (n : Nat) (j : Nat) : (s.satInc f n).liveReg j = s.liveReg j := rfl
@[simp] theorem State.core_wrapInc (f : Fld) (n : Nat) (j : Nat) : (s.wrapInc f n).core j = s.core j := rfl
@[simp] theorem State.head_wrapInc (f : Fld) (n : Nat) (j : Nat) : (s.wrapInc f n).head j = s.head j := rfl
@[simp] theorem State.sess_wrapInc (f : Fld) (n : Nat) (j : Nat) : (s.wrapInc f n).sess j = s.sess j := rfl
@[simp] theorem State.memByte_wrapInc (f : Fld) (n : Nat) (j : Nat) : (s.wrapInc f n).memByte j = s.memByte j := rfl
@[simp] theorem State.arr_wrapInc (f : Fld) (n : Nat) (j : Nat) : (s.wrapInc f n).arr j = s.arr j := rfl
@[simp] theorem State.liveReg_wrapInc (f : Fld) (n : Nat) (j : Nat) : (s.wrapInc f n).liveReg j = s.liveReg j := rfl
@[simp] theorem State.core_wr64 (a v : Nat) (j : Nat) : (s.wr64 a v).core j = s.core j := rfl
@[simp] theorem State.head_wr64 (a v : Nat) (j : Nat) : (s.wr64 a v).head j = s.head j := rfl
@[simp] theorem State.sess_wr64 (a v : Nat) (j : Nat) : (s.wr64 a v).sess j = s.sess j := rfl
@[simp] theorem State.memByte_wr64 (a v : Nat) (j : Nat) : (s.wr64 a v).memByte j = s.memByte j := rfl
@[simp] theorem State.arr_wr64 (a v : Nat) (j : Nat) : (s.wr64 a v).arr j = s.arr j := rfl
@[simp] theorem State.liveReg_wr64 (a v : Nat) (j : Nat) : (s.wr64 a v).liveReg j = s.liveReg j := rfl
@[simp] theorem State.core_setLive (a : Nat) (w : Word) (j : Nat) : (s.setLive a w).core j = s.core j := rfl
@[simp] theorem State.head_setLive (a : Nat) (w : Word) (j : Nat) : (s.setLive a w).head j = s.head j := rfl
@[simp] theorem State.sess_setLive (a : Nat) (w : Word) (j : Nat) : (s.setLive a w).sess j = s.sess j := rfl
@[simp] theorem State.memByte_setLive (a : Nat) (w : Word) (j : Nat) : (s.setLive a w).memByte j = s.memByte j := rfl
@[simp] theorem State.arr_setLive (a : Nat) (w : Word) (j : Nat) : (s.setLive a w).arr j = s.arr j := rfl
@[simp] theorem State.core_setArr (a : Nat) (w : Word) (j : Nat) : (s.setArr a w).core j = s.core j := rfl
@[simp] theorem State.head_setArr (a : Nat) (w : Word) (j : Nat) : (s.setArr a w).head j = s.head j := rfl
@[simp] theorem State.sess_setArr (a : Nat) (w : Word) (j : Nat) : (s.setArr a w).sess j = s.sess j := rfl
@[simp] theorem State.memByte_setArr (a : Nat) (w : Word) (j : Nat) : (s.setArr a w).memByte j = s.memByte j := rfl
@[simp] theorem State.liveReg_setArr (a : Nat) (w : Word) (j : Nat) : (s.setArr a w).liveReg j = s.liveReg j := rfl
@[simp] theorem State.core_emit (o : Output) (j : Nat) : (s.emit o).core j = s.core j := rfl
@[simp] theorem State.head_emit (o : Output) (j : Nat) : (s.emit o).head j = s.head j := rfl
@[simp] theorem State.sess_emit (o : Output) (j : Nat) : (s.emit o).sess j = s.sess j := rfl
@[simp] theorem State.memByte_emit (o : Output) (j : Nat) : (s.emit o).memByte j = s.memByte j := rfl
@[simp] theorem State.arr_emit (o : Output) (j : Nat) : (s.emit o).arr j = s.arr j := rfl
@[simp] theorem State.liveReg_emit (o : Output) (j : Nat) : (s.emit o).liveReg j = s.liveReg j := rfl
@[simp] theorem State.core_at (t : Nat) (j : Nat) : (s.at t).core j = s.core j := by unfold State.at; split <;> rfl
@[simp] theorem State.head_at (t : Nat) (j : Nat) : (s.at t).head j = s.head j := by unfold State.at; split <;> rfl
@[simp] theorem State.sess_at (t : Nat) (j : Nat) : (s.at t).sess j = s.sess j := by unfold State.at; split <;> rfl
@[simp] theorem State.memByte_at (t : Nat) (j : Nat) : (s.at t).memByte j = s.memByte j := by unfold State.at; split <;> rfl
@[simp] theorem State.arr_at (t : Nat) (j : Nat) : (s.at t).arr j = s.arr j := by unfold State.at; split <;> rfl
@[simp] theorem State.liveReg_at (t : Nat) (j : Nat) : (s.at t).liveReg j = s.liveReg j := by unfold State.at; split <;> rfl
@[simp] theorem State.core_setMemByte (off : Nat) (b : Byte) (j : Nat) : (s.setMemByte off b).core j = s.core j := rfl
@[simp] theorem State.head_setMemByte (off : Nat) (b : Byte) (j : Nat) : (s.setMemByte off b).head j = s.head j := rfl
@[simp] theorem State.sess_setMemByte (off : Nat) (b : Byte) (j : Nat) : (s.setMemByte off b).sess j = s.sess j := rfl
@[simp] theorem State.arr_setMemByte (off : Nat) (b : Byte) (j : Nat) : (s.setMemByte off b).arr j = s.arr j := rfl
@[simp] theorem State.liveReg_setMemByte (off : Nat) (b : Byte) (j : Nat) : (s.setMemByte off b).liveReg j = s.liveReg j := rfl
@[simp] theorem State.core_setFlips (wi : Nat) (f : BitVec 72) (j : Nat) : (s.setFlips wi f).core j = s.core j := rfl
@[simp] theorem State.head_setFlips (wi : Nat) (f : BitVec 72) (j : Nat) : (s.setFlips wi f).head j = s.head j := rfl
@[simp] theorem State.sess_setFlips (wi : Nat) (f : BitVec 72) (j : Nat) : (s.setFlips wi f).sess j = s.sess j := rfl
@[simp] theorem State.memByte_setFlips (wi : Nat) (f : BitVec 72) (j : Nat) : (s.setFlips wi f).memByte j = s.memByte j := rfl
@[simp] theorem State.arr_setFlips (wi : Nat) (f : BitVec 72) (j : Nat) : (s.setFlips wi f).arr j = s.arr j := rfl
@[simp] theorem State.liveReg_setFlips (wi : Nat) (f : BitVec 72) (j : Nat) : (s.setFlips wi f).liveReg j = s.liveReg j := rfl
@[simp] theorem State.head_setCore (k : Nat) (c : CoreS) (j : Nat) : (s.setCore k c).head j = s.head j := rfl
@[simp] theorem State.sess_setCore (k : Nat) (c : CoreS) (j : Nat) : (s.setCore k c).sess j = s.sess j := rfl
@[simp] theorem State.memByte_setCore (k : Nat) (c : CoreS) (j : Nat) : (s.setCore k c).memByte j = s.memByte j := rfl
@[simp] theorem State.arr_setCore (k : Nat) (c : CoreS) (j : Nat) : (s.setCore k c).arr j = s.arr j := rfl
@[simp] theorem State.liveReg_setCore (k : Nat) (c : CoreS) (j : Nat) : (s.setCore k c).liveReg j = s.liveReg j := rfl
@[simp] theorem State.head_modCore (k : Nat) (f : CoreS → CoreS) (j : Nat) : (s.modCore k f).head j = s.head j := rfl
@[simp] theorem State.sess_modCore (k : Nat) (f : CoreS → CoreS) (j : Nat) : (s.modCore k f).sess j = s.sess j := rfl
@[simp] theorem State.memByte_modCore (k : Nat) (f : CoreS → CoreS) (j : Nat) : (s.modCore k f).memByte j = s.memByte j := rfl
@[simp] theorem State.arr_modCore (k : Nat) (f : CoreS → CoreS) (j : Nat) : (s.modCore k f).arr j = s.arr j := rfl
@[simp] theorem State.liveReg_modCore (k : Nat) (f : CoreS → CoreS) (j : Nat) : (s.modCore k f).liveReg j = s.liveReg j := rfl
@[simp] theorem State.core_setHead (h : Nat) (x : HeadS) (j : Nat) : (s.setHead h x).core j = s.core j := rfl
@[simp] theorem State.sess_setHead (h : Nat) (x : HeadS) (j : Nat) : (s.setHead h x).sess j = s.sess j := rfl
@[simp] theorem State.memByte_setHead (h : Nat) (x : HeadS) (j : Nat) : (s.setHead h x).memByte j = s.memByte j := rfl
@[simp] theorem State.arr_setHead (h : Nat) (x : HeadS) (j : Nat) : (s.setHead h x).arr j = s.arr j := rfl
@[simp] theorem State.liveReg_setHead (h : Nat) (x : HeadS) (j : Nat) : (s.setHead h x).liveReg j = s.liveReg j := rfl
@[simp] theorem State.core_modHead (h : Nat) (f : HeadS → HeadS) (j : Nat) : (s.modHead h f).core j = s.core j := rfl
@[simp] theorem State.sess_modHead (h : Nat) (f : HeadS → HeadS) (j : Nat) : (s.modHead h f).sess j = s.sess j := rfl
@[simp] theorem State.memByte_modHead (h : Nat) (f : HeadS → HeadS) (j : Nat) : (s.modHead h f).memByte j = s.memByte j := rfl
@[simp] theorem State.arr_modHead (h : Nat) (f : HeadS → HeadS) (j : Nat) : (s.modHead h f).arr j = s.arr j := rfl
@[simp] theorem State.liveReg_modHead (h : Nat) (f : HeadS → HeadS) (j : Nat) : (s.modHead h f).liveReg j = s.liveReg j := rfl
@[simp] theorem State.core_setSess (n : Nat) (v : VSession) (j : Nat) : (s.setSess n v).core j = s.core j := rfl
@[simp] theorem State.head_setSess (n : Nat) (v : VSession) (j : Nat) : (s.setSess n v).head j = s.head j := rfl
@[simp] theorem State.memByte_setSess (n : Nat) (v : VSession) (j : Nat) : (s.setSess n v).memByte j = s.memByte j := rfl
@[simp] theorem State.arr_setSess (n : Nat) (v : VSession) (j : Nat) : (s.setSess n v).arr j = s.arr j := rfl
@[simp] theorem State.liveReg_setSess (n : Nat) (v : VSession) (j : Nat) : (s.setSess n v).liveReg j = s.liveReg j := rfl
@[simp] theorem State.core_modSess (n : Nat) (f : VSession → VSession) (j : Nat) : (s.modSess n f).core j = s.core j := rfl
@[simp] theorem State.head_modSess (n : Nat) (f : VSession → VSession) (j : Nat) : (s.modSess n f).head j = s.head j := rfl
@[simp] theorem State.memByte_modSess (n : Nat) (f : VSession → VSession) (j : Nat) : (s.modSess n f).memByte j = s.memByte j := rfl
@[simp] theorem State.arr_modSess (n : Nat) (f : VSession → VSession) (j : Nat) : (s.modSess n f).arr j = s.arr j := rfl
@[simp] theorem State.liveReg_modSess (n : Nat) (f : VSession → VSession) (j : Nat) : (s.modSess n f).liveReg j = s.liveReg j := rfl

@[simp] theorem State.liveReg_setLive_same (a : Nat) (w : Word) : (s.setLive a w).liveReg a = w := mget_mset_same
theorem State.liveReg_setLive_other {a b : Nat} (w : Word) (h : b ≠ a) : (s.setLive a w).liveReg b = s.liveReg b := mget_mset_other h
@[simp] theorem State.arr_setArr_same (a : Nat) (w : Word) : (s.setArr a w).arr a = w := mget_mset_same
theorem State.arr_setArr_other {a b : Nat} (w : Word) (h : b ≠ a) : (s.setArr a w).arr b = s.arr b := mget_mset_other h

/-! Cores, heads, sessions. -/

@[simp] theorem State.core_setCore_same (k : Nat) (c : CoreS) : (s.setCore k c).core k = c := mget_mset_same
@[simp] theorem State.core_modCore_same (k : Nat) (f : CoreS → CoreS) : (s.modCore k f).core k = f (s.core k) := mget_mset_same
theorem State.core_modCore_other {k j : Nat} (f : CoreS → CoreS) (h : j ≠ k) : (s.modCore k f).core j = s.core j := mget_mset_other h
@[simp] theorem State.head_setHead_same (h : Nat) (x : HeadS) : (s.setHead h x).head h = x := mget_mset_same
@[simp] theorem State.head_modHead_same (h : Nat) (f : HeadS → HeadS) : (s.modHead h f).head h = f (s.head h) := mget_mset_same
theorem State.head_modHead_other {h j : Nat} (f : HeadS → HeadS) (n : j ≠ h) : (s.modHead h f).head j = s.head j := mget_mset_other n
@[simp] theorem State.sess_setSess_same (n : Nat) (v : VSession) : (s.setSess n v).sess n = v := mget_mset_same
@[simp] theorem State.sess_modSess_same (n : Nat) (f : VSession → VSession) : (s.modSess n f).sess n = f (s.sess n) := mget_mset_same
theorem State.sess_modSess_other {n j : Nat} (f : VSession → VSession) (h : j ≠ n) : (s.modSess n f).sess j = s.sess j := mget_mset_other h

/-! Bytes of scene memory. -/

@[simp] theorem State.memByte_setMemByte_same (off : Nat) (b : Byte) : (s.setMemByte off b).memByte off = b := mget_mset_same
theorem State.memByte_setMemByte_other {off a : Nat} (b : Byte) (h : a ≠ off) : (s.setMemByte off b).memByte a = s.memByte a :=
  mget_mset_other h

/-- Outside the bytes stored every byte reads as before. -/
theorem State.memByte_setMemBytes_other {s : State} {off a : Nat} {bs : List Byte} (h : a < off ∨ off + bs.length ≤ a) :
    (s.setMemBytes off bs).memByte a = s.memByte a := by
  induction bs generalizing s off with
  | nil => rfl
  | cons b bs ih =>
    simp only [List.length_cons] at h
    rw [State.setMemBytes, ih (by omega), State.memByte_setMemByte_other _ _ (by omega)]

end Sys2Proof.Machine
end

