-- ==== Sys2Proof/Laws/Crank.lean ====
section
/-! SUPPORT. The issue of an instruction: what a core's step does to the machine, once for every body. -/

namespace Sys2Proof.Machine

variable {s : State} {k op v : Nat} {load : Bool}

theorem State.compHalt_none {p : Comparator → Bool} {first reason : Nat}
    (h : ∀ i, i < 4 → p (s.comp k (first + i)) = false) : s.compHalt k first reason p = s := by
  unfold State.compHalt
  have : (List.range 4).filter (fun i => p (s.comp k (first + i))) = [] := by
    rw [List.filter_eq_nil_iff]
    intro i hi
    rw [List.mem_range] at hi
    simp [h i hi]
  rw [this]

/-- An instruction that a core carries out runs its effect. -/
theorem State.issue_of_issues {body : Body} (h : s.Issues k op v load) : s.issue k (some op) v load body = s.runBody k body := by
  obtain ⟨hc, hm, he⟩ := h
  have hr : s.runOne k (some op) v load body = s.runBody k body := by simp only [State.runOne, he]
  unfold State.issue
  rw [hc]
  simp only [Bool.not_true, Bool.false_eq_true, if_false]
  split
  · rename_i hb
    rcases hm with hm | ⟨-, hm⟩
    · simp [hm, hr]
    · simp [hm, hr]
  · rename_i hb
    rcases hm with hm | ⟨ha, -⟩
    · rw [State.compHalt_none]
      · exact hr
      · intro i hi
        simp only [State.pcMatch, List.any_eq_false, List.mem_range] at hm
        simpa [Nat.zero_add] using hm i hi
    · exact absurd ha hb

theorem OnlyCore.refl (s : State) (k : Nat) : OnlyCore s s k := ⟨fun _ _ => rfl, rfl⟩

theorem OnlyCore.modCore (s : State) (k : Nat) (f : CoreS → CoreS) : OnlyCore s (s.modCore k f) k :=
  ⟨fun _ h => State.core_modCore_other s f h, rfl⟩

theorem OnlyCore.trans {s u w : State} (h : OnlyCore s u k) (g : OnlyCore u w k) : OnlyCore s w k := by
  refine ⟨fun j n => (g.1 j n).trans (h.1 j n), ?_⟩
  have e := g.2
  have f := h.2
  rw [← f, ← e]

/-- The load before an instruction lands, and nothing else changes. -/
theorem landed_core (s : State) (k : Nat) (p : Option (LoadDest × Word)) :
    ((match p with | some p => s.modCore k (·.land p) | none => s).core k) = (s.core k).landed p := by
  cases p <;> simp [CoreS.landed]

theorem landed_only (s : State) (k : Nat) (p : Option (LoadDest × Word)) :
    OnlyCore s (match p with | some p => s.modCore k (·.land p) | none => s) k := by
  cases p
  · exact OnlyCore.refl _ _
  · exact OnlyCore.modCore _ _ _

/-- What an instruction without a trap leaves. -/
theorem State.runBody_core {body : Body} {s' : State} (h : body (s.modCore k CoreS.next) = (s', none)) :
    (s.runBody k body).core k = (s'.core k).landed (s.core k).load ∧ OnlyCore s' (s.runBody k body) k := by
  have e : s.runBody k body = match (s.core k).load with | some p => s'.modCore k (·.land p) | none => s' := by
    unfold State.runBody
    change (match (body (s.modCore k CoreS.next)).2 with | some t => _ | none => _) = _
    simp only [h]
    rw [show (body (s.modCore k fun c => { c with pc := c.pc + 4#32, load := none, resumed := false })) = (s', none) from h] <;> rfl
  rw [e]
  exact ⟨landed_core _ _ _, landed_only _ _ _⟩

/-- An instruction that only changes its core. -/
theorem coreDoes_onCore {t : Nat} {f : CoreS → CoreS} (h : (s.at t).Issues k op v load) :
    CoreDoes (s.at t) k (crank t k op v load (onCore k f) s) f := by
  refine ⟨_, rfl, ?_⟩
  rw [State.issue_of_issues h]
  have r := State.runBody_core (s := s.at t) (k := k) (body := onCore k f) rfl
  refine ⟨?_, ?_⟩
  · rw [r.1]; simp
  · exact ((OnlyCore.modCore _ _ _).trans (OnlyCore.modCore _ _ _)).trans r.2

/-- An instruction that reads M and then changes its core. -/
theorem operandDoes_withOperand {t : Nat} {m : CMode} {f : Word → CoreS → CoreS} (h : (s.at t).Issues k op v load) :
    OperandDoes (s.at t) k m v (crank t k op v load (withOperand k m v f) s) f := by
  intro w s' ho
  refine ⟨_, rfl, ?_⟩
  rw [State.issue_of_issues h]
  have r := State.runBody_core (s := s.at t) (k := k) (body := withOperand k m v f) (s' := s'.modCore k (f w)) (by
    simp only [withOperand, ho])
  refine ⟨?_, ?_⟩
  · rw [r.1]; simp
  · exact (OnlyCore.modCore _ _ _).trans r.2

end Sys2Proof.Machine
end

