-- ==== Sys2Proof/Laws/Keeps.lean ====
section
/-! SUPPORT. What every command keeps, as a relation between two states: the queue, the canonical form of scene memory, and the bits of
the OTP that are programmed once. One lemma per function of the model follows in the files Keeps*. -/

namespace Sys2Proof.Machine

/-- What no command may lose from `a` to `b`. -/
structure Keeps (a b : State) : Prop where
  pending : b.pending = a.pending
  mem : Memory.wf a.hub.mem = true → Memory.wf b.hub.mem = true
  seed : b.sec.seed = a.sec.seed
  factory : b.sec.factory = a.sec.factory
  begun : ∀ i, bit a.sec.begun i = true → bit b.sec.begun i = true
  retired : ∀ i, bit a.sec.retired i = true → bit b.sec.retired i = true
  lock : a.sec.lock = true → b.sec.lock = true
  rollback : a.sec.rollback ≤ b.sec.rollback

/-- The next state of an answer keeps what it must. -/
def KeepsR (a : State) : Result → Prop
  | .next b => Keeps a b
  | _ => True

/-- An effect of an instruction keeps what it must. -/
abbrev Kept {β : Type} (f : State → State × β) : Prop := ∀ z s : State, Keeps z s → Keeps z (f s).1

theorem KeepsR.of_next {a b : State} (h : Keeps a b) : KeepsR a (.next b) := h

theorem Keeps.refl (a : State) : Keeps a a := ⟨rfl, id, rfl, rfl, fun _ => id, fun _ => id, id, Nat.le_refl _⟩

theorem Keeps.trans {a b c : State} (h : Keeps a b) (k : Keeps b c) : Keeps a c :=
  ⟨k.pending.trans h.pending, k.mem ∘ h.mem, k.seed.trans h.seed, k.factory.trans h.factory, fun i => k.begun i ∘ h.begun i,
    fun i => k.retired i ∘ h.retired i, k.lock ∘ h.lock, Nat.le_trans h.rollback k.rollback⟩

/-- A state that agrees with one in all the relation looks at. -/
theorem Keeps.of_eq {z a b : State} (h : Keeps z a) (hp : b.pending = a.pending) (hm : b.hub.mem = a.hub.mem)
    (hs : b.sec.seed = a.sec.seed) (hf : b.sec.factory = a.sec.factory) (hb : b.sec.begun = a.sec.begun)
    (hr : b.sec.retired = a.sec.retired) (hl : b.sec.lock = a.sec.lock) (hk : b.sec.rollback = a.sec.rollback) : Keeps z b :=
  h.trans ⟨hp, by rw [hm]; exact id, hs, hf, by rw [hb]; exact fun _ => id, by rw [hr]; exact fun _ => id, by rw [hl]; exact id,
    Nat.le_of_eq hk.symm⟩

/-- A state written out from another, with the fields that the relation looks at as they were. -/
theorem Keeps.of_mk {z a : State} {hflips hregions hsched hwriteBacks hrereads hhard hcopying hfilled hspares hscrubs
    hused hgranted cgens cwasValid cinForce cnewGeneration cjob cgenReply ccalA ccalB ccalPending ccalInForce cbootLeft cbooting
    cbootStart cbooted cbootForever cnetStart cdelivered csrcKey cwrapper cpeerOk cprovKey copenProv cfactoryCal vnow
    vregs vlive vstaged varrays vwas vcycle vholding vfreeCtr vout vlinks vcores vwoke vheads vrecords vfield vdma vblt
    vbell vpel veth vfault vgs vtandem vintc vdbg vclock ving vder vvtk vsb} (h : Keeps z a) : Keeps z (State.mk
    a.pending vnow vregs vlive vstaged varrays vwas vcycle vholding vfreeCtr vout vlinks vcores vwoke vheads vrecords
    vfield vdma vblt vbell vpel veth (HubS.mk a.hub.mem hflips hregions hsched hwriteBacks hrereads hhard hcopying
    hfilled hspares hscrubs hused hgranted) vfault vgs vtandem vintc (SecS.mk cgens a.sec.begun a.sec.retired cwasValid
    a.sec.lock a.sec.rollback a.sec.factory a.sec.seed cinForce cnewGeneration cjob cgenReply ccalA ccalB ccalPending
    ccalInForce cbootLeft cbooting cbootStart cbooted cbootForever cnetStart cdelivered csrcKey cwrapper cpeerOk
    cprovKey copenProv cfactoryCal) vdbg vclock ving vder vvtk vsb) :=
  h.of_eq rfl rfl rfl rfl rfl rfl rfl rfl

/-- One byte of scene memory written. -/
theorem Keeps.of_mem {z a : State} (h : Keeps z a) (off : Nat) (b : Byte) : Keeps z (a.setMemByte off b) :=
  h.trans ⟨rfl, fun w => SMap.wfFrom_mset w (Nat.zero_le _), rfl, rfl, fun _ => id, fun _ => id, id, Nat.le_refl _⟩

/-- Scene memory emptied (a Full proof). -/
theorem Keeps.of_memEmpty {z a b : State} (h : Keeps z a) (hp : b.pending = a.pending) (hm : b.hub.mem = [])
    (hs : b.sec = a.sec) : Keeps z b :=
  h.trans ⟨hp, by rw [hm]; exact fun _ => rfl, by rw [hs], by rw [hs], by rw [hs]; exact fun _ => id, by rw [hs]; exact fun _ => id,
    by rw [hs]; exact id, by rw [hs]⟩

/-- Bits of the OTP programmed. -/
theorem Keeps.of_otp {z a b : State} (h : Keeps z a) (hp : b.pending = a.pending) (hm : b.hub.mem = a.hub.mem)
    (hs : b.sec.seed = a.sec.seed) (hf : b.sec.factory = a.sec.factory)
    (hb : ∀ i, bit a.sec.begun i = true → bit b.sec.begun i = true) (hr : ∀ i, bit a.sec.retired i = true → bit b.sec.retired i = true)
    (hl : a.sec.lock = true → b.sec.lock = true) (hk : a.sec.rollback ≤ b.sec.rollback) : Keeps z b :=
  h.trans ⟨hp, by rw [hm]; exact id, hs, hf, hb, hr, hl, hk⟩

theorem Keeps.ite {z a b : State} {c : Prop} {_ : Decidable c} (h : Keeps z a) (k : Keeps z b) : Keeps z (if c then a else b) := by
  split
  · exact h
  · exact k

theorem Keeps.foldl {α : Type} {z s : State} {f : State → α → State} {l : List α}
    (hf : ∀ s a, Keeps z s → Keeps z (f s a)) (h : Keeps z s) : Keeps z (l.foldl f s) := by
  induction l generalizing s with
  | nil => exact h
  | cons a l ih => exact ih (hf s a h)

theorem Keeps.foldl_snd {α β : Type} {z : State} {p : β × State} {f : β × State → α → β × State} {l : List α}
    (hf : ∀ p a, Keeps z p.2 → Keeps z (f p a).2) (h : Keeps z p.2) : Keeps z (l.foldl f p).2 := by
  induction l generalizing p with
  | nil => exact h
  | cons a l ih => exact ih (hf p a h)

theorem Keeps.foldl_snd2 {α β γ : Type} {z : State} {p : β × γ × State} {f : β × γ × State → α → β × γ × State} {l : List α}
    (hf : ∀ p a, Keeps z p.2.2 → Keeps z (f p a).2.2) (h : Keeps z p.2.2) : Keeps z (l.foldl f p).2.2 := by
  induction l generalizing p with
  | nil => exact h
  | cons a l ih => exact ih (hf p a h)

theorem Keeps.foldl_fst {α β : Type} {z : State} {p : State × β} {f : State × β → α → State × β} {l : List α}
    (hf : ∀ p a, Keeps z p.1 → Keeps z (f p a).1) (h : Keeps z p.1) : Keeps z (l.foldl f p).1 := by
  induction l generalizing p with
  | nil => exact h
  | cons a l ih => exact ih (hf p a h)

/-- A local name for a state: shown once, then used. -/
theorem Keeps.named {z x : State} {P : Prop} (hx : Keeps z x) (h : Keeps z x → P) : P := h hx

theorem Keeps.named_snd {β : Type} {z : State} {x : β × State} {P : Prop} (hx : Keeps z x.2) (h : Keeps z x.2 → P) : P := h hx

theorem Keeps.named_fst {β : Type} {z : State} {x : State × β} {P : Prop} (hx : Keeps z x.1) (h : Keeps z x.1 → P) : P := h hx

theorem Keeps.hub {P : Prop} (_ : HubS) (h : P) : P := h

theorem Keeps.sec {P : Prop} (_ : SecS) (h : P) : P := h

theorem Keeps.notState {α : Sort u} {P : Prop} (_ : α) (h : P) : P := h

/-- A pair taken apart: its state keeps what it must. -/
theorem Keeps.of_pair {β : Type} {z s : State} {p : β × State} {b : β} (e : p = (b, s)) (h : Keeps z p.2) : Keeps z s := by
  subst e; exact h

theorem Keeps.of_pair2 {β γ : Type} {z s : State} {p : β × γ × State} {b : β} {c : γ} (e : p = (b, c, s)) (h : Keeps z p.2.2) :
    Keeps z s := by
  subst e; exact h

theorem Keeps.of_pair3 {β γ δ : Type} {z s : State} {p : β × γ × δ × State} {b : β} {c : γ} {d : δ} (e : p = (b, c, d, s))
    (h : Keeps z p.2.2.2) : Keeps z s := by
  subst e; exact h

theorem Keeps.of_pair_fst {β : Type} {z s : State} {p : State × β} {b : β} (e : p = (s, b)) (h : Keeps z p.1) : Keeps z s := by
  subst e; exact h

end Sys2Proof.Machine
end

