-- ==== Sys2Proof/Laws/KeepsOps.lean ====
section
/-! SUPPORT. What the functions of Ops keep (see Keeps). -/

set_option linter.all false

namespace Sys2Proof.Machine

theorem State.setReg_keeps {z s : State} (a : Nat) (w : Word) (hK : Keeps z s) : Keeps z (State.setReg s a w) := by
  unfold State.setReg; with_reducible repeat' (first | assumption | (extract_lets +implicits +onlyGivenNames x; first | (refine Keeps.named (z := z) (x := x) ?_ fun hx => ?_; (on_goal 1 => dsimp -zeta only [x]; clear x); (on_goal 2 => clear_value x)) | clear_value x) | fail_if_no_progress refine Keeps.of_mk ?_)

theorem State.wr_keeps {z s : State} (f : Fld) (v : Nat) (hK : Keeps z s) : Keeps z (State.wr s f v) := by
  unfold State.wr; with_reducible repeat' (first | assumption | apply State.setReg_keeps | fail_if_no_progress refine Keeps.of_mk ?_)

theorem State.set1_keeps {z s : State} (f : Fld) (hK : Keeps z s) : Keeps z (State.set1 s f) := by
  unfold State.set1; with_reducible repeat' (first | assumption | apply State.wr_keeps | fail_if_no_progress refine Keeps.of_mk ?_)

theorem State.satInc_keeps {z s : State} (f : Fld) (n : Nat) (hK : Keeps z s) : Keeps z (State.satInc s f n) := by
  unfold State.satInc; with_reducible repeat' (first | assumption | apply State.wr_keeps | fail_if_no_progress refine Keeps.of_mk ?_)

theorem State.wrapInc_keeps {z s : State} (f : Fld) (n : Nat) (hK : Keeps z s) : Keeps z (State.wrapInc s f n) := by
  unfold State.wrapInc; with_reducible repeat' (first | assumption | apply State.wr_keeps | fail_if_no_progress refine Keeps.of_mk ?_)

theorem State.peak_keeps {z s : State} (f : Fld) (v : Nat) (hK : Keeps z s) : Keeps z (State.peak s f v) := by
  unfold State.peak; with_reducible repeat' (first | assumption | apply Keeps.ite | split | apply State.wr_keeps | fail_if_no_progress refine Keeps.of_mk ?_)

theorem State.wr64_keeps {z s : State} (a : Nat) (v : Nat) (hK : Keeps z s) : Keeps z (State.wr64 s a v) := by
  unfold State.wr64; with_reducible repeat' (first | assumption | apply State.setReg_keeps | fail_if_no_progress refine Keeps.of_mk ?_)

theorem State.setLive_keeps {z s : State} (a : Nat) (w : Word) (hK : Keeps z s) : Keeps z (State.setLive s a w) := by
  unfold State.setLive; with_reducible repeat' (first | assumption | (extract_lets +implicits +onlyGivenNames x; first | (refine Keeps.named (z := z) (x := x) ?_ fun hx => ?_; (on_goal 1 => dsimp -zeta only [x]; clear x); (on_goal 2 => clear_value x)) | clear_value x) | fail_if_no_progress refine Keeps.of_mk ?_)

theorem State.setArr_keeps {z s : State} (a : Nat) (w : Word) (hK : Keeps z s) : Keeps z (State.setArr s a w) := by
  unfold State.setArr; with_reducible repeat' (first | assumption | (extract_lets +implicits +onlyGivenNames x; first | (refine Keeps.named (z := z) (x := x) ?_ fun hx => ?_; (on_goal 1 => dsimp -zeta only [x]; clear x); (on_goal 2 => clear_value x)) | clear_value x) | split | fail_if_no_progress refine Keeps.of_mk ?_)

theorem State.emit_keeps {z s : State} (o : Output) (hK : Keeps z s) : Keeps z (State.emit s o) := by
  unfold State.emit; with_reducible repeat' (first | assumption | (extract_lets +implicits +onlyGivenNames x; first | (refine Keeps.named (z := z) (x := x) ?_ fun hx => ?_; (on_goal 1 => dsimp -zeta only [x]; clear x); (on_goal 2 => clear_value x)) | clear_value x) | fail_if_no_progress refine Keeps.of_mk ?_)

theorem State.sendFrame_keeps {z s : State} (kind : Nat) (p : Nat) (fields : List Nat) (hK : Keeps z s) : Keeps z (State.sendFrame s kind p fields) := by
  unfold State.sendFrame; with_reducible repeat' (first | assumption | (extract_lets +implicits +onlyGivenNames x; first | (refine Keeps.named (z := z) (x := x) ?_ fun hx => ?_; (on_goal 1 => dsimp -zeta only [x]; clear x); (on_goal 2 => clear_value x)) | clear_value x) | apply Keeps.ite | split | apply State.emit_keeps | fail_if_no_progress refine Keeps.of_mk ?_)

theorem State.draw_keeps {z s : State} (hK : Keeps z s) : Keeps z (State.draw s).2 := by
  unfold State.draw; with_reducible repeat' (first | assumption | (extract_lets +implicits +onlyGivenNames x; first | (refine Keeps.named (z := z) (x := x) ?_ fun hx => ?_; (on_goal 1 => dsimp -zeta only [x]; clear x); (on_goal 2 => clear_value x)) | clear_value x) | fail_if_no_progress refine Keeps.of_mk ?_)

theorem State.at_keeps {z s : State} (t : Nat) (hK : Keeps z s) : Keeps z (State.at s t) := by
  unfold State.at; with_reducible repeat' (first | assumption | (extract_lets +implicits +onlyGivenNames x; first | (refine Keeps.named (z := z) (x := x) ?_ fun hx => ?_; (on_goal 1 => dsimp -zeta only [x]; clear x); (on_goal 2 => clear_value x)) | clear_value x) | apply Keeps.ite | split | fail_if_no_progress refine Keeps.of_mk ?_)

theorem State.before_keeps {z s : State} (hK : Keeps z s) : Keeps z (State.before s) := by
  unfold State.before; with_reducible repeat' (first | assumption | (extract_lets +implicits +onlyGivenNames x; first | (refine Keeps.named (z := z) (x := x) ?_ fun hx => ?_; (on_goal 1 => dsimp -zeta only [x]; clear x); (on_goal 2 => clear_value x)) | clear_value x) | fail_if_no_progress refine Keeps.of_mk ?_)

theorem State.timeState_keeps {z s : State} (v : Nat) (hK : Keeps z s) : Keeps z (State.timeState s v) := by
  unfold State.timeState; with_reducible repeat' (first | assumption | apply Keeps.ite | split | apply State.wr_keeps | apply State.set1_keeps | fail_if_no_progress refine Keeps.of_mk ?_)

theorem State.noteLock_keeps {z s : State} (hK : Keeps z s) : Keeps z (State.noteLock s) := by
  unfold State.noteLock; with_reducible repeat' (first | assumption | (extract_lets +implicits +onlyGivenNames x; first | (refine Keeps.named (z := z) (x := x) ?_ fun hx => ?_; (on_goal 1 => dsimp -zeta only [x]; clear x); (on_goal 2 => clear_value x)) | clear_value x) | split | fail_if_no_progress refine Keeps.of_mk ?_ | refine Keeps.of_pair (by assumption) ?_ | refine Keeps.of_pair_fst (by assumption) ?_)

theorem State.holdover_keeps {z s : State} (hK : Keeps z s) : Keeps z (State.holdover s) := by
  unfold State.holdover; with_reducible repeat' (first | assumption | (extract_lets +implicits +onlyGivenNames x; first | (refine Keeps.named (z := z) (x := x) ?_ fun hx => ?_; (on_goal 1 => dsimp -zeta only [x]; clear x); (on_goal 2 => clear_value x)) | clear_value x) | apply Keeps.ite | split | apply State.noteLock_keeps | apply State.timeState_keeps | apply State.wr_keeps | fail_if_no_progress refine Keeps.of_mk ?_ | refine Keeps.of_pair (by assumption) ?_ | refine Keeps.of_pair_fst (by assumption) ?_)

theorem State.journalIn_keeps {z s : State} (i : JInput) (hK : Keeps z s) : Keeps z (State.journalIn s i) := by
  unfold State.journalIn; with_reducible repeat' (first | assumption | (extract_lets +implicits +onlyGivenNames x; first | (refine Keeps.named (z := z) (x := x) ?_ fun hx => ?_; (on_goal 1 => dsimp -zeta only [x]; clear x); (on_goal 2 => clear_value x)) | clear_value x) | fail_if_no_progress refine Keeps.of_mk ?_)

theorem State.holdTakeover_keeps {z s : State} (h : Nat) (cause : Nat) (since : Nat) (hK : Keeps z s) : Keeps z (State.holdTakeover s h cause since) := by
  unfold State.holdTakeover; with_reducible repeat' (first | assumption | (extract_lets +implicits +onlyGivenNames x; first | (refine Keeps.named (z := z) (x := x) ?_ fun hx => ?_; (on_goal 1 => dsimp -zeta only [x]; clear x); (on_goal 2 => clear_value x)) | clear_value x) | apply Keeps.ite | split | fail_if_no_progress refine Keeps.of_mk ?_)

theorem State.faultTakeovers_keeps {z s : State} (source : Nat) (chip : Nat) (hK : Keeps z s) : Keeps z (State.faultTakeovers s source chip) := by
  unfold State.faultTakeovers; with_reducible repeat' (first | assumption | intro x y hx | split | apply State.holdTakeover_keeps | apply Keeps.foldl | apply Keeps.foldl_snd | apply Keeps.foldl_snd2 | apply Keeps.foldl_fst | fail_if_no_progress refine Keeps.of_mk ?_)

theorem State.archive_keeps {z s : State} (kind : Nat) (head : Nat) (time : Nat) (payload : List Byte) (hK : Keeps z s) : Keeps z (State.archive s kind head time payload) := by
  unfold State.archive; with_reducible repeat' (first | assumption | (extract_lets +implicits +onlyGivenNames x; first | (refine Keeps.named (z := z) (x := x) ?_ fun hx => ?_; (on_goal 1 => dsimp -zeta only [x]; clear x); (on_goal 2 => clear_value x)) | clear_value x) | fail_if_no_progress refine Keeps.of_mk ?_)

theorem State.freezeSpan_keeps {z s : State} (start : Nat) (stop : Nat) (segCount : Nat) (hK : Keeps z s) : Keeps z (State.freezeSpan s start stop segCount) := by
  unfold State.freezeSpan; with_reducible repeat' (first | assumption | (extract_lets +implicits +onlyGivenNames x; first | (refine Keeps.named (z := z) (x := x) ?_ fun hx => ?_; (on_goal 1 => dsimp -zeta only [x]; clear x); (on_goal 2 => clear_value x)) | clear_value x) | apply Keeps.ite | split | apply State.set1_keeps | apply State.wr_keeps | apply State.archive_keeps | fail_if_no_progress refine Keeps.of_mk ?_ | refine Keeps.of_pair (by assumption) ?_ | refine Keeps.of_pair_fst (by assumption) ?_)

theorem State.autoFreeze_keeps {z s : State} (hK : Keeps z s) : Keeps z (State.autoFreeze s) := by
  unfold State.autoFreeze; with_reducible repeat' (first | assumption | (extract_lets +implicits +onlyGivenNames x; first | (refine Keeps.named (z := z) (x := x) ?_ fun hx => ?_; (on_goal 1 => dsimp -zeta only [x]; clear x); (on_goal 2 => clear_value x)) | clear_value x) | apply Keeps.ite | split | apply State.freezeSpan_keeps | fail_if_no_progress refine Keeps.of_mk ?_)

theorem State.archiveInput_keeps {z s : State} (source : Nat) (time : Nat) (body : List Byte) (hK : Keeps z s) : Keeps z (State.archiveInput s source time body) := by
  unfold State.archiveInput; with_reducible repeat' (first | assumption | apply State.archive_keeps | fail_if_no_progress refine Keeps.of_mk ?_)

theorem State.reloadDogs_keeps {z s : State} (hK : Keeps z s) : Keeps z (State.reloadDogs s) := by
  unfold State.reloadDogs; with_reducible repeat' (first | assumption | intro x y hx | (extract_lets +implicits +onlyGivenNames x; first | (refine Keeps.named (z := z) (x := x) ?_ fun hx => ?_; (on_goal 1 => dsimp -zeta only [x]; clear x); (on_goal 2 => clear_value x)) | (refine Keeps.named_snd (z := z) (x := x) ?_ fun hx => ?_; (on_goal 1 => dsimp -zeta only [x]; clear x); (on_goal 2 => clear_value x)) | (refine Keeps.named_fst (z := z) (x := x) ?_ fun hx => ?_; (on_goal 1 => dsimp -zeta only [x]; clear x); (on_goal 2 => clear_value x)) | clear_value x) | split | apply Keeps.foldl | apply Keeps.foldl_snd | apply Keeps.foldl_snd2 | apply Keeps.foldl_fst | fail_if_no_progress refine Keeps.of_mk ?_)

theorem State.abandonApply_keeps {z s : State} (hK : Keeps z s) : Keeps z (State.abandonApply s) := by
  unfold State.abandonApply; with_reducible repeat' (first | assumption | (extract_lets +implicits +onlyGivenNames x; first | (refine Keeps.named (z := z) (x := x) ?_ fun hx => ?_; (on_goal 1 => dsimp -zeta only [x]; clear x); (on_goal 2 => clear_value x)) | clear_value x) | apply Keeps.ite | split | apply State.wr_keeps | fail_if_no_progress refine Keeps.of_mk ?_)

theorem State.releaseNets_keeps {z s : State} (hK : Keeps z s) : Keeps z (State.releaseNets s) := by
  unfold State.releaseNets; with_reducible repeat' (first | assumption | (extract_lets +implicits +onlyGivenNames x; first | (refine Keeps.named (z := z) (x := x) ?_ fun hx => ?_; (on_goal 1 => dsimp -zeta only [x]; clear x); (on_goal 2 => clear_value x)) | clear_value x) | apply Keeps.ite | split | fail_if_no_progress refine Keeps.of_mk ?_)

theorem State.stopSteps_keeps {z s : State} (hK : Keeps z s) : Keeps z (State.stopSteps s) := by
  unfold State.stopSteps; with_reducible repeat' (first | assumption | (extract_lets +implicits +onlyGivenNames x; first | (refine Keeps.named (z := z) (x := x) ?_ fun hx => ?_; (on_goal 1 => dsimp -zeta only [x]; clear x); (on_goal 2 => clear_value x)) | clear_value x) | apply State.abandonApply_keeps | apply State.releaseNets_keeps | apply State.wr_keeps | fail_if_no_progress refine Keeps.of_mk ?_)

theorem State.classSteps_keeps {z s : State} (source : Nat) (cls : Nat) (hK : Keeps z s) : Keeps z (State.classSteps s source cls) := by
  unfold State.classSteps; with_reducible repeat' (first | assumption | (extract_lets +implicits +onlyGivenNames x; first | (refine Keeps.named (z := z) (x := x) ?_ fun hx => ?_; (on_goal 1 => dsimp -zeta only [x]; clear x); (on_goal 2 => clear_value x)) | clear_value x) | apply Keeps.ite | split | apply State.set1_keeps | apply State.faultTakeovers_keeps | apply State.autoFreeze_keeps | apply State.stopSteps_keeps | fail_if_no_progress refine Keeps.of_mk ?_)

theorem State.startAction_keeps {z s : State} (a : FaultAct) (hK : Keeps z s) : Keeps z (State.startAction s a) := by
  unfold State.startAction; with_reducible repeat' (first | assumption | (extract_lets +implicits +onlyGivenNames x; first | (refine Keeps.named (z := z) (x := x) ?_ fun hx => ?_; (on_goal 1 => dsimp -zeta only [x]; clear x); (on_goal 2 => clear_value x)) | clear_value x) | apply Keeps.ite | split | apply State.wr_keeps | apply State.classSteps_keeps | fail_if_no_progress refine Keeps.of_mk ?_)

theorem State.setFaultQueue_keeps {z s : State} (q : List FaultAct) (hK : Keeps z s) : Keeps z (State.setFaultQueue s q) := by
  unfold State.setFaultQueue; with_reducible repeat' (first | assumption | (extract_lets +implicits +onlyGivenNames x; first | (refine Keeps.named (z := z) (x := x) ?_ fun hx => ?_; (on_goal 1 => dsimp -zeta only [x]; clear x); (on_goal 2 => clear_value x)) | clear_value x) | apply State.wr_keeps | fail_if_no_progress refine Keeps.of_mk ?_)

theorem State.queueFault_keeps {z s : State} (a : FaultAct) (hK : Keeps z s) : Keeps z (State.queueFault s a) := by
  unfold State.queueFault; with_reducible repeat' (first | assumption | (extract_lets +implicits +onlyGivenNames x; first | (refine Keeps.named (z := z) (x := x) ?_ fun hx => ?_; (on_goal 1 => dsimp -zeta only [x]; clear x); (on_goal 2 => clear_value x)) | clear_value x) | apply Keeps.ite | split | apply State.satInc_keeps | apply State.setFaultQueue_keeps | fail_if_no_progress refine Keeps.of_mk ?_)

theorem State.setQuiet_keeps {z s : State} (c : Nat) (e : Option Nat) (hK : Keeps z s) : Keeps z (State.setQuiet s c e) := by
  unfold State.setQuiet; with_reducible repeat' (first | assumption | (extract_lets +implicits +onlyGivenNames x; first | (refine Keeps.named (z := z) (x := x) ?_ fun hx => ?_; (on_goal 1 => dsimp -zeta only [x]; clear x); (on_goal 2 => clear_value x)) | clear_value x) | split | fail_if_no_progress refine Keeps.of_mk ?_)

theorem State.restartQuiet_keeps {z s : State} (k : Nat) (hK : Keeps z s) : Keeps z (State.restartQuiet s k) := by
  unfold State.restartQuiet; with_reducible repeat' (first | assumption | intro x y hx | apply Keeps.ite | split | apply State.setQuiet_keeps | apply Keeps.foldl | apply Keeps.foldl_snd | apply Keeps.foldl_snd2 | apply Keeps.foldl_fst | fail_if_no_progress refine Keeps.of_mk ?_)

theorem State.preempt_keeps {z s : State} (old : FaultAct) (a : FaultAct) (hK : Keeps z s) : Keeps z (State.preempt s old a) := by
  unfold State.preempt; with_reducible repeat' (first | assumption | (extract_lets +implicits +onlyGivenNames x; first | (refine Keeps.named (z := z) (x := x) ?_ fun hx => ?_; (on_goal 1 => dsimp -zeta only [x]; clear x); (on_goal 2 => clear_value x)) | clear_value x) | apply Keeps.ite | split | apply State.satInc_keeps | apply State.setFaultQueue_keeps | apply State.startAction_keeps | fail_if_no_progress refine Keeps.of_mk ?_)

theorem State.actOn_keeps {z s : State} (a : FaultAct) (hK : Keeps z s) : Keeps z (State.actOn s a) := by
  unfold State.actOn; with_reducible repeat' (first | assumption | (extract_lets +implicits +onlyGivenNames x; first | (refine Keeps.named (z := z) (x := x) ?_ fun hx => ?_; (on_goal 1 => dsimp -zeta only [x]; clear x); (on_goal 2 => clear_value x)) | clear_value x) | apply Keeps.ite | split | apply State.restartQuiet_keeps | apply State.startAction_keeps | apply State.preempt_keeps | apply State.queueFault_keeps | fail_if_no_progress refine Keeps.of_mk ?_ | refine Keeps.of_pair (by assumption) ?_ | refine Keeps.of_pair_fst (by assumption) ?_)

theorem State.latchFault_keeps {z s : State} (chip : Nat) (source : Nat) (cls : Nat) (broken : Bool) (hK : Keeps z s) : Keeps z (State.latchFault s chip source cls broken) := by
  unfold State.latchFault; with_reducible repeat' (first | assumption | (extract_lets +implicits +onlyGivenNames x; first | (refine Keeps.named (z := z) (x := x) ?_ fun hx => ?_; (on_goal 1 => dsimp -zeta only [x]; clear x); (on_goal 2 => clear_value x)) | clear_value x) | apply State.wr_keeps | apply State.wr64_keeps | fail_if_no_progress refine Keeps.of_mk ?_)

theorem State.reportFault_keeps {z s : State} (source : Nat) (cls : Nat) (broken : Bool) (hK : Keeps z s) : Keeps z (State.reportFault s source cls broken) := by
  unfold State.reportFault; with_reducible repeat' (first | assumption | (extract_lets +implicits +onlyGivenNames x; first | (refine Keeps.named (z := z) (x := x) ?_ fun hx => ?_; (on_goal 1 => dsimp -zeta only [x]; clear x); (on_goal 2 => clear_value x)) | clear_value x) | apply Keeps.ite | split | apply State.journalIn_keeps | apply State.emit_keeps | apply State.latchFault_keeps | fail_if_no_progress refine Keeps.of_mk ?_)

theorem State.raiseAs_keeps {z s : State} (source : Nat) (broken : Bool) (hK : Keeps z s) : Keeps z (State.raiseAs s source broken) := by
  unfold State.raiseAs; with_reducible repeat' (first | assumption | (extract_lets +implicits +onlyGivenNames x; first | (refine Keeps.named (z := z) (x := x) ?_ fun hx => ?_; (on_goal 1 => dsimp -zeta only [x]; clear x); (on_goal 2 => clear_value x)) | clear_value x) | apply Keeps.ite | split | apply State.wr_keeps | apply State.set1_keeps | apply State.satInc_keeps | apply State.reportFault_keeps | apply State.actOn_keeps | fail_if_no_progress refine Keeps.of_mk ?_ | refine Keeps.of_pair (by assumption) ?_ | refine Keeps.of_pair_fst (by assumption) ?_)

theorem State.raise_keeps {z s : State} (source : Nat) (hK : Keeps z s) : Keeps z (State.raise s source) := by
  unfold State.raise; with_reducible repeat' (first | assumption | apply State.raiseAs_keeps | fail_if_no_progress refine Keeps.of_mk ?_)

theorem State.clearFault_keeps {z s : State} (source : Nat) (hK : Keeps z s) : Keeps z (State.clearFault s source) := by
  unfold State.clearFault; with_reducible repeat' (first | assumption | apply State.wr_keeps | fail_if_no_progress refine Keeps.of_mk ?_)

theorem State.ignoreWrite_keeps {z s : State} (base : Nat) (off : Nat) (reason : Nat) (hK : Keeps z s) : Keeps z (State.ignoreWrite s base off reason) := by
  unfold State.ignoreWrite; with_reducible repeat' (first | assumption | (extract_lets +implicits +onlyGivenNames x; first | (refine Keeps.named (z := z) (x := x) ?_ fun hx => ?_; (on_goal 1 => dsimp -zeta only [x]; clear x); (on_goal 2 => clear_value x)) | clear_value x) | apply Keeps.ite | split | apply State.satInc_keeps | apply State.wr_keeps | apply State.raise_keeps | fail_if_no_progress refine Keeps.of_mk ?_)

theorem State.setMemByte_keeps {z s : State} (off : Nat) (b : Byte) (hK : Keeps z s) : Keeps z (State.setMemByte s off b) :=
  hK.of_mem off b

theorem State.setMemBytes_keeps {z s : State} (off : Nat) (bs : List Byte) (hK : Keeps z s) : Keeps z (State.setMemBytes s off bs) := by
  induction bs generalizing s off with
  | nil => exact hK
  | cons b bs ih => exact ih (off + 1) (State.setMemByte_keeps off b hK)

theorem State.setFlips_keeps {z s : State} (wi : Nat) (f : BitVec 72) (hK : Keeps z s) : Keeps z (State.setFlips s wi f) := by
  unfold State.setFlips; with_reducible repeat' (first | assumption | (extract_lets +implicits +onlyGivenNames x; first | (refine Keeps.named (z := z) (x := x) ?_ fun hx => ?_; (on_goal 1 => dsimp -zeta only [x]; clear x); (on_goal 2 => clear_value x)) | (refine Keeps.hub x ?_; subst x) | clear_value x) | split | fail_if_no_progress refine Keeps.of_mk ?_)

theorem State.latchEcc_keeps {z s : State} (wi : Nat) (req : Nat) (uncorrectable : Bool) (hK : Keeps z s) : Keeps z (State.latchEcc s wi req uncorrectable) := by
  unfold State.latchEcc; with_reducible repeat' (first | assumption | (extract_lets +implicits +onlyGivenNames x; first | (refine Keeps.named (z := z) (x := x) ?_ fun hx => ?_; (on_goal 1 => dsimp -zeta only [x]; clear x); (on_goal 2 => clear_value x)) | clear_value x) | apply State.wr_keeps | fail_if_no_progress refine Keeps.of_mk ?_)

theorem State.eccUncorr_keeps {z s : State} (wi : Nat) (req : Nat) (hK : Keeps z s) : Keeps z (State.eccUncorr s wi req) := by
  unfold State.eccUncorr; with_reducible repeat' (first | assumption | apply State.satInc_keeps | apply State.latchEcc_keeps | apply State.raise_keeps | fail_if_no_progress refine Keeps.of_mk ?_)

theorem State.eccCorr_keeps {z s : State} (wi : Nat) (req : Nat) (hK : Keeps z s) : Keeps z (State.eccCorr s wi req) := by
  unfold State.eccCorr; with_reducible repeat' (first | assumption | apply State.satInc_keeps | apply State.latchEcc_keeps | fail_if_no_progress refine Keeps.of_mk ?_)

theorem State.askWriteBack_keeps {z s : State} (wi : Nat) (b : Nat) (hK : Keeps z s) : Keeps z (State.askWriteBack s wi b) := by
  unfold State.askWriteBack; with_reducible repeat' (first | assumption | (extract_lets +implicits +onlyGivenNames x; first | (refine Keeps.named (z := z) (x := x) ?_ fun hx => ?_; (on_goal 1 => dsimp -zeta only [x]; clear x); (on_goal 2 => clear_value x)) | (refine Keeps.hub x ?_; subst x) | clear_value x) | apply Keeps.ite | split | fail_if_no_progress refine Keeps.of_mk ?_)

theorem State.readWord64_keeps {z s : State} (req : Nat) (wi : Nat) (hK : Keeps z s) : Keeps z (State.readWord64 s req wi).2 := by
  unfold State.readWord64; with_reducible repeat' (first | assumption | (extract_lets +implicits +onlyGivenNames x; first | (refine Keeps.named (z := z) (x := x) ?_ fun hx => ?_; (on_goal 1 => dsimp -zeta only [x]; clear x); (on_goal 2 => clear_value x)) | clear_value x) | split | apply State.eccUncorr_keeps | apply State.eccCorr_keeps | apply State.askWriteBack_keeps | fail_if_no_progress refine Keeps.of_mk ?_ | refine Keeps.of_pair (by assumption) ?_ | refine Keeps.of_pair_fst (by assumption) ?_)

theorem State.readWords64_keeps {z s : State} (req wi n : Nat) (hK : Keeps z s) : Keeps z (State.readWords64 s req wi n).2 := by
  induction n generalizing s wi with
  | zero => exact hK
  | succ n ih =>
    unfold State.readWords64
    with_reducible repeat' (first | assumption | split | refine Keeps.of_pair (by assumption) (ih _ ?_) |
      refine Keeps.of_pair (by assumption) (State.readWord64_keeps _ _ ?_))

theorem State.memRead_keeps {z s : State} (req : Nat) (off : Nat) (len : Nat) (hK : Keeps z s) : Keeps z (State.memRead s req off len).2 := by
  unfold State.memRead; with_reducible repeat' (first | assumption | (extract_lets +implicits +onlyGivenNames x; first | (refine Keeps.named (z := z) (x := x) ?_ fun hx => ?_; (on_goal 1 => dsimp -zeta only [x]; clear x); (on_goal 2 => clear_value x)) | (refine Keeps.named_snd (z := z) (x := x) ?_ fun hx => ?_; (on_goal 1 => dsimp -zeta only [x]; clear x); (on_goal 2 => clear_value x)) | clear_value x) | apply Keeps.ite | split | apply State.readWords64_keeps | refine Keeps.of_pair (by assumption) (State.readWords64_keeps _ _ _ ?_) | fail_if_no_progress refine Keeps.of_mk ?_ | refine Keeps.of_pair (by assumption) ?_ | refine Keeps.of_pair_fst (by assumption) ?_)

theorem State.denyWrite_keeps {z s : State} (req : Nat) (hK : Keeps z s) : Keeps z (State.denyWrite s req) := by
  unfold State.denyWrite; with_reducible repeat' (first | assumption | apply State.satInc_keeps | apply State.wr_keeps | apply State.raise_keeps | fail_if_no_progress refine Keeps.of_mk ?_)

theorem State.dropWriteBack_keeps {z s : State} (wi : Nat) (hK : Keeps z s) : Keeps z (State.dropWriteBack s wi) := by
  unfold State.dropWriteBack; with_reducible repeat' (first | assumption | (extract_lets +implicits +onlyGivenNames x; first | (refine Keeps.named (z := z) (x := x) ?_ fun hx => ?_; (on_goal 1 => dsimp -zeta only [x]; clear x); (on_goal 2 => clear_value x)) | (refine Keeps.hub x ?_; subst x) | clear_value x) | fail_if_no_progress refine Keeps.of_mk ?_)

theorem State.mergeWord64_keeps {z s : State} (req : Nat) (wi : Nat) (f : List Byte → List Byte) (hK : Keeps z s) : Keeps z (State.mergeWord64 s req wi f) := by
  unfold State.mergeWord64; with_reducible repeat' (first | assumption | (extract_lets +implicits +onlyGivenNames x; first | (refine Keeps.named (z := z) (x := x) ?_ fun hx => ?_; (on_goal 1 => dsimp -zeta only [x]; clear x); (on_goal 2 => clear_value x)) | clear_value x) | split | apply State.setMemBytes_keeps | apply State.setFlips_keeps | apply State.eccUncorr_keeps | apply State.eccCorr_keeps | apply State.dropWriteBack_keeps | fail_if_no_progress refine Keeps.of_mk ?_ | refine Keeps.of_pair (by assumption) ?_ | refine Keeps.of_pair_fst (by assumption) ?_)

theorem State.writeWord64_keeps {z s : State} (req : Nat) (off : Nat) (bs : List Byte) (hK : Keeps z s) : Keeps z (State.writeWord64 s req off bs) := by
  unfold State.writeWord64; with_reducible repeat' (first | assumption | apply Keeps.ite | split | apply State.setMemBytes_keeps | apply State.setFlips_keeps | apply State.dropWriteBack_keeps | apply State.mergeWord64_keeps | fail_if_no_progress refine Keeps.of_mk ?_)

theorem State.writeWords64_keeps {z s : State} (req off : Nat) (bs : List Byte) (n : Nat) (hK : Keeps z s) :
    Keeps z (State.writeWords64 s req off bs n) := by
  induction n generalizing s off bs with
  | zero => exact hK
  | succ n ih =>
    simp only [State.writeWords64]
    split
    · exact hK
    · exact ih _ _ (State.writeWord64_keeps _ _ _ hK)

theorem State.breakLinks_keeps {z s : State} (lo : Nat) (hi : Nat) (hK : Keeps z s) : Keeps z (State.breakLinks s lo hi) := by
  unfold State.breakLinks; with_reducible repeat' (first | assumption | (extract_lets +implicits +onlyGivenNames x; first | (refine Keeps.named (z := z) (x := x) ?_ fun hx => ?_; (on_goal 1 => dsimp -zeta only [x]; clear x); (on_goal 2 => clear_value x)) | clear_value x) | split | fail_if_no_progress refine Keeps.of_mk ?_ | refine Keeps.of_pair (by assumption) ?_ | refine Keeps.of_pair_fst (by assumption) ?_)

theorem State.wake_keeps {z s : State} (h : Nat) (hK : Keeps z s) : Keeps z (State.wake s h) := by
  unfold State.wake; with_reducible repeat' (first | assumption | (extract_lets +implicits +onlyGivenNames x; first | (refine Keeps.named (z := z) (x := x) ?_ fun hx => ?_; (on_goal 1 => dsimp -zeta only [x]; clear x); (on_goal 2 => clear_value x)) | clear_value x) | fail_if_no_progress refine Keeps.of_mk ?_)

theorem State.wakeRegion_keeps {z s : State} (off : Nat) (hK : Keeps z s) : Keeps z (State.wakeRegion s off) := by
  unfold State.wakeRegion; with_reducible repeat' (first | assumption | intro x y hx | (extract_lets +implicits +onlyGivenNames x; first | (refine Keeps.named (z := z) (x := x) ?_ fun hx => ?_; (on_goal 1 => dsimp -zeta only [x]; clear x); (on_goal 2 => clear_value x)) | (refine Keeps.named_snd (z := z) (x := x) ?_ fun hx => ?_; (on_goal 1 => dsimp -zeta only [x]; clear x); (on_goal 2 => clear_value x)) | (refine Keeps.named_fst (z := z) (x := x) ?_ fun hx => ?_; (on_goal 1 => dsimp -zeta only [x]; clear x); (on_goal 2 => clear_value x)) | (refine Keeps.hub x ?_; subst x) | clear_value x) | apply Keeps.ite | split | apply State.wake_keeps | apply Keeps.foldl | apply Keeps.foldl_snd | apply Keeps.foldl_snd2 | apply Keeps.foldl_fst | fail_if_no_progress refine Keeps.of_mk ?_ | refine Keeps.of_pair (by assumption) ?_ | refine Keeps.of_pair_fst (by assumption) ?_)

theorem State.writeLine_keeps {z s : State} (req : Nat) (off : Nat) (bs : List Byte) (hK : Keeps z s) : Keeps z (State.writeLine s req off bs) := by
  unfold State.writeLine; with_reducible repeat' (first | assumption | intro x y hx | (extract_lets +implicits +onlyGivenNames x; first | (refine Keeps.named (z := z) (x := x) ?_ fun hx => ?_; (on_goal 1 => dsimp -zeta only [x]; clear x); (on_goal 2 => clear_value x)) | (refine Keeps.named_snd (z := z) (x := x) ?_ fun hx => ?_; (on_goal 1 => dsimp -zeta only [x]; clear x); (on_goal 2 => clear_value x)) | (refine Keeps.named_fst (z := z) (x := x) ?_ fun hx => ?_; (on_goal 1 => dsimp -zeta only [x]; clear x); (on_goal 2 => clear_value x)) | clear_value x) | apply Keeps.ite | split | apply State.denyWrite_keeps | apply State.writeWords64_keeps | apply State.breakLinks_keeps | apply State.wakeRegion_keeps | apply Keeps.foldl | apply Keeps.foldl_snd | apply Keeps.foldl_snd2 | apply Keeps.foldl_fst | fail_if_no_progress refine Keeps.of_mk ?_)

theorem State.writeLines_keeps {z s : State} (req off : Nat) (bs : List Byte) (n : Nat) (hK : Keeps z s) :
    Keeps z (State.writeLines s req off bs n) := by
  induction n generalizing s off bs with
  | zero => exact hK
  | succ n ih =>
    simp only [State.writeLines]
    split
    · exact hK
    · exact ih _ _ (State.writeLine_keeps _ _ _ hK)

theorem State.memWrite_keeps {z s : State} (req : Nat) (off : Nat) (bs : List Byte) (hK : Keeps z s) : Keeps z (State.memWrite s req off bs) := by
  unfold State.memWrite; with_reducible repeat' (first | assumption | apply State.writeLines_keeps | fail_if_no_progress refine Keeps.of_mk ?_)

theorem State.memMasked32_keeps {z s : State} (req : Nat) (off : Nat) (mask : Nat) (v : Nat) (hK : Keeps z s) : Keeps z (State.memMasked32 s req off mask v) := by
  unfold State.memMasked32; with_reducible repeat' (first | assumption | (extract_lets +implicits +onlyGivenNames x; first | (refine Keeps.named (z := z) (x := x) ?_ fun hx => ?_; (on_goal 1 => dsimp -zeta only [x]; clear x); (on_goal 2 => clear_value x)) | clear_value x) | apply Keeps.ite | split | apply State.denyWrite_keeps | apply State.wakeRegion_keeps | apply State.mergeWord64_keeps | apply State.breakLinks_keeps | fail_if_no_progress refine Keeps.of_mk ?_)

end Sys2Proof.Machine
end

