-- ==== Sys2Proof/Laws/KeepsVtkOps.lean ====
section
/-! SUPPORT. What the functions of VtkOps keep (see Keeps). -/

set_option linter.all false

namespace Sys2Proof.Machine

theorem State.setSess_keeps {z s : State} (n : Nat) (v : VSession) (hK : Keeps z s) : Keeps z (State.setSess s n v) := by
  unfold State.setSess; with_reducible repeat' (first | assumption | (extract_lets +implicits +onlyGivenNames x; first | (refine Keeps.named (z := z) (x := x) ?_ fun hx => ?_; (on_goal 1 => dsimp -zeta only [x]; clear x); (on_goal 2 => clear_value x)) | clear_value x) | split | fail_if_no_progress refine Keeps.of_mk ?_)

theorem State.vtkIllegal_keeps {z s : State} (r : Nat) (hK : Keeps z s) : Keeps z (State.vtkIllegal s r) := by
  unfold State.vtkIllegal; with_reducible repeat' (first | assumption | apply State.satInc_keeps | apply State.set1_keeps | apply State.raise_keeps | fail_if_no_progress refine Keeps.of_mk ?_)

theorem State.vtkSend_keeps {z s : State} (n : Nat) (kind : Nat) (seq : Nat) (body : List Byte) (hK : Keeps z s) : Keeps z (State.vtkSend s n kind seq body) := by
  unfold State.vtkSend; with_reducible repeat' (first | assumption | (extract_lets +implicits +onlyGivenNames x; first | (refine Keeps.named (z := z) (x := x) ?_ fun hx => ?_; (on_goal 1 => dsimp -zeta only [x]; clear x); (on_goal 2 => clear_value x)) | (refine Keeps.named_fst (z := z) (x := x) ?_ fun hx => ?_; (on_goal 1 => dsimp -zeta only [x]; clear x); (on_goal 2 => clear_value x)) | clear_value x) | apply Keeps.ite | split | apply State.emit_keeps | fail_if_no_progress refine Keeps.of_mk ?_)

theorem State.vtkSendNext_keeps {z s : State} (n : Nat) (kind : Nat) (body : List Byte) (hK : Keeps z s) : Keeps z (State.vtkSendNext s n kind body) := by
  unfold State.vtkSendNext; with_reducible repeat' (first | assumption | (extract_lets +implicits +onlyGivenNames x; first | (refine Keeps.named (z := z) (x := x) ?_ fun hx => ?_; (on_goal 1 => dsimp -zeta only [x]; clear x); (on_goal 2 => clear_value x)) | (refine Keeps.named_fst (z := z) (x := x) ?_ fun hx => ?_; (on_goal 1 => dsimp -zeta only [x]; clear x); (on_goal 2 => clear_value x)) | clear_value x) | apply State.vtkSend_keeps | apply State.setSess_keeps | fail_if_no_progress refine Keeps.of_mk ?_)

theorem State.vtkCountStatus_keeps {z s : State} (status : Nat) (hK : Keeps z s) : Keeps z (State.vtkCountStatus s status) := by
  unfold State.vtkCountStatus; with_reducible repeat' (first | assumption | apply Keeps.ite | split | apply State.satInc_keeps | fail_if_no_progress refine Keeps.of_mk ?_)

theorem State.vtkFinish_keeps {z s : State} (c : VtkCmd) (status : Nat) (detail : Nat) (frame : Nat) (results : List Byte) (hK : Keeps z s) : Keeps z (State.vtkFinish s c status detail frame results) := by
  unfold State.vtkFinish; with_reducible repeat' (first | assumption | (extract_lets +implicits +onlyGivenNames x; first | (refine Keeps.named (z := z) (x := x) ?_ fun hx => ?_; (on_goal 1 => dsimp -zeta only [x]; clear x); (on_goal 2 => clear_value x)) | (refine Keeps.named_fst (z := z) (x := x) ?_ fun hx => ?_; (on_goal 1 => dsimp -zeta only [x]; clear x); (on_goal 2 => clear_value x)) | clear_value x) | apply Keeps.ite | split | apply State.vtkCountStatus_keeps | apply State.setSess_keeps | apply State.wr_keeps | apply State.vtkSendNext_keeps | fail_if_no_progress refine Keeps.of_mk ?_)

theorem State.orphanCommands_keeps {z s : State} (n : Nat) (hK : Keeps z s) : Keeps z (State.orphanCommands s n) := by
  unfold State.orphanCommands; with_reducible repeat' (first | assumption | (extract_lets +implicits +onlyGivenNames x; first | (refine Keeps.named (z := z) (x := x) ?_ fun hx => ?_; (on_goal 1 => dsimp -zeta only [x]; clear x); (on_goal 2 => clear_value x)) | (refine Keeps.sec x ?_; subst x) | clear_value x) | split | fail_if_no_progress refine Keeps.of_mk ?_ | refine Keeps.of_pair (by assumption) ?_ | refine Keeps.of_pair_fst (by assumption) ?_)

theorem State.setLeases_keeps {z s : State} (ls : List Lease) (hK : Keeps z s) : Keeps z (State.setLeases s ls) := by
  unfold State.setLeases; with_reducible repeat' (first | assumption | (extract_lets +implicits +onlyGivenNames x; first | (refine Keeps.named (z := z) (x := x) ?_ fun hx => ?_; (on_goal 1 => dsimp -zeta only [x]; clear x); (on_goal 2 => clear_value x)) | clear_value x) | apply State.wr_keeps | fail_if_no_progress refine Keeps.of_mk ?_)

theorem State.setOpen_keeps {z s : State} (n : Nat) (v : Bool) (hK : Keeps z s) : Keeps z (State.setOpen s n v) := by
  unfold State.setOpen; with_reducible repeat' (first | assumption | apply State.wr64_keeps | fail_if_no_progress refine Keeps.of_mk ?_)

theorem State.freeSession_keeps {z s : State} (n : Nat) (hK : Keeps z s) : Keeps z (State.freeSession s n) := by
  unfold State.freeSession; with_reducible repeat' (first | assumption | (extract_lets +implicits +onlyGivenNames x; first | (refine Keeps.named (z := z) (x := x) ?_ fun hx => ?_; (on_goal 1 => dsimp -zeta only [x]; clear x); (on_goal 2 => clear_value x)) | clear_value x) | apply Keeps.ite | split | apply State.wr_keeps | apply State.orphanCommands_keeps | apply State.setSess_keeps | apply State.setReg_keeps | apply State.setOpen_keeps | apply State.setLeases_keeps | apply State.set1_keeps | fail_if_no_progress refine Keeps.of_mk ?_)

theorem State.closeAll_keeps {z s : State} (hK : Keeps z s) : Keeps z (State.closeAll s) := by
  unfold State.closeAll; with_reducible repeat' (first | assumption | intro x y hx | apply Keeps.ite | split | apply State.freeSession_keeps | apply Keeps.foldl | apply Keeps.foldl_snd | apply Keeps.foldl_snd2 | apply Keeps.foldl_fst | fail_if_no_progress refine Keeps.of_mk ?_)

end Sys2Proof.Machine
end

