-- ==== Sys2Proof/Laws/KeepsIngest.lean ====
section
/-! SUPPORT. What the functions of Ingest keep (see Keeps). -/

set_option linter.all false

namespace Sys2Proof.Machine

theorem State.ctrlRefresh_keeps {z s : State} (r : Nat) (hK : Keeps z s) : Keeps z (State.ctrlRefresh s r).2 := by
  unfold State.ctrlRefresh; with_reducible repeat' (first | assumption | (extract_lets +implicits +onlyGivenNames x; first | (refine Keeps.named (z := z) (x := x) ?_ fun hx => ?_; (on_goal 1 => dsimp -zeta only [x]; clear x); (on_goal 2 => clear_value x)) | (refine Keeps.named_snd (z := z) (x := x) ?_ fun hx => ?_; (on_goal 1 => dsimp -zeta only [x]; clear x); (on_goal 2 => clear_value x)) | clear_value x) | apply State.memRead_keeps | refine Keeps.of_pair (by assumption) (State.memRead_keeps _ _ _ ?_) | fail_if_no_progress refine Keeps.of_mk ?_ | refine Keeps.of_pair (by assumption) ?_ | refine Keeps.of_pair_fst (by assumption) ?_)

theorem State.wantsRefresh_keeps {z s : State} (p : Nat) (hK : Keeps z s) : Keeps z (State.wantsRefresh s p).2 := by
  unfold State.wantsRefresh; with_reducible repeat' (first | assumption | intro x y hx | (extract_lets +implicits +onlyGivenNames x; first | (refine Keeps.named (z := z) (x := x) ?_ fun hx => ?_; (on_goal 1 => dsimp -zeta only [x]; clear x); (on_goal 2 => clear_value x)) | (refine Keeps.named_snd (z := z) (x := x) ?_ fun hx => ?_; (on_goal 1 => dsimp -zeta only [x]; clear x); (on_goal 2 => clear_value x)) | (refine Keeps.named_fst (z := z) (x := x) ?_ fun hx => ?_; (on_goal 1 => dsimp -zeta only [x]; clear x); (on_goal 2 => clear_value x)) | clear_value x) | apply Keeps.ite | split | apply State.memRead_keeps | refine Keeps.of_pair (by assumption) (State.memRead_keeps _ _ _ ?_) | apply State.ctrlRefresh_keeps | refine Keeps.of_pair (by assumption) (State.ctrlRefresh_keeps _ ?_) | apply Keeps.foldl | apply Keeps.foldl_snd | apply Keeps.foldl_snd2 | apply Keeps.foldl_fst | fail_if_no_progress refine Keeps.of_mk ?_ | refine Keeps.of_pair (by assumption) ?_ | refine Keeps.of_pair_fst (by assumption) ?_)

theorem State.headRecord_keeps {z s : State} (hK : Keeps z s) : Keeps z (State.headRecord s) := by
  unfold State.headRecord; with_reducible repeat' (first | assumption | (extract_lets +implicits +onlyGivenNames x; first | (refine Keeps.named (z := z) (x := x) ?_ fun hx => ?_; (on_goal 1 => dsimp -zeta only [x]; clear x); (on_goal 2 => clear_value x)) | (refine Keeps.named_snd (z := z) (x := x) ?_ fun hx => ?_; (on_goal 1 => dsimp -zeta only [x]; clear x); (on_goal 2 => clear_value x)) | clear_value x) | apply Keeps.ite | split | apply State.memRead_keeps | refine Keeps.of_pair (by assumption) (State.memRead_keeps _ _ _ ?_) | fail_if_no_progress refine Keeps.of_mk ?_ | refine Keeps.of_pair (by assumption) ?_ | refine Keeps.of_pair_fst (by assumption) ?_)

theorem State.derPush_keeps {z s : State} (e : DerEntry) (hK : Keeps z s) : Keeps z (State.derPush s e) := by
  unfold State.derPush; with_reducible repeat' (first | assumption | (extract_lets +implicits +onlyGivenNames x; first | (refine Keeps.named (z := z) (x := x) ?_ fun hx => ?_; (on_goal 1 => dsimp -zeta only [x]; clear x); (on_goal 2 => clear_value x)) | clear_value x) | apply Keeps.ite | split | apply State.headRecord_keeps | apply State.wr_keeps | apply State.peak_keeps | fail_if_no_progress refine Keeps.of_mk ?_)

theorem State.discard_keeps {z s : State} (reason : Nat) (sub : Nat) (hK : Keeps z s) : Keeps z (State.discard s reason sub) := by
  unfold State.discard; with_reducible repeat' (first | assumption | apply State.satInc_keeps | apply State.wr_keeps | fail_if_no_progress refine Keeps.of_mk ?_)

theorem State.answerVertik_keeps {z s : State} (status : Nat → Nat) (hK : Keeps z s) : Keeps z (State.answerVertik s status) := by
  unfold State.answerVertik; with_reducible repeat' (first | assumption | (extract_lets +implicits +onlyGivenNames x; first | (refine Keeps.named (z := z) (x := x) ?_ fun hx => ?_; (on_goal 1 => dsimp -zeta only [x]; clear x); (on_goal 2 => clear_value x)) | clear_value x) | apply Keeps.ite | split | apply State.vtkFinish_keeps | fail_if_no_progress refine Keeps.of_mk ?_ | refine Keeps.of_pair (by assumption) ?_ | refine Keeps.of_pair_fst (by assumption) ?_)

theorem State.queueWrite_keeps {z s : State} (p : Nat) (n : PointRec) (vc : Bool) (qc : Bool) (hK : Keeps z s) : Keeps z (State.queueWrite s p n vc qc) := by
  unfold State.queueWrite; with_reducible repeat' (first | assumption | (extract_lets +implicits +onlyGivenNames x; first | (refine Keeps.named (z := z) (x := x) ?_ fun hx => ?_; (on_goal 1 => dsimp -zeta only [x]; clear x); (on_goal 2 => clear_value x)) | (refine Keeps.named_snd (z := z) (x := x) ?_ fun hx => ?_; (on_goal 1 => dsimp -zeta only [x]; clear x); (on_goal 2 => clear_value x)) | clear_value x) | apply Keeps.ite | split | apply State.wantsRefresh_keeps | refine Keeps.of_pair (by assumption) (State.wantsRefresh_keeps _ ?_) | apply State.derPush_keeps | fail_if_no_progress refine Keeps.of_mk ?_ | refine Keeps.of_pair (by assumption) ?_ | refine Keeps.of_pair_fst (by assumption) ?_)

theorem State.putRecord_keeps {z s : State} (p : Nat) (n : PointRec) (vc : Bool) (qc : Bool) (hK : Keeps z s) : Keeps z (State.putRecord s p n vc qc) := by
  unfold State.putRecord; with_reducible repeat' (first | assumption | (extract_lets +implicits +onlyGivenNames x; first | (refine Keeps.named (z := z) (x := x) ?_ fun hx => ?_; (on_goal 1 => dsimp -zeta only [x]; clear x); (on_goal 2 => clear_value x)) | clear_value x) | apply Keeps.ite | split | apply State.memWrite_keeps | apply State.wrapInc_keeps | apply State.queueWrite_keeps | apply State.denyWrite_keeps | fail_if_no_progress refine Keeps.of_mk ?_)

theorem State.writePoint_keeps {z s : State} (p : Nat) (u : PtUpd) (hK : Keeps z s) : Keeps z (State.writePoint s p u) := by
  unfold State.writePoint; with_reducible repeat' (first | assumption | (extract_lets +implicits +onlyGivenNames x; first | (refine Keeps.named (z := z) (x := x) ?_ fun hx => ?_; (on_goal 1 => dsimp -zeta only [x]; clear x); (on_goal 2 => clear_value x)) | (refine Keeps.named_snd (z := z) (x := x) ?_ fun hx => ?_; (on_goal 1 => dsimp -zeta only [x]; clear x); (on_goal 2 => clear_value x)) | clear_value x) | apply Keeps.ite | split | apply State.memRead_keeps | refine Keeps.of_pair (by assumption) (State.memRead_keeps _ _ _ ?_) | apply State.discard_keeps | apply State.answerVertik_keeps | apply State.putRecord_keeps | fail_if_no_progress refine Keeps.of_mk ?_ | refine Keeps.of_pair (by assumption) ?_ | refine Keeps.of_pair_fst (by assumption) ?_)

theorem State.findGoose_keeps {z s : State} (port : Nat) (g : Goose) (i n : Nat) (hK : Keeps z s) :
    Keeps z (State.findGoose s port g i n).2 := by
  induction n generalizing s i with
  | zero => exact hK
  | succ n ih => unfold State.findGoose; with_reducible repeat' (first | assumption | (extract_lets +implicits +onlyGivenNames x; first | (refine Keeps.named (z := z) (x := x) ?_ fun hx => ?_; (on_goal 1 => dsimp -zeta only [x]; clear x); (on_goal 2 => clear_value x)) | (refine Keeps.named_snd (z := z) (x := x) ?_ fun hx => ?_; (on_goal 1 => dsimp -zeta only [x]; clear x); (on_goal 2 => clear_value x)) | clear_value x) | apply Keeps.ite | split | apply ih | apply State.memRead_keeps | refine Keeps.of_pair (by assumption) (State.memRead_keeps _ _ _ ?_) | fail_if_no_progress refine Keeps.of_mk ?_ | refine Keeps.of_pair (by assumption) ?_ | refine Keeps.of_pair_fst (by assumption) ?_)

theorem State.setSubState_keeps {z s : State} (off : Nat) (at_ : Nat) (f : Fld) (old : Nat) (new : Nat) (hK : Keeps z s) : Keeps z (State.setSubState s off at_ f old new) := by
  unfold State.setSubState; with_reducible repeat' (first | assumption | (extract_lets +implicits +onlyGivenNames x; first | (refine Keeps.named (z := z) (x := x) ?_ fun hx => ?_; (on_goal 1 => dsimp -zeta only [x]; clear x); (on_goal 2 => clear_value x)) | clear_value x) | apply Keeps.ite | split | apply State.memWrite_keeps | apply State.wr_keeps | fail_if_no_progress refine Keeps.of_mk ?_)

theorem State.gooseConfig_keeps {z s : State} (g : Nat) (e : List Byte) (hK : Keeps z s) : Keeps z (State.gooseConfig s g e) := by
  unfold State.gooseConfig; with_reducible repeat' (first | assumption | apply State.setSubState_keeps | apply State.discard_keeps | fail_if_no_progress refine Keeps.of_mk ?_)

theorem State.acceptGoose_keeps {z s : State} (n : Nat) (arrival : Nat) (e : List Byte) (es : List MapEntry) (g : Goose) (hK : Keeps z s) : Keeps z (State.acceptGoose s n arrival e es g) := by
  unfold State.acceptGoose; with_reducible repeat' (first | assumption | intro x y hx | (extract_lets +implicits +onlyGivenNames x; first | (refine Keeps.named (z := z) (x := x) ?_ fun hx => ?_; (on_goal 1 => dsimp -zeta only [x]; clear x); (on_goal 2 => clear_value x)) | (refine Keeps.named_snd (z := z) (x := x) ?_ fun hx => ?_; (on_goal 1 => dsimp -zeta only [x]; clear x); (on_goal 2 => clear_value x)) | (refine Keeps.named_fst (z := z) (x := x) ?_ fun hx => ?_; (on_goal 1 => dsimp -zeta only [x]; clear x); (on_goal 2 => clear_value x)) | clear_value x) | apply Keeps.ite | split | apply State.memWrite_keeps | apply State.setSubState_keeps | apply State.wrapInc_keeps | apply Keeps.foldl | apply Keeps.foldl_snd | apply Keeps.foldl_snd2 | apply Keeps.foldl_fst | fail_if_no_progress refine Keeps.of_mk ?_)

theorem State.judgeGoose_keeps {z s : State} (n : Nat) (arrival : Nat) (e : List Byte) (bad : Bool) (g : Goose) (hK : Keeps z s) : Keeps z (State.judgeGoose s n arrival e bad g) := by
  unfold State.judgeGoose; with_reducible repeat' (first | assumption | (extract_lets +implicits +onlyGivenNames x; first | (refine Keeps.named (z := z) (x := x) ?_ fun hx => ?_; (on_goal 1 => dsimp -zeta only [x]; clear x); (on_goal 2 => clear_value x)) | (refine Keeps.named_snd (z := z) (x := x) ?_ fun hx => ?_; (on_goal 1 => dsimp -zeta only [x]; clear x); (on_goal 2 => clear_value x)) | clear_value x) | apply Keeps.ite | split | apply State.discard_keeps | apply State.memRead_keeps | refine Keeps.of_pair (by assumption) (State.memRead_keeps _ _ _ ?_) | apply State.gooseConfig_keeps | apply State.acceptGoose_keeps | fail_if_no_progress refine Keeps.of_mk ?_ | refine Keeps.of_pair (by assumption) ?_ | refine Keeps.of_pair_fst (by assumption) ?_)

theorem State.startGoose_keeps {z s : State} (port : Nat) (arrival : Nat) (g : Goose) (hK : Keeps z s) : Keeps z (State.startGoose s port arrival g) := by
  unfold State.startGoose; with_reducible repeat' (first | assumption | (extract_lets +implicits +onlyGivenNames x; first | (refine Keeps.named (z := z) (x := x) ?_ fun hx => ?_; (on_goal 1 => dsimp -zeta only [x]; clear x); (on_goal 2 => clear_value x)) | (refine Keeps.named_snd (z := z) (x := x) ?_ fun hx => ?_; (on_goal 1 => dsimp -zeta only [x]; clear x); (on_goal 2 => clear_value x)) | clear_value x) | apply Keeps.ite | split | apply State.discard_keeps | apply State.findGoose_keeps | refine Keeps.of_pair (by assumption) (State.findGoose_keeps _ _ _ _ ?_) | apply State.judgeGoose_keeps | fail_if_no_progress refine Keeps.of_mk ?_ | refine Keeps.of_pair (by assumption) ?_ | refine Keeps.of_pair_fst (by assumption) ?_)

theorem State.findSv_keeps {z s : State} (port : Nat) (a : SvAsdu) (i n : Nat) (hK : Keeps z s) :
    Keeps z (State.findSv s port a i n).2 := by
  induction n generalizing s i with
  | zero => exact hK
  | succ n ih => unfold State.findSv; with_reducible repeat' (first | assumption | (extract_lets +implicits +onlyGivenNames x; first | (refine Keeps.named (z := z) (x := x) ?_ fun hx => ?_; (on_goal 1 => dsimp -zeta only [x]; clear x); (on_goal 2 => clear_value x)) | (refine Keeps.named_snd (z := z) (x := x) ?_ fun hx => ?_; (on_goal 1 => dsimp -zeta only [x]; clear x); (on_goal 2 => clear_value x)) | clear_value x) | apply Keeps.ite | split | apply ih | apply State.memRead_keeps | refine Keeps.of_pair (by assumption) (State.memRead_keeps _ _ _ ?_) | fail_if_no_progress refine Keeps.of_mk ?_ | refine Keeps.of_pair (by assumption) ?_ | refine Keeps.of_pair_fst (by assumption) ?_)

theorem State.putSample_keeps {z s : State} (e : List Byte) (x : SvSample) (test : Bool) (hK : Keeps z s) : Keeps z (State.putSample s e x test) := by
  unfold State.putSample; with_reducible repeat' (first | assumption | apply State.memWrite_keeps | fail_if_no_progress refine Keeps.of_mk ?_)

theorem State.acceptSv_keeps {z s : State} (v : Nat) (arrival : Nat) (e : List Byte) (a : SvAsdu) (hK : Keeps z s) : Keeps z (State.acceptSv s v arrival e a) := by
  unfold State.acceptSv; with_reducible repeat' (first | assumption | intro x y hx | (extract_lets +implicits +onlyGivenNames x; first | (refine Keeps.named (z := z) (x := x) ?_ fun hx => ?_; (on_goal 1 => dsimp -zeta only [x]; clear x); (on_goal 2 => clear_value x)) | (refine Keeps.named_snd (z := z) (x := x) ?_ fun hx => ?_; (on_goal 1 => dsimp -zeta only [x]; clear x); (on_goal 2 => clear_value x)) | (refine Keeps.named_fst (z := z) (x := x) ?_ fun hx => ?_; (on_goal 1 => dsimp -zeta only [x]; clear x); (on_goal 2 => clear_value x)) | clear_value x) | apply Keeps.ite | split | apply State.putSample_keeps | apply State.discard_keeps | apply State.memWrite_keeps | apply State.setSubState_keeps | apply State.wrapInc_keeps | apply Keeps.foldl | apply Keeps.foldl_snd | apply Keeps.foldl_snd2 | apply Keeps.foldl_fst | fail_if_no_progress refine Keeps.of_mk ?_)

theorem State.judgeSv_keeps {z s : State} (v : Nat) (arrival : Nat) (e : List Byte) (bad : Bool) (a : SvAsdu) (hK : Keeps z s) : Keeps z (State.judgeSv s v arrival e bad a) := by
  unfold State.judgeSv; with_reducible repeat' (first | assumption | (extract_lets +implicits +onlyGivenNames x; first | (refine Keeps.named (z := z) (x := x) ?_ fun hx => ?_; (on_goal 1 => dsimp -zeta only [x]; clear x); (on_goal 2 => clear_value x)) | clear_value x) | apply Keeps.ite | split | apply State.discard_keeps | apply State.setSubState_keeps | apply State.acceptSv_keeps | fail_if_no_progress refine Keeps.of_mk ?_)

theorem State.startSv_keeps {z s : State} (port : Nat) (arrival : Nat) (a : SvAsdu) (hK : Keeps z s) : Keeps z (State.startSv s port arrival a) := by
  unfold State.startSv; with_reducible repeat' (first | assumption | (extract_lets +implicits +onlyGivenNames x; first | (refine Keeps.named (z := z) (x := x) ?_ fun hx => ?_; (on_goal 1 => dsimp -zeta only [x]; clear x); (on_goal 2 => clear_value x)) | (refine Keeps.named_snd (z := z) (x := x) ?_ fun hx => ?_; (on_goal 1 => dsimp -zeta only [x]; clear x); (on_goal 2 => clear_value x)) | clear_value x) | apply Keeps.ite | split | apply State.discard_keeps | apply State.findSv_keeps | refine Keeps.of_pair (by assumption) (State.findSv_keeps _ _ _ _ ?_) | apply State.judgeSv_keeps | fail_if_no_progress refine Keeps.of_mk ?_ | refine Keeps.of_pair (by assumption) ?_ | refine Keeps.of_pair_fst (by assumption) ?_)

theorem State.startVertik_keeps {z s : State} (c : VtkCmd) (status : Nat) (hK : Keeps z s) : Keeps z (State.startVertik s c status) := by
  unfold State.startVertik; with_reducible repeat' (first | assumption | (extract_lets +implicits +onlyGivenNames x; first | (refine Keeps.named (z := z) (x := x) ?_ fun hx => ?_; (on_goal 1 => dsimp -zeta only [x]; clear x); (on_goal 2 => clear_value x)) | clear_value x) | apply Keeps.ite | split | apply State.discard_keeps | apply State.answerVertik_keeps | fail_if_no_progress refine Keeps.of_mk ?_)

theorem State.startInput_keeps {z s : State} (i : IngestInput) (hK : Keeps z s) : Keeps z (State.startInput s i) := by
  cases i <;> (unfold State.startInput; with_reducible repeat' (first | assumption | (extract_lets +implicits +onlyGivenNames x; first | (refine Keeps.named (z := z) (x := x) ?_ fun hx => ?_; (on_goal 1 => dsimp -zeta only [x]; clear x); (on_goal 2 => clear_value x)) | clear_value x) | split | assumption | apply State.startGoose_keeps | apply State.startSv_keeps | apply State.startVertik_keeps | fail_if_no_progress refine Keeps.of_mk ?_))

theorem State.ingHoldN_keeps {z s : State} (n : Nat) (hK : Keeps z s) : Keeps z (State.ingHoldN s n) := by
  induction n generalizing s with
  | zero => exact hK
  | succ n ih => unfold State.ingHoldN; with_reducible repeat' (first | assumption | (extract_lets +implicits +onlyGivenNames x; first | (refine Keeps.named (z := z) (x := x) ?_ fun hx => ?_; (on_goal 1 => dsimp -zeta only [x]; clear x); (on_goal 2 => clear_value x)) | clear_value x) | apply Keeps.ite | split | apply ih | apply State.startInput_keeps | fail_if_no_progress refine Keeps.of_mk ?_ | refine Keeps.of_pair (by assumption) ?_ | refine Keeps.of_pair_fst (by assumption) ?_)

theorem State.ingOne_keeps {z s : State} (hK : Keeps z s) : Keeps z (State.ingOne s) := by
  unfold State.ingOne; with_reducible repeat' (first | assumption | (extract_lets +implicits +onlyGivenNames x; first | (refine Keeps.named (z := z) (x := x) ?_ fun hx => ?_; (on_goal 1 => dsimp -zeta only [x]; clear x); (on_goal 2 => clear_value x)) | clear_value x) | split | apply State.writePoint_keeps | apply State.ingHoldN_keeps | apply State.wr_keeps | fail_if_no_progress refine Keeps.of_mk ?_ | refine Keeps.of_pair (by assumption) ?_ | refine Keeps.of_pair_fst (by assumption) ?_)

theorem State.ingRunN_keeps {z s : State} (n : Nat) (hK : Keeps z s) : Keeps z (State.ingRunN s n) := by
  induction n generalizing s with
  | zero => exact hK
  | succ n ih => unfold State.ingRunN; with_reducible repeat' (first | assumption | (extract_lets +implicits +onlyGivenNames x; first | (refine Keeps.named (z := z) (x := x) ?_ fun hx => ?_; (on_goal 1 => dsimp -zeta only [x]; clear x); (on_goal 2 => clear_value x)) | clear_value x) | apply Keeps.ite | split | apply ih | apply State.writePoint_keeps | apply State.startInput_keeps | fail_if_no_progress refine Keeps.of_mk ?_ | refine Keeps.of_pair (by assumption) ?_ | refine Keeps.of_pair_fst (by assumption) ?_)

theorem State.ingRun_keeps {z s : State} (hK : Keeps z s) : Keeps z (State.ingRun s) := by
  unfold State.ingRun; with_reducible repeat' (first | assumption | (extract_lets +implicits +onlyGivenNames x; first | (refine Keeps.named (z := z) (x := x) ?_ fun hx => ?_; (on_goal 1 => dsimp -zeta only [x]; clear x); (on_goal 2 => clear_value x)) | clear_value x) | apply Keeps.ite | split | apply State.ingRunN_keeps | apply State.wr_keeps | fail_if_no_progress refine Keeps.of_mk ?_)

theorem State.unitsResume_keeps {z s : State} (hK : Keeps z s) : Keeps z (State.unitsResume s) := by
  unfold State.unitsResume; with_reducible repeat' (first | assumption | apply State.reloadDogs_keeps | apply State.ingRun_keeps | fail_if_no_progress refine Keeps.of_mk ?_)

theorem State.ingEnter_keeps {z s : State} (i : IngestInput) (hK : Keeps z s) : Keeps z (State.ingEnter s i) := by
  unfold State.ingEnter; with_reducible repeat' (first | assumption | (extract_lets +implicits +onlyGivenNames x; first | (refine Keeps.named (z := z) (x := x) ?_ fun hx => ?_; (on_goal 1 => dsimp -zeta only [x]; clear x); (on_goal 2 => clear_value x)) | clear_value x) | apply Keeps.ite | split | apply State.discard_keeps | apply State.raise_keeps | apply State.vtkFinish_keeps | apply State.ingRun_keeps | fail_if_no_progress refine Keeps.of_mk ?_ | refine Keeps.of_pair (by assumption) ?_ | refine Keeps.of_pair_fst (by assumption) ?_)

theorem State.ingFrame_keeps {z s : State} (i : IngestInput) (hK : Keeps z s) : Keeps z (State.ingFrame s i) := by
  unfold State.ingFrame; with_reducible repeat' (first | assumption | apply Keeps.ite | split | apply State.discard_keeps | apply State.ingEnter_keeps | fail_if_no_progress refine Keeps.of_mk ?_)

theorem State.inputArrives_keeps {z s : State} (i : IngestInput) (j : JInput) (port : Nat) (raw : List Byte) (hK : Keeps z s) : Keeps z (State.inputArrives s i j port raw) := by
  unfold State.inputArrives; with_reducible repeat' (first | assumption | (extract_lets +implicits +onlyGivenNames x; first | (refine Keeps.named (z := z) (x := x) ?_ fun hx => ?_; (on_goal 1 => dsimp -zeta only [x]; clear x); (on_goal 2 => clear_value x)) | clear_value x) | apply Keeps.ite | split | apply State.journalIn_keeps | apply State.archiveInput_keeps | apply State.ingFrame_keeps | fail_if_no_progress refine Keeps.of_mk ?_)

theorem execGooseFrame_keeps {z s : State} (t : Nat) (port : Nat) (g : Goose) (hK : Keeps z s) : KeepsR z (execGooseFrame t port g s) := by
  unfold execGooseFrame; with_reducible repeat' (first | assumption | refine KeepsR.of_next ?_ | (extract_lets +implicits +onlyGivenNames x; first | (refine Keeps.named (z := z) (x := x) ?_ fun hx => ?_; (on_goal 1 => dsimp -zeta only [x]; clear x); (on_goal 2 => clear_value x)) | clear_value x) | apply State.at_keeps | apply State.inputArrives_keeps | fail_if_no_progress refine Keeps.of_mk ?_)

theorem execSvAsdu_keeps {z s : State} (t : Nat) (port : Nat) (a : SvAsdu) (hK : Keeps z s) : KeepsR z (execSvAsdu t port a s) := by
  unfold execSvAsdu; with_reducible repeat' (first | assumption | refine KeepsR.of_next ?_ | (extract_lets +implicits +onlyGivenNames x; first | (refine Keeps.named (z := z) (x := x) ?_ fun hx => ?_; (on_goal 1 => dsimp -zeta only [x]; clear x); (on_goal 2 => clear_value x)) | clear_value x) | apply State.at_keeps | apply State.inputArrives_keeps | fail_if_no_progress refine Keeps.of_mk ?_)

theorem State.superviseEnter_keeps {z s : State} (sub : Nat) (ws : List (Nat × PtUpd)) (hK : Keeps z s) : Keeps z (State.superviseEnter s sub ws) := by
  unfold State.superviseEnter; with_reducible repeat' (first | assumption | apply State.archiveInput_keeps | apply State.ingEnter_keeps | fail_if_no_progress refine Keeps.of_mk ?_)

theorem State.superviseGoose_keeps {z s : State} (g : Nat) (hK : Keeps z s) : Keeps z (State.superviseGoose s g) := by
  unfold State.superviseGoose; with_reducible repeat' (first | assumption | (extract_lets +implicits +onlyGivenNames x; first | (refine Keeps.named (z := z) (x := x) ?_ fun hx => ?_; (on_goal 1 => dsimp -zeta only [x]; clear x); (on_goal 2 => clear_value x)) | (refine Keeps.named_snd (z := z) (x := x) ?_ fun hx => ?_; (on_goal 1 => dsimp -zeta only [x]; clear x); (on_goal 2 => clear_value x)) | clear_value x) | apply Keeps.ite | split | apply State.memRead_keeps | refine Keeps.of_pair (by assumption) (State.memRead_keeps _ _ _ ?_) | apply State.setSubState_keeps | apply State.superviseEnter_keeps | fail_if_no_progress refine Keeps.of_mk ?_ | refine Keeps.of_pair (by assumption) ?_ | refine Keeps.of_pair_fst (by assumption) ?_)

theorem execSupervisionCheck_keeps {z s : State} (t : Nat) (hK : Keeps z s) : KeepsR z (execSupervisionCheck t s) := by
  unfold execSupervisionCheck; with_reducible repeat' (first | assumption | refine KeepsR.of_next ?_ | intro x y hx | apply State.superviseGoose_keeps | apply State.at_keeps | apply Keeps.foldl | apply Keeps.foldl_snd | apply Keeps.foldl_snd2 | apply Keeps.foldl_fst | fail_if_no_progress refine Keeps.of_mk ?_)

theorem execSvStreamTimeout_keeps {z s : State} (t : Nat) (v : Nat) (hK : Keeps z s) : KeepsR z (execSvStreamTimeout t v s) := by
  unfold execSvStreamTimeout; with_reducible repeat' (first | assumption | refine KeepsR.of_next ?_ | (extract_lets +implicits +onlyGivenNames x; first | (refine Keeps.named (z := z) (x := x) ?_ fun hx => ?_; (on_goal 1 => dsimp -zeta only [x]; clear x); (on_goal 2 => clear_value x)) | (refine Keeps.named_snd (z := z) (x := x) ?_ fun hx => ?_; (on_goal 1 => dsimp -zeta only [x]; clear x); (on_goal 2 => clear_value x)) | clear_value x) | apply Keeps.ite | split | apply State.at_keeps | apply State.memRead_keeps | refine Keeps.of_pair (by assumption) (State.memRead_keeps _ _ _ ?_) | apply State.setSubState_keeps | apply State.superviseEnter_keeps | fail_if_no_progress refine Keeps.of_mk ?_ | refine Keeps.of_pair (by assumption) ?_ | refine Keeps.of_pair_fst (by assumption) ?_)

theorem State.ingInit_keeps {z s : State} (hK : Keeps z s) : Keeps z (State.ingInit s) := by
  unfold State.ingInit; with_reducible repeat' (first | assumption | apply Keeps.ite | split | apply State.set1_keeps | fail_if_no_progress refine Keeps.of_mk ?_)

theorem execIngInit_keeps {z s : State} (t : Nat) (hK : Keeps z s) : KeepsR z (execIngInit t s) := by
  unfold execIngInit; with_reducible repeat' (first | assumption | refine KeepsR.of_next ?_ | apply State.at_keeps | apply State.ingInit_keeps | fail_if_no_progress refine Keeps.of_mk ?_)

theorem execInitFillComplete_keeps {z s : State} (t : Nat) (hK : Keeps z s) : KeepsR z (execInitFillComplete t s) := by
  unfold execInitFillComplete; with_reducible repeat' (first | assumption | refine KeepsR.of_next ?_ | intro x y hx | (extract_lets +implicits +onlyGivenNames x; first | (refine Keeps.named (z := z) (x := x) ?_ fun hx => ?_; (on_goal 1 => dsimp -zeta only [x]; clear x); (on_goal 2 => clear_value x)) | (refine Keeps.named_snd (z := z) (x := x) ?_ fun hx => ?_; (on_goal 1 => dsimp -zeta only [x]; clear x); (on_goal 2 => clear_value x)) | (refine Keeps.named_fst (z := z) (x := x) ?_ fun hx => ?_; (on_goal 1 => dsimp -zeta only [x]; clear x); (on_goal 2 => clear_value x)) | clear_value x) | apply Keeps.ite | split | apply State.at_keeps | apply State.memWrite_keeps | apply State.wr_keeps | apply State.ingRun_keeps | apply Keeps.foldl | apply Keeps.foldl_snd | apply Keeps.foldl_snd2 | apply Keeps.foldl_fst | fail_if_no_progress refine Keeps.of_mk ?_)

end Sys2Proof.Machine
end

