-- ==== Sys2Proof/Laws/KeepsArrays.lean ====
section
/-! SUPPORT. What the functions of Arrays keep (see Keeps). -/

set_option linter.all false

namespace Sys2Proof.Machine

theorem State.putArray_keeps {z s : State} (h : Nat) (off : Nat) (w : Word) (hK : Keeps z s) : Keeps z (State.putArray s h off w) := by
  unfold State.putArray; with_reducible repeat' (first | assumption | apply State.setArr_keeps | apply State.wake_keeps | fail_if_no_progress refine Keeps.of_mk ?_)

theorem State.dropWall_keeps {z s : State} (h : Nat) (hK : Keeps z s) : Keeps z (State.dropWall s h) := by
  unfold State.dropWall; with_reducible repeat' (first | assumption | apply State.satInc_keeps | fail_if_no_progress refine Keeps.of_mk ?_)

theorem State.derCollision_keeps {z s : State} (h : Nat) (hK : Keeps z s) : Keeps z (State.derCollision s h) := by
  unfold State.derCollision; with_reducible repeat' (first | assumption | apply State.satInc_keeps | apply State.wr_keeps | fail_if_no_progress refine Keeps.of_mk ?_)

theorem State.edgeArray_keeps {z s : State} (h : Nat) (off : Nat) (f : EdgeWrites → EdgeWrites) (hK : Keeps z s) : Keeps z (State.edgeArray s h off f) := by
  unfold State.edgeArray; with_reducible repeat' (first | assumption | (extract_lets +implicits +onlyGivenNames x; first | (refine Keeps.named (z := z) (x := x) ?_ fun hx => ?_; (on_goal 1 => dsimp -zeta only [x]; clear x); (on_goal 2 => clear_value x)) | clear_value x) | apply Keeps.ite | split | apply State.dropWall_keeps | apply State.derCollision_keeps | apply State.putArray_keeps | fail_if_no_progress refine Keeps.of_mk ?_)

theorem State.rimArray_keeps {z s : State} (h : Nat) (off : Nat) (w : Word) (hK : Keeps z s) : Keeps z (State.rimArray s h off w) := by
  unfold State.rimArray; with_reducible repeat' (first | assumption | (extract_lets +implicits +onlyGivenNames x; first | (refine Keeps.named (z := z) (x := x) ?_ fun hx => ?_; (on_goal 1 => dsimp -zeta only [x]; clear x); (on_goal 2 => clear_value x)) | clear_value x) | split | apply State.edgeArray_keeps | fail_if_no_progress refine Keeps.of_mk ?_)

theorem State.derArray_keeps {z s : State} (h : Nat) (off : Nat) (mask : Nat) (v : Nat) (hK : Keeps z s) : Keeps z (State.derArray s h off mask v) := by
  unfold State.derArray; with_reducible repeat' (first | assumption | (extract_lets +implicits +onlyGivenNames x; first | (refine Keeps.named (z := z) (x := x) ?_ fun hx => ?_; (on_goal 1 => dsimp -zeta only [x]; clear x); (on_goal 2 => clear_value x)) | clear_value x) | split | apply State.edgeArray_keeps | fail_if_no_progress refine Keeps.of_mk ?_)

theorem State.cadArray_keeps {z s : State} (h : Nat) (off : Nat) (p : Word × Word) (hK : Keeps z s) : Keeps z (State.cadArray s h off p) := by
  unfold State.cadArray; with_reducible repeat' (first | assumption | (extract_lets +implicits +onlyGivenNames x; first | (refine Keeps.named (z := z) (x := x) ?_ fun hx => ?_; (on_goal 1 => dsimp -zeta only [x]; clear x); (on_goal 2 => clear_value x)) | clear_value x) | split | apply State.edgeArray_keeps | fail_if_no_progress refine Keeps.of_mk ?_)

theorem State.ignoreArray_keeps {z s : State} (h : Nat) (off : Nat) (reason : Nat) (hK : Keeps z s) : Keeps z (State.ignoreArray s h off reason) := by
  unfold State.ignoreArray; with_reducible repeat' (first | assumption | (extract_lets +implicits +onlyGivenNames x; first | (refine Keeps.named (z := z) (x := x) ?_ fun hx => ?_; (on_goal 1 => dsimp -zeta only [x]; clear x); (on_goal 2 => clear_value x)) | clear_value x) | apply Keeps.ite | split | apply State.satInc_keeps | apply State.wr_keeps | apply State.raise_keeps | fail_if_no_progress refine Keeps.of_mk ?_)

end Sys2Proof.Machine
end

