-- ==== Sys2Proof/Laws/KeepsDerailleur.lean ====
section
/-! SUPPORT. What the functions of Derailleur keep (see Keeps). -/

set_option linter.all false

namespace Sys2Proof.Machine

theorem State.placeReeval_keeps {z s : State} (p : Nat) (hK : Keeps z s) : Keeps z (State.placeReeval s p) := by
  unfold State.placeReeval; with_reducible repeat' (first | assumption | (extract_lets +implicits +onlyGivenNames x; first | (refine Keeps.named (z := z) (x := x) ?_ fun hx => ?_; (on_goal 1 => dsimp -zeta only [x]; clear x); (on_goal 2 => clear_value x)) | clear_value x) | apply Keeps.ite | split | apply State.derPush_keeps | apply State.wr_keeps | fail_if_no_progress refine Keeps.of_mk ?_)

theorem State.fillN_keeps {z s : State} (n : Nat) (hK : Keeps z s) : Keeps z (State.fillN s n) := by
  induction n generalizing s with
  | zero => exact hK
  | succ n ih => unfold State.fillN; with_reducible repeat' (first | assumption | (extract_lets +implicits +onlyGivenNames x; first | (refine Keeps.named (z := z) (x := x) ?_ fun hx => ?_; (on_goal 1 => dsimp -zeta only [x]; clear x); (on_goal 2 => clear_value x)) | clear_value x) | apply Keeps.ite | split | apply ih | apply State.ingOne_keeps | apply State.derPush_keeps | apply State.placeReeval_keeps | fail_if_no_progress refine Keeps.of_mk ?_ | refine Keeps.of_pair (by assumption) ?_ | refine Keeps.of_pair_fst (by assumption) ?_)

theorem State.derPop_keeps {z s : State} (hK : Keeps z s) : Keeps z (State.derPop s) := by
  unfold State.derPop; with_reducible repeat' (first | assumption | (extract_lets +implicits +onlyGivenNames x; first | (refine Keeps.named (z := z) (x := x) ?_ fun hx => ?_; (on_goal 1 => dsimp -zeta only [x]; clear x); (on_goal 2 => clear_value x)) | clear_value x) | apply State.headRecord_keeps | apply State.wr_keeps | apply State.fillN_keeps | fail_if_no_progress refine Keeps.of_mk ?_)

theorem State.skipEcc_keeps {z s : State} (r : Nat) (hK : Keeps z s) : Keeps z (State.skipEcc s r) := by
  unfold State.skipEcc; with_reducible repeat' (first | assumption | apply State.satInc_keeps | apply State.wr_keeps | fail_if_no_progress refine Keeps.of_mk ?_)

theorem State.skipEncoding_keeps {z s : State} (r : Nat) (hK : Keeps z s) : Keeps z (State.skipEncoding s r) := by
  unfold State.skipEncoding; with_reducible repeat' (first | assumption | apply State.satInc_keeps | apply State.wr_keeps | apply State.raise_keeps | fail_if_no_progress refine Keeps.of_mk ?_)

theorem State.setFront_keeps {z s : State} (e : DerEntry) (hK : Keeps z s) : Keeps z (State.setFront s e) := by
  unfold State.setFront; with_reducible repeat' (first | assumption | (extract_lets +implicits +onlyGivenNames x; first | (refine Keeps.named (z := z) (x := x) ?_ fun hx => ?_; (on_goal 1 => dsimp -zeta only [x]; clear x); (on_goal 2 => clear_value x)) | clear_value x) | fail_if_no_progress refine Keeps.of_mk ?_)

theorem State.openFrontN_keeps {z s : State} (n : Nat) (hK : Keeps z s) : Keeps z (State.openFrontN s n) := by
  induction n generalizing s with
  | zero => exact hK
  | succ n ih => unfold State.openFrontN; with_reducible repeat' (first | assumption | (extract_lets +implicits +onlyGivenNames x; first | (refine Keeps.named (z := z) (x := x) ?_ fun hx => ?_; (on_goal 1 => dsimp -zeta only [x]; clear x); (on_goal 2 => clear_value x)) | (refine Keeps.named_snd (z := z) (x := x) ?_ fun hx => ?_; (on_goal 1 => dsimp -zeta only [x]; clear x); (on_goal 2 => clear_value x)) | clear_value x) | apply Keeps.ite | split | apply ih | apply State.memRead_keeps | refine Keeps.of_pair (by assumption) (State.memRead_keeps _ _ _ ?_) | apply State.skipEcc_keeps | apply State.derPop_keeps | apply State.skipEncoding_keeps | apply State.setFront_keeps | fail_if_no_progress refine Keeps.of_mk ?_ | refine Keeps.of_pair (by assumption) ?_ | refine Keeps.of_pair_fst (by assumption) ?_)

theorem State.issueAction_keeps {z s : State} (e : DerEntry) (p : PointRec) (n : Nat) (r : Rule) (hK : Keeps z s) : Keeps z (State.issueAction s e p n r) := by
  unfold State.issueAction; with_reducible repeat' (first | assumption | (extract_lets +implicits +onlyGivenNames x; first | (refine Keeps.named (z := z) (x := x) ?_ fun hx => ?_; (on_goal 1 => dsimp -zeta only [x]; clear x); (on_goal 2 => clear_value x)) | clear_value x) | apply Keeps.ite | split | fail_if_no_progress refine Keeps.of_mk ?_)

theorem State.issueRule_keeps {z s : State} (e : DerEntry) (n : Nat) (hK : Keeps z s) : Keeps z (State.issueRule s e n) := by
  unfold State.issueRule; with_reducible repeat' (first | assumption | (extract_lets +implicits +onlyGivenNames x; first | (refine Keeps.named (z := z) (x := x) ?_ fun hx => ?_; (on_goal 1 => dsimp -zeta only [x]; clear x); (on_goal 2 => clear_value x)) | (refine Keeps.named_snd (z := z) (x := x) ?_ fun hx => ?_; (on_goal 1 => dsimp -zeta only [x]; clear x); (on_goal 2 => clear_value x)) | clear_value x) | apply Keeps.ite | split | apply State.wr64_keeps | apply State.memRead_keeps | refine Keeps.of_pair (by assumption) (State.memRead_keeps _ _ _ ?_) | apply State.issueAction_keeps | apply State.skipEncoding_keeps | apply State.skipEcc_keeps | fail_if_no_progress refine Keeps.of_mk ?_ | refine Keeps.of_pair (by assumption) ?_ | refine Keeps.of_pair_fst (by assumption) ?_)

theorem State.evalFront_keeps {z s : State} (hK : Keeps z s) : Keeps z (State.evalFront s) := by
  unfold State.evalFront; with_reducible repeat' (first | assumption | (extract_lets +implicits +onlyGivenNames x; first | (refine Keeps.named (z := z) (x := x) ?_ fun hx => ?_; (on_goal 1 => dsimp -zeta only [x]; clear x); (on_goal 2 => clear_value x)) | clear_value x) | apply Keeps.ite | split | apply State.issueRule_keeps | apply State.derPop_keeps | apply State.setFront_keeps | fail_if_no_progress refine Keeps.of_mk ?_ | refine Keeps.of_pair (by assumption) ?_ | refine Keeps.of_pair_fst (by assumption) ?_)

theorem execRuleEvaluation_keeps {z s : State} (t : Nat) (hK : Keeps z s) : KeepsR z (execRuleEvaluation t s) := by
  unfold execRuleEvaluation; with_reducible repeat' (first | assumption | refine KeepsR.of_next ?_ | (extract_lets +implicits +onlyGivenNames x; first | (refine Keeps.named (z := z) (x := x) ?_ fun hx => ?_; (on_goal 1 => dsimp -zeta only [x]; clear x); (on_goal 2 => clear_value x)) | clear_value x) | apply Keeps.ite | split | apply State.at_keeps | apply State.openFrontN_keeps | apply State.evalFront_keeps | fail_if_no_progress refine Keeps.of_mk ?_)

theorem State.derReeval_keeps {z s : State} (p : Nat) (hK : Keeps z s) : Keeps z (State.derReeval s p) := by
  unfold State.derReeval; with_reducible repeat' (first | assumption | (extract_lets +implicits +onlyGivenNames x; first | (refine Keeps.named (z := z) (x := x) ?_ fun hx => ?_; (on_goal 1 => dsimp -zeta only [x]; clear x); (on_goal 2 => clear_value x)) | clear_value x) | apply Keeps.ite | split | apply State.ignoreWrite_keeps | apply State.derPush_keeps | fail_if_no_progress refine Keeps.of_mk ?_)

theorem execDerReeval_keeps {z s : State} (t : Nat) (p : Nat) (hK : Keeps z s) : KeepsR z (execDerReeval t p s) := by
  unfold execDerReeval; with_reducible repeat' (first | assumption | refine KeepsR.of_next ?_ | apply State.at_keeps | apply State.derReeval_keeps | fail_if_no_progress refine Keeps.of_mk ?_)

theorem State.reevalAll_keeps {z s : State} (hK : Keeps z s) : Keeps z (State.reevalAll s) := by
  unfold State.reevalAll; with_reducible repeat' (first | assumption | (extract_lets +implicits +onlyGivenNames x; first | (refine Keeps.named (z := z) (x := x) ?_ fun hx => ?_; (on_goal 1 => dsimp -zeta only [x]; clear x); (on_goal 2 => clear_value x)) | clear_value x) | apply Keeps.ite | split | apply State.ignoreWrite_keeps | apply State.set1_keeps | apply State.placeReeval_keeps | fail_if_no_progress refine Keeps.of_mk ?_)

theorem execReevalAll_keeps {z s : State} (t : Nat) (hK : Keeps z s) : KeepsR z (execReevalAll t s) := by
  unfold execReevalAll; with_reducible repeat' (first | assumption | refine KeepsR.of_next ?_ | apply State.at_keeps | apply State.reevalAll_keeps | fail_if_no_progress refine Keeps.of_mk ?_)

theorem State.derDisable_keeps {z s : State} (hK : Keeps z s) : Keeps z (State.derDisable s) := by
  unfold State.derDisable; with_reducible repeat' (first | assumption | (extract_lets +implicits +onlyGivenNames x; first | (refine Keeps.named (z := z) (x := x) ?_ fun hx => ?_; (on_goal 1 => dsimp -zeta only [x]; clear x); (on_goal 2 => clear_value x)) | clear_value x) | apply State.wr_keeps | apply State.ingRun_keeps | fail_if_no_progress refine Keeps.of_mk ?_)

theorem execDerailleurDisable_keeps {z s : State} (t : Nat) (hK : Keeps z s) : KeepsR z (execDerailleurDisable t s) := by
  unfold execDerailleurDisable; with_reducible repeat' (first | assumption | refine KeepsR.of_next ?_ | apply State.at_keeps | apply State.derDisable_keeps | fail_if_no_progress refine Keeps.of_mk ?_)

theorem State.writePhoton_keeps {z s : State} (p : Photon) (status : Nat) (head : Nat) (line : Nat) (pixel : Nat) (time : Nat) (hK : Keeps z s) : Keeps z (State.writePhoton s p status head line pixel time) := by
  unfold State.writePhoton; with_reducible repeat' (first | assumption | (extract_lets +implicits +onlyGivenNames x; first | (refine Keeps.named (z := z) (x := x) ?_ fun hx => ?_; (on_goal 1 => dsimp -zeta only [x]; clear x); (on_goal 2 => clear_value x)) | clear_value x) | apply Keeps.ite | split | apply State.memWrite_keeps | apply State.wrapInc_keeps | apply State.archive_keeps | fail_if_no_progress refine Keeps.of_mk ?_)

theorem State.dropPhoton_keeps {z s : State} (p : Photon) (hK : Keeps z s) : Keeps z (State.dropPhoton s p) := by
  unfold State.dropPhoton; with_reducible repeat' (first | assumption | (extract_lets +implicits +onlyGivenNames x; first | (refine Keeps.named (z := z) (x := x) ?_ fun hx => ?_; (on_goal 1 => dsimp -zeta only [x]; clear x); (on_goal 2 => clear_value x)) | clear_value x) | fail_if_no_progress refine Keeps.of_mk ?_)

theorem State.endPhoton_keeps {z s : State} (p : Photon) (e : PhotonEnd) (hK : Keeps z s) : Keeps z (State.endPhoton s p e) := by
  unfold State.endPhoton; with_reducible repeat' (first | assumption | apply Keeps.ite | split | apply State.dropPhoton_keeps | apply State.writePhoton_keeps | fail_if_no_progress refine Keeps.of_mk ?_)

theorem State.closePhoton_keeps {z s : State} (status : Nat) (p : Photon) (hK : Keeps z s) : Keeps z (State.closePhoton s status p) := by
  unfold State.closePhoton; with_reducible repeat' (first | assumption | apply State.endPhoton_keeps | fail_if_no_progress refine Keeps.of_mk ?_)

theorem State.overtake_keeps {z s : State} (p : Photon) (hK : Keeps z s) : Keeps z (State.overtake s p) := by
  unfold State.overtake; with_reducible repeat' (first | assumption | apply State.endPhoton_keeps | fail_if_no_progress refine Keeps.of_mk ?_)

theorem State.beginPhoton_keeps {z s : State} (p : Photon) (hK : Keeps z s) : Keeps z (State.beginPhoton s p) := by
  unfold State.beginPhoton; with_reducible repeat' (first | assumption | intro x y hx | (extract_lets +implicits +onlyGivenNames x; first | (refine Keeps.named (z := z) (x := x) ?_ fun hx => ?_; (on_goal 1 => dsimp -zeta only [x]; clear x); (on_goal 2 => clear_value x)) | (refine Keeps.named_snd (z := z) (x := x) ?_ fun hx => ?_; (on_goal 1 => dsimp -zeta only [x]; clear x); (on_goal 2 => clear_value x)) | (refine Keeps.named_fst (z := z) (x := x) ?_ fun hx => ?_; (on_goal 1 => dsimp -zeta only [x]; clear x); (on_goal 2 => clear_value x)) | clear_value x) | apply Keeps.ite | split | apply State.overtake_keeps | apply State.closePhoton_keeps | apply Keeps.foldl | apply Keeps.foldl_snd | apply Keeps.foldl_snd2 | apply Keeps.foldl_fst | fail_if_no_progress refine Keeps.of_mk ?_)

theorem State.photonFrameEnd_keeps {z s : State} (h : Nat) (start : Nat) (scanned : Bool) (hK : Keeps z s) : Keeps z (State.photonFrameEnd s h start scanned) := by
  unfold State.photonFrameEnd; with_reducible repeat' (first | assumption | intro x y hx | (extract_lets +implicits +onlyGivenNames x; first | (refine Keeps.named (z := z) (x := x) ?_ fun hx => ?_; (on_goal 1 => dsimp -zeta only [x]; clear x); (on_goal 2 => clear_value x)) | (refine Keeps.named_snd (z := z) (x := x) ?_ fun hx => ?_; (on_goal 1 => dsimp -zeta only [x]; clear x); (on_goal 2 => clear_value x)) | (refine Keeps.named_fst (z := z) (x := x) ?_ fun hx => ?_; (on_goal 1 => dsimp -zeta only [x]; clear x); (on_goal 2 => clear_value x)) | clear_value x) | apply Keeps.ite | split | apply State.closePhoton_keeps | apply Keeps.foldl | apply Keeps.foldl_snd | apply Keeps.foldl_snd2 | apply Keeps.foldl_fst | fail_if_no_progress refine Keeps.of_mk ?_)

theorem execPhotonRecord_keeps {z s : State} (t : Nat) (i : Nat) (hK : Keeps z s) : KeepsR z (execPhotonRecord t i s) := by
  unfold execPhotonRecord; with_reducible repeat' (first | assumption | refine KeepsR.of_next ?_ | (extract_lets +implicits +onlyGivenNames x; first | (refine Keeps.named (z := z) (x := x) ?_ fun hx => ?_; (on_goal 1 => dsimp -zeta only [x]; clear x); (on_goal 2 => clear_value x)) | clear_value x) | apply Keeps.ite | split | apply State.at_keeps | apply State.endPhoton_keeps | apply State.closePhoton_keeps | fail_if_no_progress refine Keeps.of_mk ?_ | refine Keeps.of_pair (by assumption) ?_ | refine Keeps.of_pair_fst (by assumption) ?_)

theorem State.decideLines_keeps {z s : State} (hK : Keeps z s) : Keeps z (State.decideLines s) := by
  unfold State.decideLines; with_reducible repeat' (first | assumption | (extract_lets +implicits +onlyGivenNames x; first | (refine Keeps.named (z := z) (x := x) ?_ fun hx => ?_; (on_goal 1 => dsimp -zeta only [x]; clear x); (on_goal 2 => clear_value x)) | clear_value x) | apply Keeps.ite | split | apply State.before_keeps | fail_if_no_progress refine Keeps.of_mk ?_)

theorem execFieldLineEffect_keeps {z s : State} (t : Nat) (i : Nat) (hK : Keeps z s) : KeepsR z (execFieldLineEffect t i s) := by
  unfold execFieldLineEffect; with_reducible repeat' (first | assumption | refine KeepsR.of_next ?_ | (extract_lets +implicits +onlyGivenNames x; first | (refine Keeps.named (z := z) (x := x) ?_ fun hx => ?_; (on_goal 1 => dsimp -zeta only [x]; clear x); (on_goal 2 => clear_value x)) | clear_value x) | apply Keeps.ite | split | apply State.at_keeps | apply State.endPhoton_keeps | fail_if_no_progress refine Keeps.of_mk ?_ | refine Keeps.of_pair (by assumption) ?_ | refine Keeps.of_pair_fst (by assumption) ?_)

end Sys2Proof.Machine
end

