-- ==== Sys2Proof/Laws/KeepsBellOps.lean ====
section
/-! SUPPORT. What the functions of BellOps keep (see Keeps). -/

set_option linter.all false

namespace Sys2Proof.Machine

theorem State.xpWrite_keeps {z s : State} (gain : Nat) (mode : Nat) (hK : Keeps z s) : Keeps z (State.xpWrite s gain mode) := by
  unfold State.xpWrite; with_reducible repeat' (first | assumption | (extract_lets +implicits +onlyGivenNames x; first | (refine Keeps.named (z := z) (x := x) ?_ fun hx => ?_; (on_goal 1 => dsimp -zeta only [x]; clear x); (on_goal 2 => clear_value x)) | clear_value x) | split | fail_if_no_progress refine Keeps.of_mk ?_)

theorem execBellXpDataWrite_keeps {z s : State} (t : Nat) (gain : Nat) (mode : Nat) (hK : Keeps z s) : KeepsR z (execBellXpDataWrite t gain mode s) := by
  unfold execBellXpDataWrite; with_reducible repeat' (first | assumption | refine KeepsR.of_next ?_ | apply State.at_keeps | apply State.xpWrite_keeps | fail_if_no_progress refine Keeps.of_mk ?_)

theorem State.sinkWrite_keeps {z s : State} (k : Nat) (bus : Nat) (mode : Nat) (hK : Keeps z s) : Keeps z (State.sinkWrite s k bus mode) := by
  unfold State.sinkWrite; with_reducible repeat' (first | assumption | (extract_lets +implicits +onlyGivenNames x; first | (refine Keeps.named (z := z) (x := x) ?_ fun hx => ?_; (on_goal 1 => dsimp -zeta only [x]; clear x); (on_goal 2 => clear_value x)) | clear_value x) | apply Keeps.ite | split | apply State.ignoreWrite_keeps | apply State.wr_keeps | fail_if_no_progress refine Keeps.of_mk ?_)

theorem execBellSinkWrite_keeps {z s : State} (t : Nat) (k : Nat) (bus : Nat) (mode : Nat) (hK : Keeps z s) : KeepsR z (execBellSinkWrite t k bus mode s) := by
  unfold execBellSinkWrite; with_reducible repeat' (first | assumption | refine KeepsR.of_next ?_ | apply State.at_keeps | apply State.sinkWrite_keeps | fail_if_no_progress refine Keeps.of_mk ?_)

theorem State.busGainWrite_keeps {z s : State} (b : Nat) (gain : Nat) (hK : Keeps z s) : Keeps z (State.busGainWrite s b gain) := by
  unfold State.busGainWrite; with_reducible repeat' (first | assumption | (extract_lets +implicits +onlyGivenNames x; first | (refine Keeps.named (z := z) (x := x) ?_ fun hx => ?_; (on_goal 1 => dsimp -zeta only [x]; clear x); (on_goal 2 => clear_value x)) | clear_value x) | split | apply State.wr_keeps | fail_if_no_progress refine Keeps.of_mk ?_)

theorem execBellBusGainWrite_keeps {z s : State} (t : Nat) (b : Nat) (gain : Nat) (hK : Keeps z s) : KeepsR z (execBellBusGainWrite t b gain s) := by
  unfold execBellBusGainWrite; with_reducible repeat' (first | assumption | refine KeepsR.of_next ?_ | apply State.at_keeps | apply State.busGainWrite_keeps | fail_if_no_progress refine Keeps.of_mk ?_)

theorem State.settle_keeps {z s : State} (kind : Nat) (i : Nat) (mode : Nat) (hK : Keeps z s) : Keeps z (State.settle s kind i mode) := by
  unfold State.settle; with_reducible repeat' (first | assumption | (extract_lets +implicits +onlyGivenNames x; first | (refine Keeps.named (z := z) (x := x) ?_ fun hx => ?_; (on_goal 1 => dsimp -zeta only [x]; clear x); (on_goal 2 => clear_value x)) | clear_value x) | apply Keeps.ite | split | fail_if_no_progress refine Keeps.of_mk ?_ | refine Keeps.of_pair (by assumption) ?_ | refine Keeps.of_pair_fst (by assumption) ?_)

theorem execCrossfadeEnd_keeps {z s : State} (t : Nat) (kind : Nat) (i : Nat) (hK : Keeps z s) : KeepsR z (execCrossfadeEnd t kind i s) := by
  unfold execCrossfadeEnd; with_reducible repeat' (first | assumption | refine KeepsR.of_next ?_ | apply State.at_keeps | apply State.settle_keeps | fail_if_no_progress refine Keeps.of_mk ?_)

theorem execZeroCut_keeps {z s : State} (t : Nat) (kind : Nat) (i : Nat) (hK : Keeps z s) : KeepsR z (execZeroCut t kind i s) := by
  unfold execZeroCut; with_reducible repeat' (first | assumption | refine KeepsR.of_next ?_ | apply State.at_keeps | apply State.settle_keeps | fail_if_no_progress refine Keeps.of_mk ?_)

theorem State.refuseCue_keeps {z s : State} (hK : Keeps z s) : Keeps z (State.refuseCue s) := by
  unfold State.refuseCue; with_reducible repeat' (first | assumption | apply State.satInc_keeps | apply State.set1_keeps | fail_if_no_progress refine Keeps.of_mk ?_)

theorem State.cueLands_keeps {z s : State} (c : CueCmd) (hK : Keeps z s) : Keeps z (State.cueLands s c).2 := by
  unfold State.cueLands; with_reducible repeat' (first | assumption | (extract_lets +implicits +onlyGivenNames x; first | (refine Keeps.named (z := z) (x := x) ?_ fun hx => ?_; (on_goal 1 => dsimp -zeta only [x]; clear x); (on_goal 2 => clear_value x)) | clear_value x) | apply Keeps.ite | split | apply State.refuseCue_keeps | fail_if_no_progress refine Keeps.of_mk ?_)

theorem State.cueWrite_keeps {z s : State} (cue : Nat) (arg : Nat) (hK : Keeps z s) : Keeps z (State.cueWrite s cue arg) := by
  unfold State.cueWrite; with_reducible repeat' (first | assumption | apply State.cueLands_keeps | refine Keeps.of_pair (by assumption) (State.cueLands_keeps _ ?_) | fail_if_no_progress refine Keeps.of_mk ?_)

theorem State.bellSwap_keeps {z s : State} (old : State) (rs : List (Nat × Nat)) (hK : Keeps z s) : Keeps z (State.bellSwap s old rs) := by
  unfold State.bellSwap; with_reducible repeat' (first | assumption | intro x y hx | (extract_lets +implicits +onlyGivenNames x; first | (refine Keeps.named (z := z) (x := x) ?_ fun hx => ?_; (on_goal 1 => dsimp -zeta only [x]; clear x); (on_goal 2 => clear_value x)) | (refine Keeps.named_snd (z := z) (x := x) ?_ fun hx => ?_; (on_goal 1 => dsimp -zeta only [x]; clear x); (on_goal 2 => clear_value x)) | (refine Keeps.named_fst (z := z) (x := x) ?_ fun hx => ?_; (on_goal 1 => dsimp -zeta only [x]; clear x); (on_goal 2 => clear_value x)) | clear_value x) | apply Keeps.ite | split | apply State.set1_keeps | apply State.wr_keeps | apply Keeps.foldl | apply Keeps.foldl_snd | apply Keeps.foldl_snd2 | apply Keeps.foldl_fst | fail_if_no_progress refine Keeps.of_mk ?_)

end Sys2Proof.Machine
end

