-- ==== Sys2Proof/Laws/KeepsActionWrite.lean ====
section
/-! SUPPORT. What the functions of ActionWrite keep (see Keeps). -/

set_option linter.all false

namespace Sys2Proof.Machine

theorem State.landed_keeps {z s : State} (old : State) (a : DerAction) (p : State → List Byte) (hK : Keeps z s) : Keeps z (State.landed old s a p) := by
  unfold State.landed; with_reducible repeat' (first | assumption | apply Keeps.ite | split | apply State.beginPhoton_keeps | fail_if_no_progress refine Keeps.of_mk ?_)

theorem State.landMap_keeps {z s : State} (a : DerAction) (hK : Keeps z s) : Keeps z (State.landMap s a) := by
  unfold State.landMap; with_reducible repeat' (first | assumption | (extract_lets +implicits +onlyGivenNames x; first | (refine Keeps.named (z := z) (x := x) ?_ fun hx => ?_; (on_goal 1 => dsimp -zeta only [x]; clear x); (on_goal 2 => clear_value x)) | clear_value x) | apply Keeps.ite | split | apply State.memMasked32_keeps | apply State.landed_keeps | fail_if_no_progress refine Keeps.of_mk ?_)

theorem State.landArray_keeps {z s : State} (a : DerAction) (hK : Keeps z s) : Keeps z (State.landArray s a) := by
  unfold State.landArray; with_reducible repeat' (first | assumption | (extract_lets +implicits +onlyGivenNames x; first | (refine Keeps.named (z := z) (x := x) ?_ fun hx => ?_; (on_goal 1 => dsimp -zeta only [x]; clear x); (on_goal 2 => clear_value x)) | clear_value x) | apply Keeps.ite | split | apply State.derArray_keeps | apply State.beginPhoton_keeps | fail_if_no_progress refine Keeps.of_mk ?_)

theorem State.landCue_keeps {z s : State} (a : DerAction) (hK : Keeps z s) : Keeps z (State.landCue s a) := by
  unfold State.landCue; with_reducible repeat' (first | assumption | (extract_lets +implicits +onlyGivenNames x; first | (refine Keeps.named (z := z) (x := x) ?_ fun hx => ?_; (on_goal 1 => dsimp -zeta only [x]; clear x); (on_goal 2 => clear_value x)) | (refine Keeps.named_snd (z := z) (x := x) ?_ fun hx => ?_; (on_goal 1 => dsimp -zeta only [x]; clear x); (on_goal 2 => clear_value x)) | clear_value x) | apply Keeps.ite | split | apply State.beginPhoton_keeps | apply State.cueLands_keeps | refine Keeps.of_pair (by assumption) (State.cueLands_keeps _ ?_) | apply State.landed_keeps | apply State.closePhoton_keeps | fail_if_no_progress refine Keeps.of_mk ?_ | refine Keeps.of_pair (by assumption) ?_ | refine Keeps.of_pair_fst (by assumption) ?_)

theorem State.landLine_keeps {z s : State} (a : DerAction) (hK : Keeps z s) : Keeps z (State.landLine s a) := by
  unfold State.landLine; with_reducible repeat' (first | assumption | (extract_lets +implicits +onlyGivenNames x; first | (refine Keeps.named (z := z) (x := x) ?_ fun hx => ?_; (on_goal 1 => dsimp -zeta only [x]; clear x); (on_goal 2 => clear_value x)) | clear_value x) | split | apply State.landed_keeps | fail_if_no_progress refine Keeps.of_mk ?_)

theorem State.landAction_keeps {z s : State} (n : Nat) (hK : Keeps z s) : Keeps z (State.landAction s n) := by
  unfold State.landAction; with_reducible repeat' (first | assumption | (extract_lets +implicits +onlyGivenNames x; first | (refine Keeps.named (z := z) (x := x) ?_ fun hx => ?_; (on_goal 1 => dsimp -zeta only [x]; clear x); (on_goal 2 => clear_value x)) | clear_value x) | apply Keeps.ite | split | apply State.wr64_keeps | apply State.landMap_keeps | apply State.landArray_keeps | apply State.landCue_keeps | apply State.landLine_keeps | fail_if_no_progress refine Keeps.of_mk ?_ | refine Keeps.of_pair (by assumption) ?_ | refine Keeps.of_pair_fst (by assumption) ?_)

theorem execActionWrite_keeps {z s : State} (t : Nat) (n : Nat) (hK : Keeps z s) : KeepsR z (execActionWrite t n s) := by
  unfold execActionWrite; with_reducible repeat' (first | assumption | refine KeepsR.of_next ?_ | apply State.at_keeps | apply State.landAction_keeps | fail_if_no_progress refine Keeps.of_mk ?_)

theorem execCueCommand_keeps {z s : State} (t : Nat) (cue : Nat) (arg : Nat) (action : Bool) (hK : Keeps z s) : KeepsR z (execCueCommand t cue arg action s) := by
  unfold execCueCommand; with_reducible repeat' (first | assumption | refine KeepsR.of_next ?_ | (extract_lets +implicits +onlyGivenNames x; first | (refine Keeps.named (z := z) (x := x) ?_ fun hx => ?_; (on_goal 1 => dsimp -zeta only [x]; clear x); (on_goal 2 => clear_value x)) | clear_value x) | apply Keeps.ite | split | apply State.at_keeps | apply State.landAction_keeps | apply State.cueWrite_keeps | fail_if_no_progress refine Keeps.of_mk ?_ | refine Keeps.of_pair (by assumption) ?_ | refine Keeps.of_pair_fst (by assumption) ?_)

end Sys2Proof.Machine
end

