-- ==== Sys2Proof/Laws/KeepsHub.lean ====
section
/-! SUPPORT. What the functions of Hub keep (see Keeps). -/

set_option linter.all false

namespace Sys2Proof.Machine

theorem State.grant_keeps {z s : State} (bank : Nat) (hK : Keeps z s) : Keeps z (State.grant s bank) := by
  unfold State.grant; with_reducible repeat' (first | assumption | (extract_lets +implicits +onlyGivenNames x; first | (refine Keeps.named (z := z) (x := x) ?_ fun hx => ?_; (on_goal 1 => dsimp -zeta only [x]; clear x); (on_goal 2 => clear_value x)) | (refine Keeps.hub x ?_; subst x) | clear_value x) | split | fail_if_no_progress refine Keeps.of_mk ?_)

theorem State.useSlot_keeps {z s : State} (req : Nat) (bank : Nat) (hK : Keeps z s) : Keeps z (State.useSlot s req bank) := by
  unfold State.useSlot; with_reducible repeat' (first | assumption | (extract_lets +implicits +onlyGivenNames x; first | (refine Keeps.named (z := z) (x := x) ?_ fun hx => ?_; (on_goal 1 => dsimp -zeta only [x]; clear x); (on_goal 2 => clear_value x)) | (refine Keeps.hub x ?_; subst x) | clear_value x) | apply Keeps.ite | split | fail_if_no_progress refine Keeps.of_mk ?_)

theorem State.serveAccess_keeps {z s : State} (a : HubAccess) (hK : Keeps z s) : Keeps z (State.serveAccess s a) := by
  unfold State.serveAccess; with_reducible repeat' (first | assumption | (extract_lets +implicits +onlyGivenNames x; first | (refine Keeps.named (z := z) (x := x) ?_ fun hx => ?_; (on_goal 1 => dsimp -zeta only [x]; clear x); (on_goal 2 => clear_value x)) | (refine Keeps.named_snd (z := z) (x := x) ?_ fun hx => ?_; (on_goal 1 => dsimp -zeta only [x]; clear x); (on_goal 2 => clear_value x)) | clear_value x) | split | apply State.memRead_keeps | refine Keeps.of_pair (by assumption) (State.memRead_keeps _ _ _ ?_) | apply State.emit_keeps | apply State.writeLine_keeps | fail_if_no_progress refine Keeps.of_mk ?_ | refine Keeps.of_pair (by assumption) ?_ | refine Keeps.of_pair_fst (by assumption) ?_)

theorem State.setHead_keeps {z s : State} (h : Nat) (x : HeadS) (hK : Keeps z s) : Keeps z (State.setHead s h x) := by
  unfold State.setHead; with_reducible repeat' (first | assumption | (extract_lets +implicits +onlyGivenNames x; first | (refine Keeps.named (z := z) (x := x) ?_ fun hx => ?_; (on_goal 1 => dsimp -zeta only [x]; clear x); (on_goal 2 => clear_value x)) | clear_value x) | split | fail_if_no_progress refine Keeps.of_mk ?_)

theorem State.modHead_keeps {z s : State} (h : Nat) (f : HeadS → HeadS) (hK : Keeps z s) : Keeps z (State.modHead s h f) := by
  unfold State.modHead; with_reducible repeat' (first | assumption | apply State.setHead_keeps | fail_if_no_progress refine Keeps.of_mk ?_)

theorem State.serveHead_keeps {z s : State} (bank : Nat) (off : Nat) (h : Nat) (hK : Keeps z s) : Keeps z (State.serveHead s bank off h) := by
  unfold State.serveHead; with_reducible repeat' (first | assumption | (extract_lets +implicits +onlyGivenNames x; first | (refine Keeps.named (z := z) (x := x) ?_ fun hx => ?_; (on_goal 1 => dsimp -zeta only [x]; clear x); (on_goal 2 => clear_value x)) | (refine Keeps.named_snd (z := z) (x := x) ?_ fun hx => ?_; (on_goal 1 => dsimp -zeta only [x]; clear x); (on_goal 2 => clear_value x)) | clear_value x) | apply Keeps.ite | split | apply State.grant_keeps | apply State.useSlot_keeps | apply State.memRead_keeps | refine Keeps.of_pair (by assumption) (State.memRead_keeps _ _ _ ?_) | apply State.modHead_keeps | fail_if_no_progress refine Keeps.of_mk ?_ | refine Keeps.of_pair (by assumption) ?_ | refine Keeps.of_pair_fst (by assumption) ?_)

theorem execHubSlotAccess_keeps {z s : State} (k : Nat) (bank : Nat) (a : HubAccess) (hK : Keeps z s) : KeepsR z (execHubSlotAccess k bank a s) := by
  unfold execHubSlotAccess; with_reducible repeat' (first | assumption | refine KeepsR.of_next ?_ | (extract_lets +implicits +onlyGivenNames x; first | (refine Keeps.named (z := z) (x := x) ?_ fun hx => ?_; (on_goal 1 => dsimp -zeta only [x]; clear x); (on_goal 2 => clear_value x)) | clear_value x) | apply Keeps.ite | split | apply State.at_keeps | apply State.serveHead_keeps | apply State.grant_keeps | apply State.serveAccess_keeps | fail_if_no_progress refine Keeps.of_mk ?_)

theorem State.scrubLine_keeps {z s : State} (bank : Nat) (hK : Keeps z s) : Keeps z (State.scrubLine s bank) := by
  unfold State.scrubLine; with_reducible repeat' (first | assumption | (extract_lets +implicits +onlyGivenNames x; first | (refine Keeps.named (z := z) (x := x) ?_ fun hx => ?_; (on_goal 1 => dsimp -zeta only [x]; clear x); (on_goal 2 => clear_value x)) | (refine Keeps.named_snd (z := z) (x := x) ?_ fun hx => ?_; (on_goal 1 => dsimp -zeta only [x]; clear x); (on_goal 2 => clear_value x)) | (refine Keeps.hub x ?_; subst x) | clear_value x) | split | apply State.readWords64_keeps | refine Keeps.of_pair (by assumption) (State.readWords64_keeps _ _ _ ?_) | apply State.wr_keeps | fail_if_no_progress refine Keeps.of_mk ?_ | refine Keeps.of_pair (by assumption) ?_ | refine Keeps.of_pair_fst (by assumption) ?_)

theorem execScrubRead_keeps {z s : State} (t : Nat) (bank : Nat) (hK : Keeps z s) : KeepsR z (execScrubRead t bank s) := by
  unfold execScrubRead; with_reducible repeat' (first | assumption | refine KeepsR.of_next ?_ | (extract_lets +implicits +onlyGivenNames x; first | (refine Keeps.named (z := z) (x := x) ?_ fun hx => ?_; (on_goal 1 => dsimp -zeta only [x]; clear x); (on_goal 2 => clear_value x)) | clear_value x) | apply Keeps.ite | split | apply State.at_keeps | apply State.grant_keeps | apply State.scrubLine_keeps | fail_if_no_progress refine Keeps.of_mk ?_)

theorem State.writeBackFirst_keeps {z s : State} (bank : Nat) (hK : Keeps z s) : Keeps z (State.writeBackFirst s bank) := by
  unfold State.writeBackFirst; with_reducible repeat' (first | assumption | (extract_lets +implicits +onlyGivenNames x; first | (refine Keeps.named (z := z) (x := x) ?_ fun hx => ?_; (on_goal 1 => dsimp -zeta only [x]; clear x); (on_goal 2 => clear_value x)) | (refine Keeps.hub x ?_; subst x) | clear_value x) | split | apply State.setMemBytes_keeps | apply State.setFlips_keeps | apply State.grant_keeps | fail_if_no_progress refine Keeps.of_mk ?_ | refine Keeps.of_pair (by assumption) ?_ | refine Keeps.of_pair_fst (by assumption) ?_)

theorem execEccWriteBack_keeps {z s : State} (t : Nat) (bank : Nat) (hK : Keeps z s) : KeepsR z (execEccWriteBack t bank s) := by
  unfold execEccWriteBack; with_reducible repeat' (first | assumption | refine KeepsR.of_next ?_ | (extract_lets +implicits +onlyGivenNames x; first | (refine Keeps.named (z := z) (x := x) ?_ fun hx => ?_; (on_goal 1 => dsimp -zeta only [x]; clear x); (on_goal 2 => clear_value x)) | clear_value x) | apply Keeps.ite | split | apply State.at_keeps | apply State.writeBackFirst_keeps | fail_if_no_progress refine Keeps.of_mk ?_)

theorem State.startSpare_keeps {z s : State} (sp : Spare) (hK : Keeps z s) : Keeps z (State.startSpare s sp) := by
  unfold State.startSpare; with_reducible repeat' (first | assumption | (extract_lets +implicits +onlyGivenNames x; first | (refine Keeps.named (z := z) (x := x) ?_ fun hx => ?_; (on_goal 1 => dsimp -zeta only [x]; clear x); (on_goal 2 => clear_value x)) | (refine Keeps.hub x ?_; subst x) | clear_value x) | apply Keeps.ite | split | apply State.set1_keeps | apply State.satInc_keeps | apply State.raise_keeps | fail_if_no_progress refine Keeps.of_mk ?_)

theorem State.repairWord_keeps {z s : State} (wi : Nat) (b : Nat) (hK : Keeps z s) : Keeps z (State.repairWord s wi b) := by
  unfold State.repairWord; with_reducible repeat' (first | assumption | (extract_lets +implicits +onlyGivenNames x; first | (refine Keeps.named (z := z) (x := x) ?_ fun hx => ?_; (on_goal 1 => dsimp -zeta only [x]; clear x); (on_goal 2 => clear_value x)) | (refine Keeps.hub x ?_; subst x) | clear_value x) | apply Keeps.ite | split | apply State.startSpare_keeps | fail_if_no_progress refine Keeps.of_mk ?_)

theorem State.markHard_keeps {z s : State} (wi : Nat) (b : Nat) (hK : Keeps z s) : Keeps z (State.markHard s wi b) := by
  unfold State.markHard; with_reducible repeat' (first | assumption | (extract_lets +implicits +onlyGivenNames x; first | (refine Keeps.named (z := z) (x := x) ?_ fun hx => ?_; (on_goal 1 => dsimp -zeta only [x]; clear x); (on_goal 2 => clear_value x)) | (refine Keeps.hub x ?_; subst x) | clear_value x) | apply Keeps.ite | split | apply State.repairWord_keeps | fail_if_no_progress refine Keeps.of_mk ?_)

theorem execHardWordReread_keeps {z s : State} (t : Nat) (bank : Nat) (again : Bool) (hK : Keeps z s) : KeepsR z (execHardWordReread t bank again s) := by
  unfold execHardWordReread; with_reducible repeat' (first | assumption | refine KeepsR.of_next ?_ | (extract_lets +implicits +onlyGivenNames x; first | (refine Keeps.named (z := z) (x := x) ?_ fun hx => ?_; (on_goal 1 => dsimp -zeta only [x]; clear x); (on_goal 2 => clear_value x)) | (refine Keeps.hub x ?_; subst x) | clear_value x) | apply Keeps.ite | split | apply State.at_keeps | apply State.grant_keeps | apply State.setFlips_keeps | apply State.eccCorr_keeps | apply State.askWriteBack_keeps | apply State.markHard_keeps | fail_if_no_progress refine Keeps.of_mk ?_ | refine Keeps.of_pair (by assumption) ?_ | refine Keeps.of_pair_fst (by assumption) ?_)

theorem execSpareRepairCopy_keeps {z s : State} (t : Nat) (bank : Nat) (hK : Keeps z s) : KeepsR z (execSpareRepairCopy t bank s) := by
  unfold execSpareRepairCopy; with_reducible repeat' (first | assumption | refine KeepsR.of_next ?_ | (extract_lets +implicits +onlyGivenNames x; first | (refine Keeps.named (z := z) (x := x) ?_ fun hx => ?_; (on_goal 1 => dsimp -zeta only [x]; clear x); (on_goal 2 => clear_value x)) | (refine Keeps.hub x ?_; subst x) | clear_value x) | apply Keeps.ite | split | apply State.at_keeps | apply State.grant_keeps | fail_if_no_progress refine Keeps.of_mk ?_ | refine Keeps.of_pair (by assumption) ?_ | refine Keeps.of_pair_fst (by assumption) ?_)

theorem State.takeoverSpare_keeps {z s : State} (sp : Spare) (hK : Keeps z s) : Keeps z (State.takeoverSpare s sp) := by
  unfold State.takeoverSpare; with_reducible repeat' (first | assumption | intro x y hx | (extract_lets +implicits +onlyGivenNames x; first | (refine Keeps.named (z := z) (x := x) ?_ fun hx => ?_; (on_goal 1 => dsimp -zeta only [x]; clear x); (on_goal 2 => clear_value x)) | (refine Keeps.named_snd (z := z) (x := x) ?_ fun hx => ?_; (on_goal 1 => dsimp -zeta only [x]; clear x); (on_goal 2 => clear_value x)) | (refine Keeps.named_fst (z := z) (x := x) ?_ fun hx => ?_; (on_goal 1 => dsimp -zeta only [x]; clear x); (on_goal 2 => clear_value x)) | (refine Keeps.hub x ?_; subst x) | clear_value x) | apply Keeps.ite | split | apply State.setFlips_keeps | apply State.dropWriteBack_keeps | apply State.wr_keeps | apply Keeps.foldl | apply Keeps.foldl_snd | apply Keeps.foldl_snd2 | apply Keeps.foldl_fst | fail_if_no_progress refine Keeps.of_mk ?_)

theorem execSpareTakeover_keeps {z s : State} (t : Nat) (bank : Nat) (hK : Keeps z s) : KeepsR z (execSpareTakeover t bank s) := by
  unfold execSpareTakeover; with_reducible repeat' (first | assumption | refine KeepsR.of_next ?_ | (extract_lets +implicits +onlyGivenNames x; first | (refine Keeps.named (z := z) (x := x) ?_ fun hx => ?_; (on_goal 1 => dsimp -zeta only [x]; clear x); (on_goal 2 => clear_value x)) | (refine Keeps.hub x ?_; subst x) | clear_value x) | apply Keeps.ite | split | apply State.at_keeps | apply State.takeoverSpare_keeps | fail_if_no_progress refine Keeps.of_mk ?_ | refine Keeps.of_pair (by assumption) ?_ | refine Keeps.of_pair_fst (by assumption) ?_)

end Sys2Proof.Machine
end

