-- ==== Sys2Proof/Laws/KeepsSecOps.lean ====
section
/-! SUPPORT. What the functions of SecOps keep (see Keeps). -/

set_option linter.all false

namespace Sys2Proof.Machine

theorem State.setKeyRegs_keeps {z s : State} (a : Nat → Nat) (k : List Byte) (hK : Keeps z s) : Keeps z (State.setKeyRegs s a k) := by
  unfold State.setKeyRegs; with_reducible repeat' (first | assumption | intro x y hx | split | apply State.setReg_keeps | apply Keeps.foldl | apply Keeps.foldl_snd | apply Keeps.foldl_snd2 | apply Keeps.foldl_fst | fail_if_no_progress refine Keeps.of_mk ?_)

theorem State.secRefresh_keeps {z s : State} (hK : Keeps z s) : Keeps z (State.secRefresh s) := by
  unfold State.secRefresh; with_reducible repeat' (first | assumption | (extract_lets +implicits +onlyGivenNames x; first | (refine Keeps.named (z := z) (x := x) ?_ fun hx => ?_; (on_goal 1 => dsimp -zeta only [x]; clear x); (on_goal 2 => clear_value x)) | (refine Keeps.sec x ?_; subst x) | clear_value x) | apply Keeps.ite | split | apply State.wr_keeps | apply State.setKeyRegs_keeps | fail_if_no_progress refine Keeps.of_mk ?_)

end Sys2Proof.Machine
end

