-- ==== Sys2Proof/Laws/KeepsCoreOps.lean ====
section
/-! SUPPORT. What the functions of CoreOps keep (see Keeps). -/

set_option linter.all false

namespace Sys2Proof.Machine

theorem State.setCore_keeps {z s : State} (k : Nat) (c : CoreS) (hK : Keeps z s) : Keeps z (State.setCore s k c) := by
  unfold State.setCore; with_reducible repeat' (first | assumption | (extract_lets +implicits +onlyGivenNames x; first | (refine Keeps.named (z := z) (x := x) ?_ fun hx => ?_; (on_goal 1 => dsimp -zeta only [x]; clear x); (on_goal 2 => clear_value x)) | clear_value x) | split | fail_if_no_progress refine Keeps.of_mk ?_)

theorem State.modCore_keeps {z s : State} (k : Nat) (f : CoreS → CoreS) (hK : Keeps z s) : Keeps z (State.modCore s k f) := by
  unfold State.modCore; with_reducible repeat' (first | assumption | apply State.setCore_keeps | fail_if_no_progress refine Keeps.of_mk ?_)

theorem State.clearLink_keeps {z s : State} (k : Nat) (hK : Keeps z s) : Keeps z (State.clearLink s k) := by
  unfold State.clearLink; with_reducible repeat' (first | assumption | (extract_lets +implicits +onlyGivenNames x; first | (refine Keeps.named (z := z) (x := x) ?_ fun hx => ?_; (on_goal 1 => dsimp -zeta only [x]; clear x); (on_goal 2 => clear_value x)) | clear_value x) | split | fail_if_no_progress refine Keeps.of_mk ?_)

theorem State.localWrite_keeps {z s : State} (k : Nat) (a : Nat) (bs : List Byte) (hK : Keeps z s) : Keeps z (State.localWrite s k a bs) := by
  unfold State.localWrite; with_reducible repeat' (first | assumption | (extract_lets +implicits +onlyGivenNames x; first | (refine Keeps.named (z := z) (x := x) ?_ fun hx => ?_; (on_goal 1 => dsimp -zeta only [x]; clear x); (on_goal 2 => clear_value x)) | clear_value x) | apply Keeps.ite | split | apply State.modCore_keeps | apply State.clearLink_keeps | fail_if_no_progress refine Keeps.of_mk ?_ | refine Keeps.of_pair (by assumption) ?_ | refine Keeps.of_pair_fst (by assumption) ?_)

theorem State.ownWrite_keeps {z s : State} (k : Nat) (a : Nat) (bs : List Byte) (hK : Keeps z s) : Keeps z (State.ownWrite s k a bs) := by
  unfold State.ownWrite; with_reducible repeat' (first | assumption | (extract_lets +implicits +onlyGivenNames x; first | (refine Keeps.named (z := z) (x := x) ?_ fun hx => ?_; (on_goal 1 => dsimp -zeta only [x]; clear x); (on_goal 2 => clear_value x)) | clear_value x) | split | apply State.modCore_keeps | apply State.localWrite_keeps | fail_if_no_progress refine Keeps.of_mk ?_)

theorem State.portWrite_keeps {z s : State} (k a : Nat) (l : List Byte) (hK : Keeps z s) : Keeps z (State.portWrite s k a l) := by
  induction l generalizing s a with
  | nil => exact hK
  | cons b l ih => unfold State.portWrite; with_reducible repeat' (first | assumption | apply Keeps.ite | split | apply ih | apply State.localWrite_keeps)

theorem State.drainOne_keeps {z s : State} (k : Nat) (hK : Keeps z s) : Keeps z (State.drainOne s k) := by
  unfold State.drainOne; with_reducible repeat' (first | assumption | (extract_lets +implicits +onlyGivenNames x; first | (refine Keeps.named (z := z) (x := x) ?_ fun hx => ?_; (on_goal 1 => dsimp -zeta only [x]; clear x); (on_goal 2 => clear_value x)) | clear_value x) | split | apply State.modCore_keeps | apply State.memWrite_keeps | fail_if_no_progress refine Keeps.of_mk ?_ | refine Keeps.of_pair (by assumption) ?_ | refine Keeps.of_pair_fst (by assumption) ?_)

theorem State.drainAll_keeps {z s : State} (k : Nat) (hK : Keeps z s) : Keeps z (State.drainAll s k) := by
  unfold State.drainAll; with_reducible repeat' (first | assumption | intro x y hx | split | apply State.drainOne_keeps | apply Keeps.foldl | apply Keeps.foldl_snd | apply Keeps.foldl_snd2 | apply Keeps.foldl_fst | fail_if_no_progress refine Keeps.of_mk ?_)

theorem State.queueStore_keeps {z s : State} (k : Nat) (off : Nat) (bs : List Byte) (hK : Keeps z s) : Keeps z (State.queueStore s k off bs) := by
  unfold State.queueStore; with_reducible repeat' (first | assumption | (extract_lets +implicits +onlyGivenNames x; first | (refine Keeps.named (z := z) (x := x) ?_ fun hx => ?_; (on_goal 1 => dsimp -zeta only [x]; clear x); (on_goal 2 => clear_value x)) | clear_value x) | apply Keeps.ite | split | apply State.drainOne_keeps | apply State.modCore_keeps | fail_if_no_progress refine Keeps.of_mk ?_)

theorem execCoreStoreDrain_keeps {z s : State} (t : Nat) (k : Nat) (hK : Keeps z s) : KeepsR z (execCoreStoreDrain t k s) := by
  unfold execCoreStoreDrain; with_reducible repeat' (first | assumption | refine KeepsR.of_next ?_ | (extract_lets +implicits +onlyGivenNames x; first | (refine Keeps.named (z := z) (x := x) ?_ fun hx => ?_; (on_goal 1 => dsimp -zeta only [x]; clear x); (on_goal 2 => clear_value x)) | clear_value x) | apply Keeps.ite | split | apply State.at_keeps | apply State.grant_keeps | apply State.drainOne_keeps | fail_if_no_progress refine Keeps.of_mk ?_ | refine Keeps.of_pair (by assumption) ?_ | refine Keeps.of_pair_fst (by assumption) ?_)

theorem State.privWrite_keeps {z s : State} (k : Nat) (o : Nat) (v : Word) (hK : Keeps z s) : Keeps z (State.privWrite s k o v) := by
  unfold State.privWrite; with_reducible repeat' (first | assumption | (extract_lets +implicits +onlyGivenNames x; first | (refine Keeps.named (z := z) (x := x) ?_ fun hx => ?_; (on_goal 1 => dsimp -zeta only [x]; clear x); (on_goal 2 => clear_value x)) | clear_value x) | split | apply State.modCore_keeps | fail_if_no_progress refine Keeps.of_mk ?_ | refine Keeps.of_pair (by assumption) ?_ | refine Keeps.of_pair_fst (by assumption) ?_)

end Sys2Proof.Machine
end

