-- ==== Sys2Proof/Laws/KeepsIntc.lean ====
section
/-! SUPPORT. What the functions of Intc keep (see Keeps). -/

set_option linter.all false

namespace Sys2Proof.Machine

theorem State.refreshLevel_keeps {z s : State} (i : Nat) (hK : Keeps z s) : Keeps z (State.refreshLevel s i) := by
  unfold State.refreshLevel; with_reducible repeat' (first | assumption | apply Keeps.ite | split | apply State.wr_keeps | fail_if_no_progress refine Keeps.of_mk ?_)

theorem State.seeLevel_keeps {z s : State} (i : Nat) (hK : Keeps z s) : Keeps z (State.seeLevel s i) := by
  unfold State.seeLevel; with_reducible repeat' (first | assumption | apply State.wr_keeps | apply State.refreshLevel_keeps | fail_if_no_progress refine Keeps.of_mk ?_)

theorem execSourceLevelChange_keeps {z s : State} (t : Nat) (i : Nat) (hK : Keeps z s) : KeepsR z (execSourceLevelChange t i s) := by
  unfold execSourceLevelChange; with_reducible repeat' (first | assumption | refine KeepsR.of_next ?_ | (extract_lets +implicits +onlyGivenNames x; first | (refine Keeps.named (z := z) (x := x) ?_ fun hx => ?_; (on_goal 1 => dsimp -zeta only [x]; clear x); (on_goal 2 => clear_value x)) | clear_value x) | apply Keeps.ite | split | apply State.at_keeps | apply State.seeLevel_keeps | fail_if_no_progress refine Keeps.of_mk ?_)

theorem State.mergeEdge_keeps {z s : State} (i : Nat) (hK : Keeps z s) : Keeps z (State.mergeEdge s i) := by
  unfold State.mergeEdge; with_reducible repeat' (first | assumption | (extract_lets +implicits +onlyGivenNames x; first | (refine Keeps.named (z := z) (x := x) ?_ fun hx => ?_; (on_goal 1 => dsimp -zeta only [x]; clear x); (on_goal 2 => clear_value x)) | clear_value x) | apply Keeps.ite | split | apply State.satInc_keeps | apply State.wr_keeps | fail_if_no_progress refine Keeps.of_mk ?_ | refine Keeps.of_pair (by assumption) ?_ | refine Keeps.of_pair_fst (by assumption) ?_)

theorem State.srcEdge_keeps {z s : State} (i : Nat) (hK : Keeps z s) : Keeps z (State.srcEdge s i) := by
  unfold State.srcEdge; with_reducible repeat' (first | assumption | apply Keeps.ite | split | apply State.mergeEdge_keeps | apply State.set1_keeps | fail_if_no_progress refine Keeps.of_mk ?_)

theorem State.bellEdge_keeps {z s : State} (k : Nat) (b : Nat) (hK : Keeps z s) : Keeps z (State.bellEdge s k b) := by
  unfold State.bellEdge; with_reducible repeat' (first | assumption | (extract_lets +implicits +onlyGivenNames x; first | (refine Keeps.named (z := z) (x := x) ?_ fun hx => ?_; (on_goal 1 => dsimp -zeta only [x]; clear x); (on_goal 2 => clear_value x)) | clear_value x) | apply Keeps.ite | split | apply State.mergeEdge_keeps | apply State.wr_keeps | fail_if_no_progress refine Keeps.of_mk ?_)

theorem execSourceEdge_keeps {z s : State} (t : Nat) (i : Nat) (hK : Keeps z s) : KeepsR z (execSourceEdge t i s) := by
  unfold execSourceEdge; with_reducible repeat' (first | assumption | refine KeepsR.of_next ?_ | (extract_lets +implicits +onlyGivenNames x; first | (refine Keeps.named (z := z) (x := x) ?_ fun hx => ?_; (on_goal 1 => dsimp -zeta only [x]; clear x); (on_goal 2 => clear_value x)) | clear_value x) | split | apply State.at_keeps | apply State.srcEdge_keeps | fail_if_no_progress refine Keeps.of_mk ?_ | refine Keeps.of_pair (by assumption) ?_ | refine Keeps.of_pair_fst (by assumption) ?_)

theorem execIntcDoorbellWrite_keeps {z s : State} (t : Nat) (k : Nat) (b : Nat) (hK : Keeps z s) : KeepsR z (execIntcDoorbellWrite t k b s) := by
  unfold execIntcDoorbellWrite; with_reducible repeat' (first | assumption | refine KeepsR.of_next ?_ | apply State.at_keeps | apply State.bellEdge_keeps | fail_if_no_progress refine Keeps.of_mk ?_)

theorem State.activate_keeps {z s : State} (k : Nat) (i : Nat) (hK : Keeps z s) : Keeps z (State.activate s k i) := by
  unfold State.activate; with_reducible repeat' (first | assumption | (extract_lets +implicits +onlyGivenNames x; first | (refine Keeps.named (z := z) (x := x) ?_ fun hx => ?_; (on_goal 1 => dsimp -zeta only [x]; clear x); (on_goal 2 => clear_value x)) | clear_value x) | apply Keeps.ite | split | apply State.wr_keeps | apply State.set1_keeps | apply State.refreshLevel_keeps | fail_if_no_progress refine Keeps.of_mk ?_)

theorem State.endSource_keeps {z s : State} (k : Nat) (i : Nat) (hK : Keeps z s) : Keeps z (State.endSource s k i) := by
  unfold State.endSource; with_reducible repeat' (first | assumption | (extract_lets +implicits +onlyGivenNames x; first | (refine Keeps.named (z := z) (x := x) ?_ fun hx => ?_; (on_goal 1 => dsimp -zeta only [x]; clear x); (on_goal 2 => clear_value x)) | clear_value x) | apply Keeps.ite | split | apply State.wr_keeps | apply State.refreshLevel_keeps | fail_if_no_progress refine Keeps.of_mk ?_)

theorem State.setStack_keeps {z s : State} (k : Nat) (st : List (Nat × Nat)) (hK : Keeps z s) : Keeps z (State.setStack s k st) := by
  unfold State.setStack; with_reducible repeat' (first | assumption | (extract_lets +implicits +onlyGivenNames x; first | (refine Keeps.named (z := z) (x := x) ?_ fun hx => ?_; (on_goal 1 => dsimp -zeta only [x]; clear x); (on_goal 2 => clear_value x)) | clear_value x) | split | apply State.wr_keeps | fail_if_no_progress refine Keeps.of_mk ?_)

theorem State.claim_keeps {z s : State} (k : Nat) (hK : Keeps z s) : Keeps z (State.claim s k).2 := by
  unfold State.claim; with_reducible repeat' (first | assumption | (extract_lets +implicits +onlyGivenNames x; first | (refine Keeps.named (z := z) (x := x) ?_ fun hx => ?_; (on_goal 1 => dsimp -zeta only [x]; clear x); (on_goal 2 => clear_value x)) | clear_value x) | apply Keeps.ite | split | apply State.activate_keeps | apply State.setStack_keeps | fail_if_no_progress refine Keeps.of_mk ?_ | refine Keeps.of_pair (by assumption) ?_ | refine Keeps.of_pair_fst (by assumption) ?_)

theorem State.badEoi_keeps {z s : State} (k : Nat) (id : Nat) (hK : Keeps z s) : Keeps z (State.badEoi s k id) := by
  unfold State.badEoi; with_reducible repeat' (first | assumption | apply State.satInc_keeps | apply State.wr_keeps | fail_if_no_progress refine Keeps.of_mk ?_)

theorem State.eoi_keeps {z s : State} (k : Nat) (id : Nat) (hK : Keeps z s) : Keeps z (State.eoi s k id) := by
  unfold State.eoi; with_reducible repeat' (first | assumption | (extract_lets +implicits +onlyGivenNames x; first | (refine Keeps.named (z := z) (x := x) ?_ fun hx => ?_; (on_goal 1 => dsimp -zeta only [x]; clear x); (on_goal 2 => clear_value x)) | clear_value x) | apply Keeps.ite | split | apply State.badEoi_keeps | apply State.endSource_keeps | apply State.setStack_keeps | fail_if_no_progress refine Keeps.of_mk ?_ | refine Keeps.of_pair (by assumption) ?_ | refine Keeps.of_pair_fst (by assumption) ?_)

theorem State.fastEoi_keeps {z s : State} (k : Nat) (hK : Keeps z s) : Keeps z (State.fastEoi s k) := by
  unfold State.fastEoi; with_reducible repeat' (first | assumption | (extract_lets +implicits +onlyGivenNames x; first | (refine Keeps.named (z := z) (x := x) ?_ fun hx => ?_; (on_goal 1 => dsimp -zeta only [x]; clear x); (on_goal 2 => clear_value x)) | clear_value x) | apply Keeps.ite | split | apply State.endSource_keeps | apply State.wr_keeps | fail_if_no_progress refine Keeps.of_mk ?_)

theorem State.fastClaim_keeps {z s : State} (k : Nat) (i : Nat) (hK : Keeps z s) : Keeps z (State.fastClaim s k i) := by
  unfold State.fastClaim; with_reducible repeat' (first | assumption | apply State.activate_keeps | apply State.wr_keeps | fail_if_no_progress refine Keeps.of_mk ?_)

theorem execIntcEoiWrite_keeps {z s : State} (t : Nat) (k : Nat) (id : Nat) (m : Master) (hK : Keeps z s) : KeepsR z (execIntcEoiWrite t k id m s) := by
  unfold execIntcEoiWrite; with_reducible repeat' (first | assumption | refine KeepsR.of_next ?_ | (extract_lets +implicits +onlyGivenNames x; first | (refine Keeps.named (z := z) (x := x) ?_ fun hx => ?_; (on_goal 1 => dsimp -zeta only [x]; clear x); (on_goal 2 => clear_value x)) | clear_value x) | apply Keeps.ite | split | apply State.at_keeps | apply State.eoi_keeps | apply State.ignoreWrite_keeps | fail_if_no_progress refine Keeps.of_mk ?_)

theorem execIntcFastEoiWrite_keeps {z s : State} (t : Nat) (k : Nat) (m : Master) (hK : Keeps z s) : KeepsR z (execIntcFastEoiWrite t k m s) := by
  unfold execIntcFastEoiWrite; with_reducible repeat' (first | assumption | refine KeepsR.of_next ?_ | (extract_lets +implicits +onlyGivenNames x; first | (refine Keeps.named (z := z) (x := x) ?_ fun hx => ?_; (on_goal 1 => dsimp -zeta only [x]; clear x); (on_goal 2 => clear_value x)) | clear_value x) | apply Keeps.ite | split | apply State.at_keeps | apply State.fastEoi_keeps | apply State.ignoreWrite_keeps | fail_if_no_progress refine Keeps.of_mk ?_)

theorem State.readClaim_keeps {z s : State} (k : Nat) (ms : List Master) (hK : Keeps z s) : Keeps z (State.readClaim s k ms) := by
  unfold State.readClaim; with_reducible repeat' (first | assumption | intro x y hx | (extract_lets +implicits +onlyGivenNames x; first | (refine Keeps.named (z := z) (x := x) ?_ fun hx => ?_; (on_goal 1 => dsimp -zeta only [x]; clear x); (on_goal 2 => clear_value x)) | (refine Keeps.named_snd (z := z) (x := x) ?_ fun hx => ?_; (on_goal 1 => dsimp -zeta only [x]; clear x); (on_goal 2 => clear_value x)) | (refine Keeps.named_fst (z := z) (x := x) ?_ fun hx => ?_; (on_goal 1 => dsimp -zeta only [x]; clear x); (on_goal 2 => clear_value x)) | clear_value x) | apply Keeps.ite | split | apply State.claim_keeps | refine Keeps.of_pair (by assumption) (State.claim_keeps _ ?_) | apply State.emit_keeps | apply Keeps.foldl | apply Keeps.foldl_snd | apply Keeps.foldl_snd2 | apply Keeps.foldl_fst | fail_if_no_progress refine Keeps.of_mk ?_ | refine Keeps.of_pair (by assumption) ?_ | refine Keeps.of_pair_fst (by assumption) ?_)

theorem execIntcClaimRead_keeps {z s : State} (t : Nat) (k : Nat) (ms : List Master) (hK : Keeps z s) : KeepsR z (execIntcClaimRead t k ms s) := by
  unfold execIntcClaimRead; with_reducible repeat' (first | assumption | refine KeepsR.of_next ?_ | apply State.at_keeps | apply State.readClaim_keeps | fail_if_no_progress refine Keeps.of_mk ?_)

theorem State.intcEndCore_keeps {z s : State} (k : Nat) (hK : Keeps z s) : Keeps z (State.intcEndCore s k) := by
  unfold State.intcEndCore; with_reducible repeat' (first | assumption | intro x y hx | (extract_lets +implicits +onlyGivenNames x; first | (refine Keeps.named (z := z) (x := x) ?_ fun hx => ?_; (on_goal 1 => dsimp -zeta only [x]; clear x); (on_goal 2 => clear_value x)) | (refine Keeps.named_snd (z := z) (x := x) ?_ fun hx => ?_; (on_goal 1 => dsimp -zeta only [x]; clear x); (on_goal 2 => clear_value x)) | (refine Keeps.named_fst (z := z) (x := x) ?_ fun hx => ?_; (on_goal 1 => dsimp -zeta only [x]; clear x); (on_goal 2 => clear_value x)) | clear_value x) | apply Keeps.ite | split | apply State.endSource_keeps | apply State.setStack_keeps | apply State.wr_keeps | apply Keeps.foldl | apply Keeps.foldl_snd | apply Keeps.foldl_snd2 | apply Keeps.foldl_fst | fail_if_no_progress refine Keeps.of_mk ?_)

end Sys2Proof.Machine
end

