-- ==== Sys2Proof/Laws/KeepsGroupset.lean ====
section
/-! SUPPORT. What the functions of Groupset keep (see Keeps). -/

set_option linter.all false

namespace Sys2Proof.Machine

theorem State.setGsState_keeps {z s : State} (n : Nat) (hK : Keeps z s) : Keeps z (State.setGsState s n) := by
  unfold State.setGsState; with_reducible repeat' (first | assumption | apply State.wr_keeps | fail_if_no_progress refine Keeps.of_mk ?_)

theorem State.clearStaging_keeps {z s : State} (hK : Keeps z s) : Keeps z (State.clearStaging s) := by
  unfold State.clearStaging; with_reducible repeat' (first | assumption | (extract_lets +implicits +onlyGivenNames x; first | (refine Keeps.named (z := z) (x := x) ?_ fun hx => ?_; (on_goal 1 => dsimp -zeta only [x]; clear x); (on_goal 2 => clear_value x)) | clear_value x) | apply State.wr_keeps | fail_if_no_progress refine Keeps.of_mk ?_)

theorem State.gsAnswer_keeps {z s : State} (code : Nat) (status : Nat) (detail : Nat) (hK : Keeps z s) : Keeps z (State.gsAnswer s code status detail) := by
  unfold State.gsAnswer; with_reducible repeat' (first | assumption | intro x y hx | (extract_lets +implicits +onlyGivenNames x; first | (refine Keeps.named (z := z) (x := x) ?_ fun hx => ?_; (on_goal 1 => dsimp -zeta only [x]; clear x); (on_goal 2 => clear_value x)) | (refine Keeps.named_snd (z := z) (x := x) ?_ fun hx => ?_; (on_goal 1 => dsimp -zeta only [x]; clear x); (on_goal 2 => clear_value x)) | (refine Keeps.named_fst (z := z) (x := x) ?_ fun hx => ?_; (on_goal 1 => dsimp -zeta only [x]; clear x); (on_goal 2 => clear_value x)) | clear_value x) | apply Keeps.ite | split | apply State.vtkFinish_keeps | apply Keeps.foldl | apply Keeps.foldl_snd | apply Keeps.foldl_snd2 | apply Keeps.foldl_fst | fail_if_no_progress refine Keeps.of_mk ?_)

theorem State.stagePtr_keeps {z s : State} (n : Nat) (hK : Keeps z s) : Keeps z (State.stagePtr s n) := by
  unfold State.stagePtr; with_reducible repeat' (first | assumption | apply Keeps.ite | split | apply State.ignoreWrite_keeps | apply State.clearStaging_keeps | apply State.setGsState_keeps | apply State.gsAnswer_keeps | apply State.wr_keeps | fail_if_no_progress refine Keeps.of_mk ?_)

theorem execGsStagePtrWrite_keeps {z s : State} (t : Nat) (n : Nat) (hK : Keeps z s) : KeepsR z (execGsStagePtrWrite t n s) := by
  unfold execGsStagePtrWrite; with_reducible repeat' (first | assumption | refine KeepsR.of_next ?_ | apply State.at_keeps | apply State.stagePtr_keeps | fail_if_no_progress refine Keeps.of_mk ?_)

theorem State.stageData_keeps {z s : State} (w : Word) (hK : Keeps z s) : Keeps z (State.stageData s w) := by
  unfold State.stageData; with_reducible repeat' (first | assumption | (extract_lets +implicits +onlyGivenNames x; first | (refine Keeps.named (z := z) (x := x) ?_ fun hx => ?_; (on_goal 1 => dsimp -zeta only [x]; clear x); (on_goal 2 => clear_value x)) | clear_value x) | apply Keeps.ite | split | apply State.ignoreWrite_keeps | apply State.wr_keeps | apply State.setGsState_keeps | fail_if_no_progress refine Keeps.of_mk ?_)

theorem execGsStageDataWrite_keeps {z s : State} (t : Nat) (w : Word) (hK : Keeps z s) : KeepsR z (execGsStageDataWrite t w s) := by
  unfold execGsStageDataWrite; with_reducible repeat' (first | assumption | refine KeepsR.of_next ?_ | apply State.at_keeps | apply State.stageData_keeps | fail_if_no_progress refine Keeps.of_mk ?_)

theorem State.gsCheck_keeps {z s : State} (hK : Keeps z s) : Keeps z (State.gsCheck s) := by
  unfold State.gsCheck; with_reducible repeat' (first | assumption | apply Keeps.ite | split | apply State.setGsState_keeps | fail_if_no_progress refine Keeps.of_mk ?_)

theorem execGsCtrlCheck_keeps {z s : State} (t : Nat) (hK : Keeps z s) : KeepsR z (execGsCtrlCheck t s) := by
  unfold execGsCtrlCheck; with_reducible repeat' (first | assumption | refine KeepsR.of_next ?_ | apply State.at_keeps | apply State.gsCheck_keeps | fail_if_no_progress refine Keeps.of_mk ?_)

theorem State.gsAbort_keeps {z s : State} (hK : Keeps z s) : Keeps z (State.gsAbort s) := by
  unfold State.gsAbort; with_reducible repeat' (first | assumption | (extract_lets +implicits +onlyGivenNames x; first | (refine Keeps.named (z := z) (x := x) ?_ fun hx => ?_; (on_goal 1 => dsimp -zeta only [x]; clear x); (on_goal 2 => clear_value x)) | clear_value x) | apply Keeps.ite | split | apply State.ignoreWrite_keeps | apply State.clearStaging_keeps | apply State.setGsState_keeps | apply State.gsAnswer_keeps | fail_if_no_progress refine Keeps.of_mk ?_)

theorem execGsCtrlAbort_keeps {z s : State} (t : Nat) (hK : Keeps z s) : KeepsR z (execGsCtrlAbort t s) := by
  unfold execGsCtrlAbort; with_reducible repeat' (first | assumption | refine KeepsR.of_next ?_ | apply State.at_keeps | apply State.gsAbort_keeps | fail_if_no_progress refine Keeps.of_mk ?_)

theorem State.gsReject_keeps {z s : State} (f : GsFail) (hK : Keeps z s) : Keeps z (State.gsReject s f) := by
  unfold State.gsReject; with_reducible repeat' (first | assumption | (extract_lets +implicits +onlyGivenNames x; first | (refine Keeps.named (z := z) (x := x) ?_ fun hx => ?_; (on_goal 1 => dsimp -zeta only [x]; clear x); (on_goal 2 => clear_value x)) | clear_value x) | apply State.clearStaging_keeps | apply State.setGsState_keeps | apply State.wr_keeps | apply State.raise_keeps | apply State.gsAnswer_keeps | fail_if_no_progress refine Keeps.of_mk ?_)

theorem State.startApply_keeps {z s : State} (hK : Keeps z s) : Keeps z (State.startApply s) := by
  unfold State.startApply; with_reducible repeat' (first | assumption | (extract_lets +implicits +onlyGivenNames x; first | (refine Keeps.named (z := z) (x := x) ?_ fun hx => ?_; (on_goal 1 => dsimp -zeta only [x]; clear x); (on_goal 2 => clear_value x)) | clear_value x) | split | apply State.setGsState_keeps | fail_if_no_progress refine Keeps.of_mk ?_)

theorem State.handAll_keeps {z s : State} (hK : Keeps z s) : Keeps z (State.handAll s) := by
  unfold State.handAll; with_reducible repeat' (first | assumption | intro x y hx | (extract_lets +implicits +onlyGivenNames x; first | (refine Keeps.named (z := z) (x := x) ?_ fun hx => ?_; (on_goal 1 => dsimp -zeta only [x]; clear x); (on_goal 2 => clear_value x)) | (refine Keeps.named_snd (z := z) (x := x) ?_ fun hx => ?_; (on_goal 1 => dsimp -zeta only [x]; clear x); (on_goal 2 => clear_value x)) | (refine Keeps.named_fst (z := z) (x := x) ?_ fun hx => ?_; (on_goal 1 => dsimp -zeta only [x]; clear x); (on_goal 2 => clear_value x)) | clear_value x) | apply Keeps.ite | split | apply State.holdTakeover_keeps | apply Keeps.foldl | apply Keeps.foldl_snd | apply Keeps.foldl_snd2 | apply Keeps.foldl_fst | fail_if_no_progress refine Keeps.of_mk ?_)

theorem State.leaveForApply_keeps {z s : State} (hK : Keeps z s) : Keeps z (State.leaveForApply s) := by
  unfold State.leaveForApply; with_reducible repeat' (first | assumption | (extract_lets +implicits +onlyGivenNames x; first | (refine Keeps.named (z := z) (x := x) ?_ fun hx => ?_; (on_goal 1 => dsimp -zeta only [x]; clear x); (on_goal 2 => clear_value x)) | clear_value x) | apply State.wr_keeps | apply State.set1_keeps | fail_if_no_progress refine Keeps.of_mk ?_)

theorem State.beginApply_keeps {z s : State} (hK : Keeps z s) : Keeps z (State.beginApply s) := by
  unfold State.beginApply; with_reducible repeat' (first | assumption | (extract_lets +implicits +onlyGivenNames x; first | (refine Keeps.named (z := z) (x := x) ?_ fun hx => ?_; (on_goal 1 => dsimp -zeta only [x]; clear x); (on_goal 2 => clear_value x)) | clear_value x) | apply Keeps.ite | split | apply State.startApply_keeps | apply State.leaveForApply_keeps | apply State.handAll_keeps | apply State.setGsState_keeps | fail_if_no_progress refine Keeps.of_mk ?_)

theorem State.applyPending_keeps {z s : State} (hK : Keeps z s) : Keeps z (State.applyPending s) := by
  unfold State.applyPending; with_reducible repeat' (first | assumption | apply Keeps.ite | split | apply State.startApply_keeps | apply State.setGsState_keeps | fail_if_no_progress refine Keeps.of_mk ?_)

theorem State.checkDone_keeps {z s : State} (hK : Keeps z s) : Keeps z (State.checkDone s) := by
  unfold State.checkDone; with_reducible repeat' (first | assumption | (extract_lets +implicits +onlyGivenNames x; first | (refine Keeps.named (z := z) (x := x) ?_ fun hx => ?_; (on_goal 1 => dsimp -zeta only [x]; clear x); (on_goal 2 => clear_value x)) | clear_value x) | apply Keeps.ite | split | apply State.gsReject_keeps | apply State.applyPending_keeps | apply State.setGsState_keeps | apply State.gsAnswer_keeps | fail_if_no_progress refine Keeps.of_mk ?_ | refine Keeps.of_pair (by assumption) ?_ | refine Keeps.of_pair_fst (by assumption) ?_)

theorem execGsCheckComplete_keeps {z s : State} (t : Nat) (hK : Keeps z s) : KeepsR z (execGsCheckComplete t s) := by
  unfold execGsCheckComplete; with_reducible repeat' (first | assumption | refine KeepsR.of_next ?_ | apply State.at_keeps | apply State.checkDone_keeps | fail_if_no_progress refine Keeps.of_mk ?_)

theorem State.applyNow_keeps {z s : State} (frame : Nat) (hK : Keeps z s) : Keeps z (State.applyNow s frame) := by
  unfold State.applyNow; with_reducible repeat' (first | assumption | (extract_lets +implicits +onlyGivenNames x; first | (refine Keeps.named (z := z) (x := x) ?_ fun hx => ?_; (on_goal 1 => dsimp -zeta only [x]; clear x); (on_goal 2 => clear_value x)) | clear_value x) | apply Keeps.ite | split | apply State.ignoreWrite_keeps | apply State.wr64_keeps | apply State.applyPending_keeps | apply State.gsCheck_keeps | fail_if_no_progress refine Keeps.of_mk ?_)

theorem State.applyGroup_keeps {z s : State} (frame : Nat) (hK : Keeps z s) : Keeps z (State.applyGroup s frame) := by
  unfold State.applyGroup; with_reducible repeat' (first | assumption | (extract_lets +implicits +onlyGivenNames x; first | (refine Keeps.named (z := z) (x := x) ?_ fun hx => ?_; (on_goal 1 => dsimp -zeta only [x]; clear x); (on_goal 2 => clear_value x)) | clear_value x) | apply Keeps.ite | split | apply State.wr64_keeps | apply State.gsCheck_keeps | apply State.emit_keeps | fail_if_no_progress refine Keeps.of_mk ?_)

theorem State.applyRequest_keeps {z s : State} (frame : Nat) (hK : Keeps z s) : Keeps z (State.applyRequest s frame) := by
  unfold State.applyRequest; with_reducible repeat' (first | assumption | apply Keeps.ite | split | apply State.applyGroup_keeps | apply State.wr64_keeps | apply State.journalIn_keeps | apply State.applyNow_keeps | fail_if_no_progress refine Keeps.of_mk ?_)

theorem execGsApplyFrameWrite_keeps {z s : State} (t : Nat) (frame : Nat) (hK : Keeps z s) : KeepsR z (execGsApplyFrameWrite t frame s) := by
  unfold execGsApplyFrameWrite; with_reducible repeat' (first | assumption | refine KeepsR.of_next ?_ | apply State.at_keeps | apply State.applyRequest_keeps | fail_if_no_progress refine Keeps.of_mk ?_)

theorem State.setHeadSwap_keeps {z s : State} (h : Nat) (w : HeadSwap) (hK : Keeps z s) : Keeps z (State.setHeadSwap s h w) := by
  unfold State.setHeadSwap; with_reducible repeat' (first | assumption | (extract_lets +implicits +onlyGivenNames x; first | (refine Keeps.named (z := z) (x := x) ?_ fun hx => ?_; (on_goal 1 => dsimp -zeta only [x]; clear x); (on_goal 2 => clear_value x)) | clear_value x) | split | fail_if_no_progress refine Keeps.of_mk ?_)

theorem State.loadWord_keeps {z s : State} (rs : List (Nat × Nat)) (a : Nat) (hK : Keeps z s) : Keeps z (State.loadWord s rs a) := by
  unfold State.loadWord; with_reducible repeat' (first | assumption | (extract_lets +implicits +onlyGivenNames x; first | (refine Keeps.named (z := z) (x := x) ?_ fun hx => ?_; (on_goal 1 => dsimp -zeta only [x]; clear x); (on_goal 2 => clear_value x)) | clear_value x) | apply Keeps.ite | split | apply State.setReg_keeps | apply State.setLive_keeps | fail_if_no_progress refine Keeps.of_mk ?_)

theorem State.loadRegs_keeps {z s : State} (g : GsSec) (hK : Keeps z s) : Keeps z (State.loadRegs s g) := by
  unfold State.loadRegs; with_reducible repeat' (first | assumption | intro x y hx | (extract_lets +implicits +onlyGivenNames x; first | (refine Keeps.named (z := z) (x := x) ?_ fun hx => ?_; (on_goal 1 => dsimp -zeta only [x]; clear x); (on_goal 2 => clear_value x)) | (refine Keeps.named_snd (z := z) (x := x) ?_ fun hx => ?_; (on_goal 1 => dsimp -zeta only [x]; clear x); (on_goal 2 => clear_value x)) | (refine Keeps.named_fst (z := z) (x := x) ?_ fun hx => ?_; (on_goal 1 => dsimp -zeta only [x]; clear x); (on_goal 2 => clear_value x)) | clear_value x) | split | apply State.loadWord_keeps | apply Keeps.foldl | apply Keeps.foldl_snd | apply Keeps.foldl_snd2 | apply Keeps.foldl_fst | fail_if_no_progress refine Keeps.of_mk ?_)

theorem State.loadChip_keeps {z s : State} (g : GsSec) (hK : Keeps z s) : Keeps z (State.loadChip s g) := by
  unfold State.loadChip; with_reducible repeat' (first | assumption | (extract_lets +implicits +onlyGivenNames x; first | (refine Keeps.named (z := z) (x := x) ?_ fun hx => ?_; (on_goal 1 => dsimp -zeta only [x]; clear x); (on_goal 2 => clear_value x)) | (refine Keeps.sec x ?_; subst x) | clear_value x) | apply Keeps.ite | split | apply State.wr_keeps | fail_if_no_progress refine Keeps.of_mk ?_)

theorem State.loadHub_keeps {z s : State} (g : GsSec) (hK : Keeps z s) : Keeps z (State.loadHub s g) := by
  unfold State.loadHub; with_reducible repeat' (first | assumption | intro x y hx | (extract_lets +implicits +onlyGivenNames x; first | (refine Keeps.named (z := z) (x := x) ?_ fun hx => ?_; (on_goal 1 => dsimp -zeta only [x]; clear x); (on_goal 2 => clear_value x)) | (refine Keeps.named_snd (z := z) (x := x) ?_ fun hx => ?_; (on_goal 1 => dsimp -zeta only [x]; clear x); (on_goal 2 => clear_value x)) | (refine Keeps.named_fst (z := z) (x := x) ?_ fun hx => ?_; (on_goal 1 => dsimp -zeta only [x]; clear x); (on_goal 2 => clear_value x)) | (refine Keeps.hub x ?_; subst x) | clear_value x) | apply Keeps.ite | split | apply Keeps.foldl | apply Keeps.foldl_snd | apply Keeps.foldl_snd2 | apply Keeps.foldl_fst | fail_if_no_progress refine Keeps.of_mk ?_ | refine Keeps.of_pair (by assumption) ?_ | refine Keeps.of_pair_fst (by assumption) ?_)

theorem State.loadHead_keeps {z s : State} (g : GsSec) (hK : Keeps z s) : Keeps z (State.loadHead s g) := by
  unfold State.loadHead; with_reducible repeat' (first | assumption | intro x y hx | (extract_lets +implicits +onlyGivenNames x; first | (refine Keeps.named (z := z) (x := x) ?_ fun hx => ?_; (on_goal 1 => dsimp -zeta only [x]; clear x); (on_goal 2 => clear_value x)) | (refine Keeps.named_snd (z := z) (x := x) ?_ fun hx => ?_; (on_goal 1 => dsimp -zeta only [x]; clear x); (on_goal 2 => clear_value x)) | (refine Keeps.named_fst (z := z) (x := x) ?_ fun hx => ?_; (on_goal 1 => dsimp -zeta only [x]; clear x); (on_goal 2 => clear_value x)) | clear_value x) | split | apply State.wr64_keeps | apply Keeps.foldl | apply Keeps.foldl_snd | apply Keeps.foldl_snd2 | apply Keeps.foldl_fst | fail_if_no_progress refine Keeps.of_mk ?_)

theorem State.loadCore_keeps {z s : State} (g : GsSec) (hK : Keeps z s) : Keeps z (State.loadCore s g) := by
  unfold State.loadCore; with_reducible repeat' (first | assumption | intro x y hx | (extract_lets +implicits +onlyGivenNames x; first | (refine Keeps.named (z := z) (x := x) ?_ fun hx => ?_; (on_goal 1 => dsimp -zeta only [x]; clear x); (on_goal 2 => clear_value x)) | (refine Keeps.named_snd (z := z) (x := x) ?_ fun hx => ?_; (on_goal 1 => dsimp -zeta only [x]; clear x); (on_goal 2 => clear_value x)) | (refine Keeps.named_fst (z := z) (x := x) ?_ fun hx => ?_; (on_goal 1 => dsimp -zeta only [x]; clear x); (on_goal 2 => clear_value x)) | clear_value x) | split | apply State.modCore_keeps | apply State.localWrite_keeps | apply State.setCore_keeps | apply State.clearLink_keeps | apply State.intcEndCore_keeps | apply Keeps.foldl | apply Keeps.foldl_snd | apply Keeps.foldl_snd2 | apply Keeps.foldl_fst | fail_if_no_progress refine Keeps.of_mk ?_ | refine Keeps.of_pair (by assumption) ?_ | refine Keeps.of_pair_fst (by assumption) ?_)

theorem State.loadDer_keeps {z s : State} (on : Bool) (hK : Keeps z s) : Keeps z (State.loadDer s on) := by
  unfold State.loadDer; with_reducible repeat' (first | assumption | apply Keeps.ite | split | apply State.derDisable_keeps | fail_if_no_progress refine Keeps.of_mk ?_)

theorem State.loadFaults_keeps {z s : State} (before : State) (hK : Keeps z s) : Keeps z (State.loadFaults s before) := by
  unfold State.loadFaults; with_reducible repeat' (first | assumption | intro x y hx | (extract_lets +implicits +onlyGivenNames x; first | (refine Keeps.named (z := z) (x := x) ?_ fun hx => ?_; (on_goal 1 => dsimp -zeta only [x]; clear x); (on_goal 2 => clear_value x)) | (refine Keeps.named_snd (z := z) (x := x) ?_ fun hx => ?_; (on_goal 1 => dsimp -zeta only [x]; clear x); (on_goal 2 => clear_value x)) | (refine Keeps.named_fst (z := z) (x := x) ?_ fun hx => ?_; (on_goal 1 => dsimp -zeta only [x]; clear x); (on_goal 2 => clear_value x)) | clear_value x) | apply Keeps.ite | split | apply State.before_keeps | apply Keeps.foldl | apply Keeps.foldl_snd | apply Keeps.foldl_snd2 | apply Keeps.foldl_fst | fail_if_no_progress refine Keeps.of_mk ?_)

theorem State.loadPort_keeps {z s : State} (g : GsSec) (hK : Keeps z s) : Keeps z (State.loadPort s g) := by
  unfold State.loadPort; with_reducible repeat' (first | assumption | apply Keeps.ite | split | apply State.wr_keeps | fail_if_no_progress refine Keeps.of_mk ?_)

theorem State.loadUnit_keeps {z s : State} (g : GsSec) (hK : Keeps z s) : Keeps z (State.loadUnit s g) := by
  unfold State.loadUnit; with_reducible repeat' (first | assumption | (extract_lets +implicits +onlyGivenNames x; first | (refine Keeps.named (z := z) (x := x) ?_ fun hx => ?_; (on_goal 1 => dsimp -zeta only [x]; clear x); (on_goal 2 => clear_value x)) | clear_value x) | apply Keeps.ite | split | apply State.before_keeps | apply State.loadRegs_keeps | apply State.loadChip_keeps | apply State.loadHub_keeps | apply State.loadHead_keeps | apply State.loadCore_keeps | apply State.loadFaults_keeps | apply State.bellSwap_keeps | apply State.loadDer_keeps | apply State.loadPort_keeps | fail_if_no_progress refine Keeps.of_mk ?_ | refine Keeps.of_pair (by assumption) ?_ | refine Keeps.of_pair_fst (by assumption) ?_)

theorem State.enterImage_keeps {z s : State} (hK : Keeps z s) : Keeps z (State.enterImage s) := by
  unfold State.enterImage; with_reducible repeat' (first | assumption | intro x y hx | (extract_lets +implicits +onlyGivenNames x; first | (refine Keeps.named (z := z) (x := x) ?_ fun hx => ?_; (on_goal 1 => dsimp -zeta only [x]; clear x); (on_goal 2 => clear_value x)) | (refine Keeps.named_snd (z := z) (x := x) ?_ fun hx => ?_; (on_goal 1 => dsimp -zeta only [x]; clear x); (on_goal 2 => clear_value x)) | (refine Keeps.named_fst (z := z) (x := x) ?_ fun hx => ?_; (on_goal 1 => dsimp -zeta only [x]; clear x); (on_goal 2 => clear_value x)) | clear_value x) | apply Keeps.ite | split | apply State.setReg_keeps | apply State.archive_keeps | apply Keeps.foldl | apply Keeps.foldl_snd | apply Keeps.foldl_snd2 | apply Keeps.foldl_fst | fail_if_no_progress refine Keeps.of_mk ?_)

theorem State.bootDone_keeps {z s : State} (hK : Keeps z s) : Keeps z (State.bootDone s) := by
  unfold State.bootDone; with_reducible repeat' (first | assumption | (extract_lets +implicits +onlyGivenNames x; first | (refine Keeps.named (z := z) (x := x) ?_ fun hx => ?_; (on_goal 1 => dsimp -zeta only [x]; clear x); (on_goal 2 => clear_value x)) | (refine Keeps.sec x ?_; subst x) | clear_value x) | apply Keeps.ite | split | apply State.wr_keeps | fail_if_no_progress refine Keeps.of_mk ?_ | refine Keeps.of_pair (by assumption) ?_ | refine Keeps.of_pair_fst (by assumption) ?_)

theorem State.finishApply_keeps {z s : State} (hK : Keeps z s) : Keeps z (State.finishApply s) := by
  unfold State.finishApply; with_reducible repeat' (first | assumption | (extract_lets +implicits +onlyGivenNames x; first | (refine Keeps.named (z := z) (x := x) ?_ fun hx => ?_; (on_goal 1 => dsimp -zeta only [x]; clear x); (on_goal 2 => clear_value x)) | (refine Keeps.sec x ?_; subst x) | clear_value x) | apply Keeps.ite | split | apply State.clearStaging_keeps | apply State.setGsState_keeps | apply State.gsAnswer_keeps | apply State.enterImage_keeps | apply State.wr_keeps | apply State.wrapInc_keeps | apply State.bootDone_keeps | fail_if_no_progress refine Keeps.of_mk ?_)

theorem State.applyAtFrame_keeps {z s : State} (n : Nat) (hK : Keeps z s) : Keeps z (State.applyAtFrame s n) := by
  unfold State.applyAtFrame; with_reducible repeat' (first | assumption | (extract_lets +implicits +onlyGivenNames x; first | (refine Keeps.named (z := z) (x := x) ?_ fun hx => ?_; (on_goal 1 => dsimp -zeta only [x]; clear x); (on_goal 2 => clear_value x)) | clear_value x) | apply Keeps.ite | split | apply State.finishApply_keeps | apply State.beginApply_keeps | apply State.wr64_keeps | fail_if_no_progress refine Keeps.of_mk ?_)

theorem State.unitSwapped_keeps {z s : State} (g : GsSec) (hK : Keeps z s) : Keeps z (State.unitSwapped s g) := by
  unfold State.unitSwapped; with_reducible repeat' (first | assumption | (extract_lets +implicits +onlyGivenNames x; first | (refine Keeps.named (z := z) (x := x) ?_ fun hx => ?_; (on_goal 1 => dsimp -zeta only [x]; clear x); (on_goal 2 => clear_value x)) | clear_value x) | apply Keeps.ite | split | apply State.finishApply_keeps | fail_if_no_progress refine Keeps.of_mk ?_)

theorem State.releaseHubHold_keeps {z s : State} (hK : Keeps z s) : Keeps z (State.releaseHubHold s) := by
  unfold State.releaseHubHold; with_reducible repeat' (first | assumption | intro x y hx | (extract_lets +implicits +onlyGivenNames x; first | (refine Keeps.named (z := z) (x := x) ?_ fun hx => ?_; (on_goal 1 => dsimp -zeta only [x]; clear x); (on_goal 2 => clear_value x)) | (refine Keeps.named_snd (z := z) (x := x) ?_ fun hx => ?_; (on_goal 1 => dsimp -zeta only [x]; clear x); (on_goal 2 => clear_value x)) | (refine Keeps.named_fst (z := z) (x := x) ?_ fun hx => ?_; (on_goal 1 => dsimp -zeta only [x]; clear x); (on_goal 2 => clear_value x)) | clear_value x) | apply Keeps.ite | split | apply State.setHeadSwap_keeps | apply Keeps.foldl | apply Keeps.foldl_snd | apply Keeps.foldl_snd2 | apply Keeps.foldl_fst | fail_if_no_progress refine Keeps.of_mk ?_)

theorem State.parkSpoke_keeps {z s : State} (h : Nat) (hK : Keeps z s) : Keeps z (State.parkSpoke s h) := by
  unfold State.parkSpoke; with_reducible repeat' (first | assumption | (extract_lets +implicits +onlyGivenNames x; first | (refine Keeps.named (z := z) (x := x) ?_ fun hx => ?_; (on_goal 1 => dsimp -zeta only [x]; clear x); (on_goal 2 => clear_value x)) | clear_value x) | apply Keeps.ite | split | fail_if_no_progress refine Keeps.of_mk ?_)

theorem State.swapUnit_keeps {z s : State} (u : UnitName) (hK : Keeps z s) : Keeps z (State.swapUnit s u) := by
  unfold State.swapUnit; with_reducible repeat' (first | assumption | (extract_lets +implicits +onlyGivenNames x; first | (refine Keeps.named (z := z) (x := x) ?_ fun hx => ?_; (on_goal 1 => dsimp -zeta only [x]; clear x); (on_goal 2 => clear_value x)) | clear_value x) | apply Keeps.ite | split | apply State.finishApply_keeps | apply State.parkSpoke_keeps | apply State.loadUnit_keeps | apply State.releaseHubHold_keeps | apply State.unitSwapped_keeps | apply State.set1_keeps | apply State.wr_keeps | fail_if_no_progress refine Keeps.of_mk ?_ | refine Keeps.of_pair (by assumption) ?_ | refine Keeps.of_pair_fst (by assumption) ?_)

theorem execUnitSwap_keeps {z s : State} (t : Nat) (type : Nat) (num : Nat) (hK : Keeps z s) : KeepsR z (execUnitSwap t type num s) := by
  unfold execUnitSwap; with_reducible repeat' (first | assumption | refine KeepsR.of_next ?_ | (extract_lets +implicits +onlyGivenNames x; first | (refine Keeps.named (z := z) (x := x) ?_ fun hx => ?_; (on_goal 1 => dsimp -zeta only [x]; clear x); (on_goal 2 => clear_value x)) | clear_value x) | apply Keeps.ite | split | apply State.at_keeps | apply State.swapUnit_keeps | fail_if_no_progress refine Keeps.of_mk ?_)

theorem State.sectionState_keeps {z s : State} (h : Nat) (absent : Bool) (hK : Keeps z s) : Keeps z (State.sectionState s h absent) := by
  unfold State.sectionState; with_reducible repeat' (first | assumption | (extract_lets +implicits +onlyGivenNames x; first | (refine Keeps.named (z := z) (x := x) ?_ fun hx => ?_; (on_goal 1 => dsimp -zeta only [x]; clear x); (on_goal 2 => clear_value x)) | clear_value x) | apply Keeps.ite | split | apply State.setHeadSwap_keeps | apply State.modHead_keeps | fail_if_no_progress refine Keeps.of_mk ?_)

theorem State.headLoaded_keeps {z s : State} (h : Nat) (hK : Keeps z s) : Keeps z (State.headLoaded s h) := by
  unfold State.headLoaded; with_reducible repeat' (first | assumption | (extract_lets +implicits +onlyGivenNames x; first | (refine Keeps.named (z := z) (x := x) ?_ fun hx => ?_; (on_goal 1 => dsimp -zeta only [x]; clear x); (on_goal 2 => clear_value x)) | clear_value x) | apply Keeps.ite | split | apply State.modHead_keeps | apply State.loadUnit_keeps | apply State.sectionState_keeps | apply State.wr_keeps | apply State.unitSwapped_keeps | fail_if_no_progress refine Keeps.of_mk ?_ | refine Keeps.of_pair (by assumption) ?_ | refine Keeps.of_pair_fst (by assumption) ?_)

theorem execHeadSwapLoadDone_keeps {z s : State} (t : Nat) (h : Nat) (hK : Keeps z s) : KeepsR z (execHeadSwapLoadDone t h s) := by
  unfold execHeadSwapLoadDone; with_reducible repeat' (first | assumption | refine KeepsR.of_next ?_ | (extract_lets +implicits +onlyGivenNames x; first | (refine Keeps.named (z := z) (x := x) ?_ fun hx => ?_; (on_goal 1 => dsimp -zeta only [x]; clear x); (on_goal 2 => clear_value x)) | clear_value x) | apply Keeps.ite | split | apply State.at_keeps | apply State.headLoaded_keeps | fail_if_no_progress refine Keeps.of_mk ?_)

theorem execCorePark_keeps {z s : State} (t : Nat) (k : Nat) (hK : Keeps z s) : KeepsR z (execCorePark t k s) := by
  unfold execCorePark; with_reducible repeat' (first | assumption | refine KeepsR.of_next ?_ | (extract_lets +implicits +onlyGivenNames x; first | (refine Keeps.named (z := z) (x := x) ?_ fun hx => ?_; (on_goal 1 => dsimp -zeta only [x]; clear x); (on_goal 2 => clear_value x)) | clear_value x) | apply Keeps.ite | split | apply State.at_keeps | fail_if_no_progress refine Keeps.of_mk ?_)

theorem execCoreLoadDone_keeps {z s : State} (t : Nat) (k : Nat) (hK : Keeps z s) : KeepsR z (execCoreLoadDone t k s) := by
  unfold execCoreLoadDone; with_reducible repeat' (first | assumption | refine KeepsR.of_next ?_ | (extract_lets +implicits +onlyGivenNames x; first | (refine Keeps.named (z := z) (x := x) ?_ fun hx => ?_; (on_goal 1 => dsimp -zeta only [x]; clear x); (on_goal 2 => clear_value x)) | clear_value x) | split | apply State.at_keeps | apply State.loadUnit_keeps | apply State.unitSwapped_keeps | fail_if_no_progress refine Keeps.of_mk ?_ | refine Keeps.of_pair (by assumption) ?_ | refine Keeps.of_pair_fst (by assumption) ?_)

end Sys2Proof.Machine
end

