-- ==== Sys2Proof/Laws/KeepsFetch.lean ====
section
/-! SUPPORT. What the functions of Fetch keep (see Keeps). -/

set_option linter.all false

namespace Sys2Proof.Machine

theorem State.pickSprites_keeps {z s : State} (j : LineJob) (hactive : Nat) (hK : Keeps z s) : Keeps z (State.pickSprites s j hactive).2 := by
  unfold State.pickSprites; with_reducible repeat' (first | assumption | (extract_lets +implicits +onlyGivenNames x; first | (refine Keeps.named (z := z) (x := x) ?_ fun hx => ?_; (on_goal 1 => dsimp -zeta only [x]; clear x); (on_goal 2 => clear_value x)) | clear_value x) | apply Keeps.ite | split | apply State.before_keeps | apply State.setHead_keeps | apply State.satInc_keeps | apply State.peak_keeps | apply State.wr_keeps | fail_if_no_progress refine Keeps.of_mk ?_ | refine Keeps.of_pair (by assumption) ?_ | refine Keeps.of_pair_fst (by assumption) ?_)

theorem State.traceReqs_keeps {z s : State} (j : LineJob) (tr : Nat) (hK : Keeps z s) : Keeps z (State.traceReqs s j tr).2 := by
  unfold State.traceReqs; with_reducible repeat' (first | assumption | (extract_lets +implicits +onlyGivenNames x; first | (refine Keeps.named (z := z) (x := x) ?_ fun hx => ?_; (on_goal 1 => dsimp -zeta only [x]; clear x); (on_goal 2 => clear_value x)) | clear_value x) | apply Keeps.ite | split | apply State.setHead_keeps | fail_if_no_progress refine Keeps.of_mk ?_ | refine Keeps.of_pair (by assumption) ?_ | refine Keeps.of_pair_fst (by assumption) ?_)

theorem State.stopBuild_keeps {z s : State} (h : Nat) (n : Nat) (tr : Nat) (hK : Keeps z s) : Keeps z (State.stopBuild s h n tr) := by
  unfold State.stopBuild; with_reducible repeat' (first | assumption | (extract_lets +implicits +onlyGivenNames x; first | (refine Keeps.named (z := z) (x := x) ?_ fun hx => ?_; (on_goal 1 => dsimp -zeta only [x]; clear x); (on_goal 2 => clear_value x)) | clear_value x) | apply Keeps.ite | split | apply State.setHead_keeps | apply State.satInc_keeps | fail_if_no_progress refine Keeps.of_mk ?_ | refine Keeps.of_pair (by assumption) ?_ | refine Keeps.of_pair_fst (by assumption) ?_)

theorem State.startBuild_keeps {z s : State} (h : Nat) (tr : Nat) (n : Nat) (hK : Keeps z s) : Keeps z (State.startBuild s h tr n) := by
  unfold State.startBuild; with_reducible repeat' (first | assumption | (extract_lets +implicits +onlyGivenNames x; first | (refine Keeps.named (z := z) (x := x) ?_ fun hx => ?_; (on_goal 1 => dsimp -zeta only [x]; clear x); (on_goal 2 => clear_value x)) | (refine Keeps.named_snd (z := z) (x := x) ?_ fun hx => ?_; (on_goal 1 => dsimp -zeta only [x]; clear x); (on_goal 2 => clear_value x)) | clear_value x) | split | apply State.before_keeps | apply State.memRead_keeps | refine Keeps.of_pair (by assumption) (State.memRead_keeps _ _ _ ?_) | apply State.wr_keeps | apply State.modHead_keeps | fail_if_no_progress refine Keeps.of_mk ?_ | refine Keeps.of_pair (by assumption) ?_ | refine Keeps.of_pair_fst (by assumption) ?_)

theorem execTraceBuildStart_keeps {z s : State} (t : Nat) (h : Nat) (tr : Nat) (n : Nat) (hK : Keeps z s) : KeepsR z (execTraceBuildStart t h tr n s) := by
  unfold execTraceBuildStart; with_reducible repeat' (first | assumption | refine KeepsR.of_next ?_ | (extract_lets +implicits +onlyGivenNames x; first | (refine Keeps.named (z := z) (x := x) ?_ fun hx => ?_; (on_goal 1 => dsimp -zeta only [x]; clear x); (on_goal 2 => clear_value x)) | clear_value x) | apply Keeps.ite | split | apply State.at_keeps | apply State.before_keeps | apply State.startBuild_keeps | fail_if_no_progress refine Keeps.of_mk ?_)

theorem State.addJob_keeps {z s : State} (j : LineJob) (hK : Keeps z s) : Keeps z (State.addJob s j) := by
  unfold State.addJob; with_reducible repeat' (first | assumption | (extract_lets +implicits +onlyGivenNames x; first | (refine Keeps.named (z := z) (x := x) ?_ fun hx => ?_; (on_goal 1 => dsimp -zeta only [x]; clear x); (on_goal 2 => clear_value x)) | clear_value x) | split | apply State.modHead_keeps | fail_if_no_progress refine Keeps.of_mk ?_)

theorem State.lineStart_keeps {z s : State} (h : Nat) (n : Nat) (y : Nat) (hK : Keeps z s) : Keeps z (State.lineStart s h n y) := by
  unfold State.lineStart; with_reducible repeat' (first | assumption | (extract_lets +implicits +onlyGivenNames x; first | (refine Keeps.named (z := z) (x := x) ?_ fun hx => ?_; (on_goal 1 => dsimp -zeta only [x]; clear x); (on_goal 2 => clear_value x)) | (refine Keeps.named_snd (z := z) (x := x) ?_ fun hx => ?_; (on_goal 1 => dsimp -zeta only [x]; clear x); (on_goal 2 => clear_value x)) | clear_value x) | apply Keeps.ite | split | apply State.addJob_keeps | apply State.pickSprites_keeps | refine Keeps.of_pair (by assumption) (State.pickSprites_keeps _ _ ?_) | apply State.traceReqs_keeps | refine Keeps.of_pair (by assumption) (State.traceReqs_keeps _ _ ?_) | fail_if_no_progress refine Keeps.of_mk ?_ | refine Keeps.of_pair (by assumption) ?_ | refine Keeps.of_pair_fst (by assumption) ?_)

theorem State.fetchFrame_keeps {z s : State} (h : Nat) (n : Nat) (hK : Keeps z s) : Keeps z (State.fetchFrame s h n) := by
  unfold State.fetchFrame; with_reducible repeat' (first | assumption | (extract_lets +implicits +onlyGivenNames x; first | (refine Keeps.named (z := z) (x := x) ?_ fun hx => ?_; (on_goal 1 => dsimp -zeta only [x]; clear x); (on_goal 2 => clear_value x)) | clear_value x) | split | apply State.before_keeps | apply State.modHead_keeps | apply State.stopBuild_keeps | fail_if_no_progress refine Keeps.of_mk ?_)

theorem execFetchLineStart_keeps {z s : State} (t : Nat) (h : Nat) (n : Nat) (y : Nat) (hK : Keeps z s) : KeepsR z (execFetchLineStart t h n y s) := by
  unfold execFetchLineStart; with_reducible repeat' (first | assumption | refine KeepsR.of_next ?_ | (extract_lets +implicits +onlyGivenNames x; first | (refine Keeps.named (z := z) (x := x) ?_ fun hx => ?_; (on_goal 1 => dsimp -zeta only [x]; clear x); (on_goal 2 => clear_value x)) | clear_value x) | apply Keeps.ite | split | apply State.at_keeps | apply State.fetchFrame_keeps | apply State.lineStart_keeps | fail_if_no_progress refine Keeps.of_mk ?_)

theorem State.dropReqs_keeps {z s : State} (j : LineJob) (rs : List FetchReq) (hK : Keeps z s) : Keeps z (State.dropReqs s j rs).2 := by
  unfold State.dropReqs; with_reducible repeat' (first | assumption | (extract_lets +implicits +onlyGivenNames x; first | (refine Keeps.named (z := z) (x := x) ?_ fun hx => ?_; (on_goal 1 => dsimp -zeta only [x]; clear x); (on_goal 2 => clear_value x)) | clear_value x) | apply Keeps.ite | split | apply State.satInc_keeps | fail_if_no_progress refine Keeps.of_mk ?_)

theorem State.askMore_keeps {z s : State} (j : LineJob) (rs : List FetchReq) (hK : Keeps z s) : Keeps z (State.askMore s j rs).2 := by
  unfold State.askMore; with_reducible repeat' (first | assumption | (extract_lets +implicits +onlyGivenNames x; first | (refine Keeps.named (z := z) (x := x) ?_ fun hx => ?_; (on_goal 1 => dsimp -zeta only [x]; clear x); (on_goal 2 => clear_value x)) | (refine Keeps.named_snd (z := z) (x := x) ?_ fun hx => ?_; (on_goal 1 => dsimp -zeta only [x]; clear x); (on_goal 2 => clear_value x)) | clear_value x) | apply Keeps.ite | split | apply State.dropReqs_keeps | refine Keeps.of_pair (by assumption) (State.dropReqs_keeps _ _ ?_) | fail_if_no_progress refine Keeps.of_mk ?_)

theorem State.mapArrived_keeps {z s : State} (j : LineJob) (l : Nat) (sc : Nat) (off : Nat) (p : List Byte × Nat) (hK : Keeps z s) : Keeps z (State.mapArrived s j l sc off p).2 := by
  unfold State.mapArrived; with_reducible repeat' (first | assumption | (extract_lets +implicits +onlyGivenNames x; first | (refine Keeps.named (z := z) (x := x) ?_ fun hx => ?_; (on_goal 1 => dsimp -zeta only [x]; clear x); (on_goal 2 => clear_value x)) | (refine Keeps.named_snd (z := z) (x := x) ?_ fun hx => ?_; (on_goal 1 => dsimp -zeta only [x]; clear x); (on_goal 2 => clear_value x)) | clear_value x) | split | apply State.satInc_keeps | apply State.askMore_keeps | refine Keeps.of_pair (by assumption) (State.askMore_keeps _ _ ?_) | fail_if_no_progress refine Keeps.of_mk ?_)

theorem State.cadBad_keeps {z s : State} (h : Nat) (c : Nat) (y : Nat) (entry : Nat) (hK : Keeps z s) : Keeps z (State.cadBad s h c y entry) := by
  unfold State.cadBad; with_reducible repeat' (first | assumption | (extract_lets +implicits +onlyGivenNames x; first | (refine Keeps.named (z := z) (x := x) ?_ fun hx => ?_; (on_goal 1 => dsimp -zeta only [x]; clear x); (on_goal 2 => clear_value x)) | clear_value x) | apply State.satInc_keeps | apply State.wr_keeps | apply State.raise_keeps | fail_if_no_progress refine Keeps.of_mk ?_)

theorem State.indexArrived_keeps {z s : State} (j : LineJob) (c : Nat) (p : List Byte × Nat) (hK : Keeps z s) : Keeps z (State.indexArrived s j c p).2 := by
  unfold State.indexArrived; with_reducible repeat' (first | assumption | (extract_lets +implicits +onlyGivenNames x; first | (refine Keeps.named (z := z) (x := x) ?_ fun hx => ?_; (on_goal 1 => dsimp -zeta only [x]; clear x); (on_goal 2 => clear_value x)) | (refine Keeps.named_snd (z := z) (x := x) ?_ fun hx => ?_; (on_goal 1 => dsimp -zeta only [x]; clear x); (on_goal 2 => clear_value x)) | clear_value x) | apply Keeps.ite | split | apply State.satInc_keeps | apply State.cadBad_keeps | apply State.askMore_keeps | refine Keeps.of_pair (by assumption) (State.askMore_keeps _ _ ?_) | fail_if_no_progress refine Keeps.of_mk ?_ | refine Keeps.of_pair (by assumption) ?_ | refine Keeps.of_pair_fst (by assumption) ?_)

theorem State.dataArrived_keeps {z s : State} (j : LineJob) (f : Fetched) (hK : Keeps z s) : Keeps z (State.dataArrived s j f).2 := by
  unfold State.dataArrived; with_reducible repeat' (first | assumption | (extract_lets +implicits +onlyGivenNames x; first | (refine Keeps.named (z := z) (x := x) ?_ fun hx => ?_; (on_goal 1 => dsimp -zeta only [x]; clear x); (on_goal 2 => clear_value x)) | (refine Keeps.named_snd (z := z) (x := x) ?_ fun hx => ?_; (on_goal 1 => dsimp -zeta only [x]; clear x); (on_goal 2 => clear_value x)) | clear_value x) | split | apply State.askMore_keeps | refine Keeps.of_pair (by assumption) (State.askMore_keeps _ _ ?_) | apply State.mapArrived_keeps | refine Keeps.of_pair (by assumption) (State.mapArrived_keeps _ _ _ _ _ ?_) | apply State.indexArrived_keeps | refine Keeps.of_pair (by assumption) (State.indexArrived_keeps _ _ _ ?_) | apply State.setHead_keeps | fail_if_no_progress refine Keeps.of_mk ?_ | refine Keeps.of_pair (by assumption) ?_ | refine Keeps.of_pair_fst (by assumption) ?_)

theorem State.setJob_keeps {z s : State} (j : LineJob) (hK : Keeps z s) : Keeps z (State.setJob s j) := by
  unfold State.setJob; with_reducible repeat' (first | assumption | (extract_lets +implicits +onlyGivenNames x; first | (refine Keeps.named (z := z) (x := x) ?_ fun hx => ?_; (on_goal 1 => dsimp -zeta only [x]; clear x); (on_goal 2 => clear_value x)) | clear_value x) | apply Keeps.ite | split | apply State.modHead_keeps | fail_if_no_progress refine Keeps.of_mk ?_)

theorem execFetchDataArrive_keeps {z s : State} (t : Nat) (h : Nat) (n : Nat) (y : Nat) (off : Nat) (hK : Keeps z s) : KeepsR z (execFetchDataArrive t h n y off s) := by
  unfold execFetchDataArrive; with_reducible repeat' (first | assumption | refine KeepsR.of_next ?_ | (extract_lets +implicits +onlyGivenNames x; first | (refine Keeps.named (z := z) (x := x) ?_ fun hx => ?_; (on_goal 1 => dsimp -zeta only [x]; clear x); (on_goal 2 => clear_value x)) | (refine Keeps.named_snd (z := z) (x := x) ?_ fun hx => ?_; (on_goal 1 => dsimp -zeta only [x]; clear x); (on_goal 2 => clear_value x)) | clear_value x) | split | apply State.at_keeps | apply State.dataArrived_keeps | refine Keeps.of_pair (by assumption) (State.dataArrived_keeps _ _ ?_) | apply State.setJob_keeps | fail_if_no_progress refine Keeps.of_mk ?_ | refine Keeps.of_pair (by assumption) ?_ | refine Keeps.of_pair_fst (by assumption) ?_)

theorem State.endLinePeriod_keeps {z s : State} (h : Nat) (c1 : Nat) (hK : Keeps z s) : Keeps z (State.endLinePeriod s h c1) := by
  unfold State.endLinePeriod; with_reducible repeat' (first | assumption | (extract_lets +implicits +onlyGivenNames x; first | (refine Keeps.named (z := z) (x := x) ?_ fun hx => ?_; (on_goal 1 => dsimp -zeta only [x]; clear x); (on_goal 2 => clear_value x)) | (refine Keeps.hub x ?_; subst x) | clear_value x) | apply Keeps.ite | split | apply State.wr_keeps | fail_if_no_progress refine Keeps.of_mk ?_)

theorem State.dropLine_keeps {z s : State} (j : LineJob) (hK : Keeps z s) : Keeps z (State.dropLine s j) := by
  unfold State.dropLine; with_reducible repeat' (first | assumption | (extract_lets +implicits +onlyGivenNames x; first | (refine Keeps.named (z := z) (x := x) ?_ fun hx => ?_; (on_goal 1 => dsimp -zeta only [x]; clear x); (on_goal 2 => clear_value x)) | (refine Keeps.named_snd (z := z) (x := x) ?_ fun hx => ?_; (on_goal 1 => dsimp -zeta only [x]; clear x); (on_goal 2 => clear_value x)) | clear_value x) | apply State.satInc_keeps | apply State.dropReqs_keeps | refine Keeps.of_pair (by assumption) (State.dropReqs_keeps _ _ ?_) | apply State.setJob_keeps | fail_if_no_progress refine Keeps.of_mk ?_ | refine Keeps.of_pair (by assumption) ?_ | refine Keeps.of_pair_fst (by assumption) ?_)

theorem execFetchLineDrop_keeps {z s : State} (t : Nat) (h : Nat) (n : Nat) (y : Nat) (hK : Keeps z s) : KeepsR z (execFetchLineDrop t h n y s) := by
  unfold execFetchLineDrop; with_reducible repeat' (first | assumption | refine KeepsR.of_next ?_ | (extract_lets +implicits +onlyGivenNames x; first | (refine Keeps.named (z := z) (x := x) ?_ fun hx => ?_; (on_goal 1 => dsimp -zeta only [x]; clear x); (on_goal 2 => clear_value x)) | clear_value x) | apply Keeps.ite | split | apply State.at_keeps | apply State.endLinePeriod_keeps | apply State.dropLine_keeps | fail_if_no_progress refine Keeps.of_mk ?_ | refine Keeps.of_pair (by assumption) ?_ | refine Keeps.of_pair_fst (by assumption) ?_)

end Sys2Proof.Machine
end

