-- ==== Sys2Proof/Laws/KeepsPixels.lean ====
section
/-! SUPPORT. What the functions of Pixels keep (see Keeps). -/

set_option linter.all false

namespace Sys2Proof.Machine

theorem State.segReceived_keeps {z s : State} (j : LineJob) (x : Nat) (hK : Keeps z s) : Keeps z (State.segReceived s j x).2 := by
  unfold State.segReceived; with_reducible repeat' (first | assumption | (extract_lets +implicits +onlyGivenNames x; first | (refine Keeps.named (z := z) (x := x) ?_ fun hx => ?_; (on_goal 1 => dsimp -zeta only [x]; clear x); (on_goal 2 => clear_value x)) | (refine Keeps.named_snd (z := z) (x := x) ?_ fun hx => ?_; (on_goal 1 => dsimp -zeta only [x]; clear x); (on_goal 2 => clear_value x)) | clear_value x) | apply Keeps.ite | split | apply State.draw_keeps | refine Keeps.of_pair (by assumption) (State.draw_keeps ?_) | fail_if_no_progress refine Keeps.of_mk ?_ | refine Keeps.of_pair (by assumption) ?_ | refine Keeps.of_pair_fst (by assumption) ?_)

theorem State.ringPixel_keeps {z s : State} (j : LineJob) (x : Nat) (hK : Keeps z s) : Keeps z (State.ringPixel s j x).2 := by
  unfold State.ringPixel; with_reducible repeat' (first | assumption | (extract_lets +implicits +onlyGivenNames x; first | (refine Keeps.named (z := z) (x := x) ?_ fun hx => ?_; (on_goal 1 => dsimp -zeta only [x]; clear x); (on_goal 2 => clear_value x)) | (refine Keeps.named_snd (z := z) (x := x) ?_ fun hx => ?_; (on_goal 1 => dsimp -zeta only [x]; clear x); (on_goal 2 => clear_value x)) | clear_value x) | apply Keeps.ite | split | apply State.segReceived_keeps | refine Keeps.of_pair (by assumption) (State.segReceived_keeps _ _ ?_) | apply State.draw_keeps | refine Keeps.of_pair (by assumption) (State.draw_keeps ?_) | fail_if_no_progress refine Keeps.of_mk ?_ | refine Keeps.of_pair (by assumption) ?_ | refine Keeps.of_pair_fst (by assumption) ?_)

theorem State.openLine_keeps {z s : State} (h : Nat) (n : Nat) (y : Nat) (x : Nat) (hK : Keeps z s) : Keeps z (State.openLine s h n y x) := by
  unfold State.openLine; with_reducible repeat' (first | assumption | (extract_lets +implicits +onlyGivenNames x; first | (refine Keeps.named (z := z) (x := x) ?_ fun hx => ?_; (on_goal 1 => dsimp -zeta only [x]; clear x); (on_goal 2 => clear_value x)) | clear_value x) | apply Keeps.ite | split | apply State.addJob_keeps | apply State.setJob_keeps | apply State.before_keeps | fail_if_no_progress refine Keeps.of_mk ?_ | refine Keeps.of_pair (by assumption) ?_ | refine Keeps.of_pair_fst (by assumption) ?_)

theorem State.sourcePix_keeps {z s : State} (j : LineJob) (x : Nat) (hK : Keeps z s) : Keeps z (State.sourcePix s j x).2 := by
  unfold State.sourcePix; with_reducible repeat' (first | assumption | (extract_lets +implicits +onlyGivenNames x; first | (refine Keeps.named (z := z) (x := x) ?_ fun hx => ?_; (on_goal 1 => dsimp -zeta only [x]; clear x); (on_goal 2 => clear_value x)) | (refine Keeps.named_snd (z := z) (x := x) ?_ fun hx => ?_; (on_goal 1 => dsimp -zeta only [x]; clear x); (on_goal 2 => clear_value x)) | clear_value x) | apply Keeps.ite | split | apply State.ringPixel_keeps | refine Keeps.of_pair (by assumption) (State.ringPixel_keeps _ _ ?_) | apply State.before_keeps | fail_if_no_progress refine Keeps.of_mk ?_)

theorem State.lookPixel_keeps {z s : State} (h : Nat) (n : Nat) (y : Nat) (x : Nat) (hK : Keeps z s) : Keeps z (State.lookPixel s h n y x) := by
  unfold State.lookPixel; with_reducible repeat' (first | assumption | (extract_lets +implicits +onlyGivenNames x; first | (refine Keeps.named (z := z) (x := x) ?_ fun hx => ?_; (on_goal 1 => dsimp -zeta only [x]; clear x); (on_goal 2 => clear_value x)) | (refine Keeps.named_snd (z := z) (x := x) ?_ fun hx => ?_; (on_goal 1 => dsimp -zeta only [x]; clear x); (on_goal 2 => clear_value x)) | clear_value x) | split | apply State.openLine_keeps | apply State.sourcePix_keeps | refine Keeps.of_pair (by assumption) (State.sourcePix_keeps _ _ ?_) | apply State.setJob_keeps | fail_if_no_progress refine Keeps.of_mk ?_ | refine Keeps.of_pair (by assumption) ?_ | refine Keeps.of_pair_fst (by assumption) ?_)

theorem execPixelLookup_keeps {z s : State} (t : Nat) (h : Nat) (n : Nat) (y : Nat) (x : Nat) (hK : Keeps z s) : KeepsR z (execPixelLookup t h n y x s) := by
  unfold execPixelLookup; with_reducible repeat' (first | assumption | refine KeepsR.of_next ?_ | (extract_lets +implicits +onlyGivenNames x; first | (refine Keeps.named (z := z) (x := x) ?_ fun hx => ?_; (on_goal 1 => dsimp -zeta only [x]; clear x); (on_goal 2 => clear_value x)) | clear_value x) | apply Keeps.ite | split | apply State.at_keeps | apply State.lookPixel_keeps | fail_if_no_progress refine Keeps.of_mk ?_)

theorem State.countUnderrun_keeps {z s : State} (j : LineJob) (x : Nat) (hK : Keeps z s) : Keeps z (State.countUnderrun s j x).2 := by
  unfold State.countUnderrun; with_reducible repeat' (first | assumption | (extract_lets +implicits +onlyGivenNames x; first | (refine Keeps.named (z := z) (x := x) ?_ fun hx => ?_; (on_goal 1 => dsimp -zeta only [x]; clear x); (on_goal 2 => clear_value x)) | clear_value x) | apply Keeps.ite | split | apply State.satInc_keeps | apply State.wr_keeps | apply State.raise_keeps | apply State.modHead_keeps | fail_if_no_progress refine Keeps.of_mk ?_)

theorem State.countMismatch_keeps {z s : State} (j : LineJob) (x : Nat) (hK : Keeps z s) : Keeps z (State.countMismatch s j x).2 := by
  unfold State.countMismatch; with_reducible repeat' (first | assumption | (extract_lets +implicits +onlyGivenNames x; first | (refine Keeps.named (z := z) (x := x) ?_ fun hx => ?_; (on_goal 1 => dsimp -zeta only [x]; clear x); (on_goal 2 => clear_value x)) | clear_value x) | apply Keeps.ite | split | apply State.satInc_keeps | apply State.wr_keeps | apply State.modHead_keeps | apply State.raise_keeps | fail_if_no_progress refine Keeps.of_mk ?_)

theorem State.photonsLeave_keeps {z s : State} (j : LineJob) (x : Nat) (hK : Keeps z s) : Keeps z (State.photonsLeave s j x) := by
  unfold State.photonsLeave; with_reducible repeat' (first | assumption | (extract_lets +implicits +onlyGivenNames x; first | (refine Keeps.named (z := z) (x := x) ?_ fun hx => ?_; (on_goal 1 => dsimp -zeta only [x]; clear x); (on_goal 2 => clear_value x)) | clear_value x) | apply Keeps.ite | split | fail_if_no_progress refine Keeps.of_mk ?_)

theorem State.sendPixel_keeps {z s : State} (j : LineJob) (x : Nat) (c : Option Rgb) (a : Option Rgb) (b : Option Rgb) (hK : Keeps z s) : Keeps z (State.sendPixel s j x c a b) := by
  unfold State.sendPixel; with_reducible repeat' (first | assumption | (extract_lets +implicits +onlyGivenNames x; first | (refine Keeps.named (z := z) (x := x) ?_ fun hx => ?_; (on_goal 1 => dsimp -zeta only [x]; clear x); (on_goal 2 => clear_value x)) | (refine Keeps.named_snd (z := z) (x := x) ?_ fun hx => ?_; (on_goal 1 => dsimp -zeta only [x]; clear x); (on_goal 2 => clear_value x)) | clear_value x) | apply Keeps.ite | split | apply State.countUnderrun_keeps | refine Keeps.of_pair (by assumption) (State.countUnderrun_keeps _ _ ?_) | apply State.photonsLeave_keeps | apply State.countMismatch_keeps | refine Keeps.of_pair (by assumption) (State.countMismatch_keeps _ _ ?_) | apply State.modHead_keeps | apply State.setJob_keeps | fail_if_no_progress refine Keeps.of_mk ?_ | refine Keeps.of_pair (by assumption) ?_ | refine Keeps.of_pair_fst (by assumption) ?_)

theorem execPixelSend_keeps {z s : State} (t : Nat) (h : Nat) (n : Nat) (y : Nat) (x : Nat) (a : Option (Nat × Nat × Nat)) (b : Option (Nat × Nat × Nat)) (hK : Keeps z s) : KeepsR z (execPixelSend t h n y x a b s) := by
  unfold execPixelSend; with_reducible repeat' (first | assumption | refine KeepsR.of_next ?_ | (extract_lets +implicits +onlyGivenNames x; first | (refine Keeps.named (z := z) (x := x) ?_ fun hx => ?_; (on_goal 1 => dsimp -zeta only [x]; clear x); (on_goal 2 => clear_value x)) | clear_value x) | apply Keeps.ite | split | apply State.at_keeps | apply State.sendPixel_keeps | fail_if_no_progress refine Keeps.of_mk ?_ | refine Keeps.of_pair (by assumption) ?_ | refine Keeps.of_pair_fst (by assumption) ?_)

end Sys2Proof.Machine
end

