-- ==== Sys2Proof/Laws/KeepsSeals.lean ====
section
/-! SUPPORT. What the functions of Seals keep (see Keeps). -/

set_option linter.all false

namespace Sys2Proof.Machine

theorem execLineDigestComplete_keeps {z s : State} (t : Nat) (h : Nat) (n : Nat) (y : Nat) (hK : Keeps z s) : KeepsR z (execLineDigestComplete t h n y s) := by
  unfold execLineDigestComplete; with_reducible repeat' (first | assumption | refine KeepsR.of_next ?_ | (extract_lets +implicits +onlyGivenNames x; first | (refine Keeps.named (z := z) (x := x) ?_ fun hx => ?_; (on_goal 1 => dsimp -zeta only [x]; clear x); (on_goal 2 => clear_value x)) | clear_value x) | apply Keeps.ite | split | apply State.at_keeps | apply State.modHead_keeps | fail_if_no_progress refine Keeps.of_mk ?_ | refine Keeps.of_pair (by assumption) ?_ | refine Keeps.of_pair_fst (by assumption) ?_)

theorem execBandSealComplete_keeps {z s : State} (t : Nat) (h : Nat) (n : Nat) (k : Nat) (hK : Keeps z s) : KeepsR z (execBandSealComplete t h n k s) := by
  unfold execBandSealComplete; with_reducible repeat' (first | assumption | refine KeepsR.of_next ?_ | (extract_lets +implicits +onlyGivenNames x; first | (refine Keeps.named (z := z) (x := x) ?_ fun hx => ?_; (on_goal 1 => dsimp -zeta only [x]; clear x); (on_goal 2 => clear_value x)) | clear_value x) | apply Keeps.ite | split | apply State.at_keeps | apply State.modHead_keeps | fail_if_no_progress refine Keeps.of_mk ?_)

theorem State.putBands_keeps {z s : State} (h : Nat) (n : Nat) (flags : Nat) (seals : List (List Byte)) (hK : Keeps z s) : Keeps z (State.putBands s h n flags seals) := by
  unfold State.putBands; with_reducible repeat' (first | assumption | (extract_lets +implicits +onlyGivenNames x; first | (refine Keeps.named (z := z) (x := x) ?_ fun hx => ?_; (on_goal 1 => dsimp -zeta only [x]; clear x); (on_goal 2 => clear_value x)) | clear_value x) | apply Keeps.ite | split | apply State.memWrite_keeps | apply State.wrapInc_keeps | apply State.archive_keeps | fail_if_no_progress refine Keeps.of_mk ?_)

theorem State.sealRegs_keeps {z s : State} (h : Nat) (n : Nat) (flags : Nat) (bands : Nat) (fseal : List Byte) (prev : List Byte) (hK : Keeps z s) : Keeps z (State.sealRegs s h n flags bands fseal prev) := by
  unfold State.sealRegs; with_reducible repeat' (first | assumption | intro x y hx | (extract_lets +implicits +onlyGivenNames x; first | (refine Keeps.named (z := z) (x := x) ?_ fun hx => ?_; (on_goal 1 => dsimp -zeta only [x]; clear x); (on_goal 2 => clear_value x)) | (refine Keeps.named_snd (z := z) (x := x) ?_ fun hx => ?_; (on_goal 1 => dsimp -zeta only [x]; clear x); (on_goal 2 => clear_value x)) | (refine Keeps.named_fst (z := z) (x := x) ?_ fun hx => ?_; (on_goal 1 => dsimp -zeta only [x]; clear x); (on_goal 2 => clear_value x)) | clear_value x) | split | apply State.wr_keeps | apply State.wr64_keeps | apply State.setReg_keeps | apply Keeps.foldl | apply Keeps.foldl_snd | apply Keeps.foldl_snd2 | apply Keeps.foldl_fst | fail_if_no_progress refine Keeps.of_mk ?_)

theorem State.countGaps_keeps {z s : State} (h : Nat) (tr : Nat) (hK : Keeps z s) : Keeps z (State.countGaps s h tr) := by
  unfold State.countGaps; with_reducible repeat' (first | assumption | split | apply State.wr_keeps | fail_if_no_progress refine Keeps.of_mk ?_)

theorem State.assemble_keeps {z s : State} (h : Nat) (n : Nat) (hK : Keeps z s) : Keeps z (State.assemble s h n) := by
  unfold State.assemble; with_reducible repeat' (first | assumption | (extract_lets +implicits +onlyGivenNames x; first | (refine Keeps.named (z := z) (x := x) ?_ fun hx => ?_; (on_goal 1 => dsimp -zeta only [x]; clear x); (on_goal 2 => clear_value x)) | (refine Keeps.named_fst (z := z) (x := x) ?_ fun hx => ?_; (on_goal 1 => dsimp -zeta only [x]; clear x); (on_goal 2 => clear_value x)) | clear_value x) | split | apply State.sealRegs_keeps | apply State.putBands_keeps | apply State.countGaps_keeps | apply State.wr_keeps | apply State.peak_keeps | apply State.modHead_keeps | fail_if_no_progress refine Keeps.of_mk ?_)

theorem State.signFront_keeps {z s : State} (hK : Keeps z s) : Keeps z (State.signFront s) := by
  unfold State.signFront; with_reducible repeat' (first | assumption | (extract_lets +implicits +onlyGivenNames x; first | (refine Keeps.named (z := z) (x := x) ?_ fun hx => ?_; (on_goal 1 => dsimp -zeta only [x]; clear x); (on_goal 2 => clear_value x)) | (refine Keeps.named_fst (z := z) (x := x) ?_ fun hx => ?_; (on_goal 1 => dsimp -zeta only [x]; clear x); (on_goal 2 => clear_value x)) | clear_value x) | apply Keeps.ite | split | apply State.wr_keeps | apply State.memWrite_keeps | apply State.wrapInc_keeps | apply State.wr64_keeps | apply State.archive_keeps | fail_if_no_progress refine Keeps.of_mk ?_ | refine Keeps.of_pair (by assumption) ?_ | refine Keeps.of_pair_fst (by assumption) ?_)

theorem execRecordSigned_keeps {z s : State} (t : Nat) (hK : Keeps z s) : KeepsR z (execRecordSigned t s) := by
  unfold execRecordSigned; with_reducible repeat' (first | assumption | refine KeepsR.of_next ?_ | apply State.at_keeps | apply State.signFront_keeps | fail_if_no_progress refine Keeps.of_mk ?_)

end Sys2Proof.Machine
end

