-- ==== Sys2Proof/Laws/KeepsTx.lean ====
section
/-! SUPPORT. What the functions of Tx keep (see Keeps). -/

set_option linter.all false

namespace Sys2Proof.Machine

theorem State.txIrq_keeps {z s : State} (f : Nat → Fld) (h : Nat) (hK : Keeps z s) : Keeps z (State.txIrq s f h) := by
  unfold State.txIrq; with_reducible repeat' (first | assumption | apply State.set1_keeps | fail_if_no_progress refine Keeps.of_mk ?_)

theorem State.refreshPhy_keeps {z s : State} (h : Nat) (hK : Keeps z s) : Keeps z (State.refreshPhy s h) := by
  unfold State.refreshPhy; with_reducible repeat' (first | assumption | (extract_lets +implicits +onlyGivenNames x; first | (refine Keeps.named (z := z) (x := x) ?_ fun hx => ?_; (on_goal 1 => dsimp -zeta only [x]; clear x); (on_goal 2 => clear_value x)) | clear_value x) | apply Keeps.ite | split | apply State.modHead_keeps | apply State.emit_keeps | fail_if_no_progress refine Keeps.of_mk ?_)

theorem State.auxSend_keeps {z s : State} (h : Nat) (a : AuxReq) (hK : Keeps z s) : Keeps z (State.auxSend s h a) := by
  unfold State.auxSend; with_reducible repeat' (first | assumption | apply State.emit_keeps | fail_if_no_progress refine Keeps.of_mk ?_)

theorem State.auxFree_keeps {z s : State} (h : Nat) (hK : Keeps z s) : Keeps z (State.auxFree s h) := by
  unfold State.auxFree; with_reducible repeat' (first | assumption | (extract_lets +implicits +onlyGivenNames x; first | (refine Keeps.named (z := z) (x := x) ?_ fun hx => ?_; (on_goal 1 => dsimp -zeta only [x]; clear x); (on_goal 2 => clear_value x)) | clear_value x) | apply Keeps.ite | split | apply State.modHead_keeps | apply State.auxSend_keeps | fail_if_no_progress refine Keeps.of_mk ?_ | refine Keeps.of_pair (by assumption) ?_ | refine Keeps.of_pair_fst (by assumption) ?_)

theorem State.sendRatio_keeps {z s : State} (h : Nat) (hK : Keeps z s) : Keeps z (State.sendRatio s h) := by
  unfold State.sendRatio; with_reducible repeat' (first | assumption | (extract_lets +implicits +onlyGivenNames x; first | (refine Keeps.named (z := z) (x := x) ?_ fun hx => ?_; (on_goal 1 => dsimp -zeta only [x]; clear x); (on_goal 2 => clear_value x)) | clear_value x) | apply State.wr_keeps | fail_if_no_progress refine Keeps.of_mk ?_)

theorem State.attempt_keeps {z s : State} (h : Nat) (hK : Keeps z s) : Keeps z (State.attempt s h) := by
  unfold State.attempt; with_reducible repeat' (first | assumption | (extract_lets +implicits +onlyGivenNames x; first | (refine Keeps.named (z := z) (x := x) ?_ fun hx => ?_; (on_goal 1 => dsimp -zeta only [x]; clear x); (on_goal 2 => clear_value x)) | clear_value x) | apply Keeps.ite | split | apply State.emit_keeps | fail_if_no_progress refine Keeps.of_mk ?_ | refine Keeps.of_pair (by assumption) ?_ | refine Keeps.of_pair_fst (by assumption) ?_)

theorem State.startTraining_keeps {z s : State} (h : Nat) (hK : Keeps z s) : Keeps z (State.startTraining s h) := by
  unfold State.startTraining; with_reducible repeat' (first | assumption | (extract_lets +implicits +onlyGivenNames x; first | (refine Keeps.named (z := z) (x := x) ?_ fun hx => ?_; (on_goal 1 => dsimp -zeta only [x]; clear x); (on_goal 2 => clear_value x)) | clear_value x) | split | apply State.wr_keeps | apply State.modHead_keeps | apply State.emit_keeps | apply State.attempt_keeps | fail_if_no_progress refine Keeps.of_mk ?_)

theorem State.linkDown_keeps {z s : State} (h : Nat) (hK : Keeps z s) : Keeps z (State.linkDown s h) := by
  unfold State.linkDown; with_reducible repeat' (first | assumption | (extract_lets +implicits +onlyGivenNames x; first | (refine Keeps.named (z := z) (x := x) ?_ fun hx => ?_; (on_goal 1 => dsimp -zeta only [x]; clear x); (on_goal 2 => clear_value x)) | clear_value x) | split | apply State.wr_keeps | apply State.modHead_keeps | apply State.refreshPhy_keeps | apply State.auxFree_keeps | fail_if_no_progress refine Keeps.of_mk ?_)

theorem State.linkSleep_keeps {z s : State} (h : Nat) (hK : Keeps z s) : Keeps z (State.linkSleep s h) := by
  unfold State.linkSleep; with_reducible repeat' (first | assumption | apply State.linkDown_keeps | apply State.emit_keeps | fail_if_no_progress refine Keeps.of_mk ?_)

theorem State.keepLink_keeps {z s : State} (h : Nat) (hK : Keeps z s) : Keeps z (State.keepLink s h) := by
  unfold State.keepLink; with_reducible repeat' (first | assumption | apply Keeps.ite | split | apply State.startTraining_keeps | apply State.refreshPhy_keeps | apply State.linkSleep_keeps | fail_if_no_progress refine Keeps.of_mk ?_)

theorem State.linkLost_keeps {z s : State} (h : Nat) (hK : Keeps z s) : Keeps z (State.linkLost s h) := by
  unfold State.linkLost; with_reducible repeat' (first | assumption | (extract_lets +implicits +onlyGivenNames x; first | (refine Keeps.named (z := z) (x := x) ?_ fun hx => ?_; (on_goal 1 => dsimp -zeta only [x]; clear x); (on_goal 2 => clear_value x)) | clear_value x) | apply Keeps.ite | split | apply State.linkDown_keeps | apply State.txIrq_keeps | apply State.raise_keeps | fail_if_no_progress refine Keeps.of_mk ?_)

theorem State.requestHead_keeps {z s : State} (h : Nat) (v : Nat) (hK : Keeps z s) : Keeps z (State.requestHead s h v) := by
  unfold State.requestHead; with_reducible repeat' (first | assumption | (extract_lets +implicits +onlyGivenNames x; first | (refine Keeps.named (z := z) (x := x) ?_ fun hx => ?_; (on_goal 1 => dsimp -zeta only [x]; clear x); (on_goal 2 => clear_value x)) | clear_value x) | apply Keeps.ite | split | apply State.modHead_keeps | fail_if_no_progress refine Keeps.of_mk ?_)

theorem State.txCtrlWrite_keeps {z s : State} (h : Nat) (w : Word) (hK : Keeps z s) : Keeps z (State.txCtrlWrite s h w) := by
  unfold State.txCtrlWrite; with_reducible repeat' (first | assumption | (extract_lets +implicits +onlyGivenNames x; first | (refine Keeps.named (z := z) (x := x) ?_ fun hx => ?_; (on_goal 1 => dsimp -zeta only [x]; clear x); (on_goal 2 => clear_value x)) | clear_value x) | apply Keeps.ite | split | apply State.setReg_keeps | apply State.keepLink_keeps | apply State.requestHead_keeps | fail_if_no_progress refine Keeps.of_mk ?_)

theorem execHeadStateRequest_keeps {z s : State} (t : Nat) (h : Nat) (w : Word) (hK : Keeps z s) : KeepsR z (execHeadStateRequest t h w s) := by
  unfold execHeadStateRequest; with_reducible repeat' (first | assumption | refine KeepsR.of_next ?_ | apply State.at_keeps | apply State.txCtrlWrite_keeps | fail_if_no_progress refine Keeps.of_mk ?_)

theorem State.dpcdRead_keeps {z s : State} (h : Nat) (addr : Nat) (len : Nat) (hK : Keeps z s) : Keeps z (State.dpcdRead s h addr len) := by
  unfold State.dpcdRead; with_reducible repeat' (first | assumption | apply State.emit_keeps | fail_if_no_progress refine Keeps.of_mk ?_)

theorem State.sinkPlug_keeps {z s : State} (h : Nat) (c : SinkCaps) (hK : Keeps z s) : Keeps z (State.sinkPlug s h c) := by
  unfold State.sinkPlug; with_reducible repeat' (first | assumption | (extract_lets +implicits +onlyGivenNames x; first | (refine Keeps.named (z := z) (x := x) ?_ fun hx => ?_; (on_goal 1 => dsimp -zeta only [x]; clear x); (on_goal 2 => clear_value x)) | clear_value x) | apply Keeps.ite | split | apply State.set1_keeps | apply State.txIrq_keeps | apply State.dpcdRead_keeps | apply State.emit_keeps | apply State.modHead_keeps | apply State.wr_keeps | apply State.startTraining_keeps | apply State.linkSleep_keeps | fail_if_no_progress refine Keeps.of_mk ?_)

theorem State.sinkIrq_keeps {z s : State} (h : Nat) (lost : Bool) (psrError : Bool) (hK : Keeps z s) : Keeps z (State.sinkIrq s h lost psrError) := by
  unfold State.sinkIrq; with_reducible repeat' (first | assumption | (extract_lets +implicits +onlyGivenNames x; first | (refine Keeps.named (z := z) (x := x) ?_ fun hx => ?_; (on_goal 1 => dsimp -zeta only [x]; clear x); (on_goal 2 => clear_value x)) | clear_value x) | apply Keeps.ite | split | apply State.txIrq_keeps | apply State.dpcdRead_keeps | apply State.linkLost_keeps | apply State.startTraining_keeps | apply State.set1_keeps | apply State.raise_keeps | apply State.modHead_keeps | fail_if_no_progress refine Keeps.of_mk ?_)

theorem State.sinkUnplug_keeps {z s : State} (h : Nat) (hK : Keeps z s) : Keeps z (State.sinkUnplug s h) := by
  unfold State.sinkUnplug; with_reducible repeat' (first | assumption | apply State.wr_keeps | apply State.txIrq_keeps | apply State.linkLost_keeps | fail_if_no_progress refine Keeps.of_mk ?_)

theorem State.trained_keeps {z s : State} (h : Nat) (lanes : Nat) (rate : Nat) (hK : Keeps z s) : Keeps z (State.trained s h lanes rate) := by
  unfold State.trained; with_reducible repeat' (first | assumption | (extract_lets +implicits +onlyGivenNames x; first | (refine Keeps.named (z := z) (x := x) ?_ fun hx => ?_; (on_goal 1 => dsimp -zeta only [x]; clear x); (on_goal 2 => clear_value x)) | clear_value x) | apply Keeps.ite | split | apply State.wr_keeps | apply State.sendRatio_keeps | apply State.txIrq_keeps | apply State.modHead_keeps | apply State.emit_keeps | apply State.refreshPhy_keeps | apply State.auxFree_keeps | fail_if_no_progress refine Keeps.of_mk ?_)

theorem State.trainingEnd_keeps {z s : State} (h : Nat) (ok : Bool) (hK : Keeps z s) : Keeps z (State.trainingEnd s h ok) := by
  unfold State.trainingEnd; with_reducible repeat' (first | assumption | (extract_lets +implicits +onlyGivenNames x; first | (refine Keeps.named (z := z) (x := x) ?_ fun hx => ?_; (on_goal 1 => dsimp -zeta only [x]; clear x); (on_goal 2 => clear_value x)) | clear_value x) | apply Keeps.ite | split | apply State.trained_keeps | apply State.setHead_keeps | apply State.attempt_keeps | apply State.wr_keeps | apply State.raise_keeps | apply State.auxFree_keeps | fail_if_no_progress refine Keeps.of_mk ?_ | refine Keeps.of_pair (by assumption) ?_ | refine Keeps.of_pair_fst (by assumption) ?_)

theorem State.blankingOut_keeps {z s : State} (h : Nat) (hK : Keeps z s) : Keeps z (State.blankingOut s h) := by
  unfold State.blankingOut; with_reducible repeat' (first | assumption | (extract_lets +implicits +onlyGivenNames x; first | (refine Keeps.named (z := z) (x := x) ?_ fun hx => ?_; (on_goal 1 => dsimp -zeta only [x]; clear x); (on_goal 2 => clear_value x)) | clear_value x) | apply Keeps.ite | split | apply State.sendRatio_keeps | apply State.emit_keeps | fail_if_no_progress refine Keeps.of_mk ?_)

theorem State.auxRequest_keeps {z s : State} (h : Nat) (w : Word) (hK : Keeps z s) : Keeps z (State.auxRequest s h w) := by
  unfold State.auxRequest; with_reducible repeat' (first | assumption | (extract_lets +implicits +onlyGivenNames x; first | (refine Keeps.named (z := z) (x := x) ?_ fun hx => ?_; (on_goal 1 => dsimp -zeta only [x]; clear x); (on_goal 2 => clear_value x)) | clear_value x) | apply Keeps.ite | split | apply State.ignoreWrite_keeps | apply State.set1_keeps | apply State.modHead_keeps | apply State.auxFree_keeps | fail_if_no_progress refine Keeps.of_mk ?_)

theorem execAuxRequest_keeps {z s : State} (t : Nat) (h : Nat) (w : Word) (hK : Keeps z s) : KeepsR z (execAuxRequest t h w s) := by
  unfold execAuxRequest; with_reducible repeat' (first | assumption | refine KeepsR.of_next ?_ | apply State.at_keeps | apply State.auxRequest_keeps | fail_if_no_progress refine Keeps.of_mk ?_)

theorem State.putAuxData_keeps {z s : State} (h : Nat) (bs : List Byte) (hK : Keeps z s) : Keeps z (State.putAuxData s h bs) := by
  unfold State.putAuxData; with_reducible repeat' (first | assumption | intro x y hx | (extract_lets +implicits +onlyGivenNames x; first | (refine Keeps.named (z := z) (x := x) ?_ fun hx => ?_; (on_goal 1 => dsimp -zeta only [x]; clear x); (on_goal 2 => clear_value x)) | (refine Keeps.named_snd (z := z) (x := x) ?_ fun hx => ?_; (on_goal 1 => dsimp -zeta only [x]; clear x); (on_goal 2 => clear_value x)) | (refine Keeps.named_fst (z := z) (x := x) ?_ fun hx => ?_; (on_goal 1 => dsimp -zeta only [x]; clear x); (on_goal 2 => clear_value x)) | clear_value x) | apply Keeps.ite | split | apply State.setReg_keeps | apply Keeps.foldl | apply Keeps.foldl_snd | apply Keeps.foldl_snd2 | apply Keeps.foldl_fst | fail_if_no_progress refine Keeps.of_mk ?_)

theorem State.auxEnd_keeps {z s : State} (h : Nat) (r : AuxReply) (hK : Keeps z s) : Keeps z (State.auxEnd s h r) := by
  unfold State.auxEnd; with_reducible repeat' (first | assumption | (extract_lets +implicits +onlyGivenNames x; first | (refine Keeps.named (z := z) (x := x) ?_ fun hx => ?_; (on_goal 1 => dsimp -zeta only [x]; clear x); (on_goal 2 => clear_value x)) | clear_value x) | apply Keeps.ite | split | apply State.putAuxData_keeps | apply State.wr_keeps | apply State.txIrq_keeps | apply State.modHead_keeps | fail_if_no_progress refine Keeps.of_mk ?_ | refine Keeps.of_pair (by assumption) ?_ | refine Keeps.of_pair_fst (by assumption) ?_)

theorem execAuxDeferRetry_keeps {z s : State} (t : Nat) (h : Nat) (hK : Keeps z s) : KeepsR z (execAuxDeferRetry t h s) := by
  unfold execAuxDeferRetry; with_reducible repeat' (first | assumption | refine KeepsR.of_next ?_ | (extract_lets +implicits +onlyGivenNames x; first | (refine Keeps.named (z := z) (x := x) ?_ fun hx => ?_; (on_goal 1 => dsimp -zeta only [x]; clear x); (on_goal 2 => clear_value x)) | clear_value x) | apply Keeps.ite | split | apply State.at_keeps | apply State.auxEnd_keeps | apply State.modHead_keeps | apply State.auxSend_keeps | fail_if_no_progress refine Keeps.of_mk ?_ | refine Keeps.of_pair (by assumption) ?_ | refine Keeps.of_pair_fst (by assumption) ?_)

theorem State.teEdge_keeps {z s : State} (h : Nat) (edge : Nat) (hK : Keeps z s) : Keeps z (State.teEdge s h edge) := by
  unfold State.teEdge; with_reducible repeat' (first | assumption | (extract_lets +implicits +onlyGivenNames x; first | (refine Keeps.named (z := z) (x := x) ?_ fun hx => ?_; (on_goal 1 => dsimp -zeta only [x]; clear x); (on_goal 2 => clear_value x)) | clear_value x) | apply Keeps.ite | split | apply State.wr64_keeps | apply State.wr_keeps | apply State.modHead_keeps | apply State.set1_keeps | apply State.txIrq_keeps | apply State.raise_keeps | fail_if_no_progress refine Keeps.of_mk ?_)

theorem execTeSilent_keeps {z s : State} (t : Nat) (h : Nat) (hK : Keeps z s) : KeepsR z (execTeSilent t h s) := by
  unfold execTeSilent; with_reducible repeat' (first | assumption | refine KeepsR.of_next ?_ | (extract_lets +implicits +onlyGivenNames x; first | (refine Keeps.named (z := z) (x := x) ?_ fun hx => ?_; (on_goal 1 => dsimp -zeta only [x]; clear x); (on_goal 2 => clear_value x)) | clear_value x) | apply Keeps.ite | split | apply State.at_keeps | apply State.modHead_keeps | apply State.set1_keeps | apply State.txIrq_keeps | apply State.raise_keeps | fail_if_no_progress refine Keeps.of_mk ?_)

theorem State.sinkAct_keeps {z s : State} (h : Nat) (e : SinkEvent) (hK : Keeps z s) : Keeps z (State.sinkAct s h e) := by
  cases e <;> (unfold State.sinkAct; with_reducible repeat' (first | assumption | split | assumption | apply State.sinkPlug_keeps | apply State.sinkIrq_keeps | apply State.sinkUnplug_keeps | apply State.trainingEnd_keeps | apply State.auxEnd_keeps | apply State.teEdge_keeps))

theorem State.applySink_keeps {z s : State} (h : Nat) (e : SinkEvent) (hK : Keeps z s) : Keeps z (State.applySink s h e) := by
  unfold State.applySink; with_reducible repeat' (first | assumption | apply State.archiveInput_keeps | apply State.sinkAct_keeps | fail_if_no_progress refine Keeps.of_mk ?_)

theorem State.sinkEvent_keeps {z s : State} (h : Nat) (e : SinkEvent) (hK : Keeps z s) : Keeps z (State.sinkEvent s h e) := by
  unfold State.sinkEvent; with_reducible repeat' (first | assumption | apply Keeps.ite | split | apply State.journalIn_keeps | apply State.emit_keeps | apply State.applySink_keeps | fail_if_no_progress refine Keeps.of_mk ?_)

theorem execHpdPlug_keeps {z s : State} (t : Nat) (h : Nat) (c : SinkCaps) (hK : Keeps z s) : KeepsR z (execHpdPlug t h c s) := by
  unfold execHpdPlug; with_reducible repeat' (first | assumption | refine KeepsR.of_next ?_ | apply State.at_keeps | apply State.sinkEvent_keeps | fail_if_no_progress refine Keeps.of_mk ?_)

theorem execHpdIrq_keeps {z s : State} (t : Nat) (h : Nat) (lost : Bool) (psrError : Bool) (hK : Keeps z s) : KeepsR z (execHpdIrq t h lost psrError s) := by
  unfold execHpdIrq; with_reducible repeat' (first | assumption | refine KeepsR.of_next ?_ | apply State.at_keeps | apply State.sinkEvent_keeps | fail_if_no_progress refine Keeps.of_mk ?_)

theorem execHpdUnplug_keeps {z s : State} (t : Nat) (h : Nat) (hK : Keeps z s) : KeepsR z (execHpdUnplug t h s) := by
  unfold execHpdUnplug; with_reducible repeat' (first | assumption | refine KeepsR.of_next ?_ | apply State.at_keeps | apply State.sinkEvent_keeps | fail_if_no_progress refine Keeps.of_mk ?_)

theorem execTrainingAttemptEnd_keeps {z s : State} (t : Nat) (h : Nat) (ok : Bool) (hK : Keeps z s) : KeepsR z (execTrainingAttemptEnd t h ok s) := by
  unfold execTrainingAttemptEnd; with_reducible repeat' (first | assumption | refine KeepsR.of_next ?_ | apply State.at_keeps | apply State.sinkEvent_keeps | fail_if_no_progress refine Keeps.of_mk ?_)

theorem execAuxComplete_keeps {z s : State} (t : Nat) (h : Nat) (r : AuxReply) (hK : Keeps z s) : KeepsR z (execAuxComplete t h r s) := by
  unfold execAuxComplete; with_reducible repeat' (first | assumption | refine KeepsR.of_next ?_ | apply State.at_keeps | apply State.sinkEvent_keeps | fail_if_no_progress refine Keeps.of_mk ?_)

theorem execTeEdge_keeps {z s : State} (t : Nat) (h : Nat) (hK : Keeps z s) : KeepsR z (execTeEdge t h s) := by
  unfold execTeEdge; with_reducible repeat' (first | assumption | refine KeepsR.of_next ?_ | apply State.at_keeps | apply State.sinkEvent_keeps | fail_if_no_progress refine Keeps.of_mk ?_)

theorem execPsrSdpSend_keeps {z s : State} (t : Nat) (h : Nat) (hK : Keeps z s) : KeepsR z (execPsrSdpSend t h s) := by
  unfold execPsrSdpSend; with_reducible repeat' (first | assumption | refine KeepsR.of_next ?_ | (extract_lets +implicits +onlyGivenNames x; first | (refine Keeps.named (z := z) (x := x) ?_ fun hx => ?_; (on_goal 1 => dsimp -zeta only [x]; clear x); (on_goal 2 => clear_value x)) | clear_value x) | split | apply State.at_keeps | apply State.modHead_keeps | apply State.emit_keeps | fail_if_no_progress refine Keeps.of_mk ?_ | refine Keeps.of_pair (by assumption) ?_ | refine Keeps.of_pair_fst (by assumption) ?_)

theorem State.packetSeen_keeps {z s : State} (h : Nat) (k : Nat) (hK : Keeps z s) : Keeps z (State.packetSeen s h k) := by
  unfold State.packetSeen; with_reducible repeat' (first | assumption | (extract_lets +implicits +onlyGivenNames x; first | (refine Keeps.named (z := z) (x := x) ?_ fun hx => ?_; (on_goal 1 => dsimp -zeta only [x]; clear x); (on_goal 2 => clear_value x)) | clear_value x) | apply Keeps.ite | split | apply State.modHead_keeps | apply State.wr_keeps | apply State.txIrq_keeps | fail_if_no_progress refine Keeps.of_mk ?_)

theorem State.ringWrite_keeps {z s : State} (h : Nat) (p : List Byte) (hK : Keeps z s) : Keeps z (State.ringWrite s h p) := by
  unfold State.ringWrite; with_reducible repeat' (first | assumption | (extract_lets +implicits +onlyGivenNames x; first | (refine Keeps.named (z := z) (x := x) ?_ fun hx => ?_; (on_goal 1 => dsimp -zeta only [x]; clear x); (on_goal 2 => clear_value x)) | (refine Keeps.named_snd (z := z) (x := x) ?_ fun hx => ?_; (on_goal 1 => dsimp -zeta only [x]; clear x); (on_goal 2 => clear_value x)) | clear_value x) | apply Keeps.ite | split | apply State.memRead_keeps | refine Keeps.of_pair (by assumption) (State.memRead_keeps _ _ _ ?_) | apply State.memWrite_keeps | fail_if_no_progress refine Keeps.of_mk ?_ | refine Keeps.of_pair (by assumption) ?_ | refine Keeps.of_pair_fst (by assumption) ?_)

theorem State.holdFrame_keeps {z s : State} (h : Nat) (k : Nat) (hK : Keeps z s) : Keeps z (State.holdFrame s h k) := by
  unfold State.holdFrame; with_reducible repeat' (first | assumption | (extract_lets +implicits +onlyGivenNames x; first | (refine Keeps.named (z := z) (x := x) ?_ fun hx => ?_; (on_goal 1 => dsimp -zeta only [x]; clear x); (on_goal 2 => clear_value x)) | clear_value x) | apply Keeps.ite | split | apply State.modHead_keeps | fail_if_no_progress refine Keeps.of_mk ?_)

theorem State.mirrorTo_keeps {z s : State} (p : List Byte) (h : Nat) (hK : Keeps z s) : Keeps z (State.mirrorTo s p h) := by
  unfold State.mirrorTo; with_reducible repeat' (first | assumption | apply Keeps.ite | split | apply State.packetSeen_keeps | apply State.holdFrame_keeps | apply State.satInc_keeps | apply State.ringWrite_keeps | fail_if_no_progress refine Keeps.of_mk ?_)

theorem State.mirrorReceive_keeps {z s : State} (p : List Byte) (hK : Keeps z s) : Keeps z (State.mirrorReceive s p) := by
  unfold State.mirrorReceive; with_reducible repeat' (first | assumption | intro x y hx | apply Keeps.ite | split | apply State.mirrorTo_keeps | apply Keeps.foldl | apply Keeps.foldl_snd | apply Keeps.foldl_snd2 | apply Keeps.foldl_fst | fail_if_no_progress refine Keeps.of_mk ?_)

theorem execMirrorPacketReceive_keeps {z s : State} (t : Nat) (bytes : List Byte) (hK : Keeps z s) : KeepsR z (execMirrorPacketReceive t bytes s) := by
  unfold execMirrorPacketReceive; with_reducible repeat' (first | assumption | refine KeepsR.of_next ?_ | apply State.at_keeps | apply State.mirrorReceive_keeps | fail_if_no_progress refine Keeps.of_mk ?_)

theorem State.mirrorOut_keeps {z s : State} (h : Nat) (p : List Byte) (hK : Keeps z s) : Keeps z (State.mirrorOut s h p) := by
  unfold State.mirrorOut; with_reducible repeat' (first | assumption | apply Keeps.ite | split | apply State.sendFrame_keeps | apply State.mirrorReceive_keeps | fail_if_no_progress refine Keeps.of_mk ?_)

theorem execMirrorPacketSend_keeps {z s : State} (t : Nat) (h : Nat) (n : Nat) (seg : Option (Nat × Nat)) (hK : Keeps z s) : KeepsR z (execMirrorPacketSend t h n seg s) := by
  unfold execMirrorPacketSend; with_reducible repeat' (first | assumption | refine KeepsR.of_next ?_ | (extract_lets +implicits +onlyGivenNames x; first | (refine Keeps.named (z := z) (x := x) ?_ fun hx => ?_; (on_goal 1 => dsimp -zeta only [x]; clear x); (on_goal 2 => clear_value x)) | clear_value x) | apply Keeps.ite | split | apply State.at_keeps | apply State.mirrorOut_keeps | fail_if_no_progress refine Keeps.of_mk ?_ | refine Keeps.of_pair (by assumption) ?_ | refine Keeps.of_pair_fst (by assumption) ?_)

theorem execSourceAbsent_keeps {z s : State} (t : Nat) (h : Nat) (hK : Keeps z s) : KeepsR z (execSourceAbsent t h s) := by
  unfold execSourceAbsent; with_reducible repeat' (first | assumption | refine KeepsR.of_next ?_ | (extract_lets +implicits +onlyGivenNames x; first | (refine Keeps.named (z := z) (x := x) ?_ fun hx => ?_; (on_goal 1 => dsimp -zeta only [x]; clear x); (on_goal 2 => clear_value x)) | clear_value x) | apply Keeps.ite | split | apply State.at_keeps | apply State.set1_keeps | apply State.txIrq_keeps | apply State.raise_keeps | fail_if_no_progress refine Keeps.of_mk ?_)

end Sys2Proof.Machine
end

