-- ==== Sys2Proof/Laws/KeepsTandem.lean ====
section
/-! SUPPORT. What the functions of Tandem keep (see Keeps). -/

set_option linter.all false

namespace Sys2Proof.Machine

theorem State.tandemIrq_keeps {z s : State} (f : Fld) (hK : Keeps z s) : Keeps z (State.tandemIrq s f) := by
  unfold State.tandemIrq; with_reducible repeat' (first | assumption | apply State.set1_keeps | fail_if_no_progress refine Keeps.of_mk ?_)

theorem State.setTandem_keeps {z s : State} (st : Nat) (role : Nat) (hK : Keeps z s) : Keeps z (State.setTandem s st role) := by
  unfold State.setTandem; with_reducible repeat' (first | assumption | (extract_lets +implicits +onlyGivenNames x; first | (refine Keeps.named (z := z) (x := x) ?_ fun hx => ?_; (on_goal 1 => dsimp -zeta only [x]; clear x); (on_goal 2 => clear_value x)) | clear_value x) | apply Keeps.ite | split | apply State.wr_keeps | apply State.tandemIrq_keeps | fail_if_no_progress refine Keeps.of_mk ?_)

theorem State.moveNet_keeps {z s : State} (h : Nat) (chip : Nat) (hK : Keeps z s) : Keeps z (State.moveNet s h chip) := by
  unfold State.moveNet; with_reducible repeat' (first | assumption | (extract_lets +implicits +onlyGivenNames x; first | (refine Keeps.named (z := z) (x := x) ?_ fun hx => ?_; (on_goal 1 => dsimp -zeta only [x]; clear x); (on_goal 2 => clear_value x)) | clear_value x) | apply Keeps.ite | split | fail_if_no_progress refine Keeps.of_mk ?_)

theorem State.lastTake_keeps {z s : State} (h : Nat) (cause : Nat) (line : Nat) (frame : Nat) (hK : Keeps z s) : Keeps z (State.lastTake s h cause line frame) := by
  unfold State.lastTake; with_reducible repeat' (first | assumption | (extract_lets +implicits +onlyGivenNames x; first | (refine Keeps.named (z := z) (x := x) ?_ fun hx => ?_; (on_goal 1 => dsimp -zeta only [x]; clear x); (on_goal 2 => clear_value x)) | clear_value x) | apply State.wr_keeps | apply State.wr64_keeps | apply State.tandemIrq_keeps | fail_if_no_progress refine Keeps.of_mk ?_)

theorem State.refuseRejoin_keeps {z s : State} (reason : Nat) (hK : Keeps z s) : Keeps z (State.refuseRejoin s reason) := by
  unfold State.refuseRejoin; with_reducible repeat' (first | assumption | (extract_lets +implicits +onlyGivenNames x; first | (refine Keeps.named (z := z) (x := x) ?_ fun hx => ?_; (on_goal 1 => dsimp -zeta only [x]; clear x); (on_goal 2 => clear_value x)) | clear_value x) | apply State.wr_keeps | apply State.setTandem_keeps | fail_if_no_progress refine Keeps.of_mk ?_)

theorem State.startJoin_keeps {z s : State} (digest : List Byte) (auth : Bool) (hK : Keeps z s) : Keeps z (State.startJoin s digest auth) := by
  unfold State.startJoin; with_reducible repeat' (first | assumption | (extract_lets +implicits +onlyGivenNames x; first | (refine Keeps.named (z := z) (x := x) ?_ fun hx => ?_; (on_goal 1 => dsimp -zeta only [x]; clear x); (on_goal 2 => clear_value x)) | clear_value x) | apply Keeps.ite | split | apply State.refuseRejoin_keeps | apply State.wr_keeps | apply State.setTandem_keeps | fail_if_no_progress refine Keeps.of_mk ?_)

theorem execTandemStartRole_keeps {z s : State} (t : Nat) (twin : Nat) (hK : Keeps z s) : KeepsR z (execTandemStartRole t twin s) := by
  unfold execTandemStartRole; with_reducible repeat' (first | assumption | refine KeepsR.of_next ?_ | intro x y hx | (extract_lets +implicits +onlyGivenNames x; first | (refine Keeps.named (z := z) (x := x) ?_ fun hx => ?_; (on_goal 1 => dsimp -zeta only [x]; clear x); (on_goal 2 => clear_value x)) | (refine Keeps.named_snd (z := z) (x := x) ?_ fun hx => ?_; (on_goal 1 => dsimp -zeta only [x]; clear x); (on_goal 2 => clear_value x)) | (refine Keeps.named_fst (z := z) (x := x) ?_ fun hx => ?_; (on_goal 1 => dsimp -zeta only [x]; clear x); (on_goal 2 => clear_value x)) | clear_value x) | apply Keeps.ite | split | apply State.at_keeps | apply State.setTandem_keeps | apply State.moveNet_keeps | apply Keeps.foldl | apply Keeps.foldl_snd | apply Keeps.foldl_snd2 | apply Keeps.foldl_fst | fail_if_no_progress refine Keeps.of_mk ?_)

theorem execTandemRejoin_keeps {z s : State} (t : Nat) (fromTwin : Bool) (digest : List Byte) (auth : Bool) (hK : Keeps z s) : KeepsR z (execTandemRejoin t fromTwin digest auth s) := by
  unfold execTandemRejoin; with_reducible repeat' (first | assumption | refine KeepsR.of_next ?_ | (extract_lets +implicits +onlyGivenNames x; first | (refine Keeps.named (z := z) (x := x) ?_ fun hx => ?_; (on_goal 1 => dsimp -zeta only [x]; clear x); (on_goal 2 => clear_value x)) | clear_value x) | apply Keeps.ite | split | apply State.at_keeps | apply State.setTandem_keeps | apply State.startJoin_keeps | fail_if_no_progress refine Keeps.of_mk ?_)

theorem execRejoinTimeTimeout_keeps {z s : State} (t : Nat) (hK : Keeps z s) : KeepsR z (execRejoinTimeTimeout t s) := by
  unfold execRejoinTimeTimeout; with_reducible repeat' (first | assumption | refine KeepsR.of_next ?_ | (extract_lets +implicits +onlyGivenNames x; first | (refine Keeps.named (z := z) (x := x) ?_ fun hx => ?_; (on_goal 1 => dsimp -zeta only [x]; clear x); (on_goal 2 => clear_value x)) | clear_value x) | apply Keeps.ite | split | apply State.at_keeps | apply State.refuseRejoin_keeps | fail_if_no_progress refine Keeps.of_mk ?_)

theorem execStateCopyComplete_keeps {z s : State} (t : Nat) (blocks : List (Nat × List Byte)) (words : List (Nat × Word)) (hK : Keeps z s) : KeepsR z (execStateCopyComplete t blocks words s) := by
  unfold execStateCopyComplete; with_reducible repeat' (first | assumption | refine KeepsR.of_next ?_ | intro x y hx | (extract_lets +implicits +onlyGivenNames x; first | (refine Keeps.named (z := z) (x := x) ?_ fun hx => ?_; (on_goal 1 => dsimp -zeta only [x]; clear x); (on_goal 2 => clear_value x)) | (refine Keeps.named_snd (z := z) (x := x) ?_ fun hx => ?_; (on_goal 1 => dsimp -zeta only [x]; clear x); (on_goal 2 => clear_value x)) | (refine Keeps.named_fst (z := z) (x := x) ?_ fun hx => ?_; (on_goal 1 => dsimp -zeta only [x]; clear x); (on_goal 2 => clear_value x)) | (refine Keeps.hub x ?_; subst x) | clear_value x) | apply Keeps.ite | split | apply State.at_keeps | apply State.setMemBytes_keeps | apply State.setArr_keeps | apply Keeps.foldl | apply Keeps.foldl_snd | apply Keeps.foldl_snd2 | apply Keeps.foldl_fst | fail_if_no_progress refine Keeps.of_mk ?_)

theorem State.copyCore_keeps {z s : State} (p : Nat × List Byte) (hK : Keeps z s) : Keeps z (State.copyCore s p) := by
  unfold State.copyCore; with_reducible repeat' (first | assumption | (extract_lets +implicits +onlyGivenNames x; first | (refine Keeps.named (z := z) (x := x) ?_ fun hx => ?_; (on_goal 1 => dsimp -zeta only [x]; clear x); (on_goal 2 => clear_value x)) | clear_value x) | apply Keeps.ite | split | apply State.modCore_keeps | fail_if_no_progress refine Keeps.of_mk ?_)

theorem State.takeCopy_keeps {z s : State} (words : List (Nat × Word)) (queue : List (List Byte)) (cores : List (Nat × List Byte)) (locals : List (Nat × Nat × List Byte)) (voices : List (Nat × List Int)) (hK : Keeps z s) : Keeps z (State.takeCopy s words queue cores locals voices) := by
  unfold State.takeCopy; with_reducible repeat' (first | assumption | intro x y hx | (extract_lets +implicits +onlyGivenNames x; first | (refine Keeps.named (z := z) (x := x) ?_ fun hx => ?_; (on_goal 1 => dsimp -zeta only [x]; clear x); (on_goal 2 => clear_value x)) | (refine Keeps.named_snd (z := z) (x := x) ?_ fun hx => ?_; (on_goal 1 => dsimp -zeta only [x]; clear x); (on_goal 2 => clear_value x)) | (refine Keeps.named_fst (z := z) (x := x) ?_ fun hx => ?_; (on_goal 1 => dsimp -zeta only [x]; clear x); (on_goal 2 => clear_value x)) | clear_value x) | split | apply State.setReg_keeps | apply State.copyCore_keeps | apply State.localWrite_keeps | apply Keeps.foldl | apply Keeps.foldl_snd | apply Keeps.foldl_snd2 | apply Keeps.foldl_fst | fail_if_no_progress refine Keeps.of_mk ?_)

theorem execCutoverHoldStart_keeps {z s : State} (t : Nat) (words : List (Nat × Word)) (queue : List (List Byte)) (cores : List (Nat × List Byte)) (locals : List (Nat × Nat × List Byte)) (voices : List (Nat × List Int)) (hK : Keeps z s) : KeepsR z (execCutoverHoldStart t words queue cores locals voices s) := by
  unfold execCutoverHoldStart; with_reducible repeat' (first | assumption | refine KeepsR.of_next ?_ | (extract_lets +implicits +onlyGivenNames x; first | (refine Keeps.named (z := z) (x := x) ?_ fun hx => ?_; (on_goal 1 => dsimp -zeta only [x]; clear x); (on_goal 2 => clear_value x)) | clear_value x) | apply Keeps.ite | split | apply State.at_keeps | apply State.takeCopy_keeps | fail_if_no_progress refine Keeps.of_mk ?_)

theorem execCutoverHoldEnd_keeps {z s : State} (t : Nat) (hK : Keeps z s) : KeepsR z (execCutoverHoldEnd t s) := by
  unfold execCutoverHoldEnd; with_reducible repeat' (first | assumption | refine KeepsR.of_next ?_ | (extract_lets +implicits +onlyGivenNames x; first | (refine Keeps.named (z := z) (x := x) ?_ fun hx => ?_; (on_goal 1 => dsimp -zeta only [x]; clear x); (on_goal 2 => clear_value x)) | clear_value x) | apply Keeps.ite | split | apply State.at_keeps | apply State.setTandem_keeps | apply State.wrapInc_keeps | apply State.unitsResume_keeps | fail_if_no_progress refine Keeps.of_mk ?_)

theorem execTwinLinkUp_keeps {z s : State} (t : Nat) (hK : Keeps z s) : KeepsR z (execTwinLinkUp t s) := by
  unfold execTwinLinkUp; with_reducible repeat' (first | assumption | refine KeepsR.of_next ?_ | (extract_lets +implicits +onlyGivenNames x; first | (refine Keeps.named (z := z) (x := x) ?_ fun hx => ?_; (on_goal 1 => dsimp -zeta only [x]; clear x); (on_goal 2 => clear_value x)) | clear_value x) | apply State.at_keeps | apply State.set1_keeps | fail_if_no_progress refine Keeps.of_mk ?_)

theorem State.releaseHeads_keeps {z s : State} (hK : Keeps z s) : Keeps z (State.releaseHeads s) := by
  unfold State.releaseHeads; with_reducible repeat' (first | assumption | intro x y hx | apply Keeps.ite | split | apply State.holdTakeover_keeps | apply Keeps.foldl | apply Keeps.foldl_snd | apply Keeps.foldl_snd2 | apply Keeps.foldl_fst | fail_if_no_progress refine Keeps.of_mk ?_)

theorem State.diverge_keeps {z s : State} (hK : Keeps z s) : Keeps z (State.diverge s) := by
  unfold State.diverge; with_reducible repeat' (first | assumption | (extract_lets +implicits +onlyGivenNames x; first | (refine Keeps.named (z := z) (x := x) ?_ fun hx => ?_; (on_goal 1 => dsimp -zeta only [x]; clear x); (on_goal 2 => clear_value x)) | clear_value x) | apply Keeps.ite | split | apply State.satInc_keeps | apply State.tandemIrq_keeps | apply State.releaseHeads_keeps | apply State.setTandem_keeps | apply State.raise_keeps | fail_if_no_progress refine Keeps.of_mk ?_)

theorem State.divergeAlone_keeps {z s : State} (hK : Keeps z s) : Keeps z (State.divergeAlone s) := by
  unfold State.divergeAlone; with_reducible repeat' (first | assumption | apply Keeps.ite | split | apply State.diverge_keeps | apply State.emit_keeps | fail_if_no_progress refine Keeps.of_mk ?_)

theorem State.judgeEligible_keeps {z s : State} (hK : Keeps z s) : Keeps z (State.judgeEligible s) := by
  unfold State.judgeEligible; with_reducible repeat' (first | assumption | (extract_lets +implicits +onlyGivenNames x; first | (refine Keeps.named (z := z) (x := x) ?_ fun hx => ?_; (on_goal 1 => dsimp -zeta only [x]; clear x); (on_goal 2 => clear_value x)) | clear_value x) | apply Keeps.ite | split | apply State.set1_keeps | fail_if_no_progress refine Keeps.of_mk ?_)

theorem State.compareSeals_keeps {z s : State} (h : Nat) (twin : List Byte) (twinMis : Bool) (twinHalt : Bool) (hK : Keeps z s) : Keeps z (State.compareSeals s h twin twinMis twinHalt) := by
  unfold State.compareSeals; with_reducible repeat' (first | assumption | (extract_lets +implicits +onlyGivenNames x; first | (refine Keeps.named (z := z) (x := x) ?_ fun hx => ?_; (on_goal 1 => dsimp -zeta only [x]; clear x); (on_goal 2 => clear_value x)) | clear_value x) | apply Keeps.ite | split | apply State.diverge_keeps | apply State.judgeEligible_keeps | apply State.wr_keeps | apply State.satInc_keeps | apply State.raise_keeps | fail_if_no_progress refine Keeps.of_mk ?_)

theorem execSealCompare_keeps {z s : State} (t : Nat) (h : Nat) (twin : List Byte) (twinMis : Bool) (twinBist : Bool) (twinHalt : Bool) (hK : Keeps z s) : KeepsR z (execSealCompare t h twin twinMis twinBist twinHalt s) := by
  unfold execSealCompare; with_reducible repeat' (first | assumption | refine KeepsR.of_next ?_ | (extract_lets +implicits +onlyGivenNames x; first | (refine Keeps.named (z := z) (x := x) ?_ fun hx => ?_; (on_goal 1 => dsimp -zeta only [x]; clear x); (on_goal 2 => clear_value x)) | clear_value x) | apply Keeps.ite | split | apply State.at_keeps | apply State.compareSeals_keeps | fail_if_no_progress refine Keeps.of_mk ?_)

theorem execTwinTimeTransfer_keeps {z s : State} (t : Nat) (offset : Int) (hK : Keeps z s) : KeepsR z (execTwinTimeTransfer t offset s) := by
  unfold execTwinTimeTransfer; with_reducible repeat' (first | assumption | refine KeepsR.of_next ?_ | (extract_lets +implicits +onlyGivenNames x; first | (refine Keeps.named (z := z) (x := x) ?_ fun hx => ?_; (on_goal 1 => dsimp -zeta only [x]; clear x); (on_goal 2 => clear_value x)) | clear_value x) | apply Keeps.ite | split | apply State.at_keeps | apply State.divergeAlone_keeps | fail_if_no_progress refine Keeps.of_mk ?_)

theorem State.takeRequest_keeps {z s : State} (heads : Nat) (hK : Keeps z s) : Keeps z (State.takeRequest s heads) := by
  unfold State.takeRequest; with_reducible repeat' (first | assumption | intro x y hx | apply Keeps.ite | split | apply State.holdTakeover_keeps | apply Keeps.foldl | apply Keeps.foldl_snd | apply Keeps.foldl_snd2 | apply Keeps.foldl_fst | fail_if_no_progress refine Keeps.of_mk ?_)

theorem execTandemTakeReq_keeps {z s : State} (t : Nat) (heads : Nat) (hK : Keeps z s) : KeepsR z (execTandemTakeReq t heads s) := by
  unfold execTandemTakeReq; with_reducible repeat' (first | assumption | refine KeepsR.of_next ?_ | apply State.at_keeps | apply State.takeRequest_keeps | fail_if_no_progress refine Keeps.of_mk ?_)

theorem State.armTakeover_keeps {z s : State} (d : Takeover) (m : Nat) (hK : Keeps z s) : Keeps z (State.armTakeover s d m) := by
  unfold State.armTakeover; with_reducible repeat' (first | assumption | (extract_lets +implicits +onlyGivenNames x; first | (refine Keeps.named (z := z) (x := x) ?_ fun hx => ?_; (on_goal 1 => dsimp -zeta only [x]; clear x); (on_goal 2 => clear_value x)) | clear_value x) | apply Keeps.ite | split | apply State.modHead_keeps | fail_if_no_progress refine Keeps.of_mk ?_)

theorem State.armFirst_keeps {z s : State} (m : Nat) (l : List Takeover) (hK : Keeps z s) : Keeps z (State.armFirst s m l) := by
  induction l generalizing s with
  | nil => exact hK
  | cons b l ih => unfold State.armFirst; with_reducible repeat' (first | assumption | (extract_lets +implicits +onlyGivenNames x; first | (refine Keeps.named (z := z) (x := x) ?_ fun hx => ?_; (on_goal 1 => dsimp -zeta only [x]; clear x); (on_goal 2 => clear_value x)) | clear_value x) | apply Keeps.ite | split | apply ih | apply State.armTakeover_keeps | apply State.raise_keeps | fail_if_no_progress refine Keeps.of_mk ?_)

theorem State.takeoversAtLatch_keeps {z s : State} (h : Nat) (m : Nat) (hK : Keeps z s) : Keeps z (State.takeoversAtLatch s h m) := by
  unfold State.takeoversAtLatch; with_reducible repeat' (first | assumption | (extract_lets +implicits +onlyGivenNames x; first | (refine Keeps.named (z := z) (x := x) ?_ fun hx => ?_; (on_goal 1 => dsimp -zeta only [x]; clear x); (on_goal 2 => clear_value x)) | clear_value x) | split | apply State.armFirst_keeps | fail_if_no_progress refine Keeps.of_mk ?_)

theorem execTakeNetChange_keeps {z s : State} (t : Nat) (h : Nat) (hK : Keeps z s) : KeepsR z (execTakeNetChange t h s) := by
  unfold execTakeNetChange; with_reducible repeat' (first | assumption | refine KeepsR.of_next ?_ | (extract_lets +implicits +onlyGivenNames x; first | (refine Keeps.named (z := z) (x := x) ?_ fun hx => ?_; (on_goal 1 => dsimp -zeta only [x]; clear x); (on_goal 2 => clear_value x)) | clear_value x) | apply Keeps.ite | split | apply State.at_keeps | apply State.moveNet_keeps | apply State.lastTake_keeps | fail_if_no_progress refine Keeps.of_mk ?_ | refine Keeps.of_pair (by assumption) ?_ | refine Keeps.of_pair_fst (by assumption) ?_)

theorem execTakeNetDisagree_keeps {z s : State} (t : Nat) (h : Nat) (high : Bool) (hK : Keeps z s) : KeepsR z (execTakeNetDisagree t h high s) := by
  unfold execTakeNetDisagree; with_reducible repeat' (first | assumption | refine KeepsR.of_next ?_ | (extract_lets +implicits +onlyGivenNames x; first | (refine Keeps.named (z := z) (x := x) ?_ fun hx => ?_; (on_goal 1 => dsimp -zeta only [x]; clear x); (on_goal 2 => clear_value x)) | clear_value x) | apply Keeps.ite | split | apply State.at_keeps | apply State.raise_keeps | fail_if_no_progress refine Keeps.of_mk ?_)

theorem execHeldFrameExpire_keeps {z s : State} (t : Nat) (hK : Keeps z s) : KeepsR z (execHeldFrameExpire t s) := by
  unfold execHeldFrameExpire; with_reducible repeat' (first | assumption | refine KeepsR.of_next ?_ | (extract_lets +implicits +onlyGivenNames x; first | (refine Keeps.named (z := z) (x := x) ?_ fun hx => ?_; (on_goal 1 => dsimp -zeta only [x]; clear x); (on_goal 2 => clear_value x)) | clear_value x) | split | apply State.at_keeps | fail_if_no_progress refine Keeps.of_mk ?_)

theorem execTandemHandover_keeps {z s : State} (t : Nat) (hK : Keeps z s) : KeepsR z (execTandemHandover t s) := by
  unfold execTandemHandover; with_reducible repeat' (first | assumption | refine KeepsR.of_next ?_ | (extract_lets +implicits +onlyGivenNames x; first | (refine Keeps.named (z := z) (x := x) ?_ fun hx => ?_; (on_goal 1 => dsimp -zeta only [x]; clear x); (on_goal 2 => clear_value x)) | clear_value x) | apply Keeps.ite | split | apply State.at_keeps | fail_if_no_progress refine Keeps.of_mk ?_)

theorem State.swapRoles_keeps {z s : State} (hK : Keeps z s) : Keeps z (State.swapRoles s) := by
  unfold State.swapRoles; with_reducible repeat' (first | assumption | (extract_lets +implicits +onlyGivenNames x; first | (refine Keeps.named (z := z) (x := x) ?_ fun hx => ?_; (on_goal 1 => dsimp -zeta only [x]; clear x); (on_goal 2 => clear_value x)) | clear_value x) | apply Keeps.ite | split | apply State.setTandem_keeps | fail_if_no_progress refine Keeps.of_mk ?_)

end Sys2Proof.Machine
end

