-- ==== Sys2Proof/Laws/KeepsPeloton.lean ====
section
/-! SUPPORT. What the functions of Peloton keep (see Keeps). -/

set_option linter.all false

namespace Sys2Proof.Machine

theorem State.pelIrq_keeps {z s : State} (f : Fld) (hK : Keeps z s) : Keeps z (State.pelIrq s f) := by
  unfold State.pelIrq; with_reducible repeat' (first | assumption | apply State.set1_keeps | fail_if_no_progress refine Keeps.of_mk ?_)

theorem State.setPel_keeps {z s : State} (st : Nat) (role : Nat) (hK : Keeps z s) : Keeps z (State.setPel s st role) := by
  unfold State.setPel; with_reducible repeat' (first | assumption | (extract_lets +implicits +onlyGivenNames x; first | (refine Keeps.named (z := z) (x := x) ?_ fun hx => ?_; (on_goal 1 => dsimp -zeta only [x]; clear x); (on_goal 2 => clear_value x)) | clear_value x) | apply Keeps.ite | split | apply State.wr_keeps | apply State.pelIrq_keeps | fail_if_no_progress refine Keeps.of_mk ?_)

theorem State.pelSend_keeps {z s : State} (kind : Nat) (fields : List Nat) (hK : Keeps z s) : Keeps z (State.pelSend s kind fields) := by
  unfold State.pelSend; with_reducible repeat' (first | assumption | apply Keeps.ite | split | apply State.emit_keeps | fail_if_no_progress refine Keeps.of_mk ?_)

theorem State.modMember_keeps {z s : State} (i : Nat) (f : PelMember → PelMember) (hK : Keeps z s) : Keeps z (State.modMember s i f) := by
  unfold State.modMember; with_reducible repeat' (first | assumption | (extract_lets +implicits +onlyGivenNames x; first | (refine Keeps.named (z := z) (x := x) ?_ fun hx => ?_; (on_goal 1 => dsimp -zeta only [x]; clear x); (on_goal 2 => clear_value x)) | clear_value x) | apply Keeps.ite | split | fail_if_no_progress refine Keeps.of_mk ?_)

theorem State.enterPeloton_keeps {z s : State} (role : Nat) (leader : Nat) (number : Nat) (path : List Nat) (hK : Keeps z s) : Keeps z (State.enterPeloton s role leader number path) := by
  unfold State.enterPeloton; with_reducible repeat' (first | assumption | (extract_lets +implicits +onlyGivenNames x; first | (refine Keeps.named (z := z) (x := x) ?_ fun hx => ?_; (on_goal 1 => dsimp -zeta only [x]; clear x); (on_goal 2 => clear_value x)) | clear_value x) | apply State.wr_keeps | apply State.setPel_keeps | fail_if_no_progress refine Keeps.of_mk ?_)

theorem State.leavePeloton_keeps {z s : State} (hK : Keeps z s) : Keeps z (State.leavePeloton s) := by
  unfold State.leavePeloton; with_reducible repeat' (first | assumption | (extract_lets +implicits +onlyGivenNames x; first | (refine Keeps.named (z := z) (x := x) ?_ fun hx => ?_; (on_goal 1 => dsimp -zeta only [x]; clear x); (on_goal 2 => clear_value x)) | clear_value x) | apply State.wr_keeps | apply State.setPel_keeps | fail_if_no_progress refine Keeps.of_mk ?_)

theorem State.pelJoin_keeps {z s : State} (hK : Keeps z s) : Keeps z (State.pelJoin s) := by
  unfold State.pelJoin; with_reducible repeat' (first | assumption | (extract_lets +implicits +onlyGivenNames x; first | (refine Keeps.named (z := z) (x := x) ?_ fun hx => ?_; (on_goal 1 => dsimp -zeta only [x]; clear x); (on_goal 2 => clear_value x)) | clear_value x) | apply Keeps.ite | split | apply State.pelSend_keeps | apply State.wr_keeps | apply State.enterPeloton_keeps | apply State.setPel_keeps | fail_if_no_progress refine Keeps.of_mk ?_)

theorem State.pelChange_keeps {z s : State} (i : Nat) (what : Nat) (hK : Keeps z s) : Keeps z (State.pelChange s i what) := by
  unfold State.pelChange; with_reducible repeat' (first | assumption | (extract_lets +implicits +onlyGivenNames x; first | (refine Keeps.named (z := z) (x := x) ?_ fun hx => ?_; (on_goal 1 => dsimp -zeta only [x]; clear x); (on_goal 2 => clear_value x)) | clear_value x) | apply Keeps.ite | split | fail_if_no_progress refine Keeps.of_mk ?_)

theorem State.answerJoin_keeps {z s : State} (r : JoinReq) (hK : Keeps z s) : Keeps z (State.answerJoin s r) := by
  unfold State.answerJoin; with_reducible repeat' (first | assumption | (extract_lets +implicits +onlyGivenNames x; first | (refine Keeps.named (z := z) (x := x) ?_ fun hx => ?_; (on_goal 1 => dsimp -zeta only [x]; clear x); (on_goal 2 => clear_value x)) | clear_value x) | apply Keeps.ite | split | apply State.pelSend_keeps | apply State.pelChange_keeps | fail_if_no_progress refine Keeps.of_mk ?_)

theorem execPelotonJoin_keeps {z s : State} (t : Nat) (req : Option JoinReq) (hK : Keeps z s) : KeepsR z (execPelotonJoin t req s) := by
  unfold execPelotonJoin; with_reducible repeat' (first | assumption | refine KeepsR.of_next ?_ | (extract_lets +implicits +onlyGivenNames x; first | (refine Keeps.named (z := z) (x := x) ?_ fun hx => ?_; (on_goal 1 => dsimp -zeta only [x]; clear x); (on_goal 2 => clear_value x)) | clear_value x) | apply Keeps.ite | split | apply State.at_keeps | apply State.pelJoin_keeps | apply State.answerJoin_keeps | fail_if_no_progress refine Keeps.of_mk ?_ | refine Keeps.of_pair (by assumption) ?_ | refine Keeps.of_pair_fst (by assumption) ?_)

theorem State.joinAnswered_keeps {z s : State} (reason : Nat) (frame : Nat) (number : Nat) (leader : Nat) (path : List Nat) (hK : Keeps z s) : Keeps z (State.joinAnswered s reason frame number leader path) := by
  unfold State.joinAnswered; with_reducible repeat' (first | assumption | (extract_lets +implicits +onlyGivenNames x; first | (refine Keeps.named (z := z) (x := x) ?_ fun hx => ?_; (on_goal 1 => dsimp -zeta only [x]; clear x); (on_goal 2 => clear_value x)) | clear_value x) | apply Keeps.ite | split | apply State.wr_keeps | apply State.setPel_keeps | fail_if_no_progress refine Keeps.of_mk ?_)

theorem State.joinNow_keeps {z s : State} (hK : Keeps z s) : Keeps z (State.joinNow s) := by
  unfold State.joinNow; with_reducible repeat' (first | assumption | (extract_lets +implicits +onlyGivenNames x; first | (refine Keeps.named (z := z) (x := x) ?_ fun hx => ?_; (on_goal 1 => dsimp -zeta only [x]; clear x); (on_goal 2 => clear_value x)) | clear_value x) | apply Keeps.ite | split | apply State.enterPeloton_keeps | fail_if_no_progress refine Keeps.of_mk ?_)

theorem State.passLead_keeps {z s : State} (hK : Keeps z s) : Keeps z (State.passLead s) := by
  unfold State.passLead; with_reducible repeat' (first | assumption | (extract_lets +implicits +onlyGivenNames x; first | (refine Keeps.named (z := z) (x := x) ?_ fun hx => ?_; (on_goal 1 => dsimp -zeta only [x]; clear x); (on_goal 2 => clear_value x)) | clear_value x) | apply Keeps.ite | split | apply State.pelSend_keeps | apply State.wr_keeps | apply State.setPel_keeps | fail_if_no_progress refine Keeps.of_mk ?_ | refine Keeps.of_pair (by assumption) ?_ | refine Keeps.of_pair_fst (by assumption) ?_)

theorem execPelotonLeave_keeps {z s : State} (t : Nat) (frame : Nat) (hK : Keeps z s) : KeepsR z (execPelotonLeave t frame s) := by
  unfold execPelotonLeave; with_reducible repeat' (first | assumption | refine KeepsR.of_next ?_ | (extract_lets +implicits +onlyGivenNames x; first | (refine Keeps.named (z := z) (x := x) ?_ fun hx => ?_; (on_goal 1 => dsimp -zeta only [x]; clear x); (on_goal 2 => clear_value x)) | clear_value x) | apply Keeps.ite | split | apply State.at_keeps | apply State.leavePeloton_keeps | apply State.pelSend_keeps | fail_if_no_progress refine Keeps.of_mk ?_)

theorem State.askReturn_keeps {z s : State} (hK : Keeps z s) : Keeps z (State.askReturn s) := by
  unfold State.askReturn; with_reducible repeat' (first | assumption | (extract_lets +implicits +onlyGivenNames x; first | (refine Keeps.named (z := z) (x := x) ?_ fun hx => ?_; (on_goal 1 => dsimp -zeta only [x]; clear x); (on_goal 2 => clear_value x)) | clear_value x) | apply Keeps.ite | split | apply State.pelSend_keeps | fail_if_no_progress refine Keeps.of_mk ?_)

theorem State.pelAtFrame_keeps {z s : State} (n : Nat) (hK : Keeps z s) : Keeps z (State.pelAtFrame s n) := by
  unfold State.pelAtFrame; with_reducible repeat' (first | assumption | (extract_lets +implicits +onlyGivenNames x; first | (refine Keeps.named (z := z) (x := x) ?_ fun hx => ?_; (on_goal 1 => dsimp -zeta only [x]; clear x); (on_goal 2 => clear_value x)) | clear_value x) | apply Keeps.ite | split | apply State.leavePeloton_keeps | apply State.joinNow_keeps | apply State.passLead_keeps | apply State.setPel_keeps | apply State.pelJoin_keeps | apply State.askReturn_keeps | fail_if_no_progress refine Keeps.of_mk ?_)

theorem State.worstOffset_keeps {z s : State} (hK : Keeps z s) : Keeps z (State.worstOffset s) := by
  unfold State.worstOffset; with_reducible repeat' (first | assumption | intro x y hx | (extract_lets +implicits +onlyGivenNames x; first | (refine Keeps.named (z := z) (x := x) ?_ fun hx => ?_; (on_goal 1 => dsimp -zeta only [x]; clear x); (on_goal 2 => clear_value x)) | (refine Keeps.named_snd (z := z) (x := x) ?_ fun hx => ?_; (on_goal 1 => dsimp -zeta only [x]; clear x); (on_goal 2 => clear_value x)) | (refine Keeps.named_fst (z := z) (x := x) ?_ fun hx => ?_; (on_goal 1 => dsimp -zeta only [x]; clear x); (on_goal 2 => clear_value x)) | clear_value x) | apply Keeps.ite | split | apply State.wr_keeps | apply Keeps.foldl | apply Keeps.foldl_snd | apply Keeps.foldl_snd2 | apply Keeps.foldl_fst | fail_if_no_progress refine Keeps.of_mk ?_)

theorem execPelotonBeat_keeps {z s : State} (t : Nat) (answers : List (Nat × Int)) (hK : Keeps z s) : KeepsR z (execPelotonBeat t answers s) := by
  unfold execPelotonBeat; with_reducible repeat' (first | assumption | refine KeepsR.of_next ?_ | (extract_lets +implicits +onlyGivenNames x; first | (refine Keeps.named (z := z) (x := x) ?_ fun hx => ?_; (on_goal 1 => dsimp -zeta only [x]; clear x); (on_goal 2 => clear_value x)) | clear_value x) | apply Keeps.ite | split | apply State.at_keeps | apply State.worstOffset_keeps | apply State.pelSend_keeps | fail_if_no_progress refine Keeps.of_mk ?_ | refine Keeps.of_pair (by assumption) ?_ | refine Keeps.of_pair_fst (by assumption) ?_)

theorem State.retargetTo_keeps {z s : State} (b : PelBundle) (g : Nat) (hK : Keeps z s) : Keeps z (State.retargetTo s b g) := by
  unfold State.retargetTo; with_reducible repeat' (first | assumption | (extract_lets +implicits +onlyGivenNames x; first | (refine Keeps.named (z := z) (x := x) ?_ fun hx => ?_; (on_goal 1 => dsimp -zeta only [x]; clear x); (on_goal 2 => clear_value x)) | clear_value x) | apply State.satInc_keeps | apply State.pelIrq_keeps | apply State.pelSend_keeps | fail_if_no_progress refine Keeps.of_mk ?_)

theorem State.settleBundle_keeps {z s : State} (held : Bool) (hK : Keeps z s) : Keeps z (State.settleBundle s held) := by
  unfold State.settleBundle; with_reducible repeat' (first | assumption | (extract_lets +implicits +onlyGivenNames x; first | (refine Keeps.named (z := z) (x := x) ?_ fun hx => ?_; (on_goal 1 => dsimp -zeta only [x]; clear x); (on_goal 2 => clear_value x)) | clear_value x) | apply Keeps.ite | split | apply State.pelSend_keeps | apply State.retargetTo_keeps | fail_if_no_progress refine Keeps.of_mk ?_ | refine Keeps.of_pair (by assumption) ?_ | refine Keeps.of_pair_fst (by assumption) ?_)

theorem State.leaderClaims_keeps {z s : State} (i : Nat) (held : Bool) (handed : Bool) (view : List (Nat × Nat × Nat)) (hK : Keeps z s) : Keeps z (State.leaderClaims s i held handed view) := by
  unfold State.leaderClaims; with_reducible repeat' (first | assumption | (extract_lets +implicits +onlyGivenNames x; first | (refine Keeps.named (z := z) (x := x) ?_ fun hx => ?_; (on_goal 1 => dsimp -zeta only [x]; clear x); (on_goal 2 => clear_value x)) | clear_value x) | apply Keeps.ite | split | apply State.wr_keeps | apply State.setPel_keeps | apply State.pelSend_keeps | apply State.settleBundle_keeps | fail_if_no_progress refine Keeps.of_mk ?_)

theorem execBundleClose_keeps {z s : State} (t : Nat) (b : PelBundle) (hK : Keeps z s) : KeepsR z (execBundleClose t b s) := by
  unfold execBundleClose; with_reducible repeat' (first | assumption | refine KeepsR.of_next ?_ | (extract_lets +implicits +onlyGivenNames x; first | (refine Keeps.named (z := z) (x := x) ?_ fun hx => ?_; (on_goal 1 => dsimp -zeta only [x]; clear x); (on_goal 2 => clear_value x)) | clear_value x) | apply Keeps.ite | split | apply State.at_keeps | apply State.pelSend_keeps | fail_if_no_progress refine Keeps.of_mk ?_)

theorem State.preparePart_keeps {z s : State} (b : PelBundle) (hK : Keeps z s) : Keeps z (State.preparePart s b) := by
  unfold State.preparePart; with_reducible repeat' (first | assumption | (extract_lets +implicits +onlyGivenNames x; first | (refine Keeps.named (z := z) (x := x) ?_ fun hx => ?_; (on_goal 1 => dsimp -zeta only [x]; clear x); (on_goal 2 => clear_value x)) | clear_value x) | apply Keeps.ite | split | fail_if_no_progress refine Keeps.of_mk ?_)

theorem State.memberReady_keeps {z s : State} (m : Nat) (f : Nat) (hK : Keeps z s) : Keeps z (State.memberReady s m f) := by
  unfold State.memberReady; with_reducible repeat' (first | assumption | (extract_lets +implicits +onlyGivenNames x; first | (refine Keeps.named (z := z) (x := x) ?_ fun hx => ?_; (on_goal 1 => dsimp -zeta only [x]; clear x); (on_goal 2 => clear_value x)) | clear_value x) | apply Keeps.ite | split | apply State.satInc_keeps | apply State.pelSend_keeps | fail_if_no_progress refine Keeps.of_mk ?_ | refine Keeps.of_pair (by assumption) ?_ | refine Keeps.of_pair_fst (by assumption) ?_)

theorem State.dropLate_keeps {z s : State} (hK : Keeps z s) : Keeps z (State.dropLate s) := by
  unfold State.dropLate; with_reducible repeat' (first | assumption | intro x y hx | (extract_lets +implicits +onlyGivenNames x; first | (refine Keeps.named (z := z) (x := x) ?_ fun hx => ?_; (on_goal 1 => dsimp -zeta only [x]; clear x); (on_goal 2 => clear_value x)) | (refine Keeps.named_snd (z := z) (x := x) ?_ fun hx => ?_; (on_goal 1 => dsimp -zeta only [x]; clear x); (on_goal 2 => clear_value x)) | (refine Keeps.named_fst (z := z) (x := x) ?_ fun hx => ?_; (on_goal 1 => dsimp -zeta only [x]; clear x); (on_goal 2 => clear_value x)) | clear_value x) | split | apply State.modMember_keeps | apply State.pelChange_keeps | apply Keeps.foldl | apply Keeps.foldl_snd | apply Keeps.foldl_snd2 | apply Keeps.foldl_fst | fail_if_no_progress refine Keeps.of_mk ?_)

theorem execBundleDecide_keeps {z s : State} (t : Nat) (hK : Keeps z s) : KeepsR z (execBundleDecide t s) := by
  unfold execBundleDecide; with_reducible repeat' (first | assumption | refine KeepsR.of_next ?_ | (extract_lets +implicits +onlyGivenNames x; first | (refine Keeps.named (z := z) (x := x) ?_ fun hx => ?_; (on_goal 1 => dsimp -zeta only [x]; clear x); (on_goal 2 => clear_value x)) | clear_value x) | apply Keeps.ite | split | apply State.at_keeps | apply State.pelSend_keeps | apply State.retargetTo_keeps | apply State.dropLate_keeps | fail_if_no_progress refine Keeps.of_mk ?_ | refine Keeps.of_pair (by assumption) ?_ | refine Keeps.of_pair_fst (by assumption) ?_)

theorem State.memberCommit_keeps {z s : State} (m : Nat) (f : Nat) (hK : Keeps z s) : Keeps z (State.memberCommit s m f) := by
  unfold State.memberCommit; with_reducible repeat' (first | assumption | (extract_lets +implicits +onlyGivenNames x; first | (refine Keeps.named (z := z) (x := x) ?_ fun hx => ?_; (on_goal 1 => dsimp -zeta only [x]; clear x); (on_goal 2 => clear_value x)) | clear_value x) | apply Keeps.ite | split | apply State.pelSend_keeps | fail_if_no_progress refine Keeps.of_mk ?_ | refine Keeps.of_pair (by assumption) ?_ | refine Keeps.of_pair_fst (by assumption) ?_)

theorem State.memberRetarget_keeps {z s : State} (f : Nat) (hK : Keeps z s) : Keeps z (State.memberRetarget s f) := by
  unfold State.memberRetarget; with_reducible repeat' (first | assumption | (extract_lets +implicits +onlyGivenNames x; first | (refine Keeps.named (z := z) (x := x) ?_ fun hx => ?_; (on_goal 1 => dsimp -zeta only [x]; clear x); (on_goal 2 => clear_value x)) | clear_value x) | apply Keeps.ite | split | apply State.satInc_keeps | apply State.pelIrq_keeps | fail_if_no_progress refine Keeps.of_mk ?_)

theorem State.sampleWall_keeps {z s : State} (hK : Keeps z s) : Keeps z (State.sampleWall s) := by
  unfold State.sampleWall; with_reducible repeat' (first | assumption | intro x y hx | (extract_lets +implicits +onlyGivenNames x; first | (refine Keeps.named (z := z) (x := x) ?_ fun hx => ?_; (on_goal 1 => dsimp -zeta only [x]; clear x); (on_goal 2 => clear_value x)) | (refine Keeps.named_snd (z := z) (x := x) ?_ fun hx => ?_; (on_goal 1 => dsimp -zeta only [x]; clear x); (on_goal 2 => clear_value x)) | (refine Keeps.named_fst (z := z) (x := x) ?_ fun hx => ?_; (on_goal 1 => dsimp -zeta only [x]; clear x); (on_goal 2 => clear_value x)) | clear_value x) | apply Keeps.ite | split | apply State.memRead_keeps | refine Keeps.of_pair (by assumption) (State.memRead_keeps _ _ _ ?_) | apply State.pelSend_keeps | apply Keeps.foldl | apply Keeps.foldl_snd | apply Keeps.foldl_snd2 | apply Keeps.foldl_fst | fail_if_no_progress refine Keeps.of_mk ?_ | refine Keeps.of_pair (by assumption) ?_ | refine Keeps.of_pair_fst (by assumption) ?_)

theorem State.changeOwner_keeps {z s : State} (w : Nat) (i : Nat) (hK : Keeps z s) : Keeps z (State.changeOwner s w i) := by
  unfold State.changeOwner; with_reducible repeat' (first | assumption | (extract_lets +implicits +onlyGivenNames x; first | (refine Keeps.named (z := z) (x := x) ?_ fun hx => ?_; (on_goal 1 => dsimp -zeta only [x]; clear x); (on_goal 2 => clear_value x)) | clear_value x) | apply Keeps.ite | split | apply State.memWrite_keeps | apply State.satInc_keeps | apply State.pelIrq_keeps | apply State.wr_keeps | fail_if_no_progress refine Keeps.of_mk ?_ | refine Keeps.of_pair (by assumption) ?_ | refine Keeps.of_pair_fst (by assumption) ?_)

theorem State.armHeads_keeps {z s : State} (f : Nat) (words : List (Nat × List Nat)) (hK : Keeps z s) : Keeps z (State.armHeads s f words) := by
  unfold State.armHeads; with_reducible repeat' (first | assumption | intro x y hx | (extract_lets +implicits +onlyGivenNames x; first | (refine Keeps.named (z := z) (x := x) ?_ fun hx => ?_; (on_goal 1 => dsimp -zeta only [x]; clear x); (on_goal 2 => clear_value x)) | (refine Keeps.named_snd (z := z) (x := x) ?_ fun hx => ?_; (on_goal 1 => dsimp -zeta only [x]; clear x); (on_goal 2 => clear_value x)) | (refine Keeps.named_fst (z := z) (x := x) ?_ fun hx => ?_; (on_goal 1 => dsimp -zeta only [x]; clear x); (on_goal 2 => clear_value x)) | clear_value x) | apply Keeps.ite | split | apply State.wr64_keeps | apply State.wr_keeps | apply State.modHead_keeps | apply Keeps.foldl | apply Keeps.foldl_snd | apply Keeps.foldl_snd2 | apply Keeps.foldl_fst | fail_if_no_progress refine Keeps.of_mk ?_)

theorem State.applyMember_keeps {z s : State} (c : Nat × Nat) (hK : Keeps z s) : Keeps z (State.applyMember s c) := by
  unfold State.applyMember; with_reducible repeat' (first | assumption | (extract_lets +implicits +onlyGivenNames x; first | (refine Keeps.named (z := z) (x := x) ?_ fun hx => ?_; (on_goal 1 => dsimp -zeta only [x]; clear x); (on_goal 2 => clear_value x)) | clear_value x) | apply Keeps.ite | split | apply State.modMember_keeps | fail_if_no_progress refine Keeps.of_mk ?_)

theorem State.armBundle_keeps {z s : State} (b : PelBundle) (hK : Keeps z s) : Keeps z (State.armBundle s b) := by
  unfold State.armBundle; with_reducible repeat' (first | assumption | intro x y hx | (extract_lets +implicits +onlyGivenNames x; first | (refine Keeps.named (z := z) (x := x) ?_ fun hx => ?_; (on_goal 1 => dsimp -zeta only [x]; clear x); (on_goal 2 => clear_value x)) | (refine Keeps.named_snd (z := z) (x := x) ?_ fun hx => ?_; (on_goal 1 => dsimp -zeta only [x]; clear x); (on_goal 2 => clear_value x)) | (refine Keeps.named_fst (z := z) (x := x) ?_ fun hx => ?_; (on_goal 1 => dsimp -zeta only [x]; clear x); (on_goal 2 => clear_value x)) | clear_value x) | apply Keeps.ite | split | apply State.applyMember_keeps | apply State.armHeads_keeps | apply State.applyNow_keeps | apply State.changeOwner_keeps | apply Keeps.foldl | apply Keeps.foldl_snd | apply Keeps.foldl_snd2 | apply Keeps.foldl_fst | fail_if_no_progress refine Keeps.of_mk ?_)

theorem State.withdraw_keeps {z s : State} (hK : Keeps z s) : Keeps z (State.withdraw s) := by
  unfold State.withdraw; with_reducible repeat' (first | assumption | (extract_lets +implicits +onlyGivenNames x; first | (refine Keeps.named (z := z) (x := x) ?_ fun hx => ?_; (on_goal 1 => dsimp -zeta only [x]; clear x); (on_goal 2 => clear_value x)) | clear_value x) | apply Keeps.ite | split | apply State.satInc_keeps | apply State.pelIrq_keeps | apply State.raise_keeps | apply State.setPel_keeps | fail_if_no_progress refine Keeps.of_mk ?_)

theorem execBundleArm_keeps {z s : State} (t : Nat) (f : Nat) (hK : Keeps z s) : KeepsR z (execBundleArm t f s) := by
  unfold execBundleArm; with_reducible repeat' (first | assumption | refine KeepsR.of_next ?_ | (extract_lets +implicits +onlyGivenNames x; first | (refine Keeps.named (z := z) (x := x) ?_ fun hx => ?_; (on_goal 1 => dsimp -zeta only [x]; clear x); (on_goal 2 => clear_value x)) | clear_value x) | apply Keeps.ite | split | apply State.at_keeps | apply State.armBundle_keeps | apply State.withdraw_keeps | apply State.sampleWall_keeps | fail_if_no_progress refine Keeps.of_mk ?_ | refine Keeps.of_pair (by assumption) ?_ | refine Keeps.of_pair_fst (by assumption) ?_)

theorem execAckDeadline_keeps {z s : State} (t : Nat) (hK : Keeps z s) : KeepsR z (execAckDeadline t s) := by
  unfold execAckDeadline; with_reducible repeat' (first | assumption | refine KeepsR.of_next ?_ | intro x y hx | (extract_lets +implicits +onlyGivenNames x; first | (refine Keeps.named (z := z) (x := x) ?_ fun hx => ?_; (on_goal 1 => dsimp -zeta only [x]; clear x); (on_goal 2 => clear_value x)) | (refine Keeps.named_snd (z := z) (x := x) ?_ fun hx => ?_; (on_goal 1 => dsimp -zeta only [x]; clear x); (on_goal 2 => clear_value x)) | (refine Keeps.named_fst (z := z) (x := x) ?_ fun hx => ?_; (on_goal 1 => dsimp -zeta only [x]; clear x); (on_goal 2 => clear_value x)) | clear_value x) | apply Keeps.ite | split | apply State.at_keeps | apply State.modMember_keeps | apply State.pelChange_keeps | apply Keeps.foldl | apply Keeps.foldl_snd | apply Keeps.foldl_snd2 | apply Keeps.foldl_fst | fail_if_no_progress refine Keeps.of_mk ?_ | refine Keeps.of_pair (by assumption) ?_ | refine Keeps.of_pair_fst (by assumption) ?_)

theorem execMemberFail_keeps {z s : State} (t : Nat) (m : Nat) (hK : Keeps z s) : KeepsR z (execMemberFail t m s) := by
  unfold execMemberFail; with_reducible repeat' (first | assumption | refine KeepsR.of_next ?_ | (extract_lets +implicits +onlyGivenNames x; first | (refine Keeps.named (z := z) (x := x) ?_ fun hx => ?_; (on_goal 1 => dsimp -zeta only [x]; clear x); (on_goal 2 => clear_value x)) | clear_value x) | apply Keeps.ite | split | apply State.at_keeps | apply State.modMember_keeps | apply State.pelChange_keeps | fail_if_no_progress refine Keeps.of_mk ?_)

theorem State.memberReturns_keeps {z s : State} (m : Nat) (r : Nat) (missed : List PelBundle) (words : List (Nat × List Nat)) (owners : List (Nat × Nat)) (resync : Bool) (hK : Keeps z s) : Keeps z (State.memberReturns s m r missed words owners resync) := by
  unfold State.memberReturns; with_reducible repeat' (first | assumption | intro x y hx | (extract_lets +implicits +onlyGivenNames x; first | (refine Keeps.named (z := z) (x := x) ?_ fun hx => ?_; (on_goal 1 => dsimp -zeta only [x]; clear x); (on_goal 2 => clear_value x)) | (refine Keeps.named_snd (z := z) (x := x) ?_ fun hx => ?_; (on_goal 1 => dsimp -zeta only [x]; clear x); (on_goal 2 => clear_value x)) | (refine Keeps.named_fst (z := z) (x := x) ?_ fun hx => ?_; (on_goal 1 => dsimp -zeta only [x]; clear x); (on_goal 2 => clear_value x)) | clear_value x) | apply Keeps.ite | split | apply State.set1_keeps | apply State.applyNow_keeps | apply State.armHeads_keeps | apply State.changeOwner_keeps | apply State.modMember_keeps | apply State.pelChange_keeps | apply State.pelSend_keeps | apply Keeps.foldl | apply Keeps.foldl_snd | apply Keeps.foldl_snd2 | apply Keeps.foldl_fst | fail_if_no_progress refine Keeps.of_mk ?_)

theorem State.pelAct_keeps {z s : State} (m : PelMsg) (hK : Keeps z s) : Keeps z (State.pelAct s m) := by
  cases m <;> (unfold State.pelAct; with_reducible repeat' (first | assumption | split | assumption | apply State.joinAnswered_keeps | apply State.claim_keeps | refine Keeps.of_pair (by assumption) (State.claim_keeps _ ?_) | apply State.leaderClaims_keeps | apply State.preparePart_keeps | apply State.memberReady_keeps | apply State.memberCommit_keeps | apply State.memberRetarget_keeps | apply State.memberReturns_keeps))

theorem State.pelReceive_keeps {z s : State} (m : PelMsg) (hK : Keeps z s) : Keeps z (State.pelReceive s m) := by
  unfold State.pelReceive; with_reducible repeat' (first | assumption | apply Keeps.ite | split | apply State.pelAct_keeps | apply State.journalIn_keeps | fail_if_no_progress refine Keeps.of_mk ?_)

theorem execJoinAnswer_keeps {z s : State} (t : Nat) (reason : Nat) (frame : Nat) (number : Nat) (leader : Nat) (path : List Nat) (hK : Keeps z s) : KeepsR z (execJoinAnswer t reason frame number leader path s) := by
  unfold execJoinAnswer; with_reducible repeat' (first | assumption | refine KeepsR.of_next ?_ | apply State.at_keeps | apply State.pelReceive_keeps | fail_if_no_progress refine Keeps.of_mk ?_)

theorem execLeaderClaim_keeps {z s : State} (t : Nat) (i : Nat) (held : Bool) (handed : Bool) (view : List (Nat × Nat × Nat)) (hK : Keeps z s) : KeepsR z (execLeaderClaim t i held handed view s) := by
  unfold execLeaderClaim; with_reducible repeat' (first | assumption | refine KeepsR.of_next ?_ | apply State.at_keeps | apply State.pelReceive_keeps | apply State.claim_keeps | refine Keeps.of_pair (by assumption) (State.claim_keeps _ ?_) | fail_if_no_progress refine Keeps.of_mk ?_)

theorem execPrepareReceive_keeps {z s : State} (t : Nat) (b : PelBundle) (hK : Keeps z s) : KeepsR z (execPrepareReceive t b s) := by
  unfold execPrepareReceive; with_reducible repeat' (first | assumption | refine KeepsR.of_next ?_ | apply State.at_keeps | apply State.pelReceive_keeps | fail_if_no_progress refine Keeps.of_mk ?_)

theorem execReady_keeps {z s : State} (t : Nat) (m : Nat) (f : Nat) (hK : Keeps z s) : KeepsR z (execReady t m f s) := by
  unfold execReady; with_reducible repeat' (first | assumption | refine KeepsR.of_next ?_ | apply State.at_keeps | apply State.pelReceive_keeps | fail_if_no_progress refine Keeps.of_mk ?_)

theorem execCommitReceive_keeps {z s : State} (t : Nat) (m : Nat) (f : Nat) (hK : Keeps z s) : KeepsR z (execCommitReceive t m f s) := by
  unfold execCommitReceive; with_reducible repeat' (first | assumption | refine KeepsR.of_next ?_ | apply State.at_keeps | apply State.pelReceive_keeps | fail_if_no_progress refine Keeps.of_mk ?_)

theorem execRetargetReceive_keeps {z s : State} (t : Nat) (f : Nat) (hK : Keeps z s) : KeepsR z (execRetargetReceive t f s) := by
  unfold execRetargetReceive; with_reducible repeat' (first | assumption | refine KeepsR.of_next ?_ | apply State.at_keeps | apply State.pelReceive_keeps | fail_if_no_progress refine Keeps.of_mk ?_)

theorem execReturnRequest_keeps {z s : State} (t : Nat) (m : Nat) (r : Nat) (missed : List PelBundle) (words : List (Nat × List Nat)) (owners : List (Nat × Nat)) (resync : Bool) (hK : Keeps z s) : KeepsR z (execReturnRequest t m r missed words owners resync s) := by
  unfold execReturnRequest; with_reducible repeat' (first | assumption | refine KeepsR.of_next ?_ | apply State.at_keeps | apply State.pelReceive_keeps | fail_if_no_progress refine Keeps.of_mk ?_)

theorem State.rearmGroup_keeps {z s : State} (h : Nat) (hK : Keeps z s) : Keeps z (State.rearmGroup s h) := by
  unfold State.rearmGroup; with_reducible repeat' (first | assumption | (extract_lets +implicits +onlyGivenNames x; first | (refine Keeps.named (z := z) (x := x) ?_ fun hx => ?_; (on_goal 1 => dsimp -zeta only [x]; clear x); (on_goal 2 => clear_value x)) | clear_value x) | split | apply State.satInc_keeps | apply State.wr64_keeps | apply State.wr_keeps | apply State.modHead_keeps | fail_if_no_progress refine Keeps.of_mk ?_ | refine Keeps.of_pair (by assumption) ?_ | refine Keeps.of_pair_fst (by assumption) ?_)

theorem State.wallWrite_keeps {z s : State} (a : PelArmed) (hK : Keeps z s) : Keeps z (State.wallWrite s a) := by
  unfold State.wallWrite; with_reducible repeat' (first | assumption | intro x y hx | (extract_lets +implicits +onlyGivenNames x; first | (refine Keeps.named (z := z) (x := x) ?_ fun hx => ?_; (on_goal 1 => dsimp -zeta only [x]; clear x); (on_goal 2 => clear_value x)) | (refine Keeps.named_snd (z := z) (x := x) ?_ fun hx => ?_; (on_goal 1 => dsimp -zeta only [x]; clear x); (on_goal 2 => clear_value x)) | (refine Keeps.named_fst (z := z) (x := x) ?_ fun hx => ?_; (on_goal 1 => dsimp -zeta only [x]; clear x); (on_goal 2 => clear_value x)) | clear_value x) | split | apply State.putArray_keeps | apply Keeps.foldl | apply Keeps.foldl_snd | apply Keeps.foldl_snd2 | apply Keeps.foldl_fst | fail_if_no_progress refine Keeps.of_mk ?_)

theorem State.wallAtLatch_keeps {z s : State} (h : Nat) (n : Nat) (hK : Keeps z s) : Keeps z (State.wallAtLatch s h n) := by
  unfold State.wallAtLatch; with_reducible repeat' (first | assumption | intro x y hx | (extract_lets +implicits +onlyGivenNames x; first | (refine Keeps.named (z := z) (x := x) ?_ fun hx => ?_; (on_goal 1 => dsimp -zeta only [x]; clear x); (on_goal 2 => clear_value x)) | (refine Keeps.named_snd (z := z) (x := x) ?_ fun hx => ?_; (on_goal 1 => dsimp -zeta only [x]; clear x); (on_goal 2 => clear_value x)) | (refine Keeps.named_fst (z := z) (x := x) ?_ fun hx => ?_; (on_goal 1 => dsimp -zeta only [x]; clear x); (on_goal 2 => clear_value x)) | clear_value x) | split | apply State.wallWrite_keeps | apply State.wr64_keeps | apply State.pelIrq_keeps | apply Keeps.foldl | apply Keeps.foldl_snd | apply Keeps.foldl_snd2 | apply Keeps.foldl_fst | fail_if_no_progress refine Keeps.of_mk ?_)

end Sys2Proof.Machine
end

