-- ==== Sys2Proof/Laws/KeepsBeam.lean ====
section
/-! SUPPORT. What the functions of Beam keep (see Keeps). -/

set_option linter.all false

namespace Sys2Proof.Machine

theorem State.beamIrq_keeps {z s : State} (f : Nat → Fld) (h : Nat) (hK : Keeps z s) : Keeps z (State.beamIrq s f h) := by
  unfold State.beamIrq; with_reducible repeat' (first | assumption | apply State.set1_keeps | fail_if_no_progress refine Keeps.of_mk ?_)

theorem State.holdCommit_keeps {z s : State} (h : Nat) (f : Option Nat) (hK : Keeps z s) : Keeps z (State.holdCommit s h f) := by
  unfold State.holdCommit; with_reducible repeat' (first | assumption | (extract_lets +implicits +onlyGivenNames x; first | (refine Keeps.named (z := z) (x := x) ?_ fun hx => ?_; (on_goal 1 => dsimp -zeta only [x]; clear x); (on_goal 2 => clear_value x)) | clear_value x) | apply Keeps.ite | split | apply State.wr_keeps | apply State.modHead_keeps | fail_if_no_progress refine Keeps.of_mk ?_)

theorem State.beamCommit_keeps {z s : State} (h : Nat) (hK : Keeps z s) : Keeps z (State.beamCommit s h) := by
  unfold State.beamCommit; with_reducible repeat' (first | assumption | apply State.holdCommit_keeps | apply State.rearmGroup_keeps | fail_if_no_progress refine Keeps.of_mk ?_)

theorem State.beamCancel_keeps {z s : State} (h : Nat) (hK : Keeps z s) : Keeps z (State.beamCancel s h) := by
  unfold State.beamCancel; with_reducible repeat' (first | assumption | (extract_lets +implicits +onlyGivenNames x; first | (refine Keeps.named (z := z) (x := x) ?_ fun hx => ?_; (on_goal 1 => dsimp -zeta only [x]; clear x); (on_goal 2 => clear_value x)) | clear_value x) | split | apply State.wr_keeps | apply State.modHead_keeps | fail_if_no_progress refine Keeps.of_mk ?_)

theorem State.commitFrame_keeps {z s : State} (h : Nat) (f : Nat) (hK : Keeps z s) : Keeps z (State.commitFrame s h f) := by
  unfold State.commitFrame; with_reducible repeat' (first | assumption | (extract_lets +implicits +onlyGivenNames x; first | (refine Keeps.named (z := z) (x := x) ?_ fun hx => ?_; (on_goal 1 => dsimp -zeta only [x]; clear x); (on_goal 2 => clear_value x)) | clear_value x) | apply Keeps.ite | split | apply State.wr64_keeps | apply State.holdCommit_keeps | apply State.satInc_keeps | apply State.beamIrq_keeps | apply State.rearmGroup_keeps | fail_if_no_progress refine Keeps.of_mk ?_)

theorem execBeamCommit_keeps {z s : State} (t : Nat) (h : Nat) (hK : Keeps z s) : KeepsR z (execBeamCommit t h s) := by
  unfold execBeamCommit; with_reducible repeat' (first | assumption | refine KeepsR.of_next ?_ | apply State.at_keeps | apply State.beamCommit_keeps | fail_if_no_progress refine Keeps.of_mk ?_)

theorem execBeamCommitCancel_keeps {z s : State} (t : Nat) (h : Nat) (hK : Keeps z s) : KeepsR z (execBeamCommitCancel t h s) := by
  unfold execBeamCommitCancel; with_reducible repeat' (first | assumption | refine KeepsR.of_next ?_ | apply State.at_keeps | apply State.beamCancel_keeps | fail_if_no_progress refine Keeps.of_mk ?_)

theorem execCommitFrameWrite_keeps {z s : State} (t : Nat) (h : Nat) (f : Nat) (hK : Keeps z s) : KeepsR z (execCommitFrameWrite t h f s) := by
  unfold execCommitFrameWrite; with_reducible repeat' (first | assumption | refine KeepsR.of_next ?_ | apply State.at_keeps | apply State.commitFrame_keeps | fail_if_no_progress refine Keeps.of_mk ?_)

theorem State.copyLive_keeps {z s : State} (h : Nat) (hK : Keeps z s) : Keeps z (State.copyLive s h) := by
  unfold State.copyLive; with_reducible repeat' (first | assumption | intro x y hx | (extract_lets +implicits +onlyGivenNames x; first | (refine Keeps.named (z := z) (x := x) ?_ fun hx => ?_; (on_goal 1 => dsimp -zeta only [x]; clear x); (on_goal 2 => clear_value x)) | (refine Keeps.named_snd (z := z) (x := x) ?_ fun hx => ?_; (on_goal 1 => dsimp -zeta only [x]; clear x); (on_goal 2 => clear_value x)) | (refine Keeps.named_fst (z := z) (x := x) ?_ fun hx => ?_; (on_goal 1 => dsimp -zeta only [x]; clear x); (on_goal 2 => clear_value x)) | clear_value x) | split | apply State.setLive_keeps | apply State.before_keeps | apply Keeps.foldl | apply Keeps.foldl_snd | apply Keeps.foldl_snd2 | apply Keeps.foldl_fst | fail_if_no_progress refine Keeps.of_mk ?_)

theorem State.commitReplies_keeps {z s : State} (h : Nat) (n : Nat) (hK : Keeps z s) : Keeps z (State.commitReplies s h n) := by
  unfold State.commitReplies; with_reducible repeat' (first | assumption | intro x y hx | (extract_lets +implicits +onlyGivenNames x; first | (refine Keeps.named (z := z) (x := x) ?_ fun hx => ?_; (on_goal 1 => dsimp -zeta only [x]; clear x); (on_goal 2 => clear_value x)) | (refine Keeps.named_snd (z := z) (x := x) ?_ fun hx => ?_; (on_goal 1 => dsimp -zeta only [x]; clear x); (on_goal 2 => clear_value x)) | (refine Keeps.named_fst (z := z) (x := x) ?_ fun hx => ?_; (on_goal 1 => dsimp -zeta only [x]; clear x); (on_goal 2 => clear_value x)) | clear_value x) | apply Keeps.ite | split | apply State.vtkFinish_keeps | apply Keeps.foldl | apply Keeps.foldl_snd | apply Keeps.foldl_snd2 | apply Keeps.foldl_fst | fail_if_no_progress refine Keeps.of_mk ?_ | refine Keeps.of_pair (by assumption) ?_ | refine Keeps.of_pair_fst (by assumption) ?_)

theorem State.commitAtLatch_keeps {z s : State} (h : Nat) (n : Nat) (hK : Keeps z s) : Keeps z (State.commitAtLatch s h n) := by
  unfold State.commitAtLatch; with_reducible repeat' (first | assumption | (extract_lets +implicits +onlyGivenNames x; first | (refine Keeps.named (z := z) (x := x) ?_ fun hx => ?_; (on_goal 1 => dsimp -zeta only [x]; clear x); (on_goal 2 => clear_value x)) | clear_value x) | apply Keeps.ite | split | apply State.copyLive_keeps | apply State.beamCancel_keeps | apply State.wr64_keeps | apply State.beamIrq_keeps | apply State.wake_keeps | apply State.commitReplies_keeps | fail_if_no_progress refine Keeps.of_mk ?_)

theorem State.refuseFw_keeps {z s : State} (h : Nat) (hK : Keeps z s) : Keeps z (State.refuseFw s h) := by
  unfold State.refuseFw; with_reducible repeat' (first | assumption | (extract_lets +implicits +onlyGivenNames x; first | (refine Keeps.named (z := z) (x := x) ?_ fun hx => ?_; (on_goal 1 => dsimp -zeta only [x]; clear x); (on_goal 2 => clear_value x)) | clear_value x) | apply State.set1_keeps | apply State.wr_keeps | apply State.raise_keeps | fail_if_no_progress refine Keeps.of_mk ?_)

theorem State.armFw_keeps {z s : State} (h : Nat) (auto : Bool) (hK : Keeps z s) : Keeps z (State.armFw s h auto) := by
  unfold State.armFw; with_reducible repeat' (first | assumption | (extract_lets +implicits +onlyGivenNames x; first | (refine Keeps.named (z := z) (x := x) ?_ fun hx => ?_; (on_goal 1 => dsimp -zeta only [x]; clear x); (on_goal 2 => clear_value x)) | clear_value x) | split | apply State.modHead_keeps | fail_if_no_progress refine Keeps.of_mk ?_)

theorem State.armState_keeps {z s : State} (h : Nat) (v : Nat) (hK : Keeps z s) : Keeps z (State.armState s h v) := by
  unfold State.armState; with_reducible repeat' (first | assumption | (extract_lets +implicits +onlyGivenNames x; first | (refine Keeps.named (z := z) (x := x) ?_ fun hx => ?_; (on_goal 1 => dsimp -zeta only [x]; clear x); (on_goal 2 => clear_value x)) | clear_value x) | apply Keeps.ite | split | apply State.setHeadSwap_keeps | apply State.modHead_keeps | fail_if_no_progress refine Keeps.of_mk ?_)

theorem State.armFwInSwap_keeps {z s : State} (h : Nat) (hK : Keeps z s) : Keeps z (State.armFwInSwap s h) := by
  unfold State.armFwInSwap; with_reducible repeat' (first | assumption | (extract_lets +implicits +onlyGivenNames x; first | (refine Keeps.named (z := z) (x := x) ?_ fun hx => ?_; (on_goal 1 => dsimp -zeta only [x]; clear x); (on_goal 2 => clear_value x)) | clear_value x) | apply Keeps.ite | split | apply State.setHeadSwap_keeps | apply State.modHead_keeps | fail_if_no_progress refine Keeps.of_mk ?_)

theorem State.armRequest_keeps {z s : State} (h : Nat) (v : Nat) (hK : Keeps z s) : Keeps z (State.armRequest s h v) := by
  unfold State.armRequest; with_reducible repeat' (first | assumption | (extract_lets +implicits +onlyGivenNames x; first | (refine Keeps.named (z := z) (x := x) ?_ fun hx => ?_; (on_goal 1 => dsimp -zeta only [x]; clear x); (on_goal 2 => clear_value x)) | clear_value x) | apply Keeps.ite | split | apply State.armState_keeps | apply State.refuseFw_keeps | apply State.armFwInSwap_keeps | apply State.modHead_keeps | apply State.armFw_keeps | fail_if_no_progress refine Keeps.of_mk ?_)

theorem State.requestAtLatch_keeps {z s : State} (h : Nat) (hK : Keeps z s) : Keeps z (State.requestAtLatch s h) := by
  unfold State.requestAtLatch; with_reducible repeat' (first | assumption | (extract_lets +implicits +onlyGivenNames x; first | (refine Keeps.named (z := z) (x := x) ?_ fun hx => ?_; (on_goal 1 => dsimp -zeta only [x]; clear x); (on_goal 2 => clear_value x)) | clear_value x) | apply Keeps.ite | split | apply State.landed_keeps | apply State.modHead_keeps | apply State.armRequest_keeps | fail_if_no_progress refine Keeps.of_mk ?_ | refine Keeps.of_pair (by assumption) ?_ | refine Keeps.of_pair_fst (by assumption) ?_)

theorem State.thenFwAtLatch_keeps {z s : State} (h : Nat) (hK : Keeps z s) : Keeps z (State.thenFwAtLatch s h) := by
  unfold State.thenFwAtLatch; with_reducible repeat' (first | assumption | (extract_lets +implicits +onlyGivenNames x; first | (refine Keeps.named (z := z) (x := x) ?_ fun hx => ?_; (on_goal 1 => dsimp -zeta only [x]; clear x); (on_goal 2 => clear_value x)) | clear_value x) | apply Keeps.ite | split | apply State.armFw_keeps | apply State.refuseFw_keeps | apply State.modHead_keeps | fail_if_no_progress refine Keeps.of_mk ?_)

theorem State.autoFwAtLatch_keeps {z s : State} (h : Nat) (awake : Bool) (applied : Bool) (hK : Keeps z s) : Keeps z (State.autoFwAtLatch s h awake applied) := by
  unfold State.autoFwAtLatch; with_reducible repeat' (first | assumption | (extract_lets +implicits +onlyGivenNames x; first | (refine Keeps.named (z := z) (x := x) ?_ fun hx => ?_; (on_goal 1 => dsimp -zeta only [x]; clear x); (on_goal 2 => clear_value x)) | clear_value x) | apply Keeps.ite | split | apply State.armState_keeps | apply State.armFw_keeps | fail_if_no_progress refine Keeps.of_mk ?_)

theorem State.handSwap_keeps {z s : State} (h : Nat) (hK : Keeps z s) : Keeps z (State.handSwap s h) := by
  unfold State.handSwap; with_reducible repeat' (first | assumption | (extract_lets +implicits +onlyGivenNames x; first | (refine Keeps.named (z := z) (x := x) ?_ fun hx => ?_; (on_goal 1 => dsimp -zeta only [x]; clear x); (on_goal 2 => clear_value x)) | clear_value x) | apply Keeps.ite | split | apply State.holdTakeover_keeps | apply State.setHeadSwap_keeps | fail_if_no_progress refine Keeps.of_mk ?_)

theorem State.swapAtLatch_keeps {z s : State} (h : Nat) (n : Nat) (hK : Keeps z s) : Keeps z (State.swapAtLatch s h n) := by
  unfold State.swapAtLatch; with_reducible repeat' (first | assumption | (extract_lets +implicits +onlyGivenNames x; first | (refine Keeps.named (z := z) (x := x) ?_ fun hx => ?_; (on_goal 1 => dsimp -zeta only [x]; clear x); (on_goal 2 => clear_value x)) | clear_value x) | apply Keeps.ite | split | apply State.setHeadSwap_keeps | apply State.handSwap_keeps | apply State.modHead_keeps | fail_if_no_progress refine Keeps.of_mk ?_)

theorem State.holdAtLatch_keeps {z s : State} (h : Nat) (n : Nat) (hK : Keeps z s) : Keeps z (State.holdAtLatch s h n) := by
  unfold State.holdAtLatch; with_reducible repeat' (first | assumption | (extract_lets +implicits +onlyGivenNames x; first | (refine Keeps.named (z := z) (x := x) ?_ fun hx => ?_; (on_goal 1 => dsimp -zeta only [x]; clear x); (on_goal 2 => clear_value x)) | clear_value x) | apply Keeps.ite | split | apply State.modHead_keeps | fail_if_no_progress refine Keeps.of_mk ?_)

theorem State.scanAtLatch_keeps {z s : State} (h : Nat) (hK : Keeps z s) : Keeps z (State.scanAtLatch s h) := by
  unfold State.scanAtLatch; with_reducible repeat' (first | assumption | (extract_lets +implicits +onlyGivenNames x; first | (refine Keeps.named (z := z) (x := x) ?_ fun hx => ?_; (on_goal 1 => dsimp -zeta only [x]; clear x); (on_goal 2 => clear_value x)) | clear_value x) | split | apply State.modHead_keeps | fail_if_no_progress refine Keeps.of_mk ?_)

theorem State.latch_keeps {z s : State} (h : Nat) (n : Nat) (hK : Keeps z s) : Keeps z (State.latch s h n) := by
  unfold State.latch; with_reducible repeat' (first | assumption | (extract_lets +implicits +onlyGivenNames x; first | (refine Keeps.named (z := z) (x := x) ?_ fun hx => ?_; (on_goal 1 => dsimp -zeta only [x]; clear x); (on_goal 2 => clear_value x)) | clear_value x) | apply State.commitAtLatch_keeps | apply State.wallAtLatch_keeps | apply State.requestAtLatch_keeps | apply State.thenFwAtLatch_keeps | apply State.autoFwAtLatch_keeps | apply State.scanAtLatch_keeps | apply State.swapAtLatch_keeps | apply State.holdAtLatch_keeps | apply State.blankingOut_keeps | apply State.takeoversAtLatch_keeps | apply State.beamIrq_keeps | fail_if_no_progress refine Keeps.of_mk ?_)

theorem execLatchPoint_keeps {z s : State} (t : Nat) (h : Nat) (n : Nat) (hK : Keeps z s) : KeepsR z (execLatchPoint t h n s) := by
  unfold execLatchPoint; with_reducible repeat' (first | assumption | refine KeepsR.of_next ?_ | (extract_lets +implicits +onlyGivenNames x; first | (refine Keeps.named (z := z) (x := x) ?_ fun hx => ?_; (on_goal 1 => dsimp -zeta only [x]; clear x); (on_goal 2 => clear_value x)) | clear_value x) | apply Keeps.ite | split | apply State.at_keeps | apply State.latch_keeps | fail_if_no_progress refine Keeps.of_mk ?_)

theorem State.endFrame_keeps {z s : State} (h : Nat) (hK : Keeps z s) : Keeps z (State.endFrame s h) := by
  unfold State.endFrame; with_reducible repeat' (first | assumption | (extract_lets +implicits +onlyGivenNames x; first | (refine Keeps.named (z := z) (x := x) ?_ fun hx => ?_; (on_goal 1 => dsimp -zeta only [x]; clear x); (on_goal 2 => clear_value x)) | clear_value x) | apply Keeps.ite | split | apply State.assemble_keeps | apply State.photonFrameEnd_keeps | apply State.modHead_keeps | fail_if_no_progress refine Keeps.of_mk ?_)

theorem State.offLink_keeps {z s : State} (h : Nat) (old : Nat) (hK : Keeps z s) : Keeps z (State.offLink s h old) := by
  unfold State.offLink; with_reducible repeat' (first | assumption | (extract_lets +implicits +onlyGivenNames x; first | (refine Keeps.named (z := z) (x := x) ?_ fun hx => ?_; (on_goal 1 => dsimp -zeta only [x]; clear x); (on_goal 2 => clear_value x)) | clear_value x) | apply Keeps.ite | split | apply State.keepLink_keeps | apply State.modHead_keeps | apply State.refreshPhy_keeps | apply State.startTraining_keeps | fail_if_no_progress refine Keeps.of_mk ?_)

theorem State.enterState_keeps {z s : State} (h : Nat) (new : Nat) (hK : Keeps z s) : Keeps z (State.enterState s h new) := by
  unfold State.enterState; with_reducible repeat' (first | assumption | (extract_lets +implicits +onlyGivenNames x; first | (refine Keeps.named (z := z) (x := x) ?_ fun hx => ?_; (on_goal 1 => dsimp -zeta only [x]; clear x); (on_goal 2 => clear_value x)) | clear_value x) | apply Keeps.ite | split | apply State.wr_keeps | apply State.offLink_keeps | apply State.modHead_keeps | apply State.txIrq_keeps | fail_if_no_progress refine Keeps.of_mk ?_)

theorem State.enterSwap_keeps {z s : State} (h : Nat) (base : Nat) (hK : Keeps z s) : Keeps z (State.enterSwap s h base) := by
  unfold State.enterSwap; with_reducible repeat' (first | assumption | (extract_lets +implicits +onlyGivenNames x; first | (refine Keeps.named (z := z) (x := x) ?_ fun hx => ?_; (on_goal 1 => dsimp -zeta only [x]; clear x); (on_goal 2 => clear_value x)) | clear_value x) | apply State.setHeadSwap_keeps | apply State.wake_keeps | apply State.parkSpoke_keeps | fail_if_no_progress refine Keeps.of_mk ?_)

theorem State.leaveSwap_keeps {z s : State} (h : Nat) (hK : Keeps z s) : Keeps z (State.leaveSwap s h) := by
  unfold State.leaveSwap; with_reducible repeat' (first | assumption | (extract_lets +implicits +onlyGivenNames x; first | (refine Keeps.named (z := z) (x := x) ?_ fun hx => ?_; (on_goal 1 => dsimp -zeta only [x]; clear x); (on_goal 2 => clear_value x)) | clear_value x) | apply Keeps.ite | split | apply State.setHeadSwap_keeps | apply State.holdTakeover_keeps | fail_if_no_progress refine Keeps.of_mk ?_)

theorem State.changeStates_keeps {z s : State} (h : Nat) (n : Nat) (hK : Keeps z s) : Keeps z (State.changeStates s h n) := by
  unfold State.changeStates; with_reducible repeat' (first | assumption | (extract_lets +implicits +onlyGivenNames x; first | (refine Keeps.named (z := z) (x := x) ?_ fun hx => ?_; (on_goal 1 => dsimp -zeta only [x]; clear x); (on_goal 2 => clear_value x)) | clear_value x) | apply Keeps.ite | split | apply State.leaveSwap_keeps | apply State.enterState_keeps | apply State.modHead_keeps | apply State.enterSwap_keeps | apply State.setHeadSwap_keeps | fail_if_no_progress refine Keeps.of_mk ?_)

theorem State.openFrame_keeps {z s : State} (h : Nat) (n : Nat) (hK : Keeps z s) : Keeps z (State.openFrame s h n) := by
  unfold State.openFrame; with_reducible repeat' (first | assumption | (extract_lets +implicits +onlyGivenNames x; first | (refine Keeps.named (z := z) (x := x) ?_ fun hx => ?_; (on_goal 1 => dsimp -zeta only [x]; clear x); (on_goal 2 => clear_value x)) | clear_value x) | apply Keeps.ite | split | apply State.wr_keeps | apply State.setHead_keeps | apply State.before_keeps | fail_if_no_progress refine Keeps.of_mk ?_)

theorem State.reportSource_keeps {z s : State} (h : Nat) (hK : Keeps z s) : Keeps z (State.reportSource s h) := by
  unfold State.reportSource; with_reducible repeat' (first | assumption | apply Keeps.ite | split | apply State.set1_keeps | apply State.txIrq_keeps | fail_if_no_progress refine Keeps.of_mk ?_)

theorem State.readNet_keeps {z s : State} (h : Nat) (high : Bool) (hK : Keeps z s) : Keeps z (State.readNet s h high) := by
  unfold State.readNet; with_reducible repeat' (first | assumption | (extract_lets +implicits +onlyGivenNames x; first | (refine Keeps.named (z := z) (x := x) ?_ fun hx => ?_; (on_goal 1 => dsimp -zeta only [x]; clear x); (on_goal 2 => clear_value x)) | clear_value x) | apply Keeps.ite | split | fail_if_no_progress refine Keeps.of_mk ?_)

theorem State.frameStart_keeps {z s : State} (h : Nat) (n : Nat) (take : Bool) (hK : Keeps z s) : Keeps z (State.frameStart s h n take) := by
  unfold State.frameStart; with_reducible repeat' (first | assumption | (extract_lets +implicits +onlyGivenNames x; first | (refine Keeps.named (z := z) (x := x) ?_ fun hx => ?_; (on_goal 1 => dsimp -zeta only [x]; clear x); (on_goal 2 => clear_value x)) | clear_value x) | apply State.readNet_keeps | apply State.endFrame_keeps | apply State.changeStates_keeps | apply State.reportSource_keeps | apply State.openFrame_keeps | fail_if_no_progress refine Keeps.of_mk ?_)

theorem execFrameStart_keeps {z s : State} (t : Nat) (h : Nat) (n : Nat) (take : Bool) (hK : Keeps z s) : KeepsR z (execFrameStart t h n take s) := by
  unfold execFrameStart; with_reducible repeat' (first | assumption | refine KeepsR.of_next ?_ | (extract_lets +implicits +onlyGivenNames x; first | (refine Keeps.named (z := z) (x := x) ?_ fun hx => ?_; (on_goal 1 => dsimp -zeta only [x]; clear x); (on_goal 2 => clear_value x)) | clear_value x) | apply Keeps.ite | split | apply State.at_keeps | apply State.frameStart_keeps | fail_if_no_progress refine Keeps.of_mk ?_)

theorem State.fireEvent_keeps {z s : State} (h : Nat) (k : Nat) (hK : Keeps z s) : Keeps z (State.fireEvent s h k) := by
  unfold State.fireEvent; with_reducible repeat' (first | assumption | (extract_lets +implicits +onlyGivenNames x; first | (refine Keeps.named (z := z) (x := x) ?_ fun hx => ?_; (on_goal 1 => dsimp -zeta only [x]; clear x); (on_goal 2 => clear_value x)) | clear_value x) | apply Keeps.ite | split | apply State.mergeEdge_keeps | apply State.satInc_keeps | fail_if_no_progress refine Keeps.of_mk ?_)

theorem execLineEventFire_keeps {z s : State} (t : Nat) (h : Nat) (k : Nat) (hK : Keeps z s) : KeepsR z (execLineEventFire t h k s) := by
  unfold execLineEventFire; with_reducible repeat' (first | assumption | refine KeepsR.of_next ?_ | (extract_lets +implicits +onlyGivenNames x; first | (refine Keeps.named (z := z) (x := x) ?_ fun hx => ?_; (on_goal 1 => dsimp -zeta only [x]; clear x); (on_goal 2 => clear_value x)) | clear_value x) | apply Keeps.ite | split | apply State.at_keeps | apply State.before_keeps | apply State.fireEvent_keeps | fail_if_no_progress refine Keeps.of_mk ?_ | refine Keeps.of_pair (by assumption) ?_ | refine Keeps.of_pair_fst (by assumption) ?_)

end Sys2Proof.Machine
end

