-- ==== Sys2Proof/Laws/KeepsBell.lean ====
section
/-! SUPPORT. What the functions of Bell keep (see Keeps). -/

set_option linter.all false

namespace Sys2Proof.Machine

theorem State.cueEntry_keeps {z s : State} (cue : Nat) (hK : Keeps z s) : Keeps z (State.cueEntry s cue).2 := by
  unfold State.cueEntry; with_reducible repeat' (first | assumption | (extract_lets +implicits +onlyGivenNames x; first | (refine Keeps.named (z := z) (x := x) ?_ fun hx => ?_; (on_goal 1 => dsimp -zeta only [x]; clear x); (on_goal 2 => clear_value x)) | (refine Keeps.named_snd (z := z) (x := x) ?_ fun hx => ?_; (on_goal 1 => dsimp -zeta only [x]; clear x); (on_goal 2 => clear_value x)) | clear_value x) | apply Keeps.ite | split | apply State.memRead_keeps | refine Keeps.of_pair (by assumption) (State.memRead_keeps _ _ _ ?_) | fail_if_no_progress refine Keeps.of_mk ?_ | refine Keeps.of_pair (by assumption) ?_ | refine Keeps.of_pair_fst (by assumption) ?_)

theorem State.setVoice_keeps {z s : State} (i : Nat) (v : Voice) (hK : Keeps z s) : Keeps z (State.setVoice s i v) := by
  unfold State.setVoice; with_reducible repeat' (first | assumption | (extract_lets +implicits +onlyGivenNames x; first | (refine Keeps.named (z := z) (x := x) ?_ fun hx => ?_; (on_goal 1 => dsimp -zeta only [x]; clear x); (on_goal 2 => clear_value x)) | clear_value x) | split | fail_if_no_progress refine Keeps.of_mk ?_)

theorem execEnvelopeSegmentEnd_keeps {z s : State} (t : Nat) (i : Nat) (hK : Keeps z s) : KeepsR z (execEnvelopeSegmentEnd t i s) := by
  unfold execEnvelopeSegmentEnd; with_reducible repeat' (first | assumption | refine KeepsR.of_next ?_ | (extract_lets +implicits +onlyGivenNames x; first | (refine Keeps.named (z := z) (x := x) ?_ fun hx => ?_; (on_goal 1 => dsimp -zeta only [x]; clear x); (on_goal 2 => clear_value x)) | clear_value x) | apply Keeps.ite | split | apply State.at_keeps | apply State.setVoice_keeps | fail_if_no_progress refine Keeps.of_mk ?_ | refine Keeps.of_pair (by assumption) ?_ | refine Keeps.of_pair_fst (by assumption) ?_)

theorem execEnvelopeHoldExpire_keeps {z s : State} (t : Nat) (i : Nat) (hK : Keeps z s) : KeepsR z (execEnvelopeHoldExpire t i s) := by
  unfold execEnvelopeHoldExpire; with_reducible repeat' (first | assumption | refine KeepsR.of_next ?_ | (extract_lets +implicits +onlyGivenNames x; first | (refine Keeps.named (z := z) (x := x) ?_ fun hx => ?_; (on_goal 1 => dsimp -zeta only [x]; clear x); (on_goal 2 => clear_value x)) | clear_value x) | apply Keeps.ite | split | apply State.at_keeps | apply State.setVoice_keeps | fail_if_no_progress refine Keeps.of_mk ?_)

theorem execClipEnd_keeps {z s : State} (t : Nat) (i : Nat) (hK : Keeps z s) : KeepsR z (execClipEnd t i s) := by
  unfold execClipEnd; with_reducible repeat' (first | assumption | refine KeepsR.of_next ?_ | (extract_lets +implicits +onlyGivenNames x; first | (refine Keeps.named (z := z) (x := x) ?_ fun hx => ?_; (on_goal 1 => dsimp -zeta only [x]; clear x); (on_goal 2 => clear_value x)) | clear_value x) | apply Keeps.ite | split | apply State.at_keeps | apply State.setVoice_keeps | fail_if_no_progress refine Keeps.of_mk ?_)

theorem State.bellSample_keeps {z s : State} (off : Nat) (hK : Keeps z s) : Keeps z (State.bellSample s off).2.2 := by
  unfold State.bellSample; with_reducible repeat' (first | assumption | (extract_lets +implicits +onlyGivenNames x; first | (refine Keeps.named (z := z) (x := x) ?_ fun hx => ?_; (on_goal 1 => dsimp -zeta only [x]; clear x); (on_goal 2 => clear_value x)) | (refine Keeps.named_snd (z := z) (x := x) ?_ fun hx => ?_; (on_goal 1 => dsimp -zeta only [x]; clear x); (on_goal 2 => clear_value x)) | clear_value x) | apply State.memRead_keeps | refine Keeps.of_pair (by assumption) (State.memRead_keeps _ _ _ ?_) | fail_if_no_progress refine Keeps.of_mk ?_ | refine Keeps.of_pair (by assumption) ?_ | refine Keeps.of_pair_fst (by assumption) ?_)

theorem State.decodeTo_keeps {z s : State} (d : Adpcm) (base n left : Nat) (hK : Keeps z s) :
    Keeps z (State.decodeTo s d base n left).2 := by
  induction left generalizing s d with
  | zero => exact hK
  | succ left ih => unfold State.decodeTo; with_reducible repeat' (first | assumption | (extract_lets +implicits +onlyGivenNames x; first | (refine Keeps.named (z := z) (x := x) ?_ fun hx => ?_; (on_goal 1 => dsimp -zeta only [x]; clear x); (on_goal 2 => clear_value x)) | (refine Keeps.named_snd (z := z) (x := x) ?_ fun hx => ?_; (on_goal 1 => dsimp -zeta only [x]; clear x); (on_goal 2 => clear_value x)) | clear_value x) | apply Keeps.ite | split | apply ih | apply State.memRead_keeps | refine Keeps.of_pair (by assumption) (State.memRead_keeps _ _ _ ?_) | fail_if_no_progress refine Keeps.of_mk ?_ | refine Keeps.of_pair (by assumption) ?_ | refine Keeps.of_pair_fst (by assumption) ?_)

theorem State.voiceSource_keeps {z s : State} (v : Voice) (hK : Keeps z s) : Keeps z (State.voiceSource s v).2.2.2 := by
  unfold State.voiceSource; with_reducible repeat' (first | assumption | (extract_lets +implicits +onlyGivenNames x; first | (refine Keeps.named (z := z) (x := x) ?_ fun hx => ?_; (on_goal 1 => dsimp -zeta only [x]; clear x); (on_goal 2 => clear_value x)) | (refine Keeps.named_snd (z := z) (x := x) ?_ fun hx => ?_; (on_goal 1 => dsimp -zeta only [x]; clear x); (on_goal 2 => clear_value x)) | clear_value x) | apply Keeps.ite | split | apply State.bellSample_keeps | refine Keeps.of_pair2 (by assumption) (State.bellSample_keeps _ ?_) | apply State.decodeTo_keeps | refine Keeps.of_pair (by assumption) (State.decodeTo_keeps _ _ _ _ ?_) | apply State.before_keeps | fail_if_no_progress refine Keeps.of_mk ?_ | refine Keeps.of_pair (by assumption) ?_ | refine Keeps.of_pair_fst (by assumption) ?_)

theorem State.voiceTick_keeps {z s : State} (i : Nat) (hK : Keeps z s) : Keeps z (State.voiceTick s i).2 := by
  unfold State.voiceTick; with_reducible repeat' (first | assumption | (extract_lets +implicits +onlyGivenNames x; first | (refine Keeps.named (z := z) (x := x) ?_ fun hx => ?_; (on_goal 1 => dsimp -zeta only [x]; clear x); (on_goal 2 => clear_value x)) | clear_value x) | apply Keeps.ite | split | apply State.setVoice_keeps | apply State.voiceSource_keeps | refine Keeps.of_pair3 (by assumption) (State.voiceSource_keeps _ ?_) | apply State.satInc_keeps | apply State.set1_keeps | fail_if_no_progress refine Keeps.of_mk ?_ | refine Keeps.of_pair (by assumption) ?_ | refine Keeps.of_pair_fst (by assumption) ?_)

theorem State.cueRecord_keeps {z s : State} (p : Option Photon) (status : Nat) (time : Nat) (hK : Keeps z s) : Keeps z (State.cueRecord s p status time) := by
  unfold State.cueRecord; with_reducible repeat' (first | assumption | (extract_lets +implicits +onlyGivenNames x; first | (refine Keeps.named (z := z) (x := x) ?_ fun hx => ?_; (on_goal 1 => dsimp -zeta only [x]; clear x); (on_goal 2 => clear_value x)) | clear_value x) | apply Keeps.ite | split | apply State.dropPhoton_keeps | apply State.writePhoton_keeps | fail_if_no_progress refine Keeps.of_mk ?_ | refine Keeps.of_pair (by assumption) ?_ | refine Keeps.of_pair_fst (by assumption) ?_)

theorem State.cueRefused_keeps {z s : State} (c : CueCmd) (hK : Keeps z s) : Keeps z (State.cueRefused s c) := by
  unfold State.cueRefused; with_reducible repeat' (first | assumption | apply State.refuseCue_keeps | apply State.cueRecord_keeps | fail_if_no_progress refine Keeps.of_mk ?_)

theorem State.cueStart_keeps {z s : State} (c : CueCmd) (w : List Nat) (hK : Keeps z s) : Keeps z (State.cueStart s c w) := by
  unfold State.cueStart; with_reducible repeat' (first | assumption | (extract_lets +implicits +onlyGivenNames x; first | (refine Keeps.named (z := z) (x := x) ?_ fun hx => ?_; (on_goal 1 => dsimp -zeta only [x]; clear x); (on_goal 2 => clear_value x)) | clear_value x) | apply Keeps.ite | split | apply State.setVoice_keeps | fail_if_no_progress refine Keeps.of_mk ?_)

theorem State.takeCue_keeps {z s : State} (st : OpenStarts) (c : CueCmd) (hK : Keeps z s) : Keeps z (State.takeCue s st c).2 := by
  unfold State.takeCue; with_reducible repeat' (first | assumption | intro x y hx | (extract_lets +implicits +onlyGivenNames x; first | (refine Keeps.named (z := z) (x := x) ?_ fun hx => ?_; (on_goal 1 => dsimp -zeta only [x]; clear x); (on_goal 2 => clear_value x)) | (refine Keeps.named_snd (z := z) (x := x) ?_ fun hx => ?_; (on_goal 1 => dsimp -zeta only [x]; clear x); (on_goal 2 => clear_value x)) | (refine Keeps.named_fst (z := z) (x := x) ?_ fun hx => ?_; (on_goal 1 => dsimp -zeta only [x]; clear x); (on_goal 2 => clear_value x)) | clear_value x) | apply Keeps.ite | split | apply State.cueEntry_keeps | refine Keeps.of_pair (by assumption) (State.cueEntry_keeps _ ?_) | apply State.cueRefused_keeps | apply State.cueRecord_keeps | apply State.setVoice_keeps | apply State.cueStart_keeps | apply Keeps.foldl | apply Keeps.foldl_snd | apply Keeps.foldl_snd2 | apply Keeps.foldl_fst | fail_if_no_progress refine Keeps.of_mk ?_ | refine Keeps.of_pair (by assumption) ?_ | refine Keeps.of_pair_fst (by assumption) ?_)

theorem State.takeCues_keeps {z s : State} (hK : Keeps z s) : Keeps z (State.takeCues s) := by
  unfold State.takeCues; with_reducible repeat' (first | assumption | intro x y hx | (extract_lets +implicits +onlyGivenNames x; first | (refine Keeps.named (z := z) (x := x) ?_ fun hx => ?_; (on_goal 1 => dsimp -zeta only [x]; clear x); (on_goal 2 => clear_value x)) | (refine Keeps.named_snd (z := z) (x := x) ?_ fun hx => ?_; (on_goal 1 => dsimp -zeta only [x]; clear x); (on_goal 2 => clear_value x)) | (refine Keeps.named_fst (z := z) (x := x) ?_ fun hx => ?_; (on_goal 1 => dsimp -zeta only [x]; clear x); (on_goal 2 => clear_value x)) | clear_value x) | split | apply State.landed_keeps | apply State.takeCue_keeps | refine Keeps.of_pair (by assumption) (State.takeCue_keeps _ _ ?_) | apply State.cueRecord_keeps | apply Keeps.foldl | apply Keeps.foldl_snd | apply Keeps.foldl_snd2 | apply Keeps.foldl_fst | fail_if_no_progress refine Keeps.of_mk ?_ | refine Keeps.of_pair (by assumption) ?_ | refine Keeps.of_pair_fst (by assumption) ?_)

theorem State.limit_keeps {z s : State} (b : Nat) (x : Int) (hK : Keeps z s) : Keeps z (State.limit s b x).2 := by
  unfold State.limit; with_reducible repeat' (first | assumption | (extract_lets +implicits +onlyGivenNames x; first | (refine Keeps.named (z := z) (x := x) ?_ fun hx => ?_; (on_goal 1 => dsimp -zeta only [x]; clear x); (on_goal 2 => clear_value x)) | clear_value x) | apply Keeps.ite | split | apply State.wr_keeps | apply State.set1_keeps | fail_if_no_progress refine Keeps.of_mk ?_)

theorem State.stepRoutes_keeps {z s : State} (inputs : SMap Int) (hK : Keeps z s) : Keeps z (State.stepRoutes s inputs) := by
  unfold State.stepRoutes; with_reducible repeat' (first | assumption | (extract_lets +implicits +onlyGivenNames x; first | (refine Keeps.named (z := z) (x := x) ?_ fun hx => ?_; (on_goal 1 => dsimp -zeta only [x]; clear x); (on_goal 2 => clear_value x)) | clear_value x) | split | fail_if_no_progress refine Keeps.of_mk ?_)

theorem State.sinkTick_keeps {z s : State} (before : SMap Int) (hK : Keeps z s) : Keeps z (State.sinkTick s before).2 := by
  unfold State.sinkTick; with_reducible repeat' (first | assumption | intro x y hx | (extract_lets +implicits +onlyGivenNames x; first | (refine Keeps.named (z := z) (x := x) ?_ fun hx => ?_; (on_goal 1 => dsimp -zeta only [x]; clear x); (on_goal 2 => clear_value x)) | (refine Keeps.named_snd (z := z) (x := x) ?_ fun hx => ?_; (on_goal 1 => dsimp -zeta only [x]; clear x); (on_goal 2 => clear_value x)) | (refine Keeps.named_fst (z := z) (x := x) ?_ fun hx => ?_; (on_goal 1 => dsimp -zeta only [x]; clear x); (on_goal 2 => clear_value x)) | clear_value x) | split | apply State.before_keeps | apply Keeps.foldl | apply Keeps.foldl_snd | apply Keeps.foldl_snd2 | apply Keeps.foldl_fst | fail_if_no_progress refine Keeps.of_mk ?_ | refine Keeps.of_pair (by assumption) ?_ | refine Keeps.of_pair_fst (by assumption) ?_)

theorem State.sendTdm_keeps {z s : State} (hK : Keeps z s) : Keeps z (State.sendTdm s) := by
  unfold State.sendTdm; with_reducible repeat' (first | assumption | intro x y hx | (extract_lets +implicits +onlyGivenNames x; first | (refine Keeps.named (z := z) (x := x) ?_ fun hx => ?_; (on_goal 1 => dsimp -zeta only [x]; clear x); (on_goal 2 => clear_value x)) | (refine Keeps.named_snd (z := z) (x := x) ?_ fun hx => ?_; (on_goal 1 => dsimp -zeta only [x]; clear x); (on_goal 2 => clear_value x)) | (refine Keeps.named_fst (z := z) (x := x) ?_ fun hx => ?_; (on_goal 1 => dsimp -zeta only [x]; clear x); (on_goal 2 => clear_value x)) | clear_value x) | apply Keeps.ite | split | apply State.emit_keeps | apply Keeps.foldl | apply Keeps.foldl_snd | apply Keeps.foldl_snd2 | apply Keeps.foldl_fst | fail_if_no_progress refine Keeps.of_mk ?_)

theorem State.sendAudio_keeps {z s : State} (sinks : SMap Int) (hK : Keeps z s) : Keeps z (State.sendAudio s sinks) := by
  unfold State.sendAudio; with_reducible repeat' (first | assumption | intro x y hx | apply Keeps.ite | split | apply State.emit_keeps | apply Keeps.foldl | apply Keeps.foldl_snd | apply Keeps.foldl_snd2 | apply Keeps.foldl_fst | fail_if_no_progress refine Keeps.of_mk ?_)

theorem State.tdmInput_keeps {z s : State} (ins : List Int) (hK : Keeps z s) : Keeps z (State.tdmInput s ins).2 := by
  unfold State.tdmInput; with_reducible repeat' (first | assumption | (extract_lets +implicits +onlyGivenNames x; first | (refine Keeps.named (z := z) (x := x) ?_ fun hx => ?_; (on_goal 1 => dsimp -zeta only [x]; clear x); (on_goal 2 => clear_value x)) | (refine Keeps.named_fst (z := z) (x := x) ?_ fun hx => ?_; (on_goal 1 => dsimp -zeta only [x]; clear x); (on_goal 2 => clear_value x)) | clear_value x) | apply Keeps.ite | split | apply State.journalIn_keeps | apply State.archiveInput_keeps | fail_if_no_progress refine Keeps.of_mk ?_)

theorem State.voiceTicks_keeps {z s : State} (hK : Keeps z s) : Keeps z (State.voiceTicks s).2 := by
  unfold State.voiceTicks; with_reducible repeat' (first | assumption | intro x y hx | split | apply State.voiceTick_keeps | refine Keeps.of_pair (by assumption) (State.voiceTick_keeps _ ?_) | apply Keeps.foldl | apply Keeps.foldl_snd | apply Keeps.foldl_snd2 | apply Keeps.foldl_fst | fail_if_no_progress refine Keeps.of_mk ?_)

theorem State.limitAll_keeps {z s : State} (sums : List Int) (hK : Keeps z s) : Keeps z (State.limitAll s sums).2 := by
  unfold State.limitAll; with_reducible repeat' (first | assumption | intro x y hx | split | apply State.limit_keeps | refine Keeps.of_pair (by assumption) (State.limit_keeps _ _ ?_) | apply Keeps.foldl | apply Keeps.foldl_snd | apply Keeps.foldl_snd2 | apply Keeps.foldl_fst | fail_if_no_progress refine Keeps.of_mk ?_)

theorem State.audioTick_keeps {z s : State} (ins : List Int) (hK : Keeps z s) : Keeps z (State.audioTick s ins) := by
  unfold State.audioTick; with_reducible repeat' (first | assumption | (extract_lets +implicits +onlyGivenNames x; first | (refine Keeps.named (z := z) (x := x) ?_ fun hx => ?_; (on_goal 1 => dsimp -zeta only [x]; clear x); (on_goal 2 => clear_value x)) | (refine Keeps.named_snd (z := z) (x := x) ?_ fun hx => ?_; (on_goal 1 => dsimp -zeta only [x]; clear x); (on_goal 2 => clear_value x)) | clear_value x) | split | apply State.sendTdm_keeps | apply State.tdmInput_keeps | refine Keeps.of_pair (by assumption) (State.tdmInput_keeps _ ?_) | apply State.takeCues_keeps | apply State.voiceTicks_keeps | refine Keeps.of_pair (by assumption) (State.voiceTicks_keeps ?_) | apply State.before_keeps | apply State.stepRoutes_keeps | apply State.limitAll_keeps | refine Keeps.of_pair (by assumption) (State.limitAll_keeps _ ?_) | apply State.sinkTick_keeps | refine Keeps.of_pair (by assumption) (State.sinkTick_keeps _ ?_) | apply State.sendAudio_keeps | fail_if_no_progress refine Keeps.of_mk ?_)

theorem execAudioTick_keeps {z s : State} (t : Nat) (ins : List Int) (hK : Keeps z s) : KeepsR z (execAudioTick t ins s) := by
  unfold execAudioTick; with_reducible repeat' (first | assumption | refine KeepsR.of_next ?_ | (extract_lets +implicits +onlyGivenNames x; first | (refine Keeps.named (z := z) (x := x) ?_ fun hx => ?_; (on_goal 1 => dsimp -zeta only [x]; clear x); (on_goal 2 => clear_value x)) | clear_value x) | apply Keeps.ite | split | apply State.at_keeps | apply State.audioTick_keeps | fail_if_no_progress refine Keeps.of_mk ?_)

theorem execTdmLock_keeps {z s : State} (t : Nat) (p : Nat) (rate : Nat) (hK : Keeps z s) : KeepsR z (execTdmLock t p rate s) := by
  unfold execTdmLock; with_reducible repeat' (first | assumption | refine KeepsR.of_next ?_ | (extract_lets +implicits +onlyGivenNames x; first | (refine Keeps.named (z := z) (x := x) ?_ fun hx => ?_; (on_goal 1 => dsimp -zeta only [x]; clear x); (on_goal 2 => clear_value x)) | clear_value x) | apply Keeps.ite | split | apply State.at_keeps | apply State.set1_keeps | apply State.wr_keeps | fail_if_no_progress refine Keeps.of_mk ?_)

theorem execTdmUnlock_keeps {z s : State} (t : Nat) (p : Nat) (rate : Nat) (hK : Keeps z s) : KeepsR z (execTdmUnlock t p rate s) := by
  unfold execTdmUnlock; with_reducible repeat' (first | assumption | refine KeepsR.of_next ?_ | (extract_lets +implicits +onlyGivenNames x; first | (refine Keeps.named (z := z) (x := x) ?_ fun hx => ?_; (on_goal 1 => dsimp -zeta only [x]; clear x); (on_goal 2 => clear_value x)) | clear_value x) | apply Keeps.ite | split | apply State.at_keeps | apply State.wr_keeps | apply State.set1_keeps | apply State.raise_keeps | fail_if_no_progress refine Keeps.of_mk ?_)

theorem State.bellWake_keeps {z s : State} (hK : Keeps z s) : Keeps z (State.bellWake s) := by
  unfold State.bellWake; with_reducible repeat' (first | assumption | (extract_lets +implicits +onlyGivenNames x; first | (refine Keeps.named (z := z) (x := x) ?_ fun hx => ?_; (on_goal 1 => dsimp -zeta only [x]; clear x); (on_goal 2 => clear_value x)) | clear_value x) | fail_if_no_progress refine Keeps.of_mk ?_)

end Sys2Proof.Machine
end

