-- ==== Sys2Proof/Laws/KeepsBlitter.lean ====
section
/-! SUPPORT. What the functions of Blitter keep (see Keeps). -/

set_option linter.all false

namespace Sys2Proof.Machine

theorem State.memMasked64_keeps {z s : State} (req : Nat) (wi : Nat) (mask : Nat) (v : Nat) (hK : Keeps z s) : Keeps z (State.memMasked64 s req wi mask v) := by
  unfold State.memMasked64; with_reducible repeat' (first | assumption | (extract_lets +implicits +onlyGivenNames x; first | (refine Keeps.named (z := z) (x := x) ?_ fun hx => ?_; (on_goal 1 => dsimp -zeta only [x]; clear x); (on_goal 2 => clear_value x)) | clear_value x) | apply Keeps.ite | split | apply State.denyWrite_keeps | apply State.wakeRegion_keeps | apply State.writeWord64_keeps | apply State.mergeWord64_keeps | apply State.breakLinks_keeps | fail_if_no_progress refine Keeps.of_mk ?_)

theorem State.applyEdits_keeps {z s : State} (m : WordEdits) (hK : Keeps z s) : Keeps z (State.applyEdits s m) := by
  unfold State.applyEdits; with_reducible repeat' (first | assumption | intro x y hx | split | apply State.memMasked64_keeps | apply Keeps.foldl | apply Keeps.foldl_snd | apply Keeps.foldl_snd2 | apply Keeps.foldl_fst | fail_if_no_progress refine Keeps.of_mk ?_)

theorem State.readEach_keeps {z s : State} (wis : List Nat) (hK : Keeps z s) : Keeps z (State.readEach s wis).2.2 := by
  unfold State.readEach; with_reducible repeat' (first | assumption | intro x y hx | (extract_lets +implicits +onlyGivenNames x; first | (refine Keeps.named (z := z) (x := x) ?_ fun hx => ?_; (on_goal 1 => dsimp -zeta only [x]; clear x); (on_goal 2 => clear_value x)) | (refine Keeps.named_snd (z := z) (x := x) ?_ fun hx => ?_; (on_goal 1 => dsimp -zeta only [x]; clear x); (on_goal 2 => clear_value x)) | (refine Keeps.named_fst (z := z) (x := x) ?_ fun hx => ?_; (on_goal 1 => dsimp -zeta only [x]; clear x); (on_goal 2 => clear_value x)) | clear_value x) | split | apply State.readWord64_keeps | refine Keeps.of_pair (by assumption) (State.readWord64_keeps _ _ ?_) | apply Keeps.foldl | apply Keeps.foldl_snd | apply Keeps.foldl_snd2 | apply Keeps.foldl_fst | fail_if_no_progress refine Keeps.of_mk ?_ | refine Keeps.of_pair (by assumption) ?_ | refine Keeps.of_pair_fst (by assumption) ?_)

theorem State.copyBatch_keeps {z s : State} (c : BltCmd) (ps : List (Nat × Nat)) (hK : Keeps z s) : Keeps z (State.copyBatch s c ps).2 := by
  unfold State.copyBatch; with_reducible repeat' (first | assumption | intro x y hx | (extract_lets +implicits +onlyGivenNames x; first | (refine Keeps.named (z := z) (x := x) ?_ fun hx => ?_; (on_goal 1 => dsimp -zeta only [x]; clear x); (on_goal 2 => clear_value x)) | (refine Keeps.named_snd (z := z) (x := x) ?_ fun hx => ?_; (on_goal 1 => dsimp -zeta only [x]; clear x); (on_goal 2 => clear_value x)) | (refine Keeps.named_fst (z := z) (x := x) ?_ fun hx => ?_; (on_goal 1 => dsimp -zeta only [x]; clear x); (on_goal 2 => clear_value x)) | clear_value x) | apply Keeps.ite | split | apply State.readEach_keeps | refine Keeps.of_pair2 (by assumption) (State.readEach_keeps _ ?_) | apply State.applyEdits_keeps | apply State.wr64_keeps | apply Keeps.foldl | apply Keeps.foldl_snd | apply Keeps.foldl_snd2 | apply Keeps.foldl_fst | fail_if_no_progress refine Keeps.of_mk ?_ | refine Keeps.of_pair (by assumption) ?_ | refine Keeps.of_pair_fst (by assumption) ?_)

theorem State.copyAll_keeps {z s : State} (c : BltCmd) (l : List (List (Nat × Nat))) (hK : Keeps z s) :
    Keeps z (State.copyAll s c l).2 := by
  induction l generalizing s with
  | nil => exact hK
  | cons b l ih => unfold State.copyAll; with_reducible repeat' (first | assumption | (extract_lets +implicits +onlyGivenNames x; first | (refine Keeps.named (z := z) (x := x) ?_ fun hx => ?_; (on_goal 1 => dsimp -zeta only [x]; clear x); (on_goal 2 => clear_value x)) | (refine Keeps.named_snd (z := z) (x := x) ?_ fun hx => ?_; (on_goal 1 => dsimp -zeta only [x]; clear x); (on_goal 2 => clear_value x)) | clear_value x) | split | apply ih | apply State.copyBatch_keeps | refine Keeps.of_pair (by assumption) (State.copyBatch_keeps _ _ ?_) | fail_if_no_progress refine Keeps.of_mk ?_ | refine Keeps.of_pair (by assumption) ?_ | refine Keeps.of_pair_fst (by assumption) ?_)

theorem State.fillAll_keeps {z s : State} (c : BltCmd) (hK : Keeps z s) : Keeps z (State.fillAll s c) := by
  unfold State.fillAll; with_reducible repeat' (first | assumption | intro x y hx | (extract_lets +implicits +onlyGivenNames x; first | (refine Keeps.named (z := z) (x := x) ?_ fun hx => ?_; (on_goal 1 => dsimp -zeta only [x]; clear x); (on_goal 2 => clear_value x)) | (refine Keeps.named_snd (z := z) (x := x) ?_ fun hx => ?_; (on_goal 1 => dsimp -zeta only [x]; clear x); (on_goal 2 => clear_value x)) | (refine Keeps.named_fst (z := z) (x := x) ?_ fun hx => ?_; (on_goal 1 => dsimp -zeta only [x]; clear x); (on_goal 2 => clear_value x)) | clear_value x) | split | apply State.applyEdits_keeps | apply State.wr64_keeps | apply Keeps.foldl | apply Keeps.foldl_snd | apply Keeps.foldl_snd2 | apply Keeps.foldl_fst | fail_if_no_progress refine Keeps.of_mk ?_)

theorem State.setBlt_keeps {z s : State} (c : Option BltCmd) (hK : Keeps z s) : Keeps z (State.setBlt s c) := by
  unfold State.setBlt; with_reducible repeat' (first | assumption | (extract_lets +implicits +onlyGivenNames x; first | (refine Keeps.named (z := z) (x := x) ?_ fun hx => ?_; (on_goal 1 => dsimp -zeta only [x]; clear x); (on_goal 2 => clear_value x)) | clear_value x) | split | apply State.wr_keeps | fail_if_no_progress refine Keeps.of_mk ?_ | refine Keeps.of_pair (by assumption) ?_ | refine Keeps.of_pair_fst (by assumption) ?_)

theorem State.bltWr_keeps {z s : State} (q : Nat) (v : Nat) (hK : Keeps z s) : Keeps z (State.bltWr s q v) := by
  unfold State.bltWr; with_reducible repeat' (first | assumption | apply Keeps.ite | split | apply State.ignoreWrite_keeps | apply State.wr_keeps | fail_if_no_progress refine Keeps.of_mk ?_)

theorem execBltQueueWrWrite_keeps {z s : State} (t : Nat) (q : Nat) (v : Nat) (hK : Keeps z s) : KeepsR z (execBltQueueWrWrite t q v s) := by
  unfold execBltQueueWrWrite; with_reducible repeat' (first | assumption | refine KeepsR.of_next ?_ | apply State.at_keeps | apply State.bltWr_keeps | fail_if_no_progress refine Keeps.of_mk ?_)

theorem State.bltTake_keeps {z s : State} (q : Nat) (hK : Keeps z s) : Keeps z (State.bltTake s q) := by
  unfold State.bltTake; with_reducible repeat' (first | assumption | (extract_lets +implicits +onlyGivenNames x; first | (refine Keeps.named (z := z) (x := x) ?_ fun hx => ?_; (on_goal 1 => dsimp -zeta only [x]; clear x); (on_goal 2 => clear_value x)) | (refine Keeps.named_snd (z := z) (x := x) ?_ fun hx => ?_; (on_goal 1 => dsimp -zeta only [x]; clear x); (on_goal 2 => clear_value x)) | clear_value x) | apply Keeps.ite | split | apply State.memRead_keeps | refine Keeps.of_pair (by assumption) (State.memRead_keeps _ _ _ ?_) | apply State.setBlt_keeps | fail_if_no_progress refine Keeps.of_mk ?_ | refine Keeps.of_pair (by assumption) ?_ | refine Keeps.of_pair_fst (by assumption) ?_)

theorem execBlitterCommandTake_keeps {z s : State} (t : Nat) (hK : Keeps z s) : KeepsR z (execBlitterCommandTake t s) := by
  unfold execBlitterCommandTake; with_reducible repeat' (first | assumption | refine KeepsR.of_next ?_ | (extract_lets +implicits +onlyGivenNames x; first | (refine Keeps.named (z := z) (x := x) ?_ fun hx => ?_; (on_goal 1 => dsimp -zeta only [x]; clear x); (on_goal 2 => clear_value x)) | clear_value x) | apply Keeps.ite | split | apply State.at_keeps | apply State.bltTake_keeps | fail_if_no_progress refine Keeps.of_mk ?_ | refine Keeps.of_pair (by assumption) ?_ | refine Keeps.of_pair_fst (by assumption) ?_)

theorem execBltNop_keeps {z s : State} (t : Nat) (hK : Keeps z s) : KeepsR z (execBltNop t s) := by
  unfold execBltNop; with_reducible repeat' (first | assumption | refine KeepsR.of_next ?_ | (extract_lets +implicits +onlyGivenNames x; first | (refine Keeps.named (z := z) (x := x) ?_ fun hx => ?_; (on_goal 1 => dsimp -zeta only [x]; clear x); (on_goal 2 => clear_value x)) | clear_value x) | split | apply State.at_keeps | apply State.setBlt_keeps | fail_if_no_progress refine Keeps.of_mk ?_ | refine Keeps.of_pair (by assumption) ?_ | refine Keeps.of_pair_fst (by assumption) ?_)

theorem execBltCopy_keeps {z s : State} (t : Nat) (hK : Keeps z s) : KeepsR z (execBltCopy t s) := by
  unfold execBltCopy; with_reducible repeat' (first | assumption | refine KeepsR.of_next ?_ | (extract_lets +implicits +onlyGivenNames x; first | (refine Keeps.named (z := z) (x := x) ?_ fun hx => ?_; (on_goal 1 => dsimp -zeta only [x]; clear x); (on_goal 2 => clear_value x)) | (refine Keeps.named_snd (z := z) (x := x) ?_ fun hx => ?_; (on_goal 1 => dsimp -zeta only [x]; clear x); (on_goal 2 => clear_value x)) | clear_value x) | split | apply State.at_keeps | apply State.copyAll_keeps | refine Keeps.of_pair (by assumption) (State.copyAll_keeps _ _ ?_) | apply State.setBlt_keeps | fail_if_no_progress refine Keeps.of_mk ?_ | refine Keeps.of_pair (by assumption) ?_ | refine Keeps.of_pair_fst (by assumption) ?_)

theorem execBltFill_keeps {z s : State} (t : Nat) (hK : Keeps z s) : KeepsR z (execBltFill t s) := by
  unfold execBltFill; with_reducible repeat' (first | assumption | refine KeepsR.of_next ?_ | (extract_lets +implicits +onlyGivenNames x; first | (refine Keeps.named (z := z) (x := x) ?_ fun hx => ?_; (on_goal 1 => dsimp -zeta only [x]; clear x); (on_goal 2 => clear_value x)) | clear_value x) | split | apply State.at_keeps | apply State.fillAll_keeps | apply State.setBlt_keeps | fail_if_no_progress refine Keeps.of_mk ?_ | refine Keeps.of_pair (by assumption) ?_ | refine Keeps.of_pair_fst (by assumption) ?_)

theorem execBlitterWaitEnd_keeps {z s : State} (t : Nat) (hK : Keeps z s) : KeepsR z (execBlitterWaitEnd t s) := by
  unfold execBlitterWaitEnd; with_reducible repeat' (first | assumption | refine KeepsR.of_next ?_ | (extract_lets +implicits +onlyGivenNames x; first | (refine Keeps.named (z := z) (x := x) ?_ fun hx => ?_; (on_goal 1 => dsimp -zeta only [x]; clear x); (on_goal 2 => clear_value x)) | clear_value x) | apply Keeps.ite | split | apply State.at_keeps | apply State.setBlt_keeps | fail_if_no_progress refine Keeps.of_mk ?_ | refine Keeps.of_pair (by assumption) ?_ | refine Keeps.of_pair_fst (by assumption) ?_)

theorem State.bltStatus_keeps {z s : State} (q : Nat) (i : Nat) (st : Nat) (hK : Keeps z s) : Keeps z (State.bltStatus s q i st) := by
  unfold State.bltStatus; with_reducible repeat' (first | assumption | apply State.memWrite_keeps | fail_if_no_progress refine Keeps.of_mk ?_)

theorem State.bltFail_keeps {z s : State} (q : Nat) (i : Nat) (st : Nat) (hK : Keeps z s) : Keeps z (State.bltFail s q i st) := by
  unfold State.bltFail; with_reducible repeat' (first | assumption | (extract_lets +implicits +onlyGivenNames x; first | (refine Keeps.named (z := z) (x := x) ?_ fun hx => ?_; (on_goal 1 => dsimp -zeta only [x]; clear x); (on_goal 2 => clear_value x)) | clear_value x) | apply State.set1_keeps | apply State.wr_keeps | apply State.raise_keeps | fail_if_no_progress refine Keeps.of_mk ?_)

theorem execBlitterComplete_keeps {z s : State} (t : Nat) (hK : Keeps z s) : KeepsR z (execBlitterComplete t s) := by
  unfold execBlitterComplete; with_reducible repeat' (first | assumption | refine KeepsR.of_next ?_ | (extract_lets +implicits +onlyGivenNames x; first | (refine Keeps.named (z := z) (x := x) ?_ fun hx => ?_; (on_goal 1 => dsimp -zeta only [x]; clear x); (on_goal 2 => clear_value x)) | clear_value x) | apply Keeps.ite | split | apply State.at_keeps | apply State.bltStatus_keeps | apply State.wrapInc_keeps | apply State.wr_keeps | apply State.bltFail_keeps | apply State.setBlt_keeps | fail_if_no_progress refine Keeps.of_mk ?_ | refine Keeps.of_pair (by assumption) ?_ | refine Keeps.of_pair_fst (by assumption) ?_)

theorem State.bltCancel_keeps {z s : State} (q : Nat) (hK : Keeps z s) : Keeps z (State.bltCancel s q) := by
  unfold State.bltCancel; with_reducible repeat' (first | assumption | intro x y hx | (extract_lets +implicits +onlyGivenNames x; first | (refine Keeps.named (z := z) (x := x) ?_ fun hx => ?_; (on_goal 1 => dsimp -zeta only [x]; clear x); (on_goal 2 => clear_value x)) | (refine Keeps.named_snd (z := z) (x := x) ?_ fun hx => ?_; (on_goal 1 => dsimp -zeta only [x]; clear x); (on_goal 2 => clear_value x)) | (refine Keeps.named_fst (z := z) (x := x) ?_ fun hx => ?_; (on_goal 1 => dsimp -zeta only [x]; clear x); (on_goal 2 => clear_value x)) | clear_value x) | apply Keeps.ite | split | apply State.bltStatus_keeps | apply State.wr_keeps | apply State.setBlt_keeps | apply Keeps.foldl | apply Keeps.foldl_snd | apply Keeps.foldl_snd2 | apply Keeps.foldl_fst | fail_if_no_progress refine Keeps.of_mk ?_ | refine Keeps.of_pair (by assumption) ?_ | refine Keeps.of_pair_fst (by assumption) ?_)

theorem execBltQueueCancel_keeps {z s : State} (t : Nat) (q : Nat) (hK : Keeps z s) : KeepsR z (execBltQueueCancel t q s) := by
  unfold execBltQueueCancel; with_reducible repeat' (first | assumption | refine KeepsR.of_next ?_ | apply State.at_keeps | apply State.bltCancel_keeps | fail_if_no_progress refine Keeps.of_mk ?_)

theorem execBltQueueResume_keeps {z s : State} (t : Nat) (q : Nat) (hK : Keeps z s) : KeepsR z (execBltQueueResume t q s) := by
  unfold execBltQueueResume; with_reducible repeat' (first | assumption | refine KeepsR.of_next ?_ | apply State.at_keeps | apply State.wr_keeps | fail_if_no_progress refine Keeps.of_mk ?_)

end Sys2Proof.Machine
end

