-- ==== Sys2Proof/Laws/KeepsCadence.lean ====
section
/-! SUPPORT. What the functions of Cadence keep (see Keeps). -/

set_option linter.all false

namespace Sys2Proof.Machine

theorem State.cadDeal_keeps {z s : State} (j : LineJob) (c : Nat) (i : Nat) (e : CadNext) (hK : Keeps z s) : Keeps z (State.cadDeal s j c i e) := by
  unfold State.cadDeal; with_reducible repeat' (first | assumption | (extract_lets +implicits +onlyGivenNames x; first | (refine Keeps.named (z := z) (x := x) ?_ fun hx => ?_; (on_goal 1 => dsimp -zeta only [x]; clear x); (on_goal 2 => clear_value x)) | clear_value x) | split | apply State.setJob_keeps | apply State.satInc_keeps | apply State.cadBad_keeps | apply State.modHead_keeps | apply State.peak_keeps | fail_if_no_progress refine Keeps.of_mk ?_ | refine Keeps.of_pair (by assumption) ?_ | refine Keeps.of_pair_fst (by assumption) ?_)

theorem State.cadTake_keeps {z s : State} (h f y n : Nat) (hK : Keeps z s) : Keeps z (State.cadTake s h f y n) := by
  induction n generalizing s with
  | zero => exact hK
  | succ n ih => unfold State.cadTake; with_reducible repeat' (first | assumption | (extract_lets +implicits +onlyGivenNames x; first | (refine Keeps.named (z := z) (x := x) ?_ fun hx => ?_; (on_goal 1 => dsimp -zeta only [x]; clear x); (on_goal 2 => clear_value x)) | clear_value x) | split | apply ih | apply State.cadDeal_keeps | fail_if_no_progress refine Keeps.of_mk ?_ | refine Keeps.of_pair (by assumption) ?_ | refine Keeps.of_pair_fst (by assumption) ?_)

theorem execCadenceEntryDue_keeps {z s : State} (t : Nat) (h : Nat) (hK : Keeps z s) : KeepsR z (execCadenceEntryDue t h s) := by
  unfold execCadenceEntryDue; with_reducible repeat' (first | assumption | refine KeepsR.of_next ?_ | intro x y hx | (extract_lets +implicits +onlyGivenNames x; first | (refine Keeps.named (z := z) (x := x) ?_ fun hx => ?_; (on_goal 1 => dsimp -zeta only [x]; clear x); (on_goal 2 => clear_value x)) | (refine Keeps.named_snd (z := z) (x := x) ?_ fun hx => ?_; (on_goal 1 => dsimp -zeta only [x]; clear x); (on_goal 2 => clear_value x)) | (refine Keeps.named_fst (z := z) (x := x) ?_ fun hx => ?_; (on_goal 1 => dsimp -zeta only [x]; clear x); (on_goal 2 => clear_value x)) | clear_value x) | split | apply State.at_keeps | apply State.cadTake_keeps | apply Keeps.foldl | apply Keeps.foldl_snd | apply Keeps.foldl_snd2 | apply Keeps.foldl_fst | fail_if_no_progress refine Keeps.of_mk ?_)

theorem State.cadRegWrite_keeps {z s : State} (h : Nat) (off : Nat) (p : Word × Word) (hK : Keeps z s) : Keeps z (State.cadRegWrite s h off p) := by
  unfold State.cadRegWrite; with_reducible repeat' (first | assumption | (extract_lets +implicits +onlyGivenNames x; first | (refine Keeps.named (z := z) (x := x) ?_ fun hx => ?_; (on_goal 1 => dsimp -zeta only [x]; clear x); (on_goal 2 => clear_value x)) | clear_value x) | apply Keeps.ite | split | apply State.ignoreWrite_keeps | apply State.setLive_keeps | fail_if_no_progress refine Keeps.of_mk ?_ | refine Keeps.of_pair (by assumption) ?_ | refine Keeps.of_pair_fst (by assumption) ?_)

theorem State.cadArrayWrite_keeps {z s : State} (h : Nat) (off : Nat) (p : Word × Word) (hK : Keeps z s) : Keeps z (State.cadArrayWrite s h off p) := by
  unfold State.cadArrayWrite; with_reducible repeat' (first | assumption | (extract_lets +implicits +onlyGivenNames x; first | (refine Keeps.named (z := z) (x := x) ?_ fun hx => ?_; (on_goal 1 => dsimp -zeta only [x]; clear x); (on_goal 2 => clear_value x)) | clear_value x) | apply Keeps.ite | split | apply State.ignoreWrite_keeps | apply State.cadArray_keeps | fail_if_no_progress refine Keeps.of_mk ?_)

theorem State.cadLand_keeps {z s : State} (h : Nat) (w : CadWrite) (hK : Keeps z s) : Keeps z (State.cadLand s h w) := by
  unfold State.cadLand; with_reducible repeat' (first | assumption | (extract_lets +implicits +onlyGivenNames x; first | (refine Keeps.named (z := z) (x := x) ?_ fun hx => ?_; (on_goal 1 => dsimp -zeta only [x]; clear x); (on_goal 2 => clear_value x)) | clear_value x) | apply Keeps.ite | split | apply State.cadArrayWrite_keeps | apply State.cadRegWrite_keeps | fail_if_no_progress refine Keeps.of_mk ?_)

theorem execCadenceWrite_keeps {z s : State} (t : Nat) (h : Nat) (hK : Keeps z s) : KeepsR z (execCadenceWrite t h s) := by
  unfold execCadenceWrite; with_reducible repeat' (first | assumption | refine KeepsR.of_next ?_ | (extract_lets +implicits +onlyGivenNames x; first | (refine Keeps.named (z := z) (x := x) ?_ fun hx => ?_; (on_goal 1 => dsimp -zeta only [x]; clear x); (on_goal 2 => clear_value x)) | clear_value x) | apply Keeps.ite | split | apply State.at_keeps | apply State.setHead_keeps | apply State.satInc_keeps | apply State.cadLand_keeps | fail_if_no_progress refine Keeps.of_mk ?_ | refine Keeps.of_pair (by assumption) ?_ | refine Keeps.of_pair_fst (by assumption) ?_)

end Sys2Proof.Machine
end

