-- ==== Sys2Proof/Laws/KeepsReset.lean ====
section
/-! SUPPORT. What the functions of Reset keep (see Keeps). -/

set_option linter.all false

namespace Sys2Proof.Machine

theorem State.afterReset_keeps {z s : State} (kick : Bool) (hK : Keeps z s) : Keeps z (State.afterReset s kick) := by
  unfold State.afterReset
  extract_lets valid f y
  have hy : Keeps z y := hK.trans ⟨rfl, fun _ => rfl, rfl, rfl, fun _ => id, fun _ => id, id, Nat.le_refl _⟩
  clear_value y
  with_reducible repeat' (first | assumption | (extract_lets +implicits +onlyGivenNames x; first | (refine Keeps.named (z := z) (x := x) ?_ fun hx => ?_; (on_goal 1 => dsimp -zeta only [x]; clear x); (on_goal 2 => clear_value x)) | (refine Keeps.hub x ?_; subst x) | (refine Keeps.sec x ?_; subst x) | clear_value x) | apply Keeps.ite | split | assumption | apply State.wr_keeps | apply State.set1_keeps | fail_if_no_progress refine Keeps.of_mk ?_)

theorem State.deviceReset_keeps {z s : State} (cause : Nat) (hK : Keeps z s) : Keeps z (State.deviceReset s cause) := by
  unfold State.deviceReset; with_reducible repeat' (first | assumption | (extract_lets +implicits +onlyGivenNames x; first | (refine Keeps.named (z := z) (x := x) ?_ fun hx => ?_; (on_goal 1 => dsimp -zeta only [x]; clear x); (on_goal 2 => clear_value x)) | clear_value x) | apply Keeps.ite | split | apply State.afterReset_keeps | apply State.wr_keeps | apply State.satInc_keeps | apply State.secRefresh_keeps | fail_if_no_progress refine Keeps.of_mk ?_)

end Sys2Proof.Machine
end

