-- ==== Sys2Proof/Laws/KeepsFaults.lean ====
section
/-! SUPPORT. What the functions of Faults keep (see Keeps). -/

set_option linter.all false

namespace Sys2Proof.Machine

theorem execFaultRaise_keeps {z s : State} (t : Nat) (i : Nat) (broken : Bool) (hK : Keeps z s) : KeepsR z (execFaultRaise t i broken s) := by
  unfold execFaultRaise; with_reducible repeat' (first | assumption | refine KeepsR.of_next ?_ | apply State.at_keeps | apply State.raiseAs_keeps | fail_if_no_progress refine Keeps.of_mk ?_)

theorem execFaultSourceNoFault_keeps {z s : State} (t : Nat) (i : Nat) (hK : Keeps z s) : KeepsR z (execFaultSourceNoFault t i s) := by
  unfold execFaultSourceNoFault; with_reducible repeat' (first | assumption | refine KeepsR.of_next ?_ | (extract_lets +implicits +onlyGivenNames x; first | (refine Keeps.named (z := z) (x := x) ?_ fun hx => ?_; (on_goal 1 => dsimp -zeta only [x]; clear x); (on_goal 2 => clear_value x)) | clear_value x) | apply Keeps.ite | split | apply State.at_keeps | apply State.clearFault_keeps | fail_if_no_progress refine Keeps.of_mk ?_)

theorem State.actionDone_keeps {z s : State} (hK : Keeps z s) : Keeps z (State.actionDone s) := by
  unfold State.actionDone; with_reducible repeat' (first | assumption | (extract_lets +implicits +onlyGivenNames x; first | (refine Keeps.named (z := z) (x := x) ?_ fun hx => ?_; (on_goal 1 => dsimp -zeta only [x]; clear x); (on_goal 2 => clear_value x)) | clear_value x) | split | apply State.setQuiet_keeps | apply State.setFaultQueue_keeps | apply State.restartQuiet_keeps | apply State.startAction_keeps | fail_if_no_progress refine Keeps.of_mk ?_ | refine Keeps.of_pair (by assumption) ?_ | refine Keeps.of_pair_fst (by assumption) ?_)

theorem execFaultActionComplete_keeps {z s : State} (t : Nat) (hK : Keeps z s) : KeepsR z (execFaultActionComplete t s) := by
  unfold execFaultActionComplete; with_reducible repeat' (first | assumption | refine KeepsR.of_next ?_ | apply State.at_keeps | apply State.actionDone_keeps | fail_if_no_progress refine Keeps.of_mk ?_)

theorem State.recoverClass_keeps {z s : State} (c : Nat) (hK : Keeps z s) : Keeps z (State.recoverClass s c) := by
  unfold State.recoverClass; with_reducible repeat' (first | assumption | (extract_lets +implicits +onlyGivenNames x; first | (refine Keeps.named (z := z) (x := x) ?_ fun hx => ?_; (on_goal 1 => dsimp -zeta only [x]; clear x); (on_goal 2 => clear_value x)) | clear_value x) | apply Keeps.ite | split | apply State.setQuiet_keeps | apply State.wr_keeps | apply State.deviceReset_keeps | fail_if_no_progress refine Keeps.of_mk ?_)

theorem State.quietOver_keeps {z s : State} (c : Nat) (hK : Keeps z s) : Keeps z (State.quietOver s c) := by
  unfold State.quietOver; with_reducible repeat' (first | assumption | (extract_lets +implicits +onlyGivenNames x; first | (refine Keeps.named (z := z) (x := x) ?_ fun hx => ?_; (on_goal 1 => dsimp -zeta only [x]; clear x); (on_goal 2 => clear_value x)) | (refine Keeps.named_snd (z := z) (x := x) ?_ fun hx => ?_; (on_goal 1 => dsimp -zeta only [x]; clear x); (on_goal 2 => clear_value x)) | clear_value x) | apply Keeps.ite | split | apply State.setQuiet_keeps | apply State.limit_keeps | refine Keeps.of_pair (by assumption) (State.limit_keeps _ _ ?_) | apply State.wr_keeps | apply State.satInc_keeps | apply State.recoverClass_keeps | fail_if_no_progress refine Keeps.of_mk ?_)

theorem execQuietPeriodEnd_keeps {z s : State} (t : Nat) (c : Nat) (hK : Keeps z s) : KeepsR z (execQuietPeriodEnd t c s) := by
  unfold execQuietPeriodEnd; with_reducible repeat' (first | assumption | refine KeepsR.of_next ?_ | (extract_lets +implicits +onlyGivenNames x; first | (refine Keeps.named (z := z) (x := x) ?_ fun hx => ?_; (on_goal 1 => dsimp -zeta only [x]; clear x); (on_goal 2 => clear_value x)) | clear_value x) | apply Keeps.ite | split | apply State.at_keeps | apply State.quietOver_keeps | fail_if_no_progress refine Keeps.of_mk ?_ | refine Keeps.of_pair (by assumption) ?_ | refine Keeps.of_pair_fst (by assumption) ?_)

theorem State.faultRelease_keeps {z s : State} (hK : Keeps z s) : Keeps z (State.faultRelease s) := by
  unfold State.faultRelease; with_reducible repeat' (first | assumption | intro x y hx | apply State.recoverClass_keeps | apply Keeps.foldl | apply Keeps.foldl_snd | apply Keeps.foldl_snd2 | apply Keeps.foldl_fst | fail_if_no_progress refine Keeps.of_mk ?_)

theorem execFaultRelease_keeps {z s : State} (t : Nat) (hK : Keeps z s) : KeepsR z (execFaultRelease t s) := by
  unfold execFaultRelease; with_reducible repeat' (first | assumption | refine KeepsR.of_next ?_ | apply State.at_keeps | apply State.faultRelease_keeps | fail_if_no_progress refine Keeps.of_mk ?_)

theorem State.clearRecovery_keeps {z s : State} (hK : Keeps z s) : Keeps z (State.clearRecovery s) := by
  unfold State.clearRecovery; with_reducible repeat' (first | assumption | intro x y hx | split | apply State.wr_keeps | apply Keeps.foldl | apply Keeps.foldl_snd | apply Keeps.foldl_snd2 | apply Keeps.foldl_fst | fail_if_no_progress refine Keeps.of_mk ?_)

theorem execFaultClearRecovery_keeps {z s : State} (t : Nat) (hK : Keeps z s) : KeepsR z (execFaultClearRecovery t s) := by
  unfold execFaultClearRecovery; with_reducible repeat' (first | assumption | refine KeepsR.of_next ?_ | apply State.at_keeps | apply State.clearRecovery_keeps | fail_if_no_progress refine Keeps.of_mk ?_)

theorem State.faultInject_keeps {z s : State} (w : Word) (hK : Keeps z s) : Keeps z (State.faultInject s w) := by
  unfold State.faultInject; with_reducible repeat' (first | assumption | (extract_lets +implicits +onlyGivenNames x; first | (refine Keeps.named (z := z) (x := x) ?_ fun hx => ?_; (on_goal 1 => dsimp -zeta only [x]; clear x); (on_goal 2 => clear_value x)) | clear_value x) | apply Keeps.ite | split | apply State.ignoreWrite_keeps | apply State.raiseAs_keeps | fail_if_no_progress refine Keeps.of_mk ?_)

theorem execFaultInjectWrite_keeps {z s : State} (t : Nat) (w : Word) (hK : Keeps z s) : KeepsR z (execFaultInjectWrite t w s) := by
  unfold execFaultInjectWrite; with_reducible repeat' (first | assumption | refine KeepsR.of_next ?_ | apply State.at_keeps | apply State.faultInject_keeps | fail_if_no_progress refine Keeps.of_mk ?_)

theorem State.setWdog_keeps {z s : State} (k : Nat) (w : WDog) (hK : Keeps z s) : Keeps z (State.setWdog s k w) := by
  unfold State.setWdog; with_reducible repeat' (first | assumption | (extract_lets +implicits +onlyGivenNames x; first | (refine Keeps.named (z := z) (x := x) ?_ fun hx => ?_; (on_goal 1 => dsimp -zeta only [x]; clear x); (on_goal 2 => clear_value x)) | clear_value x) | split | fail_if_no_progress refine Keeps.of_mk ?_)

theorem State.wdogReload_keeps {z s : State} (k : Nat) (hK : Keeps z s) : Keeps z (State.wdogReload s k) := by
  unfold State.wdogReload; with_reducible repeat' (first | assumption | apply State.setWdog_keeps | fail_if_no_progress refine Keeps.of_mk ?_)

theorem State.wdogBite_keeps {z s : State} (k : Nat) (hK : Keeps z s) : Keeps z (State.wdogBite s k) := by
  unfold State.wdogBite; with_reducible repeat' (first | assumption | apply State.set1_keeps | apply State.raise_keeps | apply State.wdogReload_keeps | fail_if_no_progress refine Keeps.of_mk ?_)

theorem State.wdogKick_keeps {z s : State} (k : Nat) (key : Word) (m : Master) (hK : Keeps z s) : Keeps z (State.wdogKick s k key m) := by
  unfold State.wdogKick; with_reducible repeat' (first | assumption | apply Keeps.ite | split | apply State.ignoreWrite_keeps | apply State.wdogBite_keeps | apply State.wdogReload_keeps | fail_if_no_progress refine Keeps.of_mk ?_)

theorem execWdogKick_keeps {z s : State} (t : Nat) (k : Nat) (key : Word) (m : Master) (hK : Keeps z s) : KeepsR z (execWdogKick t k key m s) := by
  unfold execWdogKick; with_reducible repeat' (first | assumption | refine KeepsR.of_next ?_ | apply State.at_keeps | apply State.wdogKick_keeps | fail_if_no_progress refine Keeps.of_mk ?_)

theorem execWatchdogBite_keeps {z s : State} (t : Nat) (k : Nat) (hK : Keeps z s) : KeepsR z (execWatchdogBite t k s) := by
  unfold execWatchdogBite; with_reducible repeat' (first | assumption | refine KeepsR.of_next ?_ | (extract_lets +implicits +onlyGivenNames x; first | (refine Keeps.named (z := z) (x := x) ?_ fun hx => ?_; (on_goal 1 => dsimp -zeta only [x]; clear x); (on_goal 2 => clear_value x)) | clear_value x) | apply Keeps.ite | split | apply State.at_keeps | apply State.wdogBite_keeps | fail_if_no_progress refine Keeps.of_mk ?_)

theorem execWatchdogHaltExpire_keeps {z s : State} (t : Nat) (k : Nat) (hK : Keeps z s) : KeepsR z (execWatchdogHaltExpire t k s) := by
  unfold execWatchdogHaltExpire; with_reducible repeat' (first | assumption | refine KeepsR.of_next ?_ | (extract_lets +implicits +onlyGivenNames x; first | (refine Keeps.named (z := z) (x := x) ?_ fun hx => ?_; (on_goal 1 => dsimp -zeta only [x]; clear x); (on_goal 2 => clear_value x)) | clear_value x) | apply Keeps.ite | split | apply State.at_keeps | apply State.set1_keeps | apply State.setWdog_keeps | fail_if_no_progress refine Keeps.of_mk ?_)

end Sys2Proof.Machine
end

