-- ==== Sys2Proof/Laws/KeepsClock.lean ====
section
/-! SUPPORT. What the functions of Clock keep (see Keeps). -/

set_option linter.all false

namespace Sys2Proof.Machine

theorem execPowerUp_keeps {z s : State} (t : Nat) (hK : Keeps z s) : KeepsR z (execPowerUp t s) := by
  unfold execPowerUp; with_reducible repeat' (first | assumption | refine KeepsR.of_next ?_ | apply State.at_keeps | apply State.deviceReset_keeps | fail_if_no_progress refine Keeps.of_mk ?_)

theorem execPorstAssert_keeps {z s : State} (t : Nat) (hK : Keeps z s) : KeepsR z (execPorstAssert t s) := by
  unfold execPorstAssert; with_reducible repeat' (first | assumption | refine KeepsR.of_next ?_ | apply State.at_keeps | apply State.deviceReset_keeps | fail_if_no_progress refine Keeps.of_mk ?_)

theorem execRailOutOfRange_keeps {z s : State} (t : Nat) (lost : Bool) (hK : Keeps z s) : KeepsR z (execRailOutOfRange t lost s) := by
  unfold execRailOutOfRange; with_reducible repeat' (first | assumption | refine KeepsR.of_next ?_ | (extract_lets +implicits +onlyGivenNames x; first | (refine Keeps.named (z := z) (x := x) ?_ fun hx => ?_; (on_goal 1 => dsimp -zeta only [x]; clear x); (on_goal 2 => clear_value x)) | clear_value x) | apply Keeps.ite | split | apply State.at_keeps | apply State.afterReset_keeps | apply State.deviceReset_keeps | fail_if_no_progress refine Keeps.of_mk ?_)

theorem State.bistResult_keeps {z s : State} (fails : List (Nat × Nat)) (ms : Nat) (hK : Keeps z s) : Keeps z (State.bistResult s fails ms) := by
  unfold State.bistResult; with_reducible repeat' (first | assumption | intro x y hx | (extract_lets +implicits +onlyGivenNames x; first | (refine Keeps.named (z := z) (x := x) ?_ fun hx => ?_; (on_goal 1 => dsimp -zeta only [x]; clear x); (on_goal 2 => clear_value x)) | (refine Keeps.named_snd (z := z) (x := x) ?_ fun hx => ?_; (on_goal 1 => dsimp -zeta only [x]; clear x); (on_goal 2 => clear_value x)) | (refine Keeps.named_fst (z := z) (x := x) ?_ fun hx => ?_; (on_goal 1 => dsimp -zeta only [x]; clear x); (on_goal 2 => clear_value x)) | clear_value x) | apply Keeps.ite | split | apply State.wr_keeps | apply State.set1_keeps | apply State.raise_keeps | apply Keeps.foldl | apply Keeps.foldl_snd | apply Keeps.foldl_snd2 | apply Keeps.foldl_fst | fail_if_no_progress refine Keeps.of_mk ?_ | refine Keeps.of_pair (by assumption) ?_ | refine Keeps.of_pair_fst (by assumption) ?_)

theorem State.fullProof_keeps {z s : State} (fails : List (Nat × Nat)) (ms : Nat) (hK : Keeps z s) :
    Keeps z (State.fullProof s fails ms) := by
  unfold State.fullProof
  extract_lets a b c
  have hb : Keeps z b := hK.of_memEmpty rfl rfl rfl
  clear_value b
  with_reducible repeat' (first | assumption | (extract_lets +implicits +onlyGivenNames x; first | (refine Keeps.named (z := z) (x := x) ?_ fun hx => ?_; (on_goal 1 => dsimp -zeta only [x]; clear x); (on_goal 2 => clear_value x)) | (refine Keeps.hub x ?_; subst x) | clear_value x) | assumption | apply State.bistResult_keeps | fail_if_no_progress refine Keeps.of_mk ?_)

theorem execResetRelease_keeps {z s : State} (t : Nat) (balls : Nat) (twin : Nat) (fails : List (Nat × Nat)) (ms : Nat) (hK : Keeps z s) : KeepsR z (execResetRelease t balls twin fails ms s) := by
  unfold execResetRelease; with_reducible repeat' (first | assumption | refine KeepsR.of_next ?_ | (extract_lets +implicits +onlyGivenNames x; first | (refine Keeps.named (z := z) (x := x) ?_ fun hx => ?_; (on_goal 1 => dsimp -zeta only [x]; clear x); (on_goal 2 => clear_value x)) | (refine Keeps.sec x ?_; subst x) | clear_value x) | apply Keeps.ite | split | apply State.at_keeps | apply State.wr_keeps | apply State.fullProof_keeps | apply State.set1_keeps | fail_if_no_progress refine Keeps.of_mk ?_)

theorem execBistComplete_keeps {z s : State} (t : Nat) (fails : List (Nat × Nat)) (ms : Nat) (hK : Keeps z s) : KeepsR z (execBistComplete t fails ms s) := by
  unfold execBistComplete; with_reducible repeat' (first | assumption | refine KeepsR.of_next ?_ | (extract_lets +implicits +onlyGivenNames x; first | (refine Keeps.named (z := z) (x := x) ?_ fun hx => ?_; (on_goal 1 => dsimp -zeta only [x]; clear x); (on_goal 2 => clear_value x)) | clear_value x) | apply Keeps.ite | split | apply State.at_keeps | apply State.wr_keeps | apply State.bistResult_keeps | apply State.judgeEligible_keeps | fail_if_no_progress refine Keeps.of_mk ?_)

theorem execPllLock_keeps {z s : State} (t : Nat) (hK : Keeps z s) : KeepsR z (execPllLock t s) := by
  unfold execPllLock; with_reducible repeat' (first | assumption | refine KeepsR.of_next ?_ | (extract_lets +implicits +onlyGivenNames x; first | (refine Keeps.named (z := z) (x := x) ?_ fun hx => ?_; (on_goal 1 => dsimp -zeta only [x]; clear x); (on_goal 2 => clear_value x)) | clear_value x) | apply Keeps.ite | split | apply State.at_keeps | apply State.set1_keeps | apply State.wr_keeps | fail_if_no_progress refine Keeps.of_mk ?_)

theorem execPllLoss_keeps {z s : State} (t : Nat) (reference : Bool) (hK : Keeps z s) : KeepsR z (execPllLoss t reference s) := by
  unfold execPllLoss; with_reducible repeat' (first | assumption | refine KeepsR.of_next ?_ | (extract_lets +implicits +onlyGivenNames x; first | (refine Keeps.named (z := z) (x := x) ?_ fun hx => ?_; (on_goal 1 => dsimp -zeta only [x]; clear x); (on_goal 2 => clear_value x)) | clear_value x) | apply Keeps.ite | split | apply State.at_keeps | apply State.raise_keeps | apply State.wr_keeps | fail_if_no_progress refine Keeps.of_mk ?_)

theorem State.powerRequest_keeps {z s : State} (v : Nat) (hK : Keeps z s) : Keeps z (State.powerRequest s v) := by
  unfold State.powerRequest; with_reducible repeat' (first | assumption | (extract_lets +implicits +onlyGivenNames x; first | (refine Keeps.named (z := z) (x := x) ?_ fun hx => ?_; (on_goal 1 => dsimp -zeta only [x]; clear x); (on_goal 2 => clear_value x)) | clear_value x) | apply Keeps.ite | split | apply State.ignoreWrite_keeps | apply State.wr_keeps | fail_if_no_progress refine Keeps.of_mk ?_)

theorem execPowerRequest_keeps {z s : State} (t : Nat) (v : Nat) (hK : Keeps z s) : KeepsR z (execPowerRequest t v s) := by
  unfold execPowerRequest; with_reducible repeat' (first | assumption | refine KeepsR.of_next ?_ | apply State.at_keeps | apply State.powerRequest_keeps | fail_if_no_progress refine Keeps.of_mk ?_)

theorem State.setPower_keeps {z s : State} (p : Nat) (hK : Keeps z s) : Keeps z (State.setPower s p) := by
  unfold State.setPower; with_reducible repeat' (first | assumption | apply State.wr_keeps | fail_if_no_progress refine Keeps.of_mk ?_)

theorem State.parkHandOver_keeps {z s : State} (hK : Keeps z s) : Keeps z (State.parkHandOver s) := by
  unfold State.parkHandOver; with_reducible repeat' (first | assumption | intro x y hx | (extract_lets +implicits +onlyGivenNames x; first | (refine Keeps.named (z := z) (x := x) ?_ fun hx => ?_; (on_goal 1 => dsimp -zeta only [x]; clear x); (on_goal 2 => clear_value x)) | (refine Keeps.named_snd (z := z) (x := x) ?_ fun hx => ?_; (on_goal 1 => dsimp -zeta only [x]; clear x); (on_goal 2 => clear_value x)) | (refine Keeps.named_fst (z := z) (x := x) ?_ fun hx => ?_; (on_goal 1 => dsimp -zeta only [x]; clear x); (on_goal 2 => clear_value x)) | clear_value x) | apply Keeps.ite | split | apply State.holdTakeover_keeps | apply State.wr_keeps | apply State.setPel_keeps | apply Keeps.foldl | apply Keeps.foldl_snd | apply Keeps.foldl_snd2 | apply Keeps.foldl_fst | fail_if_no_progress refine Keeps.of_mk ?_)

theorem State.parkHeads_keeps {z s : State} (hK : Keeps z s) : Keeps z (State.parkHeads s) := by
  unfold State.parkHeads; with_reducible repeat' (first | assumption | intro x y hx | (extract_lets +implicits +onlyGivenNames x; first | (refine Keeps.named (z := z) (x := x) ?_ fun hx => ?_; (on_goal 1 => dsimp -zeta only [x]; clear x); (on_goal 2 => clear_value x)) | (refine Keeps.named_snd (z := z) (x := x) ?_ fun hx => ?_; (on_goal 1 => dsimp -zeta only [x]; clear x); (on_goal 2 => clear_value x)) | (refine Keeps.named_fst (z := z) (x := x) ?_ fun hx => ?_; (on_goal 1 => dsimp -zeta only [x]; clear x); (on_goal 2 => clear_value x)) | clear_value x) | apply Keeps.ite | split | apply State.modHead_keeps | apply Keeps.foldl | apply Keeps.foldl_snd | apply Keeps.foldl_snd2 | apply Keeps.foldl_fst | fail_if_no_progress refine Keeps.of_mk ?_)

theorem State.parkCores_keeps {z s : State} (hK : Keeps z s) : Keeps z (State.parkCores s) := by
  unfold State.parkCores; with_reducible repeat' (first | assumption | intro x y hx | (extract_lets +implicits +onlyGivenNames x; first | (refine Keeps.named (z := z) (x := x) ?_ fun hx => ?_; (on_goal 1 => dsimp -zeta only [x]; clear x); (on_goal 2 => clear_value x)) | (refine Keeps.named_snd (z := z) (x := x) ?_ fun hx => ?_; (on_goal 1 => dsimp -zeta only [x]; clear x); (on_goal 2 => clear_value x)) | (refine Keeps.named_fst (z := z) (x := x) ?_ fun hx => ?_; (on_goal 1 => dsimp -zeta only [x]; clear x); (on_goal 2 => clear_value x)) | clear_value x) | apply Keeps.ite | split | apply Keeps.foldl | apply Keeps.foldl_snd | apply Keeps.foldl_snd2 | apply Keeps.foldl_fst | fail_if_no_progress refine Keeps.of_mk ?_)

theorem State.parkRecords_keeps {z s : State} (hK : Keeps z s) : Keeps z (State.parkRecords s) := by
  unfold State.parkRecords; with_reducible repeat' (first | assumption | intro x y hx | (extract_lets +implicits +onlyGivenNames x; first | (refine Keeps.named (z := z) (x := x) ?_ fun hx => ?_; (on_goal 1 => dsimp -zeta only [x]; clear x); (on_goal 2 => clear_value x)) | (refine Keeps.named_snd (z := z) (x := x) ?_ fun hx => ?_; (on_goal 1 => dsimp -zeta only [x]; clear x); (on_goal 2 => clear_value x)) | (refine Keeps.named_fst (z := z) (x := x) ?_ fun hx => ?_; (on_goal 1 => dsimp -zeta only [x]; clear x); (on_goal 2 => clear_value x)) | clear_value x) | apply Keeps.ite | split | apply State.modHead_keeps | apply Keeps.foldl | apply Keeps.foldl_snd | apply Keeps.foldl_snd2 | apply Keeps.foldl_fst | fail_if_no_progress refine Keeps.of_mk ?_)

theorem State.parkStop_keeps {z s : State} (hK : Keeps z s) : Keeps z (State.parkStop s) := by
  have ha := State.wr_keeps F.CPR_STATUS.park_step 0 (State.wr_keeps F.CPR_STATUS.pll_locked 0 (State.set1_keeps F.CPR_STATUS.serdes_off hK))
  have hb := ha.of_eq (b := { ((s.set1 F.CPR_STATUS.serdes_off).wr F.CPR_STATUS.pll_locked 0).wr F.CPR_STATUS.park_step 0 with
    tandem.heartbeat := false, clock.powerReq := none }) rfl rfl rfl rfl rfl rfl rfl rfl
  have hc := State.parkRecords_keeps hb
  exact State.setPower_keeps _ (State.holdover_keeps (Keeps.ite hc (State.setTandem_keeps _ _ hc)))

theorem State.abandonPark_keeps {z s : State} (hK : Keeps z s) : Keeps z (State.abandonPark s) := by
  unfold State.abandonPark; with_reducible repeat' (first | assumption | (extract_lets +implicits +onlyGivenNames x; first | (refine Keeps.named (z := z) (x := x) ?_ fun hx => ?_; (on_goal 1 => dsimp -zeta only [x]; clear x); (on_goal 2 => clear_value x)) | clear_value x) | apply State.wr_keeps | fail_if_no_progress refine Keeps.of_mk ?_)

theorem State.parkStep_keeps {z s : State} (k : Nat) (f : State → State) (hf : ∀ s , Keeps z s → Keeps z (f s )) (hK : Keeps z s) : Keeps z (State.parkStep s k f) := by
  unfold State.parkStep; with_reducible repeat' (first | assumption | apply State.wr_keeps | fail_if_no_progress refine Keeps.of_mk ?_ | apply hf)

theorem execParkSequence_keeps {z s : State} (t : Nat) (frame : Bool) (hK : Keeps z s) : KeepsR z (execParkSequence t frame s) := by
  unfold execParkSequence; with_reducible repeat' (first | assumption | refine KeepsR.of_next ?_ | intro x hx | (extract_lets +implicits +onlyGivenNames x; first | (refine Keeps.named (z := z) (x := x) ?_ fun hx => ?_; (on_goal 1 => dsimp -zeta only [x]; clear x); (on_goal 2 => clear_value x)) | clear_value x) | apply Keeps.ite | split | apply State.at_keeps | apply State.abandonPark_keeps | apply State.parkStep_keeps | apply State.parkHandOver_keeps | apply State.parkHeads_keeps | apply State.parkCores_keeps | apply State.parkStop_keeps | fail_if_no_progress refine Keeps.of_mk ?_ | refine Keeps.of_pair (by assumption) ?_ | refine Keeps.of_pair_fst (by assumption) ?_)

theorem State.wakeUp_keeps {z s : State} (id : Nat) (hK : Keeps z s) : Keeps z (State.wakeUp s id) := by
  unfold State.wakeUp; with_reducible repeat' (first | assumption | (extract_lets +implicits +onlyGivenNames x; first | (refine Keeps.named (z := z) (x := x) ?_ fun hx => ?_; (on_goal 1 => dsimp -zeta only [x]; clear x); (on_goal 2 => clear_value x)) | clear_value x) | apply Keeps.ite | split | apply State.set1_keeps | apply State.wr_keeps | fail_if_no_progress refine Keeps.of_mk ?_)

theorem execWake_keeps {z s : State} (t : Nat) (id : Nat) (hK : Keeps z s) : KeepsR z (execWake t id s) := by
  unfold execWake; with_reducible repeat' (first | assumption | refine KeepsR.of_next ?_ | apply State.at_keeps | apply State.wakeUp_keeps | fail_if_no_progress refine Keeps.of_mk ?_)

theorem State.follow_keeps {z s : State} (i : Nat) (high : Bool) (low : Bool) (hK : Keeps z s) : Keeps z (State.follow s i high low) := by
  unfold State.follow; with_reducible repeat' (first | assumption | apply Keeps.ite | split | apply State.raise_keeps | apply State.clearFault_keeps | fail_if_no_progress refine Keeps.of_mk ?_)

theorem State.sensor_keeps {z s : State} (i : Nat) (r : Option Int) (hK : Keeps z s) : Keeps z (State.sensor s i r) := by
  unfold State.sensor; with_reducible repeat' (first | assumption | (extract_lets +implicits +onlyGivenNames x; first | (refine Keeps.named (z := z) (x := x) ?_ fun hx => ?_; (on_goal 1 => dsimp -zeta only [x]; clear x); (on_goal 2 => clear_value x)) | clear_value x) | apply Keeps.ite | split | apply State.wr_keeps | apply State.set1_keeps | apply State.follow_keeps | apply State.peak_keeps | fail_if_no_progress refine Keeps.of_mk ?_ | refine Keeps.of_pair (by assumption) ?_ | refine Keeps.of_pair_fst (by assumption) ?_)

theorem execSensorRead_keeps {z s : State} (t : Nat) (rs : List (Option Int)) (hK : Keeps z s) : KeepsR z (execSensorRead t rs s) := by
  unfold execSensorRead; with_reducible repeat' (first | assumption | refine KeepsR.of_next ?_ | intro x y hx | (extract_lets +implicits +onlyGivenNames x; first | (refine Keeps.named (z := z) (x := x) ?_ fun hx => ?_; (on_goal 1 => dsimp -zeta only [x]; clear x); (on_goal 2 => clear_value x)) | (refine Keeps.named_snd (z := z) (x := x) ?_ fun hx => ?_; (on_goal 1 => dsimp -zeta only [x]; clear x); (on_goal 2 => clear_value x)) | (refine Keeps.named_fst (z := z) (x := x) ?_ fun hx => ?_; (on_goal 1 => dsimp -zeta only [x]; clear x); (on_goal 2 => clear_value x)) | clear_value x) | split | apply State.at_keeps | apply State.sensor_keeps | apply State.follow_keeps | apply Keeps.foldl | apply Keeps.foldl_snd | apply Keeps.foldl_snd2 | apply Keeps.foldl_fst | fail_if_no_progress refine Keeps.of_mk ?_)

theorem execAgeingMeasure_keeps {z s : State} (t : Nat) (margins : List Nat) (hourly : Bool) (hK : Keeps z s) : KeepsR z (execAgeingMeasure t margins hourly s) := by
  unfold execAgeingMeasure; with_reducible repeat' (first | assumption | refine KeepsR.of_next ?_ | intro x y hx | (extract_lets +implicits +onlyGivenNames x; first | (refine Keeps.named (z := z) (x := x) ?_ fun hx => ?_; (on_goal 1 => dsimp -zeta only [x]; clear x); (on_goal 2 => clear_value x)) | (refine Keeps.named_snd (z := z) (x := x) ?_ fun hx => ?_; (on_goal 1 => dsimp -zeta only [x]; clear x); (on_goal 2 => clear_value x)) | (refine Keeps.named_fst (z := z) (x := x) ?_ fun hx => ?_; (on_goal 1 => dsimp -zeta only [x]; clear x); (on_goal 2 => clear_value x)) | clear_value x) | apply Keeps.ite | split | apply State.at_keeps | apply State.wr_keeps | apply State.follow_keeps | apply Keeps.foldl | apply Keeps.foldl_snd | apply Keeps.foldl_snd2 | apply Keeps.foldl_fst | fail_if_no_progress refine Keeps.of_mk ?_)

end Sys2Proof.Machine
end

