-- ==== Sys2Proof/Laws/KeepsDebugOps.lean ====
section
/-! SUPPORT. What the functions of DebugOps keep (see Keeps). -/

set_option linter.all false

namespace Sys2Proof.Machine

theorem State.setHaltReq_keeps {z s : State} (k : Nat) (r : Option HaltReq) (hK : Keeps z s) : Keeps z (State.setHaltReq s k r) := by
  unfold State.setHaltReq; with_reducible repeat' (first | assumption | (extract_lets +implicits +onlyGivenNames x; first | (refine Keeps.named (z := z) (x := x) ?_ fun hx => ?_; (on_goal 1 => dsimp -zeta only [x]; clear x); (on_goal 2 => clear_value x)) | clear_value x) | split | fail_if_no_progress refine Keeps.of_mk ?_)

theorem State.askHalt_keeps {z s : State} (k : Nat) (r : HaltReq) (hK : Keeps z s) : Keeps z (State.askHalt s k r) := by
  unfold State.askHalt; with_reducible repeat' (first | assumption | (extract_lets +implicits +onlyGivenNames x; first | (refine Keeps.named (z := z) (x := x) ?_ fun hx => ?_; (on_goal 1 => dsimp -zeta only [x]; clear x); (on_goal 2 => clear_value x)) | clear_value x) | apply Keeps.ite | split | apply State.setHaltReq_keeps | fail_if_no_progress refine Keeps.of_mk ?_ | refine Keeps.of_pair (by assumption) ?_ | refine Keeps.of_pair_fst (by assumption) ?_)

theorem State.resumeCore_keeps {z s : State} (k : Nat) (hK : Keeps z s) : Keeps z (State.resumeCore s k) := by
  unfold State.resumeCore; with_reducible repeat' (first | assumption | (extract_lets +implicits +onlyGivenNames x; first | (refine Keeps.named (z := z) (x := x) ?_ fun hx => ?_; (on_goal 1 => dsimp -zeta only [x]; clear x); (on_goal 2 => clear_value x)) | clear_value x) | apply Keeps.ite | split | apply State.wr_keeps | apply State.modCore_keeps | apply State.wdogReload_keeps | fail_if_no_progress refine Keeps.of_mk ?_)

theorem State.closeDebug_keeps {z s : State} (hK : Keeps z s) : Keeps z (State.closeDebug s) := by
  unfold State.closeDebug; with_reducible repeat' (first | assumption | intro x y hx | (extract_lets +implicits +onlyGivenNames x; first | (refine Keeps.named (z := z) (x := x) ?_ fun hx => ?_; (on_goal 1 => dsimp -zeta only [x]; clear x); (on_goal 2 => clear_value x)) | (refine Keeps.named_snd (z := z) (x := x) ?_ fun hx => ?_; (on_goal 1 => dsimp -zeta only [x]; clear x); (on_goal 2 => clear_value x)) | (refine Keeps.named_fst (z := z) (x := x) ?_ fun hx => ?_; (on_goal 1 => dsimp -zeta only [x]; clear x); (on_goal 2 => clear_value x)) | clear_value x) | apply Keeps.ite | split | apply State.wr_keeps | apply State.resumeCore_keeps | apply Keeps.foldl | apply Keeps.foldl_snd | apply Keeps.foldl_snd2 | apply Keeps.foldl_fst | fail_if_no_progress refine Keeps.of_mk ?_)

theorem State.debugRecheck_keeps {z s : State} (hK : Keeps z s) : Keeps z (State.debugRecheck s) := by
  unfold State.debugRecheck; with_reducible repeat' (first | assumption | apply Keeps.ite | split | apply State.closeDebug_keeps | fail_if_no_progress refine Keeps.of_mk ?_)

theorem State.securityChanged_keeps {z s : State} (hK : Keeps z s) : Keeps z (State.securityChanged s) := by
  unfold State.securityChanged; with_reducible repeat' (first | assumption | apply State.closeAll_keeps | apply State.closeDebug_keeps | fail_if_no_progress refine Keeps.of_mk ?_)

end Sys2Proof.Machine
end

