-- ==== Sys2Proof/Laws/KeepsSecurity.lean ====
section
/-! SUPPORT. What the functions of Security keep (see Keeps). -/

set_option linter.all false

namespace Sys2Proof.Machine

theorem State.completeWrite_keeps {z s : State} (hK : Keeps z s) : Keeps z (State.completeWrite s) :=
  hK.of_otp rfl rfl rfl rfl (fun _ => id) (fun _ => bit_foldl_setBit) id (Nat.le_refl _)

theorem State.checkGens_keeps {z s : State} (hK : Keeps z s) : Keeps z (State.checkGens s) := by
  unfold State.checkGens; with_reducible repeat' (first | assumption | (extract_lets +implicits +onlyGivenNames x; first | (refine Keeps.named (z := z) (x := x) ?_ fun hx => ?_; (on_goal 1 => dsimp -zeta only [x]; clear x); (on_goal 2 => clear_value x)) | (refine Keeps.sec x ?_; subst x) | clear_value x) | apply Keeps.ite | split | apply State.raise_keeps | apply State.secRefresh_keeps | fail_if_no_progress refine Keeps.of_mk ?_)

theorem State.calStore_keeps {z s : State} (r : CalRecord) (hK : Keeps z s) : Keeps z (State.calStore s r) := by
  unfold State.calStore; with_reducible repeat' (first | assumption | (extract_lets +implicits +onlyGivenNames x; first | (refine Keeps.named (z := z) (x := x) ?_ fun hx => ?_; (on_goal 1 => dsimp -zeta only [x]; clear x); (on_goal 2 => clear_value x)) | (refine Keeps.sec x ?_; subst x) | clear_value x) | apply Keeps.ite | split | fail_if_no_progress refine Keeps.of_mk ?_)

theorem State.calApply_keeps {z s : State} (hK : Keeps z s) : Keeps z (State.calApply s) := by
  unfold State.calApply; with_reducible repeat' (first | assumption | (extract_lets +implicits +onlyGivenNames x; first | (refine Keeps.named (z := z) (x := x) ?_ fun hx => ?_; (on_goal 1 => dsimp -zeta only [x]; clear x); (on_goal 2 => clear_value x)) | (refine Keeps.sec x ?_; subst x) | clear_value x) | fail_if_no_progress refine Keeps.of_mk ?_)

theorem State.bootTry_keeps {z s : State} (k : Nat) (hK : Keeps z s) : Keeps z (State.bootTry s k) := by
  unfold State.bootTry; with_reducible repeat' (first | assumption | (extract_lets +implicits +onlyGivenNames x; first | (refine Keeps.named (z := z) (x := x) ?_ fun hx => ?_; (on_goal 1 => dsimp -zeta only [x]; clear x); (on_goal 2 => clear_value x)) | (refine Keeps.sec x ?_; subst x) | clear_value x) | apply Keeps.ite | split | fail_if_no_progress refine Keeps.of_mk ?_)

theorem State.bootNext_keeps {z s : State} (hK : Keeps z s) : Keeps z (State.bootNext s) := by
  unfold State.bootNext; with_reducible repeat' (first | assumption | (extract_lets +implicits +onlyGivenNames x; first | (refine Keeps.named (z := z) (x := x) ?_ fun hx => ?_; (on_goal 1 => dsimp -zeta only [x]; clear x); (on_goal 2 => clear_value x)) | (refine Keeps.sec x ?_; subst x) | clear_value x) | apply Keeps.ite | split | apply State.bootTry_keeps | apply State.wr_keeps | fail_if_no_progress refine Keeps.of_mk ?_ | refine Keeps.of_pair (by assumption) ?_ | refine Keeps.of_pair_fst (by assumption) ?_)

theorem execBootStart_keeps {z s : State} (t : Nat) (wraps : List (Option (List Byte))) (hK : Keeps z s) : KeepsR z (execBootStart t wraps s) := by
  unfold execBootStart; with_reducible repeat' (first | assumption | refine KeepsR.of_next ?_ | (extract_lets +implicits +onlyGivenNames x; first | (refine Keeps.named (z := z) (x := x) ?_ fun hx => ?_; (on_goal 1 => dsimp -zeta only [x]; clear x); (on_goal 2 => clear_value x)) | (refine Keeps.sec x ?_; subst x) | clear_value x) | apply Keeps.ite | split | apply State.at_keeps | apply State.completeWrite_keeps | apply State.checkGens_keeps | apply State.calApply_keeps | apply State.wr_keeps | apply State.bootNext_keeps | fail_if_no_progress refine Keeps.of_mk ?_)

theorem State.bootStage_keeps {z s : State} (image : List Word) (hK : Keeps z s) : Keeps z (State.bootStage s image) := by
  unfold State.bootStage; with_reducible repeat' (first | assumption | (extract_lets +implicits +onlyGivenNames x; first | (refine Keeps.named (z := z) (x := x) ?_ fun hx => ?_; (on_goal 1 => dsimp -zeta only [x]; clear x); (on_goal 2 => clear_value x)) | (refine Keeps.sec x ?_; subst x) | clear_value x) | apply Keeps.ite | split | apply State.clearStaging_keeps | apply State.wr_keeps | apply State.setGsState_keeps | fail_if_no_progress refine Keeps.of_mk ?_)

theorem execBootImageDelivered_keeps {z s : State} (t : Nat) (image : List Word) (key : Option (List Byte)) (hK : Keeps z s) : KeepsR z (execBootImageDelivered t image key s) := by
  unfold execBootImageDelivered; with_reducible repeat' (first | assumption | refine KeepsR.of_next ?_ | (extract_lets +implicits +onlyGivenNames x; first | (refine Keeps.named (z := z) (x := x) ?_ fun hx => ?_; (on_goal 1 => dsimp -zeta only [x]; clear x); (on_goal 2 => clear_value x)) | (refine Keeps.sec x ?_; subst x) | clear_value x) | apply Keeps.ite | split | apply State.at_keeps | apply State.bootStage_keeps | apply State.gsCheck_keeps | fail_if_no_progress refine Keeps.of_mk ?_)

theorem State.bootFail_keeps {z s : State} (reason : Nat) (hK : Keeps z s) : Keeps z (State.bootFail s reason) := by
  unfold State.bootFail; with_reducible repeat' (first | assumption | (extract_lets +implicits +onlyGivenNames x; first | (refine Keeps.named (z := z) (x := x) ?_ fun hx => ?_; (on_goal 1 => dsimp -zeta only [x]; clear x); (on_goal 2 => clear_value x)) | (refine Keeps.sec x ?_; subst x) | clear_value x) | split | apply State.wr_keeps | apply State.raise_keeps | apply State.bootNext_keeps | fail_if_no_progress refine Keeps.of_mk ?_ | refine Keeps.of_pair (by assumption) ?_ | refine Keeps.of_pair_fst (by assumption) ?_)

theorem execBootSourceFail_keeps {z s : State} (t : Nat) (unreadable : Bool) (hK : Keeps z s) : KeepsR z (execBootSourceFail t unreadable s) := by
  unfold execBootSourceFail; with_reducible repeat' (first | assumption | refine KeepsR.of_next ?_ | (extract_lets +implicits +onlyGivenNames x; first | (refine Keeps.named (z := z) (x := x) ?_ fun hx => ?_; (on_goal 1 => dsimp -zeta only [x]; clear x); (on_goal 2 => clear_value x)) | (refine Keeps.sec x ?_; subst x) | clear_value x) | apply Keeps.ite | split | apply State.at_keeps | apply State.bootFail_keeps | fail_if_no_progress refine Keeps.of_mk ?_)

theorem execNetworkBootTimeout_keeps {z s : State} (t : Nat) (hK : Keeps z s) : KeepsR z (execNetworkBootTimeout t s) := by
  unfold execNetworkBootTimeout; with_reducible repeat' (first | assumption | refine KeepsR.of_next ?_ | (extract_lets +implicits +onlyGivenNames x; first | (refine Keeps.named (z := z) (x := x) ?_ fun hx => ?_; (on_goal 1 => dsimp -zeta only [x]; clear x); (on_goal 2 => clear_value x)) | (refine Keeps.sec x ?_; subst x) | clear_value x) | apply Keeps.ite | split | apply State.at_keeps | apply State.bootFail_keeps | fail_if_no_progress refine Keeps.of_mk ?_)

theorem State.progEnd_keeps {z s : State} (last : Nat) (hK : Keeps z s) : Keeps z (State.progEnd s last) := by
  unfold State.progEnd; with_reducible repeat' (first | assumption | (extract_lets +implicits +onlyGivenNames x; first | (refine Keeps.named (z := z) (x := x) ?_ fun hx => ?_; (on_goal 1 => dsimp -zeta only [x]; clear x); (on_goal 2 => clear_value x)) | (refine Keeps.sec x ?_; subst x) | clear_value x) | apply State.wr_keeps | apply State.set1_keeps | fail_if_no_progress refine Keeps.of_mk ?_)

theorem State.genProgrammed_keeps {z s : State} (g : Nat) (bytes : List Byte) (c : VtkCmd) (hK : Keeps z s) :
    Keeps z (State.genProgrammed s g bytes c) := by
  have ho : ∀ t o, Keeps z t → Keeps z { t with sec.retired := setBit t.sec.retired o true } := fun t o h =>
    h.of_otp rfl rfl rfl rfl (fun _ => id) (fun _ => bit_setBit_true) id (Nat.le_refl _)
  unfold State.genProgrammed
  with_reducible repeat' (first | assumption | (extract_lets +implicits +onlyGivenNames x; first | (refine Keeps.named (z := z) (x := x) ?_ fun hx => ?_; (on_goal 1 => dsimp -zeta only [x]; clear x); (on_goal 2 => clear_value x)) | (refine Keeps.sec x ?_; subst x) | clear_value x) | split | apply ho | apply State.progEnd_keeps | apply State.secRefresh_keeps | fail_if_no_progress refine Keeps.of_mk ?_ | refine Keeps.of_pair (by assumption) ?_ | refine Keeps.of_pair_fst (by assumption) ?_)

theorem State.progFailed_keeps {z s : State} (c : VtkCmd) (hK : Keeps z s) : Keeps z (State.progFailed s c) := by
  unfold State.progFailed; with_reducible repeat' (first | assumption | apply State.progEnd_keeps | apply State.secRefresh_keeps | apply State.raise_keeps | apply State.vtkFinish_keeps | fail_if_no_progress refine Keeps.of_mk ?_)

theorem execOtpProgramComplete_keeps {z s : State} (t : Nat) (ok : Bool) (hK : Keeps z s) :
    KeepsR z (execOtpProgramComplete t ok s) := by
  have hl : ∀ t, Keeps z t → Keeps z { t with sec.lock := true } := fun t h =>
    h.of_otp rfl rfl rfl rfl (fun _ => id) (fun _ => id) (fun _ => rfl) (Nat.le_refl _)
  have hr : ∀ t n, Keeps z t → Keeps z { t with sec.rollback := max t.sec.rollback n } := fun t n h =>
    h.of_otp rfl rfl rfl rfl (fun _ => id) (fun _ => id) id (Nat.le_max_left _ _)
  unfold execOtpProgramComplete
  with_reducible repeat' (first | assumption | refine KeepsR.of_next ?_ | (extract_lets +implicits +onlyGivenNames x; first | (refine Keeps.named (z := z) (x := x) ?_ fun hx => ?_; (on_goal 1 => dsimp -zeta only [x]; clear x); (on_goal 2 => clear_value x)) | (refine Keeps.sec x ?_; subst x) | clear_value x) | apply Keeps.ite | split | apply hl | apply hr | apply State.at_keeps | apply State.progFailed_keeps | apply State.genProgrammed_keeps | apply State.progEnd_keeps | apply State.securityChanged_keeps | apply State.secRefresh_keeps | apply State.vtkFinish_keeps | fail_if_no_progress refine Keeps.of_mk ?_ | refine Keeps.of_pair (by assumption) ?_ | refine Keeps.of_pair_fst (by assumption) ?_)

theorem execUserCalibrationWritten_keeps {z s : State} (t : Nat) (hK : Keeps z s) : KeepsR z (execUserCalibrationWritten t s) := by
  unfold execUserCalibrationWritten; with_reducible repeat' (first | assumption | refine KeepsR.of_next ?_ | (extract_lets +implicits +onlyGivenNames x; first | (refine Keeps.named (z := z) (x := x) ?_ fun hx => ?_; (on_goal 1 => dsimp -zeta only [x]; clear x); (on_goal 2 => clear_value x)) | (refine Keeps.sec x ?_; subst x) | clear_value x) | split | apply State.at_keeps | apply State.calStore_keeps | apply State.wr_keeps | apply State.vtkFinish_keeps | fail_if_no_progress refine Keeps.of_mk ?_ | refine Keeps.of_pair (by assumption) ?_ | refine Keeps.of_pair_fst (by assumption) ?_)

theorem execPeerAuth_keeps {z s : State} (t : Nat) (twin : Bool) (peerKey : List Byte) (endorsement : List Byte) (peerNonce : List Byte) (sig : List Byte) (hK : Keeps z s) : KeepsR z (execPeerAuth t twin peerKey endorsement peerNonce sig s) := by
  unfold execPeerAuth; with_reducible repeat' (first | assumption | refine KeepsR.of_next ?_ | (extract_lets +implicits +onlyGivenNames x; first | (refine Keeps.named (z := z) (x := x) ?_ fun hx => ?_; (on_goal 1 => dsimp -zeta only [x]; clear x); (on_goal 2 => clear_value x)) | (refine Keeps.named_snd (z := z) (x := x) ?_ fun hx => ?_; (on_goal 1 => dsimp -zeta only [x]; clear x); (on_goal 2 => clear_value x)) | (refine Keeps.sec x ?_; subst x) | clear_value x) | apply Keeps.ite | split | apply State.at_keeps | apply State.draw_keeps | refine Keeps.of_pair (by assumption) (State.draw_keeps ?_) | apply State.emit_keeps | apply State.raise_keeps | fail_if_no_progress refine Keeps.of_mk ?_ | refine Keeps.of_pair (by assumption) ?_ | refine Keeps.of_pair_fst (by assumption) ?_)

end Sys2Proof.Machine
end

