-- ==== Sys2Proof/Laws/KeepsChipFrame.lean ====
section
/-! SUPPORT. What the functions of ChipFrame keep (see Keeps). -/

set_option linter.all false

namespace Sys2Proof.Machine

theorem State.closeChanged_keeps {z s : State} (old : State) (hK : Keeps z s) : Keeps z (State.closeChanged old s) := by
  unfold State.closeChanged; with_reducible repeat' (first | assumption | intro x y hx | (extract_lets +implicits +onlyGivenNames x; first | (refine Keeps.named (z := z) (x := x) ?_ fun hx => ?_; (on_goal 1 => dsimp -zeta only [x]; clear x); (on_goal 2 => clear_value x)) | (refine Keeps.named_snd (z := z) (x := x) ?_ fun hx => ?_; (on_goal 1 => dsimp -zeta only [x]; clear x); (on_goal 2 => clear_value x)) | (refine Keeps.named_fst (z := z) (x := x) ?_ fun hx => ?_; (on_goal 1 => dsimp -zeta only [x]; clear x); (on_goal 2 => clear_value x)) | clear_value x) | apply Keeps.ite | split | apply State.freeSession_keeps | apply State.closeDebug_keeps | apply Keeps.foldl | apply Keeps.foldl_snd | apply Keeps.foldl_snd2 | apply Keeps.foldl_fst | fail_if_no_progress refine Keeps.of_mk ?_ | refine Keeps.of_pair (by assumption) ?_ | refine Keeps.of_pair_fst (by assumption) ?_)

theorem State.generationInForce_keeps {z s : State} (hK : Keeps z s) : Keeps z (State.generationInForce s) := by
  unfold State.generationInForce; with_reducible repeat' (first | assumption | (extract_lets +implicits +onlyGivenNames x; first | (refine Keeps.named (z := z) (x := x) ?_ fun hx => ?_; (on_goal 1 => dsimp -zeta only [x]; clear x); (on_goal 2 => clear_value x)) | (refine Keeps.sec x ?_; subst x) | clear_value x) | apply Keeps.ite | split | apply State.closeChanged_keeps | apply State.secRefresh_keeps | apply State.debugRecheck_keeps | apply State.set1_keeps | apply State.vtkFinish_keeps | fail_if_no_progress refine Keeps.of_mk ?_ | refine Keeps.of_pair (by assumption) ?_ | refine Keeps.of_pair_fst (by assumption) ?_)

theorem State.calibrationAtFrame_keeps {z s : State} (hK : Keeps z s) : Keeps z (State.calibrationAtFrame s) := by
  unfold State.calibrationAtFrame; with_reducible repeat' (first | assumption | (extract_lets +implicits +onlyGivenNames x; first | (refine Keeps.named (z := z) (x := x) ?_ fun hx => ?_; (on_goal 1 => dsimp -zeta only [x]; clear x); (on_goal 2 => clear_value x)) | (refine Keeps.sec x ?_; subst x) | clear_value x) | apply Keeps.ite | split | apply State.calApply_keeps | apply State.set1_keeps | fail_if_no_progress refine Keeps.of_mk ?_)

theorem State.releaseStates_keeps {z s : State} (hK : Keeps z s) : Keeps z (State.releaseStates s) := by
  unfold State.releaseStates; with_reducible repeat' (first | assumption | intro x y hx | (extract_lets +implicits +onlyGivenNames x; first | (refine Keeps.named (z := z) (x := x) ?_ fun hx => ?_; (on_goal 1 => dsimp -zeta only [x]; clear x); (on_goal 2 => clear_value x)) | (refine Keeps.named_snd (z := z) (x := x) ?_ fun hx => ?_; (on_goal 1 => dsimp -zeta only [x]; clear x); (on_goal 2 => clear_value x)) | (refine Keeps.named_fst (z := z) (x := x) ?_ fun hx => ?_; (on_goal 1 => dsimp -zeta only [x]; clear x); (on_goal 2 => clear_value x)) | clear_value x) | split | apply State.requestHead_keeps | apply Keeps.foldl | apply Keeps.foldl_snd | apply Keeps.foldl_snd2 | apply Keeps.foldl_fst | fail_if_no_progress refine Keeps.of_mk ?_ | refine Keeps.of_pair (by assumption) ?_ | refine Keeps.of_pair_fst (by assumption) ?_)

theorem State.releasePower_keeps {z s : State} (hK : Keeps z s) : Keeps z (State.releasePower s) := by
  unfold State.releasePower; with_reducible repeat' (first | assumption | (extract_lets +implicits +onlyGivenNames x; first | (refine Keeps.named (z := z) (x := x) ?_ fun hx => ?_; (on_goal 1 => dsimp -zeta only [x]; clear x); (on_goal 2 => clear_value x)) | clear_value x) | split | fail_if_no_progress refine Keeps.of_mk ?_ | refine Keeps.of_pair (by assumption) ?_ | refine Keeps.of_pair_fst (by assumption) ?_)

theorem State.wakeEnds_keeps {z s : State} (hK : Keeps z s) : Keeps z (State.wakeEnds s) := by
  unfold State.wakeEnds; with_reducible repeat' (first | assumption | (extract_lets +implicits +onlyGivenNames x; first | (refine Keeps.named (z := z) (x := x) ?_ fun hx => ?_; (on_goal 1 => dsimp -zeta only [x]; clear x); (on_goal 2 => clear_value x)) | clear_value x) | apply State.setPower_keeps | apply State.bellWake_keeps | apply State.releaseStates_keeps | apply State.releasePower_keeps | apply State.unitsResume_keeps | fail_if_no_progress refine Keeps.of_mk ?_)

theorem State.powerAtFrame_keeps {z s : State} (hK : Keeps z s) : Keeps z (State.powerAtFrame s) := by
  unfold State.powerAtFrame; with_reducible repeat' (first | assumption | (extract_lets +implicits +onlyGivenNames x; first | (refine Keeps.named (z := z) (x := x) ?_ fun hx => ?_; (on_goal 1 => dsimp -zeta only [x]; clear x); (on_goal 2 => clear_value x)) | clear_value x) | apply Keeps.ite | split | apply State.setPower_keeps | apply State.releaseStates_keeps | apply State.releasePower_keeps | apply State.unitsResume_keeps | fail_if_no_progress refine Keeps.of_mk ?_ | refine Keeps.of_pair (by assumption) ?_ | refine Keeps.of_pair_fst (by assumption) ?_)

theorem execChipFrameStart_keeps {z s : State} (t : Nat) (n : Nat) (hK : Keeps z s) : KeepsR z (execChipFrameStart t n s) := by
  unfold execChipFrameStart; with_reducible repeat' (first | assumption | refine KeepsR.of_next ?_ | (extract_lets +implicits +onlyGivenNames x; first | (refine Keeps.named (z := z) (x := x) ?_ fun hx => ?_; (on_goal 1 => dsimp -zeta only [x]; clear x); (on_goal 2 => clear_value x)) | clear_value x) | apply Keeps.ite | split | apply State.at_keeps | apply State.wakeEnds_keeps | apply State.powerAtFrame_keeps | apply State.generationInForce_keeps | apply State.calibrationAtFrame_keeps | apply State.swapRoles_keeps | apply State.applyAtFrame_keeps | apply State.pelAtFrame_keeps | fail_if_no_progress refine Keeps.of_mk ?_)

end Sys2Proof.Machine
end

