-- ==== Sys2Proof/Laws/KeepsTimers.lean ====
section
/-! SUPPORT. What the functions of Timers keep (see Keeps). -/

set_option linter.all false

namespace Sys2Proof.Machine

theorem State.setTimer_keeps {z s : State} (ch : Nat) (x : Timer) (hK : Keeps z s) : Keeps z (State.setTimer s ch x) := by
  unfold State.setTimer; with_reducible repeat' (first | assumption | (extract_lets +implicits +onlyGivenNames x; first | (refine Keeps.named (z := z) (x := x) ?_ fun hx => ?_; (on_goal 1 => dsimp -zeta only [x]; clear x); (on_goal 2 => clear_value x)) | clear_value x) | split | fail_if_no_progress refine Keeps.of_mk ?_)

theorem State.toggleLines_keeps {z s : State} (ch : Nat) (hK : Keeps z s) : Keeps z (State.toggleLines s ch) := by
  unfold State.toggleLines; with_reducible repeat' (first | assumption | intro x y hx | (extract_lets +implicits +onlyGivenNames x; first | (refine Keeps.named (z := z) (x := x) ?_ fun hx => ?_; (on_goal 1 => dsimp -zeta only [x]; clear x); (on_goal 2 => clear_value x)) | (refine Keeps.named_snd (z := z) (x := x) ?_ fun hx => ?_; (on_goal 1 => dsimp -zeta only [x]; clear x); (on_goal 2 => clear_value x)) | (refine Keeps.named_fst (z := z) (x := x) ?_ fun hx => ?_; (on_goal 1 => dsimp -zeta only [x]; clear x); (on_goal 2 => clear_value x)) | clear_value x) | apply Keeps.ite | split | apply Keeps.foldl | apply Keeps.foldl_snd | apply Keeps.foldl_snd2 | apply Keeps.foldl_fst | fail_if_no_progress refine Keeps.of_mk ?_)

theorem State.chainTick_keeps {z s : State} (ch : Nat) (hK : Keeps z s) : Keeps z (State.chainTick s ch) := by
  unfold State.chainTick; with_reducible repeat' (first | assumption | (extract_lets +implicits +onlyGivenNames x; first | (refine Keeps.named (z := z) (x := x) ?_ fun hx => ?_; (on_goal 1 => dsimp -zeta only [x]; clear x); (on_goal 2 => clear_value x)) | clear_value x) | apply Keeps.ite | split | apply State.setTimer_keeps | fail_if_no_progress refine Keeps.of_mk ?_)

theorem State.timerMatch_keeps {z s : State} (ch : Nat) (hK : Keeps z s) : Keeps z (State.timerMatch s ch) := by
  unfold State.timerMatch; with_reducible repeat' (first | assumption | (extract_lets +implicits +onlyGivenNames x; first | (refine Keeps.named (z := z) (x := x) ?_ fun hx => ?_; (on_goal 1 => dsimp -zeta only [x]; clear x); (on_goal 2 => clear_value x)) | clear_value x) | apply Keeps.ite | split | apply State.set1_keeps | apply State.wr64_keeps | apply State.setTimer_keeps | apply State.toggleLines_keeps | apply State.chainTick_keeps | fail_if_no_progress refine Keeps.of_mk ?_)

theorem execTimerMatch_keeps {z s : State} (t : Nat) (ch : Nat) (hK : Keeps z s) : KeepsR z (execTimerMatch t ch s) := by
  unfold execTimerMatch; with_reducible repeat' (first | assumption | refine KeepsR.of_next ?_ | (extract_lets +implicits +onlyGivenNames x; first | (refine Keeps.named (z := z) (x := x) ?_ fun hx => ?_; (on_goal 1 => dsimp -zeta only [x]; clear x); (on_goal 2 => clear_value x)) | clear_value x) | apply Keeps.ite | split | apply State.at_keeps | apply State.timerMatch_keeps | fail_if_no_progress refine Keeps.of_mk ?_)

theorem State.setCount_keeps {z s : State} (ch : Nat) (v : Nat) (hK : Keeps z s) : Keeps z (State.setCount s ch v) := by
  unfold State.setCount; with_reducible repeat' (first | assumption | (extract_lets +implicits +onlyGivenNames x; first | (refine Keeps.named (z := z) (x := x) ?_ fun hx => ?_; (on_goal 1 => dsimp -zeta only [x]; clear x); (on_goal 2 => clear_value x)) | clear_value x) | apply State.setTimer_keeps | fail_if_no_progress refine Keeps.of_mk ?_)

theorem execTmrCountWrite_keeps {z s : State} (t : Nat) (ch : Nat) (v : Nat) (hK : Keeps z s) : KeepsR z (execTmrCountWrite t ch v s) := by
  unfold execTmrCountWrite; with_reducible repeat' (first | assumption | refine KeepsR.of_next ?_ | apply State.at_keeps | apply State.setCount_keeps | fail_if_no_progress refine Keeps.of_mk ?_)

theorem State.setCompare_keeps {z s : State} (ch : Nat) (v : Nat) (hK : Keeps z s) : Keeps z (State.setCompare s ch v) := by
  unfold State.setCompare; with_reducible repeat' (first | assumption | (extract_lets +implicits +onlyGivenNames x; first | (refine Keeps.named (z := z) (x := x) ?_ fun hx => ?_; (on_goal 1 => dsimp -zeta only [x]; clear x); (on_goal 2 => clear_value x)) | clear_value x) | apply State.wr64_keeps | apply State.setTimer_keeps | apply State.landed_keeps | fail_if_no_progress refine Keeps.of_mk ?_)

theorem execTmrCompareWrite_keeps {z s : State} (t : Nat) (ch : Nat) (v : Nat) (hK : Keeps z s) : KeepsR z (execTmrCompareWrite t ch v s) := by
  unfold execTmrCompareWrite; with_reducible repeat' (first | assumption | refine KeepsR.of_next ?_ | apply State.at_keeps | apply State.setCompare_keeps | fail_if_no_progress refine Keeps.of_mk ?_)

theorem State.setTimerCtrl_keeps {z s : State} (ch : Nat) (w : Word) (hK : Keeps z s) : Keeps z (State.setTimerCtrl s ch w) := by
  unfold State.setTimerCtrl; with_reducible repeat' (first | assumption | (extract_lets +implicits +onlyGivenNames x; first | (refine Keeps.named (z := z) (x := x) ?_ fun hx => ?_; (on_goal 1 => dsimp -zeta only [x]; clear x); (on_goal 2 => clear_value x)) | clear_value x) | apply State.setReg_keeps | apply State.setTimer_keeps | fail_if_no_progress refine Keeps.of_mk ?_)

theorem State.timerSnap_keeps {z s : State} (channels : Nat) (hK : Keeps z s) : Keeps z (State.timerSnap s channels) := by
  unfold State.timerSnap; with_reducible repeat' (first | assumption | intro x y hx | (extract_lets +implicits +onlyGivenNames x; first | (refine Keeps.named (z := z) (x := x) ?_ fun hx => ?_; (on_goal 1 => dsimp -zeta only [x]; clear x); (on_goal 2 => clear_value x)) | (refine Keeps.named_snd (z := z) (x := x) ?_ fun hx => ?_; (on_goal 1 => dsimp -zeta only [x]; clear x); (on_goal 2 => clear_value x)) | (refine Keeps.named_fst (z := z) (x := x) ?_ fun hx => ?_; (on_goal 1 => dsimp -zeta only [x]; clear x); (on_goal 2 => clear_value x)) | clear_value x) | split | apply State.wr64_keeps | apply Keeps.foldl | apply Keeps.foldl_snd | apply Keeps.foldl_snd2 | apply Keeps.foldl_fst | fail_if_no_progress refine Keeps.of_mk ?_)

theorem execTmrSnap_keeps {z s : State} (t : Nat) (channels : Nat) (hK : Keeps z s) : KeepsR z (execTmrSnap t channels s) := by
  unfold execTmrSnap; with_reducible repeat' (first | assumption | refine KeepsR.of_next ?_ | apply State.at_keeps | apply State.timerSnap_keeps | fail_if_no_progress refine Keeps.of_mk ?_)

theorem State.setFilter_keeps {z s : State} (n : Nat) (x : Bool × Nat) (hK : Keeps z s) : Keeps z (State.setFilter s n x) := by
  unfold State.setFilter; with_reducible repeat' (first | assumption | (extract_lets +implicits +onlyGivenNames x; first | (refine Keeps.named (z := z) (x := x) ?_ fun hx => ?_; (on_goal 1 => dsimp -zeta only [x]; clear x); (on_goal 2 => clear_value x)) | clear_value x) | split | fail_if_no_progress refine Keeps.of_mk ?_)

theorem State.filterLine_keeps {z s : State} (n : Nat) (b : Bool) (hK : Keeps z s) : Keeps z (State.filterLine s n b) := by
  unfold State.filterLine; with_reducible repeat' (first | assumption | (extract_lets +implicits +onlyGivenNames x; first | (refine Keeps.named (z := z) (x := x) ?_ fun hx => ?_; (on_goal 1 => dsimp -zeta only [x]; clear x); (on_goal 2 => clear_value x)) | clear_value x) | apply Keeps.ite | split | apply State.wr_keeps | apply State.setFilter_keeps | fail_if_no_progress refine Keeps.of_mk ?_ | refine Keeps.of_pair (by assumption) ?_ | refine Keeps.of_pair_fst (by assumption) ?_)

theorem State.filterLines_keeps {z s : State} (edge : Nat) (levels : Nat) (hK : Keeps z s) : Keeps z (State.filterLines s edge levels) := by
  unfold State.filterLines; with_reducible repeat' (first | assumption | intro x y hx | (extract_lets +implicits +onlyGivenNames x; first | (refine Keeps.named (z := z) (x := x) ?_ fun hx => ?_; (on_goal 1 => dsimp -zeta only [x]; clear x); (on_goal 2 => clear_value x)) | (refine Keeps.named_snd (z := z) (x := x) ?_ fun hx => ?_; (on_goal 1 => dsimp -zeta only [x]; clear x); (on_goal 2 => clear_value x)) | (refine Keeps.named_fst (z := z) (x := x) ?_ fun hx => ?_; (on_goal 1 => dsimp -zeta only [x]; clear x); (on_goal 2 => clear_value x)) | clear_value x) | apply Keeps.ite | split | apply State.filterLine_keeps | apply Keeps.foldl | apply Keeps.foldl_snd | apply Keeps.foldl_snd2 | apply Keeps.foldl_fst | fail_if_no_progress refine Keeps.of_mk ?_)

theorem State.startDirChange_keeps {z s : State} (n : Nat) (hK : Keeps z s) : Keeps z (State.startDirChange s n) := by
  unfold State.startDirChange; with_reducible repeat' (first | assumption | (extract_lets +implicits +onlyGivenNames x; first | (refine Keeps.named (z := z) (x := x) ?_ fun hx => ?_; (on_goal 1 => dsimp -zeta only [x]; clear x); (on_goal 2 => clear_value x)) | clear_value x) | apply Keeps.ite | split | apply State.before_keeps | fail_if_no_progress refine Keeps.of_mk ?_)

theorem State.endDirChange_keeps {z s : State} (n : Nat) (hK : Keeps z s) : Keeps z (State.endDirChange s n) := by
  unfold State.endDirChange; with_reducible repeat' (first | assumption | (extract_lets +implicits +onlyGivenNames x; first | (refine Keeps.named (z := z) (x := x) ?_ fun hx => ?_; (on_goal 1 => dsimp -zeta only [x]; clear x); (on_goal 2 => clear_value x)) | clear_value x) | apply Keeps.ite | split | fail_if_no_progress refine Keeps.of_mk ?_)

theorem State.drivePads_keeps {z s : State} (hK : Keeps z s) : Keeps z (State.drivePads s) := by
  unfold State.drivePads; with_reducible repeat' (first | assumption | intro x y hx | (extract_lets +implicits +onlyGivenNames x; first | (refine Keeps.named (z := z) (x := x) ?_ fun hx => ?_; (on_goal 1 => dsimp -zeta only [x]; clear x); (on_goal 2 => clear_value x)) | (refine Keeps.named_snd (z := z) (x := x) ?_ fun hx => ?_; (on_goal 1 => dsimp -zeta only [x]; clear x); (on_goal 2 => clear_value x)) | (refine Keeps.named_fst (z := z) (x := x) ?_ fun hx => ?_; (on_goal 1 => dsimp -zeta only [x]; clear x); (on_goal 2 => clear_value x)) | clear_value x) | apply Keeps.ite | split | apply State.before_keeps | apply State.wr_keeps | apply Keeps.foldl | apply Keeps.foldl_snd | apply Keeps.foldl_snd2 | apply Keeps.foldl_fst | fail_if_no_progress refine Keeps.of_mk ?_)

theorem execFieldLineSampleEdge_keeps {z s : State} (t : Nat) (ext : Nat) (lvl : Nat) (twin : Nat) (hK : Keeps z s) : KeepsR z (execFieldLineSampleEdge t ext lvl twin s) := by
  unfold execFieldLineSampleEdge; with_reducible repeat' (first | assumption | refine KeepsR.of_next ?_ | intro x y hx | (extract_lets +implicits +onlyGivenNames x; first | (refine Keeps.named (z := z) (x := x) ?_ fun hx => ?_; (on_goal 1 => dsimp -zeta only [x]; clear x); (on_goal 2 => clear_value x)) | (refine Keeps.named_snd (z := z) (x := x) ?_ fun hx => ?_; (on_goal 1 => dsimp -zeta only [x]; clear x); (on_goal 2 => clear_value x)) | (refine Keeps.named_fst (z := z) (x := x) ?_ fun hx => ?_; (on_goal 1 => dsimp -zeta only [x]; clear x); (on_goal 2 => clear_value x)) | clear_value x) | apply Keeps.ite | split | apply State.at_keeps | apply State.endDirChange_keeps | apply State.decideLines_keeps | apply State.journalIn_keeps | apply State.filterLines_keeps | apply State.startDirChange_keeps | apply State.before_keeps | apply State.drivePads_keeps | apply State.divergeAlone_keeps | apply Keeps.foldl | apply Keeps.foldl_snd | apply Keeps.foldl_snd2 | apply Keeps.foldl_fst | fail_if_no_progress refine Keeps.of_mk ?_)

theorem State.setCaps_keeps {z s : State} (n : Nat) (q : List (Nat × Bool)) (hK : Keeps z s) : Keeps z (State.setCaps s n q) := by
  unfold State.setCaps; with_reducible repeat' (first | assumption | (extract_lets +implicits +onlyGivenNames x; first | (refine Keeps.named (z := z) (x := x) ?_ fun hx => ?_; (on_goal 1 => dsimp -zeta only [x]; clear x); (on_goal 2 => clear_value x)) | clear_value x) | split | apply State.wr_keeps | apply State.wr64_keeps | fail_if_no_progress refine Keeps.of_mk ?_ | refine Keeps.of_pair (by assumption) ?_ | refine Keeps.of_pair_fst (by assumption) ?_)

theorem State.capture_keeps {z s : State} (n : Nat) (time : Nat) (rising : Bool) (hK : Keeps z s) : Keeps z (State.capture s n time rising) := by
  unfold State.capture; with_reducible repeat' (first | assumption | (extract_lets +implicits +onlyGivenNames x; first | (refine Keeps.named (z := z) (x := x) ?_ fun hx => ?_; (on_goal 1 => dsimp -zeta only [x]; clear x); (on_goal 2 => clear_value x)) | clear_value x) | apply Keeps.ite | split | apply State.setCaps_keeps | apply State.set1_keeps | apply State.satInc_keeps | fail_if_no_progress refine Keeps.of_mk ?_)

theorem execFilterAccept_keeps {z s : State} (t : Nat) (n : Nat) (hK : Keeps z s) : KeepsR z (execFilterAccept t n s) := by
  unfold execFilterAccept; with_reducible repeat' (first | assumption | refine KeepsR.of_next ?_ | (extract_lets +implicits +onlyGivenNames x; first | (refine Keeps.named (z := z) (x := x) ?_ fun hx => ?_; (on_goal 1 => dsimp -zeta only [x]; clear x); (on_goal 2 => clear_value x)) | clear_value x) | apply Keeps.ite | split | apply State.at_keeps | apply State.wr_keeps | apply State.archiveInput_keeps | apply State.capture_keeps | fail_if_no_progress refine Keeps.of_mk ?_ | refine Keeps.of_pair (by assumption) ?_ | refine Keeps.of_pair_fst (by assumption) ?_)

theorem execDirectionChangeEnd_keeps {z s : State} (t : Nat) (n : Nat) (hK : Keeps z s) : KeepsR z (execDirectionChangeEnd t n s) := by
  unfold execDirectionChangeEnd; with_reducible repeat' (first | assumption | refine KeepsR.of_next ?_ | apply State.at_keeps | apply State.endDirChange_keeps | fail_if_no_progress refine Keeps.of_mk ?_)

theorem State.shortLine_keeps {z s : State} (n : Nat) (hK : Keeps z s) : Keeps z (State.shortLine s n) := by
  unfold State.shortLine; with_reducible repeat' (first | assumption | (extract_lets +implicits +onlyGivenNames x; first | (refine Keeps.named (z := z) (x := x) ?_ fun hx => ?_; (on_goal 1 => dsimp -zeta only [x]; clear x); (on_goal 2 => clear_value x)) | clear_value x) | split | apply State.set1_keeps | apply State.raise_keeps | fail_if_no_progress refine Keeps.of_mk ?_)

theorem execOutputShort_keeps {z s : State} (t : Nat) (n : Nat) (hK : Keeps z s) : KeepsR z (execOutputShort t n s) := by
  unfold execOutputShort; with_reducible repeat' (first | assumption | refine KeepsR.of_next ?_ | (extract_lets +implicits +onlyGivenNames x; first | (refine Keeps.named (z := z) (x := x) ?_ fun hx => ?_; (on_goal 1 => dsimp -zeta only [x]; clear x); (on_goal 2 => clear_value x)) | clear_value x) | apply Keeps.ite | split | apply State.at_keeps | apply State.shortLine_keeps | fail_if_no_progress refine Keeps.of_mk ?_)

theorem execShortRetry_keeps {z s : State} (t : Nat) (n : Nat) (ok : Bool) (hK : Keeps z s) : KeepsR z (execShortRetry t n ok s) := by
  unfold execShortRetry; with_reducible repeat' (first | assumption | refine KeepsR.of_next ?_ | (extract_lets +implicits +onlyGivenNames x; first | (refine Keeps.named (z := z) (x := x) ?_ fun hx => ?_; (on_goal 1 => dsimp -zeta only [x]; clear x); (on_goal 2 => clear_value x)) | clear_value x) | apply Keeps.ite | split | apply State.at_keeps | apply State.wr_keeps | apply State.clearFault_keeps | apply State.shortLine_keeps | fail_if_no_progress refine Keeps.of_mk ?_)

theorem State.popCap_keeps {z s : State} (n : Nat) (hK : Keeps z s) : Keeps z (State.popCap s n).2 := by
  unfold State.popCap; with_reducible repeat' (first | assumption | (extract_lets +implicits +onlyGivenNames x; first | (refine Keeps.named (z := z) (x := x) ?_ fun hx => ?_; (on_goal 1 => dsimp -zeta only [x]; clear x); (on_goal 2 => clear_value x)) | (refine Keeps.named_snd (z := z) (x := x) ?_ fun hx => ?_; (on_goal 1 => dsimp -zeta only [x]; clear x); (on_goal 2 => clear_value x)) | clear_value x) | apply Keeps.ite | split | apply State.setCaps_keeps | apply State.draw_keeps | refine Keeps.of_pair (by assumption) (State.draw_keeps ?_) | apply State.setReg_keeps | fail_if_no_progress refine Keeps.of_mk ?_ | refine Keeps.of_pair (by assumption) ?_ | refine Keeps.of_pair_fst (by assumption) ?_)

end Sys2Proof.Machine
end

