-- ==== Sys2Proof/Laws/KeepsRimRead.lean ====
section
/-! SUPPORT. What the functions of RimRead keep (see Keeps). -/

set_option linter.all false

namespace Sys2Proof.Machine

theorem State.setHeld_keeps {z s : State} (r : RegHit) (m : Master) (w : Option Word) (hK : Keeps z s) : Keeps z (State.setHeld s r m w) := by
  unfold State.setHeld; with_reducible repeat' (first | assumption | (extract_lets +implicits +onlyGivenNames x; first | (refine Keeps.named (z := z) (x := x) ?_ fun hx => ?_; (on_goal 1 => dsimp -zeta only [x]; clear x); (on_goal 2 => clear_value x)) | clear_value x) | split | fail_if_no_progress refine Keeps.of_mk ?_)

theorem State.readEffect_keeps {z s : State} (ms : List Master) (r : RegHit) (hK : Keeps z s) : Keeps z (State.readEffect s ms r) := by
  unfold State.readEffect; with_reducible repeat' (first | assumption | intro x y hx | (extract_lets +implicits +onlyGivenNames x; first | (refine Keeps.named (z := z) (x := x) ?_ fun hx => ?_; (on_goal 1 => dsimp -zeta only [x]; clear x); (on_goal 2 => clear_value x)) | (refine Keeps.named_snd (z := z) (x := x) ?_ fun hx => ?_; (on_goal 1 => dsimp -zeta only [x]; clear x); (on_goal 2 => clear_value x)) | (refine Keeps.named_fst (z := z) (x := x) ?_ fun hx => ?_; (on_goal 1 => dsimp -zeta only [x]; clear x); (on_goal 2 => clear_value x)) | clear_value x) | apply Keeps.ite | split | apply State.claim_keeps | refine Keeps.of_pair (by assumption) (State.claim_keeps _ ?_) | apply State.popCap_keeps | refine Keeps.of_pair (by assumption) (State.popCap_keeps _ ?_) | apply State.setReg_keeps | apply State.wr_keeps | apply State.peak_keeps | apply State.sensor_keeps | apply State.setHeld_keeps | apply Keeps.foldl | apply Keeps.foldl_snd | apply Keeps.foldl_snd2 | apply Keeps.foldl_fst | fail_if_no_progress refine Keeps.of_mk ?_ | refine Keeps.of_pair (by assumption) ?_ | refine Keeps.of_pair_fst (by assumption) ?_)

theorem State.countUnmapped_keeps {z s : State} (a : Nat) (hK : Keeps z s) : Keeps z (State.countUnmapped s a) := by
  unfold State.countUnmapped; with_reducible repeat' (first | assumption | apply State.satInc_keeps | apply State.wr_keeps | fail_if_no_progress refine Keeps.of_mk ?_)

theorem State.rimReadEffect_keeps {z s : State} (ms : List Master) (a : Nat) (size : Nat) (hK : Keeps z s) : Keeps z (State.rimReadEffect s ms a size) := by
  unfold State.rimReadEffect; with_reducible repeat' (first | assumption | (extract_lets +implicits +onlyGivenNames x; first | (refine Keeps.named (z := z) (x := x) ?_ fun hx => ?_; (on_goal 1 => dsimp -zeta only [x]; clear x); (on_goal 2 => clear_value x)) | clear_value x) | apply Keeps.ite | split | apply State.countUnmapped_keeps | apply State.readEffect_keeps | fail_if_no_progress refine Keeps.of_mk ?_ | refine Keeps.of_pair (by assumption) ?_ | refine Keeps.of_pair_fst (by assumption) ?_)

theorem State.rimRead_keeps {z s : State} (m : Master) (a : Nat) (size : Nat) (hK : Keeps z s) : Keeps z (State.rimRead s m a size).2 := by
  unfold State.rimRead; with_reducible repeat' (first | assumption | apply State.rimReadEffect_keeps | fail_if_no_progress refine Keeps.of_mk ?_)

theorem State.rimReads_keeps {z s : State} (a : Nat) (ms : List Master) (hK : Keeps z s) : Keeps z (State.rimReads s a ms) := by
  unfold State.rimReads; with_reducible repeat' (first | assumption | intro x y hx | (extract_lets +implicits +onlyGivenNames x; first | (refine Keeps.named (z := z) (x := x) ?_ fun hx => ?_; (on_goal 1 => dsimp -zeta only [x]; clear x); (on_goal 2 => clear_value x)) | (refine Keeps.named_snd (z := z) (x := x) ?_ fun hx => ?_; (on_goal 1 => dsimp -zeta only [x]; clear x); (on_goal 2 => clear_value x)) | (refine Keeps.named_fst (z := z) (x := x) ?_ fun hx => ?_; (on_goal 1 => dsimp -zeta only [x]; clear x); (on_goal 2 => clear_value x)) | clear_value x) | split | apply State.emit_keeps | apply State.rimRead_keeps | refine Keeps.of_pair (by assumption) (State.rimRead_keeps _ _ _ ?_) | apply State.rimReadEffect_keeps | apply Keeps.foldl | apply Keeps.foldl_snd | apply Keeps.foldl_snd2 | apply Keeps.foldl_fst | fail_if_no_progress refine Keeps.of_mk ?_)

end Sys2Proof.Machine
end

