-- ==== Sys2Proof/Laws/KeepsEthernet.lean ====
section
/-! SUPPORT. What the functions of Ethernet keep (see Keeps). -/

set_option linter.all false

namespace Sys2Proof.Machine

theorem State.prpCheck_keeps {z s : State} (p : Nat) (src : Nat) (b : List Byte) (hK : Keeps z s) : Keeps z (State.prpCheck s p src b).2 := by
  unfold State.prpCheck; with_reducible repeat' (first | assumption | (extract_lets +implicits +onlyGivenNames x; first | (refine Keeps.named (z := z) (x := x) ?_ fun hx => ?_; (on_goal 1 => dsimp -zeta only [x]; clear x); (on_goal 2 => clear_value x)) | clear_value x) | apply Keeps.ite | split | apply State.satInc_keeps | fail_if_no_progress refine Keeps.of_mk ?_ | refine Keeps.of_pair (by assumption) ?_ | refine Keeps.of_pair_fst (by assumption) ?_)

theorem execPrpEntryExpire_keeps {z s : State} (t : Nat) (mac : Nat) (hK : Keeps z s) : KeepsR z (execPrpEntryExpire t mac s) := by
  unfold execPrpEntryExpire; with_reducible repeat' (first | assumption | refine KeepsR.of_next ?_ | (extract_lets +implicits +onlyGivenNames x; first | (refine Keeps.named (z := z) (x := x) ?_ fun hx => ?_; (on_goal 1 => dsimp -zeta only [x]; clear x); (on_goal 2 => clear_value x)) | clear_value x) | split | apply State.at_keeps | fail_if_no_progress refine Keeps.of_mk ?_)

theorem execPrpSupervisionSend_keeps {z s : State} (t : Nat) (hK : Keeps z s) : KeepsR z (execPrpSupervisionSend t s) := by
  unfold execPrpSupervisionSend; with_reducible repeat' (first | assumption | refine KeepsR.of_next ?_ | (extract_lets +implicits +onlyGivenNames x; first | (refine Keeps.named (z := z) (x := x) ?_ fun hx => ?_; (on_goal 1 => dsimp -zeta only [x]; clear x); (on_goal 2 => clear_value x)) | clear_value x) | apply Keeps.ite | split | apply State.at_keeps | apply State.sendFrame_keeps | fail_if_no_progress refine Keeps.of_mk ?_)

theorem State.rxDrop_keeps {z s : State} (p : Nat) (r : Nat) (hK : Keeps z s) : Keeps z (State.rxDrop s p r) := by
  unfold State.rxDrop; with_reducible repeat' (first | assumption | apply State.satInc_keeps | fail_if_no_progress refine Keeps.of_mk ?_)

theorem State.answerEcho_keeps {z s : State} (p : Nat) (b : List Byte) (hK : Keeps z s) : Keeps z (State.answerEcho s p b) := by
  unfold State.answerEcho; with_reducible repeat' (first | assumption | (extract_lets +implicits +onlyGivenNames x; first | (refine Keeps.named (z := z) (x := x) ?_ fun hx => ?_; (on_goal 1 => dsimp -zeta only [x]; clear x); (on_goal 2 => clear_value x)) | (refine Keeps.sec x ?_; subst x) | clear_value x) | apply Keeps.ite | split | apply State.rxDrop_keeps | apply State.sendFrame_keeps | fail_if_no_progress refine Keeps.of_mk ?_)

theorem State.rxDeliver_keeps {z s : State} (p : Nat) (f : EthFrame) (b : List Byte) (room : Bool) (hK : Keeps z s) : Keeps z (State.rxDeliver s p f b room) := by
  unfold State.rxDeliver; with_reducible repeat' (first | assumption | (extract_lets +implicits +onlyGivenNames x; first | (refine Keeps.named (z := z) (x := x) ?_ fun hx => ?_; (on_goal 1 => dsimp -zeta only [x]; clear x); (on_goal 2 => clear_value x)) | clear_value x) | apply Keeps.ite | split | apply State.rxDrop_keeps | apply State.sendFrame_keeps | apply State.answerEcho_keeps | fail_if_no_progress refine Keeps.of_mk ?_ | refine Keeps.of_pair (by assumption) ?_ | refine Keeps.of_pair_fst (by assumption) ?_)

theorem State.rxFrame_keeps {z s : State} (p : Nat) (codeword : Bool) (fcs : Bool) (room : Bool) (b : List Byte) (hK : Keeps z s) : Keeps z (State.rxFrame s p codeword fcs room b) := by
  unfold State.rxFrame; with_reducible repeat' (first | assumption | (extract_lets +implicits +onlyGivenNames x; first | (refine Keeps.named (z := z) (x := x) ?_ fun hx => ?_; (on_goal 1 => dsimp -zeta only [x]; clear x); (on_goal 2 => clear_value x)) | (refine Keeps.named_snd (z := z) (x := x) ?_ fun hx => ?_; (on_goal 1 => dsimp -zeta only [x]; clear x); (on_goal 2 => clear_value x)) | clear_value x) | apply Keeps.ite | split | apply State.set1_keeps | apply State.rxDrop_keeps | apply State.prpCheck_keeps | refine Keeps.of_pair (by assumption) (State.prpCheck_keeps _ _ _ ?_) | apply State.rxDeliver_keeps | fail_if_no_progress refine Keeps.of_mk ?_ | refine Keeps.of_pair (by assumption) ?_ | refine Keeps.of_pair_fst (by assumption) ?_)

theorem execFrameReceive_keeps {z s : State} (t : Nat) (p : Nat) (codeword : Bool) (fcs : Bool) (room : Bool) (b : List Byte) (hK : Keeps z s) : KeepsR z (execFrameReceive t p codeword fcs room b s) := by
  unfold execFrameReceive; with_reducible repeat' (first | assumption | refine KeepsR.of_next ?_ | (extract_lets +implicits +onlyGivenNames x; first | (refine Keeps.named (z := z) (x := x) ?_ fun hx => ?_; (on_goal 1 => dsimp -zeta only [x]; clear x); (on_goal 2 => clear_value x)) | clear_value x) | apply Keeps.ite | split | apply State.at_keeps | apply State.rxFrame_keeps | fail_if_no_progress refine Keeps.of_mk ?_)

theorem execEthLinkChange_keeps {z s : State} (t : Nat) (p : Nat) (up : Bool) (hK : Keeps z s) : KeepsR z (execEthLinkChange t p up s) := by
  unfold execEthLinkChange; with_reducible repeat' (first | assumption | refine KeepsR.of_next ?_ | (extract_lets +implicits +onlyGivenNames x; first | (refine Keeps.named (z := z) (x := x) ?_ fun hx => ?_; (on_goal 1 => dsimp -zeta only [x]; clear x); (on_goal 2 => clear_value x)) | clear_value x) | apply Keeps.ite | split | apply State.at_keeps | apply State.wr_keeps | apply State.set1_keeps | fail_if_no_progress refine Keeps.of_mk ?_)

theorem State.ptpState_keeps {z s : State} (p : Nat) (v : Nat) (followed : Bool) (hK : Keeps z s) : Keeps z (State.ptpState s p v followed) := by
  unfold State.ptpState; with_reducible repeat' (first | assumption | apply Keeps.ite | split | apply State.wr_keeps | apply State.set1_keeps | fail_if_no_progress refine Keeps.of_mk ?_)

theorem State.followPort_keeps {z s : State} (p : Nat) (hK : Keeps z s) : Keeps z (State.followPort s p) := by
  unfold State.followPort; with_reducible repeat' (first | assumption | (extract_lets +implicits +onlyGivenNames x; first | (refine Keeps.named (z := z) (x := x) ?_ fun hx => ?_; (on_goal 1 => dsimp -zeta only [x]; clear x); (on_goal 2 => clear_value x)) | clear_value x) | apply Keeps.ite | split | apply State.ptpState_keeps | apply State.wr_keeps | fail_if_no_progress refine Keeps.of_mk ?_)

theorem State.ownUtc_keeps {z s : State} (hK : Keeps z s) : Keeps z (State.ownUtc s) := by
  unfold State.ownUtc; with_reducible repeat' (first | assumption | apply Keeps.ite | split | apply State.wr_keeps | fail_if_no_progress refine Keeps.of_mk ?_)

theorem State.takeMaster_keeps {z s : State} (y : PtpSync) (hK : Keeps z s) : Keeps z (State.takeMaster s y) := by
  unfold State.takeMaster; with_reducible repeat' (first | assumption | (extract_lets +implicits +onlyGivenNames x; first | (refine Keeps.named (z := z) (x := x) ?_ fun hx => ?_; (on_goal 1 => dsimp -zeta only [x]; clear x); (on_goal 2 => clear_value x)) | clear_value x) | apply Keeps.ite | split | apply State.wr64_keeps | apply State.set1_keeps | apply State.wr_keeps | apply State.ownUtc_keeps | fail_if_no_progress refine Keeps.of_mk ?_ | refine Keeps.of_pair (by assumption) ?_ | refine Keeps.of_pair_fst (by assumption) ?_)

theorem State.measure_keeps {z s : State} (offset : Int) (hK : Keeps z s) : Keeps z (State.measure s offset) := by
  unfold State.measure; with_reducible repeat' (first | assumption | (extract_lets +implicits +onlyGivenNames x; first | (refine Keeps.named (z := z) (x := x) ?_ fun hx => ?_; (on_goal 1 => dsimp -zeta only [x]; clear x); (on_goal 2 => clear_value x)) | clear_value x) | apply Keeps.ite | split | apply State.wr_keeps | fail_if_no_progress refine Keeps.of_mk ?_)

theorem State.steer_keeps {z s : State} (base : Int) (slew : Int) (hK : Keeps z s) : Keeps z (State.steer s base slew) := by
  unfold State.steer; with_reducible repeat' (first | assumption | (extract_lets +implicits +onlyGivenNames x; first | (refine Keeps.named (z := z) (x := x) ?_ fun hx => ?_; (on_goal 1 => dsimp -zeta only [x]; clear x); (on_goal 2 => clear_value x)) | clear_value x) | apply Keeps.ite | split | apply State.wr_keeps | apply State.set1_keeps | apply State.raise_keeps | fail_if_no_progress refine Keeps.of_mk ?_)

theorem State.discipline_keeps {z s : State} (y : PtpSync) (hK : Keeps z s) : Keeps z (State.discipline s y) := by
  unfold State.discipline; with_reducible repeat' (first | assumption | (extract_lets +implicits +onlyGivenNames x; first | (refine Keeps.named (z := z) (x := x) ?_ fun hx => ?_; (on_goal 1 => dsimp -zeta only [x]; clear x); (on_goal 2 => clear_value x)) | clear_value x) | apply Keeps.ite | split | apply State.set1_keeps | apply State.holdover_keeps | apply State.timeState_keeps | apply State.raise_keeps | apply State.noteLock_keeps | apply State.wr_keeps | apply State.steer_keeps | fail_if_no_progress refine Keeps.of_mk ?_)

theorem State.syncAt_keeps {z s : State} (p : Nat) (y : PtpSync) (hK : Keeps z s) : Keeps z (State.syncAt s p y) := by
  unfold State.syncAt; with_reducible repeat' (first | assumption | (extract_lets +implicits +onlyGivenNames x; first | (refine Keeps.named (z := z) (x := x) ?_ fun hx => ?_; (on_goal 1 => dsimp -zeta only [x]; clear x); (on_goal 2 => clear_value x)) | clear_value x) | apply Keeps.ite | split | apply State.followPort_keeps | apply State.ptpState_keeps | apply State.takeMaster_keeps | apply State.measure_keeps | apply State.discipline_keeps | fail_if_no_progress refine Keeps.of_mk ?_)

theorem execPtpSync_keeps {z s : State} (t : Nat) (y : PtpSync) (hK : Keeps z s) : KeepsR z (execPtpSync t y s) := by
  unfold execPtpSync; with_reducible repeat' (first | assumption | refine KeepsR.of_next ?_ | (extract_lets +implicits +onlyGivenNames x; first | (refine Keeps.named (z := z) (x := x) ?_ fun hx => ?_; (on_goal 1 => dsimp -zeta only [x]; clear x); (on_goal 2 => clear_value x)) | clear_value x) | apply Keeps.ite | split | apply State.at_keeps | apply State.syncAt_keeps | fail_if_no_progress refine Keeps.of_mk ?_)

theorem State.release_keeps {z s : State} (target : Nat) (state : Nat) (hK : Keeps z s) : Keeps z (State.release s target state) := by
  unfold State.release; with_reducible repeat' (first | assumption | (extract_lets +implicits +onlyGivenNames x; first | (refine Keeps.named (z := z) (x := x) ?_ fun hx => ?_; (on_goal 1 => dsimp -zeta only [x]; clear x); (on_goal 2 => clear_value x)) | clear_value x) | apply State.set1_keeps | apply State.timeState_keeps | fail_if_no_progress refine Keeps.of_mk ?_)

theorem execFirstLock_keeps {z s : State} (t : Nat) (target : Nat) (hK : Keeps z s) : KeepsR z (execFirstLock t target s) := by
  unfold execFirstLock; with_reducible repeat' (first | assumption | refine KeepsR.of_next ?_ | (extract_lets +implicits +onlyGivenNames x; first | (refine Keeps.named (z := z) (x := x) ?_ fun hx => ?_; (on_goal 1 => dsimp -zeta only [x]; clear x); (on_goal 2 => clear_value x)) | clear_value x) | apply Keeps.ite | split | apply State.at_keeps | apply State.release_keeps | fail_if_no_progress refine Keeps.of_mk ?_)

theorem State.odoSet_keeps {z s : State} (ns : Nat) (hK : Keeps z s) : Keeps z (State.odoSet s ns) := by
  unfold State.odoSet; with_reducible repeat' (first | assumption | apply Keeps.ite | split | apply State.ignoreWrite_keeps | apply State.wr64_keeps | apply State.release_keeps | fail_if_no_progress refine Keeps.of_mk ?_)

theorem execOdoSet_keeps {z s : State} (t : Nat) (ns : Nat) (hK : Keeps z s) : KeepsR z (execOdoSet t ns s) := by
  unfold execOdoSet; with_reducible repeat' (first | assumption | refine KeepsR.of_next ?_ | apply State.at_keeps | apply State.odoSet_keeps | fail_if_no_progress refine Keeps.of_mk ?_)

theorem State.odoForget_keeps {z s : State} (hK : Keeps z s) : Keeps z (State.odoForget s) := by
  unfold State.odoForget; with_reducible repeat' (first | assumption | apply State.wr_keeps | fail_if_no_progress refine Keeps.of_mk ?_)

theorem execOdoForget_keeps {z s : State} (t : Nat) (hK : Keeps z s) : KeepsR z (execOdoForget t s) := by
  unfold execOdoForget; with_reducible repeat' (first | assumption | refine KeepsR.of_next ?_ | apply State.at_keeps | apply State.odoForget_keeps | fail_if_no_progress refine Keeps.of_mk ?_)

theorem State.odoSnap_keeps {z s : State} (hK : Keeps z s) : Keeps z (State.odoSnap s) := by
  unfold State.odoSnap; with_reducible repeat' (first | assumption | (extract_lets +implicits +onlyGivenNames x; first | (refine Keeps.named (z := z) (x := x) ?_ fun hx => ?_; (on_goal 1 => dsimp -zeta only [x]; clear x); (on_goal 2 => clear_value x)) | clear_value x) | apply State.wr64_keeps | apply State.wr_keeps | fail_if_no_progress refine Keeps.of_mk ?_)

theorem execOdoSnap_keeps {z s : State} (t : Nat) (hK : Keeps z s) : KeepsR z (execOdoSnap t s) := by
  unfold execOdoSnap; with_reducible repeat' (first | assumption | refine KeepsR.of_next ?_ | apply State.at_keeps | apply State.odoSnap_keeps | fail_if_no_progress refine Keeps.of_mk ?_)

theorem execLeapSecond_keeps {z s : State} (t : Nat) (hK : Keeps z s) : KeepsR z (execLeapSecond t s) := by
  unfold execLeapSecond; with_reducible repeat' (first | assumption | refine KeepsR.of_next ?_ | (extract_lets +implicits +onlyGivenNames x; first | (refine Keeps.named (z := z) (x := x) ?_ fun hx => ?_; (on_goal 1 => dsimp -zeta only [x]; clear x); (on_goal 2 => clear_value x)) | clear_value x) | apply Keeps.ite | split | apply State.at_keeps | apply State.wr_keeps | fail_if_no_progress refine Keeps.of_mk ?_ | refine Keeps.of_pair (by assumption) ?_ | refine Keeps.of_pair_fst (by assumption) ?_)

theorem execAnnounceTimeout_keeps {z s : State} (t : Nat) (p : Nat) (other : Bool) (hK : Keeps z s) : KeepsR z (execAnnounceTimeout t p other s) := by
  unfold execAnnounceTimeout; with_reducible repeat' (first | assumption | refine KeepsR.of_next ?_ | (extract_lets +implicits +onlyGivenNames x; first | (refine Keeps.named (z := z) (x := x) ?_ fun hx => ?_; (on_goal 1 => dsimp -zeta only [x]; clear x); (on_goal 2 => clear_value x)) | clear_value x) | apply Keeps.ite | split | apply State.at_keeps | apply State.ptpState_keeps | apply State.followPort_keeps | apply State.wr_keeps | apply State.holdover_keeps | apply State.ownUtc_keeps | fail_if_no_progress refine Keeps.of_mk ?_)

theorem State.pdelayDone_keeps {z s : State} (p : Nat) (d : Int) (hK : Keeps z s) : Keeps z (State.pdelayDone s p d) := by
  unfold State.pdelayDone; with_reducible repeat' (first | assumption | apply State.wr_keeps | fail_if_no_progress refine Keeps.of_mk ?_)

theorem execPdelayReqSend_keeps {z s : State} (t : Nat) (p : Nat) (delay : Option Int) (hK : Keeps z s) : KeepsR z (execPdelayReqSend t p delay s) := by
  unfold execPdelayReqSend; with_reducible repeat' (first | assumption | refine KeepsR.of_next ?_ | (extract_lets +implicits +onlyGivenNames x; first | (refine Keeps.named (z := z) (x := x) ?_ fun hx => ?_; (on_goal 1 => dsimp -zeta only [x]; clear x); (on_goal 2 => clear_value x)) | clear_value x) | apply Keeps.ite | split | apply State.at_keeps | apply State.emit_keeps | apply State.pdelayDone_keeps | fail_if_no_progress refine Keeps.of_mk ?_ | refine Keeps.of_pair (by assumption) ?_ | refine Keeps.of_pair_fst (by assumption) ?_)

theorem execPdelayReqReceive_keeps {z s : State} (t : Nat) (p : Nat) (hK : Keeps z s) : KeepsR z (execPdelayReqReceive t p s) := by
  unfold execPdelayReqReceive; with_reducible repeat' (first | assumption | refine KeepsR.of_next ?_ | (extract_lets +implicits +onlyGivenNames x; first | (refine Keeps.named (z := z) (x := x) ?_ fun hx => ?_; (on_goal 1 => dsimp -zeta only [x]; clear x); (on_goal 2 => clear_value x)) | clear_value x) | apply Keeps.ite | split | apply State.at_keeps | apply State.emit_keeps | fail_if_no_progress refine Keeps.of_mk ?_)

end Sys2Proof.Machine
end

