-- ==== Sys2Proof/Laws/KeepsSaddlebag.lean ====
section
/-! SUPPORT. What the functions of Saddlebag keep (see Keeps). -/

set_option linter.all false

namespace Sys2Proof.Machine

theorem State.sbIrq_keeps {z s : State} (f : Fld) (hK : Keeps z s) : Keeps z (State.sbIrq s f) := by
  unfold State.sbIrq; with_reducible repeat' (first | assumption | apply State.set1_keeps | fail_if_no_progress refine Keeps.of_mk ?_)

theorem State.stage_keeps {z s : State} (kind : Nat) (chip : Nat) (head : Nat) (time : Nat) (payload : List Byte) (hK : Keeps z s) : Keeps z (State.stage s kind chip head time payload) := by
  unfold State.stage; with_reducible repeat' (first | assumption | (extract_lets +implicits +onlyGivenNames x; first | (refine Keeps.named (z := z) (x := x) ?_ fun hx => ?_; (on_goal 1 => dsimp -zeta only [x]; clear x); (on_goal 2 => clear_value x)) | clear_value x) | fail_if_no_progress refine Keeps.of_mk ?_)

theorem State.loseEntry_keeps {z s : State} (hK : Keeps z s) : Keeps z (State.loseEntry s) := by
  unfold State.loseEntry; with_reducible repeat' (first | assumption | (extract_lets +implicits +onlyGivenNames x; first | (refine Keeps.named (z := z) (x := x) ?_ fun hx => ?_; (on_goal 1 => dsimp -zeta only [x]; clear x); (on_goal 2 => clear_value x)) | clear_value x) | split | fail_if_no_progress refine Keeps.of_mk ?_ | refine Keeps.of_pair (by assumption) ?_ | refine Keeps.of_pair_fst (by assumption) ?_)

theorem State.stageGap_keeps {z s : State} (hK : Keeps z s) : Keeps z (State.stageGap s) := by
  unfold State.stageGap; with_reducible repeat' (first | assumption | (extract_lets +implicits +onlyGivenNames x; first | (refine Keeps.named (z := z) (x := x) ?_ fun hx => ?_; (on_goal 1 => dsimp -zeta only [x]; clear x); (on_goal 2 => clear_value x)) | clear_value x) | split | apply State.stage_keeps | apply State.satInc_keeps | apply State.sbIrq_keeps | apply State.raise_keeps | fail_if_no_progress refine Keeps.of_mk ?_ | refine Keeps.of_pair (by assumption) ?_ | refine Keeps.of_pair_fst (by assumption) ?_)

theorem State.accept_keeps {z s : State} (room : Bool) (chip : Nat) (e : Nat × Nat × Nat × List Byte) (hK : Keeps z s) : Keeps z (State.accept s room chip e) := by
  unfold State.accept; with_reducible repeat' (first | assumption | apply Keeps.ite | split | apply State.loseEntry_keeps | apply State.stageGap_keeps | apply State.stage_keeps | fail_if_no_progress refine Keeps.of_mk ?_)

theorem execArchiveEntry_keeps {z s : State} (t : Nat) (room : Bool) (twin : Option (Nat × Nat × Nat × List Byte)) (hK : Keeps z s) : KeepsR z (execArchiveEntry t room twin s) := by
  unfold execArchiveEntry; with_reducible repeat' (first | assumption | refine KeepsR.of_next ?_ | (extract_lets +implicits +onlyGivenNames x; first | (refine Keeps.named (z := z) (x := x) ?_ fun hx => ?_; (on_goal 1 => dsimp -zeta only [x]; clear x); (on_goal 2 => clear_value x)) | clear_value x) | apply Keeps.ite | split | apply State.at_keeps | apply State.accept_keeps | apply State.emit_keeps | fail_if_no_progress refine Keeps.of_mk ?_ | refine Keeps.of_pair (by assumption) ?_ | refine Keeps.of_pair_fst (by assumption) ?_)

theorem State.setSegment_keeps {z s : State} (i : Nat) (g : Segment) (hK : Keeps z s) : Keeps z (State.setSegment s i g) := by
  unfold State.setSegment; with_reducible repeat' (first | assumption | (extract_lets +implicits +onlyGivenNames x; first | (refine Keeps.named (z := z) (x := x) ?_ fun hx => ?_; (on_goal 1 => dsimp -zeta only [x]; clear x); (on_goal 2 => clear_value x)) | clear_value x) | split | fail_if_no_progress refine Keeps.of_mk ?_)

theorem State.openSegment_keeps {z s : State} (hK : Keeps z s) : Keeps z (State.openSegment s) := by
  unfold State.openSegment; with_reducible repeat' (first | assumption | (extract_lets +implicits +onlyGivenNames x; first | (refine Keeps.named (z := z) (x := x) ?_ fun hx => ?_; (on_goal 1 => dsimp -zeta only [x]; clear x); (on_goal 2 => clear_value x)) | clear_value x) | split | apply State.set1_keeps | apply State.setSegment_keeps | apply State.wr_keeps | fail_if_no_progress refine Keeps.of_mk ?_ | refine Keeps.of_pair (by assumption) ?_ | refine Keeps.of_pair_fst (by assumption) ?_)

theorem State.closeSegment_keeps {z s : State} (i : Nat) (hK : Keeps z s) : Keeps z (State.closeSegment s i) := by
  unfold State.closeSegment; with_reducible repeat' (first | assumption | (extract_lets +implicits +onlyGivenNames x; first | (refine Keeps.named (z := z) (x := x) ?_ fun hx => ?_; (on_goal 1 => dsimp -zeta only [x]; clear x); (on_goal 2 => clear_value x)) | clear_value x) | apply State.setSegment_keeps | apply State.wr64_keeps | apply State.openSegment_keeps | fail_if_no_progress refine Keeps.of_mk ?_)

theorem execSegmentClose_keeps {z s : State} (t : Nat) (hK : Keeps z s) : KeepsR z (execSegmentClose t s) := by
  unfold execSegmentClose; with_reducible repeat' (first | assumption | refine KeepsR.of_next ?_ | (extract_lets +implicits +onlyGivenNames x; first | (refine Keeps.named (z := z) (x := x) ?_ fun hx => ?_; (on_goal 1 => dsimp -zeta only [x]; clear x); (on_goal 2 => clear_value x)) | clear_value x) | apply Keeps.ite | split | apply State.at_keeps | apply State.closeSegment_keeps | fail_if_no_progress refine Keeps.of_mk ?_ | refine Keeps.of_pair (by assumption) ?_ | refine Keeps.of_pair_fst (by assumption) ?_)

theorem State.sbFlush_keeps {z s : State} (hK : Keeps z s) : Keeps z (State.sbFlush s) := by
  unfold State.sbFlush; with_reducible repeat' (first | assumption | (extract_lets +implicits +onlyGivenNames x; first | (refine Keeps.named (z := z) (x := x) ?_ fun hx => ?_; (on_goal 1 => dsimp -zeta only [x]; clear x); (on_goal 2 => clear_value x)) | clear_value x) | fail_if_no_progress refine Keeps.of_mk ?_)

theorem execSbFlush_keeps {z s : State} (t : Nat) (hK : Keeps z s) : KeepsR z (execSbFlush t s) := by
  unfold execSbFlush; with_reducible repeat' (first | assumption | refine KeepsR.of_next ?_ | apply State.at_keeps | apply State.sbFlush_keeps | fail_if_no_progress refine Keeps.of_mk ?_)

theorem State.drain_keeps {z s : State} (hK : Keeps z s) : Keeps z (State.drain s) := by
  unfold State.drain; with_reducible repeat' (first | assumption | (extract_lets +implicits +onlyGivenNames x; first | (refine Keeps.named (z := z) (x := x) ?_ fun hx => ?_; (on_goal 1 => dsimp -zeta only [x]; clear x); (on_goal 2 => clear_value x)) | clear_value x) | apply Keeps.ite | split | apply State.openSegment_keeps | fail_if_no_progress refine Keeps.of_mk ?_ | refine Keeps.of_pair (by assumption) ?_ | refine Keeps.of_pair_fst (by assumption) ?_)

theorem execStagingDrain_keeps {z s : State} (t : Nat) (hK : Keeps z s) : KeepsR z (execStagingDrain t s) := by
  unfold execStagingDrain; with_reducible repeat' (first | assumption | refine KeepsR.of_next ?_ | (extract_lets +implicits +onlyGivenNames x; first | (refine Keeps.named (z := z) (x := x) ?_ fun hx => ?_; (on_goal 1 => dsimp -zeta only [x]; clear x); (on_goal 2 => clear_value x)) | clear_value x) | apply Keeps.ite | split | apply State.at_keeps | apply State.drain_keeps | fail_if_no_progress refine Keeps.of_mk ?_)

theorem execDriveWriteComplete_keeps {z s : State} (t : Nat) (n : Nat) (hK : Keeps z s) : KeepsR z (execDriveWriteComplete t n s) := by
  unfold execDriveWriteComplete; with_reducible repeat' (first | assumption | refine KeepsR.of_next ?_ | (extract_lets +implicits +onlyGivenNames x; first | (refine Keeps.named (z := z) (x := x) ?_ fun hx => ?_; (on_goal 1 => dsimp -zeta only [x]; clear x); (on_goal 2 => clear_value x)) | clear_value x) | apply Keeps.ite | split | apply State.at_keeps | apply State.setSegment_keeps | apply State.wr64_keeps | fail_if_no_progress refine Keeps.of_mk ?_ | refine Keeps.of_pair (by assumption) ?_ | refine Keeps.of_pair_fst (by assumption) ?_)

theorem State.setDrive_keeps {z s : State} (d : Nat) (v : Drive) (hK : Keeps z s) : Keeps z (State.setDrive s d v) := by
  unfold State.setDrive; with_reducible repeat' (first | assumption | (extract_lets +implicits +onlyGivenNames x; first | (refine Keeps.named (z := z) (x := x) ?_ fun hx => ?_; (on_goal 1 => dsimp -zeta only [x]; clear x); (on_goal 2 => clear_value x)) | clear_value x) | split | fail_if_no_progress refine Keeps.of_mk ?_)

theorem State.driveState_keeps {z s : State} (d : Nat) (st : Nat) (hK : Keeps z s) : Keeps z (State.driveState s d st) := by
  unfold State.driveState; with_reducible repeat' (first | assumption | apply Keeps.ite | split | apply State.wr_keeps | apply State.sbIrq_keeps | fail_if_no_progress refine Keeps.of_mk ?_)

theorem State.failDrive_keeps {z s : State} (d : Nat) (hK : Keeps z s) : Keeps z (State.failDrive s d) := by
  unfold State.failDrive; with_reducible repeat' (first | assumption | apply State.driveState_keeps | apply State.raise_keeps | fail_if_no_progress refine Keeps.of_mk ?_)

theorem execDriveTimeout_keeps {z s : State} (t : Nat) (d : Nat) (hK : Keeps z s) : KeepsR z (execDriveTimeout t d s) := by
  unfold execDriveTimeout; with_reducible repeat' (first | assumption | refine KeepsR.of_next ?_ | (extract_lets +implicits +onlyGivenNames x; first | (refine Keeps.named (z := z) (x := x) ?_ fun hx => ?_; (on_goal 1 => dsimp -zeta only [x]; clear x); (on_goal 2 => clear_value x)) | clear_value x) | apply Keeps.ite | split | apply State.at_keeps | apply State.setDrive_keeps | apply State.failDrive_keeps | fail_if_no_progress refine Keeps.of_mk ?_)

theorem execDriveRemove_keeps {z s : State} (t : Nat) (d : Nat) (hK : Keeps z s) : KeepsR z (execDriveRemove t d s) := by
  unfold execDriveRemove; with_reducible repeat' (first | assumption | refine KeepsR.of_next ?_ | (extract_lets +implicits +onlyGivenNames x; first | (refine Keeps.named (z := z) (x := x) ?_ fun hx => ?_; (on_goal 1 => dsimp -zeta only [x]; clear x); (on_goal 2 => clear_value x)) | clear_value x) | apply State.at_keeps | apply State.setDrive_keeps | apply State.wr_keeps | apply State.failDrive_keeps | fail_if_no_progress refine Keeps.of_mk ?_)

theorem State.bringUp_keeps {z s : State} (d : Nat) (hK : Keeps z s) : Keeps z (State.bringUp s d) := by
  unfold State.bringUp; with_reducible repeat' (first | assumption | apply Keeps.ite | split | apply State.wr_keeps | apply State.driveState_keeps | fail_if_no_progress refine Keeps.of_mk ?_)

theorem execDriveInsert_keeps {z s : State} (t : Nat) (d : Nat) (lbas : Nat) (lbaSize : Nat) (own : Bool) (gen : Nat) (width : Nat) (hK : Keeps z s) : KeepsR z (execDriveInsert t d lbas lbaSize own gen width s) := by
  unfold execDriveInsert; with_reducible repeat' (first | assumption | refine KeepsR.of_next ?_ | (extract_lets +implicits +onlyGivenNames x; first | (refine Keeps.named (z := z) (x := x) ?_ fun hx => ?_; (on_goal 1 => dsimp -zeta only [x]; clear x); (on_goal 2 => clear_value x)) | clear_value x) | apply Keeps.ite | split | apply State.at_keeps | apply State.wr_keeps | apply State.setDrive_keeps | apply State.bringUp_keeps | fail_if_no_progress refine Keeps.of_mk ?_)

theorem State.sbAdopt_keeps {z s : State} (hK : Keeps z s) : Keeps z (State.sbAdopt s) := by
  unfold State.sbAdopt; with_reducible repeat' (first | assumption | (extract_lets +implicits +onlyGivenNames x; first | (refine Keeps.named (z := z) (x := x) ?_ fun hx => ?_; (on_goal 1 => dsimp -zeta only [x]; clear x); (on_goal 2 => clear_value x)) | clear_value x) | apply State.bringUp_keeps | fail_if_no_progress refine Keeps.of_mk ?_)

theorem execSbAdopt_keeps {z s : State} (t : Nat) (hK : Keeps z s) : KeepsR z (execSbAdopt t s) := by
  unfold execSbAdopt; with_reducible repeat' (first | assumption | refine KeepsR.of_next ?_ | apply State.at_keeps | apply State.sbAdopt_keeps | fail_if_no_progress refine Keeps.of_mk ?_)

theorem execRebuildComplete_keeps {z s : State} (t : Nat) (d : Nat) (hK : Keeps z s) : KeepsR z (execRebuildComplete t d s) := by
  unfold execRebuildComplete; with_reducible repeat' (first | assumption | refine KeepsR.of_next ?_ | (extract_lets +implicits +onlyGivenNames x; first | (refine Keeps.named (z := z) (x := x) ?_ fun hx => ?_; (on_goal 1 => dsimp -zeta only [x]; clear x); (on_goal 2 => clear_value x)) | clear_value x) | apply Keeps.ite | split | apply State.at_keeps | apply State.setDrive_keeps | apply State.wr_keeps | apply State.driveState_keeps | fail_if_no_progress refine Keeps.of_mk ?_)

theorem State.keyStart_keeps {z s : State} (hK : Keeps z s) : Keeps z (State.keyStart s) := by
  unfold State.keyStart; with_reducible repeat' (first | assumption | (extract_lets +implicits +onlyGivenNames x; first | (refine Keeps.named (z := z) (x := x) ?_ fun hx => ?_; (on_goal 1 => dsimp -zeta only [x]; clear x); (on_goal 2 => clear_value x)) | clear_value x) | apply State.set1_keeps | apply State.archive_keeps | fail_if_no_progress refine Keeps.of_mk ?_)

theorem State.keyRequest_keeps {z s : State} (hK : Keeps z s) : Keeps z (State.keyRequest s) := by
  unfold State.keyRequest; with_reducible repeat' (first | assumption | apply Keeps.ite | split | apply State.ignoreWrite_keeps | apply State.keyStart_keeps | fail_if_no_progress refine Keeps.of_mk ?_)

theorem execKeyframeStart_keeps {z s : State} (t : Nat) (write : Bool) (hK : Keeps z s) : KeepsR z (execKeyframeStart t write s) := by
  unfold execKeyframeStart; with_reducible repeat' (first | assumption | refine KeepsR.of_next ?_ | (extract_lets +implicits +onlyGivenNames x; first | (refine Keeps.named (z := z) (x := x) ?_ fun hx => ?_; (on_goal 1 => dsimp -zeta only [x]; clear x); (on_goal 2 => clear_value x)) | clear_value x) | apply Keeps.ite | split | apply State.at_keeps | apply State.keyRequest_keeps | apply State.keyStart_keeps | fail_if_no_progress refine Keeps.of_mk ?_)

theorem State.archiveBlocks_keeps {z s : State} (bs : List (List Byte)) (hK : Keeps z s) : Keeps z (State.archiveBlocks s bs) := by
  unfold State.archiveBlocks; with_reducible repeat' (first | assumption | intro x y hx | split | apply State.archive_keeps | apply Keeps.foldl | apply Keeps.foldl_snd | apply Keeps.foldl_snd2 | apply Keeps.foldl_fst | fail_if_no_progress refine Keeps.of_mk ?_)

theorem State.keyEnd_keeps {z s : State} (n : Nat) (hK : Keeps z s) : Keeps z (State.keyEnd s n) := by
  unfold State.keyEnd; with_reducible repeat' (first | assumption | (extract_lets +implicits +onlyGivenNames x; first | (refine Keeps.named (z := z) (x := x) ?_ fun hx => ?_; (on_goal 1 => dsimp -zeta only [x]; clear x); (on_goal 2 => clear_value x)) | clear_value x) | apply State.archive_keeps | apply State.wr_keeps | apply State.sbIrq_keeps | fail_if_no_progress refine Keeps.of_mk ?_)

theorem State.archiveScene_keeps {z s : State} (i : Nat) (hK : Keeps z s) : Keeps z (State.archiveScene s i) := by
  unfold State.archiveScene; with_reducible repeat' (first | assumption | (extract_lets +implicits +onlyGivenNames x; first | (refine Keeps.named (z := z) (x := x) ?_ fun hx => ?_; (on_goal 1 => dsimp -zeta only [x]; clear x); (on_goal 2 => clear_value x)) | (refine Keeps.named_snd (z := z) (x := x) ?_ fun hx => ?_; (on_goal 1 => dsimp -zeta only [x]; clear x); (on_goal 2 => clear_value x)) | clear_value x) | apply State.memRead_keeps | refine Keeps.of_pair (by assumption) (State.memRead_keeps _ _ _ ?_) | apply State.archive_keeps | fail_if_no_progress refine Keeps.of_mk ?_ | refine Keeps.of_pair (by assumption) ?_ | refine Keeps.of_pair_fst (by assumption) ?_)

theorem State.keyCapture_keeps {z s : State} (hK : Keeps z s) : Keeps z (State.keyCapture s) := by
  unfold State.keyCapture; with_reducible repeat' (first | assumption | intro x y hx | (extract_lets +implicits +onlyGivenNames x; first | (refine Keeps.named (z := z) (x := x) ?_ fun hx => ?_; (on_goal 1 => dsimp -zeta only [x]; clear x); (on_goal 2 => clear_value x)) | (refine Keeps.named_snd (z := z) (x := x) ?_ fun hx => ?_; (on_goal 1 => dsimp -zeta only [x]; clear x); (on_goal 2 => clear_value x)) | (refine Keeps.named_fst (z := z) (x := x) ?_ fun hx => ?_; (on_goal 1 => dsimp -zeta only [x]; clear x); (on_goal 2 => clear_value x)) | clear_value x) | apply State.archiveScene_keeps | apply State.archiveBlocks_keeps | apply State.archive_keeps | apply State.keyEnd_keeps | apply State.unitsResume_keeps | apply Keeps.foldl | apply Keeps.foldl_snd | apply Keeps.foldl_snd2 | apply Keeps.foldl_fst | fail_if_no_progress refine Keeps.of_mk ?_)

theorem execKeyframeHold_keeps {z s : State} (t : Nat) (ends : Bool) (hK : Keeps z s) : KeepsR z (execKeyframeHold t ends s) := by
  unfold execKeyframeHold; with_reducible repeat' (first | assumption | refine KeepsR.of_next ?_ | (extract_lets +implicits +onlyGivenNames x; first | (refine Keeps.named (z := z) (x := x) ?_ fun hx => ?_; (on_goal 1 => dsimp -zeta only [x]; clear x); (on_goal 2 => clear_value x)) | clear_value x) | apply Keeps.ite | split | apply State.at_keeps | apply State.keyCapture_keeps | fail_if_no_progress refine Keeps.of_mk ?_)

theorem State.sbFreeze_keeps {z s : State} (hK : Keeps z s) : Keeps z (State.sbFreeze s) := by
  unfold State.sbFreeze; with_reducible repeat' (first | assumption | apply State.freezeSpan_keeps | fail_if_no_progress refine Keeps.of_mk ?_)

theorem execSbFreeze_keeps {z s : State} (t : Nat) (hK : Keeps z s) : KeepsR z (execSbFreeze t s) := by
  unfold execSbFreeze; with_reducible repeat' (first | assumption | refine KeepsR.of_next ?_ | apply State.at_keeps | apply State.sbFreeze_keeps | fail_if_no_progress refine Keeps.of_mk ?_)

theorem State.sbUnfreeze_keeps {z s : State} (i : Nat) (hK : Keeps z s) : Keeps z (State.sbUnfreeze s i) := by
  unfold State.sbUnfreeze; with_reducible repeat' (first | assumption | (extract_lets +implicits +onlyGivenNames x; first | (refine Keeps.named (z := z) (x := x) ?_ fun hx => ?_; (on_goal 1 => dsimp -zeta only [x]; clear x); (on_goal 2 => clear_value x)) | clear_value x) | apply Keeps.ite | split | apply State.wr_keeps | fail_if_no_progress refine Keeps.of_mk ?_)

theorem execSbUnfreeze_keeps {z s : State} (t : Nat) (i : Nat) (hK : Keeps z s) : KeepsR z (execSbUnfreeze t i s) := by
  unfold execSbUnfreeze; with_reducible repeat' (first | assumption | refine KeepsR.of_next ?_ | apply State.at_keeps | apply State.sbUnfreeze_keeps | fail_if_no_progress refine Keeps.of_mk ?_)

theorem State.sbRead_keeps {z s : State} (w : Word) (hK : Keeps z s) : Keeps z (State.sbRead s w) := by
  unfold State.sbRead; with_reducible repeat' (first | assumption | (extract_lets +implicits +onlyGivenNames x; first | (refine Keeps.named (z := z) (x := x) ?_ fun hx => ?_; (on_goal 1 => dsimp -zeta only [x]; clear x); (on_goal 2 => clear_value x)) | clear_value x) | apply Keeps.ite | split | apply State.ignoreWrite_keeps | apply State.set1_keeps | fail_if_no_progress refine Keeps.of_mk ?_)

theorem execSbReadStart_keeps {z s : State} (t : Nat) (w : Word) (hK : Keeps z s) : KeepsR z (execSbReadStart t w s) := by
  unfold execSbReadStart; with_reducible repeat' (first | assumption | refine KeepsR.of_next ?_ | apply State.at_keeps | apply State.sbRead_keeps | fail_if_no_progress refine Keeps.of_mk ?_)

theorem State.readArrives_keeps {z s : State} (data : Option (List Byte)) (hK : Keeps z s) : Keeps z (State.readArrives s data) := by
  unfold State.readArrives; with_reducible repeat' (first | assumption | (extract_lets +implicits +onlyGivenNames x; first | (refine Keeps.named (z := z) (x := x) ?_ fun hx => ?_; (on_goal 1 => dsimp -zeta only [x]; clear x); (on_goal 2 => clear_value x)) | clear_value x) | apply Keeps.ite | split | apply State.wr_keeps | apply State.sbIrq_keeps | apply State.archiveInput_keeps | apply State.memWrite_keeps | apply State.denyWrite_keeps | fail_if_no_progress refine Keeps.of_mk ?_ | refine Keeps.of_pair (by assumption) ?_ | refine Keeps.of_pair_fst (by assumption) ?_)

theorem execSbReadComplete_keeps {z s : State} (t : Nat) (data : Option (List Byte)) (hK : Keeps z s) : KeepsR z (execSbReadComplete t data s) := by
  unfold execSbReadComplete; with_reducible repeat' (first | assumption | refine KeepsR.of_next ?_ | (extract_lets +implicits +onlyGivenNames x; first | (refine Keeps.named (z := z) (x := x) ?_ fun hx => ?_; (on_goal 1 => dsimp -zeta only [x]; clear x); (on_goal 2 => clear_value x)) | clear_value x) | apply Keeps.ite | split | apply State.at_keeps | apply State.journalIn_keeps | apply State.readArrives_keeps | fail_if_no_progress refine Keeps.of_mk ?_)

end Sys2Proof.Machine
end

