-- ==== Sys2Proof/Laws/KeepsDma.lean ====
section
/-! SUPPORT. What the functions of Dma keep (see Keeps). -/

set_option linter.all false

namespace Sys2Proof.Machine

theorem State.setDma_keeps {z s : State} (e : Nat) (d : DmaS) (hK : Keeps z s) : Keeps z (State.setDma s e d) := by
  unfold State.setDma; with_reducible repeat' (first | assumption | (extract_lets +implicits +onlyGivenNames x; first | (refine Keeps.named (z := z) (x := x) ?_ fun hx => ?_; (on_goal 1 => dsimp -zeta only [x]; clear x); (on_goal 2 => clear_value x)) | clear_value x) | split | fail_if_no_progress refine Keeps.of_mk ?_)

theorem State.dmaStart_keeps {z s : State} (e : Nat) (c : Nat) (hK : Keeps z s) : Keeps z (State.dmaStart s e c) := by
  unfold State.dmaStart; with_reducible repeat' (first | assumption | (extract_lets +implicits +onlyGivenNames x; first | (refine Keeps.named (z := z) (x := x) ?_ fun hx => ?_; (on_goal 1 => dsimp -zeta only [x]; clear x); (on_goal 2 => clear_value x)) | clear_value x) | apply Keeps.ite | split | apply State.ignoreWrite_keeps | apply State.setDma_keeps | fail_if_no_progress refine Keeps.of_mk ?_)

theorem execDmaChStart_keeps {z s : State} (t : Nat) (e : Nat) (c : Nat) (hK : Keeps z s) : KeepsR z (execDmaChStart t e c s) := by
  unfold execDmaChStart; with_reducible repeat' (first | assumption | refine KeepsR.of_next ?_ | apply State.at_keeps | apply State.dmaStart_keeps | fail_if_no_progress refine Keeps.of_mk ?_)

theorem State.dmaBegin_keeps {z s : State} (e : Nat) (c : Nat) (hK : Keeps z s) : Keeps z (State.dmaBegin s e c) := by
  unfold State.dmaBegin; with_reducible repeat' (first | assumption | (extract_lets +implicits +onlyGivenNames x; first | (refine Keeps.named (z := z) (x := x) ?_ fun hx => ?_; (on_goal 1 => dsimp -zeta only [x]; clear x); (on_goal 2 => clear_value x)) | clear_value x) | apply State.setDma_keeps | apply State.set1_keeps | apply State.wr_keeps | fail_if_no_progress refine Keeps.of_mk ?_)

theorem execDmaChannelTake_keeps {z s : State} (t : Nat) (e : Nat) (hK : Keeps z s) : KeepsR z (execDmaChannelTake t e s) := by
  unfold execDmaChannelTake; with_reducible repeat' (first | assumption | refine KeepsR.of_next ?_ | (extract_lets +implicits +onlyGivenNames x; first | (refine Keeps.named (z := z) (x := x) ?_ fun hx => ?_; (on_goal 1 => dsimp -zeta only [x]; clear x); (on_goal 2 => clear_value x)) | clear_value x) | apply Keeps.ite | split | apply State.at_keeps | apply State.dmaBegin_keeps | fail_if_no_progress refine Keeps.of_mk ?_ | refine Keeps.of_pair (by assumption) ?_ | refine Keeps.of_pair_fst (by assumption) ?_)

theorem State.dmaIdle_keeps {z s : State} (e : Nat) (c : Nat) (hK : Keeps z s) : Keeps z (State.dmaIdle s e c) := by
  unfold State.dmaIdle; with_reducible repeat' (first | assumption | (extract_lets +implicits +onlyGivenNames x; first | (refine Keeps.named (z := z) (x := x) ?_ fun hx => ?_; (on_goal 1 => dsimp -zeta only [x]; clear x); (on_goal 2 => clear_value x)) | clear_value x) | apply State.setDma_keeps | apply State.wr_keeps | fail_if_no_progress refine Keeps.of_mk ?_)

theorem State.dmaHalt_keeps {z s : State} (e : Nat) (c : Nat) (status : Nat) (addr : Nat) (write : Bool) (phase : Nat) (hK : Keeps z s) : Keeps z (State.dmaHalt s e c status addr write phase) := by
  unfold State.dmaHalt; with_reducible repeat' (first | assumption | (extract_lets +implicits +onlyGivenNames x; first | (refine Keeps.named (z := z) (x := x) ?_ fun hx => ?_; (on_goal 1 => dsimp -zeta only [x]; clear x); (on_goal 2 => clear_value x)) | clear_value x) | apply State.dmaIdle_keeps | apply State.set1_keeps | apply State.wr_keeps | apply State.setDma_keeps | apply State.raise_keeps | fail_if_no_progress refine Keeps.of_mk ?_)

theorem State.readDesc_keeps {z s : State} (e : Nat) (a : Nat) (hK : Keeps z s) : Keeps z (State.readDesc s e a).2 := by
  unfold State.readDesc; with_reducible repeat' (first | assumption | (extract_lets +implicits +onlyGivenNames x; first | (refine Keeps.named (z := z) (x := x) ?_ fun hx => ?_; (on_goal 1 => dsimp -zeta only [x]; clear x); (on_goal 2 => clear_value x)) | (refine Keeps.named_snd (z := z) (x := x) ?_ fun hx => ?_; (on_goal 1 => dsimp -zeta only [x]; clear x); (on_goal 2 => clear_value x)) | clear_value x) | apply Keeps.ite | split | apply State.memRead_keeps | refine Keeps.of_pair (by assumption) (State.memRead_keeps _ _ _ ?_) | fail_if_no_progress refine Keeps.of_mk ?_ | refine Keeps.of_pair (by assumption) ?_ | refine Keeps.of_pair_fst (by assumption) ?_)

theorem execDmaDescriptorFetch_keeps {z s : State} (t : Nat) (e : Nat) (hK : Keeps z s) : KeepsR z (execDmaDescriptorFetch t e s) := by
  unfold execDmaDescriptorFetch; with_reducible repeat' (first | assumption | refine KeepsR.of_next ?_ | (extract_lets +implicits +onlyGivenNames x; first | (refine Keeps.named (z := z) (x := x) ?_ fun hx => ?_; (on_goal 1 => dsimp -zeta only [x]; clear x); (on_goal 2 => clear_value x)) | (refine Keeps.named_snd (z := z) (x := x) ?_ fun hx => ?_; (on_goal 1 => dsimp -zeta only [x]; clear x); (on_goal 2 => clear_value x)) | clear_value x) | apply Keeps.ite | split | apply State.at_keeps | apply State.wr_keeps | apply State.readDesc_keeps | refine Keeps.of_pair (by assumption) (State.readDesc_keeps _ _ ?_) | apply State.dmaHalt_keeps | apply State.setDma_keeps | fail_if_no_progress refine Keeps.of_mk ?_ | refine Keeps.of_pair (by assumption) ?_ | refine Keeps.of_pair_fst (by assumption) ?_)

theorem State.dmaResume_keeps {z s : State} (e : Nat) (hK : Keeps z s) : Keeps z (State.dmaResume s e) := by
  unfold State.dmaResume; with_reducible repeat' (first | assumption | apply State.wr_keeps | fail_if_no_progress refine Keeps.of_mk ?_)

theorem execDmaResume_keeps {z s : State} (t : Nat) (e : Nat) (hK : Keeps z s) : KeepsR z (execDmaResume t e s) := by
  unfold execDmaResume; with_reducible repeat' (first | assumption | refine KeepsR.of_next ?_ | apply State.at_keeps | apply State.dmaResume_keeps | fail_if_no_progress refine Keeps.of_mk ?_)

theorem State.dmaWord5_keeps {z s : State} (e : Nat) (a : Nat) (v : Nat) (hK : Keeps z s) : Keeps z (State.dmaWord5 s e a v) := by
  unfold State.dmaWord5; with_reducible repeat' (first | assumption | (extract_lets +implicits +onlyGivenNames x; first | (refine Keeps.named (z := z) (x := x) ?_ fun hx => ?_; (on_goal 1 => dsimp -zeta only [x]; clear x); (on_goal 2 => clear_value x)) | clear_value x) | split | apply State.memWrite_keeps | apply State.portWrite_keeps | fail_if_no_progress refine Keeps.of_mk ?_ | refine Keeps.of_pair (by assumption) ?_ | refine Keeps.of_pair_fst (by assumption) ?_)

theorem State.dmaStop_keeps {z s : State} (e : Nat) (c : Nat) (hK : Keeps z s) : Keeps z (State.dmaStop s e c) := by
  unfold State.dmaStop; with_reducible repeat' (first | assumption | (extract_lets +implicits +onlyGivenNames x; first | (refine Keeps.named (z := z) (x := x) ?_ fun hx => ?_; (on_goal 1 => dsimp -zeta only [x]; clear x); (on_goal 2 => clear_value x)) | clear_value x) | apply State.dmaWord5_keeps | apply State.wr_keeps | apply State.setDma_keeps | apply State.dmaIdle_keeps | fail_if_no_progress refine Keeps.of_mk ?_)

end Sys2Proof.Machine
end

