-- ==== Sys2Proof/Laws/KeepsRim.lean ====
section
/-! SUPPORT. What the functions of Rim keep (see Keeps). -/

set_option linter.all false

namespace Sys2Proof.Machine

theorem State.derCtrlWrite_keeps {z s : State} (new : Word) (v : Word) (hK : Keeps z s) : Keeps z (State.derCtrlWrite s new v) := by
  unfold State.derCtrlWrite; with_reducible repeat' (first | assumption | (extract_lets +implicits +onlyGivenNames x; first | (refine Keeps.named (z := z) (x := x) ?_ fun hx => ?_; (on_goal 1 => dsimp -zeta only [x]; clear x); (on_goal 2 => clear_value x)) | clear_value x) | apply Keeps.ite | split | apply State.setReg_keeps | apply State.derDisable_keeps | apply State.reevalAll_keeps | fail_if_no_progress refine Keeps.of_mk ?_)

theorem State.beamEventWrite_keeps {z s : State} (r : RegHit) (v : Word) (new : Word) (hK : Keeps z s) : Keeps z (State.beamEventWrite s r v new) := by
  unfold State.beamEventWrite; with_reducible repeat' (first | assumption | (extract_lets +implicits +onlyGivenNames x; first | (refine Keeps.named (z := z) (x := x) ?_ fun hx => ?_; (on_goal 1 => dsimp -zeta only [x]; clear x); (on_goal 2 => clear_value x)) | clear_value x) | apply Keeps.ite | split | apply State.ignoreWrite_keeps | apply State.setReg_keeps | fail_if_no_progress refine Keeps.of_mk ?_)

theorem State.bltCtrlWrite_keeps {z s : State} (q : Nat) (new : Word) (v : Word) (hK : Keeps z s) : Keeps z (State.bltCtrlWrite s q new v) := by
  unfold State.bltCtrlWrite; with_reducible repeat' (first | assumption | (extract_lets +implicits +onlyGivenNames x; first | (refine Keeps.named (z := z) (x := x) ?_ fun hx => ?_; (on_goal 1 => dsimp -zeta only [x]; clear x); (on_goal 2 => clear_value x)) | clear_value x) | apply Keeps.ite | split | apply State.setReg_keeps | apply State.setBlt_keeps | apply State.bltCancel_keeps | fail_if_no_progress refine Keeps.of_mk ?_ | refine Keeps.of_pair (by assumption) ?_ | refine Keeps.of_pair_fst (by assumption) ?_)

theorem State.dmaCtrlWrite_keeps {z s : State} (e : Nat) (c : Nat) (new : Word) (v : Word) (hK : Keeps z s) : Keeps z (State.dmaCtrlWrite s e c new v) := by
  unfold State.dmaCtrlWrite; with_reducible repeat' (first | assumption | (extract_lets +implicits +onlyGivenNames x; first | (refine Keeps.named (z := z) (x := x) ?_ fun hx => ?_; (on_goal 1 => dsimp -zeta only [x]; clear x); (on_goal 2 => clear_value x)) | clear_value x) | apply Keeps.ite | split | apply State.setReg_keeps | apply State.dmaStop_keeps | apply State.dmaStart_keeps | fail_if_no_progress refine Keeps.of_mk ?_)

theorem State.tandemCtrlWrite_keeps {z s : State} (new : Word) (v : Word) (hK : Keeps z s) : Keeps z (State.tandemCtrlWrite s new v) := by
  unfold State.tandemCtrlWrite; with_reducible repeat' (first | assumption | (extract_lets +implicits +onlyGivenNames x; first | (refine Keeps.named (z := z) (x := x) ?_ fun hx => ?_; (on_goal 1 => dsimp -zeta only [x]; clear x); (on_goal 2 => clear_value x)) | clear_value x) | apply Keeps.ite | split | apply State.setReg_keeps | apply State.emit_keeps | fail_if_no_progress refine Keeps.of_mk ?_)

theorem State.pelCtrlWrite_keeps {z s : State} (v : Word) (hK : Keeps z s) : Keeps z (State.pelCtrlWrite s v) := by
  unfold State.pelCtrlWrite; with_reducible repeat' (first | assumption | (extract_lets +implicits +onlyGivenNames x; first | (refine Keeps.named (z := z) (x := x) ?_ fun hx => ?_; (on_goal 1 => dsimp -zeta only [x]; clear x); (on_goal 2 => clear_value x)) | clear_value x) | apply Keeps.ite | split | apply State.pelJoin_keeps | apply State.leavePeloton_keeps | apply State.pelSend_keeps | fail_if_no_progress refine Keeps.of_mk ?_)

theorem State.odoCtrlWrite_keeps {z s : State} (new : Word) (v : Word) (hK : Keeps z s) : Keeps z (State.odoCtrlWrite s new v) := by
  unfold State.odoCtrlWrite; with_reducible repeat' (first | assumption | (extract_lets +implicits +onlyGivenNames x; first | (refine Keeps.named (z := z) (x := x) ?_ fun hx => ?_; (on_goal 1 => dsimp -zeta only [x]; clear x); (on_goal 2 => clear_value x)) | clear_value x) | apply Keeps.ite | split | apply State.setReg_keeps | apply State.odoForget_keeps | apply State.odoSnap_keeps | fail_if_no_progress refine Keeps.of_mk ?_)

theorem State.sbCtrlWrite_keeps {z s : State} (new : Word) (v : Word) (hK : Keeps z s) : Keeps z (State.sbCtrlWrite s new v) := by
  unfold State.sbCtrlWrite; with_reducible repeat' (first | assumption | (extract_lets +implicits +onlyGivenNames x; first | (refine Keeps.named (z := z) (x := x) ?_ fun hx => ?_; (on_goal 1 => dsimp -zeta only [x]; clear x); (on_goal 2 => clear_value x)) | clear_value x) | apply Keeps.ite | split | apply State.setReg_keeps | apply State.sbFlush_keeps | apply State.keyRequest_keeps | apply State.sbFreeze_keeps | apply State.sbUnfreeze_keeps | apply State.sbAdopt_keeps | fail_if_no_progress refine Keeps.of_mk ?_)

theorem State.faultCtrlWrite_keeps {z s : State} (new : Word) (v : Word) (hK : Keeps z s) : Keeps z (State.faultCtrlWrite s new v) := by
  unfold State.faultCtrlWrite; with_reducible repeat' (first | assumption | (extract_lets +implicits +onlyGivenNames x; first | (refine Keeps.named (z := z) (x := x) ?_ fun hx => ?_; (on_goal 1 => dsimp -zeta only [x]; clear x); (on_goal 2 => clear_value x)) | clear_value x) | apply Keeps.ite | split | apply State.setReg_keeps | apply State.faultRelease_keeps | apply State.clearRecovery_keeps | fail_if_no_progress refine Keeps.of_mk ?_)

theorem State.gsCtrlWrite_keeps {z s : State} (new : Word) (v : Word) (hK : Keeps z s) : Keeps z (State.gsCtrlWrite s new v) := by
  unfold State.gsCtrlWrite; with_reducible repeat' (first | assumption | (extract_lets +implicits +onlyGivenNames x; first | (refine Keeps.named (z := z) (x := x) ?_ fun hx => ?_; (on_goal 1 => dsimp -zeta only [x]; clear x); (on_goal 2 => clear_value x)) | clear_value x) | apply Keeps.ite | split | apply State.setReg_keeps | apply State.gsAbort_keeps | apply State.gsCheck_keeps | fail_if_no_progress refine Keeps.of_mk ?_)

theorem State.narrowWrite_keeps {z s : State} (m : Master) (r : RegHit) (v : Word) (new : Word) (hK : Keeps z s) : Keeps z (State.narrowWrite s m r v new) := by
  unfold State.narrowWrite; with_reducible repeat' (first | assumption | (extract_lets +implicits +onlyGivenNames x; first | (refine Keeps.named (z := z) (x := x) ?_ fun hx => ?_; (on_goal 1 => dsimp -zeta only [x]; clear x); (on_goal 2 => clear_value x)) | clear_value x) | apply Keeps.ite | split | apply State.gsCtrlWrite_keeps | apply State.stagePtr_keeps | apply State.stageData_keeps | apply State.setReg_keeps | apply State.ingInit_keeps | apply State.derCtrlWrite_keeps | apply State.derReeval_keeps | apply State.beamCancel_keeps | apply State.beamCommit_keeps | apply State.beamEventWrite_keeps | apply State.txCtrlWrite_keeps | apply State.auxRequest_keeps | apply State.refreshPhy_keeps | apply State.tandemCtrlWrite_keeps | apply State.takeRequest_keeps | apply State.pelCtrlWrite_keeps | apply State.odoCtrlWrite_keeps | apply State.ignoreWrite_keeps | apply State.bltCtrlWrite_keeps | apply State.bltWr_keeps | apply State.cueWrite_keeps | apply State.xpWrite_keeps | apply State.sinkWrite_keeps | apply State.busGainWrite_keeps | apply State.bellEdge_keeps | apply State.eoi_keeps | apply State.fastEoi_keeps | apply State.setTimerCtrl_keeps | apply State.timerSnap_keeps | apply State.dmaResume_keeps | apply State.dmaCtrlWrite_keeps | apply State.sbCtrlWrite_keeps | apply State.sbRead_keeps | apply State.faultCtrlWrite_keeps | apply State.faultInject_keeps | apply State.wdogKick_keeps | apply State.powerRequest_keeps | fail_if_no_progress refine Keeps.of_mk ?_ | refine Keeps.of_pair (by assumption) ?_ | refine Keeps.of_pair_fst (by assumption) ?_)

theorem State.wideWrite_keeps {z s : State} (r : RegHit) (v : Nat) (hK : Keeps z s) : Keeps z (State.wideWrite s r v) := by
  unfold State.wideWrite; with_reducible repeat' (first | assumption | intro x y hx | (extract_lets +implicits +onlyGivenNames x; first | (refine Keeps.named (z := z) (x := x) ?_ fun hx => ?_; (on_goal 1 => dsimp -zeta only [x]; clear x); (on_goal 2 => clear_value x)) | (refine Keeps.named_snd (z := z) (x := x) ?_ fun hx => ?_; (on_goal 1 => dsimp -zeta only [x]; clear x); (on_goal 2 => clear_value x)) | (refine Keeps.named_fst (z := z) (x := x) ?_ fun hx => ?_; (on_goal 1 => dsimp -zeta only [x]; clear x); (on_goal 2 => clear_value x)) | clear_value x) | apply Keeps.ite | split | apply State.applyRequest_keeps | apply State.commitFrame_keeps | apply State.odoSet_keeps | apply State.setCount_keeps | apply State.setCompare_keeps | apply State.wr64_keeps | apply State.wr_keeps | apply State.ignoreWrite_keeps | apply Keeps.foldl | apply Keeps.foldl_snd | apply Keeps.foldl_snd2 | apply Keeps.foldl_fst | fail_if_no_progress refine Keeps.of_mk ?_ | refine Keeps.of_pair (by assumption) ?_ | refine Keeps.of_pair_fst (by assumption) ?_)

theorem State.wordWrite_keeps {z s : State} (r : RegHit) (v : Word) (hK : Keeps z s) : Keeps z (State.wordWrite s r v) := by
  unfold State.wordWrite; with_reducible repeat' (first | assumption | (extract_lets +implicits +onlyGivenNames x; first | (refine Keeps.named (z := z) (x := x) ?_ fun hx => ?_; (on_goal 1 => dsimp -zeta only [x]; clear x); (on_goal 2 => clear_value x)) | clear_value x) | apply Keeps.ite | split | apply State.wideWrite_keeps | fail_if_no_progress refine Keeps.of_mk ?_)

theorem State.wakeWrite_keeps {z s : State} (r : RegHit) (hK : Keeps z s) : Keeps z (State.wakeWrite s r) := by
  unfold State.wakeWrite; with_reducible repeat' (first | assumption | apply Keeps.ite | split | apply State.wake_keeps | fail_if_no_progress refine Keeps.of_mk ?_)

theorem State.regWrite_keeps {z s : State} (m : Master) (r : RegHit) (w : Word) (hK : Keeps z s) : Keeps z (State.regWrite s m r w) := by
  unfold State.regWrite; with_reducible repeat' (first | assumption | (extract_lets +implicits +onlyGivenNames x; first | (refine Keeps.named (z := z) (x := x) ?_ fun hx => ?_; (on_goal 1 => dsimp -zeta only [x]; clear x); (on_goal 2 => clear_value x)) | clear_value x) | apply Keeps.ite | split | apply State.wordWrite_keeps | apply State.wakeWrite_keeps | apply State.ignoreWrite_keeps | apply State.narrowWrite_keeps | fail_if_no_progress refine Keeps.of_mk ?_)

theorem State.rimApply_keeps {z s : State} (m : Master) (a : Nat) (w : Word) (size : Nat) (hK : Keeps z s) : Keeps z (State.rimApply s m a w size) := by
  unfold State.rimApply; with_reducible repeat' (first | assumption | (extract_lets +implicits +onlyGivenNames x; first | (refine Keeps.named (z := z) (x := x) ?_ fun hx => ?_; (on_goal 1 => dsimp -zeta only [x]; clear x); (on_goal 2 => clear_value x)) | clear_value x) | apply Keeps.ite | split | apply State.ignoreArray_keeps | apply State.rimArray_keeps | apply State.countUnmapped_keeps | apply State.satInc_keeps | apply State.ignoreWrite_keeps | apply State.regWrite_keeps | fail_if_no_progress refine Keeps.of_mk ?_ | refine Keeps.of_pair (by assumption) ?_ | refine Keeps.of_pair_fst (by assumption) ?_)

theorem State.restand_keeps {z s : State} (r : RegHit) (w : RimWrite) (hK : Keeps z s) : Keeps z (State.restand s r w) := by
  unfold State.restand; with_reducible repeat' (first | assumption | (extract_lets +implicits +onlyGivenNames x; first | (refine Keeps.named (z := z) (x := x) ?_ fun hx => ?_; (on_goal 1 => dsimp -zeta only [x]; clear x); (on_goal 2 => clear_value x)) | clear_value x) | apply Keeps.ite | split | apply State.setReg_keeps | fail_if_no_progress refine Keeps.of_mk ?_)

theorem State.regLands_keeps {z s : State} (r : RegHit) (w : RimWrite) (hK : Keeps z s) : Keeps z (State.regLands s r w) := by
  unfold State.regLands; with_reducible repeat' (first | assumption | intro x y hx | (extract_lets +implicits +onlyGivenNames x; first | (refine Keeps.named (z := z) (x := x) ?_ fun hx => ?_; (on_goal 1 => dsimp -zeta only [x]; clear x); (on_goal 2 => clear_value x)) | (refine Keeps.named_snd (z := z) (x := x) ?_ fun hx => ?_; (on_goal 1 => dsimp -zeta only [x]; clear x); (on_goal 2 => clear_value x)) | (refine Keeps.named_fst (z := z) (x := x) ?_ fun hx => ?_; (on_goal 1 => dsimp -zeta only [x]; clear x); (on_goal 2 => clear_value x)) | clear_value x) | apply Keeps.ite | split | apply State.rimApply_keeps | apply State.restand_keeps | apply State.satInc_keeps | apply State.wr_keeps | apply Keeps.foldl | apply Keeps.foldl_snd | apply Keeps.foldl_snd2 | apply Keeps.foldl_fst | fail_if_no_progress refine Keeps.of_mk ?_)

theorem State.rimWrite_keeps {z s : State} (m : Master) (a : Nat) (v : Word) (size : Nat) (hK : Keeps z s) : Keeps z (State.rimWrite s m a v size) := by
  unfold State.rimWrite; with_reducible repeat' (first | assumption | (extract_lets +implicits +onlyGivenNames x; first | (refine Keeps.named (z := z) (x := x) ?_ fun hx => ?_; (on_goal 1 => dsimp -zeta only [x]; clear x); (on_goal 2 => clear_value x)) | clear_value x) | apply Keeps.ite | split | apply State.regLands_keeps | apply State.rimApply_keeps | fail_if_no_progress refine Keeps.of_mk ?_ | refine Keeps.of_pair (by assumption) ?_ | refine Keeps.of_pair_fst (by assumption) ?_)

theorem State.rimWrites_keeps {z s : State} (ws : List RimWrite) (hK : Keeps z s) : Keeps z (State.rimWrites s ws) := by
  unfold State.rimWrites; with_reducible repeat' (first | assumption | intro x y hx | split | apply State.rimWrite_keeps | apply Keeps.foldl | apply Keeps.foldl_snd | apply Keeps.foldl_snd2 | apply Keeps.foldl_fst | fail_if_no_progress refine Keeps.of_mk ?_)

theorem execRegisterWrite_keeps {z s : State} (t : Nat) (ws : List RimWrite) (hK : Keeps z s) : KeepsR z (execRegisterWrite t ws s) := by
  unfold execRegisterWrite; with_reducible repeat' (first | assumption | refine KeepsR.of_next ?_ | apply State.at_keeps | apply State.rimWrites_keeps | fail_if_no_progress refine Keeps.of_mk ?_)

end Sys2Proof.Machine
end

