-- ==== Sys2Proof/Laws/KeepsOperands.lean ====
section
/-! SUPPORT. What the functions of Operands keep (see Keeps). -/

set_option linter.all false

namespace Sys2Proof.Machine

theorem State.privLoad_keeps {z s : State} (k : Nat) (o : Nat) (hK : Keeps z s) : Keeps z (State.privLoad s k o).2 := by
  unfold State.privLoad; with_reducible repeat' (first | assumption | (extract_lets +implicits +onlyGivenNames x; first | (refine Keeps.named (z := z) (x := x) ?_ fun hx => ?_; (on_goal 1 => dsimp -zeta only [x]; clear x); (on_goal 2 => clear_value x)) | clear_value x) | apply Keeps.ite | split | fail_if_no_progress refine Keeps.of_mk ?_)

theorem State.loadAt_keeps {z s : State} (k : Nat) (ea : Nat) (n : Nat) (hK : Keeps z s) : Keeps z (State.loadAt s k ea n).2 := by
  unfold State.loadAt; with_reducible repeat' (first | assumption | (extract_lets +implicits +onlyGivenNames x; first | (refine Keeps.named (z := z) (x := x) ?_ fun hx => ?_; (on_goal 1 => dsimp -zeta only [x]; clear x); (on_goal 2 => clear_value x)) | (refine Keeps.named_snd (z := z) (x := x) ?_ fun hx => ?_; (on_goal 1 => dsimp -zeta only [x]; clear x); (on_goal 2 => clear_value x)) | clear_value x) | apply Keeps.ite | split | apply State.drainAll_keeps | apply State.memRead_keeps | refine Keeps.of_pair (by assumption) (State.memRead_keeps _ _ _ ?_) | apply State.rimRead_keeps | refine Keeps.of_pair (by assumption) (State.rimRead_keeps _ _ _ ?_) | apply State.privLoad_keeps | refine Keeps.of_pair (by assumption) (State.privLoad_keeps _ _ ?_) | fail_if_no_progress refine Keeps.of_mk ?_ | refine Keeps.of_pair (by assumption) ?_ | refine Keeps.of_pair_fst (by assumption) ?_)

theorem State.storeAt_keeps {z s : State} (k : Nat) (ea : Nat) (n : Nat) (w : Word) (hK : Keeps z s) : Keeps z (State.storeAt s k ea n w).1 := by
  unfold State.storeAt; with_reducible repeat' (first | assumption | (extract_lets +implicits +onlyGivenNames x; first | (refine Keeps.named (z := z) (x := x) ?_ fun hx => ?_; (on_goal 1 => dsimp -zeta only [x]; clear x); (on_goal 2 => clear_value x)) | clear_value x) | apply Keeps.ite | split | apply State.rimWrite_keeps | apply State.ownWrite_keeps | apply State.queueStore_keeps | apply State.privWrite_keeps | fail_if_no_progress refine Keeps.of_mk ?_ | refine Keeps.of_pair (by assumption) ?_ | refine Keeps.of_pair_fst (by assumption) ?_)

theorem State.compHalt_keeps {z s : State} (k : Nat) (first : Nat) (reason : Nat) (p : Comparator → Bool) (hK : Keeps z s) : Keeps z (State.compHalt s k first reason p) := by
  unfold State.compHalt; with_reducible repeat' (first | assumption | intro x y hx | (extract_lets +implicits +onlyGivenNames x; first | (refine Keeps.named (z := z) (x := x) ?_ fun hx => ?_; (on_goal 1 => dsimp -zeta only [x]; clear x); (on_goal 2 => clear_value x)) | (refine Keeps.named_snd (z := z) (x := x) ?_ fun hx => ?_; (on_goal 1 => dsimp -zeta only [x]; clear x); (on_goal 2 => clear_value x)) | (refine Keeps.named_fst (z := z) (x := x) ?_ fun hx => ?_; (on_goal 1 => dsimp -zeta only [x]; clear x); (on_goal 2 => clear_value x)) | clear_value x) | split | apply State.askHalt_keeps | apply Keeps.foldl | apply Keeps.foldl_snd | apply Keeps.foldl_snd2 | apply Keeps.foldl_fst | fail_if_no_progress refine Keeps.of_mk ?_ | refine Keeps.of_pair (by assumption) ?_ | refine Keeps.of_pair_fst (by assumption) ?_)

theorem State.dataSeen_keeps {z s : State} (k : Nat) (ea : Nat) (write : Bool) (moved : Option Word) (hK : Keeps z s) : Keeps z (State.dataSeen s k ea write moved) := by
  unfold State.dataSeen; with_reducible repeat' (first | assumption | apply State.compHalt_keeps | fail_if_no_progress refine Keeps.of_mk ?_)

theorem State.loadSeen_keeps {z s : State} (k : Nat) (ea : Nat) (n : Nat) (hK : Keeps z s) : Keeps z (State.loadSeen s k ea n).2 := by
  unfold State.loadSeen; with_reducible repeat' (first | assumption | (extract_lets +implicits +onlyGivenNames x; first | (refine Keeps.named (z := z) (x := x) ?_ fun hx => ?_; (on_goal 1 => dsimp -zeta only [x]; clear x); (on_goal 2 => clear_value x)) | (refine Keeps.named_snd (z := z) (x := x) ?_ fun hx => ?_; (on_goal 1 => dsimp -zeta only [x]; clear x); (on_goal 2 => clear_value x)) | clear_value x) | split | apply State.loadAt_keeps | refine Keeps.of_pair (by assumption) (State.loadAt_keeps _ _ _ ?_) | apply State.dataSeen_keeps | fail_if_no_progress refine Keeps.of_mk ?_ | refine Keeps.of_pair (by assumption) ?_ | refine Keeps.of_pair_fst (by assumption) ?_)

theorem State.storeSeen_keeps {z s : State} (k : Nat) (ea : Nat) (n : Nat) (w : Word) (hK : Keeps z s) : Keeps z (State.storeSeen s k ea n w).1 := by
  unfold State.storeSeen; with_reducible repeat' (first | assumption | (extract_lets +implicits +onlyGivenNames x; first | (refine Keeps.named (z := z) (x := x) ?_ fun hx => ?_; (on_goal 1 => dsimp -zeta only [x]; clear x); (on_goal 2 => clear_value x)) | (refine Keeps.named_fst (z := z) (x := x) ?_ fun hx => ?_; (on_goal 1 => dsimp -zeta only [x]; clear x); (on_goal 2 => clear_value x)) | clear_value x) | split | apply State.storeAt_keeps | refine Keeps.of_pair_fst (by assumption) (State.storeAt_keeps _ _ _ _ ?_) | apply State.dataSeen_keeps | fail_if_no_progress refine Keeps.of_mk ?_ | refine Keeps.of_pair (by assumption) ?_ | refine Keeps.of_pair_fst (by assumption) ?_)

theorem State.operand_keeps {z s : State} (k : Nat) (m : CMode) (v : Nat) (hK : Keeps z s) : Keeps z (State.operand s k m v).2 := by
  unfold State.operand; with_reducible repeat' (first | assumption | apply Keeps.ite | split | apply State.loadSeen_keeps | refine Keeps.of_pair (by assumption) (State.loadSeen_keeps _ _ _ ?_) | fail_if_no_progress refine Keeps.of_mk ?_)

theorem withOperand_kept (k : Nat) (m : CMode) (v : Nat) (f : Word → CoreS → CoreS) : Kept (withOperand k m v f) := by
  unfold withOperand; with_reducible repeat' (first | assumption | (extract_lets +implicits +onlyGivenNames x; first | (refine Keeps.named (z := z) (x := x) ?_ fun hx => ?_; (on_goal 1 => dsimp -zeta only [x]; clear x); (on_goal 2 => clear_value x)) | (refine Keeps.named_snd (z := z) (x := x) ?_ fun hx => ?_; (on_goal 1 => dsimp -zeta only [x]; clear x); (on_goal 2 => clear_value x)) | clear_value x) | split | apply State.operand_keeps | refine Keeps.of_pair (by assumption) (State.operand_keeps _ _ _ ?_) | apply State.modCore_keeps | (intro z s hK; try dsimp -zeta only) | fail_if_no_progress refine Keeps.of_mk ?_ | refine Keeps.of_pair (by assumption) ?_ | refine Keeps.of_pair_fst (by assumption) ?_)

theorem onCore_kept (k : Nat) (f : CoreS → CoreS) : Kept (onCore k f) := by
  unfold onCore; with_reducible repeat' (first | assumption | split | apply State.modCore_keeps | (intro z s hK; try dsimp -zeta only) | fail_if_no_progress refine Keeps.of_mk ?_)

theorem loadInto_kept (k : Nat) (ea : Nat) (n : Nat) (r : CReg) (f : CoreS → CoreS) : Kept (loadInto k ea n r f) := by
  unfold loadInto; with_reducible repeat' (first | assumption | (extract_lets +implicits +onlyGivenNames x; first | (refine Keeps.named (z := z) (x := x) ?_ fun hx => ?_; (on_goal 1 => dsimp -zeta only [x]; clear x); (on_goal 2 => clear_value x)) | (refine Keeps.named_snd (z := z) (x := x) ?_ fun hx => ?_; (on_goal 1 => dsimp -zeta only [x]; clear x); (on_goal 2 => clear_value x)) | clear_value x) | split | apply State.loadSeen_keeps | refine Keeps.of_pair (by assumption) (State.loadSeen_keeps _ _ _ ?_) | apply State.modCore_keeps | (intro z s hK; try dsimp -zeta only) | fail_if_no_progress refine Keeps.of_mk ?_ | refine Keeps.of_pair (by assumption) ?_ | refine Keeps.of_pair_fst (by assumption) ?_)

theorem pushWord_kept (k : Nat) (w : CoreS → Word) : Kept (pushWord k w) := by
  unfold pushWord; with_reducible repeat' (first | assumption | (extract_lets +implicits +onlyGivenNames x; first | (refine Keeps.named (z := z) (x := x) ?_ fun hx => ?_; (on_goal 1 => dsimp -zeta only [x]; clear x); (on_goal 2 => clear_value x)) | (refine Keeps.named_fst (z := z) (x := x) ?_ fun hx => ?_; (on_goal 1 => dsimp -zeta only [x]; clear x); (on_goal 2 => clear_value x)) | clear_value x) | split | apply State.storeSeen_keeps | refine Keeps.of_pair_fst (by assumption) (State.storeSeen_keeps _ _ _ _ ?_) | apply State.modCore_keeps | (intro z s hK; try dsimp -zeta only) | fail_if_no_progress refine Keeps.of_mk ?_ | refine Keeps.of_pair (by assumption) ?_ | refine Keeps.of_pair_fst (by assumption) ?_)

theorem State.stackEntry_keeps {z s : State} (k : Nat) (ret : Word) (hK : Keeps z s) : Keeps z (State.stackEntry s k ret).1 := by
  unfold State.stackEntry; with_reducible repeat' (first | assumption | (extract_lets +implicits +onlyGivenNames x; first | (refine Keeps.named (z := z) (x := x) ?_ fun hx => ?_; (on_goal 1 => dsimp -zeta only [x]; clear x); (on_goal 2 => clear_value x)) | (refine Keeps.named_fst (z := z) (x := x) ?_ fun hx => ?_; (on_goal 1 => dsimp -zeta only [x]; clear x); (on_goal 2 => clear_value x)) | clear_value x) | split | apply State.modCore_keeps | apply State.storeAt_keeps | refine Keeps.of_pair_fst (by assumption) (State.storeAt_keeps _ _ _ _ ?_) | fail_if_no_progress refine Keeps.of_mk ?_ | refine Keeps.of_pair (by assumption) ?_ | refine Keeps.of_pair_fst (by assumption) ?_)

theorem State.doubleTrap_keeps {z s : State} (k : Nat) (hK : Keeps z s) : Keeps z (State.doubleTrap s k) := by
  unfold State.doubleTrap; with_reducible repeat' (first | assumption | (extract_lets +implicits +onlyGivenNames x; first | (refine Keeps.named (z := z) (x := x) ?_ fun hx => ?_; (on_goal 1 => dsimp -zeta only [x]; clear x); (on_goal 2 => clear_value x)) | clear_value x) | split | apply State.modCore_keeps | apply State.raise_keeps | fail_if_no_progress refine Keeps.of_mk ?_)

theorem State.entryStart_keeps {z s : State} (k : Nat) (hK : Keeps z s) : Keeps z (State.entryStart s k) := by
  unfold State.entryStart; with_reducible repeat' (first | assumption | (extract_lets +implicits +onlyGivenNames x; first | (refine Keeps.named (z := z) (x := x) ?_ fun hx => ?_; (on_goal 1 => dsimp -zeta only [x]; clear x); (on_goal 2 => clear_value x)) | clear_value x) | split | apply State.clearLink_keeps | apply State.modCore_keeps | fail_if_no_progress refine Keeps.of_mk ?_)

theorem State.takeTrap_keeps {z s : State} (k : Nat) (at_ : Word) (t : Trap) (hK : Keeps z s) : Keeps z (State.takeTrap s k at_ t) := by
  unfold State.takeTrap; with_reducible repeat' (first | assumption | (extract_lets +implicits +onlyGivenNames x; first | (refine Keeps.named (z := z) (x := x) ?_ fun hx => ?_; (on_goal 1 => dsimp -zeta only [x]; clear x); (on_goal 2 => clear_value x)) | (refine Keeps.named_fst (z := z) (x := x) ?_ fun hx => ?_; (on_goal 1 => dsimp -zeta only [x]; clear x); (on_goal 2 => clear_value x)) | clear_value x) | apply Keeps.ite | split | apply State.entryStart_keeps | apply State.stackEntry_keeps | refine Keeps.of_pair_fst (by assumption) (State.stackEntry_keeps _ _ ?_) | apply State.doubleTrap_keeps | apply State.modCore_keeps | fail_if_no_progress refine Keeps.of_mk ?_ | refine Keeps.of_pair (by assumption) ?_ | refine Keeps.of_pair_fst (by assumption) ?_)

theorem State.fastEntry_keeps {z s : State} (k : Nat) (i : Nat) (hK : Keeps z s) : Keeps z (State.fastEntry s k i) := by
  unfold State.fastEntry; with_reducible repeat' (first | assumption | (extract_lets +implicits +onlyGivenNames x; first | (refine Keeps.named (z := z) (x := x) ?_ fun hx => ?_; (on_goal 1 => dsimp -zeta only [x]; clear x); (on_goal 2 => clear_value x)) | clear_value x) | apply State.entryStart_keeps | apply State.fastClaim_keeps | apply State.modCore_keeps | fail_if_no_progress refine Keeps.of_mk ?_)

theorem State.normalEntry_keeps {z s : State} (k : Nat) (hK : Keeps z s) : Keeps z (State.normalEntry s k) := by
  unfold State.normalEntry; with_reducible repeat' (first | assumption | (extract_lets +implicits +onlyGivenNames x; first | (refine Keeps.named (z := z) (x := x) ?_ fun hx => ?_; (on_goal 1 => dsimp -zeta only [x]; clear x); (on_goal 2 => clear_value x)) | (refine Keeps.named_fst (z := z) (x := x) ?_ fun hx => ?_; (on_goal 1 => dsimp -zeta only [x]; clear x); (on_goal 2 => clear_value x)) | clear_value x) | apply Keeps.ite | split | apply State.entryStart_keeps | apply State.stackEntry_keeps | refine Keeps.of_pair_fst (by assumption) (State.stackEntry_keeps _ _ ?_) | apply State.doubleTrap_keeps | apply State.modCore_keeps | fail_if_no_progress refine Keeps.of_mk ?_ | refine Keeps.of_pair (by assumption) ?_ | refine Keeps.of_pair_fst (by assumption) ?_)

theorem execFastInterruptEntry_keeps {z s : State} (t : Nat) (k : Nat) (hK : Keeps z s) : KeepsR z (execFastInterruptEntry t k s) := by
  unfold execFastInterruptEntry; with_reducible repeat' (first | assumption | refine KeepsR.of_next ?_ | (extract_lets +implicits +onlyGivenNames x; first | (refine Keeps.named (z := z) (x := x) ?_ fun hx => ?_; (on_goal 1 => dsimp -zeta only [x]; clear x); (on_goal 2 => clear_value x)) | clear_value x) | apply Keeps.ite | split | apply State.at_keeps | apply State.fastEntry_keeps | fail_if_no_progress refine Keeps.of_mk ?_ | refine Keeps.of_pair (by assumption) ?_ | refine Keeps.of_pair_fst (by assumption) ?_)

theorem execNormalInterruptEntry_keeps {z s : State} (t : Nat) (k : Nat) (hK : Keeps z s) : KeepsR z (execNormalInterruptEntry t k s) := by
  unfold execNormalInterruptEntry; with_reducible repeat' (first | assumption | refine KeepsR.of_next ?_ | (extract_lets +implicits +onlyGivenNames x; first | (refine Keeps.named (z := z) (x := x) ?_ fun hx => ?_; (on_goal 1 => dsimp -zeta only [x]; clear x); (on_goal 2 => clear_value x)) | clear_value x) | apply Keeps.ite | split | apply State.at_keeps | apply State.normalEntry_keeps | fail_if_no_progress refine Keeps.of_mk ?_)

theorem State.runBody_keeps {z s : State} (k : Nat) (body : Body) (hbody : Kept body) (hK : Keeps z s) : Keeps z (State.runBody s k body) := by
  unfold State.runBody; with_reducible repeat' (first | assumption | (extract_lets +implicits +onlyGivenNames x; first | (refine Keeps.named (z := z) (x := x) ?_ fun hx => ?_; (on_goal 1 => dsimp -zeta only [x]; clear x); (on_goal 2 => clear_value x)) | (refine Keeps.named_fst (z := z) (x := x) ?_ fun hx => ?_; (on_goal 1 => dsimp -zeta only [x]; clear x); (on_goal 2 => clear_value x)) | clear_value x) | split | apply hbody | (intro z s hK; try dsimp -zeta only) | apply State.modCore_keeps | apply State.takeTrap_keeps | fail_if_no_progress refine Keeps.of_mk ?_ | refine Keeps.of_pair (by assumption) ?_ | refine Keeps.of_pair_fst (by assumption) ?_)

theorem State.runOne_keeps {z s : State} (k : Nat) (op : Option Nat) (v : Nat) (load : Bool) (body : Body) (hbody : Kept body) (hK : Keeps z s) : Keeps z (State.runOne s k op v load body) := by
  unfold State.runOne; with_reducible repeat' (first | assumption | (extract_lets +implicits +onlyGivenNames x; first | (refine Keeps.named (z := z) (x := x) ?_ fun hx => ?_; (on_goal 1 => dsimp -zeta only [x]; clear x); (on_goal 2 => clear_value x)) | (refine Keeps.named_fst (z := z) (x := x) ?_ fun hx => ?_; (on_goal 1 => dsimp -zeta only [x]; clear x); (on_goal 2 => clear_value x)) | clear_value x) | split | apply hbody | (intro z s hK; try dsimp -zeta only) | apply State.runBody_keeps | fail_if_no_progress refine Keeps.of_mk ?_ | refine Keeps.of_pair (by assumption) ?_ | refine Keeps.of_pair_fst (by assumption) ?_)

theorem State.issue_keeps {z s : State} (k : Nat) (op : Option Nat) (v : Nat) (load : Bool) (body : Body) (hbody : Kept body) (hK : Keeps z s) : Keeps z (State.issue s k op v load body) := by
  unfold State.issue; with_reducible repeat' (first | assumption | apply Keeps.ite | split | apply hbody | (intro z s hK; try dsimp -zeta only) | apply State.compHalt_keeps | apply State.runOne_keeps | fail_if_no_progress refine Keeps.of_mk ?_)

theorem crank_keeps {z s : State} (t : Nat) (k : Nat) (op : Nat) (v : Nat) (load : Bool) (body : Body) (hbody : Kept body) (hK : Keeps z s) : KeepsR z (crank t k op v load body s) := by
  unfold crank; with_reducible repeat' (first | assumption | refine KeepsR.of_next ?_ | apply hbody | (intro z s hK; try dsimp -zeta only) | apply State.at_keeps | apply State.issue_keeps | fail_if_no_progress refine Keeps.of_mk ?_)

end Sys2Proof.Machine
end

