-- ==== Sys2Proof/Laws/KeepsCrank.lean ====
section
/-! SUPPORT. What the functions of Crank keep (see Keeps). -/

set_option linter.all false

namespace Sys2Proof.Machine

/-- What a decoded word does keeps what it must. -/
abbrev KeptD (o : Option Decoded) : Prop := ∀ d, o = some d → Kept d.body

theorem KeptD.some {l : Bool} {b : Body} (h : Kept b) : KeptD (some ⟨l, b⟩) := by
  intro d e; cases e; exact h

theorem KeptD.none : KeptD none := by intro d e; cases e

theorem KeptD.ite {c : Prop} {_ : Decidable c} {a b : Option Decoded} (h : KeptD a) (k : KeptD b) : KeptD (if c then a else b) := by
  split
  · exact h
  · exact k

theorem crankNop_kept (k : Nat) : Kept (crankNop k) := by
  unfold crankNop; with_reducible repeat' (first | assumption | apply onCore_kept | (intro z s hK; try dsimp -zeta only) | fail_if_no_progress refine Keeps.of_mk ?_)

theorem execNop_keeps {z s : State} (t : Nat) (k : Nat) (hK : Keeps z s) : KeepsR z (execNop t k s) := by
  unfold execNop; with_reducible repeat' (first | assumption | refine KeepsR.of_next ?_ | apply crank_keeps | apply crankNop_kept | fail_if_no_progress refine Keeps.of_mk ?_)

theorem crankWait_kept (k : Nat) : Kept (crankWait k) := by
  unfold crankWait; with_reducible repeat' (first | assumption | (extract_lets +implicits +onlyGivenNames x; first | (refine Keeps.named (z := z) (x := x) ?_ fun hx => ?_; (on_goal 1 => dsimp -zeta only [x]; clear x); (on_goal 2 => clear_value x)) | clear_value x) | split | apply onCore_kept | (intro z s hK; try dsimp -zeta only) | fail_if_no_progress refine Keeps.of_mk ?_)

theorem execWait_keeps {z s : State} (t : Nat) (k : Nat) (hK : Keeps z s) : KeepsR z (execWait t k s) := by
  unfold execWait; with_reducible repeat' (first | assumption | refine KeepsR.of_next ?_ | apply crank_keeps | apply crankWait_kept | fail_if_no_progress refine Keeps.of_mk ?_)

theorem crankTrap_kept (code : Nat) : Kept (crankTrap code) := by
  unfold crankTrap; with_reducible repeat' (first | assumption | split | (intro z s hK; try dsimp -zeta only) | fail_if_no_progress refine Keeps.of_mk ?_)

theorem execTrap_keeps {z s : State} (t : Nat) (k : Nat) (code : Nat) (hK : Keeps z s) : KeepsR z (execTrap t k code s) := by
  unfold execTrap; with_reducible repeat' (first | assumption | refine KeepsR.of_next ?_ | apply crank_keeps | apply crankTrap_kept | fail_if_no_progress refine Keeps.of_mk ?_)

theorem crankIret_kept (k : Nat) : Kept (crankIret k) := by
  unfold crankIret; with_reducible repeat' (first | assumption | (extract_lets +implicits +onlyGivenNames x; first | (refine Keeps.named (z := z) (x := x) ?_ fun hx => ?_; (on_goal 1 => dsimp -zeta only [x]; clear x); (on_goal 2 => clear_value x)) | (refine Keeps.named_snd (z := z) (x := x) ?_ fun hx => ?_; (on_goal 1 => dsimp -zeta only [x]; clear x); (on_goal 2 => clear_value x)) | clear_value x) | apply Keeps.ite | split | apply State.modCore_keeps | apply State.loadAt_keeps | refine Keeps.of_pair (by assumption) (State.loadAt_keeps _ _ _ ?_) | (intro z s hK; try dsimp -zeta only) | fail_if_no_progress refine Keeps.of_mk ?_ | refine Keeps.of_pair (by assumption) ?_ | refine Keeps.of_pair_fst (by assumption) ?_)

theorem execIret_keeps {z s : State} (t : Nat) (k : Nat) (hK : Keeps z s) : KeepsR z (execIret t k s) := by
  unfold execIret; with_reducible repeat' (first | assumption | refine KeepsR.of_next ?_ | apply crank_keeps | apply crankIret_kept | fail_if_no_progress refine Keeps.of_mk ?_)

theorem crankDisN_kept (k : Nat) : Kept (crankDisN k) := by
  unfold crankDisN; with_reducible repeat' (first | assumption | apply onCore_kept | (intro z s hK; try dsimp -zeta only) | fail_if_no_progress refine Keeps.of_mk ?_)

theorem execDisN_keeps {z s : State} (t : Nat) (k : Nat) (hK : Keeps z s) : KeepsR z (execDisN t k s) := by
  unfold execDisN; with_reducible repeat' (first | assumption | refine KeepsR.of_next ?_ | apply crank_keeps | apply crankDisN_kept | fail_if_no_progress refine Keeps.of_mk ?_)

theorem crankEnN_kept (k : Nat) : Kept (crankEnN k) := by
  unfold crankEnN; with_reducible repeat' (first | assumption | apply onCore_kept | (intro z s hK; try dsimp -zeta only) | fail_if_no_progress refine Keeps.of_mk ?_)

theorem execEnN_keeps {z s : State} (t : Nat) (k : Nat) (hK : Keeps z s) : KeepsR z (execEnN t k s) := by
  unfold execEnN; with_reducible repeat' (first | assumption | refine KeepsR.of_next ?_ | apply crank_keeps | apply crankEnN_kept | fail_if_no_progress refine Keeps.of_mk ?_)

theorem crankDisF_kept (k : Nat) : Kept (crankDisF k) := by
  unfold crankDisF; with_reducible repeat' (first | assumption | apply onCore_kept | (intro z s hK; try dsimp -zeta only) | fail_if_no_progress refine Keeps.of_mk ?_)

theorem execDisF_keeps {z s : State} (t : Nat) (k : Nat) (hK : Keeps z s) : KeepsR z (execDisF t k s) := by
  unfold execDisF; with_reducible repeat' (first | assumption | refine KeepsR.of_next ?_ | apply crank_keeps | apply crankDisF_kept | fail_if_no_progress refine Keeps.of_mk ?_)

theorem crankEnF_kept (k : Nat) : Kept (crankEnF k) := by
  unfold crankEnF; with_reducible repeat' (first | assumption | apply onCore_kept | (intro z s hK; try dsimp -zeta only) | fail_if_no_progress refine Keeps.of_mk ?_)

theorem execEnF_keeps {z s : State} (t : Nat) (k : Nat) (hK : Keeps z s) : KeepsR z (execEnF t k s) := by
  unfold execEnF; with_reducible repeat' (first | assumption | refine KeepsR.of_next ?_ | apply crank_keeps | apply crankEnF_kept | fail_if_no_progress refine Keeps.of_mk ?_)

theorem crankClrC_kept (k : Nat) : Kept (crankClrC k) := by
  unfold crankClrC; with_reducible repeat' (first | assumption | apply onCore_kept | (intro z s hK; try dsimp -zeta only) | fail_if_no_progress refine Keeps.of_mk ?_)

theorem execClrC_keeps {z s : State} (t : Nat) (k : Nat) (hK : Keeps z s) : KeepsR z (execClrC t k s) := by
  unfold execClrC; with_reducible repeat' (first | assumption | refine KeepsR.of_next ?_ | apply crank_keeps | apply crankClrC_kept | fail_if_no_progress refine Keeps.of_mk ?_)

theorem crankSetC_kept (k : Nat) : Kept (crankSetC k) := by
  unfold crankSetC; with_reducible repeat' (first | assumption | apply onCore_kept | (intro z s hK; try dsimp -zeta only) | fail_if_no_progress refine Keeps.of_mk ?_)

theorem execSetC_keeps {z s : State} (t : Nat) (k : Nat) (hK : Keeps z s) : KeepsR z (execSetC t k s) := by
  unfold execSetC; with_reducible repeat' (first | assumption | refine KeepsR.of_next ?_ | apply crank_keeps | apply crankSetC_kept | fail_if_no_progress refine Keeps.of_mk ?_)

theorem crankUnlink_kept (k : Nat) : Kept (crankUnlink k) := by
  unfold crankUnlink; with_reducible repeat' (first | assumption | split | apply State.clearLink_keeps | (intro z s hK; try dsimp -zeta only) | fail_if_no_progress refine Keeps.of_mk ?_)

theorem execUnlink_keeps {z s : State} (t : Nat) (k : Nat) (hK : Keeps z s) : KeepsR z (execUnlink t k s) := by
  unfold execUnlink; with_reducible repeat' (first | assumption | refine KeepsR.of_next ?_ | apply crank_keeps | apply crankUnlink_kept | fail_if_no_progress refine Keeps.of_mk ?_)

theorem crankFence_kept (k : Nat) : Kept (crankFence k) := by
  unfold crankFence; with_reducible repeat' (first | assumption | split | apply State.drainAll_keeps | (intro z s hK; try dsimp -zeta only) | fail_if_no_progress refine Keeps.of_mk ?_)

theorem execFence_keeps {z s : State} (t : Nat) (k : Nat) (hK : Keeps z s) : KeepsR z (execFence t k s) := by
  unfold execFence; with_reducible repeat' (first | assumption | refine KeepsR.of_next ?_ | apply crank_keeps | apply crankFence_kept | fail_if_no_progress refine Keeps.of_mk ?_)

theorem crankDbgbrk_kept (k : Nat) : Kept (crankDbgbrk k) := by
  unfold crankDbgbrk; with_reducible repeat' (first | assumption | apply Keeps.ite | split | apply State.askHalt_keeps | (intro z s hK; try dsimp -zeta only) | fail_if_no_progress refine Keeps.of_mk ?_)

theorem execDbgbrk_keeps {z s : State} (t : Nat) (k : Nat) (hK : Keeps z s) : KeepsR z (execDbgbrk t k s) := by
  unfold execDbgbrk; with_reducible repeat' (first | assumption | refine KeepsR.of_next ?_ | apply crank_keeps | apply crankDbgbrk_kept | fail_if_no_progress refine Keeps.of_mk ?_)

theorem crankLd_kept (k : Nat) (r : CReg) (m : CMode) (v : Nat) : Kept (crankLd k r m v) := by
  unfold crankLd; with_reducible repeat' (first | assumption | apply Keeps.ite | split | apply onCore_kept | apply loadInto_kept | (intro z s hK; try dsimp -zeta only) | fail_if_no_progress refine Keeps.of_mk ?_)

theorem execLd_keeps {z s : State} (t : Nat) (k : Nat) (r : CReg) (m : CMode) (v : Nat) (hK : Keeps z s) : KeepsR z (execLd t k r m v s) := by
  unfold execLd; with_reducible repeat' (first | assumption | refine KeepsR.of_next ?_ | apply crank_keeps | apply crankLd_kept | fail_if_no_progress refine Keeps.of_mk ?_)

theorem crankLdu_kept (k : Nat) (r : CReg) (v : Nat) : Kept (crankLdu k r v) := by
  unfold crankLdu; with_reducible repeat' (first | assumption | split | apply onCore_kept | (intro z s hK; try dsimp -zeta only) | fail_if_no_progress refine Keeps.of_mk ?_)

theorem execLdu_keeps {z s : State} (t : Nat) (k : Nat) (r : CReg) (v : Nat) (hK : Keeps z s) : KeepsR z (execLdu t k r v s) := by
  unfold execLdu; with_reducible repeat' (first | assumption | refine KeepsR.of_next ?_ | apply crank_keeps | apply crankLdu_kept | fail_if_no_progress refine Keeps.of_mk ?_)

theorem crankSt_kept (k : Nat) (r : CReg) (m : CMode) (v : Nat) : Kept (crankSt k r m v) := by
  unfold crankSt; with_reducible repeat' (first | assumption | (extract_lets +implicits +onlyGivenNames x; first | (refine Keeps.named (z := z) (x := x) ?_ fun hx => ?_; (on_goal 1 => dsimp -zeta only [x]; clear x); (on_goal 2 => clear_value x)) | (refine Keeps.named_fst (z := z) (x := x) ?_ fun hx => ?_; (on_goal 1 => dsimp -zeta only [x]; clear x); (on_goal 2 => clear_value x)) | clear_value x) | apply State.storeSeen_keeps | refine Keeps.of_pair_fst (by assumption) (State.storeSeen_keeps _ _ _ _ ?_) | (intro z s hK; try dsimp -zeta only) | fail_if_no_progress refine Keeps.of_mk ?_)

theorem execSt_keeps {z s : State} (t : Nat) (k : Nat) (r : CReg) (m : CMode) (v : Nat) (hK : Keeps z s) : KeepsR z (execSt t k r m v s) := by
  unfold execSt; with_reducible repeat' (first | assumption | refine KeepsR.of_next ?_ | apply Keeps.ite | split | apply State.at_keeps | apply State.issue_keeps | apply crankSt_kept | fail_if_no_progress refine Keeps.of_mk ?_)

theorem crankLdB_kept (k : Nat) (m : CMode) (v : Nat) : Kept (crankLdB k m v) := by
  unfold crankLdB; with_reducible repeat' (first | assumption | split | apply loadInto_kept | (intro z s hK; try dsimp -zeta only) | fail_if_no_progress refine Keeps.of_mk ?_)

theorem execLdB_keeps {z s : State} (t : Nat) (k : Nat) (m : CMode) (v : Nat) (hK : Keeps z s) : KeepsR z (execLdB t k m v s) := by
  unfold execLdB; with_reducible repeat' (first | assumption | refine KeepsR.of_next ?_ | apply Keeps.ite | split | apply State.at_keeps | apply State.issue_keeps | apply crankLdB_kept | fail_if_no_progress refine Keeps.of_mk ?_)

theorem crankLdH_kept (k : Nat) (m : CMode) (v : Nat) : Kept (crankLdH k m v) := by
  unfold crankLdH; with_reducible repeat' (first | assumption | split | apply loadInto_kept | (intro z s hK; try dsimp -zeta only) | fail_if_no_progress refine Keeps.of_mk ?_)

theorem execLdH_keeps {z s : State} (t : Nat) (k : Nat) (m : CMode) (v : Nat) (hK : Keeps z s) : KeepsR z (execLdH t k m v s) := by
  unfold execLdH; with_reducible repeat' (first | assumption | refine KeepsR.of_next ?_ | apply Keeps.ite | split | apply State.at_keeps | apply State.issue_keeps | apply crankLdH_kept | fail_if_no_progress refine Keeps.of_mk ?_)

theorem crankStB_kept (k : Nat) (m : CMode) (v : Nat) : Kept (crankStB k m v) := by
  unfold crankStB; with_reducible repeat' (first | assumption | (extract_lets +implicits +onlyGivenNames x; first | (refine Keeps.named (z := z) (x := x) ?_ fun hx => ?_; (on_goal 1 => dsimp -zeta only [x]; clear x); (on_goal 2 => clear_value x)) | (refine Keeps.named_fst (z := z) (x := x) ?_ fun hx => ?_; (on_goal 1 => dsimp -zeta only [x]; clear x); (on_goal 2 => clear_value x)) | clear_value x) | apply State.storeSeen_keeps | refine Keeps.of_pair_fst (by assumption) (State.storeSeen_keeps _ _ _ _ ?_) | (intro z s hK; try dsimp -zeta only) | fail_if_no_progress refine Keeps.of_mk ?_)

theorem execStB_keeps {z s : State} (t : Nat) (k : Nat) (m : CMode) (v : Nat) (hK : Keeps z s) : KeepsR z (execStB t k m v s) := by
  unfold execStB; with_reducible repeat' (first | assumption | refine KeepsR.of_next ?_ | apply Keeps.ite | split | apply State.at_keeps | apply State.issue_keeps | apply crankStB_kept | fail_if_no_progress refine Keeps.of_mk ?_)

theorem crankStH_kept (k : Nat) (m : CMode) (v : Nat) : Kept (crankStH k m v) := by
  unfold crankStH; with_reducible repeat' (first | assumption | (extract_lets +implicits +onlyGivenNames x; first | (refine Keeps.named (z := z) (x := x) ?_ fun hx => ?_; (on_goal 1 => dsimp -zeta only [x]; clear x); (on_goal 2 => clear_value x)) | (refine Keeps.named_fst (z := z) (x := x) ?_ fun hx => ?_; (on_goal 1 => dsimp -zeta only [x]; clear x); (on_goal 2 => clear_value x)) | clear_value x) | apply State.storeSeen_keeps | refine Keeps.of_pair_fst (by assumption) (State.storeSeen_keeps _ _ _ _ ?_) | (intro z s hK; try dsimp -zeta only) | fail_if_no_progress refine Keeps.of_mk ?_)

theorem execStH_keeps {z s : State} (t : Nat) (k : Nat) (m : CMode) (v : Nat) (hK : Keeps z s) : KeepsR z (execStH t k m v s) := by
  unfold execStH; with_reducible repeat' (first | assumption | refine KeepsR.of_next ?_ | apply Keeps.ite | split | apply State.at_keeps | apply State.issue_keeps | apply crankStH_kept | fail_if_no_progress refine Keeps.of_mk ?_)

theorem crankAdd_kept (k : Nat) (m : CMode) (v : Nat) : Kept (crankAdd k m v) := by
  unfold crankAdd; with_reducible repeat' (first | assumption | split | apply withOperand_kept | (intro z s hK; try dsimp -zeta only) | fail_if_no_progress refine Keeps.of_mk ?_)

theorem execAddA_keeps {z s : State} (t : Nat) (k : Nat) (m : CMode) (v : Nat) (hK : Keeps z s) : KeepsR z (execAddA t k m v s) := by
  unfold execAddA; with_reducible repeat' (first | assumption | refine KeepsR.of_next ?_ | apply crank_keeps | apply crankAdd_kept | fail_if_no_progress refine Keeps.of_mk ?_)

theorem crankAddc_kept (k : Nat) (m : CMode) (v : Nat) : Kept (crankAddc k m v) := by
  unfold crankAddc; with_reducible repeat' (first | assumption | split | apply withOperand_kept | (intro z s hK; try dsimp -zeta only) | fail_if_no_progress refine Keeps.of_mk ?_)

theorem execAddc_keeps {z s : State} (t : Nat) (k : Nat) (m : CMode) (v : Nat) (hK : Keeps z s) : KeepsR z (execAddc t k m v s) := by
  unfold execAddc; with_reducible repeat' (first | assumption | refine KeepsR.of_next ?_ | apply crank_keeps | apply crankAddc_kept | fail_if_no_progress refine Keeps.of_mk ?_)

theorem crankSub_kept (k : Nat) (m : CMode) (v : Nat) : Kept (crankSub k m v) := by
  unfold crankSub; with_reducible repeat' (first | assumption | split | apply withOperand_kept | (intro z s hK; try dsimp -zeta only) | fail_if_no_progress refine Keeps.of_mk ?_)

theorem execSubA_keeps {z s : State} (t : Nat) (k : Nat) (m : CMode) (v : Nat) (hK : Keeps z s) : KeepsR z (execSubA t k m v s) := by
  unfold execSubA; with_reducible repeat' (first | assumption | refine KeepsR.of_next ?_ | apply crank_keeps | apply crankSub_kept | fail_if_no_progress refine Keeps.of_mk ?_)

theorem crankSubc_kept (k : Nat) (m : CMode) (v : Nat) : Kept (crankSubc k m v) := by
  unfold crankSubc; with_reducible repeat' (first | assumption | split | apply withOperand_kept | (intro z s hK; try dsimp -zeta only) | fail_if_no_progress refine Keeps.of_mk ?_)

theorem execSubc_keeps {z s : State} (t : Nat) (k : Nat) (m : CMode) (v : Nat) (hK : Keeps z s) : KeepsR z (execSubc t k m v s) := by
  unfold execSubc; with_reducible repeat' (first | assumption | refine KeepsR.of_next ?_ | apply crank_keeps | apply crankSubc_kept | fail_if_no_progress refine Keeps.of_mk ?_)

theorem crankAnd_kept (k : Nat) (m : CMode) (v : Nat) : Kept (crankAnd k m v) := by
  unfold crankAnd; with_reducible repeat' (first | assumption | split | apply withOperand_kept | (intro z s hK; try dsimp -zeta only) | fail_if_no_progress refine Keeps.of_mk ?_)

theorem execAndA_keeps {z s : State} (t : Nat) (k : Nat) (m : CMode) (v : Nat) (hK : Keeps z s) : KeepsR z (execAndA t k m v s) := by
  unfold execAndA; with_reducible repeat' (first | assumption | refine KeepsR.of_next ?_ | apply crank_keeps | apply crankAnd_kept | fail_if_no_progress refine Keeps.of_mk ?_)

theorem crankOr_kept (k : Nat) (m : CMode) (v : Nat) : Kept (crankOr k m v) := by
  unfold crankOr; with_reducible repeat' (first | assumption | split | apply withOperand_kept | (intro z s hK; try dsimp -zeta only) | fail_if_no_progress refine Keeps.of_mk ?_)

theorem execOrA_keeps {z s : State} (t : Nat) (k : Nat) (m : CMode) (v : Nat) (hK : Keeps z s) : KeepsR z (execOrA t k m v s) := by
  unfold execOrA; with_reducible repeat' (first | assumption | refine KeepsR.of_next ?_ | apply crank_keeps | apply crankOr_kept | fail_if_no_progress refine Keeps.of_mk ?_)

theorem crankXor_kept (k : Nat) (m : CMode) (v : Nat) : Kept (crankXor k m v) := by
  unfold crankXor; with_reducible repeat' (first | assumption | split | apply withOperand_kept | (intro z s hK; try dsimp -zeta only) | fail_if_no_progress refine Keeps.of_mk ?_)

theorem execXorA_keeps {z s : State} (t : Nat) (k : Nat) (m : CMode) (v : Nat) (hK : Keeps z s) : KeepsR z (execXorA t k m v s) := by
  unfold execXorA; with_reducible repeat' (first | assumption | refine KeepsR.of_next ?_ | apply crank_keeps | apply crankXor_kept | fail_if_no_progress refine Keeps.of_mk ?_)

theorem crankCmp_kept (k : Nat) (m : CMode) (v : Nat) : Kept (crankCmp k m v) := by
  unfold crankCmp; with_reducible repeat' (first | assumption | split | apply withOperand_kept | (intro z s hK; try dsimp -zeta only) | fail_if_no_progress refine Keeps.of_mk ?_)

theorem execCmp_keeps {z s : State} (t : Nat) (k : Nat) (m : CMode) (v : Nat) (hK : Keeps z s) : KeepsR z (execCmp t k m v s) := by
  unfold execCmp; with_reducible repeat' (first | assumption | refine KeepsR.of_next ?_ | apply crank_keeps | apply crankCmp_kept | fail_if_no_progress refine Keeps.of_mk ?_)

theorem crankTest_kept (k : Nat) (v : Nat) : Kept (crankTest k v) := by
  unfold crankTest; with_reducible repeat' (first | assumption | split | apply onCore_kept | (intro z s hK; try dsimp -zeta only) | fail_if_no_progress refine Keeps.of_mk ?_)

theorem execTestA_keeps {z s : State} (t : Nat) (k : Nat) (v : Nat) (hK : Keeps z s) : KeepsR z (execTestA t k v s) := by
  unfold execTestA; with_reducible repeat' (first | assumption | refine KeepsR.of_next ?_ | apply crank_keeps | apply crankTest_kept | fail_if_no_progress refine Keeps.of_mk ?_)

theorem crankMov_kept (k : Nat) (f : MovForm) : Kept (crankMov k f) := by
  unfold crankMov; with_reducible repeat' (first | assumption | (extract_lets +implicits +onlyGivenNames x; first | (refine Keeps.named (z := z) (x := x) ?_ fun hx => ?_; (on_goal 1 => dsimp -zeta only [x]; clear x); (on_goal 2 => clear_value x)) | clear_value x) | apply Keeps.ite | split | apply onCore_kept | (intro z s hK; try dsimp -zeta only) | fail_if_no_progress refine Keeps.of_mk ?_)

theorem execMov_keeps {z s : State} (t : Nat) (k : Nat) (f : MovForm) (hK : Keeps z s) : KeepsR z (execMov t k f s) := by
  unfold execMov; with_reducible repeat' (first | assumption | refine KeepsR.of_next ?_ | apply crank_keeps | apply crankMov_kept | fail_if_no_progress refine Keeps.of_mk ?_)

theorem crankInc_kept (k : Nat) (r : CReg) : Kept (crankInc k r) := by
  unfold crankInc; with_reducible repeat' (first | assumption | split | apply onCore_kept | (intro z s hK; try dsimp -zeta only) | fail_if_no_progress refine Keeps.of_mk ?_)

theorem execInc_keeps {z s : State} (t : Nat) (k : Nat) (r : CReg) (hK : Keeps z s) : KeepsR z (execInc t k r s) := by
  unfold execInc; with_reducible repeat' (first | assumption | refine KeepsR.of_next ?_ | apply crank_keeps | apply crankInc_kept | fail_if_no_progress refine Keeps.of_mk ?_)

theorem crankDec_kept (k : Nat) (r : CReg) : Kept (crankDec k r) := by
  unfold crankDec; with_reducible repeat' (first | assumption | split | apply onCore_kept | (intro z s hK; try dsimp -zeta only) | fail_if_no_progress refine Keeps.of_mk ?_)

theorem execDec_keeps {z s : State} (t : Nat) (k : Nat) (r : CReg) (hK : Keeps z s) : KeepsR z (execDec t k r s) := by
  unfold execDec; with_reducible repeat' (first | assumption | refine KeepsR.of_next ?_ | apply crank_keeps | apply crankDec_kept | fail_if_no_progress refine Keeps.of_mk ?_)

theorem crankNeg_kept (k : Nat) : Kept (crankNeg k) := by
  unfold crankNeg; with_reducible repeat' (first | assumption | split | apply onCore_kept | (intro z s hK; try dsimp -zeta only) | fail_if_no_progress refine Keeps.of_mk ?_)

theorem execNeg_keeps {z s : State} (t : Nat) (k : Nat) (hK : Keeps z s) : KeepsR z (execNeg t k s) := by
  unfold execNeg; with_reducible repeat' (first | assumption | refine KeepsR.of_next ?_ | apply crank_keeps | apply crankNeg_kept | fail_if_no_progress refine Keeps.of_mk ?_)

theorem crankNot_kept (k : Nat) : Kept (crankNot k) := by
  unfold crankNot; with_reducible repeat' (first | assumption | split | apply onCore_kept | (intro z s hK; try dsimp -zeta only) | fail_if_no_progress refine Keeps.of_mk ?_)

theorem execNotA_keeps {z s : State} (t : Nat) (k : Nat) (hK : Keeps z s) : KeepsR z (execNotA t k s) := by
  unfold execNotA; with_reducible repeat' (first | assumption | refine KeepsR.of_next ?_ | apply crank_keeps | apply crankNot_kept | fail_if_no_progress refine Keeps.of_mk ?_)

theorem crankShl_kept (k : Nat) (byX : Bool) (v : Nat) : Kept (crankShl k byX v) := by
  unfold crankShl; with_reducible repeat' (first | assumption | split | apply onCore_kept | (intro z s hK; try dsimp -zeta only) | fail_if_no_progress refine Keeps.of_mk ?_)

theorem execShl_keeps {z s : State} (t : Nat) (k : Nat) (byX : Bool) (v : Nat) (hK : Keeps z s) : KeepsR z (execShl t k byX v s) := by
  unfold execShl; with_reducible repeat' (first | assumption | refine KeepsR.of_next ?_ | apply Keeps.ite | split | apply crank_keeps | apply crankShl_kept | fail_if_no_progress refine Keeps.of_mk ?_)

theorem crankShr_kept (k : Nat) (byX : Bool) (v : Nat) : Kept (crankShr k byX v) := by
  unfold crankShr; with_reducible repeat' (first | assumption | split | apply onCore_kept | (intro z s hK; try dsimp -zeta only) | fail_if_no_progress refine Keeps.of_mk ?_)

theorem execShr_keeps {z s : State} (t : Nat) (k : Nat) (byX : Bool) (v : Nat) (hK : Keeps z s) : KeepsR z (execShr t k byX v s) := by
  unfold execShr; with_reducible repeat' (first | assumption | refine KeepsR.of_next ?_ | apply Keeps.ite | split | apply crank_keeps | apply crankShr_kept | fail_if_no_progress refine Keeps.of_mk ?_)

theorem crankSar_kept (k : Nat) (byX : Bool) (v : Nat) : Kept (crankSar k byX v) := by
  unfold crankSar; with_reducible repeat' (first | assumption | split | apply onCore_kept | (intro z s hK; try dsimp -zeta only) | fail_if_no_progress refine Keeps.of_mk ?_)

theorem execSar_keeps {z s : State} (t : Nat) (k : Nat) (byX : Bool) (v : Nat) (hK : Keeps z s) : KeepsR z (execSar t k byX v s) := by
  unfold execSar; with_reducible repeat' (first | assumption | refine KeepsR.of_next ?_ | apply Keeps.ite | split | apply crank_keeps | apply crankSar_kept | fail_if_no_progress refine Keeps.of_mk ?_)

theorem crankRor_kept (k : Nat) (byX : Bool) (v : Nat) : Kept (crankRor k byX v) := by
  unfold crankRor; with_reducible repeat' (first | assumption | split | apply onCore_kept | (intro z s hK; try dsimp -zeta only) | fail_if_no_progress refine Keeps.of_mk ?_)

theorem execRor_keeps {z s : State} (t : Nat) (k : Nat) (byX : Bool) (v : Nat) (hK : Keeps z s) : KeepsR z (execRor t k byX v s) := by
  unfold execRor; with_reducible repeat' (first | assumption | refine KeepsR.of_next ?_ | apply Keeps.ite | split | apply crank_keeps | apply crankRor_kept | fail_if_no_progress refine Keeps.of_mk ?_)

theorem crankMul_kept (k : Nat) : Kept (crankMul k) := by
  unfold crankMul; with_reducible repeat' (first | assumption | split | apply onCore_kept | (intro z s hK; try dsimp -zeta only) | fail_if_no_progress refine Keeps.of_mk ?_)

theorem execMul_keeps {z s : State} (t : Nat) (k : Nat) (hK : Keeps z s) : KeepsR z (execMul t k s) := by
  unfold execMul; with_reducible repeat' (first | assumption | refine KeepsR.of_next ?_ | apply crank_keeps | apply crankMul_kept | fail_if_no_progress refine Keeps.of_mk ?_)

theorem crankMulhu_kept (k : Nat) : Kept (crankMulhu k) := by
  unfold crankMulhu; with_reducible repeat' (first | assumption | apply onCore_kept | (intro z s hK; try dsimp -zeta only) | fail_if_no_progress refine Keeps.of_mk ?_)

theorem execMulhu_keeps {z s : State} (t : Nat) (k : Nat) (hK : Keeps z s) : KeepsR z (execMulhu t k s) := by
  unfold execMulhu; with_reducible repeat' (first | assumption | refine KeepsR.of_next ?_ | apply crank_keeps | apply crankMulhu_kept | fail_if_no_progress refine Keeps.of_mk ?_)

theorem crankMulhs_kept (k : Nat) : Kept (crankMulhs k) := by
  unfold crankMulhs; with_reducible repeat' (first | assumption | split | apply onCore_kept | (intro z s hK; try dsimp -zeta only) | fail_if_no_progress refine Keeps.of_mk ?_)

theorem execMulhs_keeps {z s : State} (t : Nat) (k : Nat) (hK : Keeps z s) : KeepsR z (execMulhs t k s) := by
  unfold execMulhs; with_reducible repeat' (first | assumption | refine KeepsR.of_next ?_ | apply crank_keeps | apply crankMulhs_kept | fail_if_no_progress refine Keeps.of_mk ?_)

theorem crankCmpX_kept (k : Nat) (r : CReg) (v : Nat) : Kept (crankCmpX k r v) := by
  unfold crankCmpX; with_reducible repeat' (first | assumption | split | apply onCore_kept | (intro z s hK; try dsimp -zeta only) | fail_if_no_progress refine Keeps.of_mk ?_)

theorem execCmpX_keeps {z s : State} (t : Nat) (k : Nat) (r : CReg) (v : Nat) (hK : Keeps z s) : KeepsR z (execCmpX t k r v s) := by
  unfold execCmpX; with_reducible repeat' (first | assumption | refine KeepsR.of_next ?_ | apply Keeps.ite | split | apply crank_keeps | apply crankCmpX_kept | fail_if_no_progress refine Keeps.of_mk ?_)

theorem crankAddX_kept (k : Nat) (r : CReg) (v : Nat) : Kept (crankAddX k r v) := by
  unfold crankAddX; with_reducible repeat' (first | assumption | split | apply onCore_kept | (intro z s hK; try dsimp -zeta only) | fail_if_no_progress refine Keeps.of_mk ?_)

theorem execAddX_keeps {z s : State} (t : Nat) (k : Nat) (r : CReg) (v : Nat) (hK : Keeps z s) : KeepsR z (execAddX t k r v s) := by
  unfold execAddX; with_reducible repeat' (first | assumption | refine KeepsR.of_next ?_ | apply Keeps.ite | split | apply crank_keeps | apply crankAddX_kept | fail_if_no_progress refine Keeps.of_mk ?_)

theorem crankBr_kept (k : Nat) (q : Cond) (v : Nat) : Kept (crankBr k q v) := by
  unfold crankBr; with_reducible repeat' (first | assumption | apply Keeps.ite | split | apply onCore_kept | (intro z s hK; try dsimp -zeta only) | fail_if_no_progress refine Keeps.of_mk ?_)

theorem execBr_keeps {z s : State} (t : Nat) (k : Nat) (c : Cond) (v : Nat) (hK : Keeps z s) : KeepsR z (execBr t k c v s) := by
  unfold execBr; with_reducible repeat' (first | assumption | refine KeepsR.of_next ?_ | apply crank_keeps | apply crankBr_kept | fail_if_no_progress refine Keeps.of_mk ?_)

theorem crankLoop_kept (k : Nat) (v : Nat) : Kept (crankLoop k v) := by
  unfold crankLoop; with_reducible repeat' (first | assumption | (extract_lets +implicits +onlyGivenNames x; first | (refine Keeps.named (z := z) (x := x) ?_ fun hx => ?_; (on_goal 1 => dsimp -zeta only [x]; clear x); (on_goal 2 => clear_value x)) | clear_value x) | apply Keeps.ite | split | apply onCore_kept | (intro z s hK; try dsimp -zeta only) | fail_if_no_progress refine Keeps.of_mk ?_)

theorem execLoopX_keeps {z s : State} (t : Nat) (k : Nat) (v : Nat) (hK : Keeps z s) : KeepsR z (execLoopX t k v s) := by
  unfold execLoopX; with_reducible repeat' (first | assumption | refine KeepsR.of_next ?_ | apply crank_keeps | apply crankLoop_kept | fail_if_no_progress refine Keeps.of_mk ?_)

theorem crankJmp_kept (k : Nat) (byX : Bool) (v : Nat) : Kept (crankJmp k byX v) := by
  unfold crankJmp; with_reducible repeat' (first | assumption | (extract_lets +implicits +onlyGivenNames x; first | (refine Keeps.named (z := z) (x := x) ?_ fun hx => ?_; (on_goal 1 => dsimp -zeta only [x]; clear x); (on_goal 2 => clear_value x)) | clear_value x) | split | apply onCore_kept | (intro z s hK; try dsimp -zeta only) | fail_if_no_progress refine Keeps.of_mk ?_)

theorem execJmp_keeps {z s : State} (t : Nat) (k : Nat) (byX : Bool) (v : Nat) (hK : Keeps z s) : KeepsR z (execJmp t k byX v s) := by
  unfold execJmp; with_reducible repeat' (first | assumption | refine KeepsR.of_next ?_ | apply Keeps.ite | split | apply crank_keeps | apply crankJmp_kept | fail_if_no_progress refine Keeps.of_mk ?_)

theorem crankCall_kept (k : Nat) (byX : Bool) (v : Nat) : Kept (crankCall k byX v) := by
  unfold crankCall; with_reducible repeat' (first | assumption | (extract_lets +implicits +onlyGivenNames x; first | (refine Keeps.named (z := z) (x := x) ?_ fun hx => ?_; (on_goal 1 => dsimp -zeta only [x]; clear x); (on_goal 2 => clear_value x)) | clear_value x) | split | apply pushWord_kept | apply State.modCore_keeps | (intro z s hK; try dsimp -zeta only) | fail_if_no_progress refine Keeps.of_mk ?_ | refine Keeps.of_pair (by assumption) ?_ | refine Keeps.of_pair_fst (by assumption) ?_)

theorem execCall_keeps {z s : State} (t : Nat) (k : Nat) (byX : Bool) (v : Nat) (hK : Keeps z s) : KeepsR z (execCall t k byX v s) := by
  unfold execCall; with_reducible repeat' (first | assumption | refine KeepsR.of_next ?_ | apply Keeps.ite | split | apply crank_keeps | apply crankCall_kept | fail_if_no_progress refine Keeps.of_mk ?_)

theorem crankRet_kept (k : Nat) : Kept (crankRet k) := by
  unfold crankRet; with_reducible repeat' (first | assumption | (extract_lets +implicits +onlyGivenNames x; first | (refine Keeps.named (z := z) (x := x) ?_ fun hx => ?_; (on_goal 1 => dsimp -zeta only [x]; clear x); (on_goal 2 => clear_value x)) | (refine Keeps.named_snd (z := z) (x := x) ?_ fun hx => ?_; (on_goal 1 => dsimp -zeta only [x]; clear x); (on_goal 2 => clear_value x)) | clear_value x) | split | apply State.loadAt_keeps | refine Keeps.of_pair (by assumption) (State.loadAt_keeps _ _ _ ?_) | apply State.modCore_keeps | (intro z s hK; try dsimp -zeta only) | fail_if_no_progress refine Keeps.of_mk ?_ | refine Keeps.of_pair (by assumption) ?_ | refine Keeps.of_pair_fst (by assumption) ?_)

theorem execRet_keeps {z s : State} (t : Nat) (k : Nat) (hK : Keeps z s) : KeepsR z (execRet t k s) := by
  unfold execRet; with_reducible repeat' (first | assumption | refine KeepsR.of_next ?_ | apply crank_keeps | apply crankRet_kept | fail_if_no_progress refine Keeps.of_mk ?_)

theorem crankPush_kept (k : Nat) (r : CReg) : Kept (crankPush k r) := by
  unfold crankPush; with_reducible repeat' (first | assumption | apply pushWord_kept | (intro z s hK; try dsimp -zeta only) | fail_if_no_progress refine Keeps.of_mk ?_)

theorem execPush_keeps {z s : State} (t : Nat) (k : Nat) (r : CReg) (hK : Keeps z s) : KeepsR z (execPush t k r s) := by
  unfold execPush; with_reducible repeat' (first | assumption | refine KeepsR.of_next ?_ | apply crank_keeps | apply crankPush_kept | fail_if_no_progress refine Keeps.of_mk ?_)

theorem crankPop_kept (k : Nat) (r : CReg) : Kept (crankPop k r) := by
  unfold crankPop; with_reducible repeat' (first | assumption | (extract_lets +implicits +onlyGivenNames x; first | (refine Keeps.named (z := z) (x := x) ?_ fun hx => ?_; (on_goal 1 => dsimp -zeta only [x]; clear x); (on_goal 2 => clear_value x)) | clear_value x) | split | apply loadInto_kept | (intro z s hK; try dsimp -zeta only) | fail_if_no_progress refine Keeps.of_mk ?_)

theorem execPop_keeps {z s : State} (t : Nat) (k : Nat) (r : CReg) (hK : Keeps z s) : KeepsR z (execPop t k r s) := by
  unfold execPop; with_reducible repeat' (first | assumption | refine KeepsR.of_next ?_ | apply crank_keeps | apply crankPop_kept | fail_if_no_progress refine Keeps.of_mk ?_)

theorem crankLl_kept (k : Nat) (y : Bool) (v : Nat) : Kept (crankLl k y v) := by
  unfold crankLl; with_reducible repeat' (first | assumption | (extract_lets +implicits +onlyGivenNames x; first | (refine Keeps.named (z := z) (x := x) ?_ fun hx => ?_; (on_goal 1 => dsimp -zeta only [x]; clear x); (on_goal 2 => clear_value x)) | clear_value x) | apply Keeps.ite | split | apply loadInto_kept | (intro z s hK; try dsimp -zeta only) | fail_if_no_progress refine Keeps.of_mk ?_ | refine Keeps.of_pair (by assumption) ?_ | refine Keeps.of_pair_fst (by assumption) ?_)

theorem execLl_keeps {z s : State} (t : Nat) (k : Nat) (y : Bool) (v : Nat) (hK : Keeps z s) : KeepsR z (execLl t k y v s) := by
  unfold execLl; with_reducible repeat' (first | assumption | refine KeepsR.of_next ?_ | apply Keeps.ite | split | apply crank_keeps | apply crankLl_kept | fail_if_no_progress refine Keeps.of_mk ?_)

theorem State.scStore_keeps {z s : State} (k : Nat) (ea : Nat) (w : Word) (hK : Keeps z s) : Keeps z (State.scStore s k ea w).1 := by
  unfold State.scStore; with_reducible repeat' (first | assumption | (extract_lets +implicits +onlyGivenNames x; first | (refine Keeps.named (z := z) (x := x) ?_ fun hx => ?_; (on_goal 1 => dsimp -zeta only [x]; clear x); (on_goal 2 => clear_value x)) | clear_value x) | apply Keeps.ite | split | apply State.drainAll_keeps | apply State.memWrite_keeps | apply State.ownWrite_keeps | fail_if_no_progress refine Keeps.of_mk ?_ | refine Keeps.of_pair (by assumption) ?_ | refine Keeps.of_pair_fst (by assumption) ?_)

theorem crankSc_kept (k : Nat) (y : Bool) (v : Nat) : Kept (crankSc k y v) := by
  unfold crankSc; with_reducible repeat' (first | assumption | (extract_lets +implicits +onlyGivenNames x; first | (refine Keeps.named (z := z) (x := x) ?_ fun hx => ?_; (on_goal 1 => dsimp -zeta only [x]; clear x); (on_goal 2 => clear_value x)) | (refine Keeps.named_fst (z := z) (x := x) ?_ fun hx => ?_; (on_goal 1 => dsimp -zeta only [x]; clear x); (on_goal 2 => clear_value x)) | clear_value x) | apply Keeps.ite | split | apply State.scStore_keeps | refine Keeps.of_pair_fst (by assumption) (State.scStore_keeps _ _ _ ?_) | apply State.dataSeen_keeps | apply State.clearLink_keeps | apply State.modCore_keeps | (intro z s hK; try dsimp -zeta only) | fail_if_no_progress refine Keeps.of_mk ?_ | refine Keeps.of_pair (by assumption) ?_ | refine Keeps.of_pair_fst (by assumption) ?_)

theorem execSc_keeps {z s : State} (t : Nat) (k : Nat) (y : Bool) (v : Nat) (hK : Keeps z s) : KeepsR z (execSc t k y v s) := by
  unfold execSc; with_reducible repeat' (first | assumption | refine KeepsR.of_next ?_ | apply Keeps.ite | split | apply crank_keeps | apply crankSc_kept | fail_if_no_progress refine Keeps.of_mk ?_)

theorem crankWralt_kept (k : Nat) (v : Nat) : Kept (crankWralt k v) := by
  unfold crankWralt; with_reducible repeat' (first | assumption | split | apply onCore_kept | (intro z s hK; try dsimp -zeta only) | fail_if_no_progress refine Keeps.of_mk ?_)

theorem execWralt_keeps {z s : State} (t : Nat) (k : Nat) (v : Nat) (hK : Keeps z s) : KeepsR z (execWralt t k v s) := by
  unfold execWralt; with_reducible repeat' (first | assumption | refine KeepsR.of_next ?_ | apply crank_keeps | apply crankWralt_kept | fail_if_no_progress refine Keeps.of_mk ?_)

theorem crankRdalt_kept (k : Nat) (v : Nat) : Kept (crankRdalt k v) := by
  unfold crankRdalt; with_reducible repeat' (first | assumption | split | apply onCore_kept | (intro z s hK; try dsimp -zeta only) | fail_if_no_progress refine Keeps.of_mk ?_)

theorem execRdalt_keeps {z s : State} (t : Nat) (k : Nat) (v : Nat) (hK : Keeps z s) : KeepsR z (execRdalt t k v s) := by
  unfold execRdalt; with_reducible repeat' (first | assumption | refine KeepsR.of_next ?_ | apply crank_keeps | apply crankRdalt_kept | fail_if_no_progress refine Keeps.of_mk ?_)

theorem onSlot_kept (k : Nat) (slot : Nat) (legal : Bool) (f : Body) (hf : Kept f) : Kept (onSlot k slot legal f) := by
  unfold onSlot; with_reducible repeat' (first | assumption | apply Keeps.ite | split | apply hf | (intro z s hK; try dsimp -zeta only) | fail_if_no_progress refine Keeps.of_mk ?_)

theorem onCop_kept (k : Nat) (slot : Nat) (legal : Bool) (f : CopRegs → CopRegs) : Kept (onCop k slot legal f) := by
  unfold onCop; with_reducible repeat' (first | assumption | (extract_lets +implicits +onlyGivenNames x; first | (refine Keeps.named (z := z) (x := x) ?_ fun hx => ?_; (on_goal 1 => dsimp -zeta only [x]; clear x); (on_goal 2 => clear_value x)) | clear_value x) | split | apply onSlot_kept | apply onCore_kept | (intro z s hK; try dsimp -zeta only) | fail_if_no_progress refine Keeps.of_mk ?_)

theorem crankCpwr_kept (k : Nat) (slot : Nat) (v : Nat) : Kept (crankCpwr k slot v) := by
  unfold crankCpwr; with_reducible repeat' (first | assumption | (extract_lets +implicits +onlyGivenNames x; first | (refine Keeps.named (z := z) (x := x) ?_ fun hx => ?_; (on_goal 1 => dsimp -zeta only [x]; clear x); (on_goal 2 => clear_value x)) | clear_value x) | apply onCop_kept | (intro z s hK; try dsimp -zeta only) | fail_if_no_progress refine Keeps.of_mk ?_)

theorem execCpwr_keeps {z s : State} (t : Nat) (k : Nat) (slot : Nat) (v : Nat) (hK : Keeps z s) : KeepsR z (execCpwr t k slot v s) := by
  unfold execCpwr; with_reducible repeat' (first | assumption | refine KeepsR.of_next ?_ | apply crank_keeps | apply crankCpwr_kept | fail_if_no_progress refine Keeps.of_mk ?_)

theorem crankCprd_kept (k : Nat) (slot : Nat) (v : Nat) : Kept (crankCprd k slot v) := by
  unfold crankCprd; with_reducible repeat' (first | assumption | split | apply onSlot_kept | apply onCore_kept | (intro z s hK; try dsimp -zeta only) | fail_if_no_progress refine Keeps.of_mk ?_)

theorem execCprd_keeps {z s : State} (t : Nat) (k : Nat) (slot : Nat) (v : Nat) (hK : Keeps z s) : KeepsR z (execCprd t k slot v s) := by
  unfold execCprd; with_reducible repeat' (first | assumption | refine KeepsR.of_next ?_ | apply crank_keeps | apply crankCprd_kept | fail_if_no_progress refine Keeps.of_mk ?_)

theorem crankDivu_kept (k : Nat) : Kept (crankDivu k) := by
  unfold crankDivu; with_reducible repeat' (first | assumption | apply onCop_kept | (intro z s hK; try dsimp -zeta only) | fail_if_no_progress refine Keeps.of_mk ?_)

theorem execDivu_keeps {z s : State} (t : Nat) (k : Nat) (v : Nat) (hK : Keeps z s) : KeepsR z (execDivu t k v s) := by
  unfold execDivu; with_reducible repeat' (first | assumption | refine KeepsR.of_next ?_ | apply crank_keeps | apply crankDivu_kept | fail_if_no_progress refine Keeps.of_mk ?_)

theorem crankDivs_kept (k : Nat) : Kept (crankDivs k) := by
  unfold crankDivs; with_reducible repeat' (first | assumption | apply onCop_kept | (intro z s hK; try dsimp -zeta only) | fail_if_no_progress refine Keeps.of_mk ?_)

theorem execDivs_keeps {z s : State} (t : Nat) (k : Nat) (v : Nat) (hK : Keeps z s) : KeepsR z (execDivs t k v s) := by
  unfold execDivs; with_reducible repeat' (first | assumption | refine KeepsR.of_next ?_ | apply crank_keeps | apply crankDivs_kept | fail_if_no_progress refine Keeps.of_mk ?_)

theorem crankMacs_kept (k : Nat) : Kept (crankMacs k) := by
  unfold crankMacs; with_reducible repeat' (first | assumption | apply onCop_kept | (intro z s hK; try dsimp -zeta only) | fail_if_no_progress refine Keeps.of_mk ?_)

theorem execMacs_keeps {z s : State} (t : Nat) (k : Nat) (v : Nat) (hK : Keeps z s) : KeepsR z (execMacs t k v s) := by
  unfold execMacs; with_reducible repeat' (first | assumption | refine KeepsR.of_next ?_ | apply crank_keeps | apply crankMacs_kept | fail_if_no_progress refine Keeps.of_mk ?_)

theorem crankMacu_kept (k : Nat) : Kept (crankMacu k) := by
  unfold crankMacu; with_reducible repeat' (first | assumption | apply onCop_kept | (intro z s hK; try dsimp -zeta only) | fail_if_no_progress refine Keeps.of_mk ?_)

theorem execMacu_keeps {z s : State} (t : Nat) (k : Nat) (v : Nat) (hK : Keeps z s) : KeepsR z (execMacu t k v s) := by
  unfold execMacu; with_reducible repeat' (first | assumption | refine KeepsR.of_next ?_ | apply crank_keeps | apply crankMacu_kept | fail_if_no_progress refine Keeps.of_mk ?_)

theorem crankMsus_kept (k : Nat) : Kept (crankMsus k) := by
  unfold crankMsus; with_reducible repeat' (first | assumption | apply onCop_kept | (intro z s hK; try dsimp -zeta only) | fail_if_no_progress refine Keeps.of_mk ?_)

theorem execMsus_keeps {z s : State} (t : Nat) (k : Nat) (v : Nat) (hK : Keeps z s) : KeepsR z (execMsus t k v s) := by
  unfold execMsus; with_reducible repeat' (first | assumption | refine KeepsR.of_next ?_ | apply crank_keeps | apply crankMsus_kept | fail_if_no_progress refine Keeps.of_mk ?_)

theorem crankClr_kept (k : Nat) : Kept (crankClr k) := by
  unfold crankClr; with_reducible repeat' (first | assumption | (extract_lets +implicits +onlyGivenNames x; first | (refine Keeps.named (z := z) (x := x) ?_ fun hx => ?_; (on_goal 1 => dsimp -zeta only [x]; clear x); (on_goal 2 => clear_value x)) | clear_value x) | split | apply onCop_kept | (intro z s hK; try dsimp -zeta only) | fail_if_no_progress refine Keeps.of_mk ?_)

theorem execClr_keeps {z s : State} (t : Nat) (k : Nat) (v : Nat) (hK : Keeps z s) : KeepsR z (execClr t k v s) := by
  unfold execClr; with_reducible repeat' (first | assumption | refine KeepsR.of_next ?_ | apply crank_keeps | apply crankClr_kept | fail_if_no_progress refine Keeps.of_mk ?_)

theorem crankClz_kept (k : Nat) : Kept (crankClz k) := by
  unfold crankClz; with_reducible repeat' (first | assumption | (extract_lets +implicits +onlyGivenNames x; first | (refine Keeps.named (z := z) (x := x) ?_ fun hx => ?_; (on_goal 1 => dsimp -zeta only [x]; clear x); (on_goal 2 => clear_value x)) | clear_value x) | split | apply onCop_kept | (intro z s hK; try dsimp -zeta only) | fail_if_no_progress refine Keeps.of_mk ?_)

theorem execClz_keeps {z s : State} (t : Nat) (k : Nat) (v : Nat) (hK : Keeps z s) : KeepsR z (execClz t k v s) := by
  unfold execClz; with_reducible repeat' (first | assumption | refine KeepsR.of_next ?_ | apply crank_keeps | apply crankClz_kept | fail_if_no_progress refine Keeps.of_mk ?_)

theorem crankPopc_kept (k : Nat) : Kept (crankPopc k) := by
  unfold crankPopc; with_reducible repeat' (first | assumption | (extract_lets +implicits +onlyGivenNames x; first | (refine Keeps.named (z := z) (x := x) ?_ fun hx => ?_; (on_goal 1 => dsimp -zeta only [x]; clear x); (on_goal 2 => clear_value x)) | clear_value x) | split | apply onCop_kept | (intro z s hK; try dsimp -zeta only) | fail_if_no_progress refine Keeps.of_mk ?_)

theorem execPopc_keeps {z s : State} (t : Nat) (k : Nat) (v : Nat) (hK : Keeps z s) : KeepsR z (execPopc t k v s) := by
  unfold execPopc; with_reducible repeat' (first | assumption | refine KeepsR.of_next ?_ | apply crank_keeps | apply crankPopc_kept | fail_if_no_progress refine Keeps.of_mk ?_)

theorem crankExtu_kept (k : Nat) (v : Nat) : Kept (crankExtu k v) := by
  unfold crankExtu; with_reducible repeat' (first | assumption | apply onCop_kept | (intro z s hK; try dsimp -zeta only) | fail_if_no_progress refine Keeps.of_mk ?_)

theorem execExtu_keeps {z s : State} (t : Nat) (k : Nat) (v : Nat) (hK : Keeps z s) : KeepsR z (execExtu t k v s) := by
  unfold execExtu; with_reducible repeat' (first | assumption | refine KeepsR.of_next ?_ | apply crank_keeps | apply crankExtu_kept | fail_if_no_progress refine Keeps.of_mk ?_)

theorem crankExts_kept (k : Nat) (v : Nat) : Kept (crankExts k v) := by
  unfold crankExts; with_reducible repeat' (first | assumption | apply onCop_kept | (intro z s hK; try dsimp -zeta only) | fail_if_no_progress refine Keeps.of_mk ?_)

theorem execExts_keeps {z s : State} (t : Nat) (k : Nat) (v : Nat) (hK : Keeps z s) : KeepsR z (execExts t k v s) := by
  unfold execExts; with_reducible repeat' (first | assumption | refine KeepsR.of_next ?_ | apply crank_keeps | apply crankExts_kept | fail_if_no_progress refine Keeps.of_mk ?_)

theorem crankIns_kept (k : Nat) (v : Nat) : Kept (crankIns k v) := by
  unfold crankIns; with_reducible repeat' (first | assumption | apply onCop_kept | (intro z s hK; try dsimp -zeta only) | fail_if_no_progress refine Keeps.of_mk ?_)

theorem execIns_keeps {z s : State} (t : Nat) (k : Nat) (v : Nat) (hK : Keeps z s) : KeepsR z (execIns t k v s) := by
  unfold execIns; with_reducible repeat' (first | assumption | refine KeepsR.of_next ?_ | apply crank_keeps | apply crankIns_kept | fail_if_no_progress refine Keeps.of_mk ?_)

theorem crankRev_kept (k : Nat) : Kept (crankRev k) := by
  unfold crankRev; with_reducible repeat' (first | assumption | (extract_lets +implicits +onlyGivenNames x; first | (refine Keeps.named (z := z) (x := x) ?_ fun hx => ?_; (on_goal 1 => dsimp -zeta only [x]; clear x); (on_goal 2 => clear_value x)) | clear_value x) | split | apply onCop_kept | (intro z s hK; try dsimp -zeta only) | fail_if_no_progress refine Keeps.of_mk ?_)

theorem execRev_keeps {z s : State} (t : Nat) (k : Nat) (v : Nat) (hK : Keeps z s) : KeepsR z (execRev t k v s) := by
  unfold execRev; with_reducible repeat' (first | assumption | refine KeepsR.of_next ?_ | apply crank_keeps | apply crankRev_kept | fail_if_no_progress refine Keeps.of_mk ?_)

theorem crankSnap_kept (k : Nat) : Kept (crankSnap k) := by
  unfold crankSnap; with_reducible repeat' (first | assumption | (extract_lets +implicits +onlyGivenNames x; first | (refine Keeps.named (z := z) (x := x) ?_ fun hx => ?_; (on_goal 1 => dsimp -zeta only [x]; clear x); (on_goal 2 => clear_value x)) | clear_value x) | split | apply onCop_kept | (intro z s hK; try dsimp -zeta only) | fail_if_no_progress refine Keeps.of_mk ?_)

theorem execSnap_keeps {z s : State} (t : Nat) (k : Nat) (v : Nat) (hK : Keeps z s) : KeepsR z (execSnap t k v s) := by
  unfold execSnap; with_reducible repeat' (first | assumption | refine KeepsR.of_next ?_ | apply crank_keeps | apply crankSnap_kept | fail_if_no_progress refine Keeps.of_mk ?_)

theorem crankWaituntil_kept (k : Nat) : Kept (crankWaituntil k) := by
  unfold crankWaituntil; with_reducible repeat' (first | assumption | (extract_lets +implicits +onlyGivenNames x; first | (refine Keeps.named (z := z) (x := x) ?_ fun hx => ?_; (on_goal 1 => dsimp -zeta only [x]; clear x); (on_goal 2 => clear_value x)) | clear_value x) | apply Keeps.ite | split | apply onSlot_kept | apply onCore_kept | (intro z s hK; try dsimp -zeta only) | fail_if_no_progress refine Keeps.of_mk ?_)

theorem execWaituntil_keeps {z s : State} (t : Nat) (k : Nat) (v : Nat) (hK : Keeps z s) : KeepsR z (execWaituntil t k v s) := by
  unfold execWaituntil; with_reducible repeat' (first | assumption | refine KeepsR.of_next ?_ | apply crank_keeps | apply crankWaituntil_kept | fail_if_no_progress refine Keeps.of_mk ?_)

theorem execWaituntilExpire_keeps {z s : State} (t : Nat) (k : Nat) (hK : Keeps z s) : KeepsR z (execWaituntilExpire t k s) := by
  unfold execWaituntilExpire; with_reducible repeat' (first | assumption | refine KeepsR.of_next ?_ | (extract_lets +implicits +onlyGivenNames x; first | (refine Keeps.named (z := z) (x := x) ?_ fun hx => ?_; (on_goal 1 => dsimp -zeta only [x]; clear x); (on_goal 2 => clear_value x)) | clear_value x) | apply Keeps.ite | split | apply State.at_keeps | apply State.modCore_keeps | fail_if_no_progress refine Keeps.of_mk ?_)

theorem decodeModes_keeps (k op v : Nat) : KeptD (decodeModes k op v) := by
  unfold decodeModes
  extract_lets hi up plain
  clear_value hi up
  split
  · with_reducible repeat' (first | apply KeptD.ite | apply KeptD.none | apply KeptD.some | apply crankLdu_kept)
  · extract_lets mem
    clear_value mem
    split <;> with_reducible repeat' (first | apply KeptD.ite | apply KeptD.none | apply KeptD.some | apply crankAdd_kept | apply crankAddX_kept | apply crankAddc_kept | apply crankAnd_kept | apply crankBr_kept | apply crankCall_kept | apply crankClr_kept | apply crankClrC_kept | apply crankClz_kept | apply crankCmp_kept | apply crankCmpX_kept | apply crankCprd_kept | apply crankCpwr_kept | apply crankDbgbrk_kept | apply crankDec_kept | apply crankDisF_kept | apply crankDisN_kept | apply crankDivs_kept | apply crankDivu_kept | apply crankEnF_kept | apply crankEnN_kept | apply crankExts_kept | apply crankExtu_kept | apply crankFence_kept | apply crankInc_kept | apply crankIns_kept | apply crankIret_kept | apply crankJmp_kept | apply crankLd_kept | apply crankLdB_kept | apply crankLdH_kept | apply crankLdu_kept | apply crankLl_kept | apply crankLoop_kept | apply crankMacs_kept | apply crankMacu_kept | apply crankMov_kept | apply crankMsus_kept | apply crankMul_kept | apply crankMulhs_kept | apply crankMulhu_kept | apply crankNeg_kept | apply crankNop_kept | apply crankNot_kept | apply crankOr_kept | apply crankPop_kept | apply crankPopc_kept | apply crankPush_kept | apply crankRdalt_kept | apply crankRet_kept | apply crankRev_kept | apply crankRor_kept | apply crankSar_kept | apply crankSc_kept | apply crankSetC_kept | apply crankShl_kept | apply crankShr_kept | apply crankSnap_kept | apply crankSt_kept | apply crankStB_kept | apply crankStH_kept | apply crankSub_kept | apply crankSubc_kept | apply crankTest_kept | apply crankTrap_kept | apply crankUnlink_kept | apply crankWait_kept | apply crankWaituntil_kept | apply crankWralt_kept | apply crankXor_kept | apply decodeCop_kept)

theorem decodeCop_kept (k : Nat) (slot : Nat) (f : Nat) (arg : Nat) : Kept (decodeCop k slot f arg) := by
  unfold decodeCop; with_reducible repeat' (first | assumption | (extract_lets +implicits +onlyGivenNames x; first | (refine Keeps.named (z := z) (x := x) ?_ fun hx => ?_; (on_goal 1 => dsimp -zeta only [x]; clear x); (on_goal 2 => clear_value x)) | clear_value x) | split | apply crankDivu_kept | apply crankDivs_kept | apply crankMacs_kept | apply crankMacu_kept | apply crankMsus_kept | apply crankClr_kept | apply crankClz_kept | apply crankPopc_kept | apply crankExtu_kept | apply crankExts_kept | apply crankIns_kept | apply crankRev_kept | apply crankSnap_kept | apply crankWaituntil_kept | apply onSlot_kept | apply onCore_kept | (intro z s hK; try dsimp -zeta only) | fail_if_no_progress refine Keeps.of_mk ?_ | refine Keeps.of_pair (by assumption) ?_ | refine Keeps.of_pair_fst (by assumption) ?_)

theorem decodeRest_keeps (k op v : Nat) : KeptD (decodeRest k op v) := by
  unfold decodeRest
  extract_lets p
  split <;> first | (apply KeptD.some; with_reducible first | apply crankAdd_kept | apply crankAddX_kept | apply crankAddc_kept | apply crankAnd_kept | apply crankBr_kept | apply crankCall_kept | apply crankClr_kept | apply crankClrC_kept | apply crankClz_kept | apply crankCmp_kept | apply crankCmpX_kept | apply crankCprd_kept | apply crankCpwr_kept | apply crankDbgbrk_kept | apply crankDec_kept | apply crankDisF_kept | apply crankDisN_kept | apply crankDivs_kept | apply crankDivu_kept | apply crankEnF_kept | apply crankEnN_kept | apply crankExts_kept | apply crankExtu_kept | apply crankFence_kept | apply crankInc_kept | apply crankIns_kept | apply crankIret_kept | apply crankJmp_kept | apply crankLd_kept | apply crankLdB_kept | apply crankLdH_kept | apply crankLdu_kept | apply crankLl_kept | apply crankLoop_kept | apply crankMacs_kept | apply crankMacu_kept | apply crankMov_kept | apply crankMsus_kept | apply crankMul_kept | apply crankMulhs_kept | apply crankMulhu_kept | apply crankNeg_kept | apply crankNop_kept | apply crankNot_kept | apply crankOr_kept | apply crankPop_kept | apply crankPopc_kept | apply crankPush_kept | apply crankRdalt_kept | apply crankRet_kept | apply crankRev_kept | apply crankRor_kept | apply crankSar_kept | apply crankSc_kept | apply crankSetC_kept | apply crankShl_kept | apply crankShr_kept | apply crankSnap_kept | apply crankSt_kept | apply crankStB_kept | apply crankStH_kept | apply crankSub_kept | apply crankSubc_kept | apply crankTest_kept | apply crankTrap_kept | apply crankUnlink_kept | apply crankWait_kept | apply crankWaituntil_kept | apply crankWralt_kept | apply crankXor_kept | apply decodeCop_kept) | skip
  with_reducible repeat' (first | apply KeptD.ite | apply KeptD.none | extract_lets | split | apply KeptD.some | apply crankAdd_kept | apply crankAddX_kept | apply crankAddc_kept | apply crankAnd_kept | apply crankBr_kept | apply crankCall_kept | apply crankClr_kept | apply crankClrC_kept | apply crankClz_kept | apply crankCmp_kept | apply crankCmpX_kept | apply crankCprd_kept | apply crankCpwr_kept | apply crankDbgbrk_kept | apply crankDec_kept | apply crankDisF_kept | apply crankDisN_kept | apply crankDivs_kept | apply crankDivu_kept | apply crankEnF_kept | apply crankEnN_kept | apply crankExts_kept | apply crankExtu_kept | apply crankFence_kept | apply crankInc_kept | apply crankIns_kept | apply crankIret_kept | apply crankJmp_kept | apply crankLd_kept | apply crankLdB_kept | apply crankLdH_kept | apply crankLdu_kept | apply crankLl_kept | apply crankLoop_kept | apply crankMacs_kept | apply crankMacu_kept | apply crankMov_kept | apply crankMsus_kept | apply crankMul_kept | apply crankMulhs_kept | apply crankMulhu_kept | apply crankNeg_kept | apply crankNop_kept | apply crankNot_kept | apply crankOr_kept | apply crankPop_kept | apply crankPopc_kept | apply crankPush_kept | apply crankRdalt_kept | apply crankRet_kept | apply crankRev_kept | apply crankRor_kept | apply crankSar_kept | apply crankSc_kept | apply crankSetC_kept | apply crankShl_kept | apply crankShr_kept | apply crankSnap_kept | apply crankSt_kept | apply crankStB_kept | apply crankStH_kept | apply crankSub_kept | apply crankSubc_kept | apply crankTest_kept | apply crankTrap_kept | apply crankUnlink_kept | apply crankWait_kept | apply crankWaituntil_kept | apply crankWralt_kept | apply crankXor_kept | apply decodeCop_kept)

theorem decodeCrank_keeps (k : Nat) (w : Word) : KeptD (decodeCrank k w) :=
  KeptD.ite (decodeModes_keeps _ _ _) (decodeRest_keeps _ _ _)

theorem State.runWord_keeps {z s : State} (k : Nat) (w : Word) (hK : Keeps z s) : Keeps z (State.runWord s k w) := by
  unfold State.runWord
  with_reducible repeat' (first | assumption | (extract_lets +implicits +onlyGivenNames x; first | (refine Keeps.named (z := z) (x := x) ?_ fun hx => ?_; (on_goal 1 => dsimp -zeta only [x]; clear x); (on_goal 2 => clear_value x)) | (refine Keeps.named_fst (z := z) (x := x) ?_ fun hx => ?_; (on_goal 1 => dsimp -zeta only [x]; clear x); (on_goal 2 => clear_value x)) | clear_value x) | split | exact decodeCrank_keeps _ _ _ (by assumption) | apply onCore_kept | apply State.runOne_keeps | apply onCore_kept | fail_if_no_progress refine Keeps.of_mk ?_ | refine Keeps.of_pair (by assumption) ?_ | refine Keeps.of_pair_fst (by assumption) ?_)

theorem execIllegalInstruction_keeps {z s : State} (t k : Nat) (w : Word) (hK : Keeps z s) :
    KeepsR z (execIllegalInstruction t k w s) := by
  unfold execIllegalInstruction
  with_reducible repeat' (first | assumption | refine KeepsR.of_next ?_ | (extract_lets +implicits +onlyGivenNames x; first | (refine Keeps.named (z := z) (x := x) ?_ fun hx => ?_; (on_goal 1 => dsimp -zeta only [x]; clear x); (on_goal 2 => clear_value x)) | (refine Keeps.named_fst (z := z) (x := x) ?_ fun hx => ?_; (on_goal 1 => dsimp -zeta only [x]; clear x); (on_goal 2 => clear_value x)) | clear_value x) | apply Keeps.ite | split | exact decodeCrank_keeps _ _ _ (by assumption) | apply onCore_kept | apply State.at_keeps | apply State.issue_keeps | apply onCore_kept | fail_if_no_progress refine Keeps.of_mk ?_ | refine Keeps.of_pair (by assumption) ?_ | refine Keeps.of_pair_fst (by assumption) ?_)

end Sys2Proof.Machine
end

