-- ==== Sys2Proof/Laws/KeepsDebug.lean ====
section
/-! SUPPORT. What the functions of Debug keep (see Keeps). -/

set_option linter.all false

namespace Sys2Proof.Machine

theorem State.tapSelect_keeps {z s : State} (code : Nat) (hK : Keeps z s) : Keeps z (State.tapSelect s code) := by
  unfold State.tapSelect; with_reducible repeat' (first | assumption | (extract_lets +implicits +onlyGivenNames x; first | (refine Keeps.named (z := z) (x := x) ?_ fun hx => ?_; (on_goal 1 => dsimp -zeta only [x]; clear x); (on_goal 2 => clear_value x)) | clear_value x) | fail_if_no_progress refine Keeps.of_mk ?_)

theorem execExtest_keeps {z s : State} (t : Nat) (hK : Keeps z s) : KeepsR z (execExtest t s) := by
  unfold execExtest; with_reducible repeat' (first | assumption | refine KeepsR.of_next ?_ | (extract_lets +implicits +onlyGivenNames x; first | (refine Keeps.named (z := z) (x := x) ?_ fun hx => ?_; (on_goal 1 => dsimp -zeta only [x]; clear x); (on_goal 2 => clear_value x)) | clear_value x) | apply Keeps.ite | split | apply State.at_keeps | apply State.tapSelect_keeps | fail_if_no_progress refine Keeps.of_mk ?_)

theorem execSamplePreload_keeps {z s : State} (t : Nat) (hK : Keeps z s) : KeepsR z (execSamplePreload t s) := by
  unfold execSamplePreload; with_reducible repeat' (first | assumption | refine KeepsR.of_next ?_ | apply State.at_keeps | apply State.tapSelect_keeps | fail_if_no_progress refine Keeps.of_mk ?_)

theorem execIdcode_keeps {z s : State} (t : Nat) (hK : Keeps z s) : KeepsR z (execIdcode t s) := by
  unfold execIdcode; with_reducible repeat' (first | assumption | refine KeepsR.of_next ?_ | apply State.at_keeps | apply State.tapSelect_keeps | apply State.emit_keeps | fail_if_no_progress refine Keeps.of_mk ?_)

theorem execBypass_keeps {z s : State} (t : Nat) (hK : Keeps z s) : KeepsR z (execBypass t s) := by
  unfold execBypass; with_reducible repeat' (first | assumption | refine KeepsR.of_next ?_ | apply State.at_keeps | apply State.tapSelect_keeps | fail_if_no_progress refine Keeps.of_mk ?_)

theorem execTapReset_keeps {z s : State} (t : Nat) (hK : Keeps z s) : KeepsR z (execTapReset t s) := by
  unfold execTapReset; with_reducible repeat' (first | assumption | refine KeepsR.of_next ?_ | apply State.at_keeps | apply State.tapSelect_keeps | apply State.closeDebug_keeps | fail_if_no_progress refine Keeps.of_mk ?_)

theorem execTapAuth_keeps {z s : State} (t : Nat) (body : List Byte) (hK : Keeps z s) : KeepsR z (execTapAuth t body s) := by
  unfold execTapAuth; with_reducible repeat' (first | assumption | refine KeepsR.of_next ?_ | (extract_lets +implicits +onlyGivenNames x; first | (refine Keeps.named (z := z) (x := x) ?_ fun hx => ?_; (on_goal 1 => dsimp -zeta only [x]; clear x); (on_goal 2 => clear_value x)) | (refine Keeps.named_snd (z := z) (x := x) ?_ fun hx => ?_; (on_goal 1 => dsimp -zeta only [x]; clear x); (on_goal 2 => clear_value x)) | (refine Keeps.named_fst (z := z) (x := x) ?_ fun hx => ?_; (on_goal 1 => dsimp -zeta only [x]; clear x); (on_goal 2 => clear_value x)) | clear_value x) | apply Keeps.ite | split | apply State.at_keeps | apply State.tapSelect_keeps | apply State.draw_keeps | refine Keeps.of_pair (by assumption) (State.draw_keeps ?_) | apply State.emit_keeps | apply State.set1_keeps | apply State.wr_keeps | apply State.raise_keeps | fail_if_no_progress refine Keeps.of_mk ?_ | refine Keeps.of_pair (by assumption) ?_ | refine Keeps.of_pair_fst (by assumption) ?_)

theorem execDebugSessionClose_keeps {z s : State} (t : Nat) (hK : Keeps z s) : KeepsR z (execDebugSessionClose t s) := by
  unfold execDebugSessionClose; with_reducible repeat' (first | assumption | refine KeepsR.of_next ?_ | (extract_lets +implicits +onlyGivenNames x; first | (refine Keeps.named (z := z) (x := x) ?_ fun hx => ?_; (on_goal 1 => dsimp -zeta only [x]; clear x); (on_goal 2 => clear_value x)) | clear_value x) | apply Keeps.ite | split | apply State.at_keeps | apply State.closeDebug_keeps | apply State.debugRecheck_keeps | fail_if_no_progress refine Keeps.of_mk ?_)

theorem State.voidChallenges_keeps {z s : State} (hK : Keeps z s) : Keeps z (State.voidChallenges s) := by
  unfold State.voidChallenges; with_reducible repeat' (first | assumption | (extract_lets +implicits +onlyGivenNames x; first | (refine Keeps.named (z := z) (x := x) ?_ fun hx => ?_; (on_goal 1 => dsimp -zeta only [x]; clear x); (on_goal 2 => clear_value x)) | clear_value x) | split | fail_if_no_progress refine Keeps.of_mk ?_)

theorem State.trigger_keeps {z s : State} (groups : Nat) (hK : Keeps z s) : Keeps z (State.trigger s groups) := by
  unfold State.trigger; with_reducible repeat' (first | assumption | (extract_lets +implicits +onlyGivenNames x; first | (refine Keeps.named (z := z) (x := x) ?_ fun hx => ?_; (on_goal 1 => dsimp -zeta only [x]; clear x); (on_goal 2 => clear_value x)) | clear_value x) | apply Keeps.ite | split | fail_if_no_progress refine Keeps.of_mk ?_)

theorem State.takeHalt_keeps {z s : State} (k : Nat) (r : HaltReq) (hK : Keeps z s) : Keeps z (State.takeHalt s k r) := by
  unfold State.takeHalt; with_reducible repeat' (first | assumption | (extract_lets +implicits +onlyGivenNames x; first | (refine Keeps.named (z := z) (x := x) ?_ fun hx => ?_; (on_goal 1 => dsimp -zeta only [x]; clear x); (on_goal 2 => clear_value x)) | clear_value x) | apply Keeps.ite | split | apply State.wr_keeps | apply State.setHaltReq_keeps | apply State.clearLink_keeps | apply State.voidChallenges_keeps | apply State.trigger_keeps | fail_if_no_progress refine Keeps.of_mk ?_)

theorem execHaltTaken_keeps {z s : State} (t : Nat) (k : Nat) (hK : Keeps z s) : KeepsR z (execHaltTaken t k s) := by
  unfold execHaltTaken; with_reducible repeat' (first | assumption | refine KeepsR.of_next ?_ | (extract_lets +implicits +onlyGivenNames x; first | (refine Keeps.named (z := z) (x := x) ?_ fun hx => ?_; (on_goal 1 => dsimp -zeta only [x]; clear x); (on_goal 2 => clear_value x)) | clear_value x) | apply Keeps.ite | split | apply State.at_keeps | apply State.takeHalt_keeps | fail_if_no_progress refine Keeps.of_mk ?_ | refine Keeps.of_pair (by assumption) ?_ | refine Keeps.of_pair_fst (by assumption) ?_)

theorem execCrossTrigger_keeps {z s : State} (t : Nat) (hK : Keeps z s) : KeepsR z (execCrossTrigger t s) := by
  unfold execCrossTrigger; with_reducible repeat' (first | assumption | refine KeepsR.of_next ?_ | intro x y hx | (extract_lets +implicits +onlyGivenNames x; first | (refine Keeps.named (z := z) (x := x) ?_ fun hx => ?_; (on_goal 1 => dsimp -zeta only [x]; clear x); (on_goal 2 => clear_value x)) | (refine Keeps.named_snd (z := z) (x := x) ?_ fun hx => ?_; (on_goal 1 => dsimp -zeta only [x]; clear x); (on_goal 2 => clear_value x)) | (refine Keeps.named_fst (z := z) (x := x) ?_ fun hx => ?_; (on_goal 1 => dsimp -zeta only [x]; clear x); (on_goal 2 => clear_value x)) | clear_value x) | apply Keeps.ite | split | apply State.at_keeps | apply State.askHalt_keeps | apply Keeps.foldl | apply Keeps.foldl_snd | apply Keeps.foldl_snd2 | apply Keeps.foldl_fst | fail_if_no_progress refine Keeps.of_mk ?_)

theorem State.dbgAnswer_keeps {z s : State} (status : Nat) (result : Nat) (hK : Keeps z s) : Keeps z (State.dbgAnswer s status result) := by
  unfold State.dbgAnswer; with_reducible repeat' (first | assumption | (extract_lets +implicits +onlyGivenNames x; first | (refine Keeps.named (z := z) (x := x) ?_ fun hx => ?_; (on_goal 1 => dsimp -zeta only [x]; clear x); (on_goal 2 => clear_value x)) | clear_value x) | apply State.emit_keeps | fail_if_no_progress refine Keeps.of_mk ?_)

theorem dbgOp_keeps {z s : State} (t : Nat) (f : State → State) (hf : ∀ s , Keeps z s → Keeps z (f s )) (hK : Keeps z s) : KeepsR z (dbgOp t f s) := by
  unfold dbgOp; with_reducible repeat' (first | assumption | refine KeepsR.of_next ?_ | (extract_lets +implicits +onlyGivenNames x; first | (refine Keeps.named (z := z) (x := x) ?_ fun hx => ?_; (on_goal 1 => dsimp -zeta only [x]; clear x); (on_goal 2 => clear_value x)) | clear_value x) | apply Keeps.ite | split | apply State.at_keeps | apply State.tapSelect_keeps | fail_if_no_progress refine Keeps.of_mk ?_ | apply hf)

theorem dbgHalted_keeps {z s : State} (t : Nat) (k : Nat) (f : State → State) (hf : ∀ s , Keeps z s → Keeps z (f s )) (hK : Keeps z s) : KeepsR z (dbgHalted t k f s) := by
  unfold dbgHalted; with_reducible repeat' (first | assumption | refine KeepsR.of_next ?_ | intro x hx | apply Keeps.ite | split | apply dbgOp_keeps | apply State.dbgAnswer_keeps | fail_if_no_progress refine Keeps.of_mk ?_ | apply hf)

theorem execDbgNop_keeps {z s : State} (t : Nat) (hK : Keeps z s) : KeepsR z (execDbgNop t s) := by
  unfold execDbgNop; with_reducible repeat' (first | assumption | refine KeepsR.of_next ?_ | intro x hx | split | apply dbgOp_keeps | apply State.dbgAnswer_keeps | fail_if_no_progress refine Keeps.of_mk ?_)

theorem execDbgHalt_keeps {z s : State} (t : Nat) (k : Nat) (data : Nat) (hK : Keeps z s) : KeepsR z (execDbgHalt t k data s) := by
  unfold execDbgHalt; with_reducible repeat' (first | assumption | refine KeepsR.of_next ?_ | intro x hx | (extract_lets +implicits +onlyGivenNames x; first | (refine Keeps.named (z := z) (x := x) ?_ fun hx => ?_; (on_goal 1 => dsimp -zeta only [x]; clear x); (on_goal 2 => clear_value x)) | clear_value x) | apply Keeps.ite | split | apply dbgOp_keeps | apply State.trigger_keeps | apply State.askHalt_keeps | apply State.dbgAnswer_keeps | fail_if_no_progress refine Keeps.of_mk ?_)

theorem execDbgResume_keeps {z s : State} (t : Nat) (k : Nat) (data : Nat) (hK : Keeps z s) : KeepsR z (execDbgResume t k data s) := by
  unfold execDbgResume; with_reducible repeat' (first | assumption | refine KeepsR.of_next ?_ | intro x y hx | intro x hx | (extract_lets +implicits +onlyGivenNames x; first | (refine Keeps.named (z := z) (x := x) ?_ fun hx => ?_; (on_goal 1 => dsimp -zeta only [x]; clear x); (on_goal 2 => clear_value x)) | (refine Keeps.named_snd (z := z) (x := x) ?_ fun hx => ?_; (on_goal 1 => dsimp -zeta only [x]; clear x); (on_goal 2 => clear_value x)) | (refine Keeps.named_fst (z := z) (x := x) ?_ fun hx => ?_; (on_goal 1 => dsimp -zeta only [x]; clear x); (on_goal 2 => clear_value x)) | clear_value x) | apply Keeps.ite | split | apply dbgHalted_keeps | apply State.resumeCore_keeps | apply State.dbgAnswer_keeps | apply Keeps.foldl | apply Keeps.foldl_snd | apply Keeps.foldl_snd2 | apply Keeps.foldl_fst | fail_if_no_progress refine Keeps.of_mk ?_)

theorem State.stepSlot_keeps {z s : State} (k : Nat) (hK : Keeps z s) : Keeps z (State.stepSlot s k) := by
  unfold State.stepSlot; with_reducible repeat' (first | assumption | apply Keeps.ite | split | apply State.compHalt_keeps | apply State.runWord_keeps | fail_if_no_progress refine Keeps.of_mk ?_)

theorem State.stepCore_keeps {z s : State} (k : Nat) (hK : Keeps z s) : Keeps z (State.stepCore s k) := by
  unfold State.stepCore; with_reducible repeat' (first | assumption | (extract_lets +implicits +onlyGivenNames x; first | (refine Keeps.named (z := z) (x := x) ?_ fun hx => ?_; (on_goal 1 => dsimp -zeta only [x]; clear x); (on_goal 2 => clear_value x)) | clear_value x) | apply Keeps.ite | split | apply State.fastEntry_keeps | apply State.normalEntry_keeps | apply State.runWord_keeps | apply State.stepSlot_keeps | apply State.modCore_keeps | fail_if_no_progress refine Keeps.of_mk ?_ | refine Keeps.of_pair (by assumption) ?_ | refine Keeps.of_pair_fst (by assumption) ?_)

theorem execDbgStep_keeps {z s : State} (t : Nat) (k : Nat) (hK : Keeps z s) : KeepsR z (execDbgStep t k s) := by
  unfold execDbgStep; with_reducible repeat' (first | assumption | refine KeepsR.of_next ?_ | intro x hx | (extract_lets +implicits +onlyGivenNames x; first | (refine Keeps.named (z := z) (x := x) ?_ fun hx => ?_; (on_goal 1 => dsimp -zeta only [x]; clear x); (on_goal 2 => clear_value x)) | clear_value x) | apply dbgHalted_keeps | apply State.resumeCore_keeps | apply State.stepCore_keeps | apply State.takeHalt_keeps | apply State.dbgAnswer_keeps | fail_if_no_progress refine Keeps.of_mk ?_)

theorem State.debugRead_keeps {z s : State} (k : Nat) (a : Nat) (hK : Keeps z s) : Keeps z (State.debugRead s k a).2 := by
  unfold State.debugRead; with_reducible repeat' (first | assumption | (extract_lets +implicits +onlyGivenNames x; first | (refine Keeps.named (z := z) (x := x) ?_ fun hx => ?_; (on_goal 1 => dsimp -zeta only [x]; clear x); (on_goal 2 => clear_value x)) | (refine Keeps.named_snd (z := z) (x := x) ?_ fun hx => ?_; (on_goal 1 => dsimp -zeta only [x]; clear x); (on_goal 2 => clear_value x)) | clear_value x) | apply Keeps.ite | split | apply State.loadAt_keeps | refine Keeps.of_pair (by assumption) (State.loadAt_keeps _ _ _ ?_) | fail_if_no_progress refine Keeps.of_mk ?_ | refine Keeps.of_pair (by assumption) ?_ | refine Keeps.of_pair_fst (by assumption) ?_)

theorem execDbgRead_keeps {z s : State} (t : Nat) (k : Nat) (a : Nat) (hK : Keeps z s) : KeepsR z (execDbgRead t k a s) := by
  unfold execDbgRead; with_reducible repeat' (first | assumption | refine KeepsR.of_next ?_ | intro x hx | (extract_lets +implicits +onlyGivenNames x; first | (refine Keeps.named (z := z) (x := x) ?_ fun hx => ?_; (on_goal 1 => dsimp -zeta only [x]; clear x); (on_goal 2 => clear_value x)) | (refine Keeps.named_snd (z := z) (x := x) ?_ fun hx => ?_; (on_goal 1 => dsimp -zeta only [x]; clear x); (on_goal 2 => clear_value x)) | clear_value x) | split | apply dbgHalted_keeps | apply State.debugRead_keeps | refine Keeps.of_pair (by assumption) (State.debugRead_keeps _ _ ?_) | apply State.dbgAnswer_keeps | fail_if_no_progress refine Keeps.of_mk ?_ | refine Keeps.of_pair (by assumption) ?_ | refine Keeps.of_pair_fst (by assumption) ?_)

theorem execDbgWrite_keeps {z s : State} (t : Nat) (k : Nat) (a : Nat) (w : Word) (hK : Keeps z s) : KeepsR z (execDbgWrite t k a w s) := by
  unfold execDbgWrite; with_reducible repeat' (first | assumption | refine KeepsR.of_next ?_ | intro x hx | (extract_lets +implicits +onlyGivenNames x; first | (refine Keeps.named (z := z) (x := x) ?_ fun hx => ?_; (on_goal 1 => dsimp -zeta only [x]; clear x); (on_goal 2 => clear_value x)) | (refine Keeps.named_fst (z := z) (x := x) ?_ fun hx => ?_; (on_goal 1 => dsimp -zeta only [x]; clear x); (on_goal 2 => clear_value x)) | clear_value x) | apply Keeps.ite | split | apply dbgHalted_keeps | apply State.storeAt_keeps | refine Keeps.of_pair_fst (by assumption) (State.storeAt_keeps _ _ _ _ ?_) | apply State.dbgAnswer_keeps | apply State.drainAll_keeps | fail_if_no_progress refine Keeps.of_mk ?_ | refine Keeps.of_pair (by assumption) ?_ | refine Keeps.of_pair_fst (by assumption) ?_)

theorem execDbgRegRead_keeps {z s : State} (t : Nat) (k : Nat) (i : Nat) (hK : Keeps z s) : KeepsR z (execDbgRegRead t k i s) := by
  unfold execDbgRegRead; with_reducible repeat' (first | assumption | refine KeepsR.of_next ?_ | intro x hx | (extract_lets +implicits +onlyGivenNames x; first | (refine Keeps.named (z := z) (x := x) ?_ fun hx => ?_; (on_goal 1 => dsimp -zeta only [x]; clear x); (on_goal 2 => clear_value x)) | clear_value x) | split | apply dbgHalted_keeps | apply State.dbgAnswer_keeps | fail_if_no_progress refine Keeps.of_mk ?_ | refine Keeps.of_pair (by assumption) ?_ | refine Keeps.of_pair_fst (by assumption) ?_)

theorem execDbgRegWrite_keeps {z s : State} (t : Nat) (k : Nat) (i : Nat) (w : Word) (hK : Keeps z s) : KeepsR z (execDbgRegWrite t k i w s) := by
  unfold execDbgRegWrite; with_reducible repeat' (first | assumption | refine KeepsR.of_next ?_ | intro x hx | (extract_lets +implicits +onlyGivenNames x; first | (refine Keeps.named (z := z) (x := x) ?_ fun hx => ?_; (on_goal 1 => dsimp -zeta only [x]; clear x); (on_goal 2 => clear_value x)) | clear_value x) | split | apply dbgHalted_keeps | apply State.setCore_keeps | apply State.dbgAnswer_keeps | fail_if_no_progress refine Keeps.of_mk ?_ | refine Keeps.of_pair (by assumption) ?_ | refine Keeps.of_pair_fst (by assumption) ?_)

theorem execCompWrite_keeps {z s : State} (t : Nat) (k : Nat) (a : Nat) (data : Nat) (hK : Keeps z s) : KeepsR z (execCompWrite t k a data s) := by
  unfold execCompWrite; with_reducible repeat' (first | assumption | refine KeepsR.of_next ?_ | intro x hx | (extract_lets +implicits +onlyGivenNames x; first | (refine Keeps.named (z := z) (x := x) ?_ fun hx => ?_; (on_goal 1 => dsimp -zeta only [x]; clear x); (on_goal 2 => clear_value x)) | clear_value x) | apply Keeps.ite | split | apply dbgOp_keeps | apply State.dbgAnswer_keeps | fail_if_no_progress refine Keeps.of_mk ?_)

theorem execGroupWrite_keeps {z s : State} (t : Nat) (k : Nat) (data : Nat) (hK : Keeps z s) : KeepsR z (execGroupWrite t k data s) := by
  unfold execGroupWrite; with_reducible repeat' (first | assumption | refine KeepsR.of_next ?_ | intro x hx | split | apply dbgOp_keeps | apply State.wr_keeps | apply State.dbgAnswer_keeps | fail_if_no_progress refine Keeps.of_mk ?_)

theorem execDbgReservedOp_keeps {z s : State} (t : Nat) (hK : Keeps z s) : KeepsR z (execDbgReservedOp t s) := by
  unfold execDbgReservedOp; with_reducible repeat' (first | assumption | refine KeepsR.of_next ?_ | intro x hx | split | apply dbgOp_keeps | apply State.dbgAnswer_keeps | fail_if_no_progress refine Keeps.of_mk ?_)

end Sys2Proof.Machine
end

