-- ==== Sys2Proof/Laws/KeepsDmaRun.lean ====
section
/-! SUPPORT. What the functions of DmaRun keep (see Keeps). -/

set_option linter.all false

namespace Sys2Proof.Machine

theorem State.dmaGet_keeps {z s : State} (e : Nat) (a : Nat) (n : Nat) (hK : Keeps z s) : Keeps z (State.dmaGet s e a n).2 := by
  unfold State.dmaGet; with_reducible repeat' (first | assumption | (extract_lets +implicits +onlyGivenNames x; first | (refine Keeps.named (z := z) (x := x) ?_ fun hx => ?_; (on_goal 1 => dsimp -zeta only [x]; clear x); (on_goal 2 => clear_value x)) | (refine Keeps.named_snd (z := z) (x := x) ?_ fun hx => ?_; (on_goal 1 => dsimp -zeta only [x]; clear x); (on_goal 2 => clear_value x)) | clear_value x) | apply Keeps.ite | split | apply State.memRead_keeps | refine Keeps.of_pair (by assumption) (State.memRead_keeps _ _ _ ?_) | apply State.rimRead_keeps | refine Keeps.of_pair (by assumption) (State.rimRead_keeps _ _ _ ?_) | fail_if_no_progress refine Keeps.of_mk ?_ | refine Keeps.of_pair (by assumption) ?_ | refine Keeps.of_pair_fst (by assumption) ?_)

theorem State.dmaPut_keeps {z s : State} (e : Nat) (a : Nat) (bs : List Byte) (hK : Keeps z s) : Keeps z (State.dmaPut s e a bs).2 := by
  unfold State.dmaPut; with_reducible repeat' (first | assumption | (extract_lets +implicits +onlyGivenNames x; first | (refine Keeps.named (z := z) (x := x) ?_ fun hx => ?_; (on_goal 1 => dsimp -zeta only [x]; clear x); (on_goal 2 => clear_value x)) | clear_value x) | split | apply State.memWrite_keeps | apply State.portWrite_keeps | apply State.rimWrite_keeps | fail_if_no_progress refine Keeps.of_mk ?_ | refine Keeps.of_pair (by assumption) ?_ | refine Keeps.of_pair_fst (by assumption) ?_)

theorem State.dmaGetEach_keeps {z s : State} (e a step w n : Nat) (hK : Keeps z s) :
    Keeps z (State.dmaGetEach s e a step w n).2 := by
  induction n generalizing s a with
  | zero => exact hK
  | succ n ih => unfold State.dmaGetEach; with_reducible repeat' (first | assumption | (extract_lets +implicits +onlyGivenNames x; first | (refine Keeps.named (z := z) (x := x) ?_ fun hx => ?_; (on_goal 1 => dsimp -zeta only [x]; clear x); (on_goal 2 => clear_value x)) | (refine Keeps.named_snd (z := z) (x := x) ?_ fun hx => ?_; (on_goal 1 => dsimp -zeta only [x]; clear x); (on_goal 2 => clear_value x)) | clear_value x) | split | refine Keeps.of_pair (by assumption) (ih _ ?_) | apply State.dmaGet_keeps | refine Keeps.of_pair (by assumption) (State.dmaGet_keeps _ _ _ ?_) | fail_if_no_progress refine Keeps.of_mk ?_ | refine Keeps.of_pair (by assumption) ?_ | refine Keeps.of_pair_fst (by assumption) ?_)

theorem State.dmaPutEach_keeps {z s : State} (e a step w : Nat) (bs : List Byte) (n : Nat) (hK : Keeps z s) :
    Keeps z (State.dmaPutEach s e a step w bs n).2.2 := by
  induction n generalizing s a bs with
  | zero => exact hK
  | succ n ih => unfold State.dmaPutEach; with_reducible repeat' (first | assumption | (extract_lets +implicits +onlyGivenNames x; first | (refine Keeps.named (z := z) (x := x) ?_ fun hx => ?_; (on_goal 1 => dsimp -zeta only [x]; clear x); (on_goal 2 => clear_value x)) | (refine Keeps.named_snd (z := z) (x := x) ?_ fun hx => ?_; (on_goal 1 => dsimp -zeta only [x]; clear x); (on_goal 2 => clear_value x)) | clear_value x) | split | refine Keeps.of_pair2 (by assumption) (ih _ _ ?_) | apply State.dmaPut_keeps | refine Keeps.of_pair (by assumption) (State.dmaPut_keeps _ _ _ ?_) | fail_if_no_progress refine Keeps.of_mk ?_ | refine Keeps.of_pair (by assumption) ?_ | refine Keeps.of_pair_fst (by assumption) ?_)

theorem State.dmaFill_keeps {z s : State} (e : Nat) (d : DmaDesc) (pos : Nat) (n : Nat) (hK : Keeps z s) : Keeps z (State.dmaFill s e d pos n).2 := by
  unfold State.dmaFill; with_reducible repeat' (first | assumption | (extract_lets +implicits +onlyGivenNames x; first | (refine Keeps.named (z := z) (x := x) ?_ fun hx => ?_; (on_goal 1 => dsimp -zeta only [x]; clear x); (on_goal 2 => clear_value x)) | (refine Keeps.named_snd (z := z) (x := x) ?_ fun hx => ?_; (on_goal 1 => dsimp -zeta only [x]; clear x); (on_goal 2 => clear_value x)) | clear_value x) | apply Keeps.ite | split | apply State.dmaGet_keeps | refine Keeps.of_pair (by assumption) (State.dmaGet_keeps _ _ _ ?_) | apply State.dmaGetEach_keeps | refine Keeps.of_pair (by assumption) (State.dmaGetEach_keeps _ _ _ _ _ ?_) | fail_if_no_progress refine Keeps.of_mk ?_)

theorem State.dmaEmpty_keeps {z s : State} (e : Nat) (d : DmaDesc) (pos : Nat) (bs : List Byte) (hK : Keeps z s) : Keeps z (State.dmaEmpty s e d pos bs).2.2 := by
  unfold State.dmaEmpty; with_reducible repeat' (first | assumption | (extract_lets +implicits +onlyGivenNames x; first | (refine Keeps.named (z := z) (x := x) ?_ fun hx => ?_; (on_goal 1 => dsimp -zeta only [x]; clear x); (on_goal 2 => clear_value x)) | (refine Keeps.named_snd (z := z) (x := x) ?_ fun hx => ?_; (on_goal 1 => dsimp -zeta only [x]; clear x); (on_goal 2 => clear_value x)) | clear_value x) | apply Keeps.ite | split | apply State.dmaPut_keeps | refine Keeps.of_pair (by assumption) (State.dmaPut_keeps _ _ _ ?_) | apply State.dmaPutEach_keeps | refine Keeps.of_pair2 (by assumption) (State.dmaPutEach_keeps _ _ _ _ _ _ ?_) | fail_if_no_progress refine Keeps.of_mk ?_ | refine Keeps.of_pair (by assumption) ?_ | refine Keeps.of_pair_fst (by assumption) ?_)

theorem State.dmaMove_keeps {z s : State} (e : Nat) (d : DmaDesc) (pos stop n : Nat) (hK : Keeps z s) :
    Keeps z (State.dmaMove s e d pos stop n).2.2 := by
  induction n generalizing s pos with
  | zero => exact hK
  | succ n ih => unfold State.dmaMove; with_reducible repeat' (first | assumption | (extract_lets +implicits +onlyGivenNames x; first | (refine Keeps.named (z := z) (x := x) ?_ fun hx => ?_; (on_goal 1 => dsimp -zeta only [x]; clear x); (on_goal 2 => clear_value x)) | (refine Keeps.named_snd (z := z) (x := x) ?_ fun hx => ?_; (on_goal 1 => dsimp -zeta only [x]; clear x); (on_goal 2 => clear_value x)) | clear_value x) | apply Keeps.ite | split | apply ih | apply State.dmaFill_keeps | refine Keeps.of_pair (by assumption) (State.dmaFill_keeps _ _ _ _ ?_) | apply State.dmaEmpty_keeps | refine Keeps.of_pair2 (by assumption) (State.dmaEmpty_keeps _ _ _ _ ?_) | fail_if_no_progress refine Keeps.of_mk ?_ | refine Keeps.of_pair (by assumption) ?_ | refine Keeps.of_pair_fst (by assumption) ?_)

theorem State.dmaFails_keeps {z s : State} (e : Nat) (c : Nat) (f : DmaFail) (hK : Keeps z s) : Keeps z (State.dmaFails s e c f) := by
  unfold State.dmaFails; with_reducible repeat' (first | assumption | apply State.dmaHalt_keeps | fail_if_no_progress refine Keeps.of_mk ?_)

theorem State.dmaConfirm_keeps {z s : State} (e : Nat) (d : DmaDesc) (hK : Keeps z s) : Keeps z (State.dmaConfirm s e d).2 := by
  unfold State.dmaConfirm; with_reducible repeat' (first | assumption | (extract_lets +implicits +onlyGivenNames x; first | (refine Keeps.named (z := z) (x := x) ?_ fun hx => ?_; (on_goal 1 => dsimp -zeta only [x]; clear x); (on_goal 2 => clear_value x)) | (refine Keeps.named_snd (z := z) (x := x) ?_ fun hx => ?_; (on_goal 1 => dsimp -zeta only [x]; clear x); (on_goal 2 => clear_value x)) | clear_value x) | apply Keeps.ite | split | apply State.memRead_keeps | refine Keeps.of_pair (by assumption) (State.memRead_keeps _ _ _ ?_) | fail_if_no_progress refine Keeps.of_mk ?_ | refine Keeps.of_pair (by assumption) ?_ | refine Keeps.of_pair_fst (by assumption) ?_)

theorem State.dmaDone_keeps {z s : State} (e : Nat) (c : Nat) (d : DmaDesc) (hK : Keeps z s) : Keeps z (State.dmaDone s e c d) := by
  unfold State.dmaDone; with_reducible repeat' (first | assumption | (extract_lets +implicits +onlyGivenNames x; first | (refine Keeps.named (z := z) (x := x) ?_ fun hx => ?_; (on_goal 1 => dsimp -zeta only [x]; clear x); (on_goal 2 => clear_value x)) | clear_value x) | apply Keeps.ite | split | apply State.dmaWord5_keeps | apply State.wr_keeps | apply State.set1_keeps | apply State.dmaIdle_keeps | apply State.setDma_keeps | fail_if_no_progress refine Keeps.of_mk ?_)

theorem State.dmaRun_keeps {z s : State} (e : Nat) (c : Nat) (d : DmaDesc) (hK : Keeps z s) : Keeps z (State.dmaRun s e c d) := by
  unfold State.dmaRun; with_reducible repeat' (first | assumption | (extract_lets +implicits +onlyGivenNames x; first | (refine Keeps.named (z := z) (x := x) ?_ fun hx => ?_; (on_goal 1 => dsimp -zeta only [x]; clear x); (on_goal 2 => clear_value x)) | (refine Keeps.named_snd (z := z) (x := x) ?_ fun hx => ?_; (on_goal 1 => dsimp -zeta only [x]; clear x); (on_goal 2 => clear_value x)) | clear_value x) | split | apply State.dmaMove_keeps | refine Keeps.of_pair2 (by assumption) (State.dmaMove_keeps _ _ _ _ _ ?_) | apply State.wr_keeps | apply State.dmaFails_keeps | apply State.dmaConfirm_keeps | refine Keeps.of_pair (by assumption) (State.dmaConfirm_keeps _ _ ?_) | apply State.dmaDone_keeps | fail_if_no_progress refine Keeps.of_mk ?_ | refine Keeps.of_pair (by assumption) ?_ | refine Keeps.of_pair_fst (by assumption) ?_)

theorem execDmaDescriptorComplete_keeps {z s : State} (t : Nat) (e : Nat) (hK : Keeps z s) : KeepsR z (execDmaDescriptorComplete t e s) := by
  unfold execDmaDescriptorComplete; with_reducible repeat' (first | assumption | refine KeepsR.of_next ?_ | (extract_lets +implicits +onlyGivenNames x; first | (refine Keeps.named (z := z) (x := x) ?_ fun hx => ?_; (on_goal 1 => dsimp -zeta only [x]; clear x); (on_goal 2 => clear_value x)) | clear_value x) | apply Keeps.ite | split | apply State.at_keeps | apply State.dmaRun_keeps | fail_if_no_progress refine Keeps.of_mk ?_ | refine Keeps.of_pair (by assumption) ?_ | refine Keeps.of_pair_fst (by assumption) ?_)

theorem State.dmaCut_keeps {z s : State} (e : Nat) (c : Nat) (d : DmaDesc) (written : Nat) (got : Nat) (hK : Keeps z s) : Keeps z (State.dmaCut s e c d written got) := by
  unfold State.dmaCut; with_reducible repeat' (first | assumption | (extract_lets +implicits +onlyGivenNames x; first | (refine Keeps.named (z := z) (x := x) ?_ fun hx => ?_; (on_goal 1 => dsimp -zeta only [x]; clear x); (on_goal 2 => clear_value x)) | (refine Keeps.named_snd (z := z) (x := x) ?_ fun hx => ?_; (on_goal 1 => dsimp -zeta only [x]; clear x); (on_goal 2 => clear_value x)) | clear_value x) | apply Keeps.ite | split | apply State.dmaMove_keeps | refine Keeps.of_pair2 (by assumption) (State.dmaMove_keeps _ _ _ _ _ ?_) | apply State.wr_keeps | apply State.dmaFails_keeps | apply State.dmaDone_keeps | apply State.dmaFill_keeps | refine Keeps.of_pair (by assumption) (State.dmaFill_keeps _ _ _ _ ?_) | apply State.dmaStop_keeps | fail_if_no_progress refine Keeps.of_mk ?_ | refine Keeps.of_pair (by assumption) ?_ | refine Keeps.of_pair_fst (by assumption) ?_)

theorem execDmaChannelDisable_keeps {z s : State} (t : Nat) (e : Nat) (written : Nat) (got : Nat) (hK : Keeps z s) : KeepsR z (execDmaChannelDisable t e written got s) := by
  unfold execDmaChannelDisable; with_reducible repeat' (first | assumption | refine KeepsR.of_next ?_ | (extract_lets +implicits +onlyGivenNames x; first | (refine Keeps.named (z := z) (x := x) ?_ fun hx => ?_; (on_goal 1 => dsimp -zeta only [x]; clear x); (on_goal 2 => clear_value x)) | clear_value x) | split | apply State.at_keeps | apply State.dmaStop_keeps | apply State.dmaCut_keeps | fail_if_no_progress refine Keeps.of_mk ?_ | refine Keeps.of_pair (by assumption) ?_ | refine Keeps.of_pair_fst (by assumption) ?_)

end Sys2Proof.Machine
end

