-- ==== Sys2Proof/Laws/KeepsVertik.lean ====
section
/-! SUPPORT. What the functions of Vertik keep (see Keeps). -/

set_option linter.all false

namespace Sys2Proof.Machine

theorem State.modSess_keeps {z s : State} (n : Nat) (f : VSession → VSession) (hK : Keeps z s) : Keeps z (State.modSess s n f) := by
  unfold State.modSess; with_reducible repeat' (first | assumption | apply State.setSess_keeps | fail_if_no_progress refine Keeps.of_mk ?_)

theorem State.brokenUnlock_keeps {z s : State} (n : Nat) (hK : Keeps z s) : Keeps z (State.brokenUnlock s n) := by
  unfold State.brokenUnlock; with_reducible repeat' (first | assumption | (extract_lets +implicits +onlyGivenNames x; first | (refine Keeps.named (z := z) (x := x) ?_ fun hx => ?_; (on_goal 1 => dsimp -zeta only [x]; clear x); (on_goal 2 => clear_value x)) | clear_value x) | split | apply State.modSess_keeps | apply State.vtkIllegal_keeps | fail_if_no_progress refine Keeps.of_mk ?_)

theorem State.discardMessage_keeps {z s : State} (n : Nat) (r : Nat) (hK : Keeps z s) : Keeps z (State.discardMessage s n r) := by
  unfold State.discardMessage; with_reducible repeat' (first | assumption | (extract_lets +implicits +onlyGivenNames x; first | (refine Keeps.named (z := z) (x := x) ?_ fun hx => ?_; (on_goal 1 => dsimp -zeta only [x]; clear x); (on_goal 2 => clear_value x)) | clear_value x) | apply Keeps.ite | split | apply State.modSess_keeps | apply State.vtkIllegal_keeps | fail_if_no_progress refine Keeps.of_mk ?_)

theorem State.openHandshake_keeps {z s : State} (n : Nat) (slot : Nat) (v : VSession) (hK : Keeps z s) : Keeps z (State.openHandshake s n slot v) := by
  unfold State.openHandshake; with_reducible repeat' (first | assumption | (extract_lets +implicits +onlyGivenNames x; first | (refine Keeps.named (z := z) (x := x) ?_ fun hx => ?_; (on_goal 1 => dsimp -zeta only [x]; clear x); (on_goal 2 => clear_value x)) | clear_value x) | apply State.setReg_keeps | apply State.wr_keeps | apply State.setSess_keeps | fail_if_no_progress refine Keeps.of_mk ?_)

theorem State.takeHello_keeps {z s : State} (p : Nat) (m : List Byte) (hK : Keeps z s) : Keeps z (State.takeHello s p m) := by
  unfold State.takeHello; with_reducible repeat' (first | assumption | (extract_lets +implicits +onlyGivenNames x; first | (refine Keeps.named (z := z) (x := x) ?_ fun hx => ?_; (on_goal 1 => dsimp -zeta only [x]; clear x); (on_goal 2 => clear_value x)) | (refine Keeps.named_snd (z := z) (x := x) ?_ fun hx => ?_; (on_goal 1 => dsimp -zeta only [x]; clear x); (on_goal 2 => clear_value x)) | clear_value x) | apply Keeps.ite | split | apply State.openHandshake_keeps | apply State.draw_keeps | refine Keeps.of_pair (by assumption) (State.draw_keeps ?_) | apply State.vtkSend_keeps | apply State.vtkIllegal_keeps | fail_if_no_progress refine Keeps.of_mk ?_ | refine Keeps.of_pair (by assumption) ?_ | refine Keeps.of_pair_fst (by assumption) ?_)

theorem State.openSession_keeps {z s : State} (n : Nat) (hK : Keeps z s) : Keeps z (State.openSession s n) := by
  unfold State.openSession; with_reducible repeat' (first | assumption | (extract_lets +implicits +onlyGivenNames x; first | (refine Keeps.named (z := z) (x := x) ?_ fun hx => ?_; (on_goal 1 => dsimp -zeta only [x]; clear x); (on_goal 2 => clear_value x)) | clear_value x) | split | apply State.wr_keeps | apply State.setOpen_keeps | apply State.set1_keeps | apply State.modSess_keeps | apply State.vtkSend_keeps | fail_if_no_progress refine Keeps.of_mk ?_)

theorem State.takeAuth_keeps {z s : State} (m : List Byte) (hK : Keeps z s) : Keeps z (State.takeAuth s m) := by
  unfold State.takeAuth; with_reducible repeat' (first | assumption | (extract_lets +implicits +onlyGivenNames x; first | (refine Keeps.named (z := z) (x := x) ?_ fun hx => ?_; (on_goal 1 => dsimp -zeta only [x]; clear x); (on_goal 2 => clear_value x)) | clear_value x) | apply Keeps.ite | split | apply State.freeSession_keeps | apply State.vtkIllegal_keeps | apply State.openSession_keeps | fail_if_no_progress refine Keeps.of_mk ?_)

theorem execAuthTimeout_keeps {z s : State} (t : Nat) (n : Nat) (hK : Keeps z s) : KeepsR z (execAuthTimeout t n s) := by
  unfold execAuthTimeout; with_reducible repeat' (first | assumption | refine KeepsR.of_next ?_ | (extract_lets +implicits +onlyGivenNames x; first | (refine Keeps.named (z := z) (x := x) ?_ fun hx => ?_; (on_goal 1 => dsimp -zeta only [x]; clear x); (on_goal 2 => clear_value x)) | clear_value x) | apply Keeps.ite | split | apply State.at_keeps | apply State.freeSession_keeps | apply State.vtkIllegal_keeps | fail_if_no_progress refine Keeps.of_mk ?_)

theorem execSessionTimeout_keeps {z s : State} (t : Nat) (n : Nat) (hK : Keeps z s) : KeepsR z (execSessionTimeout t n s) := by
  unfold execSessionTimeout; with_reducible repeat' (first | assumption | refine KeepsR.of_next ?_ | (extract_lets +implicits +onlyGivenNames x; first | (refine Keeps.named (z := z) (x := x) ?_ fun hx => ?_; (on_goal 1 => dsimp -zeta only [x]; clear x); (on_goal 2 => clear_value x)) | clear_value x) | apply Keeps.ite | split | apply State.at_keeps | apply State.freeSession_keeps | fail_if_no_progress refine Keeps.of_mk ?_)

theorem execUnlockTimeout_keeps {z s : State} (t : Nat) (n : Nat) (hK : Keeps z s) : KeepsR z (execUnlockTimeout t n s) := by
  unfold execUnlockTimeout; with_reducible repeat' (first | assumption | refine KeepsR.of_next ?_ | (extract_lets +implicits +onlyGivenNames x; first | (refine Keeps.named (z := z) (x := x) ?_ fun hx => ?_; (on_goal 1 => dsimp -zeta only [x]; clear x); (on_goal 2 => clear_value x)) | clear_value x) | apply Keeps.ite | split | apply State.at_keeps | apply State.brokenUnlock_keeps | fail_if_no_progress refine Keeps.of_mk ?_)

theorem execLeaseExpire_keeps {z s : State} (t : Nat) (hK : Keeps z s) : KeepsR z (execLeaseExpire t s) := by
  unfold execLeaseExpire; with_reducible repeat' (first | assumption | refine KeepsR.of_next ?_ | (extract_lets +implicits +onlyGivenNames x; first | (refine Keeps.named (z := z) (x := x) ?_ fun hx => ?_; (on_goal 1 => dsimp -zeta only [x]; clear x); (on_goal 2 => clear_value x)) | clear_value x) | split | apply State.at_keeps | apply State.setLeases_keeps | fail_if_no_progress refine Keeps.of_mk ?_)

end Sys2Proof.Machine
end

