-- ==== Sys2Proof/Laws/KeepsVtkFramed.lean ====
section
/-! SUPPORT. What the functions of VtkFramed keep (see Keeps). -/

set_option linter.all false

namespace Sys2Proof.Machine

theorem State.vtkWord_keeps {z s : State} (a : Nat) (w : Word) (hK : Keeps z s) : Keeps z (State.vtkWord s a w).2 := by
  unfold State.vtkWord; with_reducible repeat' (first | assumption | (extract_lets +implicits +onlyGivenNames x; first | (refine Keeps.named (z := z) (x := x) ?_ fun hx => ?_; (on_goal 1 => dsimp -zeta only [x]; clear x); (on_goal 2 => clear_value x)) | clear_value x) | apply Keeps.ite | split | apply State.wr_keeps | apply State.rimWrite_keeps | fail_if_no_progress refine Keeps.of_mk ?_ | refine Keeps.of_pair (by assumption) ?_ | refine Keeps.of_pair_fst (by assumption) ?_)

theorem State.windowWrite_keeps {z s : State} (c : VtkCmd) (i : Nat) (hK : Keeps z s) : Keeps z (State.windowWrite s c i).2 := by
  unfold State.windowWrite; with_reducible repeat' (first | assumption | (extract_lets +implicits +onlyGivenNames x; first | (refine Keeps.named (z := z) (x := x) ?_ fun hx => ?_; (on_goal 1 => dsimp -zeta only [x]; clear x); (on_goal 2 => clear_value x)) | (refine Keeps.named_snd (z := z) (x := x) ?_ fun hx => ?_; (on_goal 1 => dsimp -zeta only [x]; clear x); (on_goal 2 => clear_value x)) | clear_value x) | apply Keeps.ite | split | apply State.vtkWord_keeps | refine Keeps.of_pair (by assumption) (State.vtkWord_keeps _ _ ?_) | fail_if_no_progress refine Keeps.of_mk ?_)

theorem State.windowWrites_keeps {z s : State} (c : VtkCmd) (pick : Nat → Bool) (hK : Keeps z s) : Keeps z (State.windowWrites s c pick).2 := by
  unfold State.windowWrites; with_reducible repeat' (first | assumption | intro x y hx | (extract_lets +implicits +onlyGivenNames x; first | (refine Keeps.named (z := z) (x := x) ?_ fun hx => ?_; (on_goal 1 => dsimp -zeta only [x]; clear x); (on_goal 2 => clear_value x)) | (refine Keeps.named_snd (z := z) (x := x) ?_ fun hx => ?_; (on_goal 1 => dsimp -zeta only [x]; clear x); (on_goal 2 => clear_value x)) | (refine Keeps.named_fst (z := z) (x := x) ?_ fun hx => ?_; (on_goal 1 => dsimp -zeta only [x]; clear x); (on_goal 2 => clear_value x)) | clear_value x) | split | apply State.windowWrite_keeps | refine Keeps.of_pair (by assumption) (State.windowWrite_keeps _ _ ?_) | apply Keeps.foldl | apply Keeps.foldl_snd | apply Keeps.foldl_snd2 | apply Keeps.foldl_fst | fail_if_no_progress refine Keeps.of_mk ?_)

theorem State.acceptBundled_keeps {z s : State} (c : VtkCmd) (hK : Keeps z s) : Keeps z (State.acceptBundled s c) := by
  unfold State.acceptBundled; with_reducible repeat' (first | assumption | (extract_lets +implicits +onlyGivenNames x; first | (refine Keeps.named (z := z) (x := x) ?_ fun hx => ?_; (on_goal 1 => dsimp -zeta only [x]; clear x); (on_goal 2 => clear_value x)) | clear_value x) | apply Keeps.ite | split | apply State.pelSend_keeps | fail_if_no_progress refine Keeps.of_mk ?_)

theorem State.acceptFramed_keeps {z s : State} (c : VtkCmd) (hK : Keeps z s) : Keeps z (State.acceptFramed s c) := by
  unfold State.acceptFramed; with_reducible repeat' (first | assumption | (extract_lets +implicits +onlyGivenNames x; first | (refine Keeps.named (z := z) (x := x) ?_ fun hx => ?_; (on_goal 1 => dsimp -zeta only [x]; clear x); (on_goal 2 => clear_value x)) | clear_value x) | apply Keeps.ite | split | apply State.acceptBundled_keeps | apply State.vtkFinish_keeps | fail_if_no_progress refine Keeps.of_mk ?_)

theorem State.requestCommit_keeps {z s : State} (h : Nat) (f : Nat) (hK : Keeps z s) : Keeps z (State.requestCommit s h f) := by
  unfold State.requestCommit; with_reducible repeat' (first | assumption | apply State.commitFrame_keeps | fail_if_no_progress refine Keeps.of_mk ?_)

theorem State.setFramed_keeps {z s : State} (f : Framed) (g : Framed) (hK : Keeps z s) : Keeps z (State.setFramed s f g) := by
  unfold State.setFramed; with_reducible repeat' (first | assumption | (extract_lets +implicits +onlyGivenNames x; first | (refine Keeps.named (z := z) (x := x) ?_ fun hx => ?_; (on_goal 1 => dsimp -zeta only [x]; clear x); (on_goal 2 => clear_value x)) | clear_value x) | apply Keeps.ite | split | fail_if_no_progress refine Keeps.of_mk ?_)

theorem State.dropFramed_keeps {z s : State} (f : Framed) (hK : Keeps z s) : Keeps z (State.dropFramed s f) := by
  unfold State.dropFramed; with_reducible repeat' (first | assumption | (extract_lets +implicits +onlyGivenNames x; first | (refine Keeps.named (z := z) (x := x) ?_ fun hx => ?_; (on_goal 1 => dsimp -zeta only [x]; clear x); (on_goal 2 => clear_value x)) | clear_value x) | fail_if_no_progress refine Keeps.of_mk ?_)

theorem State.framedWords_keeps {z s : State} (f : Framed) (p : Nat) (hK : Keeps z s) : Keeps z (State.framedWords s f p).2 := by
  unfold State.framedWords; with_reducible repeat' (first | assumption | (extract_lets +implicits +onlyGivenNames x; first | (refine Keeps.named (z := z) (x := x) ?_ fun hx => ?_; (on_goal 1 => dsimp -zeta only [x]; clear x); (on_goal 2 => clear_value x)) | (refine Keeps.named_snd (z := z) (x := x) ?_ fun hx => ?_; (on_goal 1 => dsimp -zeta only [x]; clear x); (on_goal 2 => clear_value x)) | clear_value x) | apply Keeps.ite | split | apply State.windowWrites_keeps | refine Keeps.of_pair (by assumption) (State.windowWrites_keeps _ _ ?_) | apply State.requestCommit_keeps | fail_if_no_progress refine Keeps.of_mk ?_ | refine Keeps.of_pair (by assumption) ?_ | refine Keeps.of_pair_fst (by assumption) ?_)

theorem State.vtkMemWrite_keeps {z s t : State} (off : Nat) (bs : List Byte) (e : State.vtkMemWrite s off bs = some t) (hK : Keeps z s) :
    Keeps z t := by
  unfold State.vtkMemWrite at e
  split at e
  · cases e; exact State.memWrite_keeps _ _ _ hK
  · cases e

theorem State.framedAt_keeps {z s : State} (f : Framed) (p : Nat) (hK : Keeps z s) : Keeps z (State.framedAt s f p).2 := by
  unfold State.framedAt; with_reducible repeat' (first | assumption | (extract_lets +implicits +onlyGivenNames x; first | (refine Keeps.named (z := z) (x := x) ?_ fun hx => ?_; (on_goal 1 => dsimp -zeta only [x]; clear x); (on_goal 2 => clear_value x)) | (refine Keeps.named_snd (z := z) (x := x) ?_ fun hx => ?_; (on_goal 1 => dsimp -zeta only [x]; clear x); (on_goal 2 => clear_value x)) | clear_value x) | split | apply State.framedWords_keeps | refine Keeps.of_pair (by assumption) (State.framedWords_keeps _ _ ?_) | apply State.vtkFinish_keeps | apply State.ingEnter_keeps | apply State.requestCommit_keeps | apply State.txCtrlWrite_keeps | fail_if_no_progress refine Keeps.of_mk ?_ | refine Keeps.of_pair (by assumption) ?_ | refine Keeps.of_pair_fst (by assumption) ?_ | exact State.vtkMemWrite_keeps _ _ (by assumption) (by assumption))

theorem State.framedRun_keeps {z s : State} (f : Framed) (l : List Nat) (hK : Keeps z s) : Keeps z (State.framedRun s f l).2 := by
  induction l generalizing s f with
  | nil => exact hK
  | cons p l ih => unfold State.framedRun; with_reducible repeat' (first | assumption | (extract_lets +implicits +onlyGivenNames x; first | (refine Keeps.named (z := z) (x := x) ?_ fun hx => ?_; (on_goal 1 => dsimp -zeta only [x]; clear x); (on_goal 2 => clear_value x)) | (refine Keeps.named_snd (z := z) (x := x) ?_ fun hx => ?_; (on_goal 1 => dsimp -zeta only [x]; clear x); (on_goal 2 => clear_value x)) | clear_value x) | split | apply ih | apply State.framedAt_keeps | refine Keeps.of_pair (by assumption) (State.framedAt_keeps _ _ ?_) | fail_if_no_progress refine Keeps.of_mk ?_ | refine Keeps.of_pair (by assumption) ?_ | refine Keeps.of_pair_fst (by assumption) ?_)

theorem State.framedEnd_keeps {z s : State} (f : Framed) (hK : Keeps z s) : Keeps z (State.framedEnd s f) := by
  unfold State.framedEnd; with_reducible repeat' (first | assumption | (extract_lets +implicits +onlyGivenNames x; first | (refine Keeps.named (z := z) (x := x) ?_ fun hx => ?_; (on_goal 1 => dsimp -zeta only [x]; clear x); (on_goal 2 => clear_value x)) | clear_value x) | split | apply State.vtkFinish_keeps | fail_if_no_progress refine Keeps.of_mk ?_ | refine Keeps.of_pair (by assumption) ?_ | refine Keeps.of_pair_fst (by assumption) ?_)

theorem State.settled_keeps {z s : State} (f : Framed) (hK : Keeps z s) : Keeps z (State.settled s f) := by
  unfold State.settled; with_reducible repeat' (first | assumption | (extract_lets +implicits +onlyGivenNames x; first | (refine Keeps.named (z := z) (x := x) ?_ fun hx => ?_; (on_goal 1 => dsimp -zeta only [x]; clear x); (on_goal 2 => clear_value x)) | clear_value x) | fail_if_no_progress refine Keeps.of_mk ?_)

theorem State.framedStep_keeps {z s : State} (f : Framed) (hK : Keeps z s) : Keeps z (State.framedStep s f) := by
  unfold State.framedStep; with_reducible repeat' (first | assumption | (extract_lets +implicits +onlyGivenNames x; first | (refine Keeps.named (z := z) (x := x) ?_ fun hx => ?_; (on_goal 1 => dsimp -zeta only [x]; clear x); (on_goal 2 => clear_value x)) | (refine Keeps.named_snd (z := z) (x := x) ?_ fun hx => ?_; (on_goal 1 => dsimp -zeta only [x]; clear x); (on_goal 2 => clear_value x)) | clear_value x) | apply Keeps.ite | split | apply State.dropFramed_keeps | apply State.vtkFinish_keeps | apply State.settled_keeps | apply State.framedRun_keeps | refine Keeps.of_pair (by assumption) (State.framedRun_keeps _ _ ?_) | apply State.framedEnd_keeps | apply State.setFramed_keeps | fail_if_no_progress refine Keeps.of_mk ?_ | refine Keeps.of_pair (by assumption) ?_ | refine Keeps.of_pair_fst (by assumption) ?_)

theorem State.pruneApplied_keeps {z s : State} (hK : Keeps z s) : Keeps z (State.pruneApplied s) := by
  unfold State.pruneApplied; with_reducible repeat' (first | assumption | (extract_lets +implicits +onlyGivenNames x; first | (refine Keeps.named (z := z) (x := x) ?_ fun hx => ?_; (on_goal 1 => dsimp -zeta only [x]; clear x); (on_goal 2 => clear_value x)) | clear_value x) | split | fail_if_no_progress refine Keeps.of_mk ?_)

theorem execFramedApply_keeps {z s : State} (t : Nat) (hK : Keeps z s) : KeepsR z (execFramedApply t s) := by
  unfold execFramedApply; with_reducible repeat' (first | assumption | refine KeepsR.of_next ?_ | intro x y hx | (extract_lets +implicits +onlyGivenNames x; first | (refine Keeps.named (z := z) (x := x) ?_ fun hx => ?_; (on_goal 1 => dsimp -zeta only [x]; clear x); (on_goal 2 => clear_value x)) | (refine Keeps.named_snd (z := z) (x := x) ?_ fun hx => ?_; (on_goal 1 => dsimp -zeta only [x]; clear x); (on_goal 2 => clear_value x)) | (refine Keeps.named_fst (z := z) (x := x) ?_ fun hx => ?_; (on_goal 1 => dsimp -zeta only [x]; clear x); (on_goal 2 => clear_value x)) | clear_value x) | apply State.at_keeps | apply State.framedStep_keeps | apply State.pruneApplied_keeps | apply Keeps.foldl | apply Keeps.foldl_snd | apply Keeps.foldl_snd2 | apply Keeps.foldl_fst | fail_if_no_progress refine Keeps.of_mk ?_)

end Sys2Proof.Machine
end

