-- ==== Sys2Proof/Laws/KeepsVtkMessages.lean ====
section
/-! SUPPORT. What the functions of VtkMessages keep (see Keeps). -/

set_option linter.all false

namespace Sys2Proof.Machine

theorem State.vtkInterim_keeps {z s : State} (n : Nat) (code : Nat) (status : Nat) (seq : Nat) (hK : Keeps z s) : Keeps z (State.vtkInterim s n code status seq) := by
  unfold State.vtkInterim; with_reducible repeat' (first | assumption | apply State.vtkSendNext_keeps | fail_if_no_progress refine Keeps.of_mk ?_)

theorem State.resendReply_keeps {z s : State} (n : Nat) (seq : Nat) (code : Nat) (hK : Keeps z s) : Keeps z (State.resendReply s n seq code) := by
  unfold State.resendReply; with_reducible repeat' (first | assumption | (extract_lets +implicits +onlyGivenNames x; first | (refine Keeps.named (z := z) (x := x) ?_ fun hx => ?_; (on_goal 1 => dsimp -zeta only [x]; clear x); (on_goal 2 => clear_value x)) | clear_value x) | apply Keeps.ite | split | apply State.vtkSendNext_keeps | apply State.vtkInterim_keeps | fail_if_no_progress refine Keeps.of_mk ?_ | refine Keeps.of_pair (by assumption) ?_ | refine Keeps.of_pair_fst (by assumption) ?_)

theorem State.outOfOrder_keeps {z s : State} (n : Nat) (hK : Keeps z s) : Keeps z (State.outOfOrder s n) := by
  unfold State.outOfOrder; with_reducible repeat' (first | assumption | (extract_lets +implicits +onlyGivenNames x; first | (refine Keeps.named (z := z) (x := x) ?_ fun hx => ?_; (on_goal 1 => dsimp -zeta only [x]; clear x); (on_goal 2 => clear_value x)) | clear_value x) | apply Keeps.ite | split | apply State.modSess_keeps | apply State.vtkIllegal_keeps | apply State.vtkSendNext_keeps | fail_if_no_progress refine Keeps.of_mk ?_ | refine Keeps.of_pair (by assumption) ?_ | refine Keeps.of_pair_fst (by assumption) ?_)

theorem State.consumeSeq_keeps {z s : State} (n : Nat) (seq : Nat) (hK : Keeps z s) : Keeps z (State.consumeSeq s n seq) := by
  unfold State.consumeSeq; with_reducible repeat' (first | assumption | (extract_lets +implicits +onlyGivenNames x; first | (refine Keeps.named (z := z) (x := x) ?_ fun hx => ?_; (on_goal 1 => dsimp -zeta only [x]; clear x); (on_goal 2 => clear_value x)) | clear_value x) | split | apply State.modSess_keeps | apply State.wr_keeps | fail_if_no_progress refine Keeps.of_mk ?_)

theorem State.spendChallenge_keeps {z s : State} (c : VtkCmd) (hK : Keeps z s) : Keeps z (State.spendChallenge s c) := by
  unfold State.spendChallenge; with_reducible repeat' (first | assumption | (extract_lets +implicits +onlyGivenNames x; first | (refine Keeps.named (z := z) (x := x) ?_ fun hx => ?_; (on_goal 1 => dsimp -zeta only [x]; clear x); (on_goal 2 => clear_value x)) | clear_value x) | apply Keeps.ite | split | apply State.modSess_keeps | apply State.brokenUnlock_keeps | fail_if_no_progress refine Keeps.of_mk ?_)

theorem State.secDenied_keeps {z s : State} (c : VtkCmd) (detail : Nat) (hK : Keeps z s) : Keeps z (State.secDenied s c detail) := by
  unfold State.secDenied; with_reducible repeat' (first | assumption | apply State.wr_keeps | apply State.vtkFinish_keeps | fail_if_no_progress refine Keeps.of_mk ?_)

theorem State.acceptProtected_keeps {z s : State} (c : VtkCmd) (v : VSession) (hK : Keeps z s) : Keeps z (State.acceptProtected s c v) := by
  unfold State.acceptProtected; with_reducible repeat' (first | assumption | (extract_lets +implicits +onlyGivenNames x; first | (refine Keeps.named (z := z) (x := x) ?_ fun hx => ?_; (on_goal 1 => dsimp -zeta only [x]; clear x); (on_goal 2 => clear_value x)) | clear_value x) | apply Keeps.ite | split | apply State.brokenUnlock_keeps | apply State.vtkFinish_keeps | apply State.secDenied_keeps | fail_if_no_progress refine Keeps.of_mk ?_)

theorem State.placeCommand_keeps {z s : State} (c : VtkCmd) (group : Bool) (v : VSession) (hK : Keeps z s) : Keeps z (State.placeCommand s c group v) := by
  unfold State.placeCommand; with_reducible repeat' (first | assumption | (extract_lets +implicits +onlyGivenNames x; first | (refine Keeps.named (z := z) (x := x) ?_ fun hx => ?_; (on_goal 1 => dsimp -zeta only [x]; clear x); (on_goal 2 => clear_value x)) | clear_value x) | apply Keeps.ite | split | apply State.acceptProtected_keeps | apply State.acceptFramed_keeps | fail_if_no_progress refine Keeps.of_mk ?_)

theorem State.passOn_keeps {z s : State} (c : VtkCmd) (twin : Bool) (hK : Keeps z s) : Keeps z (State.passOn s c twin) := by
  unfold State.passOn; with_reducible repeat' (first | assumption | apply Keeps.ite | split | apply State.emit_keeps | fail_if_no_progress refine Keeps.of_mk ?_)

theorem State.routeCommand_keeps {z s : State} (c : VtkCmd) (v : VSession) (hK : Keeps z s) : Keeps z (State.routeCommand s c v) := by
  unfold State.routeCommand; with_reducible repeat' (first | assumption | (extract_lets +implicits +onlyGivenNames x; first | (refine Keeps.named (z := z) (x := x) ?_ fun hx => ?_; (on_goal 1 => dsimp -zeta only [x]; clear x); (on_goal 2 => clear_value x)) | clear_value x) | apply Keeps.ite | split | apply State.placeCommand_keeps | apply State.passOn_keeps | fail_if_no_progress refine Keeps.of_mk ?_ | refine Keeps.of_pair (by assumption) ?_ | refine Keeps.of_pair_fst (by assumption) ?_)

theorem State.acceptCommand_keeps {z s : State} (n : Nat) (seq : Nat) (arrival : Nat) (b : List Byte) (hK : Keeps z s) : Keeps z (State.acceptCommand s n seq arrival b) := by
  unfold State.acceptCommand; with_reducible repeat' (first | assumption | (extract_lets +implicits +onlyGivenNames x; first | (refine Keeps.named (z := z) (x := x) ?_ fun hx => ?_; (on_goal 1 => dsimp -zeta only [x]; clear x); (on_goal 2 => clear_value x)) | clear_value x) | apply Keeps.ite | split | apply State.consumeSeq_keeps | apply State.spendChallenge_keeps | apply State.vtkFinish_keeps | apply State.routeCommand_keeps | fail_if_no_progress refine Keeps.of_mk ?_ | refine Keeps.of_pair (by assumption) ?_ | refine Keeps.of_pair_fst (by assumption) ?_)

theorem State.takeCommand_keeps {z s : State} (arrival : Nat) (m : List Byte) (hK : Keeps z s) : Keeps z (State.takeCommand s arrival m) := by
  unfold State.takeCommand; with_reducible repeat' (first | assumption | (extract_lets +implicits +onlyGivenNames x; first | (refine Keeps.named (z := z) (x := x) ?_ fun hx => ?_; (on_goal 1 => dsimp -zeta only [x]; clear x); (on_goal 2 => clear_value x)) | clear_value x) | apply Keeps.ite | split | apply State.resendReply_keeps | apply State.outOfOrder_keeps | apply State.satInc_keeps | apply State.vtkInterim_keeps | apply State.acceptCommand_keeps | fail_if_no_progress refine Keeps.of_mk ?_)

theorem State.vtkTake_keeps {z s : State} (p : Nat) (arrival : Nat) (m : List Byte) (hK : Keeps z s) : Keeps z (State.vtkTake s p arrival m) := by
  unfold State.vtkTake; with_reducible repeat' (first | assumption | (extract_lets +implicits +onlyGivenNames x; first | (refine Keeps.named (z := z) (x := x) ?_ fun hx => ?_; (on_goal 1 => dsimp -zeta only [x]; clear x); (on_goal 2 => clear_value x)) | clear_value x) | apply Keeps.ite | split | apply State.vtkIllegal_keeps | apply State.archiveInput_keeps | apply State.takeHello_keeps | apply State.takeAuth_keeps | apply State.freeSession_keeps | apply State.takeCommand_keeps | fail_if_no_progress refine Keeps.of_mk ?_ | refine Keeps.of_pair (by assumption) ?_ | refine Keeps.of_pair_fst (by assumption) ?_)

theorem State.vtkCheckTake_keeps {z s : State} (p : Nat) (m : List Byte) (f : State → State) (hf : ∀ s , Keeps z s → Keeps z (f s )) (hK : Keeps z s) : Keeps z (State.vtkCheckTake s p m f) := by
  unfold State.vtkCheckTake; with_reducible repeat' (first | assumption | (extract_lets +implicits +onlyGivenNames x; first | (refine Keeps.named (z := z) (x := x) ?_ fun hx => ?_; (on_goal 1 => dsimp -zeta only [x]; clear x); (on_goal 2 => clear_value x)) | clear_value x) | split | apply State.discardMessage_keeps | fail_if_no_progress refine Keeps.of_mk ?_ | refine Keeps.of_pair (by assumption) ?_ | refine Keeps.of_pair_fst (by assumption) ?_ | apply hf)

theorem State.vtkMessage_keeps {z s : State} (p : Nat) (m : List Byte) (hK : Keeps z s) : Keeps z (State.vtkMessage s p m) := by
  unfold State.vtkMessage; with_reducible repeat' (first | assumption | intro x hx | (extract_lets +implicits +onlyGivenNames x; first | (refine Keeps.named (z := z) (x := x) ?_ fun hx => ?_; (on_goal 1 => dsimp -zeta only [x]; clear x); (on_goal 2 => clear_value x)) | clear_value x) | apply Keeps.ite | split | apply State.vtkCheckTake_keeps | apply State.journalIn_keeps | apply State.vtkTake_keeps | fail_if_no_progress refine Keeps.of_mk ?_)

theorem execHello_keeps {z s : State} (t : Nat) (p : Nat) (m : List Byte) (hK : Keeps z s) : KeepsR z (execHello t p m s) := by
  unfold execHello; with_reducible repeat' (first | assumption | refine KeepsR.of_next ?_ | (extract_lets +implicits +onlyGivenNames x; first | (refine Keeps.named (z := z) (x := x) ?_ fun hx => ?_; (on_goal 1 => dsimp -zeta only [x]; clear x); (on_goal 2 => clear_value x)) | clear_value x) | apply Keeps.ite | split | apply State.at_keeps | apply State.vtkMessage_keeps | fail_if_no_progress refine Keeps.of_mk ?_)

theorem execAuth_keeps {z s : State} (t : Nat) (p : Nat) (m : List Byte) (hK : Keeps z s) : KeepsR z (execAuth t p m s) := by
  unfold execAuth; with_reducible repeat' (first | assumption | refine KeepsR.of_next ?_ | (extract_lets +implicits +onlyGivenNames x; first | (refine Keeps.named (z := z) (x := x) ?_ fun hx => ?_; (on_goal 1 => dsimp -zeta only [x]; clear x); (on_goal 2 => clear_value x)) | clear_value x) | apply Keeps.ite | split | apply State.at_keeps | apply State.vtkMessage_keeps | fail_if_no_progress refine Keeps.of_mk ?_)

theorem execClose_keeps {z s : State} (t : Nat) (p : Nat) (m : List Byte) (hK : Keeps z s) : KeepsR z (execClose t p m s) := by
  unfold execClose; with_reducible repeat' (first | assumption | refine KeepsR.of_next ?_ | (extract_lets +implicits +onlyGivenNames x; first | (refine Keeps.named (z := z) (x := x) ?_ fun hx => ?_; (on_goal 1 => dsimp -zeta only [x]; clear x); (on_goal 2 => clear_value x)) | clear_value x) | apply Keeps.ite | split | apply State.at_keeps | apply State.vtkMessage_keeps | fail_if_no_progress refine Keeps.of_mk ?_)

theorem execCommand_keeps {z s : State} (t : Nat) (p : Nat) (m : List Byte) (hK : Keeps z s) : KeepsR z (execCommand t p m s) := by
  unfold execCommand; with_reducible repeat' (first | assumption | refine KeepsR.of_next ?_ | (extract_lets +implicits +onlyGivenNames x; first | (refine Keeps.named (z := z) (x := x) ?_ fun hx => ?_; (on_goal 1 => dsimp -zeta only [x]; clear x); (on_goal 2 => clear_value x)) | clear_value x) | apply Keeps.ite | split | apply State.at_keeps | apply State.vtkMessage_keeps | fail_if_no_progress refine Keeps.of_mk ?_)

end Sys2Proof.Machine
end

