-- ==== Sys2Proof/Laws/KeepsJournal.lean ====
section
/-! SUPPORT. What the functions of Journal keep (see Keeps). -/

set_option linter.all false

namespace Sys2Proof.Machine

theorem State.journalFault_keeps {z s : State} (chip : Nat) (source : Nat) (cls : Nat) (broken : Bool) (hK : Keeps z s) : Keeps z (State.journalFault s chip source cls broken) := by
  unfold State.journalFault; with_reducible repeat' (first | assumption | (extract_lets +implicits +onlyGivenNames x; first | (refine Keeps.named (z := z) (x := x) ?_ fun hx => ?_; (on_goal 1 => dsimp -zeta only [x]; clear x); (on_goal 2 => clear_value x)) | clear_value x) | apply Keeps.ite | split | apply State.latchFault_keeps | apply State.faultTakeovers_keeps | fail_if_no_progress refine Keeps.of_mk ?_)

theorem State.journalInput_keeps {z s : State} (m : JInput) (hK : Keeps z s) : Keeps z (State.journalInput s m) := by
  cases m <;> (unfold State.journalInput; with_reducible repeat' (first | assumption | (extract_lets +implicits +onlyGivenNames x; first | (refine Keeps.named (z := z) (x := x) ?_ fun hx => ?_; (on_goal 1 => dsimp -zeta only [x]; clear x); (on_goal 2 => clear_value x)) | clear_value x) | split | assumption | apply State.archiveInput_keeps | apply State.ingFrame_keeps | apply State.vtkTake_keeps | apply State.filterLines_keeps | apply State.applySink_keeps | apply State.readArrives_keeps | apply State.journalFault_keeps | apply State.applyNow_keeps | apply State.pelAct_keeps | apply State.diverge_keeps | fail_if_no_progress refine Keeps.of_mk ?_))

theorem State.releaseDue_keeps {z s : State} (hK : Keeps z s) : Keeps z (State.releaseDue s) := by
  unfold State.releaseDue; with_reducible repeat' (first | assumption | intro x y hx | (extract_lets +implicits +onlyGivenNames x; first | (refine Keeps.named (z := z) (x := x) ?_ fun hx => ?_; (on_goal 1 => dsimp -zeta only [x]; clear x); (on_goal 2 => clear_value x)) | (refine Keeps.named_snd (z := z) (x := x) ?_ fun hx => ?_; (on_goal 1 => dsimp -zeta only [x]; clear x); (on_goal 2 => clear_value x)) | (refine Keeps.named_fst (z := z) (x := x) ?_ fun hx => ?_; (on_goal 1 => dsimp -zeta only [x]; clear x); (on_goal 2 => clear_value x)) | clear_value x) | split | apply State.journalInput_keeps | apply Keeps.foldl | apply Keeps.foldl_snd | apply Keeps.foldl_snd2 | apply Keeps.foldl_fst | fail_if_no_progress refine Keeps.of_mk ?_)

theorem State.fromShadow_keeps {z s : State} (i : JInput) (hK : Keeps z s) : Keeps z (State.fromShadow s i) := by
  unfold State.fromShadow; with_reducible repeat' (first | assumption | (extract_lets +implicits +onlyGivenNames x; first | (refine Keeps.named (z := z) (x := x) ?_ fun hx => ?_; (on_goal 1 => dsimp -zeta only [x]; clear x); (on_goal 2 => clear_value x)) | clear_value x) | split | apply State.journalIn_keeps | apply State.diverge_keeps | fail_if_no_progress refine Keeps.of_mk ?_ | refine Keeps.of_pair (by assumption) ?_ | refine Keeps.of_pair_fst (by assumption) ?_)

theorem execJournalEntryRelease_keeps {z s : State} (t : Nat) (e : Option (Nat × JInput)) (hK : Keeps z s) : KeepsR z (execJournalEntryRelease t e s) := by
  unfold execJournalEntryRelease; with_reducible repeat' (first | assumption | refine KeepsR.of_next ?_ | (extract_lets +implicits +onlyGivenNames x; first | (refine Keeps.named (z := z) (x := x) ?_ fun hx => ?_; (on_goal 1 => dsimp -zeta only [x]; clear x); (on_goal 2 => clear_value x)) | clear_value x) | apply Keeps.ite | split | apply State.at_keeps | apply State.releaseDue_keeps | apply State.fromShadow_keeps | apply State.satInc_keeps | apply State.divergeAlone_keeps | apply State.journalInput_keeps | fail_if_no_progress refine Keeps.of_mk ?_ | refine Keeps.of_pair (by assumption) ?_ | refine Keeps.of_pair_fst (by assumption) ?_)

theorem State.takeHeld_keeps {z s : State} (j : JInput) (hK : Keeps z s) : Keeps z (State.takeHeld s j) := by
  unfold State.takeHeld; with_reducible repeat' (first | assumption | intro x hx | (extract_lets +implicits +onlyGivenNames x; first | (refine Keeps.named (z := z) (x := x) ?_ fun hx => ?_; (on_goal 1 => dsimp -zeta only [x]; clear x); (on_goal 2 => clear_value x)) | clear_value x) | split | apply State.archiveInput_keeps | apply State.ingFrame_keeps | apply State.vtkCheckTake_keeps | apply State.vtkTake_keeps | fail_if_no_progress refine Keeps.of_mk ?_ | refine Keeps.of_pair (by assumption) ?_ | refine Keeps.of_pair_fst (by assumption) ?_)

theorem State.takeAll_keeps {z s : State} (hK : Keeps z s) : Keeps z (State.takeAll s) := by
  unfold State.takeAll; with_reducible repeat' (first | assumption | intro x y hx | (extract_lets +implicits +onlyGivenNames x; first | (refine Keeps.named (z := z) (x := x) ?_ fun hx => ?_; (on_goal 1 => dsimp -zeta only [x]; clear x); (on_goal 2 => clear_value x)) | (refine Keeps.named_snd (z := z) (x := x) ?_ fun hx => ?_; (on_goal 1 => dsimp -zeta only [x]; clear x); (on_goal 2 => clear_value x)) | (refine Keeps.named_fst (z := z) (x := x) ?_ fun hx => ?_; (on_goal 1 => dsimp -zeta only [x]; clear x); (on_goal 2 => clear_value x)) | clear_value x) | apply Keeps.ite | split | apply State.moveNet_keeps | apply State.lastTake_keeps | apply Keeps.foldl | apply Keeps.foldl_snd | apply Keeps.foldl_snd2 | apply Keeps.foldl_fst | fail_if_no_progress refine Keeps.of_mk ?_)

theorem State.survive_keeps {z s : State} (hK : Keeps z s) : Keeps z (State.survive s) := by
  unfold State.survive; with_reducible repeat' (first | assumption | intro x y hx | (extract_lets +implicits +onlyGivenNames x; first | (refine Keeps.named (z := z) (x := x) ?_ fun hx => ?_; (on_goal 1 => dsimp -zeta only [x]; clear x); (on_goal 2 => clear_value x)) | (refine Keeps.named_snd (z := z) (x := x) ?_ fun hx => ?_; (on_goal 1 => dsimp -zeta only [x]; clear x); (on_goal 2 => clear_value x)) | (refine Keeps.named_fst (z := z) (x := x) ?_ fun hx => ?_; (on_goal 1 => dsimp -zeta only [x]; clear x); (on_goal 2 => clear_value x)) | clear_value x) | apply Keeps.ite | split | apply State.setTandem_keeps | apply State.takeAll_keeps | apply State.takeHeld_keeps | apply Keeps.foldl | apply Keeps.foldl_snd | apply Keeps.foldl_snd2 | apply Keeps.foldl_fst | fail_if_no_progress refine Keeps.of_mk ?_)

theorem State.copyLost_keeps {z s : State} (hK : Keeps z s) : Keeps z (State.copyLost s) := by
  unfold State.copyLost; with_reducible repeat' (first | assumption | (extract_lets +implicits +onlyGivenNames x; first | (refine Keeps.named (z := z) (x := x) ?_ fun hx => ?_; (on_goal 1 => dsimp -zeta only [x]; clear x); (on_goal 2 => clear_value x)) | clear_value x) | apply Keeps.ite | split | apply State.setTandem_keeps | fail_if_no_progress refine Keeps.of_mk ?_)

theorem execTwinLost_keeps {z s : State} (t : Nat) (hK : Keeps z s) : KeepsR z (execTwinLost t s) := by
  unfold execTwinLost; with_reducible repeat' (first | assumption | refine KeepsR.of_next ?_ | (extract_lets +implicits +onlyGivenNames x; first | (refine Keeps.named (z := z) (x := x) ?_ fun hx => ?_; (on_goal 1 => dsimp -zeta only [x]; clear x); (on_goal 2 => clear_value x)) | clear_value x) | apply Keeps.ite | split | apply State.at_keeps | apply State.wr_keeps | apply State.copyLost_keeps | apply State.survive_keeps | fail_if_no_progress refine Keeps.of_mk ?_)

theorem execTwinLinkFail_keeps {z s : State} (t : Nat) (hK : Keeps z s) : KeepsR z (execTwinLinkFail t s) := by
  unfold execTwinLinkFail; with_reducible repeat' (first | assumption | refine KeepsR.of_next ?_ | (extract_lets +implicits +onlyGivenNames x; first | (refine Keeps.named (z := z) (x := x) ?_ fun hx => ?_; (on_goal 1 => dsimp -zeta only [x]; clear x); (on_goal 2 => clear_value x)) | clear_value x) | apply Keeps.ite | split | apply State.at_keeps | apply State.wr_keeps | apply State.copyLost_keeps | apply State.setTandem_keeps | fail_if_no_progress refine Keeps.of_mk ?_)

end Sys2Proof.Machine
end

