-- ==== Sys2Proof/Laws/KeepsReads.lean ====
section
/-! SUPPORT. What the functions of Reads keep (see Keeps). -/

set_option linter.all false

namespace Sys2Proof.Machine

theorem execIgnoredWritesRead_keeps {z s : State} (t : Nat) (b : Nat) (ms : List Master) (hK : Keeps z s) : KeepsR z (execIgnoredWritesRead t b ms s) := by
  unfold execIgnoredWritesRead; with_reducible repeat' (first | assumption | refine KeepsR.of_next ?_ | apply State.at_keeps | apply State.rimReads_keeps | fail_if_no_progress refine Keeps.of_mk ?_)

theorem execRimCollisionsRead_keeps {z s : State} (t : Nat) (b : Nat) (ms : List Master) (hK : Keeps z s) : KeepsR z (execRimCollisionsRead t b ms s) := by
  unfold execRimCollisionsRead; with_reducible repeat' (first | assumption | refine KeepsR.of_next ?_ | apply State.at_keeps | apply State.rimReads_keeps | fail_if_no_progress refine Keeps.of_mk ?_)

theorem execHeadArrayIgnoredRead_keeps {z s : State} (t : Nat) (h : Nat) (ms : List Master) (hK : Keeps z s) : KeepsR z (execHeadArrayIgnoredRead t h ms s) := by
  unfold execHeadArrayIgnoredRead; with_reducible repeat' (first | assumption | refine KeepsR.of_next ?_ | apply State.at_keeps | apply State.rimReads_keeps | fail_if_no_progress refine Keeps.of_mk ?_)

theorem execHubEccCorrRead_keeps {z s : State} (t : Nat) (ms : List Master) (hK : Keeps z s) : KeepsR z (execHubEccCorrRead t ms s) := by
  unfold execHubEccCorrRead; with_reducible repeat' (first | assumption | refine KeepsR.of_next ?_ | apply State.at_keeps | apply State.rimReads_keeps | fail_if_no_progress refine Keeps.of_mk ?_)

theorem execHubEccUncorrRead_keeps {z s : State} (t : Nat) (ms : List Master) (hK : Keeps z s) : KeepsR z (execHubEccUncorrRead t ms s) := by
  unfold execHubEccUncorrRead; with_reducible repeat' (first | assumption | refine KeepsR.of_next ?_ | apply State.at_keeps | apply State.rimReads_keeps | fail_if_no_progress refine Keeps.of_mk ?_)

theorem execHubWriteDeniedRead_keeps {z s : State} (t : Nat) (ms : List Master) (hK : Keeps z s) : KeepsR z (execHubWriteDeniedRead t ms s) := by
  unfold execHubWriteDeniedRead; with_reducible repeat' (first | assumption | refine KeepsR.of_next ?_ | apply State.at_keeps | apply State.rimReads_keeps | fail_if_no_progress refine Keeps.of_mk ?_)

theorem execRimUnmappedRead_keeps {z s : State} (t : Nat) (ms : List Master) (hK : Keeps z s) : KeepsR z (execRimUnmappedRead t ms s) := by
  unfold execRimUnmappedRead; with_reducible repeat' (first | assumption | refine KeepsR.of_next ?_ | apply State.at_keeps | apply State.rimReads_keeps | fail_if_no_progress refine Keeps.of_mk ?_)

theorem execHubHeadMarginRead_keeps {z s : State} (t : Nat) (h : Nat) (ms : List Master) (hK : Keeps z s) : KeepsR z (execHubHeadMarginRead t h ms s) := by
  unfold execHubHeadMarginRead; with_reducible repeat' (first | assumption | refine KeepsR.of_next ?_ | apply State.at_keeps | apply State.rimReads_keeps | fail_if_no_progress refine Keeps.of_mk ?_)

theorem execLlErrsRead_keeps {z s : State} (t : Nat) (h : Nat) (l : Nat) (ms : List Master) (hK : Keeps z s) : KeepsR z (execLlErrsRead t h l ms s) := by
  unfold execLlErrsRead; with_reducible repeat' (first | assumption | refine KeepsR.of_next ?_ | apply State.at_keeps | apply State.rimReads_keeps | fail_if_no_progress refine Keeps.of_mk ?_)

theorem execTtStatusRead_keeps {z s : State} (t : Nat) (h : Nat) (tr : Nat) (ms : List Master) (hK : Keeps z s) : KeepsR z (execTtStatusRead t h tr ms s) := by
  unfold execTtStatusRead; with_reducible repeat' (first | assumption | refine KeepsR.of_next ?_ | apply State.at_keeps | apply State.rimReads_keeps | fail_if_no_progress refine Keeps.of_mk ?_)

theorem execSprLineStatusRead_keeps {z s : State} (t : Nat) (h : Nat) (ms : List Master) (hK : Keeps z s) : KeepsR z (execSprLineStatusRead t h ms s) := by
  unfold execSprLineStatusRead; with_reducible repeat' (first | assumption | refine KeepsR.of_next ?_ | apply State.at_keeps | apply State.rimReads_keeps | fail_if_no_progress refine Keeps.of_mk ?_)

theorem execSprErrsRead_keeps {z s : State} (t : Nat) (h : Nat) (ms : List Master) (hK : Keeps z s) : KeepsR z (execSprErrsRead t h ms s) := by
  unfold execSprErrsRead; with_reducible repeat' (first | assumption | refine KeepsR.of_next ?_ | apply State.at_keeps | apply State.rimReads_keeps | fail_if_no_progress refine Keeps.of_mk ?_)

theorem execSprIgnoredRead_keeps {z s : State} (t : Nat) (h : Nat) (ms : List Master) (hK : Keeps z s) : KeepsR z (execSprIgnoredRead t h ms s) := by
  unfold execSprIgnoredRead; with_reducible repeat' (first | assumption | refine KeepsR.of_next ?_ | apply State.at_keeps | apply State.rimReads_keeps | fail_if_no_progress refine Keeps.of_mk ?_)

theorem execCmpMismatchRead_keeps {z s : State} (t : Nat) (h : Nat) (ms : List Master) (hK : Keeps z s) : KeepsR z (execCmpMismatchRead t h ms s) := by
  unfold execCmpMismatchRead; with_reducible repeat' (first | assumption | refine KeepsR.of_next ?_ | apply State.at_keeps | apply State.rimReads_keeps | fail_if_no_progress refine Keeps.of_mk ?_)

theorem execBeamStatusRead_keeps {z s : State} (t : Nat) (h : Nat) (ms : List Master) (hK : Keeps z s) : KeepsR z (execBeamStatusRead t h ms s) := by
  unfold execBeamStatusRead; with_reducible repeat' (first | assumption | refine KeepsR.of_next ?_ | apply State.at_keeps | apply State.rimReads_keeps | fail_if_no_progress refine Keeps.of_mk ?_)

theorem execBeamEventMissedRead_keeps {z s : State} (t : Nat) (h : Nat) (ms : List Master) (hK : Keeps z s) : KeepsR z (execBeamEventMissedRead t h ms s) := by
  unfold execBeamEventMissedRead; with_reducible repeat' (first | assumption | refine KeepsR.of_next ?_ | apply State.at_keeps | apply State.rimReads_keeps | fail_if_no_progress refine Keeps.of_mk ?_)

theorem execCadErrsRead_keeps {z s : State} (t : Nat) (h : Nat) (ms : List Master) (hK : Keeps z s) : KeepsR z (execCadErrsRead t h ms s) := by
  unfold execCadErrsRead; with_reducible repeat' (first | assumption | refine KeepsR.of_next ?_ | apply State.at_keeps | apply State.rimReads_keeps | fail_if_no_progress refine Keeps.of_mk ?_)

theorem execCadBadRead_keeps {z s : State} (t : Nat) (h : Nat) (ms : List Master) (hK : Keeps z s) : KeepsR z (execCadBadRead t h ms s) := by
  unfold execCadBadRead; with_reducible repeat' (first | assumption | refine KeepsR.of_next ?_ | apply State.at_keeps | apply State.rimReads_keeps | fail_if_no_progress refine Keeps.of_mk ?_)

theorem execTxUnderrunRead_keeps {z s : State} (t : Nat) (h : Nat) (ms : List Master) (hK : Keeps z s) : KeepsR z (execTxUnderrunRead t h ms s) := by
  unfold execTxUnderrunRead; with_reducible repeat' (first | assumption | refine KeepsR.of_next ?_ | apply State.at_keeps | apply State.rimReads_keeps | fail_if_no_progress refine Keeps.of_mk ?_)

theorem execTxRemoteRingRead_keeps {z s : State} (t : Nat) (h : Nat) (ms : List Master) (hK : Keeps z s) : KeepsR z (execTxRemoteRingRead t h ms s) := by
  unfold execTxRemoteRingRead; with_reducible repeat' (first | assumption | refine KeepsR.of_next ?_ | apply State.at_keeps | apply State.rimReads_keeps | fail_if_no_progress refine Keeps.of_mk ?_)

theorem execChainQueuePeakRead_keeps {z s : State} (t : Nat) (ms : List Master) (hK : Keeps z s) : KeepsR z (execChainQueuePeakRead t ms s) := by
  unfold execChainQueuePeakRead; with_reducible repeat' (first | assumption | refine KeepsR.of_next ?_ | apply State.at_keeps | apply State.rimReads_keeps | fail_if_no_progress refine Keeps.of_mk ?_)

theorem execIngDiscardRead_keeps {z s : State} (t : Nat) (r : Nat) (ms : List Master) (hK : Keeps z s) : KeepsR z (execIngDiscardRead t r ms s) := by
  unfold execIngDiscardRead; with_reducible repeat' (first | assumption | refine KeepsR.of_next ?_ | apply State.at_keeps | apply State.rimReads_keeps | fail_if_no_progress refine Keeps.of_mk ?_)

theorem execDerSkippedRead_keeps {z s : State} (t : Nat) (ms : List Master) (hK : Keeps z s) : KeepsR z (execDerSkippedRead t ms s) := by
  unfold execDerSkippedRead; with_reducible repeat' (first | assumption | refine KeepsR.of_next ?_ | apply State.at_keeps | apply State.rimReads_keeps | fail_if_no_progress refine Keeps.of_mk ?_)

theorem execDerArrayCollisionsRead_keeps {z s : State} (t : Nat) (ms : List Master) (hK : Keeps z s) : KeepsR z (execDerArrayCollisionsRead t ms s) := by
  unfold execDerArrayCollisionsRead; with_reducible repeat' (first | assumption | refine KeepsR.of_next ?_ | apply State.at_keeps | apply State.rimReads_keeps | fail_if_no_progress refine Keeps.of_mk ?_)

theorem execDerQueuePeakRead_keeps {z s : State} (t : Nat) (ms : List Master) (hK : Keeps z s) : KeepsR z (execDerQueuePeakRead t ms s) := by
  unfold execDerQueuePeakRead; with_reducible repeat' (first | assumption | refine KeepsR.of_next ?_ | apply State.at_keeps | apply State.rimReads_keeps | fail_if_no_progress refine Keeps.of_mk ?_)

theorem execGsClashRead_keeps {z s : State} (t : Nat) (ms : List Master) (hK : Keeps z s) : KeepsR z (execGsClashRead t ms s) := by
  unfold execGsClashRead; with_reducible repeat' (first | assumption | refine KeepsR.of_next ?_ | apply State.at_keeps | apply State.rimReads_keeps | fail_if_no_progress refine Keeps.of_mk ?_)

theorem execTandemJournalRead_keeps {z s : State} (t : Nat) (ms : List Master) (hK : Keeps z s) : KeepsR z (execTandemJournalRead t ms s) := by
  unfold execTandemJournalRead; with_reducible repeat' (first | assumption | refine KeepsR.of_next ?_ | apply State.at_keeps | apply State.rimReads_keeps | fail_if_no_progress refine Keeps.of_mk ?_)

theorem execTandemDivergeRead_keeps {z s : State} (t : Nat) (ms : List Master) (hK : Keeps z s) : KeepsR z (execTandemDivergeRead t ms s) := by
  unfold execTandemDivergeRead; with_reducible repeat' (first | assumption | refine KeepsR.of_next ?_ | apply State.at_keeps | apply State.rimReads_keeps | fail_if_no_progress refine Keeps.of_mk ?_)

theorem execPelCommitStatsRead_keeps {z s : State} (t : Nat) (ms : List Master) (hK : Keeps z s) : KeepsR z (execPelCommitStatsRead t ms s) := by
  unfold execPelCommitStatsRead; with_reducible repeat' (first | assumption | refine KeepsR.of_next ?_ | apply State.at_keeps | apply State.rimReads_keeps | fail_if_no_progress refine Keeps.of_mk ?_)

theorem execPelSpriteOwnRead_keeps {z s : State} (t : Nat) (ms : List Master) (hK : Keeps z s) : KeepsR z (execPelSpriteOwnRead t ms s) := by
  unfold execPelSpriteOwnRead; with_reducible repeat' (first | assumption | refine KeepsR.of_next ?_ | apply State.at_keeps | apply State.rimReads_keeps | fail_if_no_progress refine Keeps.of_mk ?_)

theorem execEthPrpRead_keeps {z s : State} (t : Nat) (p : Nat) (ms : List Master) (hK : Keeps z s) : KeepsR z (execEthPrpRead t p ms s) := by
  unfold execEthPrpRead; with_reducible repeat' (first | assumption | refine KeepsR.of_next ?_ | apply State.at_keeps | apply State.rimReads_keeps | fail_if_no_progress refine Keeps.of_mk ?_)

theorem execEthRxDropRead_keeps {z s : State} (t : Nat) (p : Nat) (r : Nat) (ms : List Master) (hK : Keeps z s) : KeepsR z (execEthRxDropRead t p r ms s) := by
  unfold execEthRxDropRead; with_reducible repeat' (first | assumption | refine KeepsR.of_next ?_ | apply State.at_keeps | apply State.rimReads_keeps | fail_if_no_progress refine Keeps.of_mk ?_)

theorem execVtkOrderRead_keeps {z s : State} (t : Nat) (ms : List Master) (hK : Keeps z s) : KeepsR z (execVtkOrderRead t ms s) := by
  unfold execVtkOrderRead; with_reducible repeat' (first | assumption | refine KeepsR.of_next ?_ | apply State.at_keeps | apply State.rimReads_keeps | fail_if_no_progress refine Keeps.of_mk ?_)

theorem execVtkIllegalRead_keeps {z s : State} (t : Nat) (r : Nat) (ms : List Master) (hK : Keeps z s) : KeepsR z (execVtkIllegalRead t r ms s) := by
  unfold execVtkIllegalRead; with_reducible repeat' (first | assumption | refine KeepsR.of_next ?_ | apply State.at_keeps | apply State.rimReads_keeps | fail_if_no_progress refine Keeps.of_mk ?_)

theorem execBellErrsRead_keeps {z s : State} (t : Nat) (ms : List Master) (hK : Keeps z s) : KeepsR z (execBellErrsRead t ms s) := by
  unfold execBellErrsRead; with_reducible repeat' (first | assumption | refine KeepsR.of_next ?_ | apply State.at_keeps | apply State.rimReads_keeps | fail_if_no_progress refine Keeps.of_mk ?_)

theorem execBellBusRead_keeps {z s : State} (t : Nat) (b : Nat) (ms : List Master) (hK : Keeps z s) : KeepsR z (execBellBusRead t b ms s) := by
  unfold execBellBusRead; with_reducible repeat' (first | assumption | refine KeepsR.of_next ?_ | apply State.at_keeps | apply State.rimReads_keeps | fail_if_no_progress refine Keeps.of_mk ?_)

theorem execIntcMergedRead_keeps {z s : State} (t : Nat) (ms : List Master) (hK : Keeps z s) : KeepsR z (execIntcMergedRead t ms s) := by
  unfold execIntcMergedRead; with_reducible repeat' (first | assumption | refine KeepsR.of_next ?_ | apply State.at_keeps | apply State.rimReads_keeps | fail_if_no_progress refine Keeps.of_mk ?_)

theorem execIntcEoiBadRead_keeps {z s : State} (t : Nat) (k : Nat) (ms : List Master) (hK : Keeps z s) : KeepsR z (execIntcEoiBadRead t k ms s) := by
  unfold execIntcEoiBadRead; with_reducible repeat' (first | assumption | refine KeepsR.of_next ?_ | apply State.at_keeps | apply State.rimReads_keeps | fail_if_no_progress refine Keeps.of_mk ?_)

theorem execCounterLoRead_keeps {z s : State} (t : Nat) (a : Nat) (ms : List Master) (hK : Keeps z s) : KeepsR z (execCounterLoRead t a ms s) := by
  unfold execCounterLoRead; with_reducible repeat' (first | assumption | refine KeepsR.of_next ?_ | apply State.at_keeps | apply State.rimReads_keeps | fail_if_no_progress refine Keeps.of_mk ?_)

theorem execFlCapPopRead_keeps {z s : State} (t : Nat) (n : Nat) (ms : List Master) (hK : Keeps z s) : KeepsR z (execFlCapPopRead t n ms s) := by
  unfold execFlCapPopRead; with_reducible repeat' (first | assumption | refine KeepsR.of_next ?_ | apply State.at_keeps | apply State.rimReads_keeps | fail_if_no_progress refine Keeps.of_mk ?_)

theorem execFlStatusRead_keeps {z s : State} (t : Nat) (n : Nat) (ms : List Master) (hK : Keeps z s) : KeepsR z (execFlStatusRead t n ms s) := by
  unfold execFlStatusRead; with_reducible repeat' (first | assumption | refine KeepsR.of_next ?_ | apply State.at_keeps | apply State.rimReads_keeps | fail_if_no_progress refine Keeps.of_mk ?_)

theorem execSbStatusRead_keeps {z s : State} (t : Nat) (ms : List Master) (hK : Keeps z s) : KeepsR z (execSbStatusRead t ms s) := by
  unfold execSbStatusRead; with_reducible repeat' (first | assumption | refine KeepsR.of_next ?_ | apply State.at_keeps | apply State.rimReads_keeps | fail_if_no_progress refine Keeps.of_mk ?_)

theorem execSbDriveRead_keeps {z s : State} (t : Nat) (d : Nat) (ms : List Master) (hK : Keeps z s) : KeepsR z (execSbDriveRead t d ms s) := by
  unfold execSbDriveRead; with_reducible repeat' (first | assumption | refine KeepsR.of_next ?_ | apply State.at_keeps | apply State.rimReads_keeps | fail_if_no_progress refine Keeps.of_mk ?_)

theorem execSbKeyRead_keeps {z s : State} (t : Nat) (ms : List Master) (hK : Keeps z s) : KeepsR z (execSbKeyRead t ms s) := by
  unfold execSbKeyRead; with_reducible repeat' (first | assumption | refine KeepsR.of_next ?_ | apply State.at_keeps | apply State.rimReads_keeps | fail_if_no_progress refine Keeps.of_mk ?_)

theorem execFaultQueueRead_keeps {z s : State} (t : Nat) (ms : List Master) (hK : Keeps z s) : KeepsR z (execFaultQueueRead t ms s) := by
  unfold execFaultQueueRead; with_reducible repeat' (first | assumption | refine KeepsR.of_next ?_ | apply State.at_keeps | apply State.rimReads_keeps | fail_if_no_progress refine Keeps.of_mk ?_)

theorem execFaultSrcRead_keeps {z s : State} (t : Nat) (j : Nat) (ms : List Master) (hK : Keeps z s) : KeepsR z (execFaultSrcRead t j ms s) := by
  unfold execFaultSrcRead; with_reducible repeat' (first | assumption | refine KeepsR.of_next ?_ | apply State.at_keeps | apply State.rimReads_keeps | fail_if_no_progress refine Keeps.of_mk ?_)

theorem execSecCalRead_keeps {z s : State} (t : Nat) (ms : List Master) (hK : Keeps z s) : KeepsR z (execSecCalRead t ms s) := by
  unfold execSecCalRead; with_reducible repeat' (first | assumption | refine KeepsR.of_next ?_ | apply State.at_keeps | apply State.rimReads_keeps | fail_if_no_progress refine Keeps.of_mk ?_)

theorem execCprTempMaxRead_keeps {z s : State} (t : Nat) (ms : List Master) (hK : Keeps z s) : KeepsR z (execCprTempMaxRead t ms s) := by
  unfold execCprTempMaxRead; with_reducible repeat' (first | assumption | refine KeepsR.of_next ?_ | apply State.at_keeps | apply State.rimReads_keeps | fail_if_no_progress refine Keeps.of_mk ?_)

end Sys2Proof.Machine
end

