-- ==== Sys2Proof/Laws/KeepsVtkCommands.lean ====
section
/-! SUPPORT. What the functions of VtkCommands keep (see Keeps). -/

set_option linter.all false

namespace Sys2Proof.Machine

theorem State.vtkRow_keeps {z s : State} (mine : Nat → Bool) (run : State → VtkCmd → State) (hrun : ∀ s a, Keeps z s → Keeps z (run s a)) (hK : Keeps z s) : Keeps z (State.vtkRow s mine run) := by
  unfold State.vtkRow; with_reducible repeat' (first | assumption | (extract_lets +implicits +onlyGivenNames x; first | (refine Keeps.named (z := z) (x := x) ?_ fun hx => ?_; (on_goal 1 => dsimp -zeta only [x]; clear x); (on_goal 2 => clear_value x)) | clear_value x) | apply Keeps.ite | split | fail_if_no_progress refine Keeps.of_mk ?_ | refine Keeps.of_pair (by assumption) ?_ | refine Keeps.of_pair_fst (by assumption) ?_ | apply hrun)

theorem State.vtkDone_keeps {z s : State} (c : VtkCmd) (status : Nat) (results : List Byte) (hK : Keeps z s) : Keeps z (State.vtkDone s c status results) := by
  unfold State.vtkDone; with_reducible repeat' (first | assumption | apply State.vtkFinish_keeps | fail_if_no_progress refine Keeps.of_mk ?_)

theorem execVtkNop_keeps {z s : State} (t : Nat) (hK : Keeps z s) : KeepsR z (execVtkNop t s) := by
  unfold execVtkNop; with_reducible repeat' (first | assumption | refine KeepsR.of_next ?_ | intro x y hx | (extract_lets +implicits +onlyGivenNames x; first | (refine Keeps.named (z := z) (x := x) ?_ fun hx => ?_; (on_goal 1 => dsimp -zeta only [x]; clear x); (on_goal 2 => clear_value x)) | clear_value x) | apply State.at_keeps | apply State.vtkRow_keeps | apply State.vtkDone_keeps | apply State.outOfOrder_keeps | apply State.brokenUnlock_keeps | fail_if_no_progress refine Keeps.of_mk ?_)

theorem execStatusRead_keeps {z s : State} (t : Nat) (hK : Keeps z s) : KeepsR z (execStatusRead t s) := by
  unfold execStatusRead; with_reducible repeat' (first | assumption | refine KeepsR.of_next ?_ | intro x y hx | (extract_lets +implicits +onlyGivenNames x; first | (refine Keeps.named (z := z) (x := x) ?_ fun hx => ?_; (on_goal 1 => dsimp -zeta only [x]; clear x); (on_goal 2 => clear_value x)) | (refine Keeps.named_snd (z := z) (x := x) ?_ fun hx => ?_; (on_goal 1 => dsimp -zeta only [x]; clear x); (on_goal 2 => clear_value x)) | clear_value x) | apply State.at_keeps | apply State.vtkRow_keeps | apply State.draw_keeps | refine Keeps.of_pair (by assumption) (State.draw_keeps ?_) | apply State.vtkDone_keeps | fail_if_no_progress refine Keeps.of_mk ?_ | refine Keeps.of_pair (by assumption) ?_ | refine Keeps.of_pair_fst (by assumption) ?_)

theorem State.readWords_keeps {z s : State} (as : List Nat) (hK : Keeps z s) : Keeps z (State.readWords s as).2 := by
  unfold State.readWords; with_reducible repeat' (first | assumption | intro x y hx | (extract_lets +implicits +onlyGivenNames x; first | (refine Keeps.named (z := z) (x := x) ?_ fun hx => ?_; (on_goal 1 => dsimp -zeta only [x]; clear x); (on_goal 2 => clear_value x)) | (refine Keeps.named_snd (z := z) (x := x) ?_ fun hx => ?_; (on_goal 1 => dsimp -zeta only [x]; clear x); (on_goal 2 => clear_value x)) | (refine Keeps.named_fst (z := z) (x := x) ?_ fun hx => ?_; (on_goal 1 => dsimp -zeta only [x]; clear x); (on_goal 2 => clear_value x)) | clear_value x) | apply State.rimRead_keeps | refine Keeps.of_pair (by assumption) (State.rimRead_keeps _ _ _ ?_) | apply Keeps.foldl | apply Keeps.foldl_snd | apply Keeps.foldl_snd2 | apply Keeps.foldl_fst | fail_if_no_progress refine Keeps.of_mk ?_)

theorem execRegRead_keeps {z s : State} (t : Nat) (hK : Keeps z s) : KeepsR z (execRegRead t s) := by
  unfold execRegRead; with_reducible repeat' (first | assumption | refine KeepsR.of_next ?_ | intro x y hx | (extract_lets +implicits +onlyGivenNames x; first | (refine Keeps.named (z := z) (x := x) ?_ fun hx => ?_; (on_goal 1 => dsimp -zeta only [x]; clear x); (on_goal 2 => clear_value x)) | (refine Keeps.named_snd (z := z) (x := x) ?_ fun hx => ?_; (on_goal 1 => dsimp -zeta only [x]; clear x); (on_goal 2 => clear_value x)) | clear_value x) | apply State.at_keeps | apply State.vtkRow_keeps | apply State.readWords_keeps | refine Keeps.of_pair (by assumption) (State.readWords_keeps _ ?_) | apply State.vtkDone_keeps | fail_if_no_progress refine Keeps.of_mk ?_)

theorem State.windowRun_keeps {z s : State} (c : VtkCmd) (hK : Keeps z s) : Keeps z (State.windowRun s c) := by
  unfold State.windowRun; with_reducible repeat' (first | assumption | (extract_lets +implicits +onlyGivenNames x; first | (refine Keeps.named (z := z) (x := x) ?_ fun hx => ?_; (on_goal 1 => dsimp -zeta only [x]; clear x); (on_goal 2 => clear_value x)) | (refine Keeps.named_snd (z := z) (x := x) ?_ fun hx => ?_; (on_goal 1 => dsimp -zeta only [x]; clear x); (on_goal 2 => clear_value x)) | clear_value x) | split | apply State.windowWrites_keeps | refine Keeps.of_pair (by assumption) (State.windowWrites_keeps _ _ ?_) | apply State.vtkFinish_keeps | fail_if_no_progress refine Keeps.of_mk ?_)

theorem execRegWrite_keeps {z s : State} (t : Nat) (hK : Keeps z s) : KeepsR z (execRegWrite t s) := by
  unfold execRegWrite; with_reducible repeat' (first | assumption | refine KeepsR.of_next ?_ | intro x y hx | apply State.at_keeps | apply State.vtkRow_keeps | apply State.windowRun_keeps | fail_if_no_progress refine Keeps.of_mk ?_)

theorem execRegWriteMasked_keeps {z s : State} (t : Nat) (hK : Keeps z s) : KeepsR z (execRegWriteMasked t s) := by
  unfold execRegWriteMasked; with_reducible repeat' (first | assumption | refine KeepsR.of_next ?_ | intro x y hx | apply State.at_keeps | apply State.vtkRow_keeps | apply State.windowRun_keeps | fail_if_no_progress refine Keeps.of_mk ?_)

theorem State.memReadRun_keeps {z s : State} (c : VtkCmd) (hK : Keeps z s) : Keeps z (State.memReadRun s c) := by
  unfold State.memReadRun; with_reducible repeat' (first | assumption | (extract_lets +implicits +onlyGivenNames x; first | (refine Keeps.named (z := z) (x := x) ?_ fun hx => ?_; (on_goal 1 => dsimp -zeta only [x]; clear x); (on_goal 2 => clear_value x)) | (refine Keeps.named_snd (z := z) (x := x) ?_ fun hx => ?_; (on_goal 1 => dsimp -zeta only [x]; clear x); (on_goal 2 => clear_value x)) | (refine Keeps.named_fst (z := z) (x := x) ?_ fun hx => ?_; (on_goal 1 => dsimp -zeta only [x]; clear x); (on_goal 2 => clear_value x)) | clear_value x) | apply Keeps.ite | split | apply State.vtkDone_keeps | apply State.memRead_keeps | refine Keeps.of_pair (by assumption) (State.memRead_keeps _ _ _ ?_) | fail_if_no_progress refine Keeps.of_mk ?_ | refine Keeps.of_pair (by assumption) ?_ | refine Keeps.of_pair_fst (by assumption) ?_)

theorem execMemRead_keeps {z s : State} (t : Nat) (hK : Keeps z s) : KeepsR z (execMemRead t s) := by
  unfold execMemRead; with_reducible repeat' (first | assumption | refine KeepsR.of_next ?_ | intro x y hx | apply State.at_keeps | apply State.vtkRow_keeps | apply State.memReadRun_keeps | fail_if_no_progress refine Keeps.of_mk ?_)

theorem State.memPut_keeps {z s : State} (c : VtkCmd) (bs : List Byte) (hK : Keeps z s) : Keeps z (State.memPut s c bs) := by
  unfold State.memPut; with_reducible repeat' (first | assumption | (extract_lets +implicits +onlyGivenNames x; first | (refine Keeps.named (z := z) (x := x) ?_ fun hx => ?_; (on_goal 1 => dsimp -zeta only [x]; clear x); (on_goal 2 => clear_value x)) | clear_value x) | split | apply State.vtkDone_keeps | fail_if_no_progress refine Keeps.of_mk ?_ | refine Keeps.of_pair (by assumption) ?_ | refine Keeps.of_pair_fst (by assumption) ?_ | exact State.vtkMemWrite_keeps _ _ (by assumption) (by assumption))

theorem execMemWrite_keeps {z s : State} (t : Nat) (hK : Keeps z s) : KeepsR z (execMemWrite t s) := by
  unfold execMemWrite; with_reducible repeat' (first | assumption | refine KeepsR.of_next ?_ | intro x y hx | split | apply State.at_keeps | apply State.vtkRow_keeps | apply State.memPut_keeps | fail_if_no_progress refine Keeps.of_mk ?_)

theorem execMemFill_keeps {z s : State} (t : Nat) (hK : Keeps z s) : KeepsR z (execMemFill t s) := by
  unfold execMemFill; with_reducible repeat' (first | assumption | refine KeepsR.of_next ?_ | intro x y hx | apply State.at_keeps | apply State.vtkRow_keeps | apply State.memPut_keeps | fail_if_no_progress refine Keeps.of_mk ?_)

theorem State.pointRun_keeps {z s : State} (c : VtkCmd) (hK : Keeps z s) : Keeps z (State.pointRun s c) := by
  unfold State.pointRun; with_reducible repeat' (first | assumption | apply State.ingEnter_keeps | fail_if_no_progress refine Keeps.of_mk ?_)

theorem execPointWrite_keeps {z s : State} (t : Nat) (hK : Keeps z s) : KeepsR z (execPointWrite t s) := by
  unfold execPointWrite; with_reducible repeat' (first | assumption | refine KeepsR.of_next ?_ | intro x y hx | apply State.at_keeps | apply State.vtkRow_keeps | apply State.pointRun_keeps | fail_if_no_progress refine Keeps.of_mk ?_)

theorem execPointForce_keeps {z s : State} (t : Nat) (hK : Keeps z s) : KeepsR z (execPointForce t s) := by
  unfold execPointForce; with_reducible repeat' (first | assumption | refine KeepsR.of_next ?_ | intro x y hx | apply State.at_keeps | apply State.vtkRow_keeps | apply State.pointRun_keeps | fail_if_no_progress refine Keeps.of_mk ?_)

theorem execPointRelease_keeps {z s : State} (t : Nat) (hK : Keeps z s) : KeepsR z (execPointRelease t s) := by
  unfold execPointRelease; with_reducible repeat' (first | assumption | refine KeepsR.of_next ?_ | intro x y hx | apply State.at_keeps | apply State.vtkRow_keeps | apply State.pointRun_keeps | fail_if_no_progress refine Keeps.of_mk ?_)

theorem execPointRead_keeps {z s : State} (t : Nat) (hK : Keeps z s) : KeepsR z (execPointRead t s) := by
  unfold execPointRead; with_reducible repeat' (first | assumption | refine KeepsR.of_next ?_ | intro x y hx | (extract_lets +implicits +onlyGivenNames x; first | (refine Keeps.named (z := z) (x := x) ?_ fun hx => ?_; (on_goal 1 => dsimp -zeta only [x]; clear x); (on_goal 2 => clear_value x)) | (refine Keeps.named_snd (z := z) (x := x) ?_ fun hx => ?_; (on_goal 1 => dsimp -zeta only [x]; clear x); (on_goal 2 => clear_value x)) | clear_value x) | apply Keeps.ite | split | apply State.at_keeps | apply State.vtkRow_keeps | apply State.memRead_keeps | refine Keeps.of_pair (by assumption) (State.memRead_keeps _ _ _ ?_) | apply State.vtkDone_keeps | fail_if_no_progress refine Keeps.of_mk ?_ | refine Keeps.of_pair (by assumption) ?_ | refine Keeps.of_pair_fst (by assumption) ?_)

theorem execCommit_keeps {z s : State} (t : Nat) (hK : Keeps z s) : KeepsR z (execCommit t s) := by
  unfold execCommit; with_reducible repeat' (first | assumption | refine KeepsR.of_next ?_ | intro x y hx | split | apply State.at_keeps | apply State.vtkRow_keeps | apply State.beamCommit_keeps | apply State.vtkDone_keeps | fail_if_no_progress refine Keeps.of_mk ?_)

theorem State.headStateRun_keeps {z s : State} (c : VtkCmd) (hK : Keeps z s) : Keeps z (State.headStateRun s c) := by
  unfold State.headStateRun; with_reducible repeat' (first | assumption | (extract_lets +implicits +onlyGivenNames x; first | (refine Keeps.named (z := z) (x := x) ?_ fun hx => ?_; (on_goal 1 => dsimp -zeta only [x]; clear x); (on_goal 2 => clear_value x)) | clear_value x) | apply State.txCtrlWrite_keeps | apply State.vtkDone_keeps | fail_if_no_progress refine Keeps.of_mk ?_)

theorem execHeadState_keeps {z s : State} (t : Nat) (hK : Keeps z s) : KeepsR z (execHeadState t s) := by
  unfold execHeadState; with_reducible repeat' (first | assumption | refine KeepsR.of_next ?_ | intro x y hx | apply State.at_keeps | apply State.vtkRow_keeps | apply State.headStateRun_keeps | fail_if_no_progress refine Keeps.of_mk ?_)

theorem State.stageRun_keeps {z s : State} (c : VtkCmd) (hK : Keeps z s) : Keeps z (State.stageRun s c) := by
  unfold State.stageRun; with_reducible repeat' (first | assumption | intro x y hx | (extract_lets +implicits +onlyGivenNames x; first | (refine Keeps.named (z := z) (x := x) ?_ fun hx => ?_; (on_goal 1 => dsimp -zeta only [x]; clear x); (on_goal 2 => clear_value x)) | (refine Keeps.named_snd (z := z) (x := x) ?_ fun hx => ?_; (on_goal 1 => dsimp -zeta only [x]; clear x); (on_goal 2 => clear_value x)) | (refine Keeps.named_fst (z := z) (x := x) ?_ fun hx => ?_; (on_goal 1 => dsimp -zeta only [x]; clear x); (on_goal 2 => clear_value x)) | clear_value x) | apply Keeps.ite | split | apply State.vtkDone_keeps | apply State.stageData_keeps | apply State.stagePtr_keeps | apply Keeps.foldl | apply Keeps.foldl_snd | apply Keeps.foldl_snd2 | apply Keeps.foldl_fst | fail_if_no_progress refine Keeps.of_mk ?_)

theorem execGsStage_keeps {z s : State} (t : Nat) (hK : Keeps z s) : KeepsR z (execGsStage t s) := by
  unfold execGsStage; with_reducible repeat' (first | assumption | refine KeepsR.of_next ?_ | intro x y hx | apply State.at_keeps | apply State.vtkRow_keeps | apply State.stageRun_keeps | fail_if_no_progress refine Keeps.of_mk ?_)

theorem State.checkRun_keeps {z s : State} (c : VtkCmd) (hK : Keeps z s) : Keeps z (State.checkRun s c) := by
  unfold State.checkRun; with_reducible repeat' (first | assumption | (extract_lets +implicits +onlyGivenNames x; first | (refine Keeps.named (z := z) (x := x) ?_ fun hx => ?_; (on_goal 1 => dsimp -zeta only [x]; clear x); (on_goal 2 => clear_value x)) | clear_value x) | apply Keeps.ite | split | apply State.gsCheck_keeps | apply State.vtkDone_keeps | fail_if_no_progress refine Keeps.of_mk ?_)

theorem execGsCheck_keeps {z s : State} (t : Nat) (hK : Keeps z s) : KeepsR z (execGsCheck t s) := by
  unfold execGsCheck; with_reducible repeat' (first | assumption | refine KeepsR.of_next ?_ | intro x y hx | apply State.at_keeps | apply State.vtkRow_keeps | apply State.checkRun_keeps | fail_if_no_progress refine Keeps.of_mk ?_)

theorem State.takeApply_keeps {z s : State} (frame : Nat) (hK : Keeps z s) : Keeps z (State.takeApply s frame) := by
  unfold State.takeApply; with_reducible repeat' (first | assumption | apply Keeps.ite | split | apply State.applyGroup_keeps | apply State.applyNow_keeps | fail_if_no_progress refine Keeps.of_mk ?_)

theorem State.applyRun_keeps {z s : State} (c : VtkCmd) (hK : Keeps z s) : Keeps z (State.applyRun s c) := by
  unfold State.applyRun; with_reducible repeat' (first | assumption | (extract_lets +implicits +onlyGivenNames x; first | (refine Keeps.named (z := z) (x := x) ?_ fun hx => ?_; (on_goal 1 => dsimp -zeta only [x]; clear x); (on_goal 2 => clear_value x)) | clear_value x) | apply Keeps.ite | split | apply State.vtkFinish_keeps | apply State.takeApply_keeps | fail_if_no_progress refine Keeps.of_mk ?_ | refine Keeps.of_pair (by assumption) ?_ | refine Keeps.of_pair_fst (by assumption) ?_)

theorem execGsApply_keeps {z s : State} (t : Nat) (hK : Keeps z s) : KeepsR z (execGsApply t s) := by
  unfold execGsApply; with_reducible repeat' (first | assumption | refine KeepsR.of_next ?_ | intro x y hx | apply State.at_keeps | apply State.vtkRow_keeps | apply State.applyRun_keeps | fail_if_no_progress refine Keeps.of_mk ?_)

theorem State.abortRun_keeps {z s : State} (c : VtkCmd) (hK : Keeps z s) : Keeps z (State.abortRun s c) := by
  unfold State.abortRun; with_reducible repeat' (first | assumption | apply Keeps.ite | split | apply State.vtkDone_keeps | apply State.gsAbort_keeps | fail_if_no_progress refine Keeps.of_mk ?_)

theorem execGsAbort_keeps {z s : State} (t : Nat) (hK : Keeps z s) : KeepsR z (execGsAbort t s) := by
  unfold execGsAbort; with_reducible repeat' (first | assumption | refine KeepsR.of_next ?_ | intro x y hx | apply State.at_keeps | apply State.vtkRow_keeps | apply State.abortRun_keeps | fail_if_no_progress refine Keeps.of_mk ?_)

theorem State.leaseTake_keeps {z s : State} (c : VtkCmd) (hK : Keeps z s) : Keeps z (State.leaseTake s c) := by
  unfold State.leaseTake; with_reducible repeat' (first | assumption | (extract_lets +implicits +onlyGivenNames x; first | (refine Keeps.named (z := z) (x := x) ?_ fun hx => ?_; (on_goal 1 => dsimp -zeta only [x]; clear x); (on_goal 2 => clear_value x)) | clear_value x) | apply Keeps.ite | split | apply State.vtkDone_keeps | apply State.setLeases_keeps | fail_if_no_progress refine Keeps.of_mk ?_ | refine Keeps.of_pair (by assumption) ?_ | refine Keeps.of_pair_fst (by assumption) ?_)

theorem execLeaseTake_keeps {z s : State} (t : Nat) (hK : Keeps z s) : KeepsR z (execLeaseTake t s) := by
  unfold execLeaseTake; with_reducible repeat' (first | assumption | refine KeepsR.of_next ?_ | intro x y hx | apply State.at_keeps | apply State.vtkRow_keeps | apply State.leaseTake_keeps | fail_if_no_progress refine Keeps.of_mk ?_)

theorem State.leaseRenew_keeps {z s : State} (c : VtkCmd) (hK : Keeps z s) : Keeps z (State.leaseRenew s c) := by
  unfold State.leaseRenew; with_reducible repeat' (first | assumption | (extract_lets +implicits +onlyGivenNames x; first | (refine Keeps.named (z := z) (x := x) ?_ fun hx => ?_; (on_goal 1 => dsimp -zeta only [x]; clear x); (on_goal 2 => clear_value x)) | clear_value x) | apply Keeps.ite | split | apply State.vtkDone_keeps | apply State.setLeases_keeps | fail_if_no_progress refine Keeps.of_mk ?_ | refine Keeps.of_pair (by assumption) ?_ | refine Keeps.of_pair_fst (by assumption) ?_)

theorem execLeaseRenew_keeps {z s : State} (t : Nat) (hK : Keeps z s) : KeepsR z (execLeaseRenew t s) := by
  unfold execLeaseRenew; with_reducible repeat' (first | assumption | refine KeepsR.of_next ?_ | intro x y hx | apply State.at_keeps | apply State.vtkRow_keeps | apply State.leaseRenew_keeps | fail_if_no_progress refine Keeps.of_mk ?_)

theorem State.leaseRelease_keeps {z s : State} (c : VtkCmd) (hK : Keeps z s) : Keeps z (State.leaseRelease s c) := by
  unfold State.leaseRelease; with_reducible repeat' (first | assumption | (extract_lets +implicits +onlyGivenNames x; first | (refine Keeps.named (z := z) (x := x) ?_ fun hx => ?_; (on_goal 1 => dsimp -zeta only [x]; clear x); (on_goal 2 => clear_value x)) | clear_value x) | split | apply State.vtkDone_keeps | apply State.setLeases_keeps | fail_if_no_progress refine Keeps.of_mk ?_ | refine Keeps.of_pair (by assumption) ?_ | refine Keeps.of_pair_fst (by assumption) ?_)

theorem execLeaseRelease_keeps {z s : State} (t : Nat) (hK : Keeps z s) : KeepsR z (execLeaseRelease t s) := by
  unfold execLeaseRelease; with_reducible repeat' (first | assumption | refine KeepsR.of_next ?_ | intro x y hx | apply State.at_keeps | apply State.vtkRow_keeps | apply State.leaseRelease_keeps | fail_if_no_progress refine Keeps.of_mk ?_)

theorem State.unlockRun_keeps {z s : State} (c : VtkCmd) (hK : Keeps z s) : Keeps z (State.unlockRun s c) := by
  unfold State.unlockRun; with_reducible repeat' (first | assumption | (extract_lets +implicits +onlyGivenNames x; first | (refine Keeps.named (z := z) (x := x) ?_ fun hx => ?_; (on_goal 1 => dsimp -zeta only [x]; clear x); (on_goal 2 => clear_value x)) | (refine Keeps.named_snd (z := z) (x := x) ?_ fun hx => ?_; (on_goal 1 => dsimp -zeta only [x]; clear x); (on_goal 2 => clear_value x)) | clear_value x) | apply Keeps.ite | split | apply State.draw_keeps | refine Keeps.of_pair (by assumption) (State.draw_keeps ?_) | apply State.modSess_keeps | apply State.vtkDone_keeps | fail_if_no_progress refine Keeps.of_mk ?_ | refine Keeps.of_pair (by assumption) ?_ | refine Keeps.of_pair_fst (by assumption) ?_)

theorem execUnlock_keeps {z s : State} (t : Nat) (hK : Keeps z s) : KeepsR z (execUnlock t s) := by
  unfold execUnlock; with_reducible repeat' (first | assumption | refine KeepsR.of_next ?_ | intro x y hx | apply State.at_keeps | apply State.vtkRow_keeps | apply State.unlockRun_keeps | fail_if_no_progress refine Keeps.of_mk ?_)

theorem State.protectedRun_keeps {z s : State} (hK : Keeps z s) : Keeps z (State.protectedRun s) := by
  unfold State.protectedRun; with_reducible repeat' (first | assumption | apply State.set1_keeps | apply State.wr_keeps | fail_if_no_progress refine Keeps.of_mk ?_)

theorem execDeviceReset_keeps {z s : State} (t : Nat) (hK : Keeps z s) : KeepsR z (execDeviceReset t s) := by
  unfold execDeviceReset; with_reducible repeat' (first | assumption | refine KeepsR.of_next ?_ | intro x y hx | split | apply State.at_keeps | apply State.vtkRow_keeps | apply State.protectedRun_keeps | apply State.vtkDone_keeps | apply State.deviceReset_keeps | fail_if_no_progress refine Keeps.of_mk ?_)

theorem State.startJob_keeps {z s : State} (j : OtpJob) (c : VtkCmd) (hK : Keeps z s) : Keeps z (State.startJob s j c) := by
  unfold State.startJob; with_reducible repeat' (first | assumption | (extract_lets +implicits +onlyGivenNames x; first | (refine Keeps.named (z := z) (x := x) ?_ fun hx => ?_; (on_goal 1 => dsimp -zeta only [x]; clear x); (on_goal 2 => clear_value x)) | (refine Keeps.sec x ?_; subst x) | clear_value x) | apply State.wr_keeps | fail_if_no_progress refine Keeps.of_mk ?_)

theorem execRestoreFactory_keeps {z s : State} (t : Nat) (hK : Keeps z s) : KeepsR z (execRestoreFactory t s) := by
  unfold execRestoreFactory; with_reducible repeat' (first | assumption | refine KeepsR.of_next ?_ | intro x y hx | apply State.at_keeps | apply State.vtkRow_keeps | apply State.protectedRun_keeps | apply State.startJob_keeps | fail_if_no_progress refine Keeps.of_mk ?_)

theorem execAttest_keeps {z s : State} (t : Nat) (hK : Keeps z s) : KeepsR z (execAttest t s) := by
  unfold execAttest; with_reducible repeat' (first | assumption | refine KeepsR.of_next ?_ | intro x y hx | split | apply State.at_keeps | apply State.vtkRow_keeps | apply State.protectedRun_keeps | apply State.vtkDone_keeps | fail_if_no_progress refine Keeps.of_mk ?_)

theorem State.settingsRun_keeps {z s : State} (c : VtkCmd) (hK : Keeps z s) : Keeps z (State.settingsRun s c) := by
  have hb : ∀ t g, Keeps z t → Keeps z { t with sec.begun := setBit t.sec.begun g true } := fun t g h =>
    h.of_otp rfl rfl rfl rfl (fun _ => bit_setBit_true) (fun _ => id) id (Nat.le_refl _)
  unfold State.settingsRun
  with_reducible repeat' (first | assumption | (extract_lets +implicits +onlyGivenNames x; first | (refine Keeps.named (z := z) (x := x) ?_ fun hx => ?_; (on_goal 1 => dsimp -zeta only [x]; clear x); (on_goal 2 => clear_value x)) | (refine Keeps.sec x ?_; subst x) | clear_value x) | apply Keeps.ite | split | apply hb | apply State.vtkDone_keeps | apply State.secDenied_keeps | apply State.protectedRun_keeps | apply State.startJob_keeps | apply State.secRefresh_keeps | apply State.securityChanged_keeps | fail_if_no_progress refine Keeps.of_mk ?_ | refine Keeps.of_pair (by assumption) ?_ | refine Keeps.of_pair_fst (by assumption) ?_)

theorem execSettingsWrite_keeps {z s : State} (t : Nat) (hK : Keeps z s) : KeepsR z (execSettingsWrite t s) := by
  unfold execSettingsWrite; with_reducible repeat' (first | assumption | refine KeepsR.of_next ?_ | intro x y hx | apply State.at_keeps | apply State.vtkRow_keeps | apply State.settingsRun_keeps | fail_if_no_progress refine Keeps.of_mk ?_)

theorem State.lockRun_keeps {z s : State} (c : VtkCmd) (hK : Keeps z s) : Keeps z (State.lockRun s c) := by
  unfold State.lockRun; with_reducible repeat' (first | assumption | apply Keeps.ite | split | apply State.secDenied_keeps | apply State.protectedRun_keeps | apply State.startJob_keeps | fail_if_no_progress refine Keeps.of_mk ?_)

theorem execLock_keeps {z s : State} (t : Nat) (hK : Keeps z s) : KeepsR z (execLock t s) := by
  unfold execLock; with_reducible repeat' (first | assumption | refine KeepsR.of_next ?_ | intro x y hx | apply State.at_keeps | apply State.vtkRow_keeps | apply State.lockRun_keeps | fail_if_no_progress refine Keeps.of_mk ?_)

theorem State.rollbackRun_keeps {z s : State} (c : VtkCmd) (hK : Keeps z s) : Keeps z (State.rollbackRun s c) := by
  unfold State.rollbackRun; with_reducible repeat' (first | assumption | (extract_lets +implicits +onlyGivenNames x; first | (refine Keeps.named (z := z) (x := x) ?_ fun hx => ?_; (on_goal 1 => dsimp -zeta only [x]; clear x); (on_goal 2 => clear_value x)) | (refine Keeps.sec x ?_; subst x) | clear_value x) | apply Keeps.ite | split | apply State.secDenied_keeps | apply State.protectedRun_keeps | apply State.vtkDone_keeps | apply State.startJob_keeps | fail_if_no_progress refine Keeps.of_mk ?_)

theorem execRollbackAdvance_keeps {z s : State} (t : Nat) (hK : Keeps z s) : KeepsR z (execRollbackAdvance t s) := by
  unfold execRollbackAdvance; with_reducible repeat' (first | assumption | refine KeepsR.of_next ?_ | intro x y hx | apply State.at_keeps | apply State.vtkRow_keeps | apply State.rollbackRun_keeps | fail_if_no_progress refine Keeps.of_mk ?_)

theorem State.calWriteRun_keeps {z s : State} (c : VtkCmd) (hK : Keeps z s) : Keeps z (State.calWriteRun s c) := by
  unfold State.calWriteRun; with_reducible repeat' (first | assumption | intro x y hx | (extract_lets +implicits +onlyGivenNames x; first | (refine Keeps.named (z := z) (x := x) ?_ fun hx => ?_; (on_goal 1 => dsimp -zeta only [x]; clear x); (on_goal 2 => clear_value x)) | (refine Keeps.named_snd (z := z) (x := x) ?_ fun hx => ?_; (on_goal 1 => dsimp -zeta only [x]; clear x); (on_goal 2 => clear_value x)) | (refine Keeps.named_fst (z := z) (x := x) ?_ fun hx => ?_; (on_goal 1 => dsimp -zeta only [x]; clear x); (on_goal 2 => clear_value x)) | clear_value x) | apply State.protectedRun_keeps | apply State.satInc_keeps | apply State.startJob_keeps | apply Keeps.foldl | apply Keeps.foldl_snd | apply Keeps.foldl_snd2 | apply Keeps.foldl_fst | fail_if_no_progress refine Keeps.of_mk ?_)

theorem execCalWrite_keeps {z s : State} (t : Nat) (hK : Keeps z s) : KeepsR z (execCalWrite t s) := by
  unfold execCalWrite; with_reducible repeat' (first | assumption | refine KeepsR.of_next ?_ | intro x y hx | apply State.at_keeps | apply State.vtkRow_keeps | apply State.calWriteRun_keeps | fail_if_no_progress refine Keeps.of_mk ?_)

theorem State.calReadRun_keeps {z s : State} (c : VtkCmd) (hK : Keeps z s) : Keeps z (State.calReadRun s c) := by
  unfold State.calReadRun; with_reducible repeat' (first | assumption | (extract_lets +implicits +onlyGivenNames x; first | (refine Keeps.named (z := z) (x := x) ?_ fun hx => ?_; (on_goal 1 => dsimp -zeta only [x]; clear x); (on_goal 2 => clear_value x)) | clear_value x) | apply Keeps.ite | split | apply State.protectedRun_keeps | apply State.vtkDone_keeps | fail_if_no_progress refine Keeps.of_mk ?_)

theorem execCalRead_keeps {z s : State} (t : Nat) (hK : Keeps z s) : KeepsR z (execCalRead t s) := by
  unfold execCalRead; with_reducible repeat' (first | assumption | refine KeepsR.of_next ?_ | intro x y hx | apply State.at_keeps | apply State.vtkRow_keeps | apply State.calReadRun_keeps | fail_if_no_progress refine Keeps.of_mk ?_)

theorem execVtkUnknownCommand_keeps {z s : State} (t : Nat) (hK : Keeps z s) : KeepsR z (execVtkUnknownCommand t s) := by
  unfold execVtkUnknownCommand; with_reducible repeat' (first | assumption | refine KeepsR.of_next ?_ | intro x y hx | split | apply State.at_keeps | apply State.vtkRow_keeps | apply State.vtkDone_keeps | fail_if_no_progress refine Keeps.of_mk ?_)

end Sys2Proof.Machine
end

