-- ==== Sys2Proof/Tests/Slice0.lean ====
section
/-! SUPPORT. The model's own tests: terms that the well-formedness check refuses, values that the spec or a standard gives, and for each
statement that has hypotheses a theorem `<Statement>.witness` that names, clause by clause, a state and operands that meet them. The
expected values come from the spec, from a standard or from another implementation (the tags of VertikMessages), never from a run. -/

namespace Sys2Proof.Tests

open Sys2Proof.Machine

set_option Elab.async false
set_option linter.unusedVariables false

/-! Well-formedness: each term breaks one check of `Instr.wf`, and the check refuses it. -/

theorem test_ill_formed_1 : ([
   .registerWrite 0 [⟨.core 32, 0, 0#32, 4⟩], .registerWrite 0 [⟨.dma 8, 0, 0#32, 4⟩],
   .registerWrite 0 [⟨.vertik, 0x1_0000_0000, 0#32, 4⟩], .registerWrite 0 [⟨.vertik, 0, 0#32, 3⟩], .registerWrite 0 [],
   .registerWrite 0 [⟨.dma 0, 0x4000_0000, 0#32, 4⟩, ⟨.dma 1, 0x4000_0004, 0#32, 4⟩], .ignoredWritesRead 0 1 [.vertik],
   .ignoredWritesRead 0 0 [], .rimCollisionsRead 0 1 [.vertik], .rimCollisionsRead 0 0 [], .headArrayIgnoredRead 0 24 [.vertik],
   .headArrayIgnoredRead 0 0 [], .hubEccCorrRead 0 [], .hubEccUncorrRead 0 [], .hubWriteDeniedRead 0 [], .rimUnmappedRead 0 [],
   .hubHeadMarginRead 0 24 [.vertik], .hubHeadMarginRead 0 0 [], .hubSlotAccess 0 32 ⟨0, 0, 1, none⟩,
   .hubSlotAccess 0 0 ⟨128, 0, 1, none⟩, .hubSlotAccess 0 0 ⟨0, 0x1000_0000, 1, none⟩, .hubSlotAccess 0 0 ⟨0, 0, 0, none⟩,
   .hubSlotAccess 0 0 ⟨0, 63, 2, none⟩, .hubSlotAccess 0 0 ⟨0, 0, 1, some []⟩, .scrubRead 0 32, .eccWriteBack 0 32,
   .hardWordReread 0 32 false, .spareRepairCopy 0 32, .spareTakeover 0 32, .fetchLineStart 0 24 0 0, .fetchDataArrive 0 24 0 0 0,
   .fetchLineDrop 0 24 0 0, .traceBuildStart 0 24 0 0, .traceBuildStart 0 0 2 0, .llErrsRead 0 24 0 [.vertik],
   .llErrsRead 0 0 8 [.vertik], .llErrsRead 0 0 0 [], .ttStatusRead 0 24 0 [.vertik], .ttStatusRead 0 0 2 [.vertik],
   .ttStatusRead 0 0 0 []] : List Instr).all (fun i => !i.wf) = true := by decide +kernel

theorem test_ill_formed_2 : ([
   .sprLineStatusRead 0 24 [.vertik], .sprLineStatusRead 0 0 [], .sprErrsRead 0 24 [.vertik], .sprErrsRead 0 0 [],
   .sprIgnoredRead 0 24 [.vertik], .sprIgnoredRead 0 0 [], .pixelLookup 0 24 0 0 0, .pixelSend 0 24 0 0 0 none none,
   .cmpMismatchRead 0 24 [.vertik], .cmpMismatchRead 0 0 [], .frameStart 0 24 0 false, .latchPoint 0 24 0, .beamCommit 0 24,
   .beamCommitCancel 0 24, .commitFrameWrite 0 24 0, .commitFrameWrite 0 0 (2 ^ 64), .beamStatusRead 0 24 [.vertik],
   .beamStatusRead 0 0 [], .lineEventFire 0 24 0, .lineEventFire 0 0 2, .beamEventMissedRead 0 24 [.vertik], .beamEventMissedRead 0 0 [],
   .cadenceEntryDue 0 24, .cadenceWrite 0 24, .cadErrsRead 0 24 [.vertik], .cadErrsRead 0 0 [], .cadBadRead 0 24 [.vertik],
   .cadBadRead 0 0 [], .headStateRequest 0 24 0#32, .psrSdpSend 0 24, .hpdPlug 0 24 ⟨0, false, 0, false⟩, .hpdIrq 0 24 false false,
   .hpdUnplug 0 24, .trainingAttemptEnd 0 24 false, .auxRequest 0 24 0#32, .auxComplete 0 24 .nack, .auxDeferRetry 0 24, .teEdge 0 24,
   .teSilent 0 24, .txUnderrunRead 0 24 [.vertik]] : List Instr).all (fun i => !i.wf) = true := by decide +kernel

theorem test_ill_formed_3 : ([
   .txUnderrunRead 0 0 [], .mirrorPacketSend 0 24 0 none, .sourceAbsent 0 24, .txRemoteRingRead 0 24 [.vertik], .txRemoteRingRead 0 0 [],
   .lineDigestComplete 0 24 0 0, .bandSealComplete 0 24 0 0, .bandSealComplete 0 0 0 64, .chainQueuePeakRead 0 [],
   .gooseFrame 0 2 ⟨0, none, 0, 0, false, [], 0, 0, 0, 0, 0, false, 0, false, 0, false, [], []⟩,
   .svAsdu 0 2 ⟨0, none, 0, false, [], 0, 0, 0, false, false, [], [], []⟩, .svStreamTimeout 0 64, .ingDiscardRead 0 10 [.vertik],
   .ingDiscardRead 0 0 [], .derReeval 0 0x10_0000, .derSkippedRead 0 [], .derArrayCollisionsRead 0 [], .derQueuePeakRead 0 [],
   .gsStagePtrWrite 0 0x20_0000, .gsApplyFrameWrite 0 (2 ^ 64), .headSwapLoadDone 0 24, .corePark 0 32, .coreLoadDone 0 32,
   .gsClashRead 0 [], .sealCompare 0 24 [] false false false, .takeNetChange 0 24, .takeNetDisagree 0 24 false,
   .tandemTakeReq 0 (2 ^ 24), .cutoverHoldStart 0 [] [] [(32, [])] [] [], .cutoverHoldStart 0 [] [] [] [(32, 0, [])] [],
   .cutoverHoldStart 0 [] [] [] [] [(128, [])], .tandemJournalRead 0 [], .tandemDivergeRead 0 [], .leaderClaim 0 1024 false false [],
   .ready 0 1024 0, .commitReceive 0 1024 0, .returnRequest 0 1024 0 [] [] [] false, .memberFail 0 1024, .pelCommitStatsRead 0 [],
   .pelSpriteOwnRead 0 []] : List Instr).all (fun i => !i.wf) = true := by decide +kernel

theorem test_ill_formed_4 : ([
   .frameReceive 0 2 false false false [], .prpEntryExpire 0 (2 ^ 48), .ethLinkChange 0 2 false, .ethPrpRead 0 2 [.vertik],
   .ethPrpRead 0 0 [], .ethRxDropRead 0 2 0 [.vertik], .ethRxDropRead 0 0 8 [.vertik], .ethRxDropRead 0 0 0 [], .pdelayReqSend 0 2 none,
   .pdelayReqReceive 0 2, .announceTimeout 0 2 false, .odoSet 0 (2 ^ 64), .hello 0 2 [], .auth 0 2 [], .authTimeout 0 64, .close 0 2 [],
   .sessionTimeout 0 64, .command 0 2 [], .unlockTimeout 0 64, .vtkOrderRead 0 [], .vtkIllegalRead 0 5 [.vertik], .vtkIllegalRead 0 0 [],
   .bltQueueWrWrite 0 4 0, .bltQueueWrWrite 0 0 (2 ^ 16), .bltQueueCancel 0 4, .bltQueueResume 0 4, .cueCommand 0 512 0 false,
   .cueCommand 0 0 256 false, .envelopeSegmentEnd 0 128, .envelopeHoldExpire 0 128, .clipEnd 0 128, .bellXpDataWrite 0 (2 ^ 16) 0,
   .bellXpDataWrite 0 0 4, .bellSinkWrite 0 256 0 0, .bellBusGainWrite 0 128 0, .bellBusGainWrite 0 0 (2 ^ 16), .tdmLock 0 8 0,
   .tdmUnlock 0 8 0, .bellErrsRead 0 [], .bellBusRead 0 128 [.vertik]] : List Instr).all (fun i => !i.wf) = true := by decide +kernel

theorem test_ill_formed_5 : ([
   .bellBusRead 0 0 [], .nop 0 32, .wait 0 32, .trap 0 32 0, .trap 0 0 0x100_0000, .iret 0 32, .disN 0 32, .enN 0 32, .disF 0 32,
   .enF 0 32, .clrC 0 32, .setC 0 32, .unlink 0 32, .fence 0 32, .dbgbrk 0 32, .ld 0 32 .x .d 0, .ld 0 0 .x .d 0x100_0000,
   .ld 0 0 .sp .d 0, .ldu 0 32 .x 0, .ldu 0 0 .x 0x100_0000, .ldu 0 0 .sp 0, .st 0 32 .x .d 0, .st 0 0 .x .d 0x100_0000,
   .st 0 0 .sp .d 0, .st 0 0 .x .imm 0, .ldB 0 32 .d 0, .ldB 0 0 .d 0x100_0000, .ldB 0 0 .imm 0, .ldH 0 32 .d 0, .ldH 0 0 .d 0x100_0000,
   .ldH 0 0 .imm 0, .stB 0 32 .d 0, .stB 0 0 .d 0x100_0000, .stB 0 0 .imm 0, .stH 0 32 .d 0, .stH 0 0 .d 0x100_0000, .stH 0 0 .imm 0,
   .addA 0 32 .d 0, .addA 0 0 .d 0x100_0000, .addc 0 32 .d 0] : List Instr).all (fun i => !i.wf) = true := by decide +kernel

theorem test_ill_formed_6 : ([
   .addc 0 0 .d 0x100_0000, .subA 0 32 .d 0, .subA 0 0 .d 0x100_0000, .subc 0 32 .d 0, .subc 0 0 .d 0x100_0000, .andA 0 32 .d 0,
   .andA 0 0 .d 0x100_0000, .orA 0 32 .d 0, .orA 0 0 .d 0x100_0000, .xorA 0 32 .d 0, .xorA 0 0 .d 0x100_0000, .cmp 0 32 .d 0,
   .cmp 0 0 .d 0x100_0000, .testA 0 32 0, .testA 0 0 0x100_0000, .mov 0 32 .xa, .inc 0 32 .x, .inc 0 0 .sp, .dec 0 32 .x, .dec 0 0 .sp,
   .neg 0 32, .notA 0 32, .shl 0 32 false 0, .shl 0 0 false 0x100_0000, .shr 0 32 false 0, .shr 0 0 false 0x100_0000, .sar 0 32 false 0,
   .sar 0 0 false 0x100_0000, .ror 0 32 false 0, .ror 0 0 false 0x100_0000, .mul 0 32, .mulhu 0 32, .mulhs 0 32, .cmpX 0 32 .x 0,
   .cmpX 0 0 .x 0x100_0000, .cmpX 0 0 .a 0, .addX 0 32 .x 0, .addX 0 0 .x 0x100_0000, .addX 0 0 .a 0, .br 0 32 .al 0] : List Instr).all (fun i => !i.wf) = true := by decide +kernel

theorem test_ill_formed_7 : ([
   .br 0 0 .al 0x100_0000, .loopX 0 32 0, .loopX 0 0 0x100_0000, .jmp 0 32 false 0, .jmp 0 0 false 0x100_0000, .call 0 32 false 0,
   .call 0 0 false 0x100_0000, .ret 0 32, .push 0 32 .x, .push 0 0 .sp, .pop 0 32 .x, .pop 0 0 .sp, .ll 0 32 false 0,
   .ll 0 0 false 0x100_0000, .sc 0 32 false 0, .sc 0 0 false 0x100_0000, .wralt 0 32 0, .wralt 0 0 0x100_0000, .rdalt 0 32 0,
   .rdalt 0 0 0x100_0000, .cpwr 0 32 0 0, .cpwr 0 0 0 0x100_0000, .cpwr 0 0 4 0, .cprd 0 32 0 0, .cprd 0 0 0 0x100_0000, .cprd 0 0 4 0,
   .divu 0 32 0, .divu 0 0 0x100_0000, .divs 0 32 0, .divs 0 0 0x100_0000, .macs 0 32 0, .macs 0 0 0x100_0000, .macu 0 32 0,
   .macu 0 0 0x100_0000, .msus 0 32 0, .msus 0 0 0x100_0000, .clr 0 32 0, .clr 0 0 0x100_0000, .clz 0 32 0, .clz 0 0 0x100_0000] : List Instr).all (fun i => !i.wf) = true := by decide +kernel

theorem test_ill_formed_8 : ([
   .popc 0 32 0, .popc 0 0 0x100_0000, .extu 0 32 0, .extu 0 0 0x100_0000, .exts 0 32 0, .exts 0 0 0x100_0000, .ins 0 32 0,
   .ins 0 0 0x100_0000, .rev 0 32 0, .rev 0 0 0x100_0000, .snap 0 32 0, .snap 0 0 0x100_0000, .waituntil 0 32 0,
   .waituntil 0 0 0x100_0000, .waituntilExpire 0 32, .illegalInstruction 0 32 0#32, .coreStoreDrain 0 32, .fastInterruptEntry 0 32,
   .normalInterruptEntry 0 32, .sourceEdge 0 1024, .sourceLevelChange 0 1024, .intcClaimRead 0 32 [.vertik], .intcClaimRead 0 0 [],
   .intcEoiWrite 0 32 0 .vertik, .intcEoiWrite 0 0 1024 .vertik, .intcEoiWrite 0 0 0 (.core 32), .intcFastEoiWrite 0 32 .vertik,
   .intcFastEoiWrite 0 0 (.core 32), .intcDoorbellWrite 0 32 0, .intcDoorbellWrite 0 0 32, .intcMergedRead 0 [],
   .intcEoiBadRead 0 32 [.vertik], .intcEoiBadRead 0 0 [], .timerMatch 0 32, .tmrCountWrite 0 32 0, .tmrCountWrite 0 0 (2 ^ 64),
   .tmrCompareWrite 0 32 0, .tmrCompareWrite 0 0 (2 ^ 64), .tmrSnap 0 (2 ^ 32), .counterLoRead 0 1 [.vertik]] : List Instr).all (fun i => !i.wf) = true := by decide +kernel

theorem test_ill_formed_9 : ([
   .counterLoRead 0 0 [], .filterAccept 0 64, .flCapPopRead 0 64 [.vertik], .flCapPopRead 0 0 [], .flStatusRead 0 64 [.vertik],
   .flStatusRead 0 0 [], .directionChangeEnd 0 64, .outputShort 0 64, .shortRetry 0 64 false, .dmaChStart 0 8 0, .dmaChStart 0 0 8,
   .dmaChannelTake 0 8, .dmaDescriptorFetch 0 8, .dmaDescriptorComplete 0 8, .dmaChannelDisable 0 8 0 0, .dmaResume 0 8,
   .sbUnfreeze 0 64, .driveTimeout 0 2, .driveInsert 0 2 0 0 false 0 0, .driveRemove 0 2, .rebuildComplete 0 2, .sbStatusRead 0 [],
   .sbDriveRead 0 2 [.vertik], .sbDriveRead 0 0 [], .sbKeyRead 0 [], .faultRaise 0 448 false, .quietPeriodEnd 0 4, .faultQueueRead 0 [],
   .faultSrcRead 0 448 [.vertik], .faultSrcRead 0 0 [], .wdogKick 0 32 0#32 .vertik, .wdogKick 0 0 0#32 (.core 32), .watchdogBite 0 32,
   .watchdogHaltExpire 0 32, .secCalRead 0 [], .dbgHalt 0 32 0, .dbgResume 0 32 0, .dbgStep 0 32, .dbgRead 0 32 0, .dbgWrite 0 32 0 0#32] : List Instr).all (fun i => !i.wf) = true := by decide +kernel

theorem test_ill_formed_10 : ([
   .dbgRegRead 0 32 0, .dbgRegWrite 0 32 0 0#32, .compWrite 0 32 0 0, .groupWrite 0 32 0, .haltTaken 0 32, .powerRequest 0 4,
   .wake 0 1024, .resetRelease 0 4 0 [] 0, .sensorRead 0 [], .ageingMeasure 0 [] false, .cprTempMaxRead 0 [],
   .fieldLineSampleEdge 0 (2 ^ 64) 0 0, .fieldLineSampleEdge 0 0 (2 ^ 64) 0, .fieldLineSampleEdge 0 0 0 (2 ^ 64),
   .faultSourceNoFault 0 448, .hubEccCorrRead 0 [.core 32], .hubEccCorrRead 0 [.dma 8], .hubEccCorrRead 0 [.vertik, .vertik]] : List Instr).all (fun i => !i.wf) = true := by decide +kernel

/-! Small states, and lemmas for the hypotheses that no decision procedure takes. -/

theorem clean_of {s : State} {off len : Nat} (h : s.hub.flips = []) : s.Clean off len := fun w _ _ => by
  unfold State.flips; rw [h]; rfl

theorem nowhere_of {a : Nat} (h : 0x2000_0000 < a ∧ a < 0x4000_0000) : ∀ n, dmaPlace a n = .nowhere := fun n => by
  unfold dmaPlace
  rw [if_neg (by omega), if_neg (by omega), if_neg (by omega), if_neg (by omega)]

theorem kept_of {d : Deliver} (h : (match d with | .drop _ => false | _ => true) = true) : ∀ r, d ≠ .drop r := fun r e => by
  subst e; cases h

theorem ball_of {n : Nat} {P : Nat → Prop} [DecidablePred P] (h : ((List.range n).all fun j => decide (P j)) = true) :
    ∀ j, j < n → P j := fun j hj => by
  have := List.all_eq_true.1 h j (List.mem_range.2 hj)
  simpa using this

/-- Fields set one after the other. -/
def put (l : List (Fld × Nat)) (s : State := {}) : State := ((F.ODO_STATUS.released, 1) :: l).foldl (fun s p => s.wr p.1 p.2) s
/-- Register words set one after the other. -/
def putR (l : List (Nat × Word)) (s : State := {}) : State := l.foldl (fun s p => s.setReg p.1 p.2) s
/-- A machine with core 3 present, and its state. -/
def core3 (c : CoreS) (s : State := {}) : State := { s with gs.present := 2 ^ 29, cores := [(3, c)] }
/-- A Groupset record of kind k for target t (R60). -/
def recW (k t : Nat) (ws : List Nat) : List Nat := [k + 65536 * ws.length, t] ++ ws
/-- REG records of a block at base. -/
def regsW (base : Nat) (l : List (Nat × Nat)) : List Nat :=
  let l := if l.length % 2 = 1 then l ++ l.take 1 else l
  l.flatMap fun p => recW 1 (p.1 - base) [p.2]
/-- The END record. -/
def endW : List Nat := [0, 0]
/-- A requestor for schedule entry j of bank b. -/
def sched (b j : Nat) : Nat :=
  if j = 0 then 126
  else if j % 32 = 1 then 64 else if j % 32 = 2 then 65 else if j % 64 = 3 then 66 else if j % 128 = 5 then 71
  else if j = 7 then 68 else if j = 9 then 48 else if j % 4 = 0 then 0 else 127
/-- A register word that holds one field. -/
def fw (f : Fld) (v : Nat) : Nat × Nat := (f.reg, v * 2 ^ f.lo)
/-- A head section of 640 by 480 pixels at N = 40. -/
def headRegs (h : Nat) : List (Nat × Nat) :=
  [(R.BEAM_H h, 640 * 2 ^ (F.BEAM_H.hactive h).lo + 800 * 2 ^ (F.BEAM_H.htotal h).lo),
   (R.BEAM_V h, 480 * 2 ^ (F.BEAM_V.vactive h).lo + 525 * 2 ^ (F.BEAM_V.vtotal h).lo),
   (R.BEAM_N h, 40 * 2 ^ (F.BEAM_N.n_div h).lo),
   (R.BEAM_HSYNC h, 656 * 2 ^ (F.BEAM_HSYNC.hsync_start h).lo + 96 * 2 ^ (F.BEAM_HSYNC.hsync_width h).lo),
   (R.BEAM_VSYNC h, 490 * 2 ^ (F.BEAM_VSYNC.vsync_start h).lo + 2 * 2 ^ (F.BEAM_VSYNC.vsync_width h).lo),
   fw (F.SEAL_CTRL.band_lines h) 16, fw (F.TX_LINK.max_rate h) 3]
/-- A section of an image. -/
def sec (t i : Nat) (ab : Bool) (ws : List Nat) : GsSec := ⟨t, i, ab, 7, if ab then [] else ws ++ endW⟩
/-- A whole image with head 0 and pool core 24. -/
def image : List GsSec :=
  allSections.map fun u =>
    match u with
    | (1, _) => sec 1 0 false (regsW 0x40000000 [(R.CHAIN_CTRL, 1), (0x40000088, 16800000), (0x4000008C, 0)])
    | (2, _) => sec 2 0 false ((List.range 32).flatMap fun b => recW 4 b ((List.range 64).map fun q =>
        sched b (4*q) + 256 * sched b (4*q+1) + 65536 * sched b (4*q+2) + 2^24 * sched b (4*q+3)))
    | (3, 0) => sec 3 0 false (recW 3 0 (List.replicate 16 0) ++ regsW 0x40100000 (headRegs 0))
    | (4, 24) => sec 4 24 false (recW 6 0 [0x100] ++ recW 2 0 [7])
    | (5, _) => sec 5 0 false (recW 1 (R.INTC_SRC 64 - 0x40350000) (List.replicate 640 (0x3000 + 24)))
    | (6, _) => sec 6 0 false (regsW 0x40390000 (((List.range 448).filter fun i => (faultFloor i).isSome).map fun i => (R.FAULT_SRC i, ((faultFloor i).getD 0) * 2^30)))
    | (t, i) => sec t i (t = 3 ∨ t = 4 ∨ t = 8 ∨ t = 11) []
/-- It, staged. -/
def st : SMap Word := storeOf (packImage [] image)
/-- Scene memory that holds the given bytes. -/
def memOf (l : List (Nat × List Byte)) : SMap Byte := (l.flatMap fun p => p.2.zipIdx.map fun q => (p.1 + q.2, q.1)).filter (·.2 != 0#8)
/-- A GOOSE subscription entry (R85). -/
def subE (k at_ st : Nat) (deadline : Nat) : List Byte :=
  natLe 6 0x0100CD0C0100 ++ natLe 2 17 ++ natLe 2 0 ++ natLe 2 0x19 ++ natLe 4 1 ++ natLe 1 k ++ natLe 1 3 ++ natLe 2 0 ++ natLe 4 at_ ++ [65#8,66#8,67#8]
   ++ List.replicate 61 0#8 ++ natLe 4 413 ++ natLe 4 0 ++ natLe 8 deadline ++ natLe 1 st ++ List.replicate 23 0#8
/-- A leaf map entry (R86). -/
def leafE (ty role pt size : Nat) : List Byte := natLe 4 (ty * 2^24 + role * 2^20 + pt) ++ natLe 4 size
/-- A GOOSE frame that the entry takes. -/
def gFrame : Goose := { mac := 0x00010CCD0001, vlan := none, appid := 17, length := 120, malformed := false, gocbRef := [65#8,66#8,67#8], ttl := 2000, tSec := 100, tFrac := 8388608, stNum := 414, sqNum := 0, test := false, confRev := 1, ndsCom := false, entries := 2, security := false, leaves := [.bitString 2 2, .bitString 13 0], raw := [1#8] }
/-- An SV subscription entry (R90). -/
def svE (st : Nat) : List Byte :=
  natLe 6 0x0100CD0C0100 ++ natLe 2 17 ++ natLe 2 0 ++ natLe 2 0x31 ++ natLe 4 1 ++ [65#8,66#8] ++ List.replicate 32 0#8 ++ natLe 2 2 ++ natLe 4 0x20000 ++ natLe 1 10 ++ natLe 3 0 ++ natLe 4 5 ++ natLe 2 100 ++ List.replicate 6 0#8 ++ natLe 8 50 ++ natLe 1 st ++ List.replicate 47 0#8
/-- An ASDU that the entry takes. -/
def aFrame : SvAsdu := { mac := 0x00010CCD0001, vlan := none, appid := 17, malformed := false, svId := [65#8,66#8], smpCnt := 79, confRev := 1, smpSynch := 1, test := false, security := false, values := [1,-2,3,4,5,6,7,8], qualities := [0,0,0,0,0,0,0,1], raw := [] }
/-- A hit that no address gives. -/
def dummy : RegHit := ⟨.HeadU, 0, 0, ⟨.HUB_CTRL,0,0,0,0,0,false,[]⟩, 0,0,false⟩
/-- Head 2 in Run with a schedule. -/
def HB (s : State := {}) : State := (put [(F.BEAM_N.n_div 2, 40),(F.BEAM_H.htotal 2, 10),(F.BEAM_H.hactive 2, 8),(F.BEAM_V.vactive 2,
  4),(F.BEAM_V.vtotal 2, 6),(F.TX_STATUS.state 2, 1)] {s with gs.present := 2^4}).wr64 (R.BEAM_TF 2) 2400
/-- Line y of frame 1 of head 2. -/
def J (y : Nat) : LineJob := {head := 2, frame := 1, y := y}
/-- Head 2 with a line in hand. -/
def HL (j : LineJob) (s : State := {}) : State := HB {s with heads := [(2,{lines := [{head := 2, frame := 1, y := 0}, j], frame := 1, scan := true, last := (7,8,9)})]}
/-- A member of a Peloton in the given state and role. -/
def PM (st role : Nat) (l : List (Fld × Nat) := []) (x : PelS := {}) (gr : Nat := 1) (s : State := {}) : State := put ([(F.SEC_STATE.state,2),(F.PEL_STATUS.state,st),(F.PEL_STATUS.role,role),(F.PEL_SELF.member_index,7),(F.PEL_CTRL.leader_eligible,1)] ++ l) {s with gs.pelotonRole := gr, gs.chipTf := 300, pel := x}
/-- A Shadow in LOCKED. -/
def SH : List (Fld × Nat) := [(F.TANDEM_STATUS.role,2),(F.TANDEM_STATUS.state,3)]
/-- A command. -/
def cmd0 : VtkCmd := ⟨3,1,4,true,6,[],[],0⟩
/-- A Vertik command of session 5. -/
def VC (code : Nat) (args : List Byte := []) (path : List Nat := []) (framed : Bool := false) (frame : Nat := 0) (n seq : Nat := 5) : VtkCmd := ⟨n,seq,code,framed,frame,path,args,0⟩
/-- Session 5 open with a command at the front. -/
def V0 (c : VtkCmd) (l : List (Fld × Nat) := []) (v : VSession := {}) (s : State := {}) : State :=
  put ([(F.VTK_CTRL.enable,1),(F.SEC_STATE.state,2),(F.VTK_SESSION.state 5,2),(F.VTK_SESSION.outstanding 5,1),(F.VTK_STATUS.outstanding,2),(F.ETH_CTRL.mtu 0,1518)] ++ l)
    {s with vtk.ready := s.vtk.ready ++ [c], vtk.sessions := [(5,{v with outstanding := [5], next := 6, devSeq := 9})], hub.regions := [⟨0,0x1000_0000,0xFFFF⟩]}
/-- 32-bit arguments. -/
def A4 (l : List Nat) : List Byte := l.flatMap (natLe 4)
/-- An OTP generation without its digest. -/
def G0 : List Byte := natLe 4 0x47504F54 ++ natLe 2 1 ++ [0#8, 0xFF#8, 1#8, 60#8] ++ List.replicate 950 0#8
/-- An OTP generation. -/
def G : List Byte := G0 ++ sha512 G0

/-! Values the spec or a standard gives. -/

/-- 09_scanout.md, the example after R183: N = 10 on HBR3. -/
theorem test_mvid_nvid : mvidNvid 10 3 = (24035, 32775) := by decide +kernel

/-- R197: Maud and Naud at HBR3. -/
theorem test_maud_naud : maudNaud 3 = (1024, 33750) := by decide +kernel

/-- By hand: the roots of 4 and of 1/4 as binary64 (R92). -/
theorem test_rms_units : f64Sqrt (4 * 1_000_000) 1_000_000 false = 0x4000000000000000 ∧ f64Sqrt 1 4 false = 0x3FE0000000000000 := by
  decide +kernel

/-- FIPS 180-4, the digest of "abc". -/
theorem test_sha512_abc : sha512 (ascii "abc") = (natLe 64 0xDDAF35A193617ABACC417349AE20413112E6FA4E89A97EA20A9EEEE64B55D39A2192992A274FC1A836BA3C23A3FEEBBD454D4423643CE80E2A9AC94FA54CA49F).reverse := by
  decide +kernel

/-- RFC 8032, 7.1, TEST 1: the key and the signature of the empty message. -/
theorem test_ed25519_rfc : ed25519Verify (natLe 32 0xD75A980182B10AB7D54BFED3C964073A0EE172F3DAA62325AF021A68F707511A).reverse []
    (natLe 64 0xE5564300C360AC729086E2CC806E828A84877F1EB8E5D974D873E065224901555FB8821590A33BACC61E39701CF9B46BD25BF5F0595BBE24655141438E7A100B).reverse = true := by
  decide +kernel

/-- RFC 7748, 5.2, the first vector. -/
theorem test_x25519_rfc : x25519 (natLe 32 0xA546E36BF0527C9D3B16154B82465EDD62144C0AC1FC5A18506A2244BA449AC4).reverse
    (natLe 32 0xE6DB6867583030DB3594C1A424B15F7C726624EC26B3353B10A903A6D0AB1C4C).reverse
    = (natLe 32 0xC3DA55379DE9C6908E94EA4DF28D084F32ECCF03491C71F754B4075577A28552).reverse := by
  decide +kernel

/-- The table gives its rows no bits (95_what_each_step_holds.md). -/
theorem test_no_word_decodes : decodeTableWord 8 0 = none ∧ decodeTableWord 32 0xFFFF_FFFF = none := by decide

/-! ## Witnesses: states and operands that meet the hypotheses of each statement together -/

namespace StepTakesFrontCommand

theorem witness : (∃ (s : State) (c : Instr) (rest : List Instr), s.pending = c :: rest) ∧ ∃ s : State, s.pending = [] :=
  ⟨⟨{pending := [.vtkNop 1, .vtkNop 2]}, .vtkNop 1, [.vtkNop 2], rfl⟩, {}, rfl⟩

end StepTakesFrontCommand

namespace EveryStepKeepsInv

theorem witness : ∃ s : State, s.Inv ∧ s.hub.mem ≠ [] := ⟨{hub.mem := [(0, 1#8), (0x0FFF_FFFF, 2#8)]}, by unfold State.Inv; decide +kernel, by decide⟩

end EveryStepKeepsInv

namespace ClaimsOfAnotherCore

theorem witness :
    (∃ (k : Nat) (m : Master), k < 32 ∧ m ≠ .core k) ∧
    (∃ (k : Nat) (m : Master) (ms : List Master), k < 32 ∧ m ≠ .core k ∧ Master.core k ∉ ms) ∧
    (∃ (k : Nat) (m : Master) (ms : List Master), k < 32 ∧ m ≠ .core k ∧ Master.core k ∈ ms ∧ m ∈ ms) :=
  ⟨⟨31, .core 30, by decide +kernel⟩,
   ⟨0, .core 1, [.core 1, .vertik], by decide +kernel⟩,
   ⟨0, .core 1, [.core 0, .vertik, .core 1], by decide +kernel⟩⟩

end ClaimsOfAnotherCore

namespace CrankSumsAndDifferences

theorem witness :
    (∃ (s : State) (t : Nat) (k : Nat) (v : Nat) (m : CMode), (s.at t).Issues k (0x40 + modeCol m) v false) ∧
    (∃ (s : State) (t : Nat) (k : Nat) (v : Nat) (m : CMode), (s.at t).Issues k (0x48 + modeCol m) v false) ∧
    (∃ (s : State) (t : Nat) (k : Nat) (v : Nat) (m : CMode), (s.at t).Issues k (0x50 + modeCol m) v false) ∧
    (∃ (s : State) (t : Nat) (k : Nat) (v : Nat) (m : CMode), (s.at t).Issues k (0x58 + modeCol m) v false) ∧
    (∃ (s : State) (t : Nat) (k : Nat) (v : Nat) (m : CMode), (s.at t).Issues k (0x78 + modeCol m) v false) :=
  ⟨⟨core3 {a := 0x7FFFFFFF#32, x := 0x8000_0001#32, y := 0x1_0010#32, ps := 0x31#32, data := [(16, 5#8)]}, 7, 3, 8388607, .imm,
     by unfold State.Issues; decide +kernel⟩,
   ⟨core3 {a := 0x7FFFFFFF#32, x := 0x8000_0001#32, y := 0x1_0010#32, ps := 0x31#32, data := [(16, 5#8)]}, 7, 3, 8388607, .imm,
     by unfold State.Issues; decide +kernel⟩,
   ⟨core3 {a := 0x7FFFFFFF#32, x := 0x8000_0001#32, y := 0x1_0010#32, ps := 0x31#32, data := [(16, 5#8)]}, 7, 3, 8388607, .imm,
     by unfold State.Issues; decide +kernel⟩,
   ⟨core3 {a := 0x7FFFFFFF#32, x := 0x8000_0001#32, y := 0x1_0010#32, ps := 0x31#32, data := [(16, 5#8)]}, 7, 3, 8388607, .imm,
     by unfold State.Issues; decide +kernel⟩,
   ⟨core3 {a := 0x7FFFFFFF#32, x := 0x8000_0001#32, y := 0x1_0010#32, ps := 0x31#32, data := [(16, 5#8)]}, 7, 3, 8388607, .imm,
     by unfold State.Issues; decide +kernel⟩⟩

end CrankSumsAndDifferences

namespace CrankLogicAndMoves

theorem witness :
    (∃ (s : State) (t : Nat) (k : Nat) (v : Nat) (m : CMode), (s.at t).Issues k (0x60 + modeCol m) v false) ∧
    (∃ (s : State) (t : Nat) (k : Nat) (v : Nat) (m : CMode), (s.at t).Issues k (0x68 + modeCol m) v false) ∧
    (∃ (s : State) (t : Nat) (k : Nat) (v : Nat) (m : CMode), (s.at t).Issues k (0x70 + modeCol m) v false) ∧
    (∃ (s : State) (t : Nat) (k : Nat) (v : Nat), (s.at t).Issues k 0xE4 v false) ∧
    (∃ (s : State) (t : Nat) (k : Nat), (s.at t).Issues k 0xAF 0 false) ∧
    (∃ (s : State) (t : Nat) (k : Nat), (s.at t).Issues k 0xAE 0 false) ∧
    (∃ (s : State) (t : Nat) (k : Nat) (r : CReg), r ∈ [.a, .x, .y] ∧ (s.at t).Issues k (0xA0 + incCol r) 0 false) ∧
    (∃ (s : State) (t : Nat) (k : Nat) (r : CReg), r ∈ [.a, .x, .y] ∧ (s.at t).Issues k (0xA1 + incCol r) 0 false) ∧
    (∃ (s : State) (t : Nat) (k : Nat) (f : MovForm), (s.at t).Issues k (0xA0 + movCol f) 0 false) ∧
    (∃ (s : State) (t : Nat) (k : Nat) (v : Nat) (r : CReg), r ∈ [.a, .x, .y] ∧ (s.at t).Issues k (ldBase r + 6) v false) ∧
    (∃ (s : State) (t : Nat) (k : Nat) (v : Nat) (r : CReg), r ∈ [.x, .y] ∧ (s.at t).Issues k (if r = .y then 0xBC else 0xBB) v false) ∧
    (∃ (s : State) (t : Nat) (k : Nat) (v : Nat) (r : CReg), r ∈ [.x, .y, .sp] ∧
      (s.at t).Issues k (if r = .sp then 0xBF else if r = .y then 0xBE else 0xBD) v false) :=
  ⟨⟨core3 {a := 0x7FFFFFFF#32, x := 0x8000_0001#32, y := 0x1_0010#32, ps := 0x31#32, data := [(16, 5#8)]}, 7, 3, 8388607, .imm,
     by unfold State.Issues; decide +kernel⟩,
   ⟨core3 {a := 0x7FFFFFFF#32, x := 0x8000_0001#32, y := 0x1_0010#32, ps := 0x31#32, data := [(16, 5#8)]}, 7, 3, 8388607, .imm,
     by unfold State.Issues; decide +kernel⟩,
   ⟨core3 {a := 0x7FFFFFFF#32, x := 0x8000_0001#32, y := 0x1_0010#32, ps := 0x31#32, data := [(16, 5#8)]}, 7, 3, 8388607, .imm,
     by unfold State.Issues; decide +kernel⟩,
   ⟨core3 {a := 0x7FFFFFFF#32, x := 0x8000_0001#32, y := 0x1_0010#32, ps := 0x31#32, data := [(16, 5#8)]}, 7, 3, 8388607,
     by unfold State.Issues; decide +kernel⟩,
   ⟨core3 {a := 0x7FFFFFFF#32, x := 0x8000_0001#32, y := 0x1_0010#32, ps := 0x31#32, data := [(16, 5#8)]}, 7, 3,
     by unfold State.Issues; decide +kernel⟩,
   ⟨core3 {a := 0x7FFFFFFF#32, x := 0x8000_0001#32, y := 0x1_0010#32, ps := 0x31#32, data := [(16, 5#8)]}, 7, 3,
     by unfold State.Issues; decide +kernel⟩,
   ⟨core3 {a := 0x7FFFFFFF#32, x := 0x8000_0001#32, y := 0x1_0010#32, ps := 0x31#32, data := [(16, 5#8)]}, 7, 3, .a,
     by decide +kernel, by unfold State.Issues; decide +kernel⟩,
   ⟨core3 {a := 0x7FFFFFFF#32, x := 0x8000_0001#32, y := 0x1_0010#32, ps := 0x31#32, data := [(16, 5#8)]}, 7, 3, .a,
     by decide +kernel, by unfold State.Issues; decide +kernel⟩,
   ⟨core3 {a := 0x7FFFFFFF#32, x := 0x8000_0001#32, y := 0x1_0010#32, ps := 0x31#32, data := [(16, 5#8)]}, 7, 3, .xa,
     by unfold State.Issues; decide +kernel⟩,
   ⟨core3 {a := 0x7FFFFFFF#32, x := 0x8000_0001#32, y := 0x1_0010#32, ps := 0x31#32, data := [(16, 5#8)]}, 7, 3, 0, .a,
     by decide +kernel, by unfold State.Issues; decide +kernel⟩,
   ⟨core3 {a := 0x7FFFFFFF#32, x := 0x8000_0001#32, y := 0x1_0010#32, ps := 0x31#32, data := [(16, 5#8)]}, 7, 3, 0, .x,
     by decide +kernel, by unfold State.Issues; decide +kernel⟩,
   ⟨core3 {a := 0x7FFFFFFF#32, x := 0x8000_0001#32, y := 0x1_0010#32, ps := 0x31#32, data := [(16, 5#8)]}, 7, 3, 0, .x,
     by decide +kernel, by unfold State.Issues; decide +kernel⟩⟩

end CrankLogicAndMoves

namespace CrankShiftsAndProducts

theorem witness :
    (∃ (s : State) (t : Nat) (k : Nat) (v : Nat) (byX : Bool), (s.at t).Issues k (if byX then 0xB4 else 0xB0) v false) ∧
    (∃ (s : State) (t : Nat) (k : Nat) (v : Nat) (byX : Bool), (s.at t).Issues k (if byX then 0xB5 else 0xB1) v false) ∧
    (∃ (s : State) (t : Nat) (k : Nat) (v : Nat) (byX : Bool), (s.at t).Issues k (if byX then 0xB6 else 0xB2) v false) ∧
    (∃ (s : State) (t : Nat) (k : Nat) (v : Nat) (byX : Bool), (s.at t).Issues k (if byX then 0xB7 else 0xB3) v false) ∧
    (∃ (s : State) (t : Nat) (k : Nat), (s.at t).Issues k 0xB8 0 false) ∧
    (∃ (s : State) (t : Nat) (k : Nat), (s.at t).Issues k 0xB9 0 false) ∧
    (∃ (s : State) (t : Nat) (k : Nat), (s.at t).Issues k 0xBA 0 false) :=
  ⟨⟨core3 {a := 0x8000_0001#32, x := 0x8000_0001#32, ps := 0x31#32}, 0, 3, 0, true, by unfold State.Issues; decide +kernel⟩,
   ⟨core3 {a := 0x8000_0001#32, x := 0x8000_0001#32, ps := 0x31#32}, 0, 3, 0, true, by unfold State.Issues; decide +kernel⟩,
   ⟨core3 {a := 0x8000_0001#32, x := 0x8000_0001#32, ps := 0x31#32}, 0, 3, 0, true, by unfold State.Issues; decide +kernel⟩,
   ⟨core3 {a := 0x8000_0001#32, x := 0x8000_0001#32, ps := 0x31#32}, 0, 3, 0, true, by unfold State.Issues; decide +kernel⟩,
   ⟨core3 {a := 0x8000_0001#32, x := 0x8000_0001#32, ps := 0x31#32}, 0, 3, by unfold State.Issues; decide +kernel⟩,
   ⟨core3 {a := 0x8000_0001#32, x := 0x8000_0001#32, ps := 0x31#32}, 0, 3, by unfold State.Issues; decide +kernel⟩,
   ⟨core3 {a := 0x8000_0001#32, x := 0x8000_0001#32, ps := 0x31#32}, 0, 3, by unfold State.Issues; decide +kernel⟩⟩

end CrankShiftsAndProducts

namespace CrankFlagsAndControl

theorem witness :
    (∃ (s : State) (t : Nat) (k : Nat), (s.at t).Issues k 0x00 0 false) ∧
    (∃ (s : State) (t : Nat) (k : Nat), (s.at t).Issues k 0x01 0 false) ∧
    (∃ (s : State) (t : Nat) (k : Nat), (s.at t).Issues k 0x04 0 false) ∧
    (∃ (s : State) (t : Nat) (k : Nat), (s.at t).Issues k 0x05 0 false) ∧
    (∃ (s : State) (t : Nat) (k : Nat), (s.at t).Issues k 0x06 0 false) ∧
    (∃ (s : State) (t : Nat) (k : Nat), (s.at t).Issues k 0x07 0 false) ∧
    (∃ (s : State) (t : Nat) (k : Nat), (s.at t).Issues k 0x08 0 false) ∧
    (∃ (s : State) (t : Nat) (k : Nat), (s.at t).Issues k 0x09 0 false) ∧
    (∃ (s : State) (t : Nat) (k : Nat) (v : Nat) (q : Cond), (s.at t).Issues k (0xC0 + condCol q) v false) ∧
    (∃ (s : State) (t : Nat) (k : Nat) (v : Nat), (s.at t).Issues k 0xCF v false) ∧
    (∃ (s : State) (t : Nat) (k : Nat) (v : Nat) (byX : Bool), (s.at t).Issues k (if byX then 0xD2 else 0xD0) v false) ∧
    (∃ (s : State) (t : Nat) (k : Nat) (v : Nat), (s.at t).Issues k 0xE5 v false) ∧
    (∃ (s : State) (t : Nat) (k : Nat) (v : Nat), (s.at t).Issues k 0xE6 v false) :=
  ⟨⟨core3 {a := 0x7FFFFFFF#32, x := 0x8000_0001#32, y := 0x1_0010#32, ps := 0x31#32, data := [(16, 5#8)]}, 0, 3,
     by unfold State.Issues; decide +kernel⟩,
   ⟨core3 {a := 0x7FFFFFFF#32, x := 0x8000_0001#32, y := 0x1_0010#32, ps := 0x31#32, data := [(16, 5#8)]}, 0, 3,
     by unfold State.Issues; decide +kernel⟩,
   ⟨core3 {a := 0x7FFFFFFF#32, x := 0x8000_0001#32, y := 0x1_0010#32, ps := 0x31#32, data := [(16, 5#8)]}, 0, 3,
     by unfold State.Issues; decide +kernel⟩,
   ⟨core3 {a := 0x7FFFFFFF#32, x := 0x8000_0001#32, y := 0x1_0010#32, ps := 0x31#32, data := [(16, 5#8)]}, 0, 3,
     by unfold State.Issues; decide +kernel⟩,
   ⟨core3 {a := 0x7FFFFFFF#32, x := 0x8000_0001#32, y := 0x1_0010#32, ps := 0x31#32, data := [(16, 5#8)]}, 0, 3,
     by unfold State.Issues; decide +kernel⟩,
   ⟨core3 {a := 0x7FFFFFFF#32, x := 0x8000_0001#32, y := 0x1_0010#32, ps := 0x31#32, data := [(16, 5#8)]}, 0, 3,
     by unfold State.Issues; decide +kernel⟩,
   ⟨core3 {a := 0x7FFFFFFF#32, x := 0x8000_0001#32, y := 0x1_0010#32, ps := 0x31#32, data := [(16, 5#8)]}, 0, 3,
     by unfold State.Issues; decide +kernel⟩,
   ⟨core3 {a := 0x7FFFFFFF#32, x := 0x8000_0001#32, y := 0x1_0010#32, ps := 0x31#32, data := [(16, 5#8)]}, 0, 3,
     by unfold State.Issues; decide +kernel⟩,
   ⟨core3 {a := 0x7FFFFFFF#32, x := 0x8000_0001#32, y := 0x1_0010#32, ps := 0x31#32, data := [(16, 5#8)]}, 0, 3, 0, .al,
     by unfold State.Issues; decide +kernel⟩,
   ⟨core3 {a := 0x7FFFFFFF#32, x := 0x8000_0001#32, y := 0x1_0010#32, ps := 0x31#32, data := [(16, 5#8)]}, 0, 3, 0,
     by unfold State.Issues; decide +kernel⟩,
   ⟨core3 {a := 0x7FFFFFFF#32, x := 0x8000_0001#32, y := 0x1_0010#32, ps := 0x31#32, data := [(16, 5#8)]}, 0, 3, 0, true,
     by unfold State.Issues; decide +kernel⟩,
   ⟨core3 {a := 0x7FFFFFFF#32, x := 0x8000_0001#32, y := 0x1_0010#32, ps := 0x31#32, data := [(16, 5#8)]}, 0, 3, 0,
     by unfold State.Issues; decide +kernel⟩,
   ⟨core3 {a := 0x7FFFFFFF#32, x := 0x8000_0001#32, y := 0x1_0010#32, ps := 0x31#32, data := [(16, 5#8)]}, 0, 3, 0,
     by unfold State.Issues; decide +kernel⟩⟩

end CrankFlagsAndControl

namespace CrankCoprocessorSlots

theorem witness :
    (∃ (s : State) (t : Nat) (k : Nat) (v : Nat), let slot := fun i => bit ((s.at t).core k).slots i = true; slot 0 ∧
      (s.at t).Issues k 0xF0 (copOperand 0 v) false) ∧
    (∃ (s : State) (t : Nat) (k : Nat) (v : Nat), let slot := fun i => bit ((s.at t).core k).slots i = true; slot 0 ∧
      (s.at t).Issues k 0xF0 (copOperand 1 v) false) ∧
    (∃ (s : State) (t : Nat) (k : Nat) (v : Nat), let slot := fun i => bit ((s.at t).core k).slots i = true; slot 1 ∧
      (s.at t).Issues k 0xF3 (copOperand 0 v) false) ∧
    (∃ (s : State) (t : Nat) (k : Nat) (v : Nat), let slot := fun i => bit ((s.at t).core k).slots i = true; slot 1 ∧
      (s.at t).Issues k 0xF3 (copOperand 1 v) false) ∧
    (∃ (s : State) (t : Nat) (k : Nat) (v : Nat), let slot := fun i => bit ((s.at t).core k).slots i = true; slot 1 ∧
      (s.at t).Issues k 0xF3 (copOperand 2 v) false) ∧
    (∃ (s : State) (t : Nat) (k : Nat) (v : Nat), let slot := fun i => bit ((s.at t).core k).slots i = true; slot 1 ∧
      (s.at t).Issues k 0xF3 (copOperand 3 v) false) ∧
    (∃ (s : State) (t : Nat) (k : Nat) (v : Nat), let slot := fun i => bit ((s.at t).core k).slots i = true; slot 2 ∧
      (s.at t).Issues k 0xF6 (copOperand 0 v) false) ∧
    (∃ (s : State) (t : Nat) (k : Nat) (v : Nat), let slot := fun i => bit ((s.at t).core k).slots i = true; slot 2 ∧
      (s.at t).Issues k 0xF6 (copOperand 1 v) false) ∧
    (∃ (s : State) (t : Nat) (k : Nat) (v : Nat), let slot := fun i => bit ((s.at t).core k).slots i = true; (slot 2 ∧
      fieldFits v = true) ∧ (s.at t).Issues k 0xF6 (copOperand 2 v) false) ∧
    (∃ (s : State) (t : Nat) (k : Nat) (v : Nat), let slot := fun i => bit ((s.at t).core k).slots i = true; (slot 2 ∧
      fieldFits v = true) ∧ (s.at t).Issues k 0xF6 (copOperand 3 v) false) ∧
    (∃ (s : State) (t : Nat) (k : Nat) (v : Nat), let slot := fun i => bit ((s.at t).core k).slots i = true; (slot 2 ∧
      fieldFits v = true) ∧ (s.at t).Issues k 0xF6 (copOperand 4 v) false) ∧
    (∃ (s : State) (t : Nat) (k : Nat) (v : Nat), let slot := fun i => bit ((s.at t).core k).slots i = true; slot 2 ∧
      (s.at t).Issues k 0xF6 (copOperand 5 v) false) ∧
    (∃ (s : State) (t : Nat) (k : Nat) (v : Nat) (i : Nat), let slot := fun i => bit ((s.at t).core k).slots i = true;
      let listed := (({} : CopRegs).read (i % 4) v).isSome = true; (slot (i % 4) ∧ listed) ∧
      (s.at t).Issues k (0xF1 + 3 * (i % 4)) v false) ∧
    (∃ (s : State) (t : Nat) (k : Nat) (v : Nat) (i : Nat), let slot := fun i => bit ((s.at t).core k).slots i = true;
      let listed := (({} : CopRegs).read (i % 4) v).isSome = true; (slot (i % 4) ∧ listed) ∧
      (s.at t).Issues k (0xF2 + 3 * (i % 4)) v false) ∧
    (∃ (s : State) (t : Nat) (k : Nat) (v : Nat) (i : Nat), let slot := fun i => bit ((s.at t).core k).slots i = true; slot 3 ∧
      (s.at t).Issues k 0xF9 (copOperand 0 v) false) ∧
    (∃ (s : State) (t : Nat) (k : Nat) (v : Nat) (i : Nat), let slot := fun i => bit ((s.at t).core k).slots i = true; slot 3 ∧
      (s.at t).Issues k 0xF9 (copOperand 1 v) false) ∧
    (∃ (s : State) (t : Nat) (k : Nat), k < 32 ∧ (s.core k).mode = .waitUntil ∧ (s.at t).coreStopped k = false ∧
      (s.at t).boundaryTaken k = false ∧ (s.core k).cop.until64 ≤ max s.now t / 6 * 6) :=
  ⟨⟨core3 {a := 0x7FFFFFFF#32, x := 0x8000_0001#32, slots := 15, cop := { num := 0x8000_0000#32, den := 0xFFFF_FFFF#32 }}, 0, 3, 0,
     by decide +kernel, by unfold State.Issues; decide +kernel⟩,
   ⟨core3 {a := 0x7FFFFFFF#32, x := 0x8000_0001#32, slots := 15, cop := { num := 0x8000_0000#32, den := 0xFFFF_FFFF#32 }}, 0, 3, 0,
     by decide +kernel, by unfold State.Issues; decide +kernel⟩,
   ⟨core3 {a := 0x7FFFFFFF#32, x := 0x8000_0001#32, slots := 15, cop := { accLo := 0xFFFF_FFFF#32, accHi := 0xFFFF_FFFF#32, m1 := 0x8000_0000#32, m2 := 0x8000_0000#32 }},
     0, 3, 0, by decide +kernel, by unfold State.Issues; decide +kernel⟩,
   ⟨core3 {a := 0x7FFFFFFF#32, x := 0x8000_0001#32, slots := 15, cop := { accLo := 0xFFFF_FFFF#32, accHi := 0xFFFF_FFFF#32, m1 := 0x8000_0000#32, m2 := 0x8000_0000#32 }},
     0, 3, 0, by decide +kernel, by unfold State.Issues; decide +kernel⟩,
   ⟨core3 {a := 0x7FFFFFFF#32, x := 0x8000_0001#32, slots := 15, cop := { accLo := 0xFFFF_FFFF#32, accHi := 0xFFFF_FFFF#32, m1 := 0x8000_0000#32, m2 := 0x8000_0000#32 }},
     0, 3, 0, by decide +kernel, by unfold State.Issues; decide +kernel⟩,
   ⟨core3 {a := 0x7FFFFFFF#32, x := 0x8000_0001#32, slots := 15, cop := { accLo := 0xFFFF_FFFF#32, accHi := 0xFFFF_FFFF#32, m1 := 0x8000_0000#32, m2 := 0x8000_0000#32 }},
     0, 3, 0, by decide +kernel, by unfold State.Issues; decide +kernel⟩,
   ⟨core3 {a := 0x7FFFFFFF#32, x := 0x8000_0001#32, slots := 15, cop := { src := 0x00F3_1281#32, dst := 0xFFFF_FFFF#32 }}, 0, 3, 0,
     by decide +kernel, by unfold State.Issues; decide +kernel⟩,
   ⟨core3 {a := 0x7FFFFFFF#32, x := 0x8000_0001#32, slots := 15, cop := { src := 0x00F3_1281#32, dst := 0xFFFF_FFFF#32 }}, 0, 3, 0,
     by decide +kernel, by unfold State.Issues; decide +kernel⟩,
   ⟨core3 {a := 0x7FFFFFFF#32, x := 0x8000_0001#32, slots := 15, cop := { src := 0x00F3_1281#32, dst := 0xFFFF_FFFF#32 }}, 0, 3, 0,
     by decide +kernel, by unfold State.Issues; decide +kernel⟩,
   ⟨core3 {a := 0x7FFFFFFF#32, x := 0x8000_0001#32, slots := 15, cop := { src := 0x00F3_1281#32, dst := 0xFFFF_FFFF#32 }}, 0, 3, 0,
     by decide +kernel, by unfold State.Issues; decide +kernel⟩,
   ⟨core3 {a := 0x7FFFFFFF#32, x := 0x8000_0001#32, slots := 15, cop := { src := 0x00F3_1281#32, dst := 0xFFFF_FFFF#32 }}, 0, 3, 0,
     by decide +kernel, by unfold State.Issues; decide +kernel⟩,
   ⟨core3 {a := 0x7FFFFFFF#32, x := 0x8000_0001#32, slots := 15, cop := { src := 0x00F3_1281#32, dst := 0xFFFF_FFFF#32 }}, 0, 3, 0,
     by decide +kernel, by unfold State.Issues; decide +kernel⟩,
   ⟨core3 {a := 0x7FFFFFFF#32, x := 0x8000_0001#32, slots := 15, cop := {num := 5#32, rem := 9#32, accHi := 3#32, src := 4#32}}, 100, 3,
     0, 0, by decide +kernel, by unfold State.Issues; decide +kernel⟩,
   ⟨core3 {a := 0x7FFFFFFF#32, x := 0x8000_0001#32, slots := 15, cop := {num := 5#32, rem := 9#32, accHi := 3#32, src := 4#32}}, 100, 3,
     0, 0, by decide +kernel, by unfold State.Issues; decide +kernel⟩,
   ⟨core3 {a := 0x7FFFFFFF#32, x := 0x8000_0001#32, slots := 15, cop := { untilLo := 96#32 }}, 100, 3, 0, 0,
     by decide +kernel, by unfold State.Issues; decide +kernel⟩,
   ⟨core3 {a := 0x7FFFFFFF#32, x := 0x8000_0001#32, slots := 15, cop := { untilLo := 96#32 }}, 100, 3, 0, 0,
     by decide +kernel, by unfold State.Issues; decide +kernel⟩,
   ⟨core3 {mode := .waitUntil, cop := {untilLo := 96#32}}, 100, 3, by decide +kernel⟩⟩

end CrankCoprocessorSlots

namespace CrankMemoryAndLinks

theorem witness :
    (∃ (s : State) (t : Nat) (k : Nat) (v : Nat) (r : CReg), r ∈ [.a, .x, .y] ∧ (s.at t).Issues k (ldBase r) v false) ∧
    (∃ (s : State) (t : Nat) (k : Nat) (v : Nat) (m : CMode) (r : CReg), (r ∈ [.a, .x, .y] ∧ m ≠ .imm) ∧
      (s.at t).Issues k (ldBase r + modeCol m) v true) ∧
    (∃ (s : State) (t : Nat) (k : Nat) (v : Nat) (m : CMode), m ≠ .imm ∧ (s.at t).Issues k (0x80 + modeCol m) v true) ∧
    (∃ (s : State) (t : Nat) (k : Nat) (v : Nat) (m : CMode), m ≠ .imm ∧ (s.at t).Issues k (0x88 + modeCol m) v true) ∧
    (∃ (s : State) (t : Nat) (k : Nat) (v : Nat) (m : CMode) (r : CReg), (r ∈ [.a, .x, .y] ∧ m ≠ .imm) ∧
      (s.at t).Issues k (stBase r + modeCol m) v false) ∧
    (∃ (s : State) (t : Nat) (k : Nat) (v : Nat) (m : CMode), m ≠ .imm ∧ (s.at t).Issues k (0x90 + modeCol m) v false) ∧
    (∃ (s : State) (t : Nat) (k : Nat) (v : Nat) (m : CMode), m ≠ .imm ∧ (s.at t).Issues k (0x98 + modeCol m) v false) ∧
    (∃ (s : State) (t : Nat) (k : Nat) (r : CReg), r ∈ [.a, .x, .y, .ps] ∧ (s.at t).Issues k (pushOp r) 0 false) ∧
    (∃ (s : State) (t : Nat) (k : Nat) (r : CReg), r ∈ [.a, .x, .y, .ps] ∧ (s.at t).Issues k (pushOp r + 1) 0 true) ∧
    (∃ (s : State) (t : Nat) (k : Nat) (v : Nat) (byX : Bool), (s.at t).Issues k (if byX then 0xD3 else 0xD1) v false) ∧
    (∃ (s : State) (t : Nat) (k : Nat), (s.at t).Issues k 0xD4 0 false) ∧
    (∃ (s : State) (t : Nat) (k : Nat) (v : Nat) (y : Bool), let b := (s.at t).modCore k CoreS.next; let c := b.core k;
      let ea := c.linkEa y v; (ea % 4 = 0 ∧ linkTarget ea = true) ∧ (s.at t).Issues k (if y then 0xE1 else 0xE0) v true) ∧
    (∃ (s : State) (t : Nat) (k : Nat) (v : Nat) (y : Bool), let b := (s.at t).modCore k CoreS.next; let c := b.core k;
      let ea := c.linkEa y v; (ea % 4 = 0 ∧ linkTarget ea = true ∧ coreSpace ea = .data) ∧
      (s.at t).Issues k (if y then 0xE3 else 0xE2) v false) ∧
    (∃ (s : State) (t : Nat) (k : Nat) (v : Nat) (y : Bool) (off : Nat), let b := (s.at t).modCore k CoreS.next; let c := b.core k;
      let ea := c.linkEa y v; (ea % 4 = 0 ∧ linkTarget ea = true ∧ coreSpace ea = .scene off ∧ ((s.at t).drainAll k).link k ≠ some ea) ∧
      (s.at t).Issues k (if y then 0xE3 else 0xE2) v false) :=
  ⟨⟨core3 {a := 0xAABBCCDD#32, x := 0x1_0010#32, y := 0x1_0010#32, sp := 0x1_0010#32, load := none, data := [(16, 5#8),(17,6#8),(19,0x80#8)]} {hub.regions := [⟨0,0,0⟩]},
     6, 3, 16777200, .a, by decide +kernel, by unfold State.Issues; decide +kernel⟩,
   ⟨core3 {a := 0xAABBCCDD#32, x := 0x1_0010#32, y := 0x1_0010#32, sp := 0x1_0010#32, load := none, data := [(16, 5#8),(17,6#8),(19,0x80#8)]} {hub.regions := [⟨0,0,0⟩]},
     6, 3, 0, .x, .a, by decide +kernel, by unfold State.Issues; decide +kernel⟩,
   ⟨core3 {a := 0xAABBCCDD#32, x := 0x1_0010#32, y := 0x1_0010#32, sp := 0x1_0010#32, load := none, data := [(16, 5#8),(17,6#8),(19,0x80#8)]} {hub.regions := [⟨0,0,0⟩]},
     6, 3, 0, .x, by decide +kernel, by unfold State.Issues; decide +kernel⟩,
   ⟨core3 {a := 0xAABBCCDD#32, x := 0x1_0010#32, y := 0x1_0010#32, sp := 0x1_0010#32, load := none, data := [(16, 5#8),(17,6#8),(19,0x80#8)]} {hub.regions := [⟨0,0,0⟩]},
     6, 3, 0, .x, by decide +kernel, by unfold State.Issues; decide +kernel⟩,
   ⟨core3 {a := 0xAABBCCDD#32, x := 0x1_0010#32, y := 0x1_0010#32, sp := 0x1_0010#32, load := none, data := [(16, 5#8),(17,6#8),(19,0x80#8)]} {hub.regions := [⟨0,0,0⟩]},
     6, 3, 0, .x, .a, by decide +kernel, by unfold State.Issues; decide +kernel⟩,
   ⟨core3 {a := 0xAABBCCDD#32, x := 0x1_0010#32, y := 0x1_0010#32, sp := 0x1_0010#32, load := none, data := [(16, 5#8),(17,6#8),(19,0x80#8)]} {hub.regions := [⟨0,0,0⟩]},
     6, 3, 0, .x, by decide +kernel, by unfold State.Issues; decide +kernel⟩,
   ⟨core3 {a := 0xAABBCCDD#32, x := 0x1_0010#32, y := 0x1_0010#32, sp := 0x1_0010#32, load := none, data := [(16, 5#8),(17,6#8),(19,0x80#8)]} {hub.regions := [⟨0,0,0⟩]},
     6, 3, 0, .x, by decide +kernel, by unfold State.Issues; decide +kernel⟩,
   ⟨core3 {a := 0xAABBCCDD#32, x := 0x1_0010#32, y := 0x1_0010#32, sp := 0x1_0010#32, load := none, data := [(16, 5#8),(17,6#8),(19,0x80#8)]} {hub.regions := [⟨0,0,0⟩]},
     6, 3, .a, by decide +kernel, by unfold State.Issues; decide +kernel⟩,
   ⟨core3 {a := 0xAABBCCDD#32, x := 0x1_0010#32, y := 0x1_0010#32, sp := 0x1_0010#32, load := none, data := [(16, 5#8),(17,6#8),(19,0x80#8)]} {hub.regions := [⟨0,0,0⟩]},
     6, 3, .a, by decide +kernel, by unfold State.Issues; decide +kernel⟩,
   ⟨core3 {a := 0xAABBCCDD#32, x := 0x1_0010#32, y := 0x1_0010#32, sp := 0x1_0010#32, load := none, data := [(16, 5#8),(17,6#8),(19,0x80#8)]} {hub.regions := [⟨0,0,0⟩]},
     0, 3, 0, true, by unfold State.Issues; decide +kernel⟩,
   ⟨core3 {a := 0xAABBCCDD#32, x := 0x1_0010#32, y := 0x1_0010#32, sp := 0x1_0010#32, load := none, data := [(16, 5#8),(17,6#8),(19,0x80#8)]} {hub.regions := [⟨0,0,0⟩]},
     0, 3, by unfold State.Issues; decide +kernel⟩,
   ⟨core3 {a := 0xAABBCCDD#32, x := 0x1000_0010#32, y := 0x1_0010#32, load := none, data := [(16, 5#8)], queue := []} {hub.mem := [(16,7#8)], links := []},
     0, 3, 0, true, by decide +kernel, by unfold State.Issues; decide +kernel⟩,
   ⟨core3 {a := 0xAABBCCDD#32, x := 0x1000_0010#32, y := 0x1_0010#32, load := none, data := [(16, 5#8)], queue := []} {hub.mem := [(16,7#8)], links := []},
     0, 3, 0, true, by decide +kernel, by unfold State.Issues; decide +kernel⟩,
   ⟨core3 {a := 0xAABBCCDD#32, x := 0x1000_0010#32, y := 0x1_0010#32, load := none, data := [(16, 5#8)], queue := []} {hub.mem := [(16,7#8)], links := []},
     0, 3, 0, false, 16, by decide +kernel, by unfold State.Issues; decide +kernel⟩⟩

end CrankMemoryAndLinks

namespace CrankSystem

theorem witness :
    (∃ (s : State) (t : Nat) (k : Nat) (code : Nat), (s.at t).Issues k 0x02 code false) ∧
    (∃ (s : State) (t : Nat) (k : Nat), (s.core k).fb = true ∧ (s.at t).Issues k 0x03 0 false) ∧
    (∃ (s : State) (t : Nat) (k : Nat), (s.core k).fb = false ∧ (s.at t).Issues k 0x03 0 false) ∧
    (∃ (s : State) (t : Nat) (k : Nat), (s.at t).Issues k 0x0A 0 false) ∧
    (∃ (s : State) (t : Nat) (k : Nat), (s.at t).Issues k 0x0B 0 false) ∧
    (∃ (s : State) (t : Nat) (k : Nat), s.debugOpen = false ∧ (s.at t).Issues k 0x0C 0 false) ∧
    (∃ (s : State) (t : Nat) (k : Nat), (s.debugOpen = true ∧ s.haltReq k = none) ∧ (s.at t).Issues k 0x0C 0 false) :=
  ⟨⟨put [(F.DBG_SESSION.opened,
     0)] (core3 {a := 1#32, sp := 0x1_0010#32, fb := true, pc := 0x40#32, fret := 0x50#32, load := none, ps := 0x3F#32, vecTrap := 0x100#32, data := [(16, 0x71#8),(20,0x1F#8)], queue := [(64,[1#8,2#8])]} {links := [(2,some 4),(3,some 8)], dbg.comps := [(24, {control := 0x1C})]}),
     6, 3, 0x85, by unfold State.Issues; decide +kernel⟩,
   ⟨put [(F.DBG_SESSION.opened,
     0)] (core3 {a := 1#32, sp := 0x1_0010#32, fb := true, pc := 0x40#32, fret := 0x50#32, load := none, ps := 0x3F#32, vecTrap := 0x100#32, data := [(16, 0x71#8),(20,0x1F#8)], queue := [(64,[1#8,2#8])]} {links := [(2,some 4),(3,some 8)], dbg.comps := [(24, {control := 0x1C})]}),
     6, 3, by decide +kernel, by unfold State.Issues; decide +kernel⟩,
   ⟨put [(F.DBG_SESSION.opened,
     0)] (core3 {a := 1#32, sp := 0x1_0010#32, fb := false, pc := 0x40#32, fret := 0x50#32, load := none, ps := 0x3F#32, vecTrap := 0x100#32, data := [(16, 0x71#8),(20,0x1F#8)], queue := [(64,[1#8,2#8])]} {links := [(2,some 4),(3,some 8)], dbg.comps := [(24, {control := 0x1C})]}),
     6, 3, by decide +kernel, by unfold State.Issues; decide +kernel⟩,
   ⟨put [(F.DBG_SESSION.opened,
     0)] (core3 {a := 1#32, sp := 0x1_0010#32, fb := true, pc := 0x40#32, fret := 0x50#32, load := none, ps := 0x3F#32, vecTrap := 0x100#32, data := [(16, 0x71#8),(20,0x1F#8)], queue := [(64,[1#8,2#8])]} {links := [(2,some 4),(3,some 8)], dbg.comps := [(24, {control := 0x1C})]}),
     6, 3, by unfold State.Issues; decide +kernel⟩,
   ⟨put [(F.DBG_SESSION.opened,
     0)] (core3 {a := 1#32, sp := 0x1_0010#32, fb := true, pc := 0x40#32, fret := 0x50#32, load := none, ps := 0x3F#32, vecTrap := 0x100#32, data := [(16, 0x71#8),(20,0x1F#8)], queue := [(64,[1#8,2#8])]} {links := [(2,some 4),(3,some 8)], dbg.comps := [(24, {control := 0x1C})]}),
     6, 3, by unfold State.Issues; decide +kernel⟩,
   ⟨put [(F.DBG_SESSION.opened,
     0)] (core3 {a := 1#32, sp := 0x1_0010#32, fb := true, pc := 0x40#32, fret := 0x50#32, load := none, ps := 0x3F#32, vecTrap := 0x100#32, data := [(16, 0x71#8),(20,0x1F#8)], queue := [(64,[1#8,2#8])]} {links := [(2,some 4),(3,some 8)], dbg.comps := [(24, {control := 0x1C})]}),
     6, 3, by decide +kernel, by unfold State.Issues; decide +kernel⟩,
   ⟨put [(F.DBG_SESSION.opened,
     1)] (core3 {a := 1#32, sp := 0x1_0010#32, fb := true, pc := 0x40#32, fret := 0x50#32, load := none, ps := 0x3F#32, vecTrap := 0x100#32, data := [(16, 0x71#8),(20,0x1F#8)], queue := [(64,[1#8,2#8])]} {links := [(2,some 4),(3,some 8)], dbg.comps := [(24, {control := 0x1C})]}),
     6, 3, by decide +kernel, by unfold State.Issues; decide +kernel⟩⟩

end CrankSystem

namespace CrankEntriesAndTraps

theorem witness :
    (∃ (s : State) (k : Nat), let sp := (s.core k).sp - 8#32; sp.toNat % 4 = 0 ∧ 0x1_0000 ≤ sp.toNat ∧ sp.toNat + 8 ≤ 0x2_0000) ∧
    (∃ (s : State) (t : Nat) (k : Nat) (i : Nat), (s.at t).mayEnter k = true ∧ (s.at t).fastTakeable k = some i) ∧
    (∃ (s : State) (t : Nat) (k : Nat), (s.at t).mayEnter k = true ∧ (s.at t).fastTakeable k = none ∧ (s.at t).normalTakeable k = true) ∧
    (∃ (s : State) (t : Nat) (k : Nat) (w : Word), (s.at t).canIssue k = true ∧ (s.at t).pcMatch k = false ∧
      fetchTrap k (s.core k).pc = none ∧ illegalWord w = true ∧ decodeCrank k w = none) ∧
    (∃ (s : State) (t : Nat) (k : Nat) (v : Nat) (m : CMode) (r : CReg), let b := (s.at t).modCore k CoreS.next;
      let ea := (b.core k).ea m v; (r ∈ [.a, .x, .y] ∧ m ≠ .imm ∧ ea % 4 ≠ 0) ∧ (s.at t).Issues k (ldBase r + modeCol m) v true) ∧
    (∃ (s : State) (t : Nat) (k : Nat) (v : Nat) (m : CMode) (r : CReg), let b := (s.at t).modCore k CoreS.next;
      let ea := (b.core k).ea m v; (r ∈ [.a, .x, .y] ∧ m ≠ .imm ∧ ea % 4 ≠ 0) ∧ (s.at t).Issues k (stBase r + modeCol m) v false) ∧
    (∃ (s : State) (t : Nat) (k : Nat) (v : Nat), (s.core k).slots.testBit 0 = false ∧ (s.at t).Issues k 0xF0 (copOperand 0 v) false) ∧
    (∃ (s : State) (t : Nat) (k : Nat) (v : Nat) (op : Nat) (load : Bool), (s.at t).canIssue k = true ∧ (s.at t).pcMatch k = false ∧
      fetchTrap k (s.core k).pc = none ∧ (v &&& unusedMask op ≠ 0 ∨ load = true ∧ (s.core k).load ≠ none)) :=
  ⟨⟨core3 {sp := 0x1_0008#32, data := [(0,1#8),(8,2#8)]}, 3, by decide +kernel⟩,
   ⟨put [(F.INTC_SRC.enable 70,1),(F.INTC_SRC.pending 70,1),(F.INTC_SRC.priority 70,3),(F.INTC_SRC.core 70,3),(F.INTC_SRC.fast 70,1)] (core3 {ps := 0#32, pc := 0x40#32, vecFast := 0x80#32, vecNormal := 0x90#32, load := none, mode := .run} {links := [(3,some 8)]}),
     6, 3, 70, by decide +kernel⟩,
   ⟨put [(F.INTC_SRC.enable 70,1),(F.INTC_SRC.pending 70,1),(F.INTC_SRC.priority 70,3),(F.INTC_SRC.core 70,3),(F.INTC_SRC.fast 70,0)] (core3 {ps := 0#32, pc := 0x40#32, vecFast := 0x80#32, vecNormal := 0x90#32, load := none, mode := .run} {links := [(3,some 8)]}),
     6, 3, by decide +kernel⟩,
   ⟨core3 {x := 0x1_0011#32, pc := 0x40#32, load := none, vecTrap := 0x100#32}, 0, 3, 0x0D00_0000#32, by decide +kernel⟩,
   ⟨core3 {x := 0x1_0011#32, pc := 0x40#32, load := none, vecTrap := 0x100#32}, 0, 3, 0, .x, .a,
     by decide +kernel, by unfold State.Issues; decide +kernel⟩,
   ⟨core3 {x := 0x1_0011#32, pc := 0x40#32, load := none, vecTrap := 0x100#32}, 0, 3, 0, .x, .a,
     by decide +kernel, by unfold State.Issues; decide +kernel⟩,
   ⟨core3 {x := 0x1_0011#32, pc := 0x40#32, load := none, vecTrap := 0x100#32}, 0, 3, 0,
     by decide +kernel, by unfold State.Issues; decide +kernel⟩,
   ⟨core3 {x := 0x1_0011#32, pc := 0x40#32, load := none, vecTrap := 0x100#32}, 0, 3, 1, 1, false, by decide +kernel⟩⟩

end CrankEntriesAndTraps

namespace DebugTapAndRunControl

theorem witness :
    (∃ (s : State), s.debugOpen = true) ∧
    (∃ (s : State) (t : Nat), s.debugOpen = true ∧ usRoot 600_000_000 + s.dbg.lastOp ≤ max s.now t) ∧
    (∃ (s : State) (k : Nat) (r : HaltReq), s.haltReq k = some r ∧ k < 32 ∧ (s.core k).load = none ∧ s.coreHalted k = false) ∧
    (∃ (s : State) (t : Nat) (k : Nat), k < 32 ∧ s.coreHalted k = false ∧ (∃ p ∈ s.dbg.triggers, p.1 ≤ max s.now t ∧
      s.rd (F.DBG_CORE.groups k) &&& p.2 ≠ 0)) ∧
    (∃ (s : State) (k : Nat), s.debugOpen = true ∧ s.coreHalted (k % 32) = false ∧ s.haltReq (k % 32) = none) ∧
    (∃ (s : State) (k : Nat) (data : Nat), s.debugOpen = true ∧ s.coreHalted k = true ∧ data.testBit 4 = false) ∧
    (∃ (s : State) (k : Nat), s.debugOpen = true ∧ s.coreHalted k = true) :=
  ⟨⟨put [(F.DBG_SESSION.opened,1)] {dbg.comps := [(3,{control := 4})], dbg.haltReq := [(3,some {reason := 1})], dbg.triggers := [(0,1)], hub.mem := [(3,4#8)]},
     by decide +kernel⟩,
   ⟨put [(F.DBG_SESSION.opened,1)] {dbg.comps := [(3,{control := 4})], dbg.haltReq := [(3,some {reason := 1})], dbg.triggers := [(0,1)], hub.mem := [(3,4#8)]},
     4_000_000_000_000, by decide +kernel⟩,
   ⟨core3 {pc := 4#32} {dbg.haltReq := [(3,some {reason := 2, groups := 3, comparator := 7})], links := [(3, some 4)], vtk.sessions := [(4, {challenge := some [1#8]})]},
     3, {reason := 2, groups := 3, comparator := 7}, by decide +kernel⟩,
   ⟨put [(F.DBG_CORE.groups 31, 8)] {dbg.triggers := [(5,8),(101,1)]}, 100, 31, by decide +kernel⟩,
   ⟨put [(F.DBG_SESSION.opened,1)] {dbg.comps := [(3,{control := 4})], dbg.haltReq := [(3,some {reason := 1})], dbg.triggers := [(0,1)], hub.mem := [(3,4#8)]},
     0, by decide +kernel⟩,
   ⟨put [(F.DBG_HALTED.cores,
     9)] (put [(F.DBG_SESSION.opened,1)] (core3 {pc := 4#32} { dbg.haltReq := [(3,some {reason := 2, groups := 3})]})), 3, 15,
     by decide +kernel⟩,
   ⟨put [(F.DBG_HALTED.cores,
     9)] (put [(F.DBG_SESSION.opened,1)] (core3 {pc := 4#32} { dbg.haltReq := [(3,some {reason := 2, groups := 3})]})), 3,
     by decide +kernel⟩⟩

end DebugTapAndRunControl

namespace DebugAccess

theorem witness :
    (∃ (s : State) (a : Nat), s.debugOpen = true ∧ a / 16 % 4 ≠ 0) ∧
    (∃ (s : State) (a : Nat), s.debugOpen = true ∧ a / 16 % 4 = 0) ∧
    (∃ (s : State) (k : Nat) (a : Nat), s.debugOpen = true ∧ s.coreHalted k = true ∧ a % 4 = 0 ∧ a < 0x2_0000) ∧
    (∃ (s : State) (k : Nat) (a : Nat), let c := s.core k; s.debugOpen = true ∧ s.coreHalted k = true ∧ a % 4 = 0 ∧ a < 0x2_0000 ∧
      c.queue = []) ∧
    (∃ (s : State) (k : Nat), s.debugOpen = true ∧ s.coreHalted k = true) ∧
    (∃ (s : State) (k : Nat) (a : Nat) (w : Word), s.debugOpen = true ∧ s.coreHalted k = true ∧ (a < 4 ∨ 6 ≤ a ∧ a < 9 ∨ a = 4 ∧
      w &&& 3#32 = 0#32)) ∧
    (∃ (s : State) (k : Nat) (a : Nat), s.debugOpen = true ∧ s.coreHalted k = true ∧ (a = 5 ∨ a = 9)) ∧
    (∃ (s : State) (k : Nat) (a : Nat) (w : Word), s.debugOpen = true ∧ s.coreHalted k = true ∧ (10 ≤ a ∨ a = 4 ∧ w &&& 3#32 ≠ 0#32)) ∧
    (∃ (s : State) (k : Nat), s.debugOpen = true ∧ s.coreHalted k = false) :=
  ⟨⟨put [(F.DBG_HALTED.cores,
     8)] (put [(F.DBG_SESSION.opened,1)] (core3 {pc := 0x40#32, a := 1#32, x := 2#32, y := 3#32, af := 4#32, xf := 5#32, yf := 6#32, psf := 0x21#32, fb := true, data := [(4,9#8)], code := [(0x40,1#8)]} {})),
     16, by decide +kernel⟩,
   ⟨put [(F.DBG_HALTED.cores,
     8)] (put [(F.DBG_SESSION.opened,1)] (core3 {pc := 0x40#32, a := 1#32, x := 2#32, y := 3#32, af := 4#32, xf := 5#32, yf := 6#32, psf := 0x21#32, fb := true, data := [(4,9#8)], code := [(0x40,1#8)]} {})),
     0, by decide +kernel⟩,
   ⟨put [(F.DBG_HALTED.cores,
     8)] (put [(F.DBG_SESSION.opened,1)] (core3 {pc := 0x40#32, a := 1#32, x := 2#32, y := 3#32, af := 4#32, xf := 5#32, yf := 6#32, psf := 0x21#32, fb := true, data := [(4,9#8)], code := [(0x40,1#8)]} {})),
     3, 0, by decide +kernel⟩,
   ⟨put [(F.DBG_HALTED.cores,
     8)] (put [(F.DBG_SESSION.opened,1)] (core3 {pc := 0x40#32, a := 1#32, x := 2#32, y := 3#32, af := 4#32, xf := 5#32, yf := 6#32, psf := 0x21#32, fb := true, data := [(4,9#8)], code := [(0x40,1#8)]} {})),
     3, 0, by decide +kernel⟩,
   ⟨put [(F.DBG_HALTED.cores,
     8)] (put [(F.DBG_SESSION.opened,1)] (core3 {pc := 0x40#32, a := 1#32, x := 2#32, y := 3#32, af := 4#32, xf := 5#32, yf := 6#32, psf := 0x21#32, fb := true, data := [(4,9#8)], code := [(0x40,1#8)]} {})),
     3, by decide +kernel⟩,
   ⟨put [(F.DBG_HALTED.cores,
     8)] (put [(F.DBG_SESSION.opened,1)] (core3 {pc := 0x40#32, a := 1#32, x := 2#32, y := 3#32, af := 4#32, xf := 5#32, yf := 6#32, psf := 0x21#32, fb := true, data := [(4,9#8)], code := [(0x40,1#8)]} {})),
     3, 0, 0xFFFF_FFFC#32, by decide +kernel⟩,
   ⟨put [(F.DBG_HALTED.cores,
     8)] (put [(F.DBG_SESSION.opened,1)] (core3 {pc := 0x40#32, a := 1#32, x := 2#32, y := 3#32, af := 4#32, xf := 5#32, yf := 6#32, psf := 0x21#32, fb := true, data := [(4,9#8)], code := [(0x40,1#8)]} {})),
     3, 5, by decide +kernel⟩,
   ⟨put [(F.DBG_HALTED.cores,
     8)] (put [(F.DBG_SESSION.opened,1)] (core3 {pc := 0x40#32, a := 1#32, x := 2#32, y := 3#32, af := 4#32, xf := 5#32, yf := 6#32, psf := 0x21#32, fb := true, data := [(4,9#8)], code := [(0x40,1#8)]} {})),
     3, 10, 0xFFFF_FFFC#32, by decide +kernel⟩,
   ⟨put [(F.DBG_HALTED.cores,
     8)] (put [(F.DBG_SESSION.opened,1)] (core3 {pc := 0x40#32, a := 1#32, x := 2#32, y := 3#32, af := 4#32, xf := 5#32, yf := 6#32, psf := 0x21#32, fb := true, data := [(4,9#8)], code := [(0x40,1#8)]} {})),
     4, by decide +kernel⟩⟩

end DebugAccess

namespace RegisterWrites

def rr (a : Nat) : RegHit := match rimPlace a with | .reg r => r | _ => dummy

theorem witness :
    (∃ (s : State) (t : Nat) (a : Nat) (r : RegHit), let alone := (s.at t).rimCycle.writes.any (·.addr == a) = false; rimPlace a = .reg r ∧
      alone ∧ s.unitLoading a = true) ∧
    (∃ (s : State) (t : Nat) (a : Nat) (size : Nat) (r : RegHit), let bad := size ≠ 4 ∨ a % 4 ≠ 0;
      let alone := (s.at t).rimCycle.writes.any (·.addr == a) = false; rimPlace a = .reg r ∧ alone ∧ s.unitLoading a = false ∧ bad) ∧
    (∃ (s : State) (t : Nat) (a : Nat) (size : Nat) (r : RegHit), let bad := size ≠ 4 ∨ a % 4 ≠ 0;
      let alone := (s.at t).rimCycle.writes.any (·.addr == a) = false; rimPlace a = .reg r ∧ alone ∧ s.unitLoading a = false ∧ ¬ bad ∧
      r.writable = false) ∧
    (∃ (s : State) (t : Nat) (a : Nat) (size : Nat) (w : Word) (r : RegHit), let bad := size ≠ 4 ∨ a % 4 ≠ 0;
      let alone := (s.at t).rimCycle.writes.any (·.addr == a) = false; rimPlace a = .reg r ∧ alone ∧ s.unitLoading a = false ∧ ¬ bad ∧
      r.writable = true ∧ r.spec.wide = false ∧ writesReserved r.spec.id r.i1 w = true) ∧
    (∃ (s : State) (t : Nat) (a : Nat) (size : Nat) (r : RegHit), let bad := size ≠ 4 ∨ a % 4 ≠ 0;
      let alone := (s.at t).rimCycle.writes.any (·.addr == a) = false; rimPlace a = .reg r ∧ alone ∧ s.unitLoading a = false ∧ ¬ bad ∧
      r.writable = true ∧ r.spec.wide = true ∧ r.high = false) ∧
    (∃ (s : State) (t : Nat) (a : Nat) (size : Nat) (r : RegHit), let bad := size ≠ 4 ∨ a % 4 ≠ 0;
      let alone := (s.at t).rimCycle.writes.any (·.addr == a) = false; rimPlace a = .reg r ∧ alone ∧ s.unitLoading a = false ∧ ¬ bad ∧
      r.writable = true ∧ r.spec.wide = true ∧ r.high = true ∧ r.spec.id.acts = false) ∧
    (∃ (s : State) (t : Nat) (a : Nat) (size : Nat) (w : Word) (m : Master) (r : RegHit), let bad := size ≠ 4 ∨ a % 4 ≠ 0;
      let alone := (s.at t).rimCycle.writes.any (·.addr == a) = false;
      let plain := alone ∧ s.unitLoading a = false ∧ ¬ bad ∧ r.writable = true ∧ r.spec.wide = false ∧ writesReserved r.spec.id r.i1 w = false; rimPlace a = .reg r ∧
      plain ∧ r.spec.id.acts = false ∧ (m = .vertik ∨ hostBlocked r.spec.fields (s.reg r.addr) w = false)) ∧
    (∃ (s : State) (t : Nat) (a : Nat) (size : Nat) (w : Word) (m : Master) (r : RegHit), let bad := size ≠ 4 ∨ a % 4 ≠ 0;
      let alone := (s.at t).rimCycle.writes.any (·.addr == a) = false;
      let plain := alone ∧ s.unitLoading a = false ∧ ¬ bad ∧ r.writable = true ∧ r.spec.wide = false ∧ writesReserved r.spec.id r.i1 w = false; rimPlace a = .reg r ∧
      plain ∧ r.spec.id.acts = false ∧ m ≠ .vertik ∧ hostBlocked r.spec.fields (s.reg r.addr) w = true) ∧
    (∃ (s : State) (a : Nat) (size : Nat) (off : Nat) (base : Nat), let bad := size ≠ 4 ∨ a % 4 ≠ 0; rimPlace a = .hole base off ∧
      s.unitLoading a = false ∧ bad) ∧
    (∃ (s : State) (a : Nat) (size : Nat) (off : Nat) (base : Nat), let bad := size ≠ 4 ∨ a % 4 ≠ 0; rimPlace a = .hole base off ∧
      s.unitLoading a = false ∧ ¬ bad) ∧
    (∃ (a : Nat), rimPlace a = .noUnit) ∧
    (∃ (a : Nat), rimPlace a = .outside) ∧
    (∃ (a : Nat) (size : Nat) (h : Nat) (off : Nat), let bad := size ≠ 4 ∨ a % 4 ≠ 0; rimPlace a = .array h off ∧ bad) ∧
    (∃ (a : Nat) (size : Nat) (h : Nat) (off : Nat), let bad := size ≠ 4 ∨ a % 4 ≠ 0; rimPlace a = .array h off ∧ ¬ bad ∧
      arrayMapped off = false) ∧
    (∃ (s : State) (a : Nat) (size : Nat) (h : Nat) (off : Nat), let bad := size ≠ 4 ∨ a % 4 ≠ 0; rimPlace a = .array h off ∧ ¬ bad ∧
      arrayMapped off = true ∧ s.inWall h off = true) ∧
    (∃ (s : State) (t : Nat) (a : Nat) (size : Nat) (h : Nat) (off : Nat), let bad := size ≠ 4 ∨ a % 4 ≠ 0; rimPlace a = .array h off ∧
      ¬ bad ∧ arrayMapped off = true ∧ s.inWall h off = false ∧ (mget (fun _ => none) (s.at t).was.edges (arrayAddr h off) = none)) ∧
    (∃ (s : State) (t : Nat) (a : Nat) (size : Nat) (v : Word) (w : Word) (r : RegHit), let bad := size ≠ 4 ∨ a % 4 ≠ 0;
      let alone := (s.at t).rimCycle.writes.any (·.addr == a) = false;
      let plain := alone ∧ s.unitLoading a = false ∧ ¬ bad ∧ r.writable = true ∧ r.spec.wide = false ∧ writesReserved r.spec.id r.i1 w = false; rimPlace a = .reg r ∧
      plain ∧ r.spec.id.acts = false ∧ (∀ f ∈ r.spec.fields, f.host = false) ∧ writesReserved r.spec.id r.i1 v = false ∧ size = 4) :=
  ⟨⟨{gs.loading := [⟨5,0⟩]}, 6, 0x4035_4000, rr 0x4035_4000, by decide +kernel⟩,
   ⟨{}, 6, 1077805104, 2, rr 1077805104, by decide +kernel⟩,
   ⟨{}, 6, 1077805104, 4, rr 1077805104, by decide +kernel⟩,
   ⟨putR [(R.HUB_CTRL, 0xFFFF_FFFF#32)] {}, 6, R.HUB_CTRL, 4, 0xFFFF_FFFF#32, rr (R.HUB_CTRL), by decide +kernel⟩,
   ⟨putR [(R.INTC_WAKE_FIELD, 0xFFFF_FFFF#32)] {}, 6, R.INTC_WAKE_FIELD, 4, rr (R.INTC_WAKE_FIELD), by decide +kernel⟩,
   ⟨putR [(R.INTC_WAKE_FIELD + 4, 0xFFFF_FFFF#32)] {}, 6, R.INTC_WAKE_FIELD + 4, 4, rr (R.INTC_WAKE_FIELD + 4), by decide +kernel⟩,
   ⟨putR [(R.HUB_CTRL, 0xFFFF_FFFF#32)] {}, 6, R.HUB_CTRL, 4, 0#32, .vertik, rr (R.HUB_CTRL), by decide +kernel⟩,
   ⟨putR [(R.KICK_NEXT_START, 0xFFFF_FFFF#32)] {}, 6, R.KICK_NEXT_START, 4, 0#32, .core 3, rr (R.KICK_NEXT_START), by decide +kernel⟩,
   ⟨{}, 0x4035_0999, 4, 0x999, 0x4035_0000, by decide +kernel⟩,
   ⟨{}, 0x4035_0998, 4, 0x998, 0x4035_0000, by decide +kernel⟩,
   ⟨0x40FF_0998, by decide +kernel⟩,
   ⟨0x3FFF_0998, by decide +kernel⟩,
   ⟨0x4102_1002, 4, 1, 4098, by decide +kernel⟩,
   ⟨0x4103_1000, 4, 1, 69632, by decide +kernel⟩,
   ⟨put [(F.SPR_CTRL.wall_en 1, 1),(F.SPR_WALL.wall_last 1, 1023)] {}, 0x4103_8000, 4, 1, 98304, by decide +kernel⟩,
   ⟨{}, 6, 0x4102_1000, 4, 1, 4096, by decide +kernel⟩,
   ⟨putR [(R.HUB_CTRL, 0xFFFF_FFFF#32)] {}, 6, R.HUB_CTRL, 4, 0x1234_5678#32, 0#32, rr (R.HUB_CTRL), by decide +kernel⟩⟩

end RegisterWrites

namespace ReadsThatClear

theorem witness :
    ∃ (ms : List Master), ms ≠ [] :=
  ⟨[.core 3, .vertik], by decide +kernel⟩

end ReadsThatClear

namespace ReadsThatRestart

theorem witness :
    (∃ (s : State) (t : Nat) (i : Nat) (ms : List Master), let quiet := fun (a : Nat) => (s.at t).rimCycle.writes.all (fun w => w.addr != a && w.addr != a + 4) = true; ms ≠ [] ∧
      quiet (R.HUB_HEAD_MARGIN (i % 24))) ∧
    (∃ (s : State) (t : Nat) (i : Nat) (ms : List Master), let quiet := fun (a : Nat) => (s.at t).rimCycle.writes.all (fun w => w.addr != a && w.addr != a + 4) = true; ms ≠ [] ∧
      quiet (R.BELL_BUS (i % 128))) ∧
    (∃ (s : State) (t : Nat) (i : Nat) (ms : List Master) (m : Master) (w : RimWrite) (x : Nat), ms ≠ [] ∧
      (s.at t).rimCycle.writes = [w] ∧ w.addr = R.BELL_BUS (i % 128) ∧ w.master ≠ m ∧ (s.at t).rimCycle.shown = [(R.BELL_BUS (i % 128),
      x)]) ∧
    (∃ (s : State) (t : Nat) (ms : List Master), let quiet := fun (a : Nat) => (s.at t).rimCycle.writes.all (fun w => w.addr != a && w.addr != a + 4) = true; ms ≠ [] ∧
      s.records.length < 128 ∧ quiet R.CHAIN_QUEUE_PEAK) ∧
    (∃ (s : State) (t : Nat) (ms : List Master), let quiet := fun (a : Nat) => (s.at t).rimCycle.writes.all (fun w => w.addr != a && w.addr != a + 4) = true; ms ≠ [] ∧
      quiet R.DER_QUEUE_PEAK) ∧
    (∃ (s : State) (t : Nat) (i : Nat) (ms : List Master), let quiet := fun (a : Nat) => (s.at t).rimCycle.writes.all (fun w => w.addr != a && w.addr != a + 4) = true; ms ≠ [] ∧
      (s.head (i % 24)).cadQueue.length ≤ 8 ∧ quiet (R.CAD_BAD (i % 24))) ∧
    (∃ (s : State) (t : Nat) (ms : List Master), let quiet := fun (a : Nat) => (s.at t).rimCycle.writes.all (fun w => w.addr != a && w.addr != a + 4) = true; ms ≠ [] ∧
      quiet R.CPR_TEMP_MAX) ∧
    (∃ (s : State) (t : Nat) (i : Nat) (ms : List Master) (e : Nat × Bool) (q : List (Nat × Bool)), let quiet := fun (a : Nat) => (s.at t).rimCycle.writes.all (fun w => w.addr != a && w.addr != a + 4) = true; ms ≠ [] ∧
      (mget (fun _ => []) s.field.caps (i % 64) = e :: q) ∧ q.length < 16 ∧ quiet (R.FL_CAP_POP (i % 64))) ∧
    (∃ (s : State) (t : Nat) (i : Nat) (ms : List Master), let quiet := fun (a : Nat) => (s.at t).rimCycle.writes.all (fun w => w.addr != a && w.addr != a + 4) = true; ms ≠ [] ∧
      (mget (fun _ => []) s.field.caps (i % 64) = []) ∧ quiet (R.FL_CAP_POP (i % 64))) ∧
    (∃ (i : Nat) (ms : List Master), ms ≠ [] ∧ i < 32) :=
  ⟨⟨{}, 6000, 5, [.core 1,.vertik], by decide +kernel⟩,
   ⟨{}, 6000, 5, [.core 1,.vertik], by decide +kernel⟩,
   ⟨{now := 6000, cycle := {number := 750, writes := [⟨.vertik,R.BELL_BUS 5, 7#32,4⟩], shown := [(R.BELL_BUS 5,77)]}}, 6000, 5,
     [.core 3], .core 3, ⟨.vertik,R.BELL_BUS 5, 7#32,4⟩, 77, by decide +kernel⟩,
   ⟨{}, 6000, [.core 1,.vertik], by decide +kernel⟩,
   ⟨{}, 6000, [.core 1,.vertik], by decide +kernel⟩,
   ⟨{}, 6000, 5, [.core 1,.vertik], by decide +kernel⟩,
   ⟨{}, 6000, [.core 1,.vertik], by decide +kernel⟩,
   ⟨put [(F.BELL_BUS.min_gain 5, 3),(F.DER_STATUS.queue_depth,7),(F.CAD_BAD.count 5,
     9)] {field.caps := [(5, [(10000,true),(20000,false)])]}, 6000, 5, [.core 1,.vertik], (10000,true), [(20000,false)],
     by decide +kernel⟩,
   ⟨{}, 6000, 5, [.core 1,.vertik], by decide +kernel⟩,
   ⟨5, [.core 1,.vertik], by decide +kernel⟩⟩

end ReadsThatRestart

namespace HubAccesses

theorem witness :
    (∃ (s : State) (k : Nat) (bank : Nat) (a : HubAccess), (s.at (8 * k)).slotFor bank a.req = false) ∧
    (∃ (s : State) (k : Nat) (bank : Nat) (a : HubAccess), let mine := hubInLine a bank = true ∧ a.req < 72 ∧ max s.now (8 * k) / 8 = k ∧ (s.at (8 * k)).slotFor bank a.req = true; mine ∧
      24 ≤ a.req) ∧
    (∃ (s : State) (k : Nat) (bank : Nat) (a : HubAccess) (bs : List Byte), let mine := hubInLine a bank = true ∧ a.req < 72 ∧ max s.now (8 * k) / 8 = k ∧ (s.at (8 * k)).slotFor bank a.req = true; (mine ∧
      24 ≤ a.req ∧ a.data = some bs ∧ s.admits a.req a.off = true ∧ (∀ i, i < bs.length → s.ingestOwned (a.off + i) = false)) ∧
      s.Clean a.off bs.length) ∧
    (∃ (s : State) (k : Nat) (bank : Nat) (a : HubAccess) (bs : List Byte), let mine := hubInLine a bank = true ∧ a.req < 72 ∧ max s.now (8 * k) / 8 = k ∧ (s.at (8 * k)).slotFor bank a.req = true; mine ∧
      24 ≤ a.req ∧ a.data = some bs ∧ s.admits a.req a.off = false) ∧
    (∃ (s : State) (k : Nat) (bank : Nat) (a : HubAccess), let mine := hubInLine a bank = true ∧ a.req < 72 ∧ max s.now (8 * k) / 8 = k ∧ (s.at (8 * k)).slotFor bank a.req = true; (mine ∧
      24 ≤ a.req ∧ a.data = none) ∧ s.Clean a.off a.len) ∧
    (∃ (s : State) (k : Nat) (bank : Nat) (a : HubAccess), let mine := hubInLine a bank = true ∧ a.req < 72 ∧ max s.now (8 * k) / 8 = k ∧ (s.at (8 * k)).slotFor bank a.req = true; mine ∧
      24 ≤ a.req ∧ a.data = none ∧ a.off % 8 = 0 ∧ a.len = 8 ∧ popCount 72 (s.flips (a.off / 8)).toNat = 1) ∧
    (∃ (s : State) (k : Nat) (bank : Nat) (a : HubAccess), let mine := hubInLine a bank = true ∧ a.req < 72 ∧ max s.now (8 * k) / 8 = k ∧ (s.at (8 * k)).slotFor bank a.req = true; mine ∧
      24 ≤ a.req ∧ a.data = none ∧ a.off % 8 = 0 ∧ a.len = 8 ∧ popCount 72 (s.flips (a.off / 8)).toNat = 2) ∧
    (∃ (s : State) (k : Nat) (bank : Nat) (a : HubAccess) (j : LineJob) (w : Waiting), let mine := hubInLine a bank = true ∧ a.req < 72 ∧ max s.now (8 * k) / 8 = k ∧ (s.at (8 * k)).slotFor bank a.req = true; (mine ∧
      a.req < 24 ∧ a.data = none ∧ (s.head a.req).lines = [j] ∧ j.waiting = [w] ∧ w.req.off = a.off ∧ a.off % 64 = 0) ∧ s.Clean a.off 64) ∧
    (∃ (s : State) (t : Nat) (bs : List Byte) (n : Nat) (q : List (Nat × List Byte)) (off : Nat), ((s.core n).queue = (off, bs) :: q ∧
      (bs.length = 1 ∨ bs.length = 2 ∨ bs.length = 4) ∧ off % bs.length = 0 ∧ (s.at t).slotFor (bankOf off) (24 + n) = true ∧
      s.admits (24 + n) off = true ∧ (∀ i, i < bs.length → s.ingestOwned (off + i) = false)) ∧ s.Clean off bs.length) :=
  ⟨⟨{}, 517, 1, ⟨30,1048642,0,some [1#8,2#8]⟩, by decide +kernel⟩,
   ⟨{   hub.sched := [(256+5,30)], hub.mem := [(0x100040,9#8),(0x100043,7#8)]}, 517, 1, ⟨30,1048642,0,some [1#8,2#8]⟩,
     by decide +kernel⟩,
   ⟨{ hub.regions := [⟨0,0x1000_0000,0xFFFF⟩],  hub.sched := [(256+5,30)], hub.mem := [(0x100040,9#8),(0x100043,7#8)]}, 517, 1,
     ⟨30,1048642,0,some [1#8,2#8]⟩, [1#8,2#8], by decide +kernel, clean_of (by decide +kernel)⟩,
   ⟨{   hub.sched := [(256+5,30)], hub.mem := [(0x100040,9#8),(0x100043,7#8)]}, 517, 1, ⟨30,1048642,0,some [1#8,2#8]⟩, [1#8,2#8],
     by decide +kernel⟩,
   ⟨{   hub.sched := [(256+5,30)], hub.mem := [(0x100040,9#8),(0x100043,7#8)]}, 517, 1, ⟨30,1048640,16,none⟩,
     by decide +kernel, clean_of (by decide +kernel)⟩,
   ⟨{  hub.flips := [(0x20008, 1#72)], hub.sched := [(256+5,30)], hub.mem := [(0x100040,9#8),(0x100043,7#8)]}, 517, 1,
     ⟨30,1048640,8,none⟩, by decide +kernel⟩,
   ⟨{  hub.flips := [(0x20008, 3#72)], hub.sched := [(256+5,30)], hub.mem := [(0x100040,9#8),(0x100043,7#8)]}, 517, 1,
     ⟨30,1048640,8,none⟩, by decide +kernel⟩,
   ⟨{ hub.sched := [(256+5,3)], hub.mem := [(0x100040,9#8),(0x100043,7#8)], heads := [(3,{lines := [{head := 3, frame := 0, y := 4, waiting := [⟨⟨.ring, 0x100040⟩,5⟩]}]})]},
     517, 1, ⟨3,0x100040,64,none⟩, {head := 3, frame := 0, y := 4, waiting := [⟨⟨.ring, 0x100040⟩,5⟩]}, ⟨⟨.ring,0x100040⟩,5⟩,
     by decide +kernel, clean_of (by decide +kernel)⟩,
   ⟨core3 {queue := [(0x100040,[1#8]),(64,[1#8])]} {hub.sched := [(256+5,27)], hub.regions := [⟨0,0x1000_0000,0xFFFF⟩], hub.mem := [(0x100042,9#8)]},
     4136, [1#8], 3, [(64,[1#8])], 0x100040, by decide +kernel, clean_of (by decide +kernel)⟩⟩

end HubAccesses

namespace HubMaintenance

theorem witness :
    (∃ (s : State) (t : Nat) (bank : Nat), bank < 32 ∧ (s.at t).maintSlot bank = true ∧ s.parkedPower = false ∧
      s.hasWriteBack bank = false ∧ s.hasCopy bank = false) ∧
    (∃ (s : State) (t : Nat) (bank : Nat) (p : Nat × Nat), bank < 32 ∧ (s.at t).maintSlot bank = true ∧
      (s.hub.writeBacks.find? (fun q => wordBank q.1 == bank) = some p)) ∧
    (∃ (s : State) (t : Nat) (bank : Nat) (p : Nat × Nat), bank < 32 ∧ (s.at t).maintSlot bank = true ∧ s.hasWriteBack bank = false ∧
      s.hasCopy bank = false ∧ (s.hub.rereads.find? (fun q => wordBank q.1 == bank) = some p)) ∧
    (∃ (s : State) (t : Nat) (bank : Nat) (sp : Spare), bank < 32 ∧ (s.at t).maintSlot bank = true ∧ s.hasWriteBack bank = false ∧
      s.hub.copying.find? (·.bank == bank) = some sp) ∧
    (∃ (s : State) (t : Nat) (bank : Nat) (sp : Spare), bank < 32 ∧ (s.at t).maintSlot bank = true ∧
      s.hub.filled.find? (·.bank == bank) = some sp) :=
  ⟨⟨{hub.flips := [(lineWord 3 0 + 2, 1#72),(lineWord 3 0 + 3, 3#72)]}, 2048, 3, by decide +kernel⟩,
   ⟨put [(F.HUB_CTRL.repair_auto,1)] {hub.writeBacks := [(lineWord 2 0,1),(lineWord 3 0,4)], hub.rereads := [(lineWord 3 0,4)], hub.flips := [(lineWord 3 0, 16#72)], hub.copying := [⟨2,false,0⟩,⟨3,false,0⟩], hub.filled := [⟨3,false,0⟩], hub.hard := [(lineWord 3 0,4),(lineWord 2 0,4)]},
     2048, 3, (lineWord 3 0, 4), by decide +kernel⟩,
   ⟨{hub.rereads := [(lineWord 3 0,4)]}, 2048, 3, (lineWord 3 0, 4), by decide +kernel⟩,
   ⟨put [(F.HUB_CTRL.repair_auto,0)] {hub.rereads := [(lineWord 3 0,4)], hub.flips := [(lineWord 3 0, 16#72)], hub.copying := [⟨2,false,0⟩,⟨3,false,0⟩], hub.filled := [⟨3,false,0⟩], hub.hard := [(lineWord 3 0,4),(lineWord 2 0,4)]},
     2048, 3, ⟨3,false,0⟩, by decide +kernel⟩,
   ⟨put [(F.HUB_CTRL.repair_auto,1)] {hub.writeBacks := [(lineWord 2 0,1),(lineWord 3 0,4)], hub.rereads := [(lineWord 3 0,4)], hub.flips := [(lineWord 3 0, 16#72)], hub.copying := [⟨2,false,0⟩,⟨3,false,0⟩], hub.filled := [⟨3,false,0⟩], hub.hard := [(lineWord 3 0,4),(lineWord 2 0,4)]},
     2048, 3, ⟨3,false,0⟩, by decide +kernel⟩⟩

end HubMaintenance

namespace GroupsetStagingAndCheck

def gst (n : Nat) (s : State := {}) : State := s.setGsState n

theorem witness :
    (∃ (s : State) (n : Nat), s.gsBusy = false ∧ 0 < n ∧ n < stageWords) ∧
    (∃ (s : State), s.gsBusy = false) ∧
    (∃ (s : State) (n : Nat), (s.gsBusy = true ∨ stageWords ≤ n)) ∧
    (∃ (s : State), let ptr := s.rd F.GS_STAGE_PTR.word; s.gsBusy = false ∧ ptr < stageWords) ∧
    (∃ (s : State), s.gsBusy = true) ∧
    (∃ (s : State), s.gs.staged = true ∧ (s.gsState = 1 ∨ s.gsState = 3)) ∧
    (∃ (s : State), s.gsState ≠ 0 ∧ s.gs.rollback = false ∧ s.gsState = 5 ∧ s.gs.swapped = []) ∧
    (∃ (s : State), s.gsState ≠ 0 ∧ s.gs.rollback = false ∧ s.gsState ≠ 5) ∧
    (∃ (s : State), s.gsState = 5 ∧ (s.gs.swapped ≠ [] ∨ s.gs.rollback = true)) ∧
    (∃ (s : State) (frame : Nat), let own := s.rd F.PEL_STATUS.state ≠ 2; own ∧ s.isPrimary = false ∧ s.locked = false ∧
      (s.gsState = 3 ∨ s.gsState = 4) ∧ s.gs.chipTf ≠ 0 ∧ frame < 2 ^ 64) ∧
    (∃ (s : State) (frame : Nat), let own := s.rd F.PEL_STATUS.state ≠ 2; own ∧ s.isPrimary = false ∧ s.locked = false ∧ s.gsState = 1 ∧
      s.gs.staged = true ∧ frame < 2 ^ 64) ∧
    (∃ (s : State), let own := s.rd F.PEL_STATUS.state ≠ 2; own ∧ s.isPrimary = false ∧ s.locked = false ∧ s.gsState = 5) ∧
    (∃ (s : State), let own := s.rd F.PEL_STATUS.state ≠ 2; own ∧ s.isPrimary = true) ∧
    (∃ (s : State), let own := s.rd F.PEL_STATUS.state ≠ 2; ¬ own ∧ s.gsState ≠ 1 ∧ s.rd F.PEL_STATUS.role = 2) ∧
    (∃ (s : State), let own := s.rd F.PEL_STATUS.state ≠ 2; ¬ own ∧ s.gsState ≠ 1 ∧ s.rd F.PEL_STATUS.role ≠ 2 ∧ s.isShadow = false) ∧
    (∃ (s : State), s.gsState = 2) :=
  ⟨⟨{gs.staging := [(5,7#32)]}, 1572863, by decide +kernel⟩,
   ⟨{gs.staging := [(5,7#32)]}, by decide +kernel⟩,
   ⟨{}, 1572864, by decide +kernel⟩,
   ⟨{gs.staging := [(5,7#32)]}, by decide +kernel⟩,
   ⟨gst 5, by decide +kernel⟩,
   ⟨gst 1 {gs.staged := true}, by decide +kernel⟩,
   ⟨gst 5, by decide +kernel⟩,
   ⟨gst 3 {gs.staged := true}, by decide +kernel⟩,
   ⟨gst 5 {gs.staged := true, gs.swapped := [⟨1,0⟩]}, by decide +kernel⟩,
   ⟨gst 3 {gs.staged := true, gs.chipTf := 99}, 18446744073709551615, by decide +kernel⟩,
   ⟨gst 1 {gs.staged := true, gs.chipTf := 99}, 7, by decide +kernel⟩,
   ⟨gst 5, by decide +kernel⟩,
   ⟨put [(F.TANDEM_STATUS.state,3),(F.TANDEM_STATUS.role,1)] {}, by decide +kernel⟩,
   ⟨put [(F.PEL_STATUS.state,2),(F.PEL_STATUS.role,2)] {}, by decide +kernel⟩,
   ⟨gst 3 (put [(F.PEL_STATUS.state,2),(F.PEL_STATUS.role,1)] {}), by decide +kernel⟩,
   ⟨gst 2, by decide +kernel⟩⟩

end GroupsetStagingAndCheck

namespace GroupsetSwaps

def img (secs : List GsSec) : SMap Word := storeOf ([0,0,0,secs.length] ++ List.replicate 60 0 ++ packBody secs)
def gs5 (secs : List GsSec) (todo : List UnitName) (s : State := {}) : State := (put [(F.GS_STATUS.state,
  5)] { s with gs.staging := img secs, gs.toSwap := todo })
def secI : GsSec := sec 5 0 false (recW 1 (R.INTC_SRC 64 - 0x40350000) [0xFFFF_FFFF, 1])
def secS : GsSec := sec 2 0 false (recW 5 3 [0, 0x10000, 0x3FF, 0])
def secC : GsSec := sec 1 0 false (regsW 0x40000000 [(R.CHAIN_CTRL, 1), (0x40000088, 16800000), (0x4000008C, 3), (R.GS_MODE_SUMMARY,
  0xFFFF_FFFF)])
def sec3 : GsSec := sec 3 2 false (recW 3 0 (List.replicate 16 5) ++ regsW 0x40120000 (headRegs 2))
def sec4 : GsSec := sec 4 3 false (recW 6 0 [0x100] ++ recW 2 0 [7])
def sec8 : GsSec := sec 8 3 false []
def sec9 : GsSec := sec 9 0 false []
def sec10 : GsSec := sec 10 0 false []

theorem witness :
    (∃ (s : State) (t : Nat) (type : Nat) (n : Nat), let turn := (s.at t).swapTurn ⟨type, n⟩ = true ∧ (s.at t).atomicPoint ⟨type, n⟩ = true; ¬ turn) ∧
    (∃ (s : State) (t : Nat) (type : Nat) (n : Nat) (g : GsSec), let turn := (s.at t).swapTurn ⟨type, n⟩ = true ∧ (s.at t).atomicPoint ⟨type, n⟩ = true;
      let plain := type = 5 ∨ type = 6 ∨ type = 10 ∧ s.derOn = false ∨ type = 11 ∧ g.absent = false; turn ∧
      secOf s.nextSections type n = some g ∧ plain) ∧
    (∃ (s : State) (t : Nat) (type : Nat) (n : Nat) (g : GsSec), let turn := (s.at t).swapTurn ⟨type, n⟩ = true ∧ (s.at t).atomicPoint ⟨type, n⟩ = true;
      let more := s.gs.toSwap.erase ⟨type, n⟩ ≠ []; turn ∧ secOf s.nextSections 10 n = some g ∧ type = 10 ∧ s.derOn = true ∧ more) ∧
    (∃ (s : State) (t : Nat) (type : Nat) (n : Nat) (g : GsSec), let turn := (s.at t).swapTurn ⟨type, n⟩ = true ∧ (s.at t).atomicPoint ⟨type, n⟩ = true;
      let more := s.gs.toSwap.erase ⟨type, n⟩ ≠ []; turn ∧ secOf s.nextSections 11 n = some g ∧ type = 11 ∧ g.absent = true ∧ more) ∧
    (∃ (s : State) (t : Nat) (type : Nat) (n : Nat) (g : GsSec), let turn := (s.at t).swapTurn ⟨type, n⟩ = true ∧ (s.at t).atomicPoint ⟨type, n⟩ = true;
      let more := s.gs.toSwap.erase ⟨type, n⟩ ≠ []; turn ∧ secOf s.nextSections 1 n = some g ∧ type = 1 ∧ more ∧ s.gs.rollback = false) ∧
    (∃ (s : State) (t : Nat) (type : Nat) (n : Nat) (g : GsSec), let turn := (s.at t).swapTurn ⟨type, n⟩ = true ∧ (s.at t).atomicPoint ⟨type, n⟩ = true; turn ∧
      secOf s.nextSections 2 n = some g ∧ type = 2 ∧ (s.at t).hubMaySwap = true) ∧
    (∃ (s : State) (t : Nat) (type : Nat) (n : Nat) (g : GsSec), let turn := (s.at t).swapTurn ⟨type, n⟩ = true ∧ (s.at t).atomicPoint ⟨type, n⟩ = true; turn ∧
      secOf s.nextSections 2 n = some g ∧ type = 2 ∧ (s.at t).hubMaySwap = false) ∧
    (∃ (s : State) (t : Nat) (type : Nat) (n : Nat) (g : GsSec), let turn := (s.at t).swapTurn ⟨type, n⟩ = true ∧ (s.at t).atomicPoint ⟨type, n⟩ = true; turn ∧
      secOf s.nextSections 3 n = some g ∧ type = 3 ∧ ((s.headSwap n).inSwap = true ∨ s.headState n = 0) ∧ ⟨3, n⟩ ∉ s.gs.loading) ∧
    (∃ (s : State) (t : Nat) (type : Nat) (n : Nat) (g : GsSec), let turn := (s.at t).swapTurn ⟨type, n⟩ = true ∧ (s.at t).atomicPoint ⟨type, n⟩ = true; turn ∧
      secOf s.nextSections 4 n = some g ∧ type = 4 ∧ s.coreParked n = true ∧ ⟨4, n⟩ ∉ s.gs.loading) ∧
    (∃ (s : State) (t : Nat) (type : Nat) (n : Nat) (g : GsSec), let turn := (s.at t).swapTurn ⟨type, n⟩ = true ∧ (s.at t).atomicPoint ⟨type, n⟩ = true; turn ∧
      secOf s.nextSections 8 n = some g ∧ type = 8 ∧ n < 8 ∧ s.on (F.DMA_STATUS.busy n) = true) ∧
    (∃ (s : State) (t : Nat) (type : Nat) (n : Nat) (g : GsSec), let turn := (s.at t).swapTurn ⟨type, n⟩ = true ∧ (s.at t).atomicPoint ⟨type, n⟩ = true;
      let more := s.gs.toSwap.erase ⟨type, n⟩ ≠ []; turn ∧ secOf s.nextSections 8 n = some g ∧ type = 8 ∧ n < 8 ∧
      s.on (F.DMA_STATUS.busy n) = false ∧ more ∧ s.gs.rollback = false) ∧
    (∃ (s : State) (t : Nat) (type : Nat) (n : Nat) (g : GsSec), let turn := (s.at t).swapTurn ⟨type, n⟩ = true ∧ (s.at t).atomicPoint ⟨type, n⟩ = true;
      let more := s.gs.toSwap.erase ⟨type, n⟩ ≠ []; turn ∧ secOf s.nextSections type n = some g ∧ (type = 7 ∨ type = 9) ∧ more ∧
      s.gs.rollback = false) ∧
    (∃ (s : State) (h : Nat) (g : GsSec), h < 24 ∧ ⟨3, h⟩ ∈ s.gs.loading ∧ secOf s.nextSections 3 h = some g) ∧
    (∃ (s : State) (h : Nat), ⟨3, h⟩ ∉ s.gs.loading) ∧
    (∃ (s : State) (k : Nat), bit s.gs.parkDue k = true ∧ (s.atBoundary k = true ∨ s.corePresent k = false)) ∧
    (∃ (s : State) (k : Nat), bit s.gs.parkDue k = true ∧ s.atBoundary k = false ∧ s.corePresent k = true) ∧
    (∃ (s : State) (k : Nat) (g : GsSec), k < 32 ∧ ⟨4, k⟩ ∈ s.gs.loading ∧ secOf s.nextSections 4 k = some g ∧ g.absent = false) :=
  ⟨⟨gs5 [secI] [⟨1,0⟩, ⟨5,0⟩], 8, 5, 0, by decide +kernel⟩,
   ⟨gs5 [secI] [⟨5,0⟩,⟨2,0⟩], 8, 5, 0, secI, by decide +kernel⟩,
   ⟨put [(F.DER_CTRL.enable,1)] (gs5 [sec10] [⟨2,0⟩,⟨10,0⟩] {der.queue := [{point := 5}]}), 6, 10, 0, sec10, by decide +kernel⟩,
   ⟨put [(F.ETH_STATUS.link_up 1,1)] (gs5 [⟨11,1,true,7,[]⟩] [⟨2,0⟩,⟨11,1⟩]), 6, 11, 1, ⟨11,1,true,7,[]⟩, by decide +kernel⟩,
   ⟨gs5 [secC] [⟨1,0⟩,⟨2,0⟩], 6, 1, 0, secC, by decide +kernel⟩,
   ⟨{gs5 [secS] [⟨2,0⟩,⟨3,0⟩] with gs.whole := true}, 2048, 2, 0, secS, by decide +kernel⟩,
   ⟨{put [(F.TX_STATUS.state 0, 1)] (gs5 [secS] [⟨2,0⟩,⟨3,0⟩]) with gs.whole := true}, 2048, 2, 0, secS, by decide +kernel⟩,
   ⟨gs5 [sec3] [⟨2,0⟩,⟨3,2⟩], 6, 3, 2, sec3, by decide +kernel⟩,
   ⟨gs5 [sec4] [⟨2,0⟩,⟨4,3⟩] {gs.parked := 8}, 6, 4, 3, sec4, by decide +kernel⟩,
   ⟨put [(F.DMA_STATUS.busy 3, 1)] (gs5 [sec8] [⟨2,0⟩,⟨8,3⟩]), 6, 8, 3, sec8, by decide +kernel⟩,
   ⟨put [(F.DMA_STATUS.swap_pending 3, 1)] (gs5 [sec8] [⟨2,0⟩,⟨8,3⟩]), 6, 8, 3, sec8, by decide +kernel⟩,
   ⟨gs5 [sec9] [⟨2,0⟩,⟨9,0⟩] {field.toggle := 1, der.lines := 1}, 594, 9, 0, sec9, by decide +kernel⟩,
   ⟨gs5 [sec3] [⟨2,0⟩,⟨3,2⟩] {gs.loading := [⟨4,2⟩,⟨3,2⟩]}, 2, sec3, by decide +kernel⟩,
   ⟨gs5 [secI] [⟨1,0⟩, ⟨5,0⟩], 0, by decide +kernel⟩,
   ⟨{gs.parkDue := 8}, 3, by decide +kernel⟩,
   ⟨core3 {load := some ⟨.a, 5#32⟩} {gs.parkDue := 8}, 3, by decide +kernel⟩,
   ⟨gs5 [sec4] [⟨2,0⟩,⟨4,3⟩] {gs.loading := [⟨4,3⟩], gs.parked := 8, cores := [(3,{queue := [(4,[1#8])]})], links := [(3,some 4)]}, 3,
     sec4, by decide +kernel⟩⟩

end GroupsetSwaps

namespace IngestInputs

def M0 : List (Nat × List Byte) := [(0, subE 2 0x1000 1 5), (0x1000, leafE 2 1 9 2 ++ leafE 2 2 9 13), (0x80000, svE 0)]
def S0 : State := put [(F.ING_CTRL.enable, 1), (F.ING_PLACE.points_base, 0x20), (F.ING_RX_GOOSE.count,
  0xFFFFFFFF)] {hub.mem := memOf M0, hub.regions := [⟨0,0x1000_0000,0xFFFF⟩]}
def fg (s : State) : Option (Nat × List Byte × Bool) × State := (((s).at 6).archiveInput 0 (nsOf 6) gFrame.raw).findGoose 0 gFrame 0 4096
def fs (s : State) (a : SvAsdu) : Option (Nat × List Byte × Bool) × State := (((s).at 6).archiveInput 0 (nsOf 6) a.raw).findSv 0 a 0 64

theorem witness :
    (∃ (s : State) (s2 : State) (s3 : State) (t : Nat) (port : Nat) (n : Nat) (g : Goose) (e : List Byte) (m : MemRead), let now := max s.now t;
      let idle := s.ing.queue = [] ∧ s.ing.writes = [] ∧ s.on F.ING_STATUS.init_busy = false ∧ s.unitsHeld = false ∧ s.derOn = false;
      let es := (List.range (leAt e 16 1)).map (mapEntry m.bytes); idle ∧ s.isPrimary = false ∧ s.locked = false ∧
      s.on F.ING_CTRL.enable = true ∧ ((s.at t).archiveInput port (nsOf now) g.raw).findGoose port g 0 4096 = (some (n, e, false), s2) ∧
      gooseOutside g = false ∧ s2.memRead 66 (leAt e 20 4) (8 * leAt e 16 1) = (m, s3) ∧ m.bad = [] ∧ es.any MapEntry.bad = false ∧
      g.confRev = leAt e 12 4 ∧ g.entries = leAt e 16 1 ∧ g.leaves.length = leAt e 16 1 ∧ g.ndsCom = false ∧
      ((es.zip g.leaves).any (fun p => (p.1.ltype, p.1.size) != leafCode p.2) = false) ∧ g.security = false ∧ g.test = false ∧
      g.stNum ≠ leAt e 88 4) ∧
    (∃ (s : State) (s2 : State) (t : Nat) (port : Nat) (v : Nat) (a : SvAsdu) (e : List Byte), let now := max s.now t;
      let idle := s.ing.queue = [] ∧ s.ing.writes = [] ∧ s.on F.ING_STATUS.init_busy = false ∧ s.unitsHeld = false ∧ s.derOn = false; idle ∧
      s.isPrimary = false ∧ s.locked = false ∧ s.on F.ING_CTRL.enable = true ∧
      ((s.at t).archiveInput port (nsOf now) a.raw).findSv port a 0 64 = (some (v, e, false), s2) ∧ a.malformed = false ∧
      a.values.length = 8 ∧ a.qualities.length = 8 ∧ a.smpCnt < svPerSecond (leAt e 10 2) ∧ a.confRev = leAt e 12 4 ∧ a.security = false ∧
      a.test = false ∧ leAt e 80 1 = 0) ∧
    (∃ (s : State), s.isPrimary = true) ∧
    (∃ (s : State), s.locked = true ∧ s.isPrimary = false) ∧
    (∃ (s : State), s.isPrimary = false ∧ s.locked = false ∧ s.on F.ING_STATUS.init_busy = false ∧ 512 ≤ s.ing.queue.length) ∧
    (∃ (s : State) (t : Nat) (k : Nat), let now := max s.now t; (k < 4096 ∧ leAt (s.memBytes (s.gooseOff k) 128) 104 1 = 1 ∧
      leAt (s.memBytes (s.gooseOff k) 128) 96 8 < nsOf s.now ∧ s.unitsHeld = true ∧ s.ing.queue.length < 512) ∧
      s.Clean (s.gooseOff k) 128) ∧
    (∃ (s : State) (t : Nat) (v : Nat), let now := max s.now t; (v < 64 ∧ leAt (s.memBytes (s.svOff v) 128) 80 1 = 1 ∧
      leAt (s.memBytes (s.svOff v) 128) 72 8 + leAt (s.memBytes (s.svOff v) 128) 50 2 * 1000000 ≤ nsOf now ∧ s.unitsHeld = true ∧
      s.ing.queue.length < 512) ∧ s.Clean (s.svOff v) 128) ∧
    (∃ (s : State), s.on F.ING_STATUS.init_busy = true ∧ s.unitsHeld = true) :=
  ⟨⟨S0, (fg S0).2, ((fg S0).2.memRead 66 0x1000 16).2, 6, 0, 0, gFrame, subE 2 0x1000 1 5, ((fg S0).2.memRead 66 0x1000 16).1,
     by decide +kernel⟩,
   ⟨S0, (fs S0 aFrame).2, 6, 0, 0, aFrame, svE 0, by decide +kernel⟩,
   ⟨put [(F.TANDEM_STATUS.state,0),(F.TANDEM_STATUS.role,1)] {}, by decide +kernel⟩,
   ⟨put [(F.TANDEM_STATUS.state,3),(F.TANDEM_STATUS.role,0)] {}, by decide +kernel⟩,
   ⟨{S0 with ing.queue := List.replicate 512 (.supervision 3 5 [])}, by decide +kernel⟩,
   ⟨{S0 with clock.stopped := true, now := 6000}, 6, 0, by decide +kernel, clean_of (by decide +kernel)⟩,
   ⟨put [(F.GS_STATUS.state,5)] {hub.mem := memOf [(0x80000, svE 1)], clock.stopped := true}, 6000000000, 0,
     by decide +kernel, clean_of (by decide +kernel)⟩,
   ⟨{put [(F.ING_STATUS.init_busy,1)] {} with clock.stopped := true}, by decide +kernel⟩⟩

end IngestInputs

namespace PointWrites

def rec0 (frozen : Bool) (src : Nat) : PointRec := { value := 7, type := 3, quality := 5, source := src, frozen := frozen, count := 65535, arrival := 9 }
def P (l : List (Nat × List Byte)) (s : State := {}) : State := put [(F.ING_PLACE.points_base,
  0x20)] {s with hub.mem := memOf l, hub.regions := [⟨0,0x1000_0000,0xFFFF⟩]}

theorem witness :
    (∃ (s : State) (p : Nat) (u : PtUpd), let off := s.pointOff p; let old := PointRec.ofBytes (s.memBytes off 32); (off % 32 = 0 ∧
      s.ing.answer = none ∧ (old.frozen && u.fromSource) = false ∧ (u.ownCheck && old.subscribed && !old.frozen) = false ∧
      s.admits 66 off = true) ∧ s.Clean off 32) ∧
    (∃ (s : State) (p : Nat) (u : PtUpd), let off := s.pointOff p; let old := PointRec.ofBytes (s.memBytes off 32); (off % 32 = 0 ∧
      s.ing.answer = none ∧ (old.frozen && u.fromSource) = false ∧ (u.ownCheck && old.subscribed && !old.frozen) = false ∧
      s.admits 66 off = true ∧ s.derOn = false) ∧ s.Clean off 32) ∧
    (∃ (s : State) (p : Nat) (u : PtUpd), let off := s.pointOff p; let old := PointRec.ofBytes (s.memBytes off 32);
      let new := old.update u; let quality := u.forced || old.qualityChange new;
      let changed := old.valueChange new = true ∨ quality = true; (off % 32 = 0 ∧ s.ing.answer = none ∧
      (old.frozen && u.fromSource) = false ∧ (u.ownCheck && old.subscribed && !old.frozen) = false ∧ s.admits 66 off = true ∧
      s.derOn = true ∧ changed) ∧ s.Clean off 32) ∧
    (∃ (s : State) (p : Nat) (u : PtUpd), let off := s.pointOff p; let old := PointRec.ofBytes (s.memBytes off 32);
      let new := old.update u; let quality := u.forced || old.qualityChange new;
      let changed := old.valueChange new = true ∨ quality = true; (off % 32 = 0 ∧ s.ing.answer = none ∧
      (old.frozen && u.fromSource) = false ∧ (u.ownCheck && old.subscribed && !old.frozen) = false ∧ s.admits 66 off = true ∧
      s.derOn = true ∧ ¬ changed) ∧ s.Clean off 32 ∧ s.Clean (s.trigOff p) 4 ∧ (∀ r, s.Clean (s.ruleOff r) 4)) ∧
    (∃ (s : State) (p : Nat) (u : PtUpd), let off := s.pointOff p; let old := PointRec.ofBytes (s.memBytes off 32); (off % 32 = 0 ∧
      s.ing.answer = none ∧ (old.frozen && u.fromSource) = true) ∧ s.Clean off 32) ∧
    (∃ (s : State) (p : Nat) (u : PtUpd), let off := s.pointOff p; let old := PointRec.ofBytes (s.memBytes off 32); (off % 32 = 0 ∧
      s.ing.answer = none ∧ old.frozen = false ∧ (u.ownCheck && old.subscribed) = true) ∧ s.Clean off 32) :=
  ⟨⟨P [(0x200120, (rec0 false 0xFFFF).toBytes)], 9, { value := some (3, 8), quality := some 5 },
     by decide +kernel, clean_of (by decide +kernel)⟩,
   ⟨P [(0x200120, (rec0 false 0xFFFF).toBytes)], 9, { value := some (3, 8), quality := some 5 },
     by decide +kernel, clean_of (by decide +kernel)⟩,
   ⟨put [(F.DER_CTRL.enable,1),(F.ING_POINT_WRITES.count, 0xFFFFFFFF)] (P [(0x200120, (rec0 false 0xFFFF).toBytes)]), 9,
     { value := some (3, 8), quality := some 9 }, by decide +kernel, clean_of (by decide +kernel)⟩,
   ⟨put [(F.DER_CTRL.enable,1),(F.ING_POINT_WRITES.count, 0xFFFFFFFF),(F.DER_PLACE.trig_base, 0x300),(F.DER_PLACE.rules_base,
     0x400)] (P [(0x200000+32*1048575, (rec0 false 0xFFFF).toBytes),(0x3000000+4*1048575, natLe 4 (1 * 2^25 + 9)), (0x4000120,
     natLe 4 0x90000000)]), 1048575, { value := some (3, 7), quality := some 5 },
     by decide +kernel, clean_of (by decide +kernel), clean_of (by decide +kernel), fun _ => clean_of (by decide +kernel)⟩,
   ⟨put [(F.ING_DISCARD.count 7, 65535)] (P [(0x200120, (rec0 true 5).toBytes)]), 9, { value := some (3, 8) },
     by decide +kernel, clean_of (by decide +kernel)⟩,
   ⟨P [(0x200120, (rec0 false 0x103F).toBytes)], 9, { value := some (3, 8), ownCheck := true, fromSource := false },
     by decide +kernel, clean_of (by decide +kernel)⟩⟩

end PointWrites

namespace DerailleurQueue

def ruleW (ctrl cst tgt a b c f : Nat) : List Byte := natLe 4 ctrl ++ natLe 8 cst ++ natLe 4 tgt ++ natLe 4 a ++ natLe 4 b ++ natLe 4 c ++ natLe 4 f
def R1 : List Byte := ruleW (2^31 + 2^30 + 1*2^24 + 4*2^16) 7 5 1 0 0 0
def R2 : List Byte := ruleW (2^31 + 2^30 + 9*2^24 + 4*2^16) 7 5 1 0 0 0
def dS (e : DerEntry) (q : List DerEntry) (rule : List Byte) : State := put [(F.DER_CTRL.enable,1),(F.DER_PLACE.rules_base,2),(F.ING_PLACE.points_base,1)] {der.queue := e :: q, hub.mem := memOf [(0x2_0000 + 32*3, rule)]}
def pr : PointRec := { value := 7, type := 3, count := 5, arrival := 100 }
def e0 (rs : List Nat) : DerEntry := { point := 9, copy := some pr, valueChange := true, chain := some (3 :: rs) }

theorem witness :
    (∃ (s : State) (r : Nat) (rs : List Nat) (e : DerEntry) (q : List DerEntry) (c : PointRec), let rule := Rule.ofBytes (s.memBytes (s.ruleOff r) 32); (s.unitsHeld = false ∧
      s.derOn = true ∧ s.der.queue = e :: q ∧ e.chain = some (r :: rs) ∧ rs ≠ [] ∧ e.copy = some c ∧ rule.fires e = true ∧
      rule.valid s.forerunner c = true ∧ rule.action ≠ 0) ∧ s.Clean (s.ruleOff r) 32) ∧
    (∃ (s : State) (r : Nat) (rs : List Nat) (e : DerEntry) (q : List DerEntry) (c : PointRec), let rule := Rule.ofBytes (s.memBytes (s.ruleOff r) 32); (s.unitsHeld = false ∧
      s.derOn = true ∧ s.der.queue = e :: q ∧ e.chain = some (r :: rs) ∧ rs ≠ [] ∧ e.copy = some c ∧ rule.fires e = false) ∧
      s.Clean (s.ruleOff r) 32) ∧
    (∃ (s : State) (r : Nat) (rs : List Nat) (e : DerEntry) (q : List DerEntry) (c : PointRec), let rule := Rule.ofBytes (s.memBytes (s.ruleOff r) 32); (s.unitsHeld = false ∧
      s.derOn = true ∧ s.der.queue = e :: q ∧ e.chain = some (r :: rs) ∧ rs ≠ [] ∧ e.copy = some c ∧ rule.fires e = true ∧
      rule.valid s.forerunner c = false) ∧ s.Clean (s.ruleOff r) 32) ∧
    (∃ (s : State) (r : Nat) (rs : List Nat) (e : DerEntry) (q : List DerEntry), (s.unitsHeld = false ∧ s.derOn = true ∧
      s.der.queue = e :: q ∧ e.chain = some (r :: rs) ∧ rs = [] ∧ s.ing.heldSince = none ∧ s.der.holding = [] ∧ s.der.reevalNext = none ∧
      q.length < 4096) ∧ s.Clean (s.ruleOff r) 32) ∧
    (∃ (s : State) (p : Nat), (s.derOn = true ∧ s.der.queue.length < 4096) ∧ (s.der.queue = [] → s.Clean (s.pointOff p) 32)) ∧
    (∃ (s : State), s.derOn = false) ∧
    (∃ (s : State), (s.derOn = true ∧ s.on F.DER_STATUS.reeval_busy = false ∧ s.der.queue.length < 4096) ∧ (s.der.queue = [] →
      s.Clean (s.pointOff 0) 32)) ∧
    (∃ (s : State), s.ing.writes = [] ∧ s.ing.queue = []) :=
  ⟨⟨dS (e0 [4]) [] R1, 3, [4], e0 [4], [], pr, by decide +kernel, clean_of (by decide +kernel)⟩,
   ⟨dS {e0 [4] with valueChange := false} [{point := 2, reeval := true}] R1, 3, [4], {e0 [4] with valueChange := false},
     [{point := 2, reeval := true}], pr, by decide +kernel, clean_of (by decide +kernel)⟩,
   ⟨put [(F.DER_SKIPPED.encoding, 65535)] (dS (e0 [4]) [] R2), 3, [4], e0 [4], [], pr, by decide +kernel, clean_of (by decide +kernel)⟩,
   ⟨dS (e0 []) [{point := 2, reeval := true}] R1, 3, [], e0 [], [{point := 2, reeval := true}],
     by decide +kernel, clean_of (by decide +kernel)⟩,
   ⟨put [(F.DER_CTRL.enable,1)] {der.queue := List.replicate 4095 {point := 5}}, 5,
     by decide +kernel, fun _ => clean_of (by decide +kernel)⟩,
   ⟨{}, by decide +kernel⟩,
   ⟨put [(F.DER_CTRL.enable,1)] {hub.mem := memOf [(0,[1#8,2#8])]}, by decide +kernel, fun _ => clean_of (by decide +kernel)⟩,
   ⟨put [(F.DER_CTRL.enable,1)] {der.queue := [{point := 5}], der.holding := [⟨{point := 4},3⟩], der.reevalNext := some (4,5), ing.heldSince := some 3},
     by decide +kernel⟩⟩

end DerailleurQueue

namespace ActionsAndRecords

def act (k tgt lsb width out : Nat) : DerAction := { point := 9, rule := 3, action := k, target := tgt, lsb := lsb, width := width, out := out, count := 5, arrival := 100, issued := 10 }
def aS (l : List DerAction) (ph : List Photon) (s : State := {}) : State := { s with der.actions := l, der.photons := ph, hub.regions := [⟨0,0x1000_0000,0xFFFFFFFF⟩]}
def ph (k : Nat) (e : Option PhotonEnd) : Photon := { kind := k, target := 5, point := 9, rule := 3, count := 7, arrival := 100, landed := 12, ending := e }

theorem witness :
    (∃ (s : State) (t : Nat) (n : Nat) (a : DerAction), let now := max s.now t;
      let lands := s.der.actions[n]? = some a ∧ s.clock.stopped = false ∧ a.issued + 32 ≤ now ∧ (s.der.actions.take n).any (·.wordOf == a.wordOf) = false;
      let off := a.target / 4 * 4; (lands ∧ a.action = 1 ∧ s.forerunner = false ∧ s.admits 65 off = true ∧ s.ingestOwned off = false ∧
      s.der.photons = [] ∧ s.on F.DER_CTRL.photon_en = false) ∧ s.Clean off 4) ∧
    (∃ (s : State) (t : Nat) (n : Nat) (a : DerAction), let now := max s.now t;
      let lands := s.der.actions[n]? = some a ∧ s.clock.stopped = false ∧ a.issued + 32 ≤ now ∧ (s.der.actions.take n).any (·.wordOf == a.wordOf) = false;
      let addr := arrayAddr (bits a.target 28 24) (bits a.target 16 0); lands ∧ a.action = 2 ∧
      s.inWall (bits a.target 28 24) (bits a.target 16 0) = false ∧ (mget (fun _ => none) (s.at t).was.edges addr = none)) ∧
    (∃ (s : State) (t : Nat) (n : Nat) (a : DerAction), let now := max s.now t;
      let lands := s.der.actions[n]? = some a ∧ s.clock.stopped = false ∧ a.issued + 32 ≤ now ∧ (s.der.actions.take n).any (·.wordOf == a.wordOf) = false; lands ∧
      a.action = 4) ∧
    (∃ (s : State) (t : Nat) (n : Nat) (a : DerAction), let now := max s.now t; s.der.actions[n]? = some a ∧ now < a.issued + 32) ∧
    (∃ (s : State) (t : Nat) (n : Nat) (a : DerAction), let now := max s.now t;
      let lands := s.der.actions[n]? = some a ∧ s.clock.stopped = false ∧ a.issued + 32 ≤ now ∧ (s.der.actions.take n).any (·.wordOf == a.wordOf) = false; lands ∧
      a.action = 4 ∧ s.on F.DER_CTRL.photon_en = true ∧ bit s.der.lines a.target ≠ bit a.out 0 ∧ (∀ q ∈ s.der.photons, q.kind = 3 →
      q.target ≠ a.target)) ∧
    (∃ (s : State) (t : Nat) (i : Nat) (p : Photon) (e : PhotonEnd), let now := max s.now t; s.der.photons[i]? = some p ∧ p.kind ≤ 1 ∧
      p.ending = some e ∧ e.time < now) ∧
    (∃ (s : State) (t : Nat) (i : Nat) (p : Photon) (e : PhotonEnd), let now := max s.now t; s.der.photons[i]? = some p ∧ p.kind ≤ 1 ∧
      p.ending = some e ∧ now ≤ e.time) ∧
    (∃ (s : State) (i : Nat) (p : Photon), s.der.photons[i]? = some p ∧ p.kind ≤ 1 ∧ p.ending = none) ∧
    (∃ (s : State) (t : Nat) (i : Nat) (p : Photon) (e : PhotonEnd), let now := max s.now t; s.der.photons[i]? = some p ∧ p.kind = 3 ∧
      p.ending = some e ∧ e.time ≤ now) ∧
    (∃ (s : State) (i : Nat) (p : Photon), s.der.photons[i]? = some p ∧ p.kind = 3 ∧ p.ending = none) :=
  ⟨⟨{aS [act 4 0 0 1 1, act 1 0x1007 3 5 0xFF] [] with hub.mem := memOf [(0x1000, [1#8,2#8,3#8,4#8,5#8,6#8])], hub.regions := [⟨0,0x1000_0000,0xFFFF⟩]},
     42, 1, act 1 0x1007 3 5 0xFF, by decide +kernel, clean_of (by decide +kernel)⟩,
   ⟨aS [act 2 (3*2^24+0x100) 3 5 0xFF] [ph 1 none] (put [(F.DER_CTRL.photon_en,1)]), 42, 0, act 2 (3*2^24+0x100) 3 5 0xFF,
     by decide +kernel⟩,
   ⟨aS [act 4 63 0 1 1] [ph 3 none] (put [(F.DER_CTRL.photon_en,1)]), 42, 0, act 4 63 0 1 1, by decide +kernel⟩,
   ⟨aS [act 4 63 0 1 1] [ph 3 none], 41, 0, act 4 63 0 1 1, by decide +kernel⟩,
   ⟨aS [act 4 63 0 1 1] [ph 3 none] (put [(F.DER_CTRL.photon_en,1)]), 42, 0, act 4 63 0 1 1, by decide +kernel⟩,
   ⟨aS [] [ph 3 none, ph 1 (some ⟨0,599,3,4,5⟩)], 600, 1, ph 1 (some ⟨0,599,3,4,5⟩), ⟨0,599,3,4,5⟩, by decide +kernel⟩,
   ⟨aS [] [ph 1 (some ⟨0,599,3,4,5⟩)], 599, 0, ph 1 (some ⟨0,599,3,4,5⟩), ⟨0,599,3,4,5⟩, by decide +kernel⟩,
   ⟨aS [] [ph 0 none], 0, ph 0 none, by decide +kernel⟩,
   ⟨aS [] [ph 3 (some ⟨0,599,0,0,0⟩)], 600, 0, ph 3 (some ⟨0,599,0,0,0⟩), ⟨0,599,0,0,0⟩, by decide +kernel⟩,
   ⟨aS [] [ph 3 none], 0, ph 3 none, by decide +kernel⟩⟩

end ActionsAndRecords

namespace HeadFetch

theorem witness :
    (∃ (s : State) (t : Nat) (h : Nat) (n : Nat) (y : Nat), let z := s.at t; s.headPresent h = true ∧ z.fetchStarts h n y = false) ∧
    (∃ (s : State) (t : Nat) (h : Nat) (n : Nat) (y : Nat), let z := s.at t;
      let starts := z.fetchStarts h n y = true ∧ y < (s.beam h).vtotal ∧ s.job h n y = none; s.headPresent h = true ∧ starts ∧ 0 < y ∧
      s.fetchMode h n y = 1) ∧
    (∃ (s : State) (t : Nat) (h : Nat) (n : Nat) (y : Nat), let z := s.at t;
      let starts := z.fetchStarts h n y = true ∧ y < (s.beam h).vtotal ∧ s.job h n y = none; s.headPresent h = true ∧ starts ∧ 0 < y ∧
      y < (s.beam h).vactive ∧ s.fetchMode h n y = 2) ∧
    (∃ (s : State) (t : Nat) (h : Nat) (n : Nat) (y : Nat), let z := s.at t;
      let starts := z.fetchStarts h n y = true ∧ y < (s.beam h).vtotal ∧ s.job h n y = none; s.headPresent h = true ∧ starts ∧ 0 < y ∧
      s.fetchMode h n y = 0) ∧
    (∃ (s : State) (t : Nat) (h : Nat) (n : Nat) (y : Nat) (off : Nat) (j : LineJob) (f : Fetched), let now := max s.now t; s.headPresent h = true ∧
      s.job h n y = some j ∧ j.head = h ∧ (j.flying.find? (fun f => f.req.off == off && decide (f.slot + 192 ≤ now)) = some f)) ∧
    (∃ (s : State) (t : Nat) (h : Nat) (n : Nat) (y : Nat) (j : LineJob), let z := s.at t; s.headPresent h = true ∧
      s.job h n y = some j ∧ j.head = h ∧ z.beamAt h n y 0 = true ∧ j.waiting ≠ [] ∧ j.late = false) ∧
    (∃ (s : State) (t : Nat) (h : Nat) (n : Nat) (y : Nat), let z := s.at t; s.headPresent h = true ∧ z.beamAt h n y 0 = false) ∧
    (∃ (s : State) (t : Nat) (h : Nat) (n : Nat) (tr : Nat), let z := s.at t;
      let before := (s.head h).lines.drop ((s.head h).lines.length - 7); (s.headPresent h = true ∧ 0 < n ∧ z.beamAt h (n - 1) 0 0 = true ∧
      z.before.lv (F.TT_CTRL.enable h tr) = 1) ∧ s.Clean (s.svOff (z.before.lv (F.TT_CTRL.stream h tr))) 128) ∧
    (∃ (s : State) (t : Nat) (h : Nat) (n : Nat), let z := s.at t; s.headPresent h = true ∧ z.beamAt h (n - 1) 0 0 = false) :=
  ⟨⟨HB, 401, 2, 0, 3, by decide +kernel⟩,
   ⟨put [(F.CAD_CTRL.list0_en 2,1)] (HB), 400, 2, 0, 3, by decide +kernel⟩,
   ⟨put [(F.TX_STATUS.state 2, 3)] (HB {was := {live := [(R.SPR_CTRL 2, 1#32)]}}), 400, 2, 0, 3, by decide +kernel⟩,
   ⟨put [(F.TX_STATUS.state 2, 0)] (HB), 400, 2, 0, 3, by decide +kernel⟩,
   ⟨HL {J 1 with flying := [⟨⟨.map 3,64⟩,208,List.replicate 64 1#8,0⟩]}, 400, 2, 1, 1, 64,
     {J 1 with flying := [⟨⟨.map 3,64⟩,208,List.replicate 64 1#8,0⟩]}, ⟨⟨.map 3,64⟩,208,List.replicate 64 1#8,0⟩, by decide +kernel⟩,
   ⟨HL {J 1 with waiting := [⟨⟨.ring,64⟩,208⟩]}, 2800, 2, 1, 1, {J 1 with waiting := [⟨⟨.ring,64⟩,208⟩]}, by decide +kernel⟩,
   ⟨HB, 2801, 2, 1, 1, by decide +kernel⟩,
   ⟨HB {was := {live := [(R.TT_CTRL 2 1, BitVec.ofNat 32 (2^(F.TT_CTRL.enable 2 1).lo))]}}, 0, 2, 1, 1,
     by decide +kernel, clean_of (by decide +kernel)⟩,
   ⟨HB, 1, 2, 1, by decide +kernel⟩⟩

end HeadFetch

namespace HeadPixels

def P3 : LineJob := {J 3 with sent := [(1,1,1),(2,2,2)], pipe := [(2, some (5,6,7)), (3,none)]}
def P4 : LineJob := {J 3 with sent := [(1,1,1),(2,2,2)], pipe := [(2, some (5,6,7)), (3,none)], cmp := [(R.CMP_CTRL 2, BitVec.ofNat 32 (2^(F.CMP_CTRL.out_bpc 2).lo))]}
def P5 : LineJob := {J 3 with sent := [(1,1,1),(2,2,2)], pipe := [(2, none), (3,none)]}

theorem witness :
    (∃ (s : State) (t : Nat) (h : Nat) (n : Nat) (y : Nat) (x : Nat) (j : LineJob), let z := s.at t; s.job h n y = some j ∧ j.head = h ∧
      j.frame = n ∧ j.y = y ∧ z.looksUp h n y x = true ∧ 0 < x) ∧
    (∃ (s : State) (t : Nat) (h : Nat) (n : Nat) (y : Nat) (j : LineJob), let z := s.at t; s.job h n y = some j ∧ j.head = h ∧
      j.frame = n ∧ j.y = y ∧ z.looksUp h n y 0 = true) ∧
    (∃ (s : State) (t : Nat) (h : Nat) (n : Nat) (y : Nat) (x : Nat) (j : LineJob), let z := s.at t; s.job h n y = some j ∧ j.head = h ∧
      j.frame = n ∧ j.y = y ∧ z.looksUp h n y x = false) ∧
    (∃ (s : State) (t : Nat) (h : Nat) (n : Nat) (y : Nat) (x : Nat) (j : LineJob) (c : Option (Nat × Nat × Nat)) (q : Nat × Nat × Nat), let z := s.at t;
      let sends := fun (c : Option (Nat × Nat × Nat)) => z.sendsNow j x = true ∧ j.pipe.find? (·.1 == x) = some (x, c); s.job h n y = some j ∧
      j.head = h ∧ j.frame = n ∧ j.y = y ∧ sends c ∧ z.finishPixel j x c = some q) ∧
    (∃ (s : State) (t : Nat) (h : Nat) (n : Nat) (y : Nat) (x : Nat) (j : LineJob) (c : Option (Nat × Nat × Nat)), let z := s.at t;
      let sends := fun (c : Option (Nat × Nat × Nat)) => z.sendsNow j x = true ∧ j.pipe.find? (·.1 == x) = some (x, c); s.job h n y = some j ∧
      j.head = h ∧ j.frame = n ∧ j.y = y ∧ sends c ∧ (s.head h).testPat = 3 ∧ j.bpc10 = true ∧ x < s.rd (F.BEAM_H.hactive h)) ∧
    (∃ (s : State) (t : Nat) (h : Nat) (n : Nat) (y : Nat) (x : Nat) (j : LineJob), let z := s.at t;
      let sends := fun (c : Option (Nat × Nat × Nat)) => z.sendsNow j x = true ∧ j.pipe.find? (·.1 == x) = some (x, c); s.job h n y = some j ∧
      j.head = h ∧ j.frame = n ∧ j.y = y ∧ sends none ∧ (s.head h).testPat = 0 ∧ j.underrun = []) ∧
    (∃ (s : State) (t : Nat) (h : Nat) (n : Nat) (y : Nat) (x : Nat) (j : LineJob) (a : Option (Nat × Nat × Nat)) (b : Option (Nat × Nat × Nat)) (c : Option (Nat × Nat × Nat)) (q : Nat × Nat × Nat), let z := s.at t;
      let sends := fun (c : Option (Nat × Nat × Nat)) => z.sendsNow j x = true ∧ j.pipe.find? (·.1 == x) = some (x, c); s.job h n y = some j ∧
      j.head = h ∧ j.frame = n ∧ j.y = y ∧ sends c ∧ z.finishPixel j x c = some q ∧
      pixelCut j.bpc10 (a.getD q) ≠ pixelCut j.bpc10 (b.getD q) ∧ j.mismatch = none) ∧
    (∃ (s : State) (t : Nat) (h : Nat) (n : Nat) (y : Nat) (x : Nat) (j : LineJob), let z := s.at t; s.job h n y = some j ∧ j.head = h ∧
      j.frame = n ∧ j.y = y ∧ z.sendsNow j x = false) :=
  ⟨⟨HL (J 3), 1120, 2, 1, 3, 2, J 3, by decide +kernel⟩,
   ⟨HL (J 3) {was := {live := [(R.CMP_CTRL 2, 5#32)]}}, 1040, 2, 1, 3, J 3, by decide +kernel⟩,
   ⟨HL (J 3), 1, 2, 1, 3, 0, J 3, by decide +kernel⟩,
   ⟨put [(F.TX_STATUS.link_state 2,2)] (HL P3), 3680, 2, 1, 3, 2, P3, some (5,6,7), (1,1,1), by decide +kernel⟩,
   ⟨put [(F.TX_STATUS.link_state 2,2)] {HL P4 with heads := [(2,{lines := [P4], frame := 1, scan := true, testPat := 3})]}, 3680, 2, 1,
     3, 2, P4, some (5,6,7), by decide +kernel⟩,
   ⟨put [(F.TX_STATUS.link_state 2,2)] (HL P5), 3680, 2, 1, 3, 2, P5, by decide +kernel⟩,
   ⟨put [(F.TX_STATUS.link_state 2,2)] (HL P3), 3680, 2, 1, 3, 2, P3, some (1,2,3), some (1,2,4), some (5,6,7), (1,1,1),
     by decide +kernel⟩,
   ⟨put [(F.TX_STATUS.link_state 2,2)] (HL P3), 3681, 2, 1, 3, 2, P3, by decide +kernel⟩⟩

end HeadPixels

namespace BeamCommitsFramesAndEvents

theorem witness :
    (∃ (s : State) (h : Nat), s.groupArmed h = none) ∧
    (∃ (s : State) (t : Nat) (h : Nat) (f : Nat), let now := max s.now t; s.groupArmed h = none ∧
      now + (s.beam h).tf < (s.beam h).time f (s.beam h).vactive 0) ∧
    (∃ (s : State) (t : Nat) (h : Nat) (f : Nat), let now := max s.now t; s.groupArmed h = none ∧
      (s.beam h).time f (s.beam h).vactive 0 ≤ now + (s.beam h).tf) ∧
    (∃ (s : State) (t : Nat) (h : Nat) (n : Nat), let z := s.at t;
      let latches := s.headPresent h = true ∧ z.latchAt h n = true; latches ∧ z.commitDue h n = true ∧ z.was.cad = []) ∧
    (∃ (s : State) (t : Nat) (h : Nat) (n : Nat), let z := s.at t;
      let latches := s.headPresent h = true ∧ z.latchAt h n = true; latches ∧ z.commitDue h n = false) ∧
    (∃ (s : State) (t : Nat) (h : Nat) (n : Nat) (v : Nat) (landed : Nat), let now := max s.now t; let z := s.at t;
      let latches := s.headPresent h = true ∧ z.latchAt h n = true; latches ∧ (s.head h).request = some (v, landed) ∧ landed < now ∧
      (v = 0 ∨ v = 1 ∨ v = 3) ∧ s.clock.recovery = false ∧ bit s.clock.failedHeads h = false ∧ (s.headSwap h).inSwap = false ∧
      s.swapComes h n = false ∧ s.tandem.decided = []) ∧
    (∃ (s : State) (t : Nat) (h : Nat) (n : Nat), let z := s.at t; z.latchAt h n = false) ∧
    (∃ (s : State) (t : Nat) (h : Nat) (n : Nat), let z := s.at t; let starts := z.beamAt h n 0 0 = true; s.headPresent h = true ∧
      starts) ∧
    (∃ (s : State) (t : Nat) (h : Nat) (n : Nat), let z := s.at t; let starts := z.beamAt h n 0 0 = true; s.headPresent h = true ∧
      starts ∧ (s.head h).started = true) ∧
    (∃ (s : State) (t : Nat) (h : Nat) (n : Nat), let z := s.at t; let starts := z.beamAt h n 0 0 = true; s.headPresent h = true ∧
      starts ∧ (s.head h).started = false) ∧
    (∃ (s : State) (t : Nat) (h : Nat) (n : Nat) (v : Nat), let z := s.at t;
      let starts := z.beamAt h n 0 0 = true; s.headPresent h = true ∧ starts ∧ (s.head h).armed = some v ∧ v < 4 ∧
      (s.headSwap h).inSwap = false ∧ (s.headSwap h).armed = false) ∧
    (∃ (s : State) (t : Nat) (h : Nat) (n : Nat), let z := s.at t; s.headPresent h = true ∧ z.beamAt h n 0 0 = false) ∧
    (∃ (s : State) (t : Nat) (h : Nat) (k : Nat) (f : Nat) (y : Nat) (x : Nat), let now := max s.now t;
      let z := s.at t; s.headPresent h = true ∧ s.posOf h now = some (f, y, x) ∧ z.beamAt h f y x = true ∧ k < 2 ∧ h < 24 ∧
      z.before.eventAt h k y x = true ∧ s.corePresent h = true ∧ s.coreParked h = false ∧ s.tandem.hold = false ∧ s.sb.keyHold = false ∧
      s.on (F.INTC_SRC.pending (64 + 4 * h + k)) = false) ∧
    (∃ (s : State) (t : Nat) (h : Nat) (f : Nat) (y : Nat) (x : Nat), let now := max s.now t; let z := s.at t; s.headPresent h = true ∧
      s.posOf h now = some (f, y, x) ∧ z.beamAt h f y x = true ∧ z.before.eventAt h 0 y x = true ∧ h < 24 ∧ s.corePresent h = false) :=
  ⟨⟨HB, 2, by decide +kernel⟩,
   ⟨HB, 100, 2, 2, by decide +kernel⟩,
   ⟨put [(F.BEAM_STATUS.late_commits 2, 65535)] HB, 1600, 2, 1, by decide +kernel⟩,
   ⟨put [(F.CMP_CTRL.lut_en 2,1),(F.SPR_CTRL.enable 2,1)] {HB with heads := [(2,{commit := some (1599,none)})]}, 1600, 2, 1,
     by decide +kernel⟩,
   ⟨put [(F.CMP_CTRL.lut_en 2,1),(F.SPR_CTRL.enable 2,1)] {HB with heads := [(2,{commit := some (1600,none)})]}, 1600, 2, 1,
     by decide +kernel⟩,
   ⟨{HB with heads := [(2,{request := some (0,1599)})]}, 1600, 2, 1, 0, 1599, by decide +kernel⟩,
   ⟨HB, 1601, 2, 1, by decide +kernel⟩,
   ⟨HB, 2400, 2, 1, by decide +kernel⟩,
   ⟨{HB with heads := [(2,{started := true, frame := 0, underrun := 4})]}, 2400, 2, 1, by decide +kernel⟩,
   ⟨HB, 2400, 2, 1, by decide +kernel⟩,
   ⟨{HB with heads := [(2,{armed := some 3, frame := 0, underrun := 4})]}, 2400, 2, 1, 3, by decide +kernel⟩,
   ⟨HB, 2401, 2, 1, by decide +kernel⟩,
   ⟨put [(F.BEAM_EVENT.mode 2 1, 2),(F.BEAM_EVENT.pixel 2 1, 1)] {HB with gs.present := 2^4 + 2^28}, 2440, 2, 1, 1, 0, 1,
     by decide +kernel⟩,
   ⟨put [(F.BEAM_EVENT.mode 2 0, 1),(F.BEAM_EVENT.pixel 2 0, 1),(F.BEAM_EVENT_MISSED.event0 2, 65535)] HB, 2440, 2, 1, 0, 1,
     by decide +kernel⟩⟩

end BeamCommitsFramesAndEvents

namespace CadenceWrites

def cIdx (c n e : Nat) : Fetched := ⟨⟨.index c, bankLine (0 + 1 * 4)⟩, 0,
  (List.replicate 4 0#8) ++ natLe 4 (n * 2^16 + e) ++ List.replicate 56 0#8, 0⟩
def cEnt (c e kind px off data mask : Nat) : Fetched := ⟨⟨.entry c,
  bankLine (({head := 2, frame := 1, y := 1} : LineJob).entryOff c e)⟩, 0,
  List.replicate ((({head := 2, frame := 1, y := 1} : LineJob).entryOff c e) % 64) 0#8 ++ natLe 4 (kind * 2^30 + 1 * 2^13 + px) ++ natLe 4 off ++ natLe 4 data ++ natLe 4 mask ++ List.replicate 48 0#8,
  0⟩
def c1 : LineJob := {J 1 with got := [cIdx 0 1 3, cEnt 0 3 0 4 (0x1000) 7 3]}
def c2 : LineJob := {J 1 with got := [cIdx 0 1 3, cEnt 0 3 0 4 0x1000 7 3, cIdx 1 1 6, cEnt 1 6 1 2 0x1_8000 9 0xFF]}
def cq (c : Nat) (j : LineJob) (e : Nat) : CadWrite × Nat := match (HL j).at 3100 |>.cadJudge j c e with | .queued w p => (w,p) | _ => (⟨0,false,0,0,0⟩,0)
def hitOf (off : Nat) : RegHit := (cadReg 2 off).getD dummy
def QS (w : CadWrite) (s : State := {}) : State := HB {s with heads := [(2,{cadQueue := [w], cadLast := some 100})]}

theorem witness :
    (∃ (s : State) (t : Nat) (h : Nat) (n : Nat) (y : Nat) (c : Nat) (px : Nat) (j : LineJob) (w : CadWrite), let z := s.at t;
      let single := fun (c : Nat) (w : CadWrite) (px : Nat) => ∃ word, j.index c = some word ∧ indexBad word = false ∧ bits word 24 16 = 1 ∧ mget (fun _ => 0) j.cadNext c = 0 ∧ z.cadJudge j c (bits word 13 0) = .queued w px;
      let line := (s.head h).lines = [j] ∧ j.head = h ∧ j.frame = n ∧ j.y = y; line ∧ c < 2 ∧ single c w px ∧ j.index (1 - c) = none) ∧
    (∃ (s : State) (t : Nat) (h : Nat) (n : Nat) (y : Nat) (c : Nat) (px : Nat) (px' : Nat) (j : LineJob) (w : CadWrite) (w' : CadWrite), let z := s.at t;
      let single := fun (c : Nat) (w : CadWrite) (px : Nat) => ∃ word, j.index c = some word ∧ indexBad word = false ∧ bits word 24 16 = 1 ∧ mget (fun _ => 0) j.cadNext c = 0 ∧ z.cadJudge j c (bits word 13 0) = .queued w px;
      let line := (s.head h).lines = [j] ∧ j.head = h ∧ j.frame = n ∧ j.y = y; line ∧ single 0 w px ∧ single 1 w' px' ∧
      (s.head h).cadQueue.length ≤ 6) ∧
    (∃ (s : State) (h : Nat) (n : Nat) (y : Nat) (j : LineJob), let line := (s.head h).lines = [j] ∧ j.head = h ∧ j.frame = n ∧ j.y = y; line ∧
      j.index 0 = none ∧ j.index 1 = none) ∧
    (∃ (s : State) (t : Nat) (h : Nat) (w : CadWrite) (rest : List CadWrite) (hit : RegHit), let now := max s.now t;
      let free := ∀ e, (s.head h).cadLast = some e → e + 4 * s.rd (F.BEAM_N.n_div h) ≤ now; let reg := headBase h + w.off;
      let laid := fun (old : Word) (mask : Word) => (old &&& ~~~mask) ||| (BitVec.ofNat 32 w.data &&& mask);
      let mixed := laid (s.liveReg reg) (BitVec.ofNat 32 w.mask);
      let lands := (s.head h).cadQueue = w :: rest ∧ free ∧ w.due ≤ now; lands ∧ w.array = false ∧ cadReg h w.off = some hit ∧
      writesReserved hit.spec.id hit.i1 mixed = false) ∧
    (∃ (s : State) (t : Nat) (h : Nat) (w : CadWrite) (rest : List CadWrite) (hit : RegHit), let now := max s.now t;
      let free := ∀ e, (s.head h).cadLast = some e → e + 4 * s.rd (F.BEAM_N.n_div h) ≤ now; let reg := headBase h + w.off;
      let laid := fun (old : Word) (mask : Word) => (old &&& ~~~mask) ||| (BitVec.ofNat 32 w.data &&& mask);
      let mixed := laid (s.liveReg reg) (BitVec.ofNat 32 w.mask);
      let lands := (s.head h).cadQueue = w :: rest ∧ free ∧ w.due ≤ now; lands ∧ w.array = false ∧ cadReg h w.off = some hit ∧
      writesReserved hit.spec.id hit.i1 mixed = true) ∧
    (∃ (s : State) (t : Nat) (h : Nat) (w : CadWrite) (rest : List CadWrite), let now := max s.now t;
      let free := ∀ e, (s.head h).cadLast = some e → e + 4 * s.rd (F.BEAM_N.n_div h) ≤ now;
      let lands := (s.head h).cadQueue = w :: rest ∧ free ∧ w.due ≤ now; lands ∧ w.array = true) ∧
    (∃ (s : State) (t : Nat) (h : Nat) (w : CadWrite) (rest : List CadWrite), let now := max s.now t;
      let free := ∀ e, (s.head h).cadLast = some e → e + 4 * s.rd (F.BEAM_N.n_div h) ≤ now; (s.head h).cadQueue = w :: rest ∧ (¬ free ∨
      now < w.due)) :=
  ⟨⟨{HB with heads := [(2,{lines := [c1]})]}, 3100, 2, 1, 1, 0, (cq 0 c1 3).2, c1, (cq 0 c1 3).1, by decide +kernel⟩,
   ⟨{HB with heads := [(2,{lines := [c2]})]}, 3100, 2, 1, 1, 0, (cq 0 c2 3).2, (cq 1 c2 6).2, c2, (cq 0 c2 3).1, (cq 1 c2 6).1,
     by decide +kernel⟩,
   ⟨{HB with heads := [(2,{lines := [J 1]})]}, 2, 1, 1, J 1, by decide +kernel⟩,
   ⟨QS ⟨200,false,0x1000,0xFFFFFFFF,0xFFFF⟩, 260, 2, ⟨200,false,0x1000,0xFFFFFFFF,0xFFFF⟩, [], hitOf 0x1000, by decide +kernel⟩,
   ⟨QS ⟨200,false,R.CMP_SPRITE 2 - headBase 2,0x300,0xFFFF⟩, 260, 2, ⟨200,false,R.CMP_SPRITE 2 - headBase 2,0x300,0xFFFF⟩, [],
     hitOf (R.CMP_SPRITE 2 - headBase 2), by decide +kernel⟩,
   ⟨QS ⟨260,true,0x100,0x7FFFFFFF,0xFF0F⟩, 260, 2, ⟨260,true,0x100,0x7FFFFFFF,0xFF0F⟩, [], by decide +kernel⟩,
   ⟨QS ⟨200,false,0x1000,0xFFFFFFFF,0xFFFF⟩, 259, 2, ⟨200,false,0x1000,0xFFFFFFFF,0xFFFF⟩, [], by decide +kernel⟩⟩

end CadenceWrites

namespace HeadLinks

def HD (l : List (Fld × Nat)) (x : HeadS := {}) : State := put l {HB with heads := [(2,x)]}

theorem witness :
    (∃ (s : State) (h : Nat) (w : Word), let v := w.toNat % 4; s.locked = false ∧ s.isPrimary = false ∧ h < 24 ∧ s.power ≠ 2 ∧
      v ≠ s.rd (F.TX_CTRL.req_state h)) ∧
    (∃ (s : State) (h : Nat) (w : Word), let v := w.toNat % 4; s.locked = false ∧ s.isPrimary = false ∧ h < 24 ∧ s.power = 2 ∧
      v ≠ s.rd (F.TX_CTRL.req_state h)) ∧
    (∃ (s : State) (h : Nat), s.locked = false ∧ s.isPrimary = false ∧ h < 24 ∧ s.headState h = 0) ∧
    (∃ (s : State) (h : Nat), s.locked = false ∧ s.isPrimary = false ∧ h < 24) ∧
    (∃ (s : State) (h : Nat), let link := fun (u : State) => u.rd (F.TX_STATUS.link_state h); s.locked = false ∧ s.isPrimary = false ∧
      h < 24 ∧ link s = 2) ∧
    (∃ (s : State) (h : Nat), let link := fun (u : State) => u.rd (F.TX_STATUS.link_state h); s.locked = false ∧ s.isPrimary = false ∧
      h < 24 ∧ link s ≠ 3) ∧
    (∃ (s : State) (h : Nat), let link := fun (u : State) => u.rd (F.TX_STATUS.link_state h); s.locked = false ∧ s.isPrimary = false ∧
      h < 24 ∧ link s = 3 ∧ s.needsLink h = true) ∧
    (∃ (s : State) (h : Nat) (lanes : Nat) (rate : Nat), let link := fun (u : State) => u.rd (F.TX_STATUS.link_state h); s.locked = false ∧
      s.isPrimary = false ∧ h < 24 ∧ link s = 1 ∧ (s.linkConfigs h)[(s.head h).config]? = some (lanes, rate)) ∧
    (∃ (s : State) (h : Nat), let link := fun (u : State) => u.rd (F.TX_STATUS.link_state h); s.locked = false ∧ s.isPrimary = false ∧
      h < 24 ∧ link s = 1 ∧ (s.head h).attempts < 2) ∧
    (∃ (s : State) (h : Nat), let link := fun (u : State) => u.rd (F.TX_STATUS.link_state h); s.locked = false ∧ s.isPrimary = false ∧
      h < 24 ∧ link s = 1 ∧ (s.head h).attempts = 2 ∧ s.on (F.TX_LINK.fallback_en h) = true ∧
      (s.head h).config + 1 < (s.linkConfigs h).length) ∧
    (∃ (s : State) (h : Nat), let link := fun (u : State) => u.rd (F.TX_STATUS.link_state h); s.locked = false ∧ s.isPrimary = false ∧
      h < 24 ∧ link s = 1 ∧ (s.head h).attempts = 2 ∧ s.on (F.TX_LINK.fallback_en h) = false) ∧
    (∃ (s : State) (h : Nat), let link := fun (u : State) => u.rd (F.TX_STATUS.link_state h); s.locked = false ∧ s.isPrimary = false ∧
      h < 24 ∧ s.on (F.TX_AUX_CTRL.aux_busy h) = false ∧ link s ≠ 1) ∧
    (∃ (s : State) (h : Nat), let link := fun (u : State) => u.rd (F.TX_STATUS.link_state h); s.locked = false ∧ s.isPrimary = false ∧
      h < 24 ∧ s.on (F.TX_AUX_CTRL.aux_busy h) = false ∧ link s = 1) ∧
    (∃ (s : State) (h : Nat), s.locked = false ∧ s.isPrimary = false ∧ h < 24 ∧ s.on (F.TX_AUX_CTRL.aux_busy h) = true) ∧
    (∃ (s : State) (h : Nat) (a : AuxReq), s.locked = false ∧ s.isPrimary = false ∧ h < 24 ∧ (s.head h).aux = some a ∧ a.sent = true ∧
      a.retries < 7) ∧
    (∃ (s : State) (h : Nat) (a : AuxReq), s.locked = false ∧ s.isPrimary = false ∧ h < 24 ∧ (s.head h).aux = some a ∧ a.sent = true ∧
      a.retries = 7 ∧ s.on (F.TX_AUX_CTRL.aux_busy h) = true) ∧
    (∃ (s : State) (h : Nat) (a : AuxReq), s.locked = false ∧ s.isPrimary = false ∧ h < 24 ∧ (s.head h).aux = some a ∧ a.sent = false) ∧
    (∃ (s : State) (h : Nat) (r : AuxReply) (a : AuxReq), s.locked = false ∧ s.isPrimary = false ∧ h < 24 ∧
      s.on (F.TX_AUX_CTRL.aux_busy h) = true ∧ (s.head h).aux = some a ∧ a.ends r = true) ∧
    (∃ (s : State) (h : Nat) (r : AuxReply) (a : AuxReq), s.locked = false ∧ s.isPrimary = false ∧ h < 24 ∧ (s.head h).aux = some a ∧
      a.ends r = false) :=
  ⟨⟨HD [], 2, 2#32, by decide +kernel⟩,
   ⟨HD [(F.CPR_STATUS.power,2)], 2, 2#32, by decide +kernel⟩,
   ⟨HD [(F.TX_STATUS.state 2,0),(F.TX_STATUS.hpd 2,1)], 2, by decide +kernel⟩,
   ⟨HD [(F.TX_STATUS.link_state 2,1),(F.TX_LINK.edp 2,1)], 2, by decide +kernel⟩,
   ⟨HD [(F.TX_STATUS.link_state 2,2)] {attempts := 2, config := 3, scan := true}, 2, by decide +kernel⟩,
   ⟨HD [(F.TX_STATUS.link_state 2,2),(F.TX_LINK.edp 2,1)], 2, by decide +kernel⟩,
   ⟨HD [(F.TX_STATUS.link_state 2,3)], 2, by decide +kernel⟩,
   ⟨HD [(F.TX_STATUS.link_state 2,1),(F.TX_LINK.max_rate 2,3),(F.TX_STATUS.fw_capable 2,1)] {config := 1}, 2, 4, 2, by decide +kernel⟩,
   ⟨HD [(F.TX_STATUS.link_state 2,1),(F.TX_LINK.max_rate 2,3)] {config := 1, attempts := 1}, 2, by decide +kernel⟩,
   ⟨HD [(F.TX_STATUS.link_state 2,1),(F.TX_LINK.max_rate 2,3),(F.TX_LINK.fallback_en 2,1)] {config := 1, attempts := 2}, 2,
     by decide +kernel⟩,
   ⟨HD [(F.TX_STATUS.link_state 2,1),(F.TX_LINK.max_rate 2,3)] {config := 1, attempts := 2}, 2, by decide +kernel⟩,
   ⟨HD [(F.TX_STATUS.link_state 2,2)], 2, by decide +kernel⟩,
   ⟨HD [(F.TX_STATUS.link_state 2,1)], 2, by decide +kernel⟩,
   ⟨HD [(F.TX_AUX_CTRL.aux_busy 2,1)], 2, by decide +kernel⟩,
   ⟨HD [(F.TX_AUX_CTRL.aux_busy 2,1)] {aux := some {cmd := 9, addr := 5, bytes := [1#8], retries := 6, sent := true}}, 2,
     {cmd := 9, addr := 5, bytes := [1#8], retries := 6, sent := true}, by decide +kernel⟩,
   ⟨HD [(F.TX_AUX_CTRL.aux_busy 2,1)] {aux := some {cmd := 9, addr := 5, bytes := [1#8], retries := 7, sent := true}}, 2,
     {cmd := 9, addr := 5, bytes := [1#8], retries := 7, sent := true}, by decide +kernel⟩,
   ⟨HD [(F.TX_AUX_CTRL.aux_busy 2,1)] {aux := some {cmd := 9, addr := 5, bytes := [1#8], retries := 7, sent := false}}, 2,
     {cmd := 9, addr := 5, bytes := [1#8], retries := 7, sent := false}, by decide +kernel⟩,
   ⟨HD [(F.TX_AUX_CTRL.aux_busy 2,1)] {aux := some {cmd := 9, addr := 5, bytes := [1#8], retries := 3, sent := true}}, 2,
     .ack [1#8,2#8,3#8,4#8,5#8], {cmd := 9, addr := 5, bytes := [1#8], retries := 3, sent := true}, by decide +kernel⟩,
   ⟨HD [(F.TX_AUX_CTRL.aux_busy 2,1)] {aux := some {cmd := 9, addr := 5, bytes := [1#8], retries := 3, sent := true}}, 2, .deferred,
     {cmd := 9, addr := 5, bytes := [1#8], retries := 3, sent := true}, by decide +kernel⟩⟩

end HeadLinks

namespace HeadPanelsAndMirrors

def TP : List (Fld × Nat) := [(F.TX_MIRROR.tap_en 2,1),(F.TX_MIRROR.seg_pixels 2,4)]
def pkt (kind flags : Nat) : List Byte := mirrorPacket kind flags 0x155 5 1 4 4 7 (List.replicate 12 9#8)
def RH (l : List (Fld × Nat)) : State := put ([(F.TX_REMOTE.ring_log2 2,6),(F.TX_REMOTE_SRC.source_id 2,0x155),(F.TX_STATUS.state 2,3)] ++ l) HB

theorem witness :
    (∃ (s : State) (h : Nat) (b : Bool), h < 24 ∧ (s.head h).psr = some b) ∧
    (∃ (s : State) (t : Nat) (h : Nat), let now := max s.now t; h < 24 ∧ s.locked = false ∧ s.isPrimary = false ∧
      s.on (F.TX_TE.te_en h) = true ∧ s.headState h ≠ 0 ∧ s.now ≤ t) ∧
    (∃ (s : State) (h : Nat), h < 24 ∧ s.on (F.TX_TE.te_en h) = true ∧ s.headState h ≠ 0 ∧
      s.rd (F.TX_TE.te_timeout h) ≤ (s.head h).teFrames) ∧
    (∃ (s : State) (h : Nat), h < 24 ∧ s.headState h = 3 ∧ s.rd (F.TX_REMOTE.absent_frames h) ≤ (s.head h).absent ∧
      s.on (F.TX_STATUS.source_absent h) = false) ∧
    (∃ (s : State) (h : Nat) (n : Nat) (y : Nat) (first : Nat) (p : List Byte), let src := 256 * s.rd F.PEL_SELF.chip_number + h;
      let taps := s.on (F.TX_MIRROR.tap_en h) = true ∧ s.headPresent h = true ∧ s.ringHeads src = []; h < 24 ∧ taps ∧ s.isShadow = false ∧
      ((s.job h n y).bind (fun j => s.mirrorSegment j first) = some p)) ∧
    (∃ (s : State) (h : Nat), let src := 256 * s.rd F.PEL_SELF.chip_number + h;
      let taps := s.on (F.TX_MIRROR.tap_en h) = true ∧ s.headPresent h = true ∧ s.ringHeads src = []; h < 24 ∧ taps ∧ s.isShadow = false ∧
      (s.headState h = 0 ∨ s.headState h = 2)) ∧
    (∃ (s : State) (h : Nat), let src := 256 * s.rd F.PEL_SELF.chip_number + h;
      let taps := s.on (F.TX_MIRROR.tap_en h) = true ∧ s.headPresent h = true ∧ s.ringHeads src = []; h < 24 ∧ taps ∧ s.isShadow = true) ∧
    (∃ (s : State) (t : Nat) (h : Nat) (p : List Byte), let now := max s.now t; h < 24 ∧ leAt p 0 2 = 1 ∧ leAt p 2 1 = 1 ∧
      s.ringHeads (leAt p 4 4) = [h] ∧ now + (s.beam h).tf < (s.beam h).time (leAt p 8 8) (s.beam h).vactive 0) ∧
    (∃ (s : State) (h : Nat) (p : List Byte), h < 24 ∧ leAt p 0 2 = 1 ∧ leAt p 2 1 = 0 ∧ s.ringHeads (leAt p 4 4) = [h] ∧
      bit (leAt p 3 1) 2 ≠ s.bpc10 h) :=
  ⟨⟨{HB with heads := [(2,{psr := some true})]}, 2, true, by decide +kernel⟩,
   ⟨put [(F.TX_TE.te_en 2,1),(F.TX_TE.te_window 2,1),(F.TX_TE.te_line 2,3)] {HB with heads := [(2,{teFrames := 4})]}, 3000, 2,
     by decide +kernel⟩,
   ⟨put [(F.TX_TE.te_en 2,1),(F.TX_TE.te_timeout 2,4)] {HB with heads := [(2,{teFrames := 4})]}, 2, by decide +kernel⟩,
   ⟨put [(F.TX_STATUS.state 2,3),(F.TX_REMOTE.absent_frames 2,4)] {HB with heads := [(2,{absent := 4})]}, 2, by decide +kernel⟩,
   ⟨put TP (HL {J 3 with sent := List.replicate 8 (1,2,3)}), 2, 1, 3, 4,
     (HL {J 3 with sent := List.replicate 8 (1,2,3)} |> put TP).mirrorSegment {J 3 with sent := List.replicate 8 (1,2,3)} 4 |>.getD [],
     by decide +kernel⟩,
   ⟨put (TP ++ [(F.TX_STATUS.state 2,2)]) HB, 2, by decide +kernel⟩,
   ⟨put (TP ++ [(F.TANDEM_STATUS.role,2),(F.TX_STATUS.state 2,2)]) HB, 2, by decide +kernel⟩,
   ⟨RH [(F.TX_STATUS.source_absent 2,1)], 3000, 2, pkt 1 0, by decide +kernel⟩,
   ⟨RH [(F.TX_REMOTE_RING.discarded 2, 65535)], 2, pkt 0 4, by decide +kernel⟩⟩

end HeadPanelsAndMirrors

namespace SealsAndRecords

theorem witness :
    (∃ (s : State) (h : Nat) (n : Nat) (y : Nat) (j : LineJob), s.job h n y = some j ∧ j.head = h ∧
      j.sent.length = s.rd (F.BEAM_H.hactive h) ∧ (s.head h).frame = n) ∧
    (∃ (s : State) (h : Nat) (n : Nat) (k : Nat), (s.head h).frame = n ∧ (s.head h).started = true ∧ k < s.bands h) ∧
    (∃ (s : State) (r : QRecord) (rest : List QRecord), s.records = r :: rest ∧ rest.length < 128) :=
  ⟨⟨HL {J 3 with sent := List.replicate 8 (1,2,3)}, 2, 1, 3, {J 3 with sent := List.replicate 8 (1,2,3)}, by decide +kernel⟩,
   ⟨put [(F.SEAL_CTRL.band_lines 2,
     3)] (HB {heads := [(2,{frame := 1, started := true, digests := [(0,(List.replicate 64 5#8, 3))]})]}), 2, 1, 1, by decide +kernel⟩,
   ⟨{records := [{head := 2, frame := 1, start := 4, body := List.replicate 192 0xFF#8}]},
     {head := 2, frame := 1, start := 4, body := List.replicate 192 0xFF#8}, [], by decide +kernel⟩⟩

end SealsAndRecords

namespace TandemJoin

def TN (st role : Nat) (x : TandemS := {}) (s : State := {}) : State := put [(F.SEC_STATE.state,2),(F.TANDEM_STATUS.state,st),(F.TANDEM_STATUS.role,role)] {s with gs.paired := true, tandem := x}

theorem witness :
    (∃ (s : State) (twin : Nat), let st := s.rd F.TANDEM_STATUS.state; let free := s.gs.paired = true ∧ s.forcedSolo = false; free ∧
      st = 0 ∧ (twin = 0 ∨ twin = 1 ∧ s.twinIndex = 0)) ∧
    (∃ (s : State) (twin : Nat), let st := s.rd F.TANDEM_STATUS.state; let free := s.gs.paired = true ∧ s.forcedSolo = false; free ∧
      st = 0 ∧ (twin = 2 ∨ twin = 1 ∧ s.twinIndex = 1)) ∧
    (∃ (s : State), let st := s.rd F.TANDEM_STATUS.state; let free := s.gs.paired = true ∧ s.forcedSolo = false; (¬ free ∨ st ≠ 0)) ∧
    (∃ (s : State) (digest : List Byte), let st := s.rd F.TANDEM_STATUS.state; let free := s.gs.paired = true ∧ s.forcedSolo = false;
      let asked := st = 0 ∧ s.tandem.rejoin = true ∨ st = 4 ∧ (s.tandem.rejoin = true ∨ s.on F.TANDEM_CTRL.auto_rejoin = true); free ∧
      asked ∧ digest ≠ s.gs.digest) ∧
    (∃ (s : State), let st := s.rd F.TANDEM_STATUS.state; let free := s.gs.paired = true ∧ s.forcedSolo = false;
      let asked := st = 0 ∧ s.tandem.rejoin = true ∨ st = 4 ∧ (s.tandem.rejoin = true ∨ s.on F.TANDEM_CTRL.auto_rejoin = true); free ∧
      asked) ∧
    (∃ (s : State), let st := s.rd F.TANDEM_STATUS.state; let free := s.gs.paired = true ∧ s.forcedSolo = false;
      let asked := st = 0 ∧ s.tandem.rejoin = true ∨ st = 4 ∧ (s.tandem.rejoin = true ∨ s.on F.TANDEM_CTRL.auto_rejoin = true); free ∧
      ¬ asked) ∧
    (∃ (s : State), let st := s.rd F.TANDEM_STATUS.state; let free := s.gs.paired = true ∧ s.forcedSolo = false; free ∧ st = 1 ∧
      s.isPrimary = true) ∧
    (∃ (s : State) (auth : Bool) (digest : List Byte), let st := s.rd F.TANDEM_STATUS.state;
      let free := s.gs.paired = true ∧ s.forcedSolo = false; free ∧ (st ≠ 1 ∨ digest ≠ s.gs.digest ∨ auth = false)) ∧
    (∃ (s : State), let free := s.gs.paired = true ∧ s.forcedSolo = false; ¬ free) ∧
    (∃ (s : State) (t : Nat), let st := s.rd F.TANDEM_STATUS.state; let now := max s.now t; s.tandem.joining = true ∧ st = 2 ∧
      5940 * 2000000 + s.tandem.joinStart ≤ now ∧ s.tandem.follows = false) ∧
    (∃ (s : State), s.tandem.follows = true) ∧
    (∃ (s : State), let st := s.rd F.TANDEM_STATUS.state; st = 2 ∧ s.tandem.joining = false) ∧
    (∃ (s : State), let st := s.rd F.TANDEM_STATUS.state; st = 2 ∧ s.tandem.joining = true) ∧
    (∃ (s : State) (t : Nat), let st := s.rd F.TANDEM_STATUS.state; st = 2 ∧ s.tandem.copyDone = true ∧ (s.at t).chipLatch = true ∧
      s.tandem.joining = false) ∧
    (∃ (s : State) (t : Nat), let st := s.rd F.TANDEM_STATUS.state; st = 2 ∧ s.tandem.copyDone = true ∧ (s.at t).chipLatch = true ∧
      s.tandem.joining = true) ∧
    (∃ (s : State) (t : Nat), let st := s.rd F.TANDEM_STATUS.state; (st ≠ 2 ∨ s.tandem.copyDone = false ∨ (s.at t).chipLatch = false)) ∧
    (∃ (s : State) (queue : List (List Byte)), s.tandem.hold = true ∧ s.ing.queue = [] ∧ s.ing.writes = []) ∧
    (∃ (s : State), s.tandem.hold = false) ∧
    (∃ (s : State) (o : Int), s.locked = true ∧ s.isShadow = true ∧ 20 < o.natAbs) ∧
    (∃ (s : State) (o : Int), (s.locked = false ∨ s.isShadow = false ∨ o.natAbs ≤ 20)) :=
  ⟨⟨TN 0 0, 0, by decide +kernel⟩,
   ⟨TN 0 0, 2, by decide +kernel⟩,
   ⟨TN 1 1, by decide +kernel⟩,
   ⟨TN 0 0 {rejoin := true}, [1], by decide +kernel⟩,
   ⟨TN 4 2 {rejoin := true}, by decide +kernel⟩,
   ⟨TN 4 2, by decide +kernel⟩,
   ⟨TN 1 1 {joining := true}, by decide +kernel⟩,
   ⟨TN 3 1, false, [], by decide +kernel⟩,
   ⟨{}, by decide +kernel⟩,
   ⟨TN 2 0 {joining := true}, 20000000000, by decide +kernel⟩,
   ⟨TN 2 0 {joining := true, follows := true}, by decide +kernel⟩,
   ⟨TN 2 1, by decide +kernel⟩,
   ⟨{TN 2 0 {joining := true} with hub.mem := memOf [(9,[9#8,8#8,7#8])], hub.flips := [(1,1#72),(2,1#72)]}, by decide +kernel⟩,
   ⟨TN 2 1 {copyDone := true}, 6, by decide +kernel⟩,
   ⟨{TN 2 0 {copyDone := true, joining := true} with cores := [(4,{a := 77#32}),(5,{a := 99#32})]}, 6, by decide +kernel⟩,
   ⟨TN 2 1, 6, by decide +kernel⟩,
   ⟨TN 2 0 {hold := true, joining := true}, [], by decide +kernel⟩,
   ⟨TN 2 1, by decide +kernel⟩,
   ⟨TN 3 2, -21, by decide +kernel⟩,
   ⟨TN 3 2, 20, by decide +kernel⟩⟩

end TandemJoin

namespace TandemLockstep

def HS (l : List (Fld × Nat)) (s : State := {}) : State := put ([(F.SEC_STATE.state,2),(F.TX_STATUS.state 2,1),(F.BEAM_V.vactive 2,4)] ++ l) {s with gs.paired := true, gs.present := 2^4}
def TN (st role : Nat) (x : TandemS := {}) (l : List (Fld × Nat) := []) : State := HS ([(F.TANDEM_STATUS.state,st),(F.TANDEM_STATUS.role,role)] ++ l) {tandem := x}
def Z : List Byte := List.replicate 64 0#8

theorem witness :
    (∃ (s : State) (t : Nat) (h : Nat), let compared := s.locked = true ∧ s.headPresent h = true ∧ (s.at t).comparable h = true; ¬ compared) ∧
    (∃ (s : State) (t : Nat) (h : Nat) (twin : List Byte) (twinHalt : Bool), let compared := s.locked = true ∧ s.headPresent h = true ∧ (s.at t).comparable h = true;
      let unhalted := s.tandem.haltDiverge = false ∧ twinHalt = false; compared ∧ unhalted ∧ s.lastSeal h = twin) ∧
    (∃ (s : State) (t : Nat) (h : Nat) (twin : List Byte) (twinHalt : Bool), let compared := s.locked = true ∧ s.headPresent h = true ∧ (s.at t).comparable h = true;
      let unhalted := s.tandem.haltDiverge = false ∧ twinHalt = false; compared ∧ h < 24 ∧ unhalted ∧ s.lastSeal h ≠ twin ∧
      s.lastRemote h = true) ∧
    (∃ (s : State) (t : Nat) (h : Nat) (twin : List Byte) (mis : Bool) (twinHalt : Bool), let compared := s.locked = true ∧ s.headPresent h = true ∧ (s.at t).comparable h = true;
      let unhalted := s.tandem.haltDiverge = false ∧ twinHalt = false; compared ∧ h < 24 ∧ unhalted ∧ s.lastSeal h ≠ twin ∧
      s.lastRemote h = false ∧ s.lastMismatch h ≠ mis) ∧
    (∃ (s : State) (t : Nat) (h : Nat) (twin : List Byte) (mis : Bool) (twinHalt : Bool), let compared := s.locked = true ∧ s.headPresent h = true ∧ (s.at t).comparable h = true; compared ∧
      (s.tandem.haltDiverge = true ∨ twinHalt = true ∨ s.lastSeal h ≠ twin ∧ s.lastRemote h = false ∧ s.lastMismatch h = mis)) ∧
    (∃ (s : State), s.rd F.TANDEM_STATUS.role ≠ 0) ∧
    (∃ (s : State), s.rd F.TANDEM_STATUS.role = 0) ∧
    (∃ (s : State) (h : Nat) (d : Takeover), s.tandem.armed.find? (·.head == h) = some d) ∧
    (∃ (s : State) (h : Nat), s.tandem.armed.find? (·.head == h) = none) ∧
    (∃ (s : State) (h : Nat) (high : Bool), bit s.tandem.expected h = high) ∧
    (∃ (s : State) (h : Nat) (high : Bool), bit s.tandem.expected h ≠ high) ∧
    (∃ (s : State), s.locked = true) ∧
    (∃ (s : State), let st := s.rd F.TANDEM_STATUS.state; st = 2) ∧
    (∃ (s : State), let st := s.rd F.TANDEM_STATUS.state; st ≠ 2 ∧ st ≠ 3) ∧
    (∃ (s : State) (t : Nat) (time : Nat) (e : JEntry) (q : List JEntry), let now := max s.now t; s.tandem.journal = e :: q ∧
      e.time ≤ now ∧ (∀ x ∈ q, now < x.time)) ∧
    (∃ (s : State) (t : Nat) (time : Nat), let now := max s.now t; (∀ x ∈ s.tandem.journal, now < x.time)) ∧
    (∃ (s : State), s.locked = true ∧ s.isPrimary = true) ∧
    (∃ (s : State) (t : Nat) (time : Nat), s.locked = true ∧ s.isPrimary = false ∧ t ≤ time) ∧
    (∃ (s : State) (t : Nat) (time : Nat), s.locked = true ∧ s.isPrimary = false ∧ time < t) ∧
    (∃ (s : State), s.locked = false) :=
  ⟨⟨TN 4 2, 6, 2, by decide +kernel⟩,
   ⟨((TN 3 2).wr64 (R.SEAL_FRAME 2) 2).wr64 (R.BEAM_TF 2) 100, 600000, 2, Z, false, by decide +kernel⟩,
   ⟨((TN 3 1 {} [(F.SEAL_STATUS.flags 2, 32)]).wr64 (R.SEAL_FRAME 2) 2).wr64 (R.BEAM_TF 2) 100, 600000, 2, Z.drop 1, false,
     by decide +kernel⟩,
   ⟨((TN 3 1 ).wr64 (R.SEAL_FRAME 2) 2).wr64 (R.BEAM_TF 2) 100, 600000, 2, Z.drop 1, true, false, by decide +kernel⟩,
   ⟨((TN 3 1 ).wr64 (R.SEAL_FRAME 2) 2).wr64 (R.BEAM_TF 2) 100, 600000, 2, Z.drop 1, false, false, by decide +kernel⟩,
   ⟨TN 3 2, by decide +kernel⟩,
   ⟨TN 0 0, by decide +kernel⟩,
   ⟨TN 3 2 {armed := [{head := 2, cause := 3, frame := 9},{head := 2, cause := 4, frame := 9}]}, 2, {head := 2, cause := 3, frame := 9},
     by decide +kernel⟩,
   ⟨TN 3 2, 2, by decide +kernel⟩,
   ⟨TN 3 2 {net := 0}, 2, true, by decide +kernel⟩,
   ⟨TN 3 2 {net := 0}, 2, false, by decide +kernel⟩,
   ⟨TN 3 2 {}, by decide +kernel⟩,
   ⟨TN 2 1 {net := 0}, by decide +kernel⟩,
   ⟨TN 4 2 {joining := true, hold := true}, by decide +kernel⟩,
   ⟨TN 3 2 {journal := [{time := 6, input := .fieldLines 3 4},{time := 7, input := .fieldLines 3 4}]}, 6, 0,
     {time := 6, input := .fieldLines 3 4}, [{time := 7, input := .fieldLines 3 4}], by decide +kernel⟩,
   ⟨TN 3 2 {journal := [{time := 7, input := .fieldLines 3 4}]}, 6, 0, by decide +kernel⟩,
   ⟨TN 3 1, by decide +kernel⟩,
   ⟨TN 3 2, 6, 6, by decide +kernel⟩,
   ⟨TN 3 2, 6, 5, by decide +kernel⟩,
   ⟨TN 1 1, by decide +kernel⟩⟩

end TandemLockstep

namespace PelotonMembership

theorem witness :
    (∃ (s : State), (s.gs.pelotonRole = 0 ∨ s.forcedSolo = true ∨ s.pelLeads = false ∧ 1 < s.pelState)) ∧
    (∃ (s : State), s.gs.pelotonRole ≠ 0 ∧ s.forcedSolo = false ∧ s.pelLeads = true ∧ s.isShadow = false) ∧
    (∃ (s : State), let free := s.gs.pelotonRole ≠ 0 ∧ s.forcedSolo = false ∧ s.pelState < 2; free ∧ s.gs.pelotonRole = 2) ∧
    (∃ (s : State), let free := s.gs.pelotonRole ≠ 0 ∧ s.forcedSolo = false ∧ s.pelState < 2; free ∧ s.gs.pelotonRole ≠ 2 ∧
      s.isShadow = false) ∧
    (∃ (s : State) (q : JoinReq), s.pelLeads = true ∧ s.joinReason q = 0) ∧
    (∃ (s : State) (q : JoinReq), s.pelLeads = true ∧ s.joinReason q ≠ 0) ∧
    (∃ (s : State), s.pelLeads = false) ∧
    (∃ (s : State) (path : List Nat), let acts := s.isPrimary = false ∧ s.locked = false; acts ∧ s.pelState = 1 ∧
      path.length + (if s.rd F.TANDEM_STATUS.role = 0 then 2 else 3) ≤ 16) ∧
    (∃ (s : State) (path : List Nat), let acts := s.isPrimary = false ∧ s.locked = false; acts ∧ s.pelState = 1 ∧
      16 < path.length + (if s.rd F.TANDEM_STATUS.role = 0 then 2 else 3)) ∧
    (∃ (s : State) (path : List Nat), let acts := s.isPrimary = false ∧ s.locked = false; acts ∧ s.pelLeads = true ∧
      path.length + (if s.rd F.TANDEM_STATUS.role = 0 then 3 else 4) ≤ 16) ∧
    (∃ (s : State) (r : Nat), let acts := s.isPrimary = false ∧ s.locked = false; acts ∧ s.pelLeads = true ∧ r ≠ 0) ∧
    (∃ (s : State) (r : Nat), let acts := s.isPrimary = false ∧ s.locked = false; acts ∧ s.pelState = 1 ∧ r ≠ 0) ∧
    (∃ (s : State), let acts := s.isPrimary = false ∧ s.locked = false; acts ∧ s.pelState ≠ 1 ∧ s.pelLeads = false) ∧
    (∃ (s : State), s.pelState = 0) ∧
    (∃ (s : State), s.pelState = 1) ∧
    (∃ (s : State), 2 ≤ s.pelState) ∧
    (∃ (s : State) (t : Nat), let now := max s.now t;
      let beats := s.on F.ODO_STATUS.released = true ∧ s.gs.chipT0 ≤ now ∧ (now - s.gs.chipT0) % s.gs.chipTf = 0; beats ∧
      s.mayLead = true ∧ s.pelLeads = true) ∧
    (∃ (s : State), s.pelLeads = false ∧ 2 ≤ s.pelState) ∧
    (∃ (s : State) (t : Nat), let now := max s.now t;
      let beats := s.on F.ODO_STATUS.released = true ∧ s.gs.chipT0 ≤ now ∧ (now - s.gs.chipT0) % s.gs.chipTf = 0; (s.pelState < 2 ∨
      (s.pelLeads = true ∧ (s.mayLead = false ∨ ¬ beats)))) ∧
    (∃ (s : State) (handed : Bool), s.mayLead = true ∧ (handed = true ∨ 3 ≤ s.pel.missedBeats)) ∧
    (∃ (s : State) (handed : Bool), (s.mayLead = false ∨ handed = false ∧ s.pel.missedBeats < 3)) ∧
    (∃ (s : State) (i : Nat) (handed : Bool), let acts := s.isPrimary = false ∧ s.locked = false;
      let stands := if s.pelLeads = true then s.mayLead = true ∧ s.selfIndex < i else handed = false ∧ s.pel.missedBeats < 3 ∧ s.rd F.PEL_STATUS.leader < i; acts ∧
      s.pelState = 2 ∧ i ≠ s.selfIndex ∧ ¬ stands) ∧
    (∃ (s : State) (i : Nat) (handed : Bool), let acts := s.isPrimary = false ∧ s.locked = false;
      let stands := if s.pelLeads = true then s.mayLead = true ∧ s.selfIndex < i else handed = false ∧ s.pel.missedBeats < 3 ∧ s.rd F.PEL_STATUS.leader < i; acts ∧
      s.pelState = 2 ∧ i ≠ s.selfIndex ∧ stands) ∧
    (∃ (s : State) (m : Nat) (missed : List PelBundle), s.pelLeads = true ∧ (∃ x ∈ s.pel.members, x.index = m ∧ 3 ≤ x.missed)) ∧
    (∃ (s : State) (m : Nat) (missed : List PelBundle), (s.pelLeads = false ∨ (∀ x ∈ s.pel.members, x.index = m → x.missed < 3))) ∧
    (∃ (s : State), let acts := s.isPrimary = false ∧ s.locked = false; acts ∧ s.pelState = 3) ∧
    (∃ (s : State), let acts := s.isPrimary = false ∧ s.locked = false; acts ∧ s.pelState ≠ 3) ∧
    (∃ (s : State) (m : Nat), let acts := s.isPrimary = false ∧ s.locked = false; acts ∧ s.pelLeads = true ∧ m ≠ s.selfIndex) ∧
    (∃ (s : State) (i : Nat), i ≠ s.selfIndex) :=
  ⟨⟨PM 0 0 [] {} 0, by decide +kernel⟩,
   ⟨PM 2 2, by decide +kernel⟩,
   ⟨PM 0 0 [] {} 2, by decide +kernel⟩,
   ⟨PM 0 0 [] {}, by decide +kernel⟩,
   ⟨PM 2 2 [] {lastClosed := 6}, ⟨9,1,0,0,0,300,true,true⟩, by decide +kernel⟩,
   ⟨PM 2 2 SH {members := [{index := 3}], lastClosed := 6}, ⟨3,1,0,0,0,300,true,true⟩, by decide +kernel⟩,
   ⟨PM 2 1, by decide +kernel⟩,
   ⟨PM 1 0, [1,2,3,4,5,6,7,8,9,10,11,12,13,14], by decide +kernel⟩,
   ⟨PM 1 0, [1,2,3,4,5,6,7,8,9,10,11,12,13,14,15], by decide +kernel⟩,
   ⟨PM 2 2 [] {members := [{index := 3}]}, [1,2,3,4,5,6,7,8,9,10,11,12,13], by decide +kernel⟩,
   ⟨PM 2 2 [] {members := [{index := 3}]}, 18, by decide +kernel⟩,
   ⟨PM 1 0, 18, by decide +kernel⟩,
   ⟨PM 3 1, by decide +kernel⟩,
   ⟨PM 0 0 [] {joinAsked := true}, by decide +kernel⟩,
   ⟨PM 1 0 [] {joinAsked := true, members := [{index := 3}]}, by decide +kernel⟩,
   ⟨PM 2 2 [] {joinAsked := true, members := [{index := 3}]}, by decide +kernel⟩,
   ⟨PM 2 2 [(F.ODO_STATUS.time_state,0)] {members := [{index := 3}, {index := 4},{index := 7, offset := 10}]}, 300, by decide +kernel⟩,
   ⟨PM 3 1 [] {members := [{index := 3}], missedBeats := 2}, by decide +kernel⟩,
   ⟨PM 1 0, 6, by decide +kernel⟩,
   ⟨PM 2 1 [(F.ODO_STATUS.time_state,0)] {members := [{index := 3}], missedBeats := 3, prepared := some ⟨5,[],false,[],[],[]⟩}, false,
     by decide +kernel⟩,
   ⟨PM 2 1 [(F.ODO_STATUS.time_state,0)] {missedBeats := 2}, false, by decide +kernel⟩,
   ⟨PM 2 1 [] {missedBeats := 2}, 1030, true, by decide +kernel⟩,
   ⟨PM 2 2 [(F.ODO_STATUS.time_state,0)] {missedBeats := 2}, 8, false, by decide +kernel⟩,
   ⟨PM 2 2 [(F.PEL_STATUS.leader,7)] {members := [{index := 7},{index := 9, missed := 3}], owners := [(3,some 9),(4,some 8),(5,some 9)], words := [(3,[1,2,3,4,5,6,7,8])]},
     9, [], by decide +kernel⟩,
   ⟨PM 2 2 [] {members := [{index := 7},{index := 9, missed := 2}], owners := [(3,some 9),(4,some 8),(5,some 9)]}, 9, [],
     by decide +kernel⟩,
   ⟨PM 3 1 [] {words := [(3,[9])]}, by decide +kernel⟩,
   ⟨PM 2 1, by decide +kernel⟩,
   ⟨PM 2 2 [] {members := [{index := 3, inSet := false, missed := 6, behind := 1}], history := [⟨5,[],false,[],[],[]⟩,⟨6,[],false,[],[],[]⟩]},
     3, by decide +kernel⟩,
   ⟨PM 1 0, 3, by decide +kernel⟩⟩

end PelotonMembership

namespace PelotonBundles

def B5 : PelBundle := ⟨5,[],false,[],[],[]⟩
def LA (x : PelS) (l : List (Fld × Nat) := []) : State := {PM 2 2 l x with gs.chipTf := 100000000}

theorem witness :
    (∃ (s : State) (t : Nat) (b : PelBundle), let now := max s.now t; s.pelLeads = true ∧ now = s.closeAt b.frame) ∧
    (∃ (s : State) (t : Nat) (b : PelBundle), let now := max s.now t; (s.pelLeads = false ∨ now ≠ s.closeAt b.frame)) ∧
    (∃ (s : State), let acts := s.isPrimary = false ∧ s.locked = false; acts ∧ s.pelState = 2 ∧ s.pelRole = 1) ∧
    (∃ (s : State), let acts := s.isPrimary = false ∧ s.locked = false; acts ∧ (s.pelState ≠ 2 ∨ s.pelRole ≠ 1)) ∧
    (∃ (s : State) (t : Nat) (b : PelBundle), let now := max s.now t; s.pel.prepared = some b ∧ s.partReady b = true ∧
      now < s.decideAt b.frame) ∧
    (∃ (s : State) (t : Nat) (b : PelBundle), let now := max s.now t; s.pel.prepared = some b ∧ s.partReady b = true ∧
      s.decideAt b.frame ≤ now) ∧
    (∃ (s : State) (t : Nat) (f : Nat), let now := max s.now t; s.pel.prepared = none ∧ 2 ≤ s.pelState ∧ s.decideAt f ≤ now) ∧
    (∃ (s : State) (b : PelBundle), let ready := fun (x : PelMember) => x.inSet = false ∨ x.index ∈ s.pel.readySet; s.pel.prepared = some b ∧
      s.partReady b = false ∧ s.pel.ready = false) ∧
    (∃ (s : State) (t : Nat) (m : Nat) (f : Nat), let now := max s.now t; let self := s.selfIndex;
      let acts := s.isPrimary = false ∧ s.locked = false; acts ∧ m ≠ self ∧ s.pelLeads = true ∧ s.pel.closed.map (·.frame) = some f ∧
      now < s.decideAt f) ∧
    (∃ (s : State) (t : Nat) (m : Nat) (f : Nat), let now := max s.now t; let self := s.selfIndex;
      let acts := s.isPrimary = false ∧ s.locked = false; acts ∧ m ≠ self ∧ (s.pelLeads = false ∨ s.decideAt f ≤ now)) ∧
    (∃ (s : State) (t : Nat) (b : PelBundle), let now := max s.now t;
      let ready := fun (x : PelMember) => x.inSet = false ∨ x.index ∈ s.pel.readySet; s.pelLeads = true ∧ s.pel.closed = some b ∧
      now = s.decideAt b.frame ∧ (∀ x ∈ s.pel.members, ready x)) ∧
    (∃ (s : State) (t : Nat) (b : PelBundle), let now := max s.now t;
      let ready := fun (x : PelMember) => x.inSet = false ∨ x.index ∈ s.pel.readySet; s.pelLeads = true ∧ s.pel.closed = some b ∧
      now = s.decideAt b.frame ∧ (∃ x ∈ s.pel.members, ¬ ready x)) ∧
    (∃ (s : State) (t : Nat) (b : PelBundle), let now := max s.now t; (s.pelLeads = false ∨ s.pel.closed = none ∨
      (s.pel.closed = some b ∧ now ≠ s.decideAt b.frame))) ∧
    (∃ (s : State) (b : PelBundle), let ready := fun (x : PelMember) => x.inSet = false ∨ x.index ∈ s.pel.readySet;
      let acts := s.isPrimary = false ∧ s.locked = false; acts ∧ s.pel.prepared = some b ∧ s.pel.ready = true) ∧
    (∃ (s : State), let ready := fun (x : PelMember) => x.inSet = false ∨ x.index ∈ s.pel.readySet;
      let acts := s.isPrimary = false ∧ s.locked = false; acts ∧ s.pel.ready = false) ∧
    (∃ (s : State) (m : Nat) (f : Nat), let self := s.selfIndex; let acts := s.isPrimary = false ∧ s.locked = false; acts ∧ m ≠ self ∧
      s.pelLeads = true ∧ s.pel.waiting.map (·.frame) = some f) ∧
    (∃ (s : State), let acts := s.isPrimary = false ∧ s.locked = false; acts ∧ 2 ≤ s.pelState ∧ s.pelRole = 1) ∧
    (∃ (s : State), let acts := s.isPrimary = false ∧ s.locked = false; acts ∧ (s.pelState < 2 ∨ s.pelRole ≠ 1)) ∧
    (∃ (s : State) (t : Nat) (b : PelBundle), let now := max s.now t; s.pelState = 2 ∧ now = s.armAt b.frame ∧ s.pel.decided = some b) ∧
    (∃ (s : State) (t : Nat) (b : PelBundle), let now := max s.now t;
      let ready := fun (x : PelMember) => x.inSet = false ∨ x.index ∈ s.pel.readySet; s.pelState = 2 ∧ now = s.armAt b.frame ∧
      s.pel.decided = none ∧ s.pel.prepared = some b ∧ s.pel.ready = true) ∧
    (∃ (s : State) (t : Nat) (f : Nat) (w : Nat), let now := max s.now t; (s.pelState = 2 ∧ now = s.armAt f ∧ s.pel.decided = none ∧
      s.pel.prepared = none ∧ s.ownedSprites = [w]) ∧ s.Clean (s.wallSrc w) 32) ∧
    (∃ (s : State) (t : Nat) (f : Nat), let now := max s.now t; (s.pelState ≠ 2 ∨ now ≠ s.armAt f)) ∧
    (∃ (s : State) (t : Nat) (b : PelBundle), let now := max s.now t; s.pelLeads = true ∧ s.pel.waiting = some b ∧
      now = s.pelStart b.frame) ∧
    (∃ (s : State) (t : Nat) (b : PelBundle), let now := max s.now t; s.pelLeads = false ∧ s.pel.waiting = some b ∧
      now = s.pelStart b.frame) ∧
    (∃ (s : State) (t : Nat) (b : PelBundle), let now := max s.now t; (s.pel.waiting = none ∨ (s.pel.waiting = some b ∧
      now ≠ s.pelStart b.frame))) ∧
    (∃ (s : State) (m : Nat), let self := s.selfIndex; m ≠ self) :=
  ⟨⟨PM 2 2 [] {samples := [(3,[2]),(4,[3])], opened := [⟨4,[cmd0],true,[(3,[7]),(8,[8])],[(4,9),(5,6)],[(2,1)]⟩,⟨6,[],false,[],[],[]⟩]},
     1500, ⟨5,[cmd0],false,[(3,[1])],[(4,5)],[(6,1)]⟩, by decide +kernel⟩,
   ⟨PM 2 1, 6, ⟨5,[],false,[],[],[]⟩, by decide +kernel⟩,
   ⟨PM 2 1, by decide +kernel⟩,
   ⟨PM 3 1, by decide +kernel⟩,
   ⟨LA {prepared := some B5, closed := some B5}, 6, B5, by decide +kernel⟩,
   ⟨LA {prepared := some B5, closed := some B5}, 600000000, B5, by decide +kernel⟩,
   ⟨LA {}, 600000000, 5, by decide +kernel⟩,
   ⟨LA {prepared := some {B5 with apply := true}}, {B5 with apply := true}, by decide +kernel⟩,
   ⟨LA {closed := some B5}, 60, 3, 5, by decide +kernel⟩,
   ⟨LA {closed := some B5}, 600000000, 3, 5, by decide +kernel⟩,
   ⟨LA {closed := some B5, members := [{index := 7},{index := 8, inSet := false, behind := 3}], readySet := [7]}, 500000000, B5,
     by decide +kernel⟩,
   ⟨LA {closed := some B5, members := [{index := 7},{index := 8, retargets := 7},{index := 9, retargets := 200}], readySet := [7]} [(F.PEL_GUARD.max_retarget,3),(F.PEL_GUARD.decide_guard,2)],
     498812000, B5, by decide +kernel⟩,
   ⟨LA {}, 6, ⟨5,[],false,[],[],[]⟩, by decide +kernel⟩,
   ⟨LA {prepared := some B5, ready := true}, B5, by decide +kernel⟩,
   ⟨LA {prepared := some B5}, by decide +kernel⟩,
   ⟨LA {waiting := some B5}, 0, 5, by decide +kernel⟩,
   ⟨PM 2 1 [] {prepared := some B5, ready := true}, by decide +kernel⟩,
   ⟨PM 2 2, by decide +kernel⟩,
   ⟨{PM 2 2 [(F.BEAM_H.htotal 2,10)] {decided := some ⟨5,[cmd0],true,[(3,[1])],[(4,5),(9,7)],[(6,1)]⟩, members := [{index := 6}]} with gs.present := 16},
     1500, ⟨5,[cmd0],true,[(3,[1])],[(4,5),(9,7)],[(6,1)]⟩, by decide +kernel⟩,
   ⟨PM 2 1 [] {prepared := some B5, ready := true}, 1500, B5, by decide +kernel⟩,
   ⟨PM 2 1 [] {owners := [(4,some 7)], samples := [(4,[1]),(5,[2])]}, 300, 1, 4, by decide +kernel, clean_of (by decide +kernel)⟩,
   ⟨PM 3 1, 6, 0, by decide +kernel⟩,
   ⟨LA {waiting := some B5, members := [{index := 7},{index := 8},{index := 9}], acked := [9], owners := [(4,some 8)]}, 500000000, B5,
     by decide +kernel⟩,
   ⟨PM 2 1 [] {waiting := some B5, members := [{index := 7},{index := 8},{index := 9}], acked := [9]}, 1500, B5, by decide +kernel⟩,
   ⟨LA {waiting := some B5}, 1, B5, by decide +kernel⟩,
   ⟨PM 1 0, 3, by decide +kernel⟩⟩

end PelotonBundles

namespace EthernetFrames

def fr (dst ty : Nat) (pl : List Nat) (n : Nat := 60) : List Byte := ((natLe 6 dst).reverse ++ (natLe 6 0x010203040506).reverse ++ (natLe 2 ty).reverse ++ pl.map (BitVec.ofNat 8) ++ List.replicate n 0#8).take n
def pr (dst ty q lan : Nat) : List Byte := fr dst ty [] 60 ++ (natLe 2 q).reverse ++ (natLe 2 (lan * 4096 + 52)).reverse ++ [0x88#8,0xFB#8]
def E0 (l : List (Fld × Nat) := []) (x : EthS := {}) : State := put ([(F.ETH_CTRL.mtu 0,1518),(F.ETH_CTRL.mtu 1,1518),(F.ETH_MODE.untagged_en 0,1),(F.ETH_MODE.untagged_en 1,1)] ++ l) {eth := x}
def PRP : List (Fld × Nat) := [(F.ETH_MODE.prp 0,1),(F.ETH_MODE.prp 1,1)]
def SHA : List (Fld × Nat) := [(F.TANDEM_STATUS.role,2)]
def arp : List Byte := fr 0xFFFFFFFFFFFF 0x0806 [0,1,8,0,6,4,0,1]
def echo : List Byte := fr 0 0x0800 [0x45,0,0,0x1C,0,0,0,0,0x40,1,0x7A,0xE2,0,0,0,0,0,0,0,0,8]

theorem witness :
    (∃ (s : State) (p : Nat) (codeword : Bool) (fcs : Bool), let here := s.portPresent p = true; p < 2 ∧ here ∧ (codeword = true ∨
      fcs = false)) ∧
    (∃ (s : State) (p : Nat) (codeword : Bool) (fcs : Bool) (b : List Byte), let here := s.portPresent p = true; p < 2 ∧ here ∧
      codeword = false ∧ fcs = true ∧ (b.length < 60 ∨ s.rd (F.ETH_CTRL.mtu p) < b.length + 4)) ∧
    (∃ (s : State) (p : Nat) (codeword : Bool) (fcs : Bool) (b : List Byte), let f := parseFrame b; let here := s.portPresent p = true;
      let sized := here ∧ codeword = false ∧ fcs = true ∧ 60 ≤ b.length ∧ b.length + 4 ≤ s.rd (F.ETH_CTRL.mtu p); p < 2 ∧ sized ∧
      s.addressOk p f = false) ∧
    (∃ (s : State) (p : Nat) (codeword : Bool) (fcs : Bool) (b : List Byte), let f := parseFrame b; let here := s.portPresent p = true;
      let sized := here ∧ codeword = false ∧ fcs = true ∧ 60 ≤ b.length ∧ b.length + 4 ≤ s.rd (F.ETH_CTRL.mtu p); p < 2 ∧ sized ∧
      s.addressOk p f = true ∧ s.vlanOk p f = false) ∧
    (∃ (s : State) (p : Nat) (r : Nat) (codeword : Bool) (fcs : Bool) (b : List Byte), let f := parseFrame b;
      let here := s.portPresent p = true;
      let sized := here ∧ codeword = false ∧ fcs = true ∧ 60 ≤ b.length ∧ b.length + 4 ≤ s.rd (F.ETH_CTRL.mtu p);
      let taken := sized ∧ s.addressOk p f = true ∧ s.vlanOk p f = true;
      let plain := taken ∧ (s.on (F.ETH_MODE.prp p) = false ∨ f.type = 0x88F7 ∨ prpTrailer b = none); p < 2 ∧ plain ∧
      s.classify p f = .drop r) ∧
    (∃ (s : State) (p : Nat) (r : Nat) (codeword : Bool) (fcs : Bool) (room : Bool) (b : List Byte), let f := parseFrame b;
      let here := s.portPresent p = true;
      let sized := here ∧ codeword = false ∧ fcs = true ∧ 60 ≤ b.length ∧ b.length + 4 ≤ s.rd (F.ETH_CTRL.mtu p);
      let taken := sized ∧ s.addressOk p f = true ∧ s.vlanOk p f = true;
      let plain := taken ∧ (s.on (F.ETH_MODE.prp p) = false ∨ f.type = 0x88F7 ∨ prpTrailer b = none); (p < 2 ∧ plain ∧ room = false) ∧
      (∀ r, s.classify p f ≠ .drop r)) ∧
    (∃ (s : State) (p : Nat) (r : Nat) (codeword : Bool) (fcs : Bool) (room : Bool) (b : List Byte), let f := parseFrame b;
      let here := s.portPresent p = true;
      let sized := here ∧ codeword = false ∧ fcs = true ∧ 60 ≤ b.length ∧ b.length + 4 ≤ s.rd (F.ETH_CTRL.mtu p);
      let taken := sized ∧ s.addressOk p f = true ∧ s.vlanOk p f = true;
      let plain := taken ∧ (s.on (F.ETH_MODE.prp p) = false ∨ f.type = 0x88F7 ∨ prpTrailer b = none); (p < 2 ∧ plain ∧ room = true ∧
      s.classify p f ≠ .arp ∧ s.classify p f ≠ .echo) ∧ (∀ r, s.classify p f ≠ .drop r)) ∧
    (∃ (s : State) (p : Nat) (codeword : Bool) (fcs : Bool) (room : Bool) (b : List Byte), let f := parseFrame b;
      let here := s.portPresent p = true;
      let sized := here ∧ codeword = false ∧ fcs = true ∧ 60 ≤ b.length ∧ b.length + 4 ≤ s.rd (F.ETH_CTRL.mtu p);
      let taken := sized ∧ s.addressOk p f = true ∧ s.vlanOk p f = true;
      let plain := taken ∧ (s.on (F.ETH_MODE.prp p) = false ∨ f.type = 0x88F7 ∨ prpTrailer b = none); p < 2 ∧ plain ∧ room = true ∧
      s.classify p f = .arp ∧ s.isShadow = false) ∧
    (∃ (s : State) (p : Nat) (codeword : Bool) (fcs : Bool) (room : Bool) (b : List Byte), let f := parseFrame b;
      let here := s.portPresent p = true;
      let sized := here ∧ codeword = false ∧ fcs = true ∧ 60 ≤ b.length ∧ b.length + 4 ≤ s.rd (F.ETH_CTRL.mtu p);
      let taken := sized ∧ s.addressOk p f = true ∧ s.vlanOk p f = true;
      let plain := taken ∧ (s.on (F.ETH_MODE.prp p) = false ∨ f.type = 0x88F7 ∨ prpTrailer b = none); p < 2 ∧ plain ∧ room = true ∧
      (s.classify p f = .arp ∨ s.classify p f = .echo) ∧ s.isShadow = true) ∧
    (∃ (s : State) (t : Nat) (p : Nat) (codeword : Bool) (fcs : Bool) (room : Bool) (b : List Byte), let now := max s.now t;
      let f := parseFrame b; let here := s.portPresent p = true;
      let sized := here ∧ codeword = false ∧ fcs = true ∧ 60 ≤ b.length ∧ b.length + 4 ≤ s.rd (F.ETH_CTRL.mtu p);
      let taken := sized ∧ s.addressOk p f = true ∧ s.vlanOk p f = true;
      let plain := taken ∧ (s.on (F.ETH_MODE.prp p) = false ∨ f.type = 0x88F7 ∨ prpTrailer b = none); p < 2 ∧ plain ∧ room = true ∧
      s.classify p f = .echo ∧ s.isShadow = false ∧ ((mget (fun _ => (0, 0)) s.eth.answers p).1 = now / 5940000000) ∧
      (100 ≤ (mget (fun _ => (0, 0)) s.eth.answers p).2)) ∧
    (∃ (s : State) (t : Nat) (p : Nat) (codeword : Bool) (fcs : Bool) (room : Bool) (b : List Byte), let now := max s.now t;
      let f := parseFrame b; let here := s.portPresent p = true;
      let sized := here ∧ codeword = false ∧ fcs = true ∧ 60 ≤ b.length ∧ b.length + 4 ≤ s.rd (F.ETH_CTRL.mtu p);
      let taken := sized ∧ s.addressOk p f = true ∧ s.vlanOk p f = true;
      let plain := taken ∧ (s.on (F.ETH_MODE.prp p) = false ∨ f.type = 0x88F7 ∨ prpTrailer b = none); p < 2 ∧ plain ∧ room = true ∧
      s.classify p f = .echo ∧ s.isShadow = false ∧ ((mget (fun _ => (0, 0)) s.eth.answers p).1 = now / 5940000000) ∧
      (¬ (100 ≤ (mget (fun _ => (0, 0)) s.eth.answers p).2))) ∧
    (∃ (s : State) (t : Nat) (p : Nat) (q : Nat) (lan : Nat) (mac : Nat) (codeword : Bool) (fcs : Bool) (b : List Byte) (e : PrpEntry), let now := max s.now t;
      let f := parseFrame b; let here := s.portPresent p = true;
      let sized := here ∧ codeword = false ∧ fcs = true ∧ 60 ≤ b.length ∧ b.length + 4 ≤ s.rd (F.ETH_CTRL.mtu p);
      let taken := sized ∧ s.addressOk p f = true ∧ s.vlanOk p f = true;
      let tagged := taken ∧ s.on (F.ETH_MODE.prp p) = true ∧ f.type ≠ 0x88F7 ∧ prpTrailer b = some (q, lan);
      let known := s.eth.prp.filter fun x => decide (now < 5940 * 400000 + x.last); p < 2 ∧ tagged ∧ lan = 0xA + p ∧
      known.find? (·.mac == f.src) = some e ∧ e.seqs.contains q = true) ∧
    (∃ (s : State) (t : Nat) (p : Nat) (q : Nat) (lan : Nat) (mac : Nat) (codeword : Bool) (fcs : Bool) (b : List Byte) (e : PrpEntry), let now := max s.now t;
      let f := parseFrame b; let here := s.portPresent p = true;
      let sized := here ∧ codeword = false ∧ fcs = true ∧ 60 ≤ b.length ∧ b.length + 4 ≤ s.rd (F.ETH_CTRL.mtu p);
      let taken := sized ∧ s.addressOk p f = true ∧ s.vlanOk p f = true;
      let tagged := taken ∧ s.on (F.ETH_MODE.prp p) = true ∧ f.type ≠ 0x88F7 ∧ prpTrailer b = some (q, lan);
      let known := s.eth.prp.filter fun x => decide (now < 5940 * 400000 + x.last); p < 2 ∧ tagged ∧ lan = 0xA + p ∧
      known.find? (·.mac == f.src) = some e ∧ e.seqs.contains q = false) ∧
    (∃ (s : State) (t : Nat) (p : Nat) (q : Nat) (lan : Nat) (mac : Nat) (codeword : Bool) (fcs : Bool) (b : List Byte), let now := max s.now t;
      let f := parseFrame b; let here := s.portPresent p = true;
      let sized := here ∧ codeword = false ∧ fcs = true ∧ 60 ≤ b.length ∧ b.length + 4 ≤ s.rd (F.ETH_CTRL.mtu p);
      let taken := sized ∧ s.addressOk p f = true ∧ s.vlanOk p f = true;
      let tagged := taken ∧ s.on (F.ETH_MODE.prp p) = true ∧ f.type ≠ 0x88F7 ∧ prpTrailer b = some (q, lan);
      let known := s.eth.prp.filter fun x => decide (now < 5940 * 400000 + x.last); p < 2 ∧ tagged ∧ lan = 0xA + p ∧
      known.find? (·.mac == f.src) = none ∧ known.length < 2048) ∧
    (∃ (s : State) (t : Nat) (p : Nat) (q : Nat) (lan : Nat) (mac : Nat) (codeword : Bool) (fcs : Bool) (b : List Byte), let now := max s.now t;
      let f := parseFrame b; let here := s.portPresent p = true;
      let sized := here ∧ codeword = false ∧ fcs = true ∧ 60 ≤ b.length ∧ b.length + 4 ≤ s.rd (F.ETH_CTRL.mtu p);
      let taken := sized ∧ s.addressOk p f = true ∧ s.vlanOk p f = true;
      let tagged := taken ∧ s.on (F.ETH_MODE.prp p) = true ∧ f.type ≠ 0x88F7 ∧ prpTrailer b = some (q, lan);
      let known := s.eth.prp.filter fun x => decide (now < 5940 * 400000 + x.last); p < 2 ∧ tagged ∧ lan = 0xA + p ∧
      known.find? (·.mac == f.src) = none ∧ 2048 ≤ known.length) ∧
    (∃ (s : State) (p : Nat) (q : Nat) (lan : Nat) (codeword : Bool) (fcs : Bool) (b : List Byte), let f := parseFrame b;
      let here := s.portPresent p = true;
      let sized := here ∧ codeword = false ∧ fcs = true ∧ 60 ≤ b.length ∧ b.length + 4 ≤ s.rd (F.ETH_CTRL.mtu p);
      let taken := sized ∧ s.addressOk p f = true ∧ s.vlanOk p f = true;
      let tagged := taken ∧ s.on (F.ETH_MODE.prp p) = true ∧ f.type ≠ 0x88F7 ∧ prpTrailer b = some (q, lan); p < 2 ∧ tagged ∧
      lan ≠ 0xA + p) ∧
    (∃ (p : Nat), p < 2) ∧
    (∃ (s : State) (t : Nat) (p : Nat), let now := max s.now t; p < 2 ∧ s.on (F.ETH_MODE.prp 0) = true ∧ s.isShadow = false ∧
      5940 * 2000000 + s.eth.supervised ≤ now) ∧
    (∃ (s : State) (t : Nat) (p : Nat), let now := max s.now t; p < 2 ∧ (s.on (F.ETH_MODE.prp 0) = false ∨ s.isShadow = true ∨
      now < 5940 * 2000000 + s.eth.supervised)) ∧
    (∃ (s : State) (p : Nat) (up : Bool), p < 2 ∧ s.on (F.ETH_STATUS.link_up p) = up) ∧
    (∃ (s : State) (p : Nat) (up : Bool), let here := s.portPresent p = true; p < 2 ∧ here ∧ s.on (F.ETH_STATUS.link_up p) ≠ up) ∧
    (∃ (s : State) (p : Nat), let here := s.portPresent p = true; p < 2 ∧ here) ∧
    (∃ (s : State) (p : Nat), let here := s.portPresent p = true; p < 2 ∧ ¬ here) :=
  ⟨⟨E0, 0, true, false, by decide +kernel⟩,
   ⟨E0, 0, false, true, arp.take 59, by decide +kernel⟩,
   ⟨E0, 0, false, true, fr 1 0x88B8 [], by decide +kernel⟩,
   ⟨E0 [(F.ETH_MODE.untagged_en 0,0)], 0, false, true, fr 0 0x88B8 [], by decide +kernel⟩,
   ⟨E0, 0, 4, false, true, fr 0 0x88B9 [], by decide +kernel⟩,
   ⟨E0, 1, 0, false, true, false, arp, by decide +kernel, kept_of (by decide +kernel)⟩,
   ⟨E0, 1, 0, false, true, true, fr 0 0x88B8 [] 1514, by decide +kernel, kept_of (by decide +kernel)⟩,
   ⟨E0, 1, false, true, true, arp, by decide +kernel⟩,
   ⟨E0 SHA, 1, false, true, true, arp, by decide +kernel⟩,
   ⟨E0 [] {answers := [(1,(0,100))]}, 6, 1, false, true, true, echo, by decide +kernel⟩,
   ⟨E0 [] {answers := [(1,(0,99))]}, 6, 1, false, true, true, echo, by decide +kernel⟩,
   ⟨E0 PRP {prp := [⟨5,6,[]⟩,⟨0x010203040506,3,[8,7]⟩]}, 6, 1, 7, 0xB, 0, false, true, pr 0 0x88B8 7 0xB, ⟨0x010203040506,3,[8,7]⟩,
     by decide +kernel⟩,
   ⟨E0 PRP {prp := [⟨5,6,[]⟩,⟨0x010203040506,3,[8]⟩]}, 6, 1, 7, 0xB, 0, false, true, pr 0 0x88B8 7 0xB, ⟨0x010203040506,3,[8]⟩,
     by decide +kernel⟩,
   ⟨E0 PRP {prp := [⟨5,6,[]⟩]}, 6, 0, 7, 0xA, 0, false, true, pr 0 0x88B8 7 0xA, by decide +kernel⟩,
   ⟨E0 PRP {prp := List.replicate 2048 ⟨5,6,[]⟩}, 6, 0, 7, 0xA, 0, false, true, pr 0 0x88B8 7 0xA, by decide +kernel⟩,
   ⟨E0 PRP, 1, 7, 0xA, false, true, pr 0 0x88B8 7 0xA, by decide +kernel⟩,
   ⟨0, by decide +kernel⟩,
   ⟨E0 PRP {supervised := 3, prpSeq := 7}, 11880000003, 0, by decide +kernel⟩,
   ⟨E0 PRP {supervised := 4, prpSeq := 7}, 11880000003, 0, by decide +kernel⟩,
   ⟨E0, 0, false, by decide +kernel⟩,
   ⟨E0, 1, true, by decide +kernel⟩,
   ⟨E0 [(F.ETH_PTP_ASYM.asym 1,0xFFFFFFFE)], 1, by decide +kernel⟩,
   ⟨{E0 with gs.present := 2^71}, 1, by decide +kernel⟩⟩

end EthernetFrames

namespace OdometerTime

def OD (l : List (Fld × Nat) := []) (x : EthS := {}) : State := put ([(F.ODO_SERVO.slew_max,100)] ++ l) {eth := x}
def FO : List (Fld × Nat) := [(F.ETH_STATUS.followed 1,1)]
def RE : List (Fld × Nat) := [(F.ODO_STATUS.released,1)]
def Y (o : Int) (b : Bool := false) (base : Int := 0) (slew : Int := 0) : PtpSync := { port := 1, offset := o, gm := 77, inaccuracy := 3, better := b, utc := some 37, leap61 := true, leap59 := false, base := base, slew := slew }

theorem witness :
    (∃ (s : State) (p : Nat) (y : PtpSync), let here := s.portPresent p = true;
      let follows := y.better = true ∨ (s.on (F.ETH_STATUS.followed 0) = false ∧ s.on (F.ETH_STATUS.followed 1) = false); p < 2 ∧ here ∧
      y.port = p ∧ ¬ follows ∧ s.on (F.ETH_STATUS.followed p) = false) ∧
    (∃ (s : State) (p : Nat) (y : PtpSync), let here := s.portPresent p = true;
      let follows := y.better = true ∨ (s.on (F.ETH_STATUS.followed 0) = false ∧ s.on (F.ETH_STATUS.followed 1) = false); p < 2 ∧ here ∧
      y.port = p ∧ (follows ∨ s.on (F.ETH_STATUS.followed p) = true) ∧ (s.on F.ODO_STATUS.released = false ∨ s.twinSteers = true)) ∧
    (∃ (s : State) (p : Nat) (y : PtpSync), let here := s.portPresent p = true;
      let follows := y.better = true ∨ (s.on (F.ETH_STATUS.followed 0) = false ∧ s.on (F.ETH_STATUS.followed 1) = false); p < 2 ∧ here ∧
      y.port = p ∧ (follows ∨ s.on (F.ETH_STATUS.followed p) = true) ∧ s.on F.ODO_STATUS.released = true ∧ s.twinSteers = false ∧
      y.offset.natAbs ≤ 1000000000) ∧
    (∃ (s : State) (p : Nat) (y : PtpSync), let here := s.portPresent p = true;
      let follows := y.better = true ∨ (s.on (F.ETH_STATUS.followed 0) = false ∧ s.on (F.ETH_STATUS.followed 1) = false); p < 2 ∧ here ∧
      y.port = p ∧ (follows ∨ s.on (F.ETH_STATUS.followed p) = true) ∧ s.on F.ODO_STATUS.released = true ∧ s.twinSteers = false ∧
      1000000000 < y.offset.natAbs) ∧
    (∃ (s : State) (p : Nat) (y : PtpSync), let here := s.portPresent p = true; p < 2 ∧ y.port = p ∧ ¬ here) ∧
    (∃ (s : State) (p : Nat), p < 2 ∧ s.on F.ODO_STATUS.released = false) ∧
    (∃ (s : State) (p : Nat), p < 2 ∧ s.on F.ODO_STATUS.released = true) ∧
    (∃ (p : Nat), p < 2) ∧
    (∃ (s : State) (t : Nat) (p : Nat) (sec : Nat), let now := max s.now t;
      let leaps := s.on F.ODO_UTC.leap61 = true ∨ s.on F.ODO_UTC.leap59 = true;
      let goes : Int := signed 16 (s.rd F.ODO_UTC.utc_offset) + if s.on F.ODO_UTC.leap61 = true then 1 else -1; p < 2 ∧ leaps ∧
      now = 5940000000 * sec ∧ ((sec : Int) - goes) % 86400 = 0) ∧
    (∃ (s : State) (t : Nat) (p : Nat) (sec : Nat), let now := max s.now t;
      let leaps := s.on F.ODO_UTC.leap61 = true ∨ s.on F.ODO_UTC.leap59 = true;
      let goes : Int := signed 16 (s.rd F.ODO_UTC.utc_offset) + if s.on F.ODO_UTC.leap61 = true then 1 else -1; p < 2 ∧ (¬ leaps ∨
      now % 5940000000 ≠ 0 ∨ (now = 5940000000 * sec ∧ ((sec : Int) - goes) % 86400 ≠ 0))) ∧
    (∃ (s : State) (p : Nat), p < 2 ∧ s.on (F.ETH_STATUS.followed p) = true) ∧
    (∃ (s : State) (p : Nat), p < 2 ∧ s.on (F.ETH_STATUS.followed p) = false) :=
  ⟨⟨OD FO, 0, {Y 4 with port := 0}, by decide +kernel⟩,
   ⟨{OD RE with tandem.joining := true}, 1, Y (-51) true, by decide +kernel⟩,
   ⟨OD (FO++RE), 1, Y (-1000000000) false 100001 100005, by decide +kernel⟩,
   ⟨OD (FO++RE), 1, Y (1000000001) false 3 5, by decide +kernel⟩,
   ⟨{OD with gs.present := 2^71}, 1, Y 3, by decide +kernel⟩,
   ⟨OD [(F.ODO_STATUS.released,0)], 0, by decide +kernel⟩,
   ⟨OD RE, 0, by decide +kernel⟩,
   ⟨0, by decide +kernel⟩,
   ⟨OD [(F.ODO_UTC.leap61,1),(F.ODO_UTC.utc_offset,65535)], 513216000000000, 0, 86400, by decide +kernel⟩,
   ⟨OD RE, 6000, 0, 0, by decide +kernel⟩,
   ⟨OD (FO++[(F.ODO_STATUS.time_state,0),(F.ODO_UTC.from_gm,1)]) {good := 3, spans := [(5,-7)], utc := 35}, 1, by decide +kernel⟩,
   ⟨OD [], 1, by decide +kernel⟩⟩

end OdometerTime

namespace VertikRegistersAndMemory

theorem witness :
    (∃ (s : State) (c : VtkCmd), s.frontReady = some c ∧ knownCode c.code = false) ∧
    (∃ (s : State) (c : VtkCmd), s.frontReady = some c ∧ c.code = 0x00) ∧
    (∃ (s : State) (c : VtkCmd), s.frontReady = some c ∧ c.code = 0x01) ∧
    (∃ (s : State) (c : VtkCmd), s.frontReady = some c ∧ c.code = 0x10) ∧
    (∃ (s : State) (c : VtkCmd), s.frontReady = some c ∧ c.code = 0x11) ∧
    (∃ (s : State) (c : VtkCmd), s.frontReady = some c ∧ c.code = 0x12) ∧
    (∃ (s : State) (c : VtkCmd), let v := s.sess c.session; let a := leAt c.args 0 4; let n := leAt c.args 4 4; (s.frontReady = some c ∧
      c.code = 0x20 ∧ 32 + n ≤ s.bodyLimit v.port) ∧ s.Clean (a / 64 * 64) ((a + n + 63) / 64 * 64 - a / 64 * 64)) ∧
    (∃ (s : State) (c : VtkCmd), let v := s.sess c.session; let n := leAt c.args 4 4; s.frontReady = some c ∧ c.code = 0x20 ∧
      s.bodyLimit v.port < 32 + n) ∧
    (∃ (s : State) (c : VtkCmd), let a := leAt c.args 0 4; let bytes := c.args.drop 8; (s.frontReady = some c ∧ c.code = 0x21 ∧ (∀ i,
      i < bytes.length → s.admits 71 (a + i) = true ∧ s.ingestOwned (a + i) = false) ∧ s.vtkAdmits a bytes.length = true) ∧
      s.Clean a bytes.length) ∧
    (∃ (s : State) (c : VtkCmd), let a := leAt c.args 0 4; let bytes := c.args.drop 8; s.frontReady = some c ∧ c.code = 0x21 ∧
      s.vtkAdmits a bytes.length = false) ∧
    (∃ (s : State) (c : VtkCmd), let a := leAt c.args 0 4; let n := leAt c.args 4 4;
      let filled := (List.replicate (n / 4) (slice c.args 8 4)).flatten; (s.frontReady = some c ∧ c.code = 0x22 ∧ (∀ i,
      i < filled.length → s.admits 71 (a + i) = true ∧ s.ingestOwned (a + i) = false) ∧ s.vtkAdmits a filled.length = true) ∧
      s.Clean a filled.length) ∧
    (∃ (s : State) (c : VtkCmd), let a := leAt c.args 0 4; let n := leAt c.args 4 4;
      let filled := (List.replicate (n / 4) (slice c.args 8 4)).flatten; s.frontReady = some c ∧ c.code = 0x22 ∧
      s.vtkAdmits a filled.length = false) :=
  ⟨⟨V0 (VC 0x99), VC 0x99, by decide +kernel⟩,
   ⟨V0 (VC 0) [] {badTag := 3}, VC 0, by decide +kernel⟩,
   ⟨V0 (VC 1) [] {badTag := 3}, VC 1, by decide +kernel⟩,
   ⟨V0 (VC 0x10 (A4 [0x403e0000,3])), VC 0x10 (A4 [0x403e0000,3]), by decide +kernel⟩,
   ⟨V0 (VC 0x11 (A4 [0x403e0000,3,1,2,3])), VC 0x11 (A4 [0x403e0000,3,1,2,3]), by decide +kernel⟩,
   ⟨V0 (VC 0x12 (A4 [0x41000000,3,1])), VC 0x12 (A4 [0x41000000,3,1]), by decide +kernel⟩,
   ⟨{V0 (VC 0x20 (A4 [60,12])) with hub.mem := memOf [(60,[1#8,2#8,3#8,4#8,5#8,6#8])]}, VC 0x20 (A4 [60,12]),
     by decide +kernel, clean_of (by decide +kernel)⟩,
   ⟨V0 (VC 0x20 (A4 [60,1339])), VC 0x20 (A4 [60,1339]), by decide +kernel⟩,
   ⟨V0 (VC 0x21 (A4 [63,3] ++ [1#8,2#8,3#8])), VC 0x21 (A4 [63,3] ++ [1#8,2#8,3#8]), by decide +kernel, clean_of (by decide +kernel)⟩,
   ⟨{V0 (VC 0x21 (A4 [63,3] ++ [1#8,2#8,3#8])) with hub.regions := []}, VC 0x21 (A4 [63,3] ++ [1#8,2#8,3#8]), by decide +kernel⟩,
   ⟨V0 (VC 0x22 (A4 [0x100000,64,0x01020304])), VC 0x22 (A4 [0x100000,64,0x01020304]), by decide +kernel, clean_of (by decide +kernel)⟩,
   ⟨{V0 (VC 0x22 (A4 [64,64,0x01020304])) with hub.regions := []}, VC 0x22 (A4 [64,64,0x01020304]), by decide +kernel⟩⟩

end VertikRegistersAndMemory

namespace VertikPointsHeadsGroupset

def HV (c : VtkCmd) (l : List (Fld × Nat) := []) : State := {V0 c ([(F.BEAM_N.n_div 2, 40),(F.BEAM_H.htotal 2, 10),(F.BEAM_H.hactive 2, 8),(F.BEAM_V.vactive 2, 4),(F.BEAM_V.vtotal 2, 6),(F.TX_STATUS.state 2, 1)] ++ l) with gs.present := 2^4}
def GV (c : VtkCmd) (g : Nat) (x : GsS := {}) : State := {V0 c [(F.GS_STATUS.state,g)] with gs := x}
def FV (n : Nat) : VtkCmd := VC 0x52 [] [] true 7 n

theorem witness :
    (∃ (s : State) (c : VtkCmd), s.frontReady = some c ∧ c.code = 0x30) ∧
    (∃ (s : State) (c : VtkCmd), s.frontReady = some c ∧ c.code = 0x31) ∧
    (∃ (s : State) (c : VtkCmd), s.frontReady = some c ∧ c.code = 0x32) ∧
    (∃ (s : State) (c : VtkCmd), let a := leAt c.args 0 4; (s.frontReady = some c ∧ c.code = 0x33 ∧ s.pointOff a % 8 = 0) ∧
      s.Clean (s.pointOff a) 32) ∧
    (∃ (s : State) (h : Nat) (c : VtkCmd), s.frontReady = some c ∧ c.code = 0x40 ∧ s.pathHead c = some h) ∧
    (∃ (s : State) (h : Nat) (c : VtkCmd), s.frontReady = some c ∧ c.code = 0x41 ∧ s.pathHead c = some h) ∧
    (∃ (s : State) (c : VtkCmd), let a := leAt c.args 0 4; let n := (c.args.length - 4) / 4; s.frontReady = some c ∧ c.code = 0x50 ∧
      s.gsBusy = false ∧ a / 4 + n ≤ stageWords ∧ 0 < n) ∧
    (∃ (s : State) (c : VtkCmd), let a := leAt c.args 0 4; let n := (c.args.length - 4) / 4; s.frontReady = some c ∧ c.code = 0x50 ∧
      (s.gsBusy = true ∨ stageWords < a / 4 + n ∨ stageWords ≤ a / 4)) ∧
    (∃ (s : State) (c : VtkCmd), s.frontReady = some c ∧ c.code = 0x51 ∧ s.gs.staged = true ∧ (s.gsState = 1 ∨ s.gsState = 3)) ∧
    (∃ (s : State) (c : VtkCmd), s.frontReady = some c ∧ c.code = 0x51 ∧ s.gsState = 2) ∧
    (∃ (s : State) (c : VtkCmd), s.frontReady = some c ∧ c.code = 0x51 ∧ s.gsState ≠ 2 ∧ (s.gs.staged = false ∨ s.gsState ≠ 1 ∧
      s.gsState ≠ 3)) ∧
    (∃ (s : State) (c : VtkCmd), s.frontReady = some c ∧ c.code = 0x52 ∧ (s.gsState = 0 ∨ s.gsState = 5)) ∧
    (∃ (s : State) (c : VtkCmd), s.frontReady = some c ∧ c.code = 0x52 ∧ s.gsState ≠ 0 ∧ s.gsState ≠ 5 ∧ s.applyRival c = none) ∧
    (∃ (s : State) (t : Nat) (c : VtkCmd) (d : VtkCmd), let s0 : State := { s.at t with vtk.ready := s.vtk.ready.erase c }; s.frontReady = some c ∧
      c.code = 0x52 ∧ s.gsState ≠ 0 ∧ s.gsState ≠ 5 ∧ s.applyRival c = some d ∧ s0.beats c d (s.prioOf c.session) (s.prioOf d.session) ⟨4,
      0, 1⟩ = true) ∧
    (∃ (s : State) (t : Nat) (c : VtkCmd) (d : VtkCmd), let s0 : State := { s.at t with vtk.ready := s.vtk.ready.erase c }; s.frontReady = some c ∧
      c.code = 0x52 ∧ s.gsState ≠ 0 ∧ s.gsState ≠ 5 ∧ s.applyRival c = some d ∧
      ¬ (s0.beats c d (s.prioOf c.session) (s.prioOf d.session) ⟨4, 0, 1⟩ = true)) ∧
    (∃ (s : State) (c : VtkCmd), let late := s.gsState ≠ 0 ∧ (s.gsState = 5 ∧ s.gs.swapped ≠ [] ∨ s.gs.rollback = true); s.frontReady = some c ∧
      c.code = 0x53 ∧ late) ∧
    (∃ (s : State) (c : VtkCmd), let late := s.gsState ≠ 0 ∧ (s.gsState = 5 ∧ s.gs.swapped ≠ [] ∨ s.gs.rollback = true); s.frontReady = some c ∧
      c.code = 0x53 ∧ ¬ late) :=
  ⟨⟨{V0 (VC 0x30) with clock.stopped := true, ing.queue := [.vertik (VC 0) 0,.supervision 9 5 []]}, VC 0x30, by decide +kernel⟩,
   ⟨{V0 (VC 0x31) with ing.queue := List.replicate 512 (.supervision 9 5 [])}, VC 0x31, by decide +kernel⟩,
   ⟨{V0 (VC 0x32 [] [] true 8) with ing.queue := List.replicate 512 (.supervision 9 5 [])}, VC 0x32 [] [] true 8, by decide +kernel⟩,
   ⟨V0 (VC 0x33 (A4 [5])), VC 0x33 (A4 [5]), by decide +kernel, clean_of (by decide +kernel)⟩,
   ⟨HV (VC 0x40 [] [0,2]), 2, VC 0x40 [] [0,2], by decide +kernel⟩,
   ⟨HV (VC 0x41 (A4 [0]) [0,2]), 2, VC 0x41 (A4 [0]) [0,2], by decide +kernel⟩,
   ⟨GV (VC 0x50 (A4 [0,1,2,3])) 1 {staging := [(7,7#32),(8,8#32)]}, VC 0x50 (A4 [0,1,2,3]), by decide +kernel⟩,
   ⟨GV (VC 0x50 (A4 [6291452,1,2])) 0, VC 0x50 (A4 [6291452,1,2]), by decide +kernel⟩,
   ⟨GV (VC 0x51) 3 {staged := true}, VC 0x51, by decide +kernel⟩,
   ⟨GV (VC 0x51) 2, VC 0x51, by decide +kernel⟩,
   ⟨GV (VC 0x51) 1, VC 0x51, by decide +kernel⟩,
   ⟨GV (VC 0x52) 5, VC 0x52, by decide +kernel⟩,
   ⟨GV (VC 0x52) 3, VC 0x52, by decide +kernel⟩,
   ⟨{GV (FV 5) 4 with vtk.gsWait := [FV 6]}, 6, FV 5, FV 6, by decide +kernel⟩,
   ⟨{GV (FV 5) 4 with vtk.gsWait := [FV 4]}, 6, FV 5, FV 4, by decide +kernel⟩,
   ⟨GV (VC 0x53) 5 {swapped := [⟨3,2⟩]}, VC 0x53, by decide +kernel⟩,
   ⟨GV (VC 0x53) 5 {toSwap := [⟨3,2⟩], staging := [(4,4#32)]}, VC 0x53, by decide +kernel⟩⟩

end VertikPointsHeadsGroupset

namespace VertikLeasesAndSessions

def LSs (l : List Lease) (code : Nat) (a : List Nat) (path : List Nat := []) : State := {V0 (VC code (A4 a) path) with vtk.leases := l, vtk.nextLease := 4294967295}
def L1 : Lease := ⟨3,5,[0],true,100⟩
def L2 : Lease := ⟨4,6,[0,2],true,100⟩

theorem witness :
    (∃ (s : State) (t : Nat) (c : VtkCmd) (p : List Nat) (l : Lease), let now := max s.now t;
      let live := s.vtk.leases.filter fun l => decide (now < l.ends);
      let mine := fun (code : Nat) => s.frontReady = some c ∧ c.code = code;
      let held := live.any (fun l => l.session != c.session && pathsMeet l.path p) = true;
      let full := 256 ≤ live.length ∨ 16 ≤ (live.filter (·.session == c.session)).length; mine 0x60 ∧ s.leasePath c = some p ∧ ¬ held ∧
      ¬ full) ∧
    (∃ (s : State) (t : Nat) (c : VtkCmd) (p : List Nat) (l : Lease), let now := max s.now t;
      let live := s.vtk.leases.filter fun l => decide (now < l.ends);
      let mine := fun (code : Nat) => s.frontReady = some c ∧ c.code = code;
      let held := live.any (fun l => l.session != c.session && pathsMeet l.path p) = true; mine 0x60 ∧ s.leasePath c = some p ∧ held) ∧
    (∃ (s : State) (t : Nat) (c : VtkCmd) (p : List Nat) (l : Lease), let now := max s.now t;
      let live := s.vtk.leases.filter fun l => decide (now < l.ends);
      let mine := fun (code : Nat) => s.frontReady = some c ∧ c.code = code;
      let held := live.any (fun l => l.session != c.session && pathsMeet l.path p) = true;
      let full := 256 ≤ live.length ∨ 16 ≤ (live.filter (·.session == c.session)).length; mine 0x60 ∧ s.leasePath c = some p ∧ ¬ held ∧
      full) ∧
    (∃ (s : State) (c : VtkCmd), let mine := fun (code : Nat) => s.frontReady = some c ∧ c.code = code; mine 0x60 ∧
      s.leasePath c = none) ∧
    (∃ (s : State) (t : Nat) (c : VtkCmd) (l : Lease), let s0 : State := { s.at t with vtk.ready := s.vtk.ready.erase c };
      let mine := fun (code : Nat) => s.frontReady = some c ∧ c.code = code; mine 0x61 ∧ s0.ownLease c = some l) ∧
    (∃ (s : State) (t : Nat) (c : VtkCmd), let s0 : State := { s.at t with vtk.ready := s.vtk.ready.erase c };
      let mine := fun (code : Nat) => s.frontReady = some c ∧ c.code = code; mine 0x61 ∧ s0.ownLease c = none) ∧
    (∃ (s : State) (t : Nat) (c : VtkCmd) (l : Lease), let s0 : State := { s.at t with vtk.ready := s.vtk.ready.erase c };
      let mine := fun (code : Nat) => s.frontReady = some c ∧ c.code = code; mine 0x62 ∧ s0.ownLease c = some l) ∧
    (∃ (s : State) (t : Nat) (c : VtkCmd), let s0 : State := { s.at t with vtk.ready := s.vtk.ready.erase c };
      let mine := fun (code : Nat) => s.frontReady = some c ∧ c.code = code; mine 0x62 ∧ s0.ownLease c = none) ∧
    (∃ (s : State) (c : VtkCmd), let mine := fun (code : Nat) => s.frontReady = some c ∧ c.code = code; mine 0x70 ∧ c.session < 64) ∧
    (∃ (s : State) (t : Nat) (n : Nat), let now := max s.now t; s.sessState n = 2 ∧ (s.sess n).challenge.isSome = true ∧
      (s.sess n).next = (s.sess n).unlockSeq + 1 ∧ 5940 * 100000 + (s.sess n).unlockAt ≤ now) ∧
    (∃ (s : State) (t : Nat) (n : Nat), let now := max s.now t; ((s.sess n).challenge = none ∨
      now < 5940 * 100000 + (s.sess n).unlockAt)) ∧
    (∃ (s : State) (t : Nat) (n : Nat), let now := max s.now t; s.sessState n = 1 ∧ 5940 * 1000000 + (s.sess n).helloAt ≤ now) ∧
    (∃ (s : State) (t : Nat) (n : Nat), let now := max s.now t; (s.sessState n ≠ 1 ∨ now < 5940 * 1000000 + (s.sess n).helloAt)) ∧
    (∃ (s : State) (t : Nat) (n : Nat), let now := max s.now t; s.sessState n = 2 ∧ 5940 * 10000000 + (s.sess n).lastCommand ≤ now) ∧
    (∃ (s : State) (t : Nat) (n : Nat), let now := max s.now t; (s.sessState n ≠ 2 ∨ now < 5940 * 10000000 + (s.sess n).lastCommand)) :=
  ⟨⟨LSs [L1,{L2 with ends := 6}] 0x60 [7,1], 6, VC 0x60 (A4 [7,1]), [0], ⟨0,0,[],false,0⟩, by decide +kernel⟩,
   ⟨LSs [L1,L2] 0x60 [7,1], 6, VC 0x60 (A4 [7,1]), [0], ⟨0,0,[],false,0⟩, by decide +kernel⟩,
   ⟨LSs (List.replicate 16 L1) 0x60 [7,1], 6, VC 0x60 (A4 [7,1]), [0], ⟨0,0,[],false,0⟩, by decide +kernel⟩,
   ⟨LSs [] 0x60 [7,1] [1], VC 0x60 (A4 [7,1]) [1], by decide +kernel⟩,
   ⟨LSs [L2,L1] 0x61 [3,9], 6, VC 0x61 (A4 [3,9]), L1, by decide +kernel⟩,
   ⟨LSs [L2,L1] 0x61 [4,9], 6, VC 0x61 (A4 [4,9]), by decide +kernel⟩,
   ⟨LSs [L2,L1] 0x62 [3], 6, VC 0x62 (A4 [3]), L1, by decide +kernel⟩,
   ⟨LSs [L2,L1] 0x62 [4], 6, VC 0x62 (A4 [4]), by decide +kernel⟩,
   ⟨LSs [] 0x70 [], VC 0x70, by decide +kernel⟩,
   ⟨V0 (VC 0) [] {challenge := some [1#8], unlockSeq := 5}, 594000000, 5, by decide +kernel⟩,
   ⟨V0 (VC 0) [] {challenge := some [1#8], unlockSeq := 5}, 593999999, 5, by decide +kernel⟩,
   ⟨V0 (VC 0) [(F.VTK_SESSION.state 5, 1)] {}, 5940000000, 5, by decide +kernel⟩,
   ⟨V0 (VC 0) [(F.VTK_SESSION.state 5, 1)] {helloAt := 1}, 5940000000, 5, by decide +kernel⟩,
   ⟨{V0 (VC 0) with vtk.leases := [L1,L2]}, 59400000000, 5, by decide +kernel⟩,
   ⟨{V0 (VC 0) [] {lastCommand := 1} with vtk.leases := [L1,L2]}, 59400000000, 5, by decide +kernel⟩⟩

end VertikLeasesAndSessions

namespace VertikMessages

def MG (kind n seq : Nat) (b : List Byte) (tag : Nat) : List Byte :=
  [0x56#8,0x4B#8,1#8,BitVec.ofNat 8 kind] ++ natLe 2 n ++ natLe 2 0 ++ natLe 8 seq ++ natLe 4 b.length ++ natLe 4 0 ++ natLe 8 0 ++ natLe 8 0 ++ b ++ natLe 32 tag
def CB (code : Nat) (args : List Byte := []) (flags frame : Nat := 0) (path : List Nat := []) : List Byte :=
  natLe 1 code ++ natLe 1 flags ++ natLe 6 0 ++ natLe 8 frame ++ ((path ++ List.replicate 16 0xFFFF).take 16).flatMap (natLe 2) ++ args
def MS (v : VSession) (l : List (Fld × Nat) := []) (s : State := {}) : State := put ([(F.VTK_CTRL.enable,1),(F.VTK_SESSION.state 5,2),(F.ETH_CTRL.mtu 0,1518)] ++ l) {s with vtk.sessions := [(5,v)]}
def HEL : List Byte := MG 0 0xFFFF 0 (List.replicate 64 0#8) 0

theorem witness :
    (∃ (s : State) (p : Nat) (m : List Byte) (key : Option (List Byte)) (k : Nat), let b := msgBody m;
      let holds := s.locked = true ∧ s.isShadow = true;
      let good := s.messageFault p m = none ∧ s.isPrimary = false ∧ ¬ holds; kindRow m = 0 ∧ good ∧ s.helloOpen = true ∧
      s.isShadow = false ∧ s.sessionSlot (leAt b 48 1) = some key ∧ s.freeSessionNumber = some k) ∧
    (∃ (s : State) (p : Nat) (m : List Byte), let b := msgBody m; let holds := s.locked = true ∧ s.isShadow = true;
      let good := s.messageFault p m = none ∧ s.isPrimary = false ∧ ¬ holds; kindRow m = 0 ∧ good ∧ (s.helloOpen = false ∨
      s.sessionSlot (leAt b 48 1) = none ∨ s.freeSessionNumber = none)) ∧
    (∃ (s : State) (t : Nat) (p : Nat) (m : List Byte), let now := max s.now t; let n := msgSession m; let v := s.sess n;
      let holds := s.locked = true ∧ s.isShadow = true;
      let good := s.messageFault p m = none ∧ s.isPrimary = false ∧ ¬ holds; kindRow m = 2 ∧ good ∧ 5940 * 1000000 + v.helloAt < now) ∧
    (∃ (s : State) (t : Nat) (p : Nat) (m : List Byte), let now := max s.now t; let n := msgSession m; let seq := msgSeq m;
      let b := msgBody m; let v := s.sess n; let holds := s.locked = true ∧ s.isShadow = true;
      let good := s.messageFault p m = none ∧ s.isPrimary = false ∧ ¬ holds; kindRow m = 2 ∧ good ∧ now ≤ 5940 * 1000000 + v.helloAt ∧
      s.isShadow = false ∧ (seq = 0 ∧ s.hostSigned n b = true)) ∧
    (∃ (s : State) (t : Nat) (p : Nat) (m : List Byte), let now := max s.now t; let n := msgSession m; let seq := msgSeq m;
      let b := msgBody m; let v := s.sess n; let holds := s.locked = true ∧ s.isShadow = true;
      let good := s.messageFault p m = none ∧ s.isPrimary = false ∧ ¬ holds; kindRow m = 2 ∧ good ∧ now ≤ 5940 * 1000000 + v.helloAt ∧
      s.isShadow = false ∧ (¬ (seq = 0 ∧ s.hostSigned n b = true))) ∧
    (∃ (s : State) (p : Nat) (m : List Byte), let holds := s.locked = true ∧ s.isShadow = true;
      let good := s.messageFault p m = none ∧ s.isPrimary = false ∧ ¬ holds; kindRow m = 7 ∧ good) ∧
    (∃ (s : State) (p : Nat) (m : List Byte) (q : Nat × List Byte), let n := msgSession m; let seq := msgSeq m; let v := s.sess n;
      let holds := s.locked = true ∧ s.isShadow = true;
      let good := s.messageFault p m = none ∧ s.isPrimary = false ∧ ¬ holds; kindRow m = 4 ∧ good ∧ seq < v.next ∧
      v.stored.find? (·.1 == seq) = some q ∧ s.isShadow = false) ∧
    (∃ (s : State) (p : Nat) (m : List Byte), let n := msgSession m; let seq := msgSeq m; let v := s.sess n;
      let holds := s.locked = true ∧ s.isShadow = true;
      let good := s.messageFault p m = none ∧ s.isPrimary = false ∧ ¬ holds; kindRow m = 4 ∧ good ∧ seq < v.next ∧
      v.stored.find? (·.1 == seq) = none) ∧
    (∃ (s : State) (p : Nat) (m : List Byte), let n := msgSession m; let seq := msgSeq m; let v := s.sess n;
      let holds := s.locked = true ∧ s.isShadow = true;
      let good := s.messageFault p m = none ∧ s.isPrimary = false ∧ ¬ holds; kindRow m = 4 ∧ good ∧ v.next < seq) ∧
    (∃ (s : State) (p : Nat) (m : List Byte), let n := msgSession m; let seq := msgSeq m; let v := s.sess n;
      let holds := s.locked = true ∧ s.isShadow = true;
      let good := s.messageFault p m = none ∧ s.isPrimary = false ∧ ¬ holds; kindRow m = 4 ∧ good ∧ seq = v.next ∧ s.credit n = 0) ∧
    (∃ (s : State) (p : Nat) (m : List Byte), let n := msgSession m; let seq := msgSeq m; let v := s.sess n;
      let holds := s.locked = true ∧ s.isShadow = true;
      let good := s.messageFault p m = none ∧ s.isPrimary = false ∧ ¬ holds; kindRow m = 4 ∧ good ∧ seq = v.next ∧ s.credit n ≠ 0) ∧
    (∃ (s : State) (t : Nat) (p : Nat) (m : List Byte), let now := max s.now t; let n := msgSession m; let seq := msgSeq m;
      let b := msgBody m; let v := s.sess n; let c := parseCommand n seq (nsOf now) b; let holds := s.locked = true ∧ s.isShadow = true;
      let good := s.messageFault p m = none ∧ s.isPrimary = false ∧ ¬ holds; kindRow m = 4 ∧ good ∧ seq = v.next ∧ s.credit n ≠ 0 ∧
      knownCode c.code = false) ∧
    (∃ (s : State) (t : Nat) (p : Nat) (st : Nat) (d : Nat) (m : List Byte), let now := max s.now t; let n := msgSession m;
      let seq := msgSeq m; let b := msgBody m; let v := s.sess n; let kept := (s.at t).archiveInput 2 (nsOf now) b;
      let c := parseCommand n seq (nsOf now) b; let x := (kept.consumeSeq n seq).spendChallenge c;
      let holds := s.locked = true ∧ s.isShadow = true;
      let good := s.messageFault p m = none ∧ s.isPrimary = false ∧ ¬ holds; kindRow m = 4 ∧ good ∧ seq = v.next ∧ s.credit n ≠ 0 ∧
      knownCode c.code = true ∧ x.acceptFault c (commandBitsOk b) = some (st, d)) ∧
    (∃ (s : State) (t : Nat) (p : Nat) (m : List Byte) (rel : List Nat) (group : Bool), let now := max s.now t; let n := msgSession m;
      let seq := msgSeq m; let b := msgBody m; let v := s.sess n; let kept := (s.at t).archiveInput 2 (nsOf now) b;
      let c := parseCommand n seq (nsOf now) b; let x := (kept.consumeSeq n seq).spendChallenge c;
      let holds := s.locked = true ∧ s.isShadow = true;
      let good := s.messageFault p m = none ∧ s.isPrimary = false ∧ ¬ holds; kindRow m = 4 ∧ good ∧ seq = v.next ∧ s.credit n ≠ 0 ∧
      knownCode c.code = true ∧ x.acceptFault c (commandBitsOk b) = none ∧ x.resolve c.code c.path = .own rel group ∧
      maintenance c.code = true) ∧
    (∃ (s : State) (t : Nat) (p : Nat) (m : List Byte) (rel : List Nat) (group : Bool), let now := max s.now t; let n := msgSession m;
      let seq := msgSeq m; let b := msgBody m; let v := s.sess n; let kept := (s.at t).archiveInput 2 (nsOf now) b;
      let c := parseCommand n seq (nsOf now) b; let x := (kept.consumeSeq n seq).spendChallenge c;
      let holds := s.locked = true ∧ s.isShadow = true;
      let good := s.messageFault p m = none ∧ s.isPrimary = false ∧ ¬ holds; kindRow m = 4 ∧ good ∧ seq = v.next ∧ s.credit n ≠ 0 ∧
      knownCode c.code = true ∧ x.acceptFault c (commandBitsOk b) = none ∧ x.resolve c.code c.path = .own rel group ∧
      maintenance c.code = false ∧ c.framed = false) ∧
    (∃ (s : State) (t : Nat) (p : Nat) (m : List Byte) (rel : List Nat) (group : Bool), let now := max s.now t; let n := msgSession m;
      let seq := msgSeq m; let b := msgBody m; let v := s.sess n; let kept := (s.at t).archiveInput 2 (nsOf now) b;
      let c := parseCommand n seq (nsOf now) b; let x := (kept.consumeSeq n seq).spendChallenge c;
      let holds := s.locked = true ∧ s.isShadow = true;
      let good := s.messageFault p m = none ∧ s.isPrimary = false ∧ ¬ holds; kindRow m = 4 ∧ good ∧ seq = v.next ∧ s.credit n ≠ 0 ∧
      knownCode c.code = true ∧ x.acceptFault c (commandBitsOk b) = none ∧ x.resolve c.code c.path = .own rel group ∧
      maintenance c.code = false ∧ c.framed = true ∧ c.code ≠ 0x52) :=
  ⟨⟨{MS {} with sec.openProv := true}, 0, HEL, none, 0, by decide +kernel⟩,
   ⟨MS {}, 0, HEL, by decide +kernel⟩,
   ⟨MS {helloAt := 6} [(F.VTK_SESSION.state 5,1)], 5940000007, 0,
     MG 2 5 0 (List.replicate 64 0#8) 0x88389B0DBBAED24522BF4D20906852A8331ACC5DAE9C33CEDE661DCCA60D4A53, by decide +kernel⟩,
   ⟨{MS {helloAt := 6, next := 4} [(F.VTK_SESSION.state 5,1)] with sec.openProv := true}, 5940000006, 0,
     MG 2 5 0 (List.replicate 96 0#8) 0xAD15503D0DAC9148FE3BB0199DF170EBD99DF667515A52ED6A4FDBD94E04A0E7, by decide +kernel⟩,
   ⟨{MS {helloAt := 6, next := 4} [(F.VTK_SESSION.state 5,1)] with sec.openProv := true}, 5940000006, 0,
     MG 2 5 0 (List.replicate 64 0#8) 0x88389B0DBBAED24522BF4D20906852A8331ACC5DAE9C33CEDE661DCCA60D4A53, by decide +kernel⟩,
   ⟨MS {}, 0, MG 7 5 0 [] 0x358F0F5B9A16DBC6C41F5DB774346D500BC8F7B40ECF79EA43756A1B34180C95, by decide +kernel⟩,
   ⟨MS {next := 8, stored := [(6,[]),(7,[3#8])]}, 0, MG 4 5 7 (CB 0) 0xCE19F2ECABED9E7228D0735B83FA247C4EF1BCD21903147A2D7D373E97E40F2C,
     (7,[3#8]), by decide +kernel⟩,
   ⟨MS {next := 8, stored := [(6,[])]}, 0, MG 4 5 7 (CB 0) 0xCE19F2ECABED9E7228D0735B83FA247C4EF1BCD21903147A2D7D373E97E40F2C,
     by decide +kernel⟩,
   ⟨MS {next := 6, outOfOrder := 4294967295}, 0, MG 4 5 7 (CB 0) 0xCE19F2ECABED9E7228D0735B83FA247C4EF1BCD21903147A2D7D373E97E40F2C,
     by decide +kernel⟩,
   ⟨MS {next := 7} [(F.VTK_SESSION.outstanding 5,256)], 0,
     MG 4 5 7 (CB 0) 0xCE19F2ECABED9E7228D0735B83FA247C4EF1BCD21903147A2D7D373E97E40F2C, by decide +kernel⟩,
   ⟨MS {next := 7} [(F.VTK_STATUS.outstanding,4095)], 0,
     MG 4 5 7 (CB 0) 0xCE19F2ECABED9E7228D0735B83FA247C4EF1BCD21903147A2D7D373E97E40F2C, by decide +kernel⟩,
   ⟨MS {next := 7, challenge := some []}, 6, 0, MG 4 5 7 (CB 0x99) 0x955ABEAB89F52709017DB0C3E06F60F78D0A4C5E1A318F7526006199CB028DDA,
     by decide +kernel⟩,
   ⟨MS {next := 7}, 6, 0, 7, 0, MG 4 5 7 (CB 0x00 [1#8]) 0x463F020E14096A5D96655E000ED3447388C757DA2B37FC3ED235C9BAEFF6FD71,
     by decide +kernel⟩,
   ⟨MS {next := 7, challenge := some [1#8]}, 6, 0,
     MG 4 5 7 (CB 0x72 (List.replicate 8 0#8)) 0x3D9A029C0169E9B7E647E6AD59A0C6EEA0D045161984427127C37DAD4BB5608F, [], false,
     by decide +kernel⟩,
   ⟨MS {next := 7}, 6, 0, MG 4 5 7 (CB 0x00) 0xCE19F2ECABED9E7228D0735B83FA247C4EF1BCD21903147A2D7D373E97E40F2C, [], false,
     by decide +kernel⟩,
   ⟨MS {next := 7}, 6, 0,
     MG 4 5 7 (CB 0x30 (A4 [5,0,0,0,0,0,0,0]) 1 9) 0xF615B82A86AE2B112E3C0AC777A5B5B5CC1E732567DB130A9ED4506ECB2E076E, [], false,
     by decide +kernel⟩⟩

end VertikMessages

namespace VertikFramedCommands

def FF (c : VtkCmd) (late : Bool := false) : Framed := {cmd := c, accepted := 0, late := late, dropped := 3}
def FS (f : Framed) (l : List (Fld × Nat) := []) (s : State := {}) : State :=
  {put ([(F.BEAM_N.n_div 2, 40),(F.BEAM_H.htotal 2, 10),(F.BEAM_H.hactive 2, 8),(F.BEAM_V.vactive 2, 4),(F.BEAM_V.vtotal 2, 6),(F.TX_STATUS.state 2, 1)] ++ l) (V0 (VC 0) [] {} s) with gs.present := 2^4, vtk.framed := [f], vtk.ready := []}
def CW : VtkCmd := VC 0x21 (A4 [0x100000,3] ++ [1#8,2#8,3#8]) [] true 0
def CH (code : Nat) (a : List Nat) (path : List Nat := []) (f : Nat := 0) : VtkCmd := VC code (A4 a) path true f

theorem witness :
    (∃ (s : State) (t : Nat) (f : Framed), let now := max s.now t; let c := f.cmd; s.vtk.framed = [f] ∧ f.stages = none ∧
      (∀ p ∈ s.applyPoints c, now < s.applyPoint c.frame p)) ∧
    (∃ (s : State) (t : Nat) (f : Framed), let now := max s.now t; let c := f.cmd;
      let due := s.applyPoints c ≠ [] ∧ ∀ p ∈ s.applyPoints c, s.applyPoint c.frame p ≤ now; s.vtk.framed = [f] ∧ f.stages = none ∧ due ∧
      s.actsHere c = false) ∧
    (∃ (s : State) (t : Nat) (f : Framed), let now := max s.now t; let c := f.cmd;
      let due := s.applyPoints c ≠ [] ∧ ∀ p ∈ s.applyPoints c, s.applyPoint c.frame p ≤ now; s.vtk.framed = [f] ∧ f.stages = none ∧ due ∧
      s.actsHere c = true ∧ (s.at t).superseded f = true) ∧
    (∃ (s : State) (t : Nat) (f : Framed), let now := max s.now t; let c := f.cmd; let a := leAt c.args 0 4; let bs := c.args.drop 8;
      let due := s.applyPoints c ≠ [] ∧ ∀ p ∈ s.applyPoints c, s.applyPoint c.frame p ≤ now; (s.vtk.framed = [f] ∧ f.stages = none ∧ due ∧
      s.actsHere c = true ∧ (s.at t).superseded f = false ∧ c.code = 0x21 ∧ (∀ i, i < bs.length → s.admits 71 (a + i) = true ∧
      s.ingestOwned (a + i) = false) ∧ s.vtkAdmits a bs.length = true ∧ f.waitsCommit = none) ∧ s.Clean a bs.length) ∧
    (∃ (s : State) (t : Nat) (f : Framed), let now := max s.now t; let c := f.cmd; let a := leAt c.args 0 4; let bs := c.args.drop 8;
      let due := s.applyPoints c ≠ [] ∧ ∀ p ∈ s.applyPoints c, s.applyPoint c.frame p ≤ now; s.vtk.framed = [f] ∧ f.stages = none ∧ due ∧
      s.actsHere c = true ∧ (s.at t).superseded f = false ∧ c.code = 0x21 ∧ s.vtkAdmits a bs.length = false) ∧
    (∃ (s : State) (t : Nat) (h : Nat) (f : Framed), let now := max s.now t; let c := f.cmd;
      let due := s.applyPoints c ≠ [] ∧ ∀ p ∈ s.applyPoints c, s.applyPoint c.frame p ≤ now; s.vtk.framed = [f] ∧ f.stages = none ∧ due ∧
      s.actsHere c = true ∧ (s.at t).superseded f = false ∧ c.code = 0x41 ∧ s.pathHead c = some h ∧ f.waitsCommit = none) ∧
    (∃ (s : State) (t : Nat) (h : Nat) (f : Framed), let now := max s.now t; let c := f.cmd;
      let due := s.applyPoints c ≠ [] ∧ ∀ p ∈ s.applyPoints c, s.applyPoint c.frame p ≤ now; s.vtk.framed = [f] ∧ f.stages = none ∧ due ∧
      s.actsHere c = true ∧ (s.at t).superseded f = false ∧ c.code = 0x40 ∧ s.pathHead c = some h) ∧
    (∃ (s : State) (t : Nat) (f : Framed) (p : Nat), let now := max s.now t; let c := f.cmd;
      let due := s.applyPoints c ≠ [] ∧ ∀ p ∈ s.applyPoints c, s.applyPoint c.frame p ≤ now; s.vtk.framed = [f] ∧ f.stages = none ∧ due ∧
      s.actsHere c = true ∧ (s.at t).superseded f = false ∧ (c.code = 0x11 ∨ c.code = 0x12) ∧ s.applyPoints c = [p] ∧ p % 3 ≠ 1 ∧
      f.waitsCommit = none) ∧
    (∃ (s : State) (t : Nat) (f : Framed), let now := max s.now t; let c := f.cmd;
      let due := s.applyPoints c ≠ [] ∧ ∀ p ∈ s.applyPoints c, s.applyPoint c.frame p ≤ now; s.vtk.framed = [f] ∧ f.stages = none ∧ due ∧
      s.actsHere c = true ∧ (s.at t).superseded f = false ∧ 0x30 ≤ c.code ∧ c.code ≤ 0x32 ∧ s.unitsHeld = true ∧ s.ing.queue.length < 512) :=
  ⟨⟨{FS (FF (CH 0x41 [0] [0,2] 9)) with gs.chipTf := 100000000}, 6, FF (CH 0x41 [0] [0,2] 9), by decide +kernel⟩,
   ⟨FS (FF (CH 0x41 [0] [1,2] 0)), 600000000, FF (CH 0x41 [0] [1,2] 0), by decide +kernel⟩,
   ⟨{FS (FF (CH 0x41 [0] [0,2] 0)) with vtk.applied := [VC 0x41 (A4 [1]) [0,2] true 0 4]}, 600000000, FF (CH 0x41 [0] [0,2] 0),
     by decide +kernel⟩,
   ⟨FS (FF CW true), 600000000, FF CW true, by decide +kernel, clean_of (by decide +kernel)⟩,
   ⟨{FS (FF CW true) with hub.regions := []}, 600000000, FF CW true, by decide +kernel⟩,
   ⟨FS (FF (CH 0x41 [0] [0,2] 0)), 600000000, 2, FF (CH 0x41 [0] [0,2] 0), by decide +kernel⟩,
   ⟨FS (FF (CH 0x40 [] [0,2] 0)), 600000000, 2, FF (CH 0x40 [] [0,2] 0), by decide +kernel⟩,
   ⟨FS (FF (CH 0x11 [0x403e0000,2,1,2])), 600000000, FF (CH 0x11 [0x403e0000,2,1,2]), 0, by decide +kernel⟩,
   ⟨{FS (FF (CH 0x30 [5,0,0,0,0,0,0,0])) with clock.stopped := true}, 600000000, FF (CH 0x30 [5,0,0,0,0,0,0,0]), by decide +kernel⟩⟩

end VertikFramedCommands

namespace VertikSecurityCommands

def Z (n : Nat) : List Byte := List.replicate n 0#8
def GB : List Byte := [0x4F#8,0x54#8,0x50#8,0x47#8,1#8,0#8,0#8,0#8,0#8,1#8] ++ Z 950
def OW (c : VtkCmd) (x : SecS := {begun := 1, inForce := some 0}) (l : List (Fld × Nat) := []) : State := {V0 c l with sec := x}
def CS (ok : Bool := true) : VtkCmd := VC 0x75 (Z 8 ++ (if ok then Z 64 else Z 63 ++ [255#8]) ++ GB)
def HOT : List (Fld × Nat) := [(F.CPR_TEMP.valid 3,1),(F.CPR_TEMP.temp 3,86*16)]
def CL (ok : Bool := true) : VtkCmd := VC 0x76 (Z 8 ++ (if ok then Z 64 else Z 63 ++ [255#8]))
def CR (n : Nat) (ok : Bool := true) : VtkCmd := VC 0x77 (Z 8 ++ natLe 4 n ++ (if ok then Z 64 else Z 63 ++ [255#8]))
def OR (n : Nat) (ok : Bool) (l : List (Fld × Nat) := []) : State := (OW (CR n ok) {begun := 1, inForce := some 0, rollback := 3} l).setReg R.GS_SECURITY_VERSION 200#32

theorem witness :
    (∃ (s : State) (c : VtkCmd), s.frontReady = some c ∧ c.code = 0x71) ∧
    (∃ (s : State) (c : VtkCmd), s.frontReady = some c ∧ c.code = 0x72) ∧
    (∃ (s : State) (c : VtkCmd), s.frontReady = some c ∧ c.code = 0x74) ∧
    (∃ (s : State) (c : VtkCmd), let b := slice c.args 72 960; s.frontReady = some c ∧ c.code = 0x75 ∧ genFieldsOk b = false) ∧
    (∃ (s : State) (c : VtkCmd), let factory := s.secState = 0; let b := slice c.args 72 960; s.frontReady = some c ∧ c.code = 0x75 ∧
      genFieldsOk b = true ∧ ¬ factory ∧ s.ownerSigned b (slice c.args 8 64) = false) ∧
    (∃ (s : State) (c : VtkCmd), let factory := s.secState = 0; let b := slice c.args 72 960; s.frontReady = some c ∧ c.code = 0x75 ∧
      genFieldsOk b = true ∧ (factory ∨ s.ownerSigned b (slice c.args 8 64) = true) ∧ s.freeGen = none) ∧
    (∃ (s : State) (g : Nat) (c : VtkCmd), let factory := s.secState = 0; let b := slice c.args 72 960; s.frontReady = some c ∧
      c.code = 0x75 ∧ genFieldsOk b = true ∧ (factory ∨ s.ownerSigned b (slice c.args 8 64) = true) ∧ s.freeGen = some g ∧
      s.tooHotToProgram = true) ∧
    (∃ (s : State) (g : Nat) (c : VtkCmd), let factory := s.secState = 0; let b := slice c.args 72 960; s.frontReady = some c ∧
      c.code = 0x75 ∧ genFieldsOk b = true ∧ (factory ∨ s.ownerSigned b (slice c.args 8 64) = true) ∧ s.freeGen = some g ∧
      s.tooHotToProgram = false) ∧
    (∃ (s : State) (c : VtkCmd), let factory := s.secState = 0; s.frontReady = some c ∧ c.code = 0x76 ∧ factory) ∧
    (∃ (s : State) (c : VtkCmd), let factory := s.secState = 0; s.frontReady = some c ∧ c.code = 0x76 ∧ ¬ factory ∧
      s.ownerSigned (ascii "LOCK" ++ s.idPub) (slice c.args 8 64) = false) ∧
    (∃ (s : State) (c : VtkCmd), let factory := s.secState = 0; s.frontReady = some c ∧ c.code = 0x76 ∧ ¬ factory ∧
      ¬ (s.ownerSigned (ascii "LOCK" ++ s.idPub) (slice c.args 8 64) = false) ∧ s.tooHotToProgram = true) ∧
    (∃ (s : State) (c : VtkCmd), let factory := s.secState = 0; s.frontReady = some c ∧ c.code = 0x76 ∧ ¬ factory ∧
      ¬ (s.ownerSigned (ascii "LOCK" ++ s.idPub) (slice c.args 8 64) = false) ∧ ¬ (s.tooHotToProgram = true)) ∧
    (∃ (s : State) (c : VtkCmd), let target := leAt c.args 8 4; s.frontReady = some c ∧ c.code = 0x77 ∧
      s.ownerSigned (ascii "ROLL" ++ s.idPub ++ natLe 4 target) (slice c.args 12 64) = false) ∧
    (∃ (s : State) (c : VtkCmd), let target := leAt c.args 8 4;
      let n := min (min target (s.reg R.GS_SECURITY_VERSION).toNat) 128; s.frontReady = some c ∧ c.code = 0x77 ∧
      ¬ (s.ownerSigned (ascii "ROLL" ++ s.idPub ++ natLe 4 target) (slice c.args 12 64) = false) ∧ n ≤ s.sec.rollback) ∧
    (∃ (s : State) (c : VtkCmd), let target := leAt c.args 8 4;
      let n := min (min target (s.reg R.GS_SECURITY_VERSION).toNat) 128; s.frontReady = some c ∧ c.code = 0x77 ∧
      ¬ (s.ownerSigned (ascii "ROLL" ++ s.idPub ++ natLe 4 target) (slice c.args 12 64) = false) ∧ ¬ (n ≤ s.sec.rollback) ∧
      s.tooHotToProgram = true) ∧
    (∃ (s : State) (c : VtkCmd), let target := leAt c.args 8 4;
      let n := min (min target (s.reg R.GS_SECURITY_VERSION).toNat) 128; s.frontReady = some c ∧ c.code = 0x77 ∧
      ¬ (s.ownerSigned (ascii "ROLL" ++ s.idPub ++ natLe 4 target) (slice c.args 12 64) = false) ∧ ¬ (n ≤ s.sec.rollback) ∧
      ¬ (s.tooHotToProgram = true)) ∧
    (∃ (s : State) (c : VtkCmd), s.frontReady = some c ∧ c.code = 0x78) ∧
    (∃ (s : State) (c : VtkCmd), let id := leAt c.args 8 2; let i := leAt c.args 10 1;
      let known := (id = 0x0C01 ∧ i < 8) ∨ (id = 0x0C02 ∧ i = 0); s.frontReady = some c ∧ c.code = 0x79 ∧ known) ∧
    (∃ (s : State) (c : VtkCmd), let id := leAt c.args 8 2; let i := leAt c.args 10 1;
      let known := (id = 0x0C01 ∧ i < 8) ∨ (id = 0x0C02 ∧ i = 0); s.frontReady = some c ∧ c.code = 0x79 ∧ ¬ known) :=
  ⟨⟨OW (VC 0x71 (Z 8)), VC 0x71 (Z 8), by decide +kernel⟩,
   ⟨{OW (VC 0x72 (Z 8)) with pending := [.vtkNop 3], hub.mem := memOf [(4,[4#8])]}, VC 0x72 (Z 8), by decide +kernel⟩,
   ⟨OW (VC 0x74 (Z 40)), VC 0x74 (Z 40), by decide +kernel⟩,
   ⟨OW (VC 0x75 (Z 1032)), VC 0x75 (Z 1032), by decide +kernel⟩,
   ⟨OW (CS false) {begun := 1}, CS false, by decide +kernel⟩,
   ⟨OW CS {begun := 15, inForce := some 0}, CS, by decide +kernel⟩,
   ⟨OW CS {} HOT, 0, CS, by decide +kernel⟩,
   ⟨OW CS {}, 0, CS, by decide +kernel⟩,
   ⟨OW CL {}, CL, by decide +kernel⟩,
   ⟨OW (CL false) {begun := 1}, CL false, by decide +kernel⟩,
   ⟨OW CL {begun := 3, inForce := some 0} HOT, CL, by decide +kernel⟩,
   ⟨OW CL, CL, by decide +kernel⟩,
   ⟨OW (CR 3 false) {begun := 1}, CR 3 false, by decide +kernel⟩,
   ⟨OR 3 true, CR 3, by decide +kernel⟩,
   ⟨OR 4 true HOT, CR 4, by decide +kernel⟩,
   ⟨OR 4 true, CR 4, by decide +kernel⟩,
   ⟨OW (VC 0x78 (Z 8 ++ A4 [2, 0x0C01, 5, 0x1234, 7])), VC 0x78 (Z 8 ++ A4 [2, 0x0C01, 5, 0x1234, 7]), by decide +kernel⟩,
   ⟨OW (VC 0x79 (Z 8 ++ A4 [0x00070C01])), VC 0x79 (Z 8 ++ A4 [0x00070C01]), by decide +kernel⟩,
   ⟨OW (VC 0x79 (Z 8 ++ A4 [0x00080C01])), VC 0x79 (Z 8 ++ A4 [0x00080C01]), by decide +kernel⟩⟩

end VertikSecurityCommands

namespace BlitterCommands

def BB (l : List (Fld × Nat) := []) (s : State := {}) : State := put ([(F.BLT_Q_BASE.base 1,0x1000),(F.BLT_Q_BASE.log2 1,3),(F.BLT_Q_WR.wr 1,7),(F.BLT_Q_RD.rd 1,3),(F.BLT_Q_CTRL.enable 1,1)] ++ l) {s with hub.regions := [⟨0,0x1000_0000,0xFFFF⟩]}
def DW (op : Nat) (k : Nat := 0) : List Nat := [op * 2^28 + k, 0x200000, 0x3000010, 0x100010, 0x300000, 0x3000010, 0x100010, 0x10002,
  0x20003, 0, 0, 0, 0xAABBCCDD, 0,0,0]
def CM (op : Nat) (k : Nat := 0) (w : Bool := false) : BltCmd := {queue := 1, index := 3, words := DW op k, waiting := w}
def BC (c : BltCmd) (l : List (Fld × Nat) := []) : State := {BB l with blt := some c, hub.mem := memOf [(0x200048,[1#8,2#8,3#8,4#8])]}

theorem witness :
    (∃ (s : State) (q : Nat) (v : Nat), let rd := s.rd (F.BLT_Q_RD.rd q);
      let fits := (65536 + v % 65536 - rd) % 65536 ≤ 2 ^ s.rd (F.BLT_Q_BASE.log2 q); q < 4 ∧ fits) ∧
    (∃ (s : State) (q : Nat) (v : Nat), let rd := s.rd (F.BLT_Q_RD.rd q);
      let fits := (65536 + v % 65536 - rd) % 65536 ≤ 2 ^ s.rd (F.BLT_Q_BASE.log2 q); q < 4 ∧ ¬ fits) ∧
    (∃ (s : State) (q : Nat), let rd := s.rd (F.BLT_Q_RD.rd q); let desc := s.bltDesc q rd; (q < 4 ∧ s.unitsHeld = false ∧
      (List.range 4).find? s.bltSupplies = some q ∧ s.bltFree q = true) ∧ s.Clean desc 64) ∧
    (∃ (s : State) (q : Nat), q < 4 ∧ (s.unitsHeld = true ∨ (List.range 4).find? s.bltSupplies = none ∨
      (List.range 4).find? s.bltSupplies = some q ∧ s.bltFree q = false)) ∧
    (∃ (s : State) (q : Nat) (c : BltCmd), q < 4 ∧ s.bltRuns 0 = some c) ∧
    (∃ (s : State) (q : Nat), q < 4 ∧ s.bltRuns 0 = none) ∧
    (∃ (s : State) (q : Nat) (c : BltCmd), q < 4 ∧ s.bltRuns 1 = some c) ∧
    (∃ (s : State) (q : Nat) (c : BltCmd) (p : Nat × Nat), let from_ := c.src.bitOf (c.sourceOf p).1 (c.sourceOf p).2 / 8;
      let to_ := c.dst.bitOf p.1 p.2 / 8; (q < 4 ∧ s.bltRuns 1 = some c ∧ c.written.pixels = [p] ∧ c.src.bpp = 32 ∧ c.dst.bpp = 32 ∧
      s.admits 67 (to_ / 8 * 8) = true ∧ (∀ i, i < 4 → s.ingestOwned (to_ + i) = false) ∧ (c.keyEn = false ∨
      leNat (s.memBytes from_ 4) ≠ c.w 12)) ∧ s.Clean from_ 4 ∧ s.Clean to_ 4) ∧
    (∃ (s : State) (q : Nat) (c : BltCmd) (p : Nat × Nat), let from_ := c.src.bitOf (c.sourceOf p).1 (c.sourceOf p).2 / 8; q < 4 ∧
      s.bltRuns 1 = some c ∧ c.written.pixels = [p] ∧ c.src.bpp = 32 ∧ popCount 72 (s.flips (from_ / 8)).toNat = 2) ∧
    (∃ (s : State) (q : Nat), q < 4 ∧ s.bltRuns 1 = none) ∧
    (∃ (s : State) (q : Nat) (c : BltCmd), q < 4 ∧ s.bltRuns 2 = some c) ∧
    (∃ (s : State) (q : Nat) (c : BltCmd) (p : Nat × Nat), let to_ := c.dst.bitOf p.1 p.2 / 8; (q < 4 ∧ s.bltRuns 2 = some c ∧
      c.written.pixels = [p] ∧ c.dst.bpp = 32 ∧ s.admits 67 (to_ / 8 * 8) = true ∧ (∀ i, i < 4 → s.ingestOwned (to_ + i) = false)) ∧
      s.Clean to_ 4) ∧
    (∃ (s : State) (q : Nat), q < 4 ∧ s.bltRuns 2 = none) ∧
    (∃ (s : State) (q : Nat) (c : BltCmd), let waits := s.blt = some c ∧ c.waiting = true ∧ s.unitsHeld = false; q < 4 ∧ waits ∧
      s.bltSupplies c.queue = false) ∧
    (∃ (s : State) (q : Nat) (c : BltCmd), let waits := s.blt = some c ∧ c.waiting = true ∧ s.unitsHeld = false; q < 4 ∧ waits ∧
      s.bltSupplies c.queue = true ∧ s.headPresent c.waitHead = false) ∧
    (∃ (s : State) (t : Nat) (q : Nat) (c : BltCmd), let waits := s.blt = some c ∧ c.waiting = true ∧ s.unitsHeld = false; q < 4 ∧
      waits ∧ s.bltSupplies c.queue = true ∧ s.headPresent c.waitHead = true ∧ (s.at t).bltWaitMet c = true) ∧
    (∃ (s : State) (t : Nat) (q : Nat) (c : BltCmd), let waits := s.blt = some c ∧ c.waiting = true ∧ s.unitsHeld = false; q < 4 ∧
      waits ∧ s.bltSupplies c.queue = true ∧ s.headPresent c.waitHead = true ∧ ¬ ((s.at t).bltWaitMet c = true)) ∧
    (∃ (s : State) (q : Nat) (st : Nat) (c : BltCmd), let rd := s.rd (F.BLT_Q_RD.rd q); q < 4 ∧ s.blt = some c ∧ c.result = some st ∧
      c.queue = q ∧ c.index = rd) ∧
    (∃ (s : State) (q : Nat), q < 4 ∧ s.blt.bind (·.result) = none) ∧
    (∃ (q : Nat), q < 4) :=
  ⟨⟨BB, 1, 65547, by decide +kernel⟩,
   ⟨BB, 1, 12, by decide +kernel⟩,
   ⟨{BB with hub.mem := memOf [(0x400c0,(DW 1).flatMap (natLe 4))]}, 1, by decide +kernel, clean_of (by decide +kernel)⟩,
   ⟨{BB with clock.stopped := true}, 1, by decide +kernel⟩,
   ⟨BC (CM 0), 1, CM 0, by decide +kernel⟩,
   ⟨BB, 1, by decide +kernel⟩,
   ⟨BC (CM 1), 1, CM 1, by decide +kernel⟩,
   ⟨BC (CM 1), 1, CM 1, (3,2), by decide +kernel, clean_of (by decide +kernel), clean_of (by decide +kernel)⟩,
   ⟨{BC (CM 1) with hub.flips := [(0x40009,3#72)]}, 1, CM 1, (3,2), by decide +kernel⟩,
   ⟨BB, 1, by decide +kernel⟩,
   ⟨BC (CM 2), 1, CM 2, by decide +kernel⟩,
   ⟨BC (CM 2), 1, CM 2, (3,2), by decide +kernel, clean_of (by decide +kernel)⟩,
   ⟨BB, 1, by decide +kernel⟩,
   ⟨BC (CM 2 0 true) [(F.BLT_Q_CTRL.enable 1,0)], 1, CM 2 0 true, by decide +kernel⟩,
   ⟨BC (CM 2 0 true), 1, CM 2 0 true, by decide +kernel⟩,
   ⟨(put [(F.BEAM_N.n_div 2, 40),(F.BEAM_H.htotal 2, 10),(F.BEAM_H.hactive 2, 8),(F.BEAM_V.vactive 2, 4),(F.BEAM_V.vtotal 2,
     6)] {BC (CM 2 0x20001 true) with gs.present := 16}).wr64 (R.BEAM_TF 2) 2400, 400, 1, CM 2 0x20001 true, by decide +kernel⟩,
   ⟨{BC (CM 2 0x20001 true) with gs.present := 16}, 6, 1, CM 2 0x20001 true, by decide +kernel⟩,
   ⟨BC {CM 1 with result := some 3}, 1, 3, {CM 1 with result := some 3}, by decide +kernel⟩,
   ⟨BC (CM 1), 1, by decide +kernel⟩,
   ⟨1, by decide +kernel⟩⟩

end BlitterCommands

namespace BellCommands

def VO (v : Voice) : State := {bell.voices := [(5,v),(6,{phase := 3})]}
def CW (a : Nat) (h : Nat) (l : Bool := false) (src : Nat := 2) : List Nat := [0,0,0,0,0,0,0,h]
def XP (r : Route) : State := {bell.xp := [(5,r),(7,{target := 9})], bell.busGain := [(5,r)], bell.sinks := [(5,{target := r.target, mode := r.mode, age := r.age, done := r.done}),(6,{target := 4})]}
def act (a : Nat) : DerAction := {point := 1, rule := 2, action := a, target := 3, lsb := 0, width := 8, out := 7, count := 1, arrival := 0, issued := 0}

theorem witness :
    (∃ (gain : Nat) (mode : Nat), gain < 65536 ∧ mode < 4) ∧
    (∃ (mode : Nat) (k : Nat) (bus : Nat), k < 256 ∧ (bus < 0x80 ∨ bus = 0xFF) ∧ mode < 4) ∧
    (∃ (k : Nat) (bus : Nat), k < 256 ∧ 0x80 ≤ bus ∧ bus < 0xFF) ∧
    (∃ (gain : Nat) (b : Nat), b < 128 ∧ gain < 65536) ∧
    (∃ (s : State) (cue : Nat) (arg : Nat), s.bell.queue.length < 256 ∧ cue < 512 ∧ arg < 256) ∧
    (∃ (s : State), 256 ≤ s.bell.queue.length) ∧
    (∃ (s : State), s.der.actions.findIdx? (·.action == 3) = none) ∧
    (∃ (s : State) (n : Nat), s.der.actions.findIdx? (·.action == 3) = some n) ∧
    (∃ (s : State) (i : Nat), let v := s.voice i; v.segTicks ≤ v.count ∧ v.phase = 1) ∧
    (∃ (s : State) (i : Nat), let v := s.voice i; v.segTicks ≤ v.count ∧ v.phase = 2) ∧
    (∃ (s : State) (i : Nat), let v := s.voice i; v.segTicks ≤ v.count ∧ v.phase = 4) ∧
    (∃ (s : State) (i : Nat), let v := s.voice i; (v.count < v.segTicks ∨ v.phase = 0 ∨ v.phase = 3)) ∧
    (∃ (s : State) (i : Nat), let v := s.voice i; 1 ≤ v.phase ∧ v.phase ≤ 3 ∧ bits (v.words.getD 7 0) 15 0 ≠ 0 ∧
      48 * bits (v.words.getD 7 0) 15 0 ≤ v.age) ∧
    (∃ (s : State) (i : Nat), let v := s.voice i; (v.phase = 0 ∨ 4 ≤ v.phase ∨ bits (v.words.getD 7 0) 15 0 = 0 ∨
      v.age < 48 * bits (v.words.getD 7 0) 15 0)) ∧
    (∃ (s : State) (i : Nat), let v := s.voice i; v.phase ≠ 0 ∧ 2 ≤ cueSource v.words ∧ cueLength v.words * 65536 ≤ v.pos) ∧
    (∃ (s : State) (i : Nat), let v := s.voice i; (v.phase = 0 ∨ cueSource v.words < 2 ∨ v.pos < cueLength v.words * 65536)) ∧
    (∃ (s : State) (mode : Nat) (i : Nat), let route := fun (m : SMap Route) (j : Nat) => mget (fun _ => {}) m j; (route s.bell.xp i).mode = 1 ∧
      64 < (route s.bell.xp i).age) ∧
    (∃ (s : State) (mode : Nat) (i : Nat), let route := fun (m : SMap Route) (j : Nat) => mget (fun _ => {}) m j; (route s.bell.busGain i).mode = 1 ∧
      64 < (route s.bell.busGain i).age) ∧
    (∃ (s : State) (mode : Nat) (i : Nat), let sink := fun (u : State) (j : Nat) => (mget (fun _ => {}) u.bell.sinks j : SinkRoute); (sink s i).mode = 1 ∧
      64 < (sink s i).age) ∧
    (∃ (s : State) (mode : Nat) (i : Nat), let route := fun (m : SMap Route) (j : Nat) => mget (fun _ => {}) m j; ((route s.bell.xp i).mode ≠ 1 ∨
      (route s.bell.xp i).age ≤ 64)) ∧
    (∃ (s : State) (mode : Nat) (i : Nat), let route := fun (m : SMap Route) (j : Nat) => mget (fun _ => {}) m j; (route s.bell.xp i).mode = 2 ∧
      (route s.bell.xp i).done = true) ∧
    (∃ (s : State) (mode : Nat) (i : Nat), let sink := fun (u : State) (j : Nat) => (mget (fun _ => {}) u.bell.sinks j : SinkRoute); (sink s i).mode = 2 ∧
      (sink s i).done = true) ∧
    (∃ (s : State) (mode : Nat) (i : Nat), let route := fun (m : SMap Route) (j : Nat) => mget (fun _ => {}) m j; ((route s.bell.xp i).mode ≠ 2 ∨
      (route s.bell.xp i).done = false)) ∧
    (∃ (s : State) (p : Nat) (rate : Nat), p < 8 ∧ s.on (F.BELL_TDM.enable p) = true ∧ s.on (F.BELL_TDM.master p) = false ∧
      1600000 ≤ rate ∧ rate ≤ 9600000) ∧
    (∃ (s : State) (p : Nat) (rate : Nat), (s.on (F.BELL_TDM.enable p) = false ∨ s.on (F.BELL_TDM.master p) = true ∨ rate < 1600000 ∨
      9600000 < rate)) ∧
    (∃ (s : State) (p : Nat), p < 8 ∧ s.on (F.BELL_TDM_STATUS.locked p) = true ∧ s.on (F.BELL_TDM.master p) = false) ∧
    (∃ (s : State) (p : Nat), (s.on (F.BELL_TDM_STATUS.locked p) = false ∨ s.on (F.BELL_TDM.master p) = true)) ∧
    (∃ (s : State) (t : Nat), let now := max s.now t; let ticks := now % 123750 = 0 ∧ s.rd F.CPR_STATUS.power ≠ 2; ticks) ∧
    (∃ (s : State) (t : Nat), let now := max s.now t; let ticks := now % 123750 = 0 ∧ s.rd F.CPR_STATUS.power ≠ 2; ¬ ticks) :=
  ⟨⟨77, 1, by decide +kernel⟩,
   ⟨2, 5, 127, by decide +kernel⟩,
   ⟨255, 254, by decide +kernel⟩,
   ⟨65535, 5, by decide +kernel⟩,
   ⟨{bell.queue := List.replicate 255 ⟨1,2,false,0,none⟩}, 511, 255, by decide +kernel⟩,
   ⟨{bell.queue := List.replicate 256 ⟨1,2,false,0,none⟩}, by decide +kernel⟩,
   ⟨{der.actions := [act 1]}, by decide +kernel⟩,
   ⟨{der.actions := [act 1, act 3]}, 1, by decide +kernel⟩,
   ⟨VO {phase := 1, count := 9999999}, 5, by decide +kernel⟩,
   ⟨VO {phase := 2, count := 9999999}, 5, by decide +kernel⟩,
   ⟨VO {phase := 4, count := 9999999, ramp := 3}, 5, by decide +kernel⟩,
   ⟨VO {}, 6, by decide +kernel⟩,
   ⟨VO {phase := 2, words := CW 0 2, age := 96}, 5, by decide +kernel⟩,
   ⟨VO {phase := 2, words := CW 0 2, age := 95}, 5, by decide +kernel⟩,
   ⟨VO {phase := 2, words := [0xBFFFFFFF,0,3,0,0,0,0,0], pos := 2^32-1}, 5, by decide +kernel⟩,
   ⟨VO {}, 5, by decide +kernel⟩,
   ⟨XP {target := 9, mode := 1, age := 65}, 0, 5, by decide +kernel⟩,
   ⟨XP {target := 9, mode := 1, age := 65}, 0, 5, by decide +kernel⟩,
   ⟨XP {target := 9, mode := 1, age := 65}, 0, 5, by decide +kernel⟩,
   ⟨XP {target := 9, mode := 1, age := 64}, 0, 5, by decide +kernel⟩,
   ⟨XP {target := 9, mode := 2, age := 64, done := true}, 0, 5, by decide +kernel⟩,
   ⟨XP {target := 9, mode := 2, age := 64, done := true}, 0, 5, by decide +kernel⟩,
   ⟨XP {target := 9, mode := 2, age := 64}, 0, 5, by decide +kernel⟩,
   ⟨put [(F.BELL_TDM.enable 7,1)] {}, 7, 9600000, by decide +kernel⟩,
   ⟨put [(F.BELL_TDM.enable 7,1)] {}, 7, 9600001, by decide +kernel⟩,
   ⟨put [(F.BELL_TDM_STATUS.locked 7,1)] {}, 7, by decide +kernel⟩,
   ⟨put [(F.BELL_TDM_STATUS.locked 7,1),(F.BELL_TDM.master 7,1)] {}, 7, by decide +kernel⟩,
   ⟨put [(F.CPR_STATUS.power,0),(F.TX_CTRL.audio_en 2,1),(F.TX_STATUS.state 2,1),(F.TX_STATUS.link_state 2,2)] {gs.present := 16, bell.queue := [⟨1,2,false,0,none⟩,⟨1,2,false,123750,none⟩]},
     123750, by decide +kernel⟩,
   ⟨{}, 123751, by decide +kernel⟩⟩

end BellCommands

namespace InterruptSourcesAndClaims

theorem witness :
    (∃ (s : State) (i : Nat), 64 ≤ i ∧ i < 704 ∧ lineEvent i = none ∧ s.on (F.INTC_SRC.edge i) = false) ∧
    (∃ (s : State) (t : Nat) (i : Nat) (at_ : Nat), (i, at_) ∈ s.intc.inFlight ∧ at_ = max s.now t ∧
      s.on (F.INTC_SRC.pending i) = false) ∧
    (∃ (s : State) (t : Nat) (h : Nat) (at_ : Nat), (64 + 4 * h, at_) ∈ s.intc.inFlight ∧ h < 24 ∧ at_ = max s.now t ∧
      s.on (F.INTC_SRC.pending (64 + 4 * h)) = true) ∧
    (∃ (s : State) (k : Nat) (b : Nat), k < 32 ∧ b < 32 ∧ bit (s.rd (F.INTC_PRIV_PEND.bells k)) b = false) ∧
    (∃ (s : State) (k : Nat) (b : Nat), k < 32 ∧ b < 32 ∧ bit (s.rd (F.INTC_PRIV_PEND.bells k)) b = true) ∧
    (∃ (s : State) (t : Nat) (k : Nat) (i : Nat) (p : Nat) (ms : List Master), k < 32 ∧ (s.at t).presented k false = some (i, p) ∧
      Master.core k ∈ ms ∧ s.intcForerunner = false) ∧
    (∃ (s : State) (t : Nat) (k : Nat) (i : Nat) (p : Nat) (ms : List Master), k < 32 ∧ (s.at t).presented k false = some (i, p) ∧
      Master.core k ∈ ms ∧ s.intcForerunner = true) ∧
    (∃ (k : Nat) (ms : List Master), k < 32 ∧ Master.core k ∉ ms) ∧
    (∃ (s : State) (k : Nat) (id : Nat), k < 32 ∧ s.intcForerunner = false ∧ id < 1023 ∧ s.activeFor k id = true) ∧
    (∃ (s : State) (k : Nat) (id : Nat), k < 32 ∧ s.intcForerunner = false ∧ id < 1023 ∧ s.activeFor k id = false) ∧
    (∃ (s : State) (k : Nat) (id : Nat) (q : Nat × Nat) (st : List (Nat × Nat)), k < 32 ∧ s.intcForerunner = true ∧ id < 1023 ∧
      (mget (fun _ => []) s.intc.stack k = q :: st)) ∧
    (∃ (k : Nat) (m : Master), k < 32 ∧ m ≠ .core k) ∧
    (∃ (s : State) (k : Nat) (i : Nat) (id : Nat), k < 32 ∧ s.rd (F.INTC_FAST_ID.id k) = i ∧ i ≠ 1023) :=
  ⟨⟨{intc.inFlight := [(384,6000),(64,6000)]}, 384, by decide +kernel⟩,
   ⟨{intc.inFlight := [(384,6000),(64,6000)]}, 6000, 384, 6000, by decide +kernel⟩,
   ⟨(put [(F.INTC_SRC.pending 64,1),(F.INTC_SRC.pending 384,1),(F.INTC_SRC.enable 384,1),(F.INTC_SRC.core 384,2),(F.INTC_SRC.priority 384,5),(F.INTC_PRIV_PEND.bells 2,8),(F.INTC_EOI_BAD.count 2,0xFFFF),(F.INTC_FAST_ID.id 2,384)] {intc.inFlight := [(384,6000),(64,6000)], intc.activeOn := [(384,some 2)]}),
     6000, 0, 6000, by decide +kernel⟩,
   ⟨{intc.inFlight := [(384,6000),(64,6000)]}, 2, 3, by decide +kernel⟩,
   ⟨(put [(F.INTC_SRC.pending 64,1),(F.INTC_SRC.pending 384,1),(F.INTC_SRC.enable 384,1),(F.INTC_SRC.core 384,2),(F.INTC_SRC.priority 384,5),(F.INTC_PRIV_PEND.bells 2,8),(F.INTC_EOI_BAD.count 2,0xFFFF),(F.INTC_FAST_ID.id 2,384)] {intc.inFlight := [(384,6000),(64,6000)], intc.activeOn := [(384,some 2)]}),
     2, 3, by decide +kernel⟩,
   ⟨(put [(F.INTC_SRC.pending 384,1),(F.INTC_SRC.enable 384,1),(F.INTC_SRC.core 384,2),(F.INTC_SRC.priority 384,5)] {}), 6000, 2, 384,
     5, [.core 2,.vertik], by decide +kernel⟩,
   ⟨(put [(F.INTC_CTRL.profile,1),(F.GS_MODE_SUMMARY.profile,1),(F.INTC_SRC.pending 384,1),(F.INTC_SRC.enable 384,1),(F.INTC_SRC.core 384,2),(F.INTC_SRC.priority 384,5)] {}),
     6000, 2, 384, 5, [.core 2,.vertik], by decide +kernel⟩,
   ⟨2, [.vertik], by decide +kernel⟩,
   ⟨(put [(F.INTC_SRC.pending 64,1),(F.INTC_SRC.pending 384,1),(F.INTC_SRC.enable 384,1),(F.INTC_SRC.core 384,2),(F.INTC_SRC.priority 384,5),(F.INTC_PRIV_PEND.bells 2,8),(F.INTC_EOI_BAD.count 2,0xFFFF),(F.INTC_FAST_ID.id 2,384)] {intc.inFlight := [(384,6000),(64,6000)], intc.activeOn := [(384,some 2)]}),
     2, 384, by decide +kernel⟩,
   ⟨{intc.inFlight := [(384,6000),(64,6000)]}, 2, 384, by decide +kernel⟩,
   ⟨(put [(F.INTC_CTRL.profile,1),(F.GS_MODE_SUMMARY.profile,1),(F.INTC_SRC.pending 384,1),(F.INTC_SRC.enable 384,1),(F.INTC_SRC.core 384,2),(F.INTC_SRC.priority 384,5)] {intc.stack := [(2,[(384,5)])],intc.activeOn := [(384,some 2)]}),
     2, 384, (384,5), [], by decide +kernel⟩,
   ⟨2, .vertik, by decide +kernel⟩,
   ⟨(put [(F.INTC_SRC.pending 64,1),(F.INTC_SRC.pending 384,1),(F.INTC_SRC.enable 384,1),(F.INTC_SRC.core 384,2),(F.INTC_SRC.priority 384,5),(F.INTC_PRIV_PEND.bells 2,8),(F.INTC_EOI_BAD.count 2,0xFFFF),(F.INTC_FAST_ID.id 2,384)] {intc.inFlight := [(384,6000),(64,6000)], intc.activeOn := [(384,some 2)]}),
     2, 384, 384, by decide +kernel⟩⟩

end InterruptSourcesAndClaims

namespace TimerChannels

theorem witness :
    (∃ (ch : Nat), ch < 32) ∧
    (∃ (s : State) (t : Nat) (ch : Nat), ch < 32 ∧ (s.rd F.CPR_STATUS.power ≠ 2 ∨ ch = 31) ∧ (s.at t).timerDue ch = true) :=
  ⟨⟨2, by decide +kernel⟩,
   ⟨(put [(F.TMR_CTRL.cmp_en 2,1),(F.TMR_CTRL.reload 2,1),(F.TMR_STATUS.hit 2,1),(F.FL_CFG.timer 3,2)] {}), 6000, 2, by decide +kernel⟩⟩

end TimerChannels

namespace FieldLines

theorem witness :
    (∃ (s : State) (n : Nat) (b : Bool) (c : Nat), let need := 10 * s.rd (F.FL_CFG.debounce n) + 1; n < 64 ∧ (mget (fun _ => (false,
      0)) s.field.filter n = (b, c)) ∧ s.lineOut n = false ∧ s.lineChanging n = false ∧ s.on (F.FL_STATUS.level n) ≠ b ∧ need ≤ c) ∧
    (∃ (s : State) (t : Nat) (n : Nat), let now := max s.now t; n < 64 ∧ (mget (fun _ => 0) s.field.changing n ≠ 0) ∧
      (mget (fun _ => 0) s.field.changing n ≤ now)) ∧
    (∃ (s : State) (n : Nat), n < 64 ∧ s.lineOut n = true ∧ (mget (fun _ => none) s.field.pad n ≠ none)) ∧
    (∃ (s : State) (t : Nat) (n : Nat), let now := max s.now t; n < 64 ∧ bit s.field.shorted n = true ∧
      nsOf now % 100_000_000 ≤ 1_000_000) ∧
    (∃ (s : State) (t : Nat) (n : Nat), let now := max s.now t; let held := (s.at t).before; n < 64 ∧ now % samplePeriod = 0 ∧
      s.locked = false ∧ s.padsHeld = false ∧ s.lineChanging n = false ∧ held.on (F.FL_CFG.dir n) = bit s.field.dirNow n ∧
      s.clock.stopped = false ∧ s.isShadow = false ∧ bit s.field.shorted n = false) ∧
    (∃ (s : State) (t : Nat) (n : Nat) (p : Photon), let now := max s.now t; n < 64 ∧ now % samplePeriod = 0 ∧ s.locked = false ∧
      p ∈ s.der.photons ∧ p.kind = 3 ∧ p.ending = none ∧ p.edge ≤ now) ∧
    (∃ (s : State) (t : Nat) (n : Nat), let now := max s.now t; n < 64 ∧ now % samplePeriod ≠ 0) :=
  ⟨⟨put [(F.FL_CFG.edges 3,3)] {field.filter := [(3,(true,5))], field.edge := 5940, field.applied := true}, 3, true, 5,
     by decide +kernel⟩,
   ⟨put [(F.FL_CFG.edges 3,3)] {field.filter := [(3,(true,5))], field.edge := 5940, field.changing := [(3,100)], field.applied := true, field.shorted := 8, der.photons := [{kind:=3,target:=3,landed:=5940,point:=1,rule:=1,count:=1,arrival:=1}]},
     5940*100, 3, by decide +kernel⟩,
   ⟨put [(F.FL_CFG.edges 3,3),(F.FL_CFG.dir 3,1),(F.FL_CFG.od 3,1),(F.FL_CFG.src_der 3,1),(F.FL_CFG.src_reg 3,1),(F.FL_CFG.invert 3,1)] {field.dirNow := 8, field.pad := [(3,some true)], field.applied := true, der.photons := [{kind:=3,target:=3,landed:=5940,point:=1,rule:=1,count:=1,arrival:=1}]},
     3, by decide +kernel⟩,
   ⟨put [(F.FL_CFG.edges 3,3)] {field.filter := [(3,(true,5))], field.edge := 5940, field.changing := [(3,100)], field.applied := true, field.shorted := 8, der.photons := [{kind:=3,target:=3,landed:=5940,point:=1,rule:=1,count:=1,arrival:=1}]},
     5940*100, 3, by decide +kernel⟩,
   ⟨put [(F.FL_CFG.edges 3,3),(F.FL_CFG.dir 3,1),(F.FL_CFG.od 3,1),(F.FL_CFG.src_der 3,1),(F.FL_CFG.src_reg 3,1),(F.FL_CFG.invert 3,1)] {field.dirNow := 8, field.pad := [(3,some true)], field.applied := true, der.photons := [{kind:=3,target:=3,landed:=5940,point:=1,rule:=1,count:=1,arrival:=1}]},
     594*5940, 3, by decide +kernel⟩,
   ⟨put [(F.FL_CFG.edges 3,3)] {field.filter := [(3,(true,5))], field.edge := 5940, field.changing := [(3,100)], field.applied := true, field.shorted := 8, der.photons := [{kind:=3,target:=3,landed:=5940,point:=1,rule:=1,count:=1,arrival:=1}]},
     5940*100, 3, {kind:=3,target:=3,landed:=5940,point:=1,rule:=1,count:=1,arrival:=1}, by decide +kernel⟩,
   ⟨{}, 5, 3, by decide +kernel⟩⟩

end FieldLines

namespace DmaEngines

def D (ctl src dst len next : Nat) : List Nat := [ctl,src,dst,len,next,0,0,0]
def M0 (w : List Nat) : SMap Byte := memOf [(0x1000, w.flatMap (natLe 4)), (0x2000, natLe 8 0x1122334455667788 ++ natLe 8 0x99)]
def reg : Region := {base := 0, size := 0x100000, mask := 2^128-1}
def S0 (w : List Nat) (x : State := {}) : State := { x with hub.mem := M0 w, hub.regions := [reg] }
def run (e c : Nat) : List (Fld × Nat) := [(F.DMA_STATUS.busy e,1),(F.DMA_STATUS.channel e,c),(F.DMA_CH_STATUS.running e c,1),(F.DMA_CH_CTRL.enable e c,1)]
def ok := D (2^31+2^30) 0x10002004 0x10003001 12 0
def okN := D 0 0x10002004 0x10003001 12 0x10001020
def okP (e : Nat) : List (Nat × Word) := [(R.DMA_PERMIT e, 1#32)]

theorem witness :
    (∃ (s : State) (e : Nat) (c : Nat), e < 8 ∧ c < 8 ∧ s.dmaChannel e ≠ some c) ∧
    (∃ (s : State) (e : Nat) (c : Nat), e < 8 ∧ c < 8 ∧ s.dmaChannel e = some c) ∧
    (∃ (s : State) (e : Nat) (c : Nat), e < 8 ∧ c < 8 ∧ s.dmaPick e = some c) ∧
    (∃ (s : State) (e : Nat) (c : Nat) (j : Nat), e < 8 ∧ c < 8 ∧ s.dmaPick e = some c ∧ j < 8 ∧ s.dmaReady e j = true) ∧
    (∃ (s : State) (e : Nat) (c : Nat), e < 8 ∧ c < 8 ∧ s.dmaHeld e = false ∧ s.unitsHeld = false ∧ s.on (F.DMA_STATUS.busy e) = false ∧
      s.on (F.DMA_STATUS.swap_pending e) = false ∧ s.dmaPick e = some c) ∧
    (∃ (s : State) (e : Nat) (c : Nat), e < 8 ∧ c < 8 ∧ (s.dmaHeld e = true ∨ s.unitsHeld = true ∨ s.on (F.DMA_STATUS.busy e) = true ∨
      s.on (F.DMA_STATUS.swap_pending e) = true ∨ s.dmaPick e = none)) ∧
    (∃ (s : State) (e : Nat) (c : Nat) (off : Nat) (w : List Nat), let dma := s.dmaOf e;
      let runs := s.on (F.DMA_STATUS.busy e) = true ∧ s.rd (F.DMA_STATUS.channel e) = c ∧ s.dmaHeld e = false; (e < 8 ∧ c < 8 ∧ runs ∧
      dma.desc = none ∧ dmaPlace dma.next 32 = .scene off ∧ w = descWords (s.memBytes off 32) ∧ s.descFault e w = none) ∧ s.Clean off 32) ∧
    (∃ (s : State) (e : Nat) (c : Nat) (off : Nat) (st : Nat) (w : List Nat), let dma := s.dmaOf e;
      let runs := s.on (F.DMA_STATUS.busy e) = true ∧ s.rd (F.DMA_STATUS.channel e) = c ∧ s.dmaHeld e = false; (e < 8 ∧ c < 8 ∧ runs ∧
      dma.desc = none ∧ dmaPlace dma.next 32 = .scene off ∧ w = descWords (s.memBytes off 32) ∧ s.descFault e w = some st) ∧
      s.Clean off 32) ∧
    (∃ (s : State) (e : Nat) (c : Nat), let dma := s.dmaOf e;
      let runs := s.on (F.DMA_STATUS.busy e) = true ∧ s.rd (F.DMA_STATUS.channel e) = c ∧ s.dmaHeld e = false; e < 8 ∧ c < 8 ∧ runs ∧
      dma.desc = none ∧ dmaPlace dma.next 32 = .nowhere) ∧
    (∃ (s : State) (e : Nat) (c : Nat), let dma := s.dmaOf e; e < 8 ∧ c < 8 ∧ (s.dmaChannel e = none ∨ s.dmaHeld e = true ∨
      dma.desc.isSome = true)) ∧
    (∃ (s : State) (e : Nat) (c : Nat) (w : List Nat), let dma := s.dmaOf e;
      let runs := s.on (F.DMA_STATUS.busy e) = true ∧ s.rd (F.DMA_STATUS.channel e) = c ∧ s.dmaHeld e = false; e < 8 ∧ c < 8 ∧ runs ∧
      dma.desc = some w) ∧
    (∃ (s : State) (e : Nat) (c : Nat) (so : Nat) (dO : Nat) (w : List Nat), let dma := s.dmaOf e; let d := dmaDesc w;
      let runs := s.on (F.DMA_STATUS.busy e) = true ∧ s.rd (F.DMA_STATUS.channel e) = c ∧ s.dmaHeld e = false; (e < 8 ∧ c < 8 ∧ runs ∧
      dma.desc = some w ∧ d.srcFixed = false ∧ d.dstFixed = false ∧ d.confirm = false ∧ d.src = 0x1000_0000 + so ∧
      d.dst = 0x1000_0000 + dO ∧ so + d.len ≤ 0x1000_0000 ∧ dO + d.len ≤ 0x1000_0000 ∧ (so + d.len ≤ dO ∨ dO + d.len ≤ so) ∧ (∀ i,
      i < d.len → s.admits (56 + e) (dO + i) = true ∧ s.ingestOwned (dO + i) = false)) ∧ s.Clean so d.len ∧ s.Clean dO d.len) ∧
    (∃ (s : State) (e : Nat) (c : Nat) (w : List Nat), let dma := s.dmaOf e; let d := dmaDesc w;
      let runs := s.on (F.DMA_STATUS.busy e) = true ∧ s.rd (F.DMA_STATUS.channel e) = c ∧ s.dmaHeld e = false; (e < 8 ∧ c < 8 ∧ runs ∧
      dma.desc = some w ∧ 0 < d.len ∧ d.len < 2 ^ 24 ∧ d.srcW ≤ d.len ∧ d.src % d.srcW = 0) ∧ (∀ n, dmaPlace d.src n = .nowhere)) ∧
    (∃ (s : State) (e : Nat) (c : Nat), let dma := s.dmaOf e; e < 8 ∧ c < 8 ∧ (s.dmaChannel e = none ∨ dma.desc = none ∨
      s.dmaHeld e = true)) ∧
    (∃ (s : State) (e : Nat) (c : Nat), let dma := s.dmaOf e; e < 8 ∧ c < 8 ∧ s.dmaChannel e = some c ∧ dma.desc = none) ∧
    (∃ (s : State) (e : Nat) (c : Nat) (w : List Nat), let dma := s.dmaOf e; let d := dmaDesc w; e < 8 ∧ c < 8 ∧
      s.dmaChannel e = some c ∧ dma.desc = some w ∧ 0 < d.len ∧ d.len < 2 ^ 24) ∧
    (∃ (s : State) (e : Nat) (c : Nat) (w : List Nat), let dma := s.dmaOf e; e < 8 ∧ c < 8 ∧ s.dmaChannel e = some c ∧
      dma.desc = some w) ∧
    (∃ (s : State) (e : Nat) (c : Nat), e < 8 ∧ c < 8 ∧ s.dmaChannel e = none) ∧
    (∃ (e : Nat) (c : Nat), e < 8 ∧ c < 8) :=
  ⟨⟨{}, 3, 2, by decide +kernel⟩,
   ⟨putR (okP 3) (put (run 3 2) (S0 ok { dma := [(3,{next := 0x10001000})] })), 3, 2, by decide +kernel⟩,
   ⟨putR (okP 3) (put [(F.DMA_CH_CTRL.enable 3 2,1),(F.DMA_CH_DESC.addr 3 2,0x800080)] { dma := [(3,{starts := 6})] }), 3, 2,
     by decide +kernel⟩,
   ⟨put [(F.DMA_CH_CTRL.enable 3 2,1),(F.DMA_CH_CTRL.enable 3 1,1),(F.DMA_CH_CTRL.priority 3 2,1)] { dma := [(3,{starts := 6})] }, 3, 2,
     1, by decide +kernel⟩,
   ⟨putR (okP 3) (put [(F.DMA_CH_CTRL.enable 3 2,1),(F.DMA_CH_DESC.addr 3 2,0x800080)] { dma := [(3,{starts := 6})] }), 3, 2,
     by decide +kernel⟩,
   ⟨{}, 3, 2, by decide +kernel⟩,
   ⟨putR (okP 3) (put (run 3 2) (S0 ok { dma := [(3,{next := 0x10001000})] })), 3, 2, 0x1000, ok,
     by decide +kernel, clean_of (by decide +kernel)⟩,
   ⟨(put (run 3 2) (S0 ok { dma := [(3,{next := 0x10001000})] })), 3, 2, 0x1000, 4, ok, by decide +kernel, clean_of (by decide +kernel)⟩,
   ⟨(put (run 3 2) (S0 ok { dma := [(3,{next := 0x30001000})] })), 3, 2, by decide +kernel⟩,
   ⟨{}, 3, 2, by decide +kernel⟩,
   ⟨putR (okP 3) (put (run 3 2) (S0 ok { dma := [(3,{next := 0x10001000, desc := some ok, starts := 4})] })), 3, 2, ok,
     by decide +kernel⟩,
   ⟨putR (okP 3) (put (run 3 2) (S0 ok { dma := [(3,{next := 0x10001000, desc := some ok, starts := 4})] })), 3, 2, 0x2004, 0x3001, ok,
     by decide +kernel, clean_of (by decide +kernel), clean_of (by decide +kernel)⟩,
   ⟨putR (okP 3) (put (run 3 2) (S0 okN { dma := [(3,{next := 0x10001000, desc := some (D 0 0x30000000 0x10003001 12 0)})] })), 3, 2,
     D 0 0x30000000 0x10003001 12 0, by decide +kernel, nowhere_of (by decide +kernel)⟩,
   ⟨{}, 3, 2, by decide +kernel⟩,
   ⟨putR (okP 3) (put (run 3 2) (S0 ok { dma := [(3,{next := 0x10001000})] })), 3, 2, by decide +kernel⟩,
   ⟨putR (okP 3) (put (run 3 2) (S0 ok { dma := [(3,{next := 0x10001000, desc := some ok, starts := 4})] })), 3, 2, ok,
     by decide +kernel⟩,
   ⟨putR (okP 3) (put (run 3 2) (S0 ok { dma := [(3,{next := 0x10001000, desc := some ok, starts := 4})] })), 3, 2, ok,
     by decide +kernel⟩,
   ⟨{}, 3, 2, by decide +kernel⟩,
   ⟨3, 2, by decide +kernel⟩⟩

end DmaEngines

namespace SaddlebagEntriesAndSegments

def X : SbEntry := {kind:=1,chip:=0,head:=2,seq:=5,time:=7,payload:=[1#8]}
def E0 : Nat × Nat × Nat × List Byte := (1,2,7,[1#8,2#8])

theorem witness :
    (∃ (s : State) (t : Nat) (room : Bool) (e : Nat × Nat × Nat × List Byte) (rest : List (Nat × Nat × Nat × List Byte)), let now := max s.now t;
      let lost := fun (u : State) => u.sb.staging = s.sb.staging ∧ u.sb.nextSeq = s.sb.nextSeq + 1 ∧ u.sb.lost = (match s.sb.lost with | none => some (s.sb.nextSeq, 1, 50 * now / 297) | some (a, c, y) => some (a, c + 1, y));
      let handed := fun (r : Host.Outcome State Fault Refusal) (kind : Nat) (body : List Byte) => Answers r fun u => u.sb.handed = s.sb.handed ++ [(kind, 0xFF, 50 * now / 297, body)] ∧ MemSame s u; s.sb.handed = e :: rest ∧
      room = true ∧ s.on F.SB_STATUS.full = false ∧ s.sb.lost = none ∧ s.isShadow = false) ∧
    (∃ (s : State) (t : Nat) (room : Bool) (e : Nat × Nat × Nat × List Byte) (rest : List (Nat × Nat × Nat × List Byte)), let now := max s.now t;
      let handed := fun (r : Host.Outcome State Fault Refusal) (kind : Nat) (body : List Byte) => Answers r fun u => u.sb.handed = s.sb.handed ++ [(kind, 0xFF, 50 * now / 297, body)] ∧ MemSame s u; s.sb.handed = e :: rest ∧
      (room = false ∨ s.on F.SB_STATUS.full = true) ∧ s.isShadow = false) ∧
    (∃ (s : State) (t : Nat) (room : Bool) (e : Nat × Nat × Nat × List Byte) (rest : List (Nat × Nat × Nat × List Byte)) (a : Nat) (c : Nat) (y : Nat), let now := max s.now t;
      let lost := fun (u : State) => u.sb.staging = s.sb.staging ∧ u.sb.nextSeq = s.sb.nextSeq + 1 ∧ u.sb.lost = (match s.sb.lost with | none => some (s.sb.nextSeq, 1, 50 * now / 297) | some (a, c, y) => some (a, c + 1, y));
      let handed := fun (r : Host.Outcome State Fault Refusal) (kind : Nat) (body : List Byte) => Answers r fun u => u.sb.handed = s.sb.handed ++ [(kind, 0xFF, 50 * now / 297, body)] ∧ MemSame s u; s.sb.handed = e :: rest ∧
      room = true ∧ s.on F.SB_STATUS.full = false ∧ s.sb.lost = some (a, c, y)) ∧
    (∃ (s : State) (t : Nat), let now := max s.now t;
      let handed := fun (r : Host.Outcome State Fault Refusal) (kind : Nat) (body : List Byte) => Answers r fun u => u.sb.handed = s.sb.handed ++ [(kind, 0xFF, 50 * now / 297, body)] ∧ MemSame s u; s.sb.handed = []) ∧
    (∃ (s : State) (t : Nat) (room : Bool), let now := max s.now t;
      let lost := fun (u : State) => u.sb.staging = s.sb.staging ∧ u.sb.nextSeq = s.sb.nextSeq + 1 ∧ u.sb.lost = (match s.sb.lost with | none => some (s.sb.nextSeq, 1, 50 * now / 297) | some (a, c, y) => some (a, c + 1, y)); s.isPrimary = true ∧
      room = true ∧ s.on F.SB_STATUS.full = false ∧ s.sb.lost = none) ∧
    (∃ (s : State), s.isPrimary = false) ∧
    (∃ (s : State) (i : Nat), s.isShadow = false ∧ s.sb.writing = [] ∧ s.sb.current = some i) ∧
    (∃ (s : State), (s.isShadow = true ∨ s.sb.writing ≠ [])) ∧
    (∃ (s : State) (i : Nat) (x : SbEntry), let state := fun (u : State) (d : Nat) => u.rd (F.SB_DRIVE.state d); s.isShadow = false ∧
      s.sb.current = some i ∧ s.sb.writing.getLast? = some x ∧ (state s 0 = 1 ∨ state s 0 = 2 ∨ state s 1 = 1 ∨ state s 1 = 2)) ∧
    (∃ (s : State), s.isShadow = true) ∧
    (∃ (s : State) (i : Nat), s.sb.current = some i ∧ s.sb.writing = [] ∧ (s.sb.flush = true ∨ s.frontTooBig (s.segment i) = true)) ∧
    (∃ (s : State), (s.sb.current = none ∨ s.sb.writing ≠ [])) ∧
    (∃ (s : State), s.on F.SB_STATUS.keying = false) ∧
    (∃ (s : State), s.on F.SB_STATUS.keying = true) ∧
    (∃ (s : State), s.on F.SB_STATUS.keying = false ∧ s.rd F.SB_CTRL.key_period_k ≠ 0 ∧
      1000 * s.rd F.SB_CTRL.key_period_k ≤ s.sb.keyFrames) ∧
    (∃ (s : State) (t : Nat), s.on F.SB_STATUS.keying = true ∧ (s.at t).chipLatch = true) ∧
    (∃ (s : State) (t : Nat), s.on F.SB_STATUS.keying = true ∧ ¬ ((s.at t).chipLatch = true)) ∧
    (∃ (s : State), (s.on F.SB_STATUS.keying = true ∧ s.sb.keyHold = true ∧ s.ing.queue = [] ∧ s.ing.writes = []) ∧
      s.Clean 0 0x1000_0000) ∧
    (∃ (s : State) (i : Nat), let start := s.rd64 R.SB_FREEZE_START; let stop := s.rd64 R.SB_FREEZE_END;
      let frozen := (s.sb.segments.filter fun p => s.segFrozen (s.spanList ++ [(start, stop)]) p.2).length;
      let span := fun (u : State) (j : Nat) => (mget (fun _ => none) u.sb.spans j : Option (Nat × Nat)); ((List.range 64).find? (fun j => (span s j).isNone) = some i) ∧
      2 * frozen ≤ s.segCount) ∧
    (∃ (s : State), let start := s.rd64 R.SB_FREEZE_START; let stop := s.rd64 R.SB_FREEZE_END;
      let frozen := (s.sb.segments.filter fun p => s.segFrozen (s.spanList ++ [(start, stop)]) p.2).length;
      let span := fun (u : State) (j : Nat) => (mget (fun _ => none) u.sb.spans j : Option (Nat × Nat)); ((List.range 64).find? (fun j => (span s j).isNone) = none ∨
      s.segCount < 2 * frozen)) ∧
    (∃ (s : State) (i : Nat), let span := fun (u : State) (j : Nat) => (mget (fun _ => none) u.sb.spans j : Option (Nat × Nat)); (span s i).isSome = true) ∧
    (∃ (s : State) (i : Nat), let span := fun (u : State) (j : Nat) => (mget (fun _ => none) u.sb.spans j : Option (Nat × Nat)); span s i = none) :=
  ⟨⟨{sb.handed := [E0,(3,4,5,[])], sb.current := some 1, sb.staging := [X], sb.nextSeq := 6, sb.drives := [(0,{lbas := 2^20})]}, 9,
     true, (1,2,7,[1#8,2#8]), [(3,4,5,[])], by decide +kernel⟩,
   ⟨{sb.handed := [E0], sb.current := some 1, sb.lost := some (1,2,3), sb.flush := true, sb.nextSeq := 6, sb.drives := [(0,{lbas := 2^20})]},
     9, false, (1,2,7,[1#8,2#8]), [], by decide +kernel⟩,
   ⟨{sb.handed := [E0], sb.current := some 1, sb.lost := some (1,2,3), sb.flush := true, sb.nextSeq := 6, sb.drives := [(0,{lbas := 2^20})]},
     9, true, (1,2,7,[1#8,2#8]), [], 1, 2, 3, by decide +kernel⟩,
   ⟨put [(F.TANDEM_STATUS.role,1),(F.SB_DRIVE.state 0,1),(F.SB_CTRL.key_period_k,1)] {sb.current := some 1, sb.writing := [X], sb.keyFrames := 1000, sb.keyHold := false, sb.drives := [(0,{lbas := 2^20})], sb.spans := [(0, some (1,2)),(1,some (3,4))]},
     9, by decide +kernel⟩,
   ⟨put [(F.TANDEM_STATUS.role,1),(F.SB_DRIVE.state 0,1),(F.SB_CTRL.key_period_k,1)] {sb.current := some 1, sb.writing := [X], sb.keyFrames := 1000, sb.keyHold := false, sb.drives := [(0,{lbas := 2^20})], sb.spans := [(0, some (1,2)),(1,some (3,4))]},
     9, true, by decide +kernel⟩,
   ⟨{sb.handed := [E0,(3,4,5,[])], sb.current := some 1, sb.staging := [X], sb.nextSeq := 6, sb.drives := [(0,{lbas := 2^20})]},
     by decide +kernel⟩,
   ⟨{sb.handed := [E0,(3,4,5,[])], sb.current := some 1, sb.staging := [X], sb.nextSeq := 6, sb.drives := [(0,{lbas := 2^20})]}, 1,
     by decide +kernel⟩,
   ⟨put [(F.TANDEM_STATUS.role,1),(F.SB_DRIVE.state 0,1),(F.SB_CTRL.key_period_k,1)] {sb.current := some 1, sb.writing := [X], sb.keyFrames := 1000, sb.keyHold := false, sb.drives := [(0,{lbas := 2^20})], sb.spans := [(0, some (1,2)),(1,some (3,4))]},
     by decide +kernel⟩,
   ⟨put [(F.TANDEM_STATUS.role,1),(F.SB_DRIVE.state 0,1),(F.SB_CTRL.key_period_k,1)] {sb.current := some 1, sb.writing := [X], sb.keyFrames := 1000, sb.keyHold := false, sb.drives := [(0,{lbas := 2^20})], sb.spans := [(0, some (1,2)),(1,some (3,4))]},
     1, {kind:=1,chip:=0,head:=2,seq:=5,time:=7,payload:=[1#8]}, by decide +kernel⟩,
   ⟨put [(F.TANDEM_STATUS.role,2),(F.SB_DRIVE.state 0,1),(F.SB_STATUS.keying,1)] {sb.staging := [X], sb.keyFrames := 1000, sb.keyHold := true, sb.drives := [(0,{lbas := 2^20})]},
     by decide +kernel⟩,
   ⟨{sb.handed := [E0], sb.current := some 1, sb.lost := some (1,2,3), sb.flush := true, sb.nextSeq := 6, sb.drives := [(0,{lbas := 2^20})]},
     1, by decide +kernel⟩,
   ⟨put [(F.TANDEM_STATUS.role,1),(F.SB_DRIVE.state 0,1),(F.SB_CTRL.key_period_k,1)] {sb.current := some 1, sb.writing := [X], sb.keyFrames := 1000, sb.keyHold := false, sb.drives := [(0,{lbas := 2^20})], sb.spans := [(0, some (1,2)),(1,some (3,4))]},
     by decide +kernel⟩,
   ⟨{sb.handed := [E0,(3,4,5,[])], sb.current := some 1, sb.staging := [X], sb.nextSeq := 6, sb.drives := [(0,{lbas := 2^20})]},
     by decide +kernel⟩,
   ⟨put [(F.TANDEM_STATUS.role,2),(F.SB_DRIVE.state 0,1),(F.SB_STATUS.keying,1)] {sb.staging := [X], sb.keyFrames := 1000, sb.keyHold := true, sb.drives := [(0,{lbas := 2^20})]},
     by decide +kernel⟩,
   ⟨put [(F.TANDEM_STATUS.role,1),(F.SB_DRIVE.state 0,1),(F.SB_CTRL.key_period_k,1)] {sb.current := some 1, sb.writing := [X], sb.keyFrames := 1000, sb.keyHold := false, sb.drives := [(0,{lbas := 2^20})], sb.spans := [(0, some (1,2)),(1,some (3,4))]},
     by decide +kernel⟩,
   ⟨put [(F.TANDEM_STATUS.role,2),(F.SB_DRIVE.state 0,1),(F.SB_STATUS.keying,1)] {sb.staging := [X], sb.keyFrames := 1000, sb.keyHold := true, sb.drives := [(0,{lbas := 2^20})]},
     9, by decide +kernel⟩,
   ⟨put [(F.SB_STATUS.keying,1)] {gs.chipTf := 100, gs.chipT0 := 3}, 9, by decide +kernel⟩,
   ⟨put [(F.SB_STATUS.keying,1)] {sb.keyHold := true}, by decide +kernel, clean_of (by decide +kernel)⟩,
   ⟨put [(F.TANDEM_STATUS.role,2),(F.SB_DRIVE.state 0,1),(F.SB_STATUS.keying,1)] {sb.staging := [X], sb.keyFrames := 1000, sb.keyHold := true, sb.drives := [(0,{lbas := 2^20})]},
     0, by decide +kernel⟩,
   ⟨putR [(R.SB_FREEZE_END,10#32)] {sb.segments := [(3,{entries := [X]})]}, by decide +kernel⟩,
   ⟨put [(F.TANDEM_STATUS.role,1),(F.SB_DRIVE.state 0,1),(F.SB_CTRL.key_period_k,1)] {sb.current := some 1, sb.writing := [X], sb.keyFrames := 1000, sb.keyHold := false, sb.drives := [(0,{lbas := 2^20})], sb.spans := [(0, some (1,2)),(1,some (3,4))]},
     1, by decide +kernel⟩,
   ⟨{sb.handed := [E0,(3,4,5,[])], sb.current := some 1, sb.staging := [X], sb.nextSeq := 6, sb.drives := [(0,{lbas := 2^20})]}, 1,
     by decide +kernel⟩⟩

end SaddlebagEntriesAndSegments

namespace SaddlebagReadsAndDrives

def reg : Region := {base := 0, size := 0x100000, mask := 2^10-1}

theorem witness :
    (∃ (s : State) (d : Nat) (w : Word), d < 2 ∧ s.on F.SB_READ_CTRL.busy = false ∧ getBits w 11 0 < 2048) ∧
    (∃ (s : State) (d : Nat) (w : Word), d < 2 ∧ (s.on F.SB_READ_CTRL.busy = true ∨ 2048 ≤ getBits w 11 0)) ∧
    (∃ (s : State) (d : Nat) (n : Nat) (data : List Byte) (lba : Nat) (dst : Nat), let block := slice data 0 (4096 * n); (d < 2 ∧
      s.sb.reading = some (lba, n, dst) ∧ s.isPrimary = false ∧ s.locked = false ∧ s.admitsAll 70 dst block.length = true) ∧ (∀ j,
      j < block.length → s.admits 70 (dst + j) = true ∧ s.ingestOwned (dst + j) = false) ∧ s.Clean dst block.length) ∧
    (∃ (s : State) (d : Nat) (n : Nat) (data : List Byte) (lba : Nat) (dst : Nat), let block := slice data 0 (4096 * n); d < 2 ∧
      s.sb.reading = some (lba, n, dst) ∧ s.isPrimary = false ∧ s.locked = false ∧ s.admitsAll 70 dst block.length = false) ∧
    (∃ (s : State) (d : Nat), d < 2 ∧ s.sb.reading.isSome = true ∧ s.isPrimary = false ∧ s.locked = false) ∧
    (∃ (s : State) (d : Nat), d < 2 ∧ s.sb.reading.isSome = true ∧ s.isPrimary = true) ∧
    (∃ (s : State) (d : Nat), d < 2 ∧ (s.sb.reading = none ∨ (s.isPrimary = false ∧ s.locked = true))) ∧
    (∃ (s : State) (d : Nat), let state := fun (u : State) (d : Nat) => u.rd (F.SB_DRIVE.state d); let drive := s.drive d; d < 2 ∧
      (state s d = 1 ∨ state s d = 2) ∧ drive.timeouts < 2) ∧
    (∃ (s : State) (d : Nat), let state := fun (u : State) (d : Nat) => u.rd (F.SB_DRIVE.state d); let drive := s.drive d; d < 2 ∧
      (state s d = 1 ∨ state s d = 2) ∧ 2 ≤ drive.timeouts) ∧
    (∃ (s : State) (d : Nat), let state := fun (u : State) (d : Nat) => u.rd (F.SB_DRIVE.state d); d < 2 ∧ (state s d = 0 ∨
      state s d = 3)) ∧
    (∃ (d : Nat), d < 2) ∧
    (∃ (s : State) (d : Nat) (lbas : Nat) (own : Bool), let state := fun (u : State) (d : Nat) => u.rd (F.SB_DRIVE.state d); d < 2 ∧
      lbas ≠ 0 ∧ (state s d = 0 ∨ state s d = 3) ∧ (own = true ∨ s.sb.adopt = true)) ∧
    (∃ (s : State) (d : Nat) (own : Bool), d < 2 ∧ own = false ∧ s.sb.adopt = false) ∧
    (∃ (d : Nat) (size : Nat), d < 2 ∧ size ≠ 4096) ∧
    (∃ (s : State) (d : Nat) (lbas : Nat), let state := fun (u : State) (d : Nat) => u.rd (F.SB_DRIVE.state d);
      let drive := s.drive d; d < 2 ∧ (s.drive 0).lbas ≠ 0 ∧ state s 0 = 0 ∧ state s 1 = 0 ∧ (s.drive 1).lbas = 0) ∧
    (∃ (s : State) (d : Nat) (lbas : Nat), let state := fun (u : State) (d : Nat) => u.rd (F.SB_DRIVE.state d);
      let drive := s.drive d; d < 2 ∧ state s 0 = 1 ∧ state s 1 = 3 ∧ (s.drive 1).lbas ≠ 0) ∧
    (∃ (s : State) (d : Nat), let state := fun (u : State) (d : Nat) => u.rd (F.SB_DRIVE.state d); d < 2 ∧ state s d = 2) ∧
    (∃ (s : State) (d : Nat), let state := fun (u : State) (d : Nat) => u.rd (F.SB_DRIVE.state d); d < 2 ∧ state s d ≠ 2) :=
  ⟨⟨putR [(R.SB_READ_LBA,7#32)] {sb.reading := some (7,1,0x90000), hub.regions := [reg]}, 1, 0xF0000001#32, by decide +kernel⟩,
   ⟨{sb.reading := some (7,1,0x90000), hub.regions := [{base := 0, size := 0x90800, mask := 2^10-1}]}, 1, 0xFFF#32, by decide +kernel⟩,
   ⟨putR [(R.SB_READ_LBA,7#32)] {sb.reading := some (7,1,0x90000), hub.regions := [reg]}, 1, 1, List.replicate 4096 5#8, 7, 0x90000,
     by decide +kernel, ball_of (by decide +kernel), clean_of (by decide +kernel)⟩,
   ⟨{sb.reading := some (7,1,0x90000), hub.regions := [{base := 0, size := 0x90800, mask := 2^10-1}]}, 1, 1, List.replicate 4096 5#8, 7,
     0x90000, by decide +kernel⟩,
   ⟨putR [(R.SB_READ_LBA,7#32)] {sb.reading := some (7,1,0x90000), hub.regions := [reg]}, 1, by decide +kernel⟩,
   ⟨put [(F.TANDEM_STATUS.role,1),(F.SB_DRIVE.state 0,1),(F.SB_READ_CTRL.busy,1)] {sb.reading := some (7,2,0x1000)}, 1,
     by decide +kernel⟩,
   ⟨put [(F.SB_DRIVE.state 1,1)] {sb.drives := [(1,{timeouts := 1})]}, 1, by decide +kernel⟩,
   ⟨put [(F.SB_DRIVE.state 1,1)] {sb.drives := [(1,{timeouts := 1})]}, 1, by decide +kernel⟩,
   ⟨put [(F.SB_DRIVE.state 1,2)] {sb.drives := [(1,{timeouts := 2})]}, 1, by decide +kernel⟩,
   ⟨putR [(R.SB_READ_LBA,7#32)] {sb.reading := some (7,1,0x90000), hub.regions := [reg]}, 1, by decide +kernel⟩,
   ⟨1, by decide +kernel⟩,
   ⟨putR [(R.SB_READ_LBA,7#32)] {sb.reading := some (7,1,0x90000), hub.regions := [reg]}, 1, 100000, true, by decide +kernel⟩,
   ⟨{sb.reading := some (7,1,0x90000), hub.regions := [{base := 0, size := 0x90800, mask := 2^10-1}]}, 1, false, by decide +kernel⟩,
   ⟨1, 512, by decide +kernel⟩,
   ⟨{sb.drives := [(0,{lbas := 200000})]}, 0, 0, by decide +kernel⟩,
   ⟨put [(F.SB_DRIVE.state 0,1),(F.SB_DRIVE.state 1,3)] {sb.drives := [(1,{lbas := 200000})]}, 0, 0, by decide +kernel⟩,
   ⟨put [(F.SB_DRIVE.state 1,2)] {sb.drives := [(1,{timeouts := 2})]}, 1, by decide +kernel⟩,
   ⟨putR [(R.SB_READ_LBA,7#32)] {sb.reading := some (7,1,0x90000), hub.regions := [reg]}, 1, by decide +kernel⟩⟩

end SaddlebagReadsAndDrives

namespace FaultActions

theorem witness :
    (∃ (s : State) (i : Nat) (floor : Nat), i < 512 ∧ faultFloor i = some floor ∧ s.rd (F.FAULT_SRC.state i) = 0 ∧ s.locked = false) ∧
    (∃ (s : State) (i : Nat), s.rd (F.FAULT_SRC.state i) ≠ 0) ∧
    (∃ (s : State) (t : Nat) (i : Nat), (s.at t).forced i = false) ∧
    (∃ (s : State) (a : FaultAct), s.fault.running = some a ∧ s.fault.queue = []) ∧
    (∃ (s : State) (a : FaultAct) (b : FaultAct) (q : List FaultAct), s.fault.running = some a ∧ s.fault.queue = b :: q) ∧
    (∃ (s : State) (t : Nat) (c : Nat) (e : Nat), s.quietOf c = some e ∧ e ≤ max s.now t ∧ (∃ j, j < 448 ∧
      s.faultStands j (· == c) = true)) ∧
    (∃ (s : State) (t : Nat) (c : Nat) (e : Nat), c < 3 ∧ s.quietOf c = some e ∧ e ≤ max s.now t ∧ (∀ j, j < 448 →
      s.faultStands j (· == c) = false)) :=
  ⟨⟨{}, 3, 1, by decide +kernel⟩,
   ⟨put [(F.FAULT_SRC.state 72, 1), (F.FAULT_QUIET.ms 1, 10)] {fault.running := some ⟨3,1,true⟩, fault.quiet := [(1, some 4)]}, 72,
     by decide +kernel⟩,
   ⟨put [(F.FAULT_SRC.state 72, 1), (F.FAULT_QUIET.ms 1, 10)] {fault.running := some ⟨3,1,true⟩, fault.quiet := [(1, some 4)]}, 9, 72,
     by decide +kernel⟩,
   ⟨put [(F.FAULT_SRC.state 72, 1), (F.FAULT_QUIET.ms 1, 10)] {fault.running := some ⟨3,1,true⟩, fault.quiet := [(1, some 4)]},
     ⟨3,1,true⟩, by decide +kernel⟩,
   ⟨{fault.running := some ⟨3,1,true⟩, fault.queue := [⟨4,1,false⟩] }, ⟨3,1,true⟩, ⟨4,1,false⟩, [], by decide +kernel⟩,
   ⟨put [(F.FAULT_SRC.state 3, 1)] {fault.quiet := [(1, some 4)]}, 4, 1, 4, by decide +kernel⟩,
   ⟨put [(F.FAULT_SRC.state 72, 1), (F.FAULT_QUIET.ms 1, 10)] {fault.running := some ⟨3,1,true⟩, fault.quiet := [(1, some 4)]}, 9, 1, 4,
     by decide +kernel⟩⟩

end FaultActions

namespace FaultControlsAndWatchdogs

theorem witness :
    (∃ (s : State), s.rd F.FAULT_STATUS.held < 8) ∧
    (∃ (s : State) (i : Nat) (cycles : Nat) (w : Word), s.rd F.SEC_STATE.state = 0 ∧ getBits w 8 0 = i ∧ getBits w 24 9 = cycles ∧
      2 ≤ cycles ∧ faultFloor i ≠ none) ∧
    (∃ (s : State), s.rd F.SEC_STATE.state ≠ 0) ∧
    (∃ (s : State) (t : Nat) (k : Nat), let now := max s.now t;
      let late := usRoot (s.rd (F.WDOG_CTRL.period k)) + (s.wdog k).reload ≤ now; s.wdogCounts k = true ∧ late ∧ s.coreHalted k = false ∧
      k < 32) ∧
    (∃ (s : State) (t : Nat) (k : Nat), let now := max s.now t;
      let late := usRoot (s.rd (F.WDOG_CTRL.period k)) + (s.wdog k).reload ≤ now; s.wdogCounts k = true ∧ late ∧ s.coreHalted k = true ∧
      (s.wdog k).expired = false) ∧
    (∃ (s : State) (k : Nat), s.rd (F.WDOG_CTRL.window k) = 0) ∧
    (∃ (s : State) (t : Nat) (k : Nat), let now := max s.now t; k < 32 ∧ s.rd (F.WDOG_CTRL.window k) ≠ 0 ∧ s.wdogCounts k = true ∧
      now < usRoot (s.rd (F.WDOG_CTRL.window k)) + (s.wdog k).reload) ∧
    (∃ (w : Word), w ≠ 0x4B1C#32) :=
  ⟨⟨put [(F.FAULT_STATUS.held,7),(F.FAULT_STATUS.classes,7),(F.FAULT_RECOVERY.count 2,5),(F.WDOG_CTRL.enable 2,1)] {fault.quiet := [(1, some 5)], gs.present := 2^28},
     by decide +kernel⟩,
   ⟨put [(F.FAULT_STATUS.held,7),(F.FAULT_STATUS.classes,7),(F.FAULT_RECOVERY.count 2,5),(F.WDOG_CTRL.enable 2,1)] {fault.quiet := [(1, some 5)], gs.present := 2^28},
     3, 5, 0xA03#32, by decide +kernel⟩,
   ⟨put [(F.SEC_STATE.state,1),(F.WDOG_CTRL.window 2,10000),(F.WDOG_CTRL.period 2,10),(F.WDOG_CTRL.enable 2,1),(F.DBG_HALTED.cores,4)] {gs.present := 2^28},
     by decide +kernel⟩,
   ⟨put [(F.FAULT_STATUS.held,7),(F.FAULT_STATUS.classes,7),(F.FAULT_RECOVERY.count 2,5),(F.WDOG_CTRL.enable 2,1)] {fault.quiet := [(1, some 5)], gs.present := 2^28},
     6000000, 2, by decide +kernel⟩,
   ⟨put [(F.SEC_STATE.state,1),(F.WDOG_CTRL.window 2,10000),(F.WDOG_CTRL.period 2,10),(F.WDOG_CTRL.enable 2,1),(F.DBG_HALTED.cores,4)] {gs.present := 2^28},
     6000000, 2, by decide +kernel⟩,
   ⟨put [(F.FAULT_STATUS.held,7),(F.FAULT_STATUS.classes,7),(F.FAULT_RECOVERY.count 2,5),(F.WDOG_CTRL.enable 2,1)] {fault.quiet := [(1, some 5)], gs.present := 2^28},
     2, by decide +kernel⟩,
   ⟨put [(F.SEC_STATE.state,1),(F.WDOG_CTRL.window 2,10000),(F.WDOG_CTRL.period 2,10),(F.WDOG_CTRL.enable 2,1),(F.DBG_HALTED.cores,4)] {gs.present := 2^28},
     6000000, 2, by decide +kernel⟩,
   ⟨0xA03#32, by decide +kernel⟩⟩

end FaultControlsAndWatchdogs

namespace BootSources

theorem witness :
    (∃ (s : State), (s.clock.resetHeld = true ∨ s.sec.booted = true)) ∧
    (∃ (s : State), s.clock.resetHeld = false ∧ s.sec.booted = false) ∧
    (∃ (s : State) (k : Nat), s.sec.booting = some k ∧ s.gsBusy = false) ∧
    (∃ (s : State), s.sec.booting = none) ∧
    (∃ (s : State), s.sec.booting ≠ none ∧ s.sec.bootForever = false) ∧
    (∃ (s : State), s.sec.booting ≠ none ∧ s.sec.bootForever = false ∧ s.sec.delivered = true ∧ s.gsState = 0 ∧
      s.rd F.GS_STATUS.last_result = 2) ∧
    (∃ (s : State), (s.sec.booting = none ∨ s.sec.bootForever = true)) ∧
    (∃ (s : State) (t : Nat), let now := max s.now t; s.sec.booting = some 2 ∧ s.sec.bootForever = false ∧ s.gsState ≠ 5 ∧
      usRoot (1_000_000 * s.bootWait) + s.sec.netStart ≤ now) ∧
    (∃ (s : State) (t : Nat), let now := max s.now t; (now < usRoot (1_000_000 * s.bootWait) + s.sec.netStart ∨ s.gsState = 5)) :=
  ⟨⟨{sec.booted := true}, by decide +kernel⟩,
   ⟨{clock.resetHeld := false, sec.begun := 2, sec.wasValid := 2}, by decide +kernel⟩,
   ⟨{sec.booting := some 0, sec.bootLeft := [2]}, 0, by decide +kernel⟩,
   ⟨{sec.booted := true}, by decide +kernel⟩,
   ⟨{sec.booting := some 0, sec.bootLeft := [2]}, by decide +kernel⟩,
   ⟨put [(F.GS_STATUS.last_result,2),(F.GS_REJECT.reason,7)] {sec.booting := some 0, sec.delivered := true, sec.bootLeft := [2]},
     by decide +kernel⟩,
   ⟨{sec.booted := true}, by decide +kernel⟩,
   ⟨{sec.booting := some 2}, 70*5940000000, by decide +kernel⟩,
   ⟨{sec.booted := true}, 9, by decide +kernel⟩⟩

end BootSources

namespace OtpWritesAndPeers

def c0 : VtkCmd := { session := 0, seq := 0, code := 0x70, framed := false, frame := 0, path := [], args := [], arrival := 0 }

theorem witness :
    (∃ (s : State) (g : Nat) (bytes : List Byte) (c : VtkCmd), s.sec.job = some (.settings g bytes, c) ∧ g < 4) ∧
    (∃ (s : State) (c : VtkCmd), s.sec.job = some (.lock, c)) ∧
    (∃ (s : State) (n : Nat) (c : VtkCmd), s.sec.job = some (.rollback n, c)) ∧
    (∃ (s : State) (g : Nat) (n : Nat) (bytes : List Byte) (c : VtkCmd) (j : OtpJob), s.sec.job = some (j, c) ∧ (j = .settings g bytes ∨
      j = .lock ∨ j = .rollback n)) ∧
    (∃ (s : State), s.sec.job = none) ∧
    (∃ (s : State) (r : CalRecord) (c : VtkCmd), s.sec.job = some (.calibration r, c)) :=
  ⟨⟨{sec.job := some (.settings 1 G, c0), sec.begun := 3, sec.gens := [(0,G)]}, 1, G, c0, by decide +kernel⟩,
   ⟨{sec.job := some (.lock, c0), sec.begun := 3, sec.gens := [(0,G)]}, c0, by decide +kernel⟩,
   ⟨{sec.job := some (.rollback 5, c0), sec.begun := 3, sec.gens := [(0,G)]}, 5, c0, by decide +kernel⟩,
   ⟨{sec.job := some (.settings 1 G, c0), sec.begun := 3, sec.gens := [(0,G)]}, 1, 0, G, c0, .settings 1 G, by decide +kernel⟩,
   ⟨{sec.begun := 1, sec.gens := [(0,G)], sec.inForce := some 0}, by decide +kernel⟩,
   ⟨{sec.job := some (.calibration {seq := 3, items := [⟨1,2,3⟩], valid := true}, c0), sec.calA := {seq := 2, valid := true}},
     {seq := 3, items := [⟨1,2,3⟩], valid := true}, c0, by decide +kernel⟩⟩

end OtpWritesAndPeers

namespace ResetsStartsAndSensors

theorem witness :
    (∃ (s : State), s.clock.resetHeld = false) ∧
    (∃ (s : State), let armed := s.on F.KICK_NEXT_START.armed; s.clock.resetHeld = true ∧ armed = true) ∧
    (∃ (s : State) (balls : Nat), let armed := s.on F.KICK_NEXT_START.armed; s.clock.resetHeld = true ∧ armed = false ∧ balls = 3) ∧
    (∃ (s : State) (balls : Nat), let armed := s.on F.KICK_NEXT_START.armed;
      let cause := s.rd F.KICK_RESET_CAUSE.cause; s.clock.resetHeld = true ∧ armed = false ∧ balls < 3 ∧ (cause = 3 ∨ balls ≠ 0)) ∧
    (∃ (s : State) (balls : Nat), let armed := s.on F.KICK_NEXT_START.armed;
      let cause := s.rd F.KICK_RESET_CAUSE.cause; s.clock.resetHeld = true ∧ armed = false ∧ balls = 0 ∧ cause ≠ 3) ∧
    (∃ (s : State), s.on F.CPR_STATUS.bist_busy = true) ∧
    (∃ (s : State), s.power = 2) ∧
    (∃ (s : State), s.power ≠ 2) :=
  ⟨⟨{clock.resetHeld := false}, by decide +kernel⟩,
   ⟨put [(F.KICK_NEXT_START.armed,1),(F.KICK_NEXT_START.profile,2)] {}, by decide +kernel⟩,
   ⟨put [(F.CPR_STATUS.bist_busy,1),(F.KICK_RESET_CAUSE.resets,0xFFFF),(F.ODO_STATUS.kick_valid,1)] {sec.begun := 1, hub.mem := [(1,1#8)]},
     3, by decide +kernel⟩,
   ⟨put [(F.CPR_STATUS.bist_busy,1),(F.KICK_RESET_CAUSE.resets,0xFFF),(F.CPR_STATUS.power,2)] {sec.begun := 1, hub.mem := [(1,1#8)]}, 1,
     by decide +kernel⟩,
   ⟨{sec.begun := 1, hub.mem := [(1,1#8)]}, 0, by decide +kernel⟩,
   ⟨put [(F.CPR_STATUS.bist_busy,1),(F.KICK_RESET_CAUSE.resets,0xFFFF),(F.ODO_STATUS.kick_valid,1)] {sec.begun := 1, hub.mem := [(1,1#8)]},
     by decide +kernel⟩,
   ⟨put [(F.CPR_STATUS.bist_busy,1),(F.KICK_RESET_CAUSE.resets,0xFFF),(F.CPR_STATUS.power,2)] {sec.begun := 1, hub.mem := [(1,1#8)]},
     by decide +kernel⟩,
   ⟨{sec.begun := 1, hub.mem := [(1,1#8)]}, by decide +kernel⟩⟩

end ResetsStartsAndSensors

namespace PowerStatesAndChipFrames

def okc : State := {clock.resetHeld := false}

theorem witness :
    (∃ (v : Nat), v < 3) ∧
    (∃ (s : State), s.clock.stopped = true) ∧
    (∃ (s : State), let k := s.rd F.CPR_STATUS.park_step; let on := s.clock.stopped = false ∧ s.clock.wakePending = false; on ∧ k = 0 ∧
      s.clock.powerReq = some 2 ∧ s.gsState ≠ 5) ∧
    (∃ (s : State), let k := s.rd F.CPR_STATUS.park_step; s.clock.stopped = false ∧ k = 0 ∧ (s.clock.powerReq ≠ some 2 ∨ s.gsState = 5)) ∧
    (∃ (s : State), let k := s.rd F.CPR_STATUS.park_step; k = 1 ∧ (s.pel.handLead = true ∨ (s.locked = true ∧ s.isShadow = false))) ∧
    (∃ (s : State), let k := s.rd F.CPR_STATUS.park_step; let on := s.clock.stopped = false ∧ s.clock.wakePending = false; on ∧ k = 1 ∧
      s.locked = false ∧ s.pel.handLead = false) ∧
    (∃ (s : State), let k := s.rd F.CPR_STATUS.park_step; let on := s.clock.stopped = false ∧ s.clock.wakePending = false; on ∧ k = 2 ∧
      (∀ j, j < 24 → s.headState j = 0)) ∧
    (∃ (s : State) (h : Nat), let k := s.rd F.CPR_STATUS.park_step; k = 2 ∧ h < 24 ∧ s.headState h ≠ 0) ∧
    (∃ (s : State) (t : Nat) (frame : Bool), let k := s.rd F.CPR_STATUS.park_step;
      let on := s.clock.stopped = false ∧ s.clock.wakePending = false; on ∧ k = 3 ∧ s.sb.flush = false ∧ (frame = true ∧
      (s.at t).chipLatch = true)) ∧
    (∃ (s : State) (t : Nat) (frame : Bool), let k := s.rd F.CPR_STATUS.park_step;
      let on := s.clock.stopped = false ∧ s.clock.wakePending = false; on ∧ k = 3 ∧ s.sb.flush = false ∧ (¬ (frame = true ∧
      (s.at t).chipLatch = true))) ∧
    (∃ (s : State), let k := s.rd F.CPR_STATUS.park_step; let on := s.clock.stopped = false ∧ s.clock.wakePending = false; on ∧ k = 4 ∧
      s.gs.parkDue = 0 ∧ s.enginesIdle = true) ∧
    (∃ (s : State), let k := s.rd F.CPR_STATUS.park_step; k = 4 ∧ (s.gs.parkDue ≠ 0 ∨ s.enginesIdle = false)) ∧
    (∃ (s : State), let k := s.rd F.CPR_STATUS.park_step; s.clock.stopped = false ∧ s.clock.wakePending = true ∧ 1 ≤ k ∧
      s.parkStepDone k = true) ∧
    (∃ (s : State) (id : Nat), 160 ≤ id ∧ id < 224 ∧ bit (s.rd64 R.INTC_WAKE_FIELD) (id - 160) = true) ∧
    (∃ (s : State) (id : Nat), 160 ≤ id ∧ id < 224 ∧ bit (s.rd64 R.INTC_WAKE_FIELD) (id - 160) = false) ∧
    (∃ (s : State) (t : Nat) (n : Nat), let now := max s.now t; let on := s.clock.stopped = false ∧ s.clock.wakePending = false;
      let starts := s.gs.chipTf = 0 ∨ (s.on F.ODO_STATUS.released = true ∧ max s.now t = s.chipStart n);
      let runs := s.clock.resetHeld = false ∧ starts ∧ (s.power ≠ 2 ∨ s.clock.waking = true ∧ s.on F.CPR_STATUS.pll_locked = true); ¬ runs) ∧
    (∃ (s : State) (t : Nat) (n : Nat), let now := max s.now t; let on := s.clock.stopped = false ∧ s.clock.wakePending = false;
      let starts := s.gs.chipTf = 0 ∨ (s.on F.ODO_STATUS.released = true ∧ max s.now t = s.chipStart n);
      let runs := s.clock.resetHeld = false ∧ starts ∧ (s.power ≠ 2 ∨ s.clock.waking = true ∧ s.on F.CPR_STATUS.pll_locked = true); runs) ∧
    (∃ (s : State) (t : Nat) (v : Nat) (n : Nat), let now := max s.now t;
      let on := s.clock.stopped = false ∧ s.clock.wakePending = false;
      let starts := s.gs.chipTf = 0 ∨ (s.on F.ODO_STATUS.released = true ∧ max s.now t = s.chipStart n);
      let runs := s.clock.resetHeld = false ∧ starts ∧ (s.power ≠ 2 ∨ s.clock.waking = true ∧ s.on F.CPR_STATUS.pll_locked = true);
      let calm := s.gs.rollback = false ∧ s.tandem.handover = false ∧ s.pelState = 0 ∧ s.pel.joinAsked = false ∧ s.pel.joinFrame = none ∧ s.pel.leaveFrame = none ∧ s.pel.handLead = false ∧ s.sec.newGeneration = false ∧ s.sec.calPending = false; runs ∧
      s.power ≠ 2 ∧ s.clock.powerReq = some v ∧ v < 2 ∧ s.clock.abandoned = false ∧ calm ∧ s.gsState ≠ 4 ∧ s.clock.powerAt < now) ∧
    (∃ (s : State) (t : Nat) (v : Nat) (n : Nat), let now := max s.now t;
      let on := s.clock.stopped = false ∧ s.clock.wakePending = false;
      let starts := s.gs.chipTf = 0 ∨ (s.on F.ODO_STATUS.released = true ∧ max s.now t = s.chipStart n);
      let runs := s.clock.resetHeld = false ∧ starts ∧ (s.power ≠ 2 ∨ s.clock.waking = true ∧ s.on F.CPR_STATUS.pll_locked = true);
      let calm := s.gs.rollback = false ∧ s.tandem.handover = false ∧ s.pelState = 0 ∧ s.pel.joinAsked = false ∧ s.pel.joinFrame = none ∧ s.pel.leaveFrame = none ∧ s.pel.handLead = false ∧ s.sec.newGeneration = false ∧ s.sec.calPending = false; runs ∧
      s.power ≠ 2 ∧ s.clock.powerReq = some v ∧ calm ∧ s.gsState ≠ 4 ∧ now ≤ s.clock.powerAt) ∧
    (∃ (s : State) (t : Nat) (n : Nat), let now := max s.now t; let on := s.clock.stopped = false ∧ s.clock.wakePending = false;
      let starts := s.gs.chipTf = 0 ∨ (s.on F.ODO_STATUS.released = true ∧ max s.now t = s.chipStart n);
      let runs := s.clock.resetHeld = false ∧ starts ∧ (s.power ≠ 2 ∨ s.clock.waking = true ∧ s.on F.CPR_STATUS.pll_locked = true);
      let calm := s.gs.rollback = false ∧ s.tandem.handover = false ∧ s.pelState = 0 ∧ s.pel.joinAsked = false ∧ s.pel.joinFrame = none ∧ s.pel.leaveFrame = none ∧ s.pel.handLead = false ∧ s.sec.newGeneration = false ∧ s.sec.calPending = false; runs ∧
      s.power ≠ 2 ∧ (s.clock.powerReq = none ∨ s.clock.powerReq = some 2) ∧ calm ∧ (s.gsState ≠ 4 ∨ n < s.rd64 R.GS_APPLY_FRAME)) ∧
    (∃ (s : State) (t : Nat) (n : Nat), let now := max s.now t; let on := s.clock.stopped = false ∧ s.clock.wakePending = false;
      let starts := s.gs.chipTf = 0 ∨ (s.on F.ODO_STATUS.released = true ∧ max s.now t = s.chipStart n);
      let runs := s.clock.resetHeld = false ∧ starts ∧ (s.power ≠ 2 ∨ s.clock.waking = true ∧ s.on F.CPR_STATUS.pll_locked = true);
      let calm := s.gs.rollback = false ∧ s.tandem.handover = false ∧ s.pelState = 0 ∧ s.pel.joinAsked = false ∧ s.pel.joinFrame = none ∧ s.pel.leaveFrame = none ∧ s.pel.handLead = false ∧ s.sec.newGeneration = false ∧ s.sec.calPending = false;
      let counted : State := { s.at t with gs.chipFrame := n, sb.keyFrames := s.sb.keyFrames + 1 }; runs ∧ s.power ≠ 2 ∧
      (s.clock.powerReq = none ∨ s.clock.powerReq = some 2) ∧ calm ∧ s.gsState = 4 ∧ s.rd64 R.GS_APPLY_FRAME ≤ n ∧
      counted.onTime (s.rd64 R.GS_APPLY_FRAME) = true) ∧
    (∃ (s : State) (t : Nat) (n : Nat), let now := max s.now t; let on := s.clock.stopped = false ∧ s.clock.wakePending = false;
      let starts := s.gs.chipTf = 0 ∨ (s.on F.ODO_STATUS.released = true ∧ max s.now t = s.chipStart n);
      let runs := s.clock.resetHeld = false ∧ starts ∧ (s.power ≠ 2 ∨ s.clock.waking = true ∧ s.on F.CPR_STATUS.pll_locked = true);
      let calm := s.gs.rollback = false ∧ s.tandem.handover = false ∧ s.pelState = 0 ∧ s.pel.joinAsked = false ∧ s.pel.joinFrame = none ∧ s.pel.leaveFrame = none ∧ s.pel.handLead = false ∧ s.sec.newGeneration = false ∧ s.sec.calPending = false;
      let counted : State := { s.at t with gs.chipFrame := n, sb.keyFrames := s.sb.keyFrames + 1 }; runs ∧ s.power ≠ 2 ∧
      (s.clock.powerReq = none ∨ s.clock.powerReq = some 2) ∧ calm ∧ s.gsState = 4 ∧ s.rd64 R.GS_APPLY_FRAME ≤ n ∧
      ¬ (counted.onTime (s.rd64 R.GS_APPLY_FRAME) = true)) ∧
    (∃ (s : State) (t : Nat) (v : Nat) (n : Nat) (h : Nat), let now := max s.now t;
      let on := s.clock.stopped = false ∧ s.clock.wakePending = false;
      let starts := s.gs.chipTf = 0 ∨ (s.on F.ODO_STATUS.released = true ∧ max s.now t = s.chipStart n);
      let runs := s.clock.resetHeld = false ∧ starts ∧ (s.power ≠ 2 ∨ s.clock.waking = true ∧ s.on F.CPR_STATUS.pll_locked = true);
      let calm := s.gs.rollback = false ∧ s.tandem.handover = false ∧ s.pelState = 0 ∧ s.pel.joinAsked = false ∧ s.pel.joinFrame = none ∧ s.pel.leaveFrame = none ∧ s.pel.handLead = false ∧ s.sec.newGeneration = false ∧ s.sec.calPending = false; runs ∧
      s.power = 2 ∧ calm ∧ s.gsState ≠ 4 ∧ s.clock.heldHeads = [(h, some v)] ∧ s.ing.queue = [] ∧ s.ing.writes = []) :=
  ⟨⟨1, by decide +kernel⟩,
   ⟨{clock.resetHeld := false, clock.powerReq := some 2, clock.stopped := true}, by decide +kernel⟩,
   ⟨{clock.resetHeld := false, clock.powerReq := some 2}, by decide +kernel⟩,
   ⟨put [(F.GS_STATUS.state,4)] (putR ((R.GS_APPLY_FRAME,5#32)::(R.BEAM_TF 0,16800000#32)::(headRegs 0).map fun p => (p.1,
     BitVec.ofNat 32 p.2)) {clock.resetHeld := false, gs.passedAt := 30000000000000, gs.present := 4, gs.chipTf := 100, gs.staging := storeOf ([0,0,0,1] ++ List.replicate 60 0 ++ packBody [sec 3 0 false (regsW 0x40100000 (headRegs 0))])}),
     by decide +kernel⟩,
   ⟨put [(F.CPR_STATUS.park_step,1),(F.TANDEM_STATUS.state,3),(F.TANDEM_STATUS.role,1),(F.TX_STATUS.state 2,1)] {clock.resetHeld := false, clock.powerReq := some 2},
     by decide +kernel⟩,
   ⟨putR [(R.INTC_WAKE_FIELD,8#32)] (put [(F.CPR_STATUS.park_step,1)] okc), by decide +kernel⟩,
   ⟨put [(F.CPR_STATUS.park_step,2),(F.TX_STATUS.state 2,0)] {clock.resetHeld := false, clock.powerReq := some 2}, by decide +kernel⟩,
   ⟨put [(F.CPR_STATUS.park_step,2),(F.TX_STATUS.state 2,1)] {clock.resetHeld := false, clock.powerReq := some 2}, 2, by decide +kernel⟩,
   ⟨put [(F.CPR_STATUS.park_step,3)] {clock.resetHeld := false, gs.present := 2^28, cores := [(2,{})]}, 9, true, by decide +kernel⟩,
   ⟨put [(F.CPR_STATUS.park_step,3)] {clock.resetHeld := false, gs.present := 2^28, cores := [(2,{})]}, 9, false, by decide +kernel⟩,
   ⟨put [(F.CPR_STATUS.park_step,4),(F.TANDEM_STATUS.state,3)] {clock.resetHeld := false, gs.present := 2^28+2, cores := [(2,{})]},
     by decide +kernel⟩,
   ⟨put [(F.CPR_STATUS.park_step,4)] {clock.resetHeld := false, gs.parkDue := 1}, by decide +kernel⟩,
   ⟨put [(F.CPR_STATUS.park_step,1),(F.TX_STATUS.state 2,1)] {clock.resetHeld := false, clock.powerReq := some 2, clock.wakePending := true},
     by decide +kernel⟩,
   ⟨putR [(R.INTC_WAKE_FIELD,8#32)] (put [(F.CPR_STATUS.park_step,1)] okc), 163, by decide +kernel⟩,
   ⟨put [(F.CPR_STATUS.power,2),(F.CPR_STATUS.pll_locked,1)] {clock.resetHeld := false, clock.waking := true, clock.heldHeads := [(2,some 1)], clock.heldPower := some 1},
     163, by decide +kernel⟩,
   ⟨{clock.resetHeld := true}, 9, 5, by decide +kernel⟩,
   ⟨put [(F.GS_STATUS.state,4)] (putR ((R.GS_APPLY_FRAME,5#32)::(R.BEAM_TF 0,16800000#32)::(headRegs 0).map fun p => (p.1,
     BitVec.ofNat 32 p.2)) {clock.resetHeld := false, gs.passedAt := 30000000000000, gs.present := 4, gs.chipTf := 100, gs.staging := storeOf ([0,0,0,1] ++ List.replicate 60 0 ++ packBody [sec 3 0 false (regsW 0x40100000 (headRegs 0))])}),
     500, 5, by decide +kernel⟩,
   ⟨{clock.resetHeld := false, clock.powerReq := some 1}, 9, 1, 5, by decide +kernel⟩,
   ⟨{clock.resetHeld := false, clock.powerReq := some 1, clock.powerAt := 10}, 9, 1, 5, by decide +kernel⟩,
   ⟨putR [(R.INTC_WAKE_FIELD,8#32)] (put [(F.CPR_STATUS.park_step,1)] okc), 9, 5, by decide +kernel⟩,
   ⟨put [(F.GS_STATUS.state,4)] {clock.resetHeld := false, gs.passedAt := 3}, 9, 5, by decide +kernel⟩,
   ⟨put [(F.GS_STATUS.state,4)] (putR ((R.GS_APPLY_FRAME,5#32)::(R.BEAM_TF 0,16800000#32)::(headRegs 0).map fun p => (p.1,
     BitVec.ofNat 32 p.2)) {clock.resetHeld := false, gs.passedAt := 30000000000000, gs.present := 4, gs.chipTf := 100, gs.staging := storeOf ([0,0,0,1] ++ List.replicate 60 0 ++ packBody [sec 3 0 false (regsW 0x40100000 (headRegs 0))])}),
     500, 5, by decide +kernel⟩,
   ⟨put [(F.CPR_STATUS.power,2),(F.CPR_STATUS.pll_locked,1)] {clock.resetHeld := false, clock.waking := true, clock.heldHeads := [(2,some 1)], clock.heldPower := some 1},
     9, 1, 5, 2, by decide +kernel⟩⟩

end PowerStatesAndChipFrames

end Sys2Proof.Tests
end

section
/-! The colour widening and the alpha weight of R153: the model's arithmetic is the spec's shift formula. -/

namespace Sys2Proof.Machine

/-- The two low bits that the left shift clears take the component's two top bits, so the sum is the bitwise or of R153. -/
theorem widen8_eq_shiftLeft_or_shiftRight {c : Nat} (h : c < 256) : widen8 c = c <<< 2 ||| c >>> 6 := by
  have topBits : c >>> 6 < 2 ^ 2 := by rw [Nat.shiftRight_eq_div_pow]; omega
  rw [← Nat.shiftLeft_add_eq_or_of_lt topBits, Nat.shiftLeft_eq, Nat.shiftRight_eq_div_pow]
  rfl

theorem weight_eq_add_shiftRight (a : Nat) : weight a = a + a >>> 7 := by
  rw [Nat.shiftRight_eq_div_pow]
  rfl

theorem weight_le_256 {a : Nat} (h : a < 256) : weight a ≤ 256 := by
  unfold weight
  omega

/-- Settles O5, from the shift formulas of a component and of a weight; the colour word's clause is the definition of `widen`. -/
theorem widenedComponents : Obligations.WidenedComponents :=
  ⟨fun _ h => widen8_eq_shiftLeft_or_shiftRight h, rfl, rfl, rfl, fun _ => rfl,
    fun a h => ⟨weight_eq_add_shiftRight a, weight_le_256 h⟩⟩

end Sys2Proof.Machine
end

section
/-! What raising a fault leaves as it was: the interrupt controller, and every register outside the blocks of the fault collector and
of the units that its actions reach (R409–R417). -/

namespace Sys2Proof.Machine

/-- The 64 KiB blocks whose registers the raising of a fault may write: Groupset controller, Saddlebag, fault collector, and clocks
and power. -/
def faultBlocks : List Nat := [0x4000, 0x4038, 0x4039, 0x403C]

/-- From `s` to `u` the interrupt controller and every register outside `faultBlocks` are unchanged. -/
structure FaultLeaves (s u : State) : Prop where
  intc : u.intc = s.intc
  reg : ∀ a, a / 2 ^ 16 ∉ faultBlocks → u.reg a = s.reg a

theorem faultFloor_eq_none {source : Nat} (h : 388 ≤ source) : faultFloor source = none := by
  unfold faultFloor
  iterate 19 rw [if_neg (by omega)]

/-- A source that can be raised has its register in the block of the fault collector. -/
theorem FAULT_SRC_mem_faultBlocks {source c : Nat} (h : faultFloor source = some c) : R.FAULT_SRC source / 2 ^ 16 ∈ faultBlocks := by
  have inTable : source < 388 := by
    by_contra outside
    rw [faultFloor_eq_none (Nat.le_of_not_lt outside)] at h
    contradiction
  have block : R.FAULT_SRC source / 2 ^ 16 = 0x4039 := by unfold R.FAULT_SRC; omega
  rw [block]
  decide

namespace FaultLeaves

theorem refl (s : State) : FaultLeaves s s := ⟨rfl, fun _ _ => rfl⟩

variable {z s u v : State}

theorem of_same (h : FaultLeaves z s) (hi : u.intc = s.intc) (hr : u.regs = s.regs) : FaultLeaves z u :=
  ⟨hi.trans h.intc, fun a ha => (State.reg_congr hr a).trans (h.reg a ha)⟩

theorem ite {c : Prop} [Decidable c] (hu : FaultLeaves z u) (hv : FaultLeaves z v) : FaultLeaves z (if c then u else v) := by
  split
  · exact hu
  · exact hv

/-- A further update made under a condition. -/
theorem whenever {c : Prop} [Decidable c] {f : State → State} (h : FaultLeaves z s)
    (hf : ∀ x, FaultLeaves z x → FaultLeaves z (f x)) : FaultLeaves z (if c then f s else s) :=
  (hf s h).ite h

theorem foldl {α : Type} {f : State → α → State} (hf : ∀ x a, FaultLeaves z x → FaultLeaves z (f x a)) (l : List α)
    (h : FaultLeaves z s) : FaultLeaves z (l.foldl f s) := by
  induction l generalizing s with
  | nil => exact h
  | cons a l ih => exact ih (hf s a h)

theorem setReg (h : FaultLeaves z s) {a : Nat} (w : Word) (ha : a / 2 ^ 16 ∈ faultBlocks) : FaultLeaves z (s.setReg a w) :=
  ⟨h.intc, fun b hb =>
    have apart : b ≠ a := fun e => hb (by rwa [e])
    (State.reg_setReg_other s w apart).trans (h.reg b hb)⟩

theorem wr (h : FaultLeaves z s) {f : Fld} (n : Nat) (hf : f.reg / 2 ^ 16 ∈ faultBlocks) : FaultLeaves z (s.wr f n) := h.setReg _ hf

theorem satInc (h : FaultLeaves z s) {f : Fld} {n : Nat} (hf : f.reg / 2 ^ 16 ∈ faultBlocks) : FaultLeaves z (s.satInc f n) := h.wr _ hf

theorem holdTakeover (h : FaultLeaves z s) (head cause since : Nat) : FaultLeaves z (s.holdTakeover head cause since) :=
  h.ite (h.of_same rfl rfl)

theorem faultTakeovers (h : FaultLeaves z s) (source chip : Nat) : FaultLeaves z (s.faultTakeovers source chip) :=
  foldl (fun x a hx => hx.holdTakeover a 1 x.now) _ h

theorem archive (h : FaultLeaves z s) (kind head time : Nat) (payload : List Byte) :
    FaultLeaves z (s.archive kind head time payload) :=
  h.of_same rfl rfl

theorem freezeSpan (h : FaultLeaves z s) (start stop segCount : Nat) : FaultLeaves z (s.freezeSpan start stop segCount) := by
  have refused : FaultLeaves z (s.set1 F.SB_STATUS.freeze_refused) := h.wr 1 (by decide)
  unfold State.freezeSpan
  dsimp only
  split
  · exact refused
  · refine refused.ite (archive (wr ?_ _ (by decide)) _ _ _ _)
    exact h.of_same rfl rfl

theorem autoFreeze (h : FaultLeaves z s) : FaultLeaves z s.autoFreeze := (h.freezeSpan _ _ _).ite h

theorem abandonApply (h : FaultLeaves z s) : FaultLeaves z s.abandonApply :=
  ite (((h.wr (f := F.GS_STATUS.last_result) 3 (by decide)).wr (f := F.GS_REJECT.reason) 0 (by decide)).of_same rfl rfl) h

theorem releaseNets (h : FaultLeaves z s) : FaultLeaves z s.releaseNets := by
  unfold State.releaseNets
  split
  · exact h.of_same rfl rfl
  · exact h.of_same rfl rfl

theorem stopSteps (h : FaultLeaves z s) : FaultLeaves z s.stopSteps :=
  (h.abandonApply.releaseNets.wr (f := F.CPR_STATUS.park_step) 0 (by decide)).of_same rfl rfl

theorem setFaultQueue (h : FaultLeaves z s) (q : List FaultAct) : FaultLeaves z (s.setFaultQueue q) :=
  (h.of_same (u := { s with fault.queue := q }) rfl rfl).wr _ (by decide)

theorem classSteps (h : FaultLeaves z s) (source cls : Nat) : FaultLeaves z (s.classSteps source cls) := by
  unfold State.classSteps
  have degraded : FaultLeaves z (if 1 ≤ cls then s.set1 F.FAULT_STATUS.degraded else s) :=
    h.whenever fun _ hx => hx.wr (f := F.FAULT_STATUS.degraded) 1 (by decide)
  exact (degraded.whenever fun x hx => (hx.ite (hx.faultTakeovers source x.twinIndex)).autoFreeze).whenever fun _ hx => hx.stopSteps

theorem startAction (h : FaultLeaves z s) (a : FaultAct) : FaultLeaves z (s.startAction a) := by
  have shown := h.wr (f := F.FAULT_STATUS.classes) (setBit (s.rd F.FAULT_STATUS.classes) a.cls true) (by decide)
  have acted := shown.ite (c := a.started = true) (shown.classSteps a.source a.cls)
  have recorded := acted.whenever (c := a.cls = 3) (f := fun x => { x with fault.stopSource := a.source }) fun _ hx => hx.of_same rfl rfl
  exact recorded.of_same rfl rfl

theorem queueFault (h : FaultLeaves z s) (a : FaultAct) : FaultLeaves z (s.queueFault a) :=
  ite ((h.satInc (by decide)).setFaultQueue _) (ite ((h.satInc (by decide)).setFaultQueue _) (h.satInc (by decide)))

theorem preempt (h : FaultLeaves z s) (old a : FaultAct) : FaultLeaves z (s.preempt old a) :=
  ((h.ite (h.satInc (f := F.FAULT_QUEUE.overflow) (n := 1) (by decide))).setFaultQueue _).startAction a

theorem setQuiet (h : FaultLeaves z s) (c : Nat) (e : Option Nat) : FaultLeaves z (s.setQuiet c e) := h.of_same rfl rfl

theorem restartQuiet (h : FaultLeaves z s) (k : Nat) : FaultLeaves z (s.restartQuiet k) :=
  foldl (fun _ _ hx => (hx.setQuiet _ _).ite hx) _ h

theorem actOn (h : FaultLeaves z s) (a : FaultAct) : FaultLeaves z (s.actOn a) := by
  have quiet := h.restartQuiet a.cls
  unfold State.actOn
  dsimp only
  split
  · exact quiet.startAction a
  · exact (quiet.preempt _ a).ite (quiet.queueFault a)

theorem latchFault (h : FaultLeaves z s) (chip source cls : Nat) (broken : Bool) :
    FaultLeaves z (s.latchFault chip source cls broken) := by
  have named := (((h.wr (f := F.FAULT_LAST.cls) cls (by decide)).wr (f := F.FAULT_LAST.broken) (b2n broken) (by decide)).wr
    (f := F.FAULT_LAST.chip) chip (by decide)).wr (f := F.FAULT_LAST.source) source (by decide)
  exact (named.setReg _ (by decide)).setReg _ (by decide)

theorem reportFault (h : FaultLeaves z s) (source cls : Nat) (broken : Bool) : FaultLeaves z (s.reportFault source cls broken) :=
  ite (ite (h.of_same rfl rfl) (h.of_same rfl rfl)) (h.latchFault _ _ _ _)

theorem raise (h : FaultLeaves z s) (source : Nat) : FaultLeaves z (s.raise source) := by
  unfold State.raise State.raiseAs
  split
  next => exact h
  next floor known =>
    have block : R.FAULT_SRC source / 2 ^ 16 ∈ faultBlocks := FAULT_SRC_mem_faultBlocks known
    have latched := ((h.wr (f := F.FAULT_SRC.state source) 1 block).wr (f := F.FAULT_SRC.latched source) 1 block).satInc
      (f := F.FAULT_SRC.count source) (n := 1) block
    exact h.ite ((latched.reportFault _ _ _).actOn _)

end FaultLeaves

end Sys2Proof.Machine
end

section
/-! An ignored write (R33–R37): its count, reason and offset, and what it leaves as it was. -/

namespace Sys2Proof.Machine

/-- A saturating count reads one step of its addition, cut at the field's largest value. -/
theorem State.rd_satInc_same (s : State) (f : Fld) (n : Nat) (h : f.hi < 32) : (s.satInc f n).rd f = min (s.rd f + n) f.max := by
  have fits : min (s.rd f + n) f.max < 2 ^ (f.hi + 1 - f.lo) :=
    (Nat.min_le_right _ _).trans_lt (Nat.sub_lt (Nat.two_pow_pos _) Nat.one_pos)
  rw [State.satInc, State.rd_wr_same _ _ _ h, Nat.mod_eq_of_lt fits]

/-- What an ignored write leaves in U_IGNORED_WRITES of its block (R35). -/
def State.noteIgnored (s : State) (base off reason : Nat) : State :=
  ((s.satInc (F.U_IGNORED_WRITES.count base)).wr (F.U_IGNORED_WRITES.last_reason base) reason).wr
    (F.U_IGNORED_WRITES.last_offset base) (off / 4)

variable (s : State) (base off reason : Nat)

/-- An ignored write is the note of it, and at most a raised notice. -/
theorem State.ignoreWrite_faultLeaves : FaultLeaves (s.noteIgnored base off reason) (s.ignoreWrite base off reason) :=
  ((FaultLeaves.refl _).raise _).ite (FaultLeaves.refl _)

theorem State.ignoreWrite_intc : (s.ignoreWrite base off reason).intc = s.intc := (s.ignoreWrite_faultLeaves base off reason).intc

/-- A register of no fault block that is not the count of ignored writes reads as before. -/
theorem State.reg_ignoreWrite_other {a : Nat} (hb : a / 2 ^ 16 ∉ faultBlocks) (ha : a ≠ R.U_IGNORED_WRITES base) :
    (s.ignoreWrite base off reason).reg a = s.reg a := by
  have noted : (s.noteIgnored base off reason).reg a = s.reg a :=
    (State.reg_setReg_other _ _ ha).trans ((State.reg_setReg_other _ _ ha).trans (State.reg_setReg_other _ _ ha))
  exact ((s.ignoreWrite_faultLeaves base off reason).reg a hb).trans noted

section
variable {base}
variable (hb : R.U_IGNORED_WRITES base / 2 ^ 16 ∉ faultBlocks)
include hb

/-- The raised notice touches no field of the count of ignored writes. -/
theorem State.rd_ignoreWrite_of_noteIgnored {f : Fld} (hf : f.reg = R.U_IGNORED_WRITES base) :
    (s.ignoreWrite base off reason).rd f = (s.noteIgnored base off reason).rd f := by
  rw [State.rd, State.rd, (s.ignoreWrite_faultLeaves base off reason).reg f.reg (hf ▸ hb)]

theorem State.rd_ignoreWrite_count : (s.ignoreWrite base off reason).rd (F.U_IGNORED_WRITES.count base)
    = min (s.rd (F.U_IGNORED_WRITES.count base) + 1) 0xFFFF := by
  rw [s.rd_ignoreWrite_of_noteIgnored off reason hb rfl, State.noteIgnored,
    State.rd_wr_apart, State.rd_wr_apart, State.rd_satInc_same]
  · rfl
  all_goals simp [F.U_IGNORED_WRITES.count, F.U_IGNORED_WRITES.last_reason, F.U_IGNORED_WRITES.last_offset]

theorem State.rd_ignoreWrite_last_reason :
    (s.ignoreWrite base off reason).rd (F.U_IGNORED_WRITES.last_reason base) = reason % 4 := by
  rw [s.rd_ignoreWrite_of_noteIgnored off reason hb rfl, State.noteIgnored,
    State.rd_wr_apart, State.rd_wr_same]
  · rfl
  all_goals simp [F.U_IGNORED_WRITES.last_reason, F.U_IGNORED_WRITES.last_offset]

theorem State.rd_ignoreWrite_last_offset :
    (s.ignoreWrite base off reason).rd (F.U_IGNORED_WRITES.last_offset base) = off / 4 % 2 ^ 14 := by
  rw [s.rd_ignoreWrite_of_noteIgnored off reason hb rfl, State.noteIgnored, State.rd_wr_same]
  · rfl
  · simp [F.U_IGNORED_WRITES.last_offset]

end

end Sys2Proof.Machine
end

section
/-! The claim and end registers of a core, accessed by other masters (R364, R369). -/

namespace Sys2Proof.Machine

/-! Claims -/

/-- What a read of INTC_CLAIM(k) shows master `m` where core k's own read returns `i`. -/
def claimAnswer (k i : Nat) (m : Master) : Output :=
  .rimRead m (R.INTC_CLAIM k) (BitVec.ofNat 32 (if m = .core k then i else 1023)) false

theorem claimAnswer_other {k : Nat} (i : Nat) {m : Master} (h : m ≠ .core k) :
    claimAnswer k i m = .rimRead m (R.INTC_CLAIM k) 1023#32 false := by
  rw [claimAnswer, if_neg h]

/-- Every other master among the readers is shown 1023. -/
theorem rimRead_1023_mem_claimAnswers {k : Nat} {m : Master} {ms : List Master} (h : m ≠ .core k) (hm : m ∈ ms) (i : Nat)
    (out : List Output) : Output.rimRead m (R.INTC_CLAIM k) 1023#32 false ∈ (ms.map (claimAnswer k i)).reverse ++ out :=
  List.mem_append_left _ (List.mem_reverse.mpr (List.mem_map.mpr ⟨m, hm, claimAnswer_other i h⟩))

theorem State.foldl_emit (s : State) (f : Master → Output) (ms : List Master) :
    ms.foldl (fun s m => s.emit (f m)) s = { s with out := (ms.map f).reverse ++ s.out } := by
  induction ms generalizing s with
  | nil => rfl
  | cons m ms ih => rw [List.foldl_cons, ih]; simp [State.emit]

/-- Without its core among them, reads of INTC_CLAIM(k) only answer. -/
theorem State.readClaim_of_not_mem (s : State) {k : Nat} {ms : List Master} (h : Master.core k ∉ ms) :
    s.readClaim k ms = { s with out := (ms.map (claimAnswer k 1023)).reverse ++ s.out } := by
  have absent : ms.contains (.core k) = false := by simpa using h
  simp only [State.readClaim, absent]
  exact s.foldl_emit (claimAnswer k 1023) ms

/-- With its core among them, they answer and the core claims. -/
theorem State.readClaim_of_mem (s : State) {k : Nat} {ms : List Master} (h : Master.core k ∈ ms) :
    s.readClaim k ms = { (s.claim k).2 with out := (ms.map (claimAnswer k (s.claim k).1)).reverse ++ (s.claim k).2.out } := by
  have present : ms.contains (.core k) = true := by simpa using h
  simp only [State.readClaim, present]
  exact State.foldl_emit _ (claimAnswer k (s.claim k).1) ms

@[simp] theorem State.refreshLevel_out (s : State) (i : Nat) : (s.refreshLevel i).out = s.out := by
  unfold State.refreshLevel
  split
  · rfl
  · rfl

@[simp] theorem State.activate_out (s : State) (k i : Nat) : (s.activate k i).out = s.out := by
  unfold State.activate
  split
  · rfl
  · dsimp only
    split
    · rfl
    · exact State.refreshLevel_out _ i

@[simp] theorem State.setStack_out (s : State) (k : Nat) (st : List (Nat × Nat)) : (s.setStack k st).out = s.out := rfl

/-- A claim sends nothing by itself. -/
@[simp] theorem State.claim_out (s : State) (k : Nat) : (s.claim k).2.out = s.out := by
  unfold State.claim
  split
  · rfl
  · dsimp only
    split
    · simp
    · simp

theorem exec_intcClaimRead (t k : Nat) (ms : List Master) (s : State) :
    exec (.intcClaimRead t k ms) s = .next ((s.at t).readClaim k ms) := rfl

theorem intcClaimRead_without_core (s : State) (t : Nat) {k : Nat} {ms : List Master} (h : Master.core k ∉ ms) :
    Answers (exec (.intcClaimRead t k ms) s) fun u =>
      (∀ n ∈ ms, Output.rimRead n (R.INTC_CLAIM k) 1023#32 false ∈ u.out) ∧ { u with out := s.out } = s.at t := by
  rw [exec_intcClaimRead, State.readClaim_of_not_mem _ h]
  refine ⟨_, rfl, fun n hn => ?_, by rw [← State.at_out s t]⟩
  have other : n ≠ .core k := fun e => h (e ▸ hn)
  exact rimRead_1023_mem_claimAnswers other hn _ _

theorem intcClaimRead_beside_core (s : State) (t : Nat) {k : Nat} {m : Master} {ms : List Master} (hm : m ≠ .core k)
    (hc : Master.core k ∈ ms) (hs : m ∈ ms) :
    Answers (exec (.intcClaimRead t k ms) s) fun u =>
      Output.rimRead m (R.INTC_CLAIM k) 1023#32 false ∈ u.out ∧ { u with out := s.out } = ((s.at t).claim k).2 := by
  rw [exec_intcClaimRead, State.readClaim_of_mem _ hc]
  have silent : ((s.at t).claim k).2.out = s.out := by rw [State.claim_out, State.at_out]
  exact ⟨_, rfl, rimRead_1023_mem_claimAnswers hm hs _ _, by rw [← silent]⟩

/-! Ends -/

/-- From `s` to `u`, a write at address `a` was counted as ignored with reason encoding, and neither the interrupt controller nor
the sources nor the fast claim of core k changed. -/
def IntcWriteIgnored (s u : State) (k a : Nat) : Prop :=
  u.rd (F.U_IGNORED_WRITES.count 0x4035_0000) = min (s.rd (F.U_IGNORED_WRITES.count 0x4035_0000) + 1) 0xFFFF
    ∧ u.rd (F.U_IGNORED_WRITES.last_reason 0x4035_0000) = 0
    ∧ u.rd (F.U_IGNORED_WRITES.last_offset 0x4035_0000) = (a - 0x4035_0000) / 4
    ∧ u.intc = s.intc ∧ (∀ i, i < 1024 → u.reg (R.INTC_SRC i) = s.reg (R.INTC_SRC i))
    ∧ u.reg (R.INTC_FAST_ID k) = s.reg (R.INTC_FAST_ID k)

theorem not_mem_faultBlocks_of_intc {a : Nat} (lo : 0x4035_0000 ≤ a) (hi : a < 0x4036_0000) : a / 2 ^ 16 ∉ faultBlocks := by
  have block : a / 2 ^ 16 = 0x4035 := by omega
  rw [block]
  decide

theorem intcWriteIgnored_ignoreWrite (s : State) (t : Nat) {k a : Nat} (hk : k < 32) (ha : a < 0x4036_0000) :
    IntcWriteIgnored s ((s.at t).ignoreWrite 0x4035_0000 (a - 0x4035_0000) 0) k a := by
  have own : R.U_IGNORED_WRITES 0x4035_0000 / 2 ^ 16 ∉ faultBlocks := by decide
  have kept : ∀ r, 0x4035_1000 ≤ r → r < 0x4036_0000 →
      ((s.at t).ignoreWrite 0x4035_0000 (a - 0x4035_0000) 0).reg r = s.reg r := fun r lo hi => by
    have apart : r ≠ R.U_IGNORED_WRITES 0x4035_0000 := by unfold R.U_IGNORED_WRITES; omega
    rw [State.reg_ignoreWrite_other _ _ _ _ (not_mem_faultBlocks_of_intc (by omega) hi) apart, State.reg_at]
  refine ⟨?_, ?_, ?_, ?_, fun i hi => kept _ ?_ ?_, kept _ ?_ ?_⟩
  · rw [State.rd_ignoreWrite_count _ _ _ own, State.rd_at]
  · rw [State.rd_ignoreWrite_last_reason _ _ _ own]
  · rw [State.rd_ignoreWrite_last_offset _ _ _ own]; omega
  · rw [State.ignoreWrite_intc, State.at_intc]
  all_goals simp only [R.INTC_SRC, R.INTC_FAST_ID]; omega

theorem exec_intcEoiWrite_other (t id : Nat) {k : Nat} {m : Master} (h : m ≠ .core k) (s : State) :
    exec (.intcEoiWrite t k id m) s = .next ((s.at t).ignoreWrite 0x4035_0000 (R.INTC_EOI k - 0x4035_0000) 0) :=
  congrArg _ (if_neg h)

theorem exec_intcFastEoiWrite_other (t : Nat) {k : Nat} {m : Master} (h : m ≠ .core k) (s : State) :
    exec (.intcFastEoiWrite t k m) s = .next ((s.at t).ignoreWrite 0x4035_0000 (R.INTC_FAST_EOI k - 0x4035_0000) 0) :=
  congrArg _ (if_neg h)

/-- Settles O6: an end written by another master is an ignored write, and a claim read by it only answers. -/
theorem claimsOfAnotherCore : Obligations.ClaimsOfAnotherCore := by
  intro s t k id m ms hk hm ignored
  have eoiInBlock : R.INTC_EOI k < 0x4036_0000 := by unfold R.INTC_EOI; omega
  have fastEoiInBlock : R.INTC_FAST_EOI k < 0x4036_0000 := by unfold R.INTC_FAST_EOI; omega
  exact ⟨⟨_, exec_intcEoiWrite_other t id hm s, intcWriteIgnored_ignoreWrite s t hk eoiInBlock⟩,
    ⟨_, exec_intcFastEoiWrite_other t hm s, intcWriteIgnored_ignoreWrite s t hk fastEoiInBlock⟩,
    intcClaimRead_without_core s t, intcClaimRead_beside_core s t hm⟩

end Sys2Proof.Machine
end
